-- ==== Sys2Proof/Word.lean ====
section
/-!
DEFINITION. The word types of the MHX-1216 and nothing else.
-/

namespace Sys2Proof

/-- A scalar register or an address while it is computed (R56, R116). -/
abbrev Word := BitVec 64

/-- The smallest addressable unit of memory (R2). -/
abbrev Byte := BitVec 8

end Sys2Proof
end

