-- ==== Sys2Proof/Syntax.lean ====
section
/-!
DEFINITION. The instructions of the MHX-1216: one constructor for each row of the opcode table, whose arguments are
the row's fields in the table's order and widths. The rows with operand fields come first, then the encoded rows
without one, then the rows that name a step of the machine and have no word of their own. Which pending thing such a
step is about, and what the outside of the machine supplies to it, stands in a `Cue` beside it.
-/

namespace Sys2Proof

/-- A firmware bundle: its bytes, in the layout of R395. -/
structure Bundle where
  image : List (BitVec 8) := []
  deriving DecidableEq, Repr, Inhabited

/-- What power-on finds outside the model: which pairs pass self-test (R407), whether die 0's physically unclonable
function passes its own check (R410), and the CXL ports that face a host (R401). -/
structure Boot where
  healthy   : BitVec 12
  pufOk     : Bool
  hostPorts : BitVec 8
  deriving DecidableEq, Repr, Inhabited

/-- A register of a slot or of its core as the debug path names it, a wide one word by word (R9, R194, R399). -/
inductive DebugReg
  | pc
  | scalar (n : Fin 32)
  | preds
  | mask (n : Fin 8)
  | cap (n : Fin 16) (high : Bool)
  | vector (n word : Fin 32)
  | tile (n : Fin 8) (word : Fin 2048)
  | acc (n : Fin 2) (word : Fin 8192)
  deriving DecidableEq, Repr, Inhabited

/-- A request on the debug path over the management port (R399). -/
inductive DebugRequest
  | readCsr (core slot csr : Nat)
  | readReg (core slot : Nat) (reg : DebugReg)
  | writeReg (core slot : Nat) (reg : DebugReg) (v : BitVec 64)
  | writeCsr (core slot csr : Nat) (v : BitVec 64)
  | readMem (asid addr : Nat)
  | writeMem (asid addr : Nat) (v : BitVec 8)
  | readCounter (rcb index : Nat)
  | readPad (cluster offset : Nat)
  | writePad (cluster offset : Nat) (v : BitVec 8)
  | haltCore (core : Nat)
  | resumeCore (core : Nat)
  deriving DecidableEq, Repr, Inhabited

/-- A system-window access that reaches this module's ingress port from another module (R403). -/
inductive WindowAccess
  | load (va size dom : Nat)
  | store (va size dom : Nat) (v : BitVec 64)
  | rmw (va size dom : Nat) (aop : Nat) (v : BitVec 64)
  | cas (va size dom : Nat) (cmp v : BitVec 64)
  | cast (va size dom : Nat) (aop : Option Nat) (v : BitVec 64)
  | barrier (core ctx round tag : Nat) (launch : BitVec 64)
  | nred (core ctx op tag : Nat) (v launch : BitVec 64)
  deriving DecidableEq, Repr, Inhabited

/-- A host's CXL.mem access (R389), of 1, 2, 4 or 8 bytes at a device virtual address of address space 0 (R370). -/
inductive HostAccess
  | load (va size : Nat)
  | store (va size : Nat) (v : BitVec 64)
  deriving DecidableEq, Repr, Inhabited

/-- What system software gives a hart it starts or restarts: its control block's address, the region control block
of the engine's region, and the microcode's entry within `c0` (R215, R216). -/
structure HartLaunch where
  block : Nat
  rcb   : Nat
  entry : Nat
  deriving DecidableEq, Repr, Inhabited

/-- What a step without a word is about: indices of a pending thing (a core, a cluster, a place in a queue), choices
that the manual leaves open (the lines a slice evicts, bits found flipped in memory), and data from outside. -/
structure Cue where
  a       : Nat := 0
  b       : Nat := 0
  c       : Nat := 0
  evict   : List Nat := []
  flips   : List Nat := []
  flag    : Bool := false
  nonce   : BitVec 256 := 0
  /-- a public key and a signature under it, of a verifier (R397) -/
  key     : BitVec 14344 := 0
  sig     : BitVec 10240 := 0
  boot    : Boot := default
  bundle  : Bundle := default
  debug   : DebugRequest := default
  window  : WindowAccess := default
  host    : HostAccess := default
  hart    : HartLaunch := default
  deriving DecidableEq, Repr, Inhabited

/-- Every row of the opcode table. -/
inductive Instr
  /-- ADD (R116). Writes s[A] + s[B], wrapping modulo 2^64, to s[D]. -/
  | add (d : BitVec 5) (a : BitVec 5) (w : BitVec 1) (b : BitVec 5) (x : BitVec 1)
  /-- SUB (R116). Writes s[A] − s[B] to s[D]. -/
  | sub (d : BitVec 5) (a : BitVec 5) (w : BitVec 1) (b : BitVec 5) (x : BitVec 1)
  /-- AND (R116). Writes the bitwise AND of s[A] and s[B] to s[D]. -/
  | and (d : BitVec 5) (a : BitVec 5) (w : BitVec 1) (b : BitVec 5) (x : BitVec 1)
  /-- OR (R116). Writes the bitwise OR of s[A] and s[B] to s[D]. -/
  | or (d : BitVec 5) (a : BitVec 5) (w : BitVec 1) (b : BitVec 5) (x : BitVec 1)
  /-- XOR (R116). Writes the bitwise XOR of s[A] and s[B] to s[D]. -/
  | xor (d : BitVec 5) (a : BitVec 5) (w : BitVec 1) (b : BitVec 5) (x : BitVec 1)
  /-- ANDN (R116). Writes s[A] AND NOT s[B] to s[D]. -/
  | andn (d : BitVec 5) (a : BitVec 5) (w : BitVec 1) (b : BitVec 5) (x : BitVec 1)
  /-- SHL (R116). Shifts s[A] left by the low six bits of s[B]. -/
  | shl (d : BitVec 5) (a : BitVec 5) (w : BitVec 1) (b : BitVec 5) (x : BitVec 1)
  /-- SHR (R116). Shifts s[A] right with zeros shifted in. -/
  | shr (d : BitVec 5) (a : BitVec 5) (w : BitVec 1) (b : BitVec 5) (x : BitVec 1)
  /-- SRA (R116). Shifts s[A] right with the sign bit shifted in. -/
  | sra (d : BitVec 5) (a : BitVec 5) (w : BitVec 1) (b : BitVec 5) (x : BitVec 1)
  /-- MUL (R116). Writes the low 64 bits of the product, with the result available 8 cycles after issue. -/
  | mul (d : BitVec 5) (a : BitVec 5) (w : BitVec 1) (b : BitVec 5) (x : BitVec 1)
  /-- MULH (R116). Writes the high 64 bits of the signed product. -/
  | mulh (d : BitVec 5) (a : BitVec 5) (w : BitVec 1) (b : BitVec 5) (x : BitVec 1)
  /-- MULHU (R116). Writes the high 64 bits of the unsigned product. -/
  | mulhu (d : BitVec 5) (a : BitVec 5) (w : BitVec 1) (b : BitVec 5) (x : BitVec 1)
  /-- DIV (R117). Signed division truncated toward zero, with defined corner results and no trap. -/
  | div (d : BitVec 5) (a : BitVec 5) (w : BitVec 1) (b : BitVec 5) (x : BitVec 1)
  /-- DIVU (R117). Unsigned division, with all ones returned for a zero divisor. -/
  | divu (d : BitVec 5) (a : BitVec 5) (w : BitVec 1) (b : BitVec 5) (x : BitVec 1)
  /-- REM (R117). Signed remainder, taking the sign of s[A]. -/
  | rem (d : BitVec 5) (a : BitVec 5) (w : BitVec 1) (b : BitVec 5) (x : BitVec 1)
  /-- REMU (R117). Unsigned remainder. -/
  | remu (d : BitVec 5) (a : BitVec 5) (w : BitVec 1) (b : BitVec 5) (x : BitVec 1)
  /-- MIN (R116). Writes the signed minimum of s[A] and s[B]. -/
  | min (d : BitVec 5) (a : BitVec 5) (w : BitVec 1) (b : BitVec 5) (x : BitVec 1)
  /-- MAX (R116). Writes the signed maximum of s[A] and s[B]. -/
  | max (d : BitVec 5) (a : BitVec 5) (w : BitVec 1) (b : BitVec 5) (x : BitVec 1)
  /-- MINU (R116). Writes the unsigned minimum of s[A] and s[B]. -/
  | minu (d : BitVec 5) (a : BitVec 5) (w : BitVec 1) (b : BitVec 5) (x : BitVec 1)
  /-- MAXU (R116). Writes the unsigned maximum of s[A] and s[B]. -/
  | maxu (d : BitVec 5) (a : BitVec 5) (w : BitVec 1) (b : BitVec 5) (x : BitVec 1)
  /-- CLZ (R116). Counts the leading zero bits of s[A], giving 64 for zero. -/
  | clz (d : BitVec 5) (a : BitVec 5) (w : BitVec 1)
  /-- CTZ (R116). Counts the trailing zero bits of s[A], giving 64 for zero. -/
  | ctz (d : BitVec 5) (a : BitVec 5) (w : BitVec 1)
  /-- POPC (R116). Counts the set bits of s[A]. -/
  | popc (d : BitVec 5) (a : BitVec 5) (w : BitVec 1)
  /-- SEXT (R116). Sign-extends s[A] from 8, 16 or 32 bits, with the size given by a code in field B. -/
  | sext (d : BitVec 5) (a : BitVec 5) (w : BitVec 1) (n : BitVec 5)
  /-- SELP (R116). Selects s[A] or s[B] according to predicate p[N]. -/
  | selp (d : BitVec 5) (a : BitVec 5) (w : BitVec 1) (b : BitVec 5) (x : BitVec 1) (p : BitVec 4)
  /-- ADDI (R118). Adds a sign-extended 15-bit immediate to s[A]. -/
  | addi (d : BitVec 5) (a : BitVec 5) (w : BitVec 1) (i : BitVec 15)
  /-- ANDI (R118). ANDs s[A] with a zero-extended immediate. -/
  | andi (d : BitVec 5) (a : BitVec 5) (w : BitVec 1) (i : BitVec 15)
  /-- ORI (R118). ORs s[A] with a zero-extended immediate. -/
  | ori (d : BitVec 5) (a : BitVec 5) (w : BitVec 1) (i : BitVec 15)
  /-- XORI (R118). XORs s[A] with a zero-extended immediate. -/
  | xori (d : BitVec 5) (a : BitVec 5) (w : BitVec 1) (i : BitVec 15)
  /-- SHLI (R119). Shifts left by an immediate amount. -/
  | shli (d : BitVec 5) (a : BitVec 5) (w : BitVec 1) (n : BitVec 6)
  /-- SHRI (R119). Shifts right logically by an immediate amount. -/
  | shri (d : BitVec 5) (a : BitVec 5) (w : BitVec 1) (n : BitVec 6)
  /-- SRAI (R119). Shifts right arithmetically by an immediate amount. -/
  | srai (d : BitVec 5) (a : BitVec 5) (w : BitVec 1) (n : BitVec 6)
  /-- PCMPI (R122). Sets a predicate from a comparison of s[A] with a 12-bit immediate. -/
  | pcmpi (p : BitVec 4) (a : BitVec 5) (w : BitVec 1) (c : BitVec 3) (i : BitVec 12)
  /-- LI (R120). Loads a sign-extended 21-bit immediate into s[D]. -/
  | li (d : BitVec 5) (i : BitVec 21)
  /-- LIH (R120). Shifts s[D] left by 21 and ORs in a 21-bit immediate. -/
  | lih (d : BitVec 5) (i : BitVec 21)
  /-- PCMP (R122). Compares two scalars and sets, ANDs or ORs the result into a predicate. -/
  | pcmp (p : BitVec 4) (a : BitVec 5) (w : BitVec 1) (b : BitVec 5) (x : BitVec 1) (m : BitVec 2) (c : BitVec 3)
  /-- PAND (R123). ANDs two predicates. -/
  | pand (d : BitVec 4) (a : BitVec 4) (b : BitVec 4)
  /-- POR (R123). ORs two predicates. -/
  | por (d : BitVec 4) (a : BitVec 4) (b : BitVec 4)
  /-- PXOR (R123). XORs two predicates. -/
  | pxor (d : BitVec 4) (a : BitVec 4) (b : BitVec 4)
  /-- PNOT (R123). Negates a predicate. -/
  | pnot (d : BitVec 4) (a : BitVec 4)
  /-- PMOVS (R123). Copies the predicate word into s[D]. -/
  | pmovs (d : BitVec 5)
  /-- SMOVP (R123). Sets predicates 1 to 15 from bits of s[A]. -/
  | smovp (a : BitVec 5) (w : BitVec 1)
  /-- BR (R124). Branches to pc + offset when p[P] XOR N is 1. -/
  | br (p : BitVec 4) (n : BitVec 1) (o : BitVec 21)
  /-- JMP (R124). Jumps unconditionally by a 26-bit word offset. -/
  | jmp (o : BitVec 26)
  /-- JAL (R124). Jumps and links pc + 4 into s31. -/
  | jal (o : BitVec 26)
  /-- JALR (R124). Jumps to s[A] + offset and links pc + 4 into s[D]. -/
  | jalr (d : BitVec 5) (a : BitVec 5) (w : BitVec 1) (i : BitVec 15)
  /-- LD (R139). Loads and sign-extends an element of 1, 2, 4 or 8 bytes through a capability. -/
  | ld (d : BitVec 5) (c : BitVec 4) (a : BitVec 5) (w : BitVec 1) (z : BitVec 2) (h : BitVec 1) (o : BitVec 6)
  /-- LDU (R139). Loads and zero-extends an element. -/
  | ldu (d : BitVec 5) (c : BitVec 4) (a : BitVec 5) (w : BitVec 1) (z : BitVec 2) (h : BitVec 1) (o : BitVec 6)
  /-- ST (R139). Stores the low bytes of s[D] as a plain relaxed store. -/
  | st (d : BitVec 5) (c : BitVec 4) (a : BitVec 5) (w : BitVec 1) (z : BitVec 2) (o : BitVec 6)
  /-- LDACQ (R139). Loads an element as an acquire point at the given scope. -/
  | ldacq (d : BitVec 5) (c : BitVec 4) (a : BitVec 5) (w : BitVec 1) (z : BitVec 2) (s : BitVec 2) (h : BitVec 1) (o : BitVec 6)
  /-- STREL (R139). Stores an element as a release point at the given scope. -/
  | strel (d : BitVec 5) (c : BitVec 4) (a : BitVec 5) (w : BitVec 1) (z : BitVec 2) (s : BitVec 2) (o : BitVec 6)
  /-- AMOADD_W (R140). 32-bit atomic add that returns the old value. -/
  | amoaddW (d : BitVec 5) (c : BitVec 4) (a : BitVec 5) (v : BitVec 5) (s : BitVec 2) (o : BitVec 1)
  /-- AMOAND_W (R140). 32-bit atomic AND. -/
  | amoandW (d : BitVec 5) (c : BitVec 4) (a : BitVec 5) (v : BitVec 5) (s : BitVec 2) (o : BitVec 1)
  /-- AMOOR_W (R140). 32-bit atomic OR. -/
  | amoorW (d : BitVec 5) (c : BitVec 4) (a : BitVec 5) (v : BitVec 5) (s : BitVec 2) (o : BitVec 1)
  /-- AMOXOR_W (R140). 32-bit atomic XOR. -/
  | amoxorW (d : BitVec 5) (c : BitVec 4) (a : BitVec 5) (v : BitVec 5) (s : BitVec 2) (o : BitVec 1)
  /-- AMOMIN_W (R140). 32-bit atomic signed minimum. -/
  | amominW (d : BitVec 5) (c : BitVec 4) (a : BitVec 5) (v : BitVec 5) (s : BitVec 2) (o : BitVec 1)
  /-- AMOMAX_W (R140). 32-bit atomic signed maximum. -/
  | amomaxW (d : BitVec 5) (c : BitVec 4) (a : BitVec 5) (v : BitVec 5) (s : BitVec 2) (o : BitVec 1)
  /-- AMOMINU_W (R140). 32-bit atomic unsigned minimum. -/
  | amominuW (d : BitVec 5) (c : BitVec 4) (a : BitVec 5) (v : BitVec 5) (s : BitVec 2) (o : BitVec 1)
  /-- AMOMAXU_W (R140). 32-bit atomic unsigned maximum. -/
  | amomaxuW (d : BitVec 5) (c : BitVec 4) (a : BitVec 5) (v : BitVec 5) (s : BitVec 2) (o : BitVec 1)
  /-- AMOSWAP_W (R140). 32-bit atomic swap. -/
  | amoswapW (d : BitVec 5) (c : BitVec 4) (a : BitVec 5) (v : BitVec 5) (s : BitVec 2) (o : BitVec 1)
  /-- AMOFADD_W (R140). 32-bit atomic FP32 add rounded to nearest even. -/
  | amofaddW (d : BitVec 5) (c : BitVec 4) (a : BitVec 5) (v : BitVec 5) (s : BitVec 2) (o : BitVec 1)
  /-- AMOADD_D (R140). 64-bit atomic add. -/
  | amoaddD (d : BitVec 5) (c : BitVec 4) (a : BitVec 5) (v : BitVec 5) (s : BitVec 2) (o : BitVec 1)
  /-- AMOAND_D (R140). 64-bit atomic AND. -/
  | amoandD (d : BitVec 5) (c : BitVec 4) (a : BitVec 5) (v : BitVec 5) (s : BitVec 2) (o : BitVec 1)
  /-- AMOOR_D (R140). 64-bit atomic OR. -/
  | amoorD (d : BitVec 5) (c : BitVec 4) (a : BitVec 5) (v : BitVec 5) (s : BitVec 2) (o : BitVec 1)
  /-- AMOXOR_D (R140). 64-bit atomic XOR. -/
  | amoxorD (d : BitVec 5) (c : BitVec 4) (a : BitVec 5) (v : BitVec 5) (s : BitVec 2) (o : BitVec 1)
  /-- AMOMIN_D (R140). 64-bit atomic signed minimum. -/
  | amominD (d : BitVec 5) (c : BitVec 4) (a : BitVec 5) (v : BitVec 5) (s : BitVec 2) (o : BitVec 1)
  /-- AMOMAX_D (R140). 64-bit atomic signed maximum. -/
  | amomaxD (d : BitVec 5) (c : BitVec 4) (a : BitVec 5) (v : BitVec 5) (s : BitVec 2) (o : BitVec 1)
  /-- AMOMINU_D (R140). 64-bit atomic unsigned minimum. -/
  | amominuD (d : BitVec 5) (c : BitVec 4) (a : BitVec 5) (v : BitVec 5) (s : BitVec 2) (o : BitVec 1)
  /-- AMOMAXU_D (R140). 64-bit atomic unsigned maximum. -/
  | amomaxuD (d : BitVec 5) (c : BitVec 4) (a : BitVec 5) (v : BitVec 5) (s : BitVec 2) (o : BitVec 1)
  /-- AMOSWAP_D (R140). 64-bit atomic swap. -/
  | amoswapD (d : BitVec 5) (c : BitVec 4) (a : BitVec 5) (v : BitVec 5) (s : BitVec 2) (o : BitVec 1)
  /-- CAS (R142). Compares the location with s[D], replaces it with s[V] if equal, and returns the old value. -/
  | cas (d : BitVec 5) (c : BitVec 4) (a : BitVec 5) (v : BitVec 5) (w : BitVec 1) (s : BitVec 2) (o : BitVec 1)
  /-- FENCE_ACQ (R143). Acts as an acquire point for the thread's earlier loads at the given scope. -/
  | fenceAcq (s : BitVec 2)
  /-- FENCE_REL (R143). Acts as a release point for the thread's later stores at the given scope. -/
  | fenceRel (s : BitVec 2)
  /-- FENCE_FULL (R84). Acts as both an acquire and a release point and also orders earlier stores before later loads. -/
  | fenceFull (s : BitVec 2)
  /-- CINV (R146). Writes back the cluster's dirty copies of the lines in a range and drops them. -/
  | cinv (a : BitVec 5) (b : BitVec 5) (c : BitVec 4)
  /-- CFLUSH (R146). Writes back the dirty copies of the lines in a range and keeps them clean. -/
  | cflush (a : BitVec 5) (b : BitVec 5) (c : BitVec 4)
  /-- CPREF (R146). Brings the lines of a range into the cluster cache in the shared state. -/
  | cpref (a : BitVec 5) (b : BitVec 5) (c : BitVec 4)
  /-- DDHINT (R146). Offers the lines of a range to deduplication. -/
  | ddhint (a : BitVec 5) (b : BitVec 5) (c : BitVec 4)
  /-- DDSTAT (R147). Reads a deduplication counter of a domain, summed over all home slices. -/
  | ddstat (d : BitVec 5) (a : BitVec 5) (c : BitVec 4)
  /-- MCST (R148). Stores a value to every permitted destination of a multicast page and fills a status token. -/
  | mcst (d : BitVec 5) (a : BitVec 5) (b : BitVec 5) (z : BitVec 2) (c : BitVec 4)
  /-- REDST (R148). Combines an operand into every permitted destination of a multicast page by device-scope read-modify-writes. -/
  | redst (d : BitVec 5) (a : BitVec 5) (b : BitVec 5) (o : BitVec 2) (c : BitVec 4)
  /-- CBND (R128). Derives a window of a capability from an offset and a length. -/
  | cbnd (d : BitVec 4) (c : BitVec 4) (a : BitVec 5) (s : BitVec 5)
  /-- CRESTR (R127). Clears the permissions of a capability that the mask lacks. -/
  | crestr (d : BitVec 4) (c : BitVec 4) (a : BitVec 5)
  /-- CINC (R128). Derives a window of a capability from an offset to its end. -/
  | cinc (d : BitVec 4) (c : BitVec 4) (a : BitVec 5)
  /-- CGETB (R127). Reads a capability's base into a scalar register. -/
  | cgetb (c : BitVec 4) (s : BitVec 5)
  /-- CGETL (R127). Reads a capability's length into a scalar register. -/
  | cgetl (c : BitVec 4) (s : BitVec 5)
  /-- CGETP (R129). Reads a capability's descriptor word. -/
  | cgetp (c : BitVec 4) (s : BitVec 5)
  /-- CMOV (R127). Copies a capability together with its tag. -/
  | cmov (d : BitVec 4) (c : BitVec 4)
  /-- CCLR (R127). Clears a capability register and its tag. -/
  | cclr (d : BitVec 4)
  /-- CTEST (R129). Writes a test word from the tag, the space and an offset compared with the length. -/
  | ctest (c : BitVec 4) (a : BitVec 5) (s : BitVec 5)
  /-- CLD (R131). Loads a 16-byte capability together with its tag. -/
  | cld (x : BitVec 4) (c : BitVec 4) (a : BitVec 5) (o : BitVec 13)
  /-- CST (R132). Stores a capability together with its tag. -/
  | cst (x : BitVec 4) (c : BitVec 4) (a : BitVec 5) (o : BitVec 13)
  /-- CSRR (R134). Reads a CSR. -/
  | csrr (d : BitVec 5) (r : BitVec 12)
  /-- CSRW (R134). Writes a CSR and returns its old value. -/
  | csrw (d : BitVec 5) (a : BitVec 5) (r : BitVec 12)
  /-- CSRS (R134). Sets bits of a CSR and returns its old value. -/
  | csrs (d : BitVec 5) (a : BitVec 5) (r : BitVec 12)
  /-- CSRC (R134). Clears bits of a CSR and returns its old value. -/
  | csrc (d : BitVec 5) (a : BitVec 5) (r : BitVec 12)
  /-- START (R152). Claims a token register and places a helper thread on the issuing thread's own core. -/
  | start (d : BitVec 5) (a : BitVec 5) (b : BitVec 5)
  /-- THID (R154). Writes the issuing thread's handle. -/
  | thid (d : BitVec 5)
  /-- VGROW (R155). Raises the vector allotment, parking until the pool has enough registers. -/
  | vgrow (n : BitVec 6)
  /-- VSHRINK (R155). Lowers the vector allotment and releases the highest registers. -/
  | vshrink (n : BitVec 6)
  /-- SEND (R158). Sends a message that starts a handler thread on a target core. -/
  | send (a : BitVec 5) (b : BitVec 5) (n : BitVec 4)
  /-- MIGRATE (R159). Moves the thread to the core that owns an address. -/
  | migrate (a : BitVec 5) (c : BitVec 4)
  /-- REPLY (R160). Sends a value into a register of the thread that a handle names. -/
  | reply (a : BitVec 5) (b : BitVec 5) (r : BitVec 5)
  /-- QCFG (R163). Configures a ring and makes it ACTIVE, or returns it to IDLE. -/
  | qcfg (c : BitVec 4) (a : BitVec 5) (b : BitVec 5) (q : BitVec 5)
  /-- QCLAIM (R164). Claims a ring slot index when one is free. -/
  | qclaim (d : BitVec 5) (p : BitVec 4) (q : BitVec 5)
  /-- QPUB (R164). Publishes a claimed slot, advancing PUB as a release. -/
  | qpub (a : BitVec 5) (q : BitVec 5)
  /-- QWAITF (R164). Returns the next published slot to a consumer, parking while none is published. -/
  | qwaitf (d : BitVec 5) (p : BitVec 4) (q : BitVec 5)
  /-- QFREE (R164). Frees a consumed slot, advancing FRE as a release. -/
  | qfree (a : BitVec 5) (q : BitVec 5)
  /-- QWAITE (R164). Claims a slot, parking while the ring is full. -/
  | qwaite (d : BitVec 5) (p : BitVec 4) (q : BitVec 5)
  /-- QERR (R165). Returns the ring status and, with a non-zero code, moves the ring to ERROR. -/
  | qerr (d : BitVec 5) (a : BitVec 5) (q : BitVec 5)
  /-- QSETRD (R164). Repairs a ring in ERROR by freeing slots up to v and setting RD to v. -/
  | qsetrd (a : BitVec 5) (q : BitVec 5)
  /-- BARINIT (R168). Configures a barrier context from a rank table. -/
  | barinit (c : BitVec 4) (a : BitVec 5) (b : BitVec 5) (n : BitVec 4)
  /-- BARARR (R169). Records the core's next arrival and starts the network rounds. -/
  | bararr (r : BitVec 1) (n : BitVec 4)
  /-- BARWAIT (R169). Parks until the phase of the core's latest arrival completes. -/
  | barwait (n : BitVec 4)
  /-- BARSYNC (R169). Performs BARARR and then BARWAIT. -/
  | barsync (r : BitVec 1) (n : BitVec 4)
  /-- VADD (R177). Adds vector elements. -/
  | vadd (d : BitVec 5) (a : BitVec 5) (b : BitVec 5) (t : BitVec 3)
  /-- VSUB (R177). Subtracts vector elements. -/
  | vsub (d : BitVec 5) (a : BitVec 5) (b : BitVec 5) (t : BitVec 3)
  /-- VMUL (R177). Multiplies vector elements. -/
  | vmul (d : BitVec 5) (a : BitVec 5) (b : BitVec 5) (t : BitVec 3)
  /-- VMULH (R177). Gives the high half of signed integer products. -/
  | vmulh (d : BitVec 5) (a : BitVec 5) (b : BitVec 5) (t : BitVec 3)
  /-- VMIN (R177). Gives the element minimum. -/
  | vmin (d : BitVec 5) (a : BitVec 5) (b : BitVec 5) (t : BitVec 3)
  /-- VMAX (R177). Gives the element maximum. -/
  | vmax (d : BitVec 5) (a : BitVec 5) (b : BitVec 5) (t : BitVec 3)
  /-- VMINU (R177). Gives the unsigned element minimum. -/
  | vminu (d : BitVec 5) (a : BitVec 5) (b : BitVec 5) (t : BitVec 3)
  /-- VMAXU (R177). Gives the unsigned element maximum. -/
  | vmaxu (d : BitVec 5) (a : BitVec 5) (b : BitVec 5) (t : BitVec 3)
  /-- VAND (R177). Bitwise AND of vectors. -/
  | vand (d : BitVec 5) (a : BitVec 5) (b : BitVec 5) (t : BitVec 3)
  /-- VOR (R177). Bitwise OR of vectors. -/
  | vor (d : BitVec 5) (a : BitVec 5) (b : BitVec 5) (t : BitVec 3)
  /-- VXOR (R177). Bitwise XOR of vectors. -/
  | vxor (d : BitVec 5) (a : BitVec 5) (b : BitVec 5) (t : BitVec 3)
  /-- VSHL (R177). Shifts integer elements left. -/
  | vshl (d : BitVec 5) (a : BitVec 5) (b : BitVec 5) (t : BitVec 3)
  /-- VSHR (R177). Shifts integer elements right logically. -/
  | vshr (d : BitVec 5) (a : BitVec 5) (b : BitVec 5) (t : BitVec 3)
  /-- VSRA (R177). Shifts integer elements right arithmetically. -/
  | vsra (d : BitVec 5) (a : BitVec 5) (b : BitVec 5) (t : BitVec 3)
  /-- VFMA (R177). Fused multiply-add with one rounding. -/
  | vfma (d : BitVec 5) (a : BitVec 5) (b : BitVec 5) (t : BitVec 3)
  /-- VABS (R178). Gives the absolute value of each element. -/
  | vabs (d : BitVec 5) (a : BitVec 5) (t : BitVec 3)
  /-- VNEG (R178). Negates each element. -/
  | vneg (d : BitVec 5) (a : BitVec 5) (t : BitVec 3)
  /-- VMINN (R177). Floating minimum that propagates NaN. -/
  | vminn (d : BitVec 5) (a : BitVec 5) (b : BitVec 5) (t : BitVec 3)
  /-- VMAXN (R177). Floating maximum that propagates NaN. -/
  | vmaxn (d : BitVec 5) (a : BitVec 5) (b : BitVec 5) (t : BitVec 3)
  /-- VADD_SCALAR (R177). VADD with a scalar second operand in every lane. -/
  | vaddScalar (d : BitVec 5) (a : BitVec 5) (b : BitVec 5) (t : BitVec 3)
  /-- VSUB_SCALAR (R177). VSUB with a scalar operand. -/
  | vsubScalar (d : BitVec 5) (a : BitVec 5) (b : BitVec 5) (t : BitVec 3)
  /-- VMUL_SCALAR (R177). VMUL with a scalar operand. -/
  | vmulScalar (d : BitVec 5) (a : BitVec 5) (b : BitVec 5) (t : BitVec 3)
  /-- VMULH_SCALAR (R177). VMULH with a scalar operand. -/
  | vmulhScalar (d : BitVec 5) (a : BitVec 5) (b : BitVec 5) (t : BitVec 3)
  /-- VMIN_SCALAR (R177). VMIN with a scalar operand. -/
  | vminScalar (d : BitVec 5) (a : BitVec 5) (b : BitVec 5) (t : BitVec 3)
  /-- VMAX_SCALAR (R177). VMAX with a scalar operand. -/
  | vmaxScalar (d : BitVec 5) (a : BitVec 5) (b : BitVec 5) (t : BitVec 3)
  /-- VMINU_SCALAR (R177). VMINU with a scalar operand. -/
  | vminuScalar (d : BitVec 5) (a : BitVec 5) (b : BitVec 5) (t : BitVec 3)
  /-- VMAXU_SCALAR (R177). VMAXU with a scalar operand. -/
  | vmaxuScalar (d : BitVec 5) (a : BitVec 5) (b : BitVec 5) (t : BitVec 3)
  /-- VAND_SCALAR (R177). VAND with a scalar operand. -/
  | vandScalar (d : BitVec 5) (a : BitVec 5) (b : BitVec 5) (t : BitVec 3)
  /-- VOR_SCALAR (R177). VOR with a scalar operand. -/
  | vorScalar (d : BitVec 5) (a : BitVec 5) (b : BitVec 5) (t : BitVec 3)
  /-- VXOR_SCALAR (R177). VXOR with a scalar operand. -/
  | vxorScalar (d : BitVec 5) (a : BitVec 5) (b : BitVec 5) (t : BitVec 3)
  /-- VSHL_SCALAR (R177). VSHL with a scalar amount. -/
  | vshlScalar (d : BitVec 5) (a : BitVec 5) (b : BitVec 5) (t : BitVec 3)
  /-- VSHR_SCALAR (R177). VSHR with a scalar amount. -/
  | vshrScalar (d : BitVec 5) (a : BitVec 5) (b : BitVec 5) (t : BitVec 3)
  /-- VSRA_SCALAR (R177). VSRA with a scalar amount. -/
  | vsraScalar (d : BitVec 5) (a : BitVec 5) (b : BitVec 5) (t : BitVec 3)
  /-- VFMA_SCALAR (R177). VFMA with a scalar multiplier. -/
  | vfmaScalar (d : BitVec 5) (a : BitVec 5) (b : BitVec 5) (t : BitVec 3)
  /-- VMINN_SCALAR (R177). VMINN with a scalar operand. -/
  | vminnScalar (d : BitVec 5) (a : BitVec 5) (b : BitVec 5) (t : BitVec 3)
  /-- VMAXN_SCALAR (R177). VMAXN with a scalar operand. -/
  | vmaxnScalar (d : BitVec 5) (a : BitVec 5) (b : BitVec 5) (t : BitVec 3)
  /-- VCMP (R179). Compares elements and writes a mask register by word lane. -/
  | vcmp (k : BitVec 3) (a : BitVec 5) (b : BitVec 5) (t : BitVec 3) (n : BitVec 1) (c : BitVec 5)
  /-- VPERMB (R181). Permutes bytes by a table lookup. -/
  | vpermb (d : BitVec 5) (a : BitVec 5) (b : BitVec 5)
  /-- VSHUF (R181). Shuffles elements by index. -/
  | vshuf (d : BitVec 5) (a : BitVec 5) (b : BitVec 5) (t : BitVec 3)
  /-- VBCAST (R181). Broadcasts a scalar into every element. -/
  | vbcast (d : BitVec 5) (a : BitVec 5) (t : BitVec 3)
  /-- VSLIDE (R181). Slides elements by a signed scalar count. -/
  | vslide (d : BitVec 5) (a : BitVec 5) (b : BitVec 5) (t : BitVec 3)
  /-- VEXTR (R181). Extracts one element into a scalar register. -/
  | vextr (d : BitVec 5) (a : BitVec 5) (b : BitVec 5) (t : BitVec 3)
  /-- VINS (R181). Inserts a scalar into one element. -/
  | vins (d : BitVec 5) (a : BitVec 5) (b : BitVec 5) (t : BitVec 3)
  /-- VREDSUM (R182). Sums the active elements into a scalar. -/
  | vredsum (d : BitVec 5) (a : BitVec 5) (t : BitVec 3)
  /-- VREDMAX (R182). Gives the largest active element. -/
  | vredmax (d : BitVec 5) (a : BitVec 5) (t : BitVec 3)
  /-- VREDMIN (R182). Gives the smallest active element. -/
  | vredmin (d : BitVec 5) (a : BitVec 5) (t : BitVec 3)
  /-- VREDMAXI (R183). Gives the largest value together with its based index. -/
  | vredmaxi (d : BitVec 5) (a : BitVec 5) (b : BitVec 5) (t : BitVec 3)
  /-- VREDMINI (R183). Gives the smallest value together with its based index. -/
  | vredmini (d : BitVec 5) (a : BitVec 5) (b : BitVec 5) (t : BitVec 3)
  /-- VSCAN (R182). Computes prefix sums of the active elements. -/
  | vscan (d : BitVec 5) (a : BitVec 5) (t : BitVec 3)
  /-- VCVT (R184). Converts elements between types of equal count. -/
  | vcvt (d : BitVec 5) (a : BitVec 5) (s : BitVec 3) (u : BitVec 3)
  /-- VPACK (R184). Converts into part p of a narrower destination. -/
  | vpack (d : BitVec 5) (a : BitVec 5) (p : BitVec 5) (s : BitVec 3) (u : BitVec 3)
  /-- VUNPK (R184). Converts part p of a source into a wider destination. -/
  | vunpk (d : BitVec 5) (a : BitVec 5) (p : BitVec 5) (s : BitVec 3) (u : BitVec 3)
  /-- VLD (R186). Loads consecutive vector elements through a capability. -/
  | vld (d : BitVec 5) (c : BitVec 4) (a : BitVec 5) (w : BitVec 1) (t : BitVec 3) (h : BitVec 1) (o : BitVec 6)
  /-- VLDS (R186). Loads vector elements at a scalar stride. -/
  | vlds (d : BitVec 5) (c : BitVec 4) (a : BitVec 5) (w : BitVec 1) (t : BitVec 3) (h : BitVec 1) (s : BitVec 5)
  /-- VST (R186). Stores consecutive vector elements. -/
  | vst (d : BitVec 5) (c : BitVec 4) (a : BitVec 5) (w : BitVec 1) (t : BitVec 3) (o : BitVec 6)
  /-- VSTS (R186). Stores vector elements at a scalar stride. -/
  | vsts (d : BitVec 5) (c : BitVec 4) (a : BitVec 5) (w : BitVec 1) (t : BitVec 3) (s : BitVec 5)
  /-- VGATHER (R187). Gathers elements from per-lane offsets. -/
  | vgather (d : BitVec 5) (a : BitVec 5) (c : BitVec 4) (t : BitVec 3)
  /-- VSCATTER (R187). Scatters elements to per-lane offsets. -/
  | vscatter (d : BitVec 5) (a : BitVec 5) (c : BitVec 4) (t : BitVec 3)
  /-- FEXP2 (R189). Sends an exp2 request to the SFU and parks. -/
  | fexp2 (d : BitVec 5) (a : BitVec 5) (t : BitVec 3)
  /-- FLOG2 (R189). Sends a log2 request to the SFU. -/
  | flog2 (d : BitVec 5) (a : BitVec 5) (t : BitVec 3)
  /-- FRCP (R189). Sends a reciprocal request to the SFU. -/
  | frcp (d : BitVec 5) (a : BitVec 5) (t : BitVec 3)
  /-- FRSQ (R189). Sends a reciprocal square root request to the SFU. -/
  | frsq (d : BitVec 5) (a : BitVec 5) (t : BitVec 3)
  /-- FTANH (R189). Sends a tanh request to the SFU. -/
  | ftanh (d : BitVec 5) (a : BitVec 5) (t : BitVec 3)
  /-- FSIN (R189). Sends a sine request to the SFU. -/
  | fsin (d : BitVec 5) (a : BitVec 5) (t : BitVec 3)
  /-- FCOS (R189). Sends a cosine request to the SFU. -/
  | fcos (d : BitVec 5) (a : BitVec 5) (t : BitVec 3)
  /-- VMOV (R191). Copies the active elements. -/
  | vmov (d : BitVec 5) (a : BitVec 5) (t : BitVec 3)
  /-- VSEL (R191). Selects each element from two vectors by a mask. -/
  | vsel (d : BitVec 5) (a : BitVec 5) (b : BitVec 5) (t : BitVec 3)
  /-- VIOTA (R191). Writes s[A] + j into element j. -/
  | viota (d : BitVec 5) (a : BitVec 5) (t : BitVec 3)
  /-- KAND (R191). ANDs two mask registers. -/
  | kand (d : BitVec 3) (a : BitVec 3) (b : BitVec 3)
  /-- KOR (R191). ORs two mask registers. -/
  | kor (d : BitVec 3) (a : BitVec 3) (b : BitVec 3)
  /-- KNOT (R191). Negates a mask register. -/
  | knot (d : BitVec 3) (a : BitVec 3)
  /-- KPOPC (R191). Counts the set bits of a mask register. -/
  | kpopc (d : BitVec 5) (a : BitVec 3)
  /-- TLD (R197). Loads the rows of a tile from memory. -/
  | tld (t : BitVec 3) (c : BitVec 4) (a : BitVec 5) (b : BitVec 5) (h : BitVec 1)
  /-- TST (R197). Stores the rows of a tile to memory. -/
  | tst (t : BitVec 3) (c : BitVec 4) (a : BitVec 5) (b : BitVec 5)
  /-- TZERO (R198). Zeroes a tile and sets its class. -/
  | tzero (t : BitVec 3) (s : BitVec 3)
  /-- TTRANS (R199). Transposes a tile. -/
  | ttrans (t : BitVec 3) (s : BitVec 3)
  /-- TRDV (R198). Reads one tile row into a vector register. -/
  | trdv (t : BitVec 3) (v : BitVec 5) (a : BitVec 5)
  /-- TWRV (R198). Writes one tile row from a vector register. -/
  | twrv (t : BitVec 3) (v : BitVec 5) (a : BitVec 5)
  /-- MMA (R202). Multiplies two tiles into an FP32 accumulator. -/
  | mma (n : BitVec 1) (a : BitVec 3) (b : BitVec 3) (c : BitVec 1)
  /-- MMAS (R203). Block-scaled tile multiply that reads scale tiles. -/
  | mmas (n : BitVec 1) (a : BitVec 3) (b : BitVec 3) (s : BitVec 3) (u : BitVec 3) (c : BitVec 1)
  /-- MMAI (R202). Integer tile multiply into an INT32 accumulator, saturating once. -/
  | mmai (n : BitVec 1) (a : BitVec 3) (b : BitVec 3) (c : BitVec 1)
  /-- ACZERO (R205). Zeroes an accumulator. -/
  | aczero (n : BitVec 1)
  /-- ACLD (R205). Loads an accumulator from 64 KiB of memory. -/
  | acld (n : BitVec 1) (c : BitVec 4) (a : BitVec 5)
  /-- ACST (R205). Stores an accumulator to memory. -/
  | acst (n : BitVec 1) (c : BitVec 4) (a : BitVec 5)
  /-- ACCVT (R205). Converts an accumulator into a tile. -/
  | accvt (n : BitVec 1) (t : BitVec 3) (i : BitVec 1)
  /-- ACADD (R205). Adds one accumulator into another. -/
  | acadd (n : BitVec 1) (i : BitVec 1) (b : BitVec 1)
  /-- SBIND (R208). Binds a stream to a vector register. -/
  | sbind (v : BitVec 5) (n : BitVec 3)
  /-- SUNBIND (R208). Removes a stream's binding. -/
  | sunbind (n : BitVec 3)
  /-- SCFG (R207). Configures a stream's capability, base and pattern. -/
  | scfg (c : BitVec 4) (a : BitVec 5) (b : BitVec 5) (n : BitVec 3)
  /-- SGO (R208). Starts a stream at position 0. -/
  | sgo (n : BitVec 3)
  /-- SSTOP (R208). Stops a stream and discards its run-ahead and held faults. -/
  | sstop (n : BitVec 3)
  /-- SSYNC (R208). Acquire point for a load stream, or release point for a store stream. -/
  | ssync (n : BitVec 3)
  /-- CPY (R212). Issues a byte copy to the copy hart and claims a token. -/
  | cpy (d : BitVec 5) (e : BitVec 4) (f : BitVec 5) (g : BitVec 4) (h : BitVec 5)
  /-- CPYCV (R212). Issues a copy that converts between named formats. -/
  | cpycv (d : BitVec 5) (e : BitVec 4) (f : BitVec 5) (g : BitVec 4) (h : BitVec 5)
  /-- CPYMC (R212). Issues a copy to every permitted destination of multicast pages. -/
  | cpymc (d : BitVec 5) (e : BitVec 4) (f : BitVec 5) (g : BitVec 4) (h : BitVec 5)
  /-- CPYRED (R214). Issues a copy that combines the source into the destination element by element. -/
  | cpyred (d : BitVec 5) (e : BitVec 4) (f : BitVec 5) (g : BitVec 4) (h : BitVec 5)
  /-- TKCOMMIT (R237). Commits a token to a sequence, matching stop strings and decoding token operations. -/
  | tkcommit (d : BitVec 5) (a : BitVec 5) (f : BitVec 1) (c : BitVec 4)
  /-- TKFORCE (R240). Returns the head of FORCEQ, or all ones when it is empty. -/
  | tkforce (d : BitVec 5) (c : BitVec 4)
  /-- TKMASK (R241). Masks logits that are not admitted and applies penalties. -/
  | tkmask (v : BitVec 5) (a : BitVec 5) (c : BitVec 4)
  /-- TKSTAT (R250). Reads the status, cursor or FORCEQ count of a sequence. -/
  | tkstat (d : BitVec 5) (a : BitVec 5) (c : BitVec 4)
  /-- TKFORK (R245). Forks a child sequence block from the parent. -/
  | tkfork (d : BitVec 5) (b : BitVec 4) (c : BitVec 4)
  /-- TKTRUNC (R244). Restores the checkpoint, sets the draw and trims the KV page list. -/
  | tktrunc (d : BitVec 5) (a : BitVec 5) (c : BitVec 4)
  /-- TKCKPT (R243). Copies the sequence state into CKPT and sets CKV. -/
  | tkckpt (c : BitVec 4)
  /-- TKDRAW (R242). Moves the draw cursor or the draft cursor. -/
  | tkdraw (d : BitVec 5) (a : BitVec 5) (c : BitVec 4)
  /-- RNDU (R229). Returns a keyed uniform draw. -/
  | rndu (d : BitVec 5) (a : BitVec 5) (c : BitVec 4)
  /-- RNDV (R229). Writes 64 keyed uniform values. -/
  | rndv (v : BitVec 5) (a : BitVec 5) (c : BitVec 4)
  /-- RNDG (R229). Writes 64 keyed Gumbel values. -/
  | rndg (v : BitVec 5) (a : BitVec 5) (c : BitVec 4)
  /-- NMAXI (R247). Contributes a value-index word to a network maximum at rank 0. -/
  | nmaxi (d : BitVec 5) (a : BitVec 5) (i : BitVec 1) (g : BitVec 4)
  /-- NMINI (R247). Contributes to a network minimum. -/
  | nmini (d : BitVec 5) (a : BitVec 5) (i : BitVec 1) (g : BitVec 4)
  /-- NADD (R247). Contributes to a network sum modulo 2^64. -/
  | nadd (d : BitVec 5) (a : BitVec 5) (g : BitVec 4)
  /-- EQINIT (R257). Initialises a forest asynchronously and claims a token. -/
  | eqinit (d : BitVec 5) (f : BitVec 4)
  /-- EQUNITE (R258). Unites two classes, linking the higher root under the lower. -/
  | equnite (d : BitVec 5) (a : BitVec 5) (b : BitVec 5) (f : BitVec 4)
  /-- EQFIND (R259). Returns the root of an element. -/
  | eqfind (d : BitVec 5) (a : BitVec 5) (f : BitVec 4)
  /-- EQSIZE (R259). Returns the root of an element and its size. -/
  | eqsize (d : BitVec 5) (a : BitVec 5) (f : BitVec 4)
  /-- EQREDUCE (R260). Issues a per-class reduction asynchronously. -/
  | eqreduce (d : BitVec 5) (a : BitVec 4) (b : BitVec 4) (f : BitVec 4)
  /-- EQSNAP (R261). Opens or closes a forest snapshot. -/
  | eqsnap (d : BitVec 5) (a : BitVec 5) (f : BitVec 4)
  /-- EQUNDO (R262). Rewinds the union log to a target position. -/
  | equndo (d : BitVec 5) (a : BitVec 5) (f : BitVec 4)
  /-- EQSTAT (R263). Reads a forest statistic. -/
  | eqstat (d : BitVec 5) (a : BitVec 5) (f : BitVec 4)
  /-- TKENC (R226). Encodes bytes into token ids by ranked merges. -/
  | tkenc (d : BitVec 5) (a : BitVec 4) (b : BitVec 4) (s : BitVec 4)
  /-- TKDEC (R227). Decodes token ids into bytes. -/
  | tkdec (d : BitVec 5) (a : BitVec 4) (b : BitVec 4) (x : BitVec 1) (s : BitVec 4)
  /-- SYSCALL (R319). Raises a supervisor event from a kernel, or a monitor trap from the supervisor. -/
  | syscall (d : BitVec 5) (a : BitVec 5) (b : BitVec 5) (n : BitVec 6)
  /-- HALT (R322). Halts or resumes a compute core or cluster. -/
  | halt (d : BitVec 5) (a : BitVec 5) (m : BitVec 2)
  /-- WAKE (R323). Sends a wake to the thread that a handle names. -/
  | wake (a : BitVec 5)
  /-- WAKE_PG (R323). Ends a page-not-present wait, so the faulting access reissues. -/
  | wakePg (a : BitVec 5)
  /-- HARVEST (R324). Collects the home slices' write-grant records into D bits. -/
  | harvest (d : BitVec 5) (a : BitVec 5) (b : BitVec 5)
  /-- XINV (R325). Invalidates cluster copies, replicas and translations within a scope. -/
  | xinv (d : BitVec 5) (a : BitVec 5) (b : BitVec 5) (m : BitVec 2)
  /-- KEYSET (R326). Loads a key record into an inactive key slot. -/
  | keyset (d : BitVec 5) (a : BitVec 5) (c : BitVec 4)
  /-- KEYCLR (R327). Discards the lines of a domain and clears its key slot. -/
  | keyclr (d : BitVec 5) (a : BitVec 5)
  /-- SPILLRPL (R328). Replays a source core's spill ring into a destination core. -/
  | spillrpl (d : BitVec 5) (a : BitVec 5) (b : BitVec 5)
  /-- RETIRE (R153). Ends the thread once its claims and holds are over, filling a helper's token and freeing the slot. -/
  | retire
  /-- YIELD (R154). Makes the slot ineligible for 16 cycles. -/
  | yield
  /-- PARK (R156). Parks the thread unless its wake-pending bit is set. -/
  | park
  /-- ERET (R320). Returns from the current level's trap. -/
  | eret
  /-- WFI (R321). Parks a service-pair slot until a wake, an event or the heartbeat tick. -/
  | wfi
  /-- ILLEGAL_INSTRUCTION (R108). A word of major 0x00 or 0x3F raises cause 0x01. -/
  | illegalInstruction
  /-- MODE_SWITCH (R36). A write that changes BMODEk switches the banks' mode at a single point in the cluster's order of SRAM accesses. -/
  | modeSwitch
  /-- HEADER_PUBLISH (R166). A performed store to a claimed slot's header granule publishes the slot. -/
  | headerPublish
  /-- BARRIER_PACKET (R169). A round packet arrives at a network interface and lets the barrier's rounds proceed. -/
  | barrierPacket
  /-- SFU_RETURN (R190). The SFU's return token writes the destination register, sets flags and wakes the thread. -/
  | sfuReturn
  /-- MATRIX_COMPLETION (R195). A queued matrix-unit instruction completes, writes its result and sets flags in the issuer's FFLAGS. -/
  | matrixCompletion
  /-- STREAM_RUNAHEAD_FETCH (R209). A load stream fetches the next register-load into its queue when there is room, holding any fault with its element. -/
  | streamRunaheadFetch
  /-- COPY_COMPLETION (R213). The copy hart finishes a copy and fills the token with the status word as a release. -/
  | copyCompletion
  /-- KICK (R215). A store to a hart's KICK word is a device-scope release and sets the hart's wake-pending bit. -/
  | kick
  /-- NRED_PACKET (R248). An NRED contribution packet is combined at a router, a die crossing or rank 0. -/
  | nredPacket
  /-- EQINIT_COMPLETION (R257). The Lichen unit finishes initialising the forest and fills the status token. -/
  | eqinitCompletion
  /-- EQREDUCE_COMPLETION (R260). The reduction finishes and fills the status token. -/
  | eqreduceCompletion
  /-- HALT_COMPLETION (R322). Fills the HALT token once no halted slot can issue and every issued instruction has completed. -/
  | haltCompletion
  /-- HARVEST_COMPLETION (R324). Fills the HARVEST token with the number of D bits set. -/
  | harvestCompletion
  /-- XINV_COMPLETION (R325). Fills the XINV token once every access translated under a dropped entry has performed. -/
  | xinvCompletion
  /-- KEYCLR_COMPLETION (R327). Fills the KEYCLR token once the slot is cleared. -/
  | keyclrCompletion
  /-- SPILLRPL_COMPLETION (R328). Fills the token with the number of entries replayed. -/
  | spillrplCompletion
  /-- SCALAR_RESULT_WRITE (R115). A multiply or divide result is written 8 or 68 cycles after issue, ending the hold. -/
  | scalarResultWrite
  /-- LOAD_DATA_RETURN (R138). Data of a load or other returning member arrives and is written to its held destination, ending the hold. -/
  | loadDataReturn
  /-- MULTICAST_COMPLETION (R148). MCST or REDST fills its token with the status, SKIP and DONE bits, and logs any skips. -/
  | multicastCompletion
  /-- MESSAGE_ARRIVAL (R14). A message reaches a core's network interface and starts a handler thread in a free pool slot. -/
  | messageArrival
  /-- MIGRATED_THREAD_ARRIVAL (R15). A migrated thread reaches the target core and starts in a free pool slot, as a visitor where applicable. -/
  | migratedThreadArrival
  /-- HELD_ARRIVAL_PLACED (R13). An arrival held for want of a pool slot claims the slot once one frees, in order of arrival. -/
  | heldArrivalPlaced
  /-- HELPER_PLACED (R11). A parked START is satisfied in issue order once a helper slot becomes available. -/
  | helperPlaced
  /-- VGROW_SATISFIED (R155). A parked VGROW is granted its registers in issue order. -/
  | vgrowSatisfied
  /-- HELPER_TOKEN_DELIVERY (R12). A helper's retirement value is delivered by handle into the starter's token register. -/
  | helperTokenDelivery
  /-- REPLY_DELIVERY (R160). A REPLY reaches its target and writes the named register if the handle matches. -/
  | replyDelivery
  /-- WAKE_DELIVERY (R25). A WAKE reaches its thread, ending its PARK or setting the wake-pending bit. -/
  | wakeDelivery
  /-- WATCHDOG_EXPIRY (R336). A thread's watchdog count reaches WDOG and the thread stops with cause 0x13. -/
  | watchdogExpiry
  /-- SYSCALL_EVENT (R314). A SYSCALL event arrives at a service pair and starts at SVEC + 0x00. -/
  | syscallEvent
  /-- PAGE_EVENT (R335). A page-not-present event arrives at a service pair and starts at SVEC + 0x10. -/
  | pageEvent
  /-- FAULT_EVENT (R314). A stopped-thread event arrives at a service pair and starts at SVEC + 0x20. -/
  | faultEvent
  /-- PREEMPT_REQUEST (R342). A store of 1 to REQ makes the dispatch unit pre-empt every crew of the launch. -/
  | preemptRequest
  /-- KILL_REQUEST (R339). A store of 2 to REQ kills the region and every launch below it. -/
  | killRequest
  /-- RESUME_REQUEST (R347). A store of 3 to REQ resumes a saved launch. -/
  | resumeRequest
  /-- CORE_SAVE (R342). An interrupted core drains, diverts its deliveries, writes its save record and finally VALID. -/
  | coreSave
  /-- CREW_RESUMPTION (R347). A saved crew is restored on a free cluster and its spill rings are replayed. -/
  | crewResumption
  /-- QUEUE_RECORD_TAKEN (R372). The dispatch unit takes a launch record whose SEQ matches and advances HEAD. -/
  | queueRecordTaken
  /-- LAUNCH_CANDIDATE (R375). A change to a watched RCB or dependence line makes a launch a candidate, or completes it with 0x05. -/
  | launchCandidate
  /-- PLACEMENT_DECISION (R381). The scheduler picks a queue by weighted round-robin at the highest level and places one crew. -/
  | placementDecision
  /-- SLOT_BOUNDARY (R377). A time-triggered slot begins, advancing SLOTNOW and aging. -/
  | slotBoundary
  /-- DEFERRED_FIRING (R379). An entry held back by an EXTEND overrun fires when the earlier launch completes. -/
  | deferredFiring
  /-- WINDOW_OVERRUN (R379). A launch still running when its window ends is extended, pre-empted or abandoned under its entry's rule. -/
  | windowOverrun
  /-- HEARTBEAT_TICK (R321). The 1 ms PTP tick at each service pair wakes WFI and drives heartbeat watching. -/
  | heartbeatTick
  /-- TAKEOVER (R408). A pair that finds missed heartbeats takes leadership by CAS on EPOCH and replays the journal. -/
  | takeover
  /-- POWER_ON (R409). Power-on runs self-test, identity derivation, bundle checks, monitor start and link training in order. -/
  | powerOn
  /-- BUNDLE_UPLOAD (R409). With both banks refused, a bundle uploaded into bank 0 is followed by a restart. -/
  | bundleUpload
  /-- BUNDLE_INSTALL (R397). A new bundle is written to the inactive bank, marked TRIAL, and the module restarts from it. -/
  | bundleInstall
  /-- VERIFIER_ACKNOWLEDGEMENT (R397). A valid verifier acknowledgement before expiry disarms the trial watchdog and raises MINVER. -/
  | verifierAcknowledgement
  /-- TRIAL_WATCHDOG_EXPIRY (R397). Expiry of the 600 s trial watchdog restarts the module from the previous bank. -/
  | trialWatchdogExpiry
  /-- QUOTE_REQUEST (R398). A verifier's nonce request is answered with a signed quote. -/
  | quoteRequest
  /-- DEBUG_REQUEST (R399). A debug-path request over the management port is served under the current debug mode. -/
  | debugRequest
  /-- DEBUG_HALT (R400). Writing DBGCTL to HALT kills the protected regions and clears slots 0 to 62. -/
  | debugHalt
  /-- DEBUG_OBSERVE (R400). Writing DBGCTL to OBSERVE enables observation. -/
  | debugObserve
  /-- DEBUG_OFF (R400). Writing DBGCTL to OFF disables debug access. -/
  | debugOff
  /-- CLUSTER_GATE (R413). Writing PWRCTL GATE powers clusters that hold no crew down or up. -/
  | clusterGate
  /-- DIE_SLEEP (R413). Writing DSTATE 2 writes back the die's dirty lines, scrubs its key slots and sleeps the die. -/
  | dieSleep
  /-- DIE_WAKE (R394). A die leaving DIE-SLEEP takes key-slot copies from an awake die. -/
  | dieWake
  /-- MODULE_OFF (R413). Writing DSTATE 3 writes every dirty line back and then removes power. -/
  | moduleOff
  /-- FABRIC_PACKET (R392). A fabric packet is received and its tag checked, with failures retried by the link layer. -/
  | fabricPacket
  /-- PORT_OUT_OF_SERVICE (R405). Eight failed packets in a row take a fabric port out of service and set its PDOWN bit. -/
  | portOutOfService
  /-- LINK_LOSS (R405). Loss of a fabric link takes its port out of service. -/
  | linkLoss
  /-- KEY_RENEWAL (R392). After 2^32 packets in one direction, the port's link key is renewed. -/
  | keyRenewal
  /-- NO_ROUTE_TIMEOUT (R405). A load or read-modify-write to an unreachable module raises cause 0x0D after 10 ms. -/
  | noRouteTimeout
  /-- SYSTEM_WINDOW_REQUEST (R403). The target's ingress port translates and checks a system-window access and serves it. -/
  | systemWindowRequest
  /-- HOST_CXL_ACCESS (R389). A host's CXL.mem access is performed, or refused outside the permitted domains. -/
  | hostCxlAccess
  /-- LINE_READ (R362). The home slice serves a read of a line, filling it and updating the directory. -/
  | lineRead
  /-- OWNERSHIP_REQUEST (R362). A request for write ownership invalidates the other copies, unshares the line and records the grant. -/
  | ownershipRequest
  /-- UPGRADE_NOTICE (R362). An E-state holder's upgrade is acknowledged and moves the line to M. -/
  | upgradeNotice
  /-- REGISTER_WRITE (R333). A write to a control word with no behaviour of its own takes effect at the next point that reads it. -/
  | registerWrite
  /-- VECTOR_PREFIX (R105). A word of major 0x3E is fetched and, with the word after it, issues as one prefixed pair or raises cause 0x10 or 0x02. -/
  | vectorPrefix
  /-- RESERVED_ENCODING (R108). A fetched word of majors 0x39–0x3D, or with an unlisted selector, reserved value or non-zero zero field, raises cause 0x02. -/
  | reservedEncoding
  /-- STORE_PERFORMED (R85). A store, atomic or pushed stream element reaches its serialisation point at the home slice or bank and is performed. -/
  | storePerformed
  /-- ROUTE_RETURNS (R405). A fabric route to a module returns, releasing held barrier and NRED packets. -/
  | routeReturns
  /-- ORDERING_AGENT_FAILURE (R384). The dispatch agent that admits and orders launches fails, and the next in-service agent takes over from the dispatch block. -/
  | orderingAgentFailure
  /-- HART_RESTART (R216). System software restarts a copy hart stopped by a fault, so that its queued commands proceed. -/
  | hartRestart
  /-- PTP_DISCIPLINE (R113). PTP messages arriving on the management port discipline the module's PTP time. -/
  | ptpDiscipline
  /-- SPDM_MESSAGE (R392). An SPDM message on a CXL port establishes the session and the IDE stream that the port needs before it carries CXL.mem or CXL.cache. -/
  | spdmMessage
  deriving DecidableEq, Repr, Inhabited

/-- What one step of the machine is about: one clock cycle of the barrel of an agent (R22), a step of the opcode
table that comes about outside the barrels, or the passing of time in nanoseconds. -/
inductive Turn
  | core (id : Nat)
  | event (i : Instr) (cue : Cue)
  | time (ns : Nat)
  deriving DecidableEq, Repr, Inhabited

end Sys2Proof
end

