-- ==== Sys2Proof/WellFormed.lean ====
section
/-!
DEFINITION. Which decoded instructions are well formed: the field values that R102 to R107 and the members' own entries
reserve although the opcode table's fixed bits admit them. A word that decodes to an ill-formed instruction raises
cause 0x02 (R108).
-/

namespace Sys2Proof

/-- The type codes of R104 but the reserved 011. -/
def typeOk (t : BitVec 3) : Bool := t != 3

/-- The integer types i8, i16 and i32. -/
def typeInt (t : BitVec 3) : Bool := t.toNat < 3

/-- The floating-point types and nf. -/
def typeFloat (t : BitVec 3) : Bool := 3 < t.toNat

/-- The types that the special-function unit takes: bf16, f16, f32 (R189). -/
def typeSfu (t : BitVec 3) : Bool := 3 < t.toNat && t.toNat < 7

/-- A scope code: 11 is reserved (R77). -/
def scopeOk (s : BitVec 2) : Bool := s != 3

/-- A VCMP condition code on a type (R180). -/
def vcmpOk (t : BitVec 3) (c : BitVec 5) : Bool :=
  typeOk t && (c.toNat < 4 || ((c == 4 || c == 5) && typeInt t) || (c == 6 && typeFloat t))

/-- The well-formed instructions. Every reserved value that stands in a field, not in a fixed bit, is refused here. -/
def Instr.wf : Instr → Bool
  | .sext _ _ _ n => n.toNat < 3
  | .pcmpi _ _ _ c _ => c.toNat < 6
  | .pcmp _ _ _ _ _ m c => m != 3 && c.toNat < 6
  | .ldacq _ _ _ _ _ s _ _ => scopeOk s
  | .strel _ _ _ _ _ s _ => scopeOk s
  | .amoaddW _ _ _ _ s _ => scopeOk s
  | .amoandW _ _ _ _ s _ => scopeOk s
  | .amoorW _ _ _ _ s _ => scopeOk s
  | .amoxorW _ _ _ _ s _ => scopeOk s
  | .amominW _ _ _ _ s _ => scopeOk s
  | .amomaxW _ _ _ _ s _ => scopeOk s
  | .amominuW _ _ _ _ s _ => scopeOk s
  | .amomaxuW _ _ _ _ s _ => scopeOk s
  | .amoswapW _ _ _ _ s _ => scopeOk s
  | .amofaddW _ _ _ _ s _ => scopeOk s
  | .amoaddD _ _ _ _ s _ => scopeOk s
  | .amoandD _ _ _ _ s _ => scopeOk s
  | .amoorD _ _ _ _ s _ => scopeOk s
  | .amoxorD _ _ _ _ s _ => scopeOk s
  | .amominD _ _ _ _ s _ => scopeOk s
  | .amomaxD _ _ _ _ s _ => scopeOk s
  | .amominuD _ _ _ _ s _ => scopeOk s
  | .amomaxuD _ _ _ _ s _ => scopeOk s
  | .amoswapD _ _ _ _ s _ => scopeOk s
  | .cas _ _ _ _ _ s _ => scopeOk s
  | .fenceAcq s => scopeOk s
  | .fenceRel s => scopeOk s
  | .fenceFull s => scopeOk s
  | .start d _ _ => d != 0
  | .vgrow n => n.toNat ≤ 32
  | .vshrink n => n.toNat ≤ 32
  | .send _ _ n => n.toNat ≤ 10
  | .reply _ _ r => r != 0
  | .vadd _ _ _ t => typeOk t
  | .vsub _ _ _ t => typeOk t
  | .vmul _ _ _ t => typeOk t
  | .vmulh _ _ _ t => typeInt t
  | .vmin _ _ _ t => typeOk t
  | .vmax _ _ _ t => typeOk t
  | .vminu _ _ _ t => typeInt t
  | .vmaxu _ _ _ t => typeInt t
  | .vand _ _ _ t => typeOk t
  | .vor _ _ _ t => typeOk t
  | .vxor _ _ _ t => typeOk t
  | .vshl _ _ _ t => typeInt t
  | .vshr _ _ _ t => typeInt t
  | .vsra _ _ _ t => typeInt t
  | .vfma _ _ _ t => typeOk t
  | .vabs _ _ t => typeOk t
  | .vneg _ _ t => typeOk t
  | .vminn _ _ _ t => typeFloat t
  | .vmaxn _ _ _ t => typeFloat t
  | .vaddScalar _ _ _ t => typeOk t
  | .vsubScalar _ _ _ t => typeOk t
  | .vmulScalar _ _ _ t => typeOk t
  | .vmulhScalar _ _ _ t => typeInt t
  | .vminScalar _ _ _ t => typeOk t
  | .vmaxScalar _ _ _ t => typeOk t
  | .vminuScalar _ _ _ t => typeInt t
  | .vmaxuScalar _ _ _ t => typeInt t
  | .vandScalar _ _ _ t => typeOk t
  | .vorScalar _ _ _ t => typeOk t
  | .vxorScalar _ _ _ t => typeOk t
  | .vshlScalar _ _ _ t => typeInt t
  | .vshrScalar _ _ _ t => typeInt t
  | .vsraScalar _ _ _ t => typeInt t
  | .vfmaScalar _ _ _ t => typeOk t
  | .vminnScalar _ _ _ t => typeFloat t
  | .vmaxnScalar _ _ _ t => typeFloat t
  | .vcmp _ _ _ t _ c => vcmpOk t c
  | .vshuf _ _ _ t => typeInt t
  | .vbcast _ _ t => typeOk t
  | .vslide _ _ _ t => typeOk t
  | .vextr _ _ _ t => typeOk t
  | .vins _ _ _ t => typeOk t
  | .vredsum _ _ t => typeOk t
  | .vredmax _ _ t => typeOk t
  | .vredmin _ _ t => typeOk t
  | .vredmaxi _ _ _ t => typeOk t
  | .vredmini _ _ _ t => typeOk t
  | .vscan _ _ t => typeOk t
  | .vcvt _ _ s u => typeOk s && typeOk u
  | .vpack _ _ _ s u => typeOk s && typeOk u
  | .vunpk _ _ _ s u => typeOk s && typeOk u
  | .vld _ _ _ _ t _ _ => typeOk t
  | .vlds _ _ _ _ t _ _ => typeOk t
  | .vst _ _ _ _ t _ => typeOk t
  | .vsts _ _ _ _ t _ => typeOk t
  | .vgather _ _ _ t => typeOk t && t != 7
  | .vscatter _ _ _ t => typeOk t && t != 7
  | .fexp2 _ _ t => typeSfu t
  | .flog2 _ _ t => typeSfu t
  | .frcp _ _ t => typeSfu t
  | .frsq _ _ t => typeSfu t
  | .ftanh _ _ t => typeSfu t
  | .fsin _ _ t => typeSfu t
  | .fcos _ _ t => typeSfu t
  | .vmov _ _ t => typeOk t
  | .vsel _ _ _ t => typeOk t
  | .viota _ _ t => typeInt t
  | .tzero _ s => s.toNat < 3
  | .scfg _ _ b _ => b.toNat < 29
  | .cpy d _ _ _ _ => d != 0
  | .cpycv d _ _ _ _ => d != 0
  | .cpymc d _ _ _ _ => d != 0
  | .cpyred d _ _ _ _ => d != 0
  | .eqinit d _ => d != 0
  | .eqreduce d _ _ _ => d != 0
  | .xinv _ a b m => m != 3 && (m != 2 || (a == 0 && b == 0))
  | _ => true

end Sys2Proof
end

