-- ==== Sys2Proof/Decode.lean ====
section
/-!
DEFINITION. From bits to instructions and back. A word's fields are read here once and nowhere else. The decoder
follows the opcode table: the major opcode picks a family (R107), the fixed bits of the rows pick the member, and a
word that no row matches is a reserved encoding (R108). The encoder, after it, is written from the same layouts
(R104).
-/

namespace Sys2Proof

/-- Bits `[hi:lo]` of a word given as a number, as a field of their width. -/
def fld (n hi lo : Nat) : BitVec (hi - lo + 1) := BitVec.ofNat (hi - lo + 1) (n / 2 ^ lo)

/-- `sext(x, w)` of a field into 64 bits (R3). -/
def sext64 (w : Nat) (x : BitVec w) : Word := x.signExtend 64

/-- `zext(x, w)` of a field into 64 bits (R3). -/
def zext64 (w : Nat) (x : BitVec w) : Word := x.setWidth 64

/-- The members of major 0x01 (R107). -/
def decode01 (n : Nat) : Instr :=
  if n % 512 = 0 then .add (fld n 25 21) (fld n 20 16) (fld n 15 15) (fld n 14 10) (fld n 9 9) else
  if n % 512 = 1 then .sub (fld n 25 21) (fld n 20 16) (fld n 15 15) (fld n 14 10) (fld n 9 9) else
  if n % 512 = 2 then .and (fld n 25 21) (fld n 20 16) (fld n 15 15) (fld n 14 10) (fld n 9 9) else
  if n % 512 = 3 then .or (fld n 25 21) (fld n 20 16) (fld n 15 15) (fld n 14 10) (fld n 9 9) else
  if n % 512 = 4 then .xor (fld n 25 21) (fld n 20 16) (fld n 15 15) (fld n 14 10) (fld n 9 9) else
  if n % 512 = 5 then .andn (fld n 25 21) (fld n 20 16) (fld n 15 15) (fld n 14 10) (fld n 9 9) else
  if n % 512 = 6 then .shl (fld n 25 21) (fld n 20 16) (fld n 15 15) (fld n 14 10) (fld n 9 9) else
  if n % 512 = 7 then .shr (fld n 25 21) (fld n 20 16) (fld n 15 15) (fld n 14 10) (fld n 9 9) else
  if n % 512 = 8 then .sra (fld n 25 21) (fld n 20 16) (fld n 15 15) (fld n 14 10) (fld n 9 9) else
  if n % 512 = 9 then .mul (fld n 25 21) (fld n 20 16) (fld n 15 15) (fld n 14 10) (fld n 9 9) else
  if n % 512 = 10 then .mulh (fld n 25 21) (fld n 20 16) (fld n 15 15) (fld n 14 10) (fld n 9 9) else
  if n % 512 = 11 then .mulhu (fld n 25 21) (fld n 20 16) (fld n 15 15) (fld n 14 10) (fld n 9 9) else
  if n % 512 = 12 then .div (fld n 25 21) (fld n 20 16) (fld n 15 15) (fld n 14 10) (fld n 9 9) else
  if n % 512 = 13 then .divu (fld n 25 21) (fld n 20 16) (fld n 15 15) (fld n 14 10) (fld n 9 9) else
  if n % 512 = 14 then .rem (fld n 25 21) (fld n 20 16) (fld n 15 15) (fld n 14 10) (fld n 9 9) else
  if n % 512 = 15 then .remu (fld n 25 21) (fld n 20 16) (fld n 15 15) (fld n 14 10) (fld n 9 9) else
  if n % 512 = 16 then .min (fld n 25 21) (fld n 20 16) (fld n 15 15) (fld n 14 10) (fld n 9 9) else
  if n % 512 = 17 then .max (fld n 25 21) (fld n 20 16) (fld n 15 15) (fld n 14 10) (fld n 9 9) else
  if n % 512 = 18 then .minu (fld n 25 21) (fld n 20 16) (fld n 15 15) (fld n 14 10) (fld n 9 9) else
  if n % 512 = 19 then .maxu (fld n 25 21) (fld n 20 16) (fld n 15 15) (fld n 14 10) (fld n 9 9) else
  if n % 32768 = 20 then .clz (fld n 25 21) (fld n 20 16) (fld n 15 15) else
  if n % 32768 = 21 then .ctz (fld n 25 21) (fld n 20 16) (fld n 15 15) else
  if n % 32768 = 22 then .popc (fld n 25 21) (fld n 20 16) (fld n 15 15) else
  if n % 1024 = 23 then .sext (fld n 25 21) (fld n 20 16) (fld n 15 15) (fld n 14 10) else
  if n % 32 = 24 then .selp (fld n 25 21) (fld n 20 16) (fld n 15 15) (fld n 14 10) (fld n 9 9) (fld n 8 5) else
  .reservedEncoding

/-- The members of major 0x02 (R107). -/
def decode02 (n : Nat) : Instr :=
  .addi (fld n 25 21) (fld n 20 16) (fld n 15 15) (fld n 14 0)

/-- The members of major 0x03 (R107). -/
def decode03 (n : Nat) : Instr :=
  .andi (fld n 25 21) (fld n 20 16) (fld n 15 15) (fld n 14 0)

/-- The members of major 0x04 (R107). -/
def decode04 (n : Nat) : Instr :=
  .ori (fld n 25 21) (fld n 20 16) (fld n 15 15) (fld n 14 0)

/-- The members of major 0x05 (R107). -/
def decode05 (n : Nat) : Instr :=
  .xori (fld n 25 21) (fld n 20 16) (fld n 15 15) (fld n 14 0)

/-- The members of major 0x06 (R107). -/
def decode06 (n : Nat) : Instr :=
  if n / 64 % 512 = 0 then .shli (fld n 25 21) (fld n 20 16) (fld n 15 15) (fld n 5 0) else
  if n / 64 % 512 = 64 then .shri (fld n 25 21) (fld n 20 16) (fld n 15 15) (fld n 5 0) else
  if n / 64 % 512 = 128 then .srai (fld n 25 21) (fld n 20 16) (fld n 15 15) (fld n 5 0) else
  .reservedEncoding

/-- The members of major 0x07 (R107). -/
def decode07 (n : Nat) : Instr :=
  if n / 33554432 % 2 = 0 then .pcmpi (fld n 24 21) (fld n 20 16) (fld n 15 15) (fld n 14 12) (fld n 11 0) else
  .reservedEncoding

/-- The members of major 0x08 (R107). -/
def decode08 (n : Nat) : Instr :=
  .li (fld n 25 21) (fld n 20 0)

/-- The members of major 0x09 (R107). -/
def decode09 (n : Nat) : Instr :=
  .lih (fld n 25 21) (fld n 20 0)

/-- The members of major 0x0A (R107). -/
def decode0A (n : Nat) : Instr :=
  if n / 32 % 16 = 0 ∧ n / 33554432 % 2 = 0 then .pcmp (fld n 24 21) (fld n 20 16) (fld n 15 15) (fld n 14 10) (fld n 9 9) (fld n 4 3) (fld n 2 0) else
  .reservedEncoding

/-- The members of major 0x0B (R107). -/
def decode0B (n : Nat) : Instr :=
  if n % 1024 = 0 ∧ n / 16384 % 4 = 0 ∧ n / 1048576 % 2 = 0 ∧ n / 33554432 % 2 = 0 then .pand (fld n 24 21) (fld n 19 16) (fld n 13 10) else
  if n % 1024 = 1 ∧ n / 16384 % 4 = 0 ∧ n / 1048576 % 2 = 0 ∧ n / 33554432 % 2 = 0 then .por (fld n 24 21) (fld n 19 16) (fld n 13 10) else
  if n % 1024 = 2 ∧ n / 16384 % 4 = 0 ∧ n / 1048576 % 2 = 0 ∧ n / 33554432 % 2 = 0 then .pxor (fld n 24 21) (fld n 19 16) (fld n 13 10) else
  if n % 65536 = 3 ∧ n / 1048576 % 2 = 0 ∧ n / 33554432 % 2 = 0 then .pnot (fld n 24 21) (fld n 19 16) else
  if n % 2097152 = 4 then .pmovs (fld n 25 21) else
  if n % 32768 = 5 ∧ n / 2097152 % 32 = 0 then .smovp (fld n 20 16) (fld n 15 15) else
  .reservedEncoding

/-- The members of major 0x0C (R107). -/
def decode0C (n : Nat) : Instr :=
  .br (fld n 25 22) (fld n 21 21) (fld n 20 0)

/-- The members of major 0x0D (R107). -/
def decode0D (n : Nat) : Instr :=
  .jmp (fld n 25 0)

/-- The members of major 0x0E (R107). -/
def decode0E (n : Nat) : Instr :=
  .jal (fld n 25 0)

/-- The members of major 0x0F (R107). -/
def decode0F (n : Nat) : Instr :=
  .jalr (fld n 25 21) (fld n 20 16) (fld n 15 15) (fld n 14 0)

/-- The members of major 0x10 (R107). -/
def decode10 (n : Nat) : Instr :=
  if n / 128 % 4 = 0 then .ld (fld n 25 21) (fld n 20 17) (fld n 16 12) (fld n 11 11) (fld n 10 9) (fld n 6 6) (fld n 5 0) else
  .reservedEncoding

/-- The members of major 0x11 (R107). -/
def decode11 (n : Nat) : Instr :=
  if n / 128 % 4 = 0 then .ldu (fld n 25 21) (fld n 20 17) (fld n 16 12) (fld n 11 11) (fld n 10 9) (fld n 6 6) (fld n 5 0) else
  .reservedEncoding

/-- The members of major 0x12 (R107). -/
def decode12 (n : Nat) : Instr :=
  if n / 64 % 8 = 0 then .st (fld n 25 21) (fld n 20 17) (fld n 16 12) (fld n 11 11) (fld n 10 9) (fld n 5 0) else
  .reservedEncoding

/-- The members of major 0x13 (R107). -/
def decode13 (n : Nat) : Instr :=
  .ldacq (fld n 25 21) (fld n 20 17) (fld n 16 12) (fld n 11 11) (fld n 10 9) (fld n 8 7) (fld n 6 6) (fld n 5 0)

/-- The members of major 0x14 (R107). -/
def decode14 (n : Nat) : Instr :=
  if n / 64 % 2 = 0 then .strel (fld n 25 21) (fld n 20 17) (fld n 16 12) (fld n 11 11) (fld n 10 9) (fld n 8 7) (fld n 5 0) else
  .reservedEncoding

/-- The members of major 0x15 (R107). -/
def decode15 (n : Nat) : Instr :=
  if n / 8 % 16 = 0 then .amoaddW (fld n 25 21) (fld n 20 17) (fld n 16 12) (fld n 11 7) (fld n 2 1) (fld n 0 0) else
  if n / 8 % 16 = 1 then .amoandW (fld n 25 21) (fld n 20 17) (fld n 16 12) (fld n 11 7) (fld n 2 1) (fld n 0 0) else
  if n / 8 % 16 = 2 then .amoorW (fld n 25 21) (fld n 20 17) (fld n 16 12) (fld n 11 7) (fld n 2 1) (fld n 0 0) else
  if n / 8 % 16 = 3 then .amoxorW (fld n 25 21) (fld n 20 17) (fld n 16 12) (fld n 11 7) (fld n 2 1) (fld n 0 0) else
  if n / 8 % 16 = 4 then .amominW (fld n 25 21) (fld n 20 17) (fld n 16 12) (fld n 11 7) (fld n 2 1) (fld n 0 0) else
  if n / 8 % 16 = 5 then .amomaxW (fld n 25 21) (fld n 20 17) (fld n 16 12) (fld n 11 7) (fld n 2 1) (fld n 0 0) else
  if n / 8 % 16 = 6 then .amominuW (fld n 25 21) (fld n 20 17) (fld n 16 12) (fld n 11 7) (fld n 2 1) (fld n 0 0) else
  if n / 8 % 16 = 7 then .amomaxuW (fld n 25 21) (fld n 20 17) (fld n 16 12) (fld n 11 7) (fld n 2 1) (fld n 0 0) else
  if n / 8 % 16 = 8 then .amoswapW (fld n 25 21) (fld n 20 17) (fld n 16 12) (fld n 11 7) (fld n 2 1) (fld n 0 0) else
  if n / 8 % 16 = 9 then .amofaddW (fld n 25 21) (fld n 20 17) (fld n 16 12) (fld n 11 7) (fld n 2 1) (fld n 0 0) else
  .reservedEncoding

/-- The members of major 0x16 (R107). -/
def decode16 (n : Nat) : Instr :=
  if n / 8 % 16 = 0 then .amoaddD (fld n 25 21) (fld n 20 17) (fld n 16 12) (fld n 11 7) (fld n 2 1) (fld n 0 0) else
  if n / 8 % 16 = 1 then .amoandD (fld n 25 21) (fld n 20 17) (fld n 16 12) (fld n 11 7) (fld n 2 1) (fld n 0 0) else
  if n / 8 % 16 = 2 then .amoorD (fld n 25 21) (fld n 20 17) (fld n 16 12) (fld n 11 7) (fld n 2 1) (fld n 0 0) else
  if n / 8 % 16 = 3 then .amoxorD (fld n 25 21) (fld n 20 17) (fld n 16 12) (fld n 11 7) (fld n 2 1) (fld n 0 0) else
  if n / 8 % 16 = 4 then .amominD (fld n 25 21) (fld n 20 17) (fld n 16 12) (fld n 11 7) (fld n 2 1) (fld n 0 0) else
  if n / 8 % 16 = 5 then .amomaxD (fld n 25 21) (fld n 20 17) (fld n 16 12) (fld n 11 7) (fld n 2 1) (fld n 0 0) else
  if n / 8 % 16 = 6 then .amominuD (fld n 25 21) (fld n 20 17) (fld n 16 12) (fld n 11 7) (fld n 2 1) (fld n 0 0) else
  if n / 8 % 16 = 7 then .amomaxuD (fld n 25 21) (fld n 20 17) (fld n 16 12) (fld n 11 7) (fld n 2 1) (fld n 0 0) else
  if n / 8 % 16 = 8 then .amoswapD (fld n 25 21) (fld n 20 17) (fld n 16 12) (fld n 11 7) (fld n 2 1) (fld n 0 0) else
  .reservedEncoding

/-- The members of major 0x17 (R107). -/
def decode17 (n : Nat) : Instr :=
  if n / 8 % 8 = 0 then .cas (fld n 25 21) (fld n 20 17) (fld n 16 12) (fld n 11 7) (fld n 6 6) (fld n 2 1) (fld n 0 0) else
  .reservedEncoding

/-- The members of major 0x18 (R107). -/
def decode18 (n : Nat) : Instr :=
  if n / 4 % 16777216 = 0 then .fenceAcq (fld n 1 0) else
  if n / 4 % 16777216 = 524288 then .fenceRel (fld n 1 0) else
  if n / 4 % 16777216 = 1048576 then .fenceFull (fld n 1 0) else
  .reservedEncoding

/-- The members of major 0x19 (R107). -/
def decode19 (n : Nat) : Instr :=
  if n / 16 % 4 = 0 ∧ n / 65536 % 1024 = 0 then .cinv (fld n 15 11) (fld n 10 6) (fld n 3 0) else
  if n / 16 % 4 = 0 ∧ n / 65536 % 1024 = 32 then .cflush (fld n 15 11) (fld n 10 6) (fld n 3 0) else
  if n / 16 % 4 = 0 ∧ n / 65536 % 1024 = 64 then .cpref (fld n 15 11) (fld n 10 6) (fld n 3 0) else
  if n / 16 % 4 = 0 ∧ n / 65536 % 1024 = 96 then .ddhint (fld n 15 11) (fld n 10 6) (fld n 3 0) else
  if n / 16 % 128 = 0 ∧ n / 2097152 % 32 = 4 then .ddstat (fld n 20 16) (fld n 15 11) (fld n 3 0) else
  if n / 2097152 % 32 = 5 then .mcst (fld n 20 16) (fld n 15 11) (fld n 10 6) (fld n 5 4) (fld n 3 0) else
  if n / 2097152 % 32 = 6 then .redst (fld n 20 16) (fld n 15 11) (fld n 10 6) (fld n 5 4) (fld n 3 0) else
  .reservedEncoding

/-- The members of major 0x1A (R107). -/
def decode1A (n : Nat) : Instr :=
  if n % 256 = 0 then .cbnd (fld n 25 22) (fld n 21 18) (fld n 17 13) (fld n 12 8) else
  if n % 8192 = 1 then .crestr (fld n 25 22) (fld n 21 18) (fld n 17 13) else
  if n % 8192 = 2 then .cinc (fld n 25 22) (fld n 21 18) (fld n 17 13) else
  if n % 256 = 3 ∧ n / 8192 % 32 = 0 ∧ n / 4194304 % 16 = 0 then .cgetb (fld n 21 18) (fld n 12 8) else
  if n % 256 = 4 ∧ n / 8192 % 32 = 0 ∧ n / 4194304 % 16 = 0 then .cgetl (fld n 21 18) (fld n 12 8) else
  if n % 256 = 5 ∧ n / 8192 % 32 = 0 ∧ n / 4194304 % 16 = 0 then .cgetp (fld n 21 18) (fld n 12 8) else
  if n % 262144 = 6 then .cmov (fld n 25 22) (fld n 21 18) else
  if n % 4194304 = 7 then .cclr (fld n 25 22) else
  if n % 256 = 8 ∧ n / 4194304 % 16 = 0 then .ctest (fld n 21 18) (fld n 17 13) (fld n 12 8) else
  .reservedEncoding

/-- The members of major 0x1B (R107). -/
def decode1B (n : Nat) : Instr :=
  .cld (fld n 25 22) (fld n 21 18) (fld n 17 13) (fld n 12 0)

/-- The members of major 0x1C (R107). -/
def decode1C (n : Nat) : Instr :=
  .cst (fld n 25 22) (fld n 21 18) (fld n 17 13) (fld n 12 0)

/-- The members of major 0x1D (R107). -/
def decode1D (n : Nat) : Instr :=
  if n / 4096 % 512 = 0 then .csrr (fld n 25 21) (fld n 11 0) else
  if n / 4096 % 16 = 4 then .csrw (fld n 25 21) (fld n 20 16) (fld n 11 0) else
  if n / 4096 % 16 = 8 then .csrs (fld n 25 21) (fld n 20 16) (fld n 11 0) else
  if n / 4096 % 16 = 12 then .csrc (fld n 25 21) (fld n 20 16) (fld n 11 0) else
  .reservedEncoding

/-- The members of major 0x1E (R107). -/
def decode1E (n : Nat) : Instr :=
  if n % 64 = 0 ∧ n / 2097152 % 32 = 0 then .start (fld n 20 16) (fld n 15 11) (fld n 10 6) else
  if n % 67108864 = 2097152 then .retire else
  if n % 67108864 = 4194304 then .yield else
  if n % 65536 = 0 ∧ n / 2097152 % 32 = 3 then .thid (fld n 20 16) else
  if n / 64 % 1048576 = 131072 then .vgrow (fld n 5 0) else
  if n / 64 % 1048576 = 163840 then .vshrink (fld n 5 0) else
  if n % 67108864 = 12582912 then .park else
  .reservedEncoding

/-- The members of major 0x1F (R107). -/
def decode1F (n : Nat) : Instr :=
  if n / 16 % 4 = 0 ∧ n / 65536 % 1024 = 0 then .send (fld n 15 11) (fld n 10 6) (fld n 3 0) else
  if n / 16 % 128 = 0 ∧ n / 65536 % 1024 = 32 then .migrate (fld n 15 11) (fld n 3 0) else
  if n / 32 % 2 = 0 ∧ n / 65536 % 1024 = 64 then .reply (fld n 15 11) (fld n 10 6) (fld n 4 0) else
  .reservedEncoding

/-- The members of major 0x20 (R107). -/
def decode20 (n : Nat) : Instr :=
  if n / 32 % 2 = 0 ∧ n / 1048576 % 64 = 0 then .qcfg (fld n 19 16) (fld n 15 11) (fld n 10 6) (fld n 4 0) else
  if n / 32 % 2 = 0 ∧ n / 1024 % 64 = 0 ∧ n / 2097152 % 32 = 1 then .qclaim (fld n 20 16) (fld n 9 6) (fld n 4 0) else
  if n / 32 % 64 = 0 ∧ n / 65536 % 1024 = 64 then .qpub (fld n 15 11) (fld n 4 0) else
  if n / 32 % 2 = 0 ∧ n / 1024 % 64 = 0 ∧ n / 2097152 % 32 = 3 then .qwaitf (fld n 20 16) (fld n 9 6) (fld n 4 0) else
  if n / 32 % 64 = 0 ∧ n / 65536 % 1024 = 128 then .qfree (fld n 15 11) (fld n 4 0) else
  if n / 32 % 2 = 0 ∧ n / 1024 % 64 = 0 ∧ n / 2097152 % 32 = 5 then .qwaite (fld n 20 16) (fld n 9 6) (fld n 4 0) else
  if n / 32 % 64 = 0 ∧ n / 2097152 % 32 = 6 then .qerr (fld n 20 16) (fld n 15 11) (fld n 4 0) else
  if n / 32 % 64 = 0 ∧ n / 65536 % 1024 = 224 then .qsetrd (fld n 15 11) (fld n 4 0) else
  .reservedEncoding

/-- The members of major 0x21 (R107). -/
def decode21 (n : Nat) : Instr :=
  if n / 16 % 4 = 0 ∧ n / 1048576 % 64 = 0 then .barinit (fld n 19 16) (fld n 15 11) (fld n 10 6) (fld n 3 0) else
  if n / 32 % 2097152 = 65536 then .bararr (fld n 4 4) (fld n 3 0) else
  if n / 16 % 4194304 = 262144 then .barwait (fld n 3 0) else
  if n / 32 % 2097152 = 196608 then .barsync (fld n 4 4) (fld n 3 0) else
  .reservedEncoding

/-- The members of major 0x22 (R107). -/
def decode22 (n : Nat) : Instr :=
  if n % 256 = 0 then .vadd (fld n 25 21) (fld n 20 16) (fld n 15 11) (fld n 10 8) else
  if n % 256 = 1 then .vsub (fld n 25 21) (fld n 20 16) (fld n 15 11) (fld n 10 8) else
  if n % 256 = 2 then .vmul (fld n 25 21) (fld n 20 16) (fld n 15 11) (fld n 10 8) else
  if n % 256 = 3 then .vmulh (fld n 25 21) (fld n 20 16) (fld n 15 11) (fld n 10 8) else
  if n % 256 = 4 then .vmin (fld n 25 21) (fld n 20 16) (fld n 15 11) (fld n 10 8) else
  if n % 256 = 5 then .vmax (fld n 25 21) (fld n 20 16) (fld n 15 11) (fld n 10 8) else
  if n % 256 = 6 then .vminu (fld n 25 21) (fld n 20 16) (fld n 15 11) (fld n 10 8) else
  if n % 256 = 7 then .vmaxu (fld n 25 21) (fld n 20 16) (fld n 15 11) (fld n 10 8) else
  if n % 256 = 8 then .vand (fld n 25 21) (fld n 20 16) (fld n 15 11) (fld n 10 8) else
  if n % 256 = 9 then .vor (fld n 25 21) (fld n 20 16) (fld n 15 11) (fld n 10 8) else
  if n % 256 = 10 then .vxor (fld n 25 21) (fld n 20 16) (fld n 15 11) (fld n 10 8) else
  if n % 256 = 11 then .vshl (fld n 25 21) (fld n 20 16) (fld n 15 11) (fld n 10 8) else
  if n % 256 = 12 then .vshr (fld n 25 21) (fld n 20 16) (fld n 15 11) (fld n 10 8) else
  if n % 256 = 13 then .vsra (fld n 25 21) (fld n 20 16) (fld n 15 11) (fld n 10 8) else
  if n % 256 = 14 then .vfma (fld n 25 21) (fld n 20 16) (fld n 15 11) (fld n 10 8) else
  if n % 256 = 15 ∧ n / 2048 % 32 = 0 then .vabs (fld n 25 21) (fld n 20 16) (fld n 10 8) else
  if n % 256 = 16 ∧ n / 2048 % 32 = 0 then .vneg (fld n 25 21) (fld n 20 16) (fld n 10 8) else
  if n % 256 = 17 then .vminn (fld n 25 21) (fld n 20 16) (fld n 15 11) (fld n 10 8) else
  if n % 256 = 18 then .vmaxn (fld n 25 21) (fld n 20 16) (fld n 15 11) (fld n 10 8) else
  .reservedEncoding

/-- The members of major 0x23 (R107). -/
def decode23 (n : Nat) : Instr :=
  if n % 256 = 0 then .vaddScalar (fld n 25 21) (fld n 20 16) (fld n 15 11) (fld n 10 8) else
  if n % 256 = 1 then .vsubScalar (fld n 25 21) (fld n 20 16) (fld n 15 11) (fld n 10 8) else
  if n % 256 = 2 then .vmulScalar (fld n 25 21) (fld n 20 16) (fld n 15 11) (fld n 10 8) else
  if n % 256 = 3 then .vmulhScalar (fld n 25 21) (fld n 20 16) (fld n 15 11) (fld n 10 8) else
  if n % 256 = 4 then .vminScalar (fld n 25 21) (fld n 20 16) (fld n 15 11) (fld n 10 8) else
  if n % 256 = 5 then .vmaxScalar (fld n 25 21) (fld n 20 16) (fld n 15 11) (fld n 10 8) else
  if n % 256 = 6 then .vminuScalar (fld n 25 21) (fld n 20 16) (fld n 15 11) (fld n 10 8) else
  if n % 256 = 7 then .vmaxuScalar (fld n 25 21) (fld n 20 16) (fld n 15 11) (fld n 10 8) else
  if n % 256 = 8 then .vandScalar (fld n 25 21) (fld n 20 16) (fld n 15 11) (fld n 10 8) else
  if n % 256 = 9 then .vorScalar (fld n 25 21) (fld n 20 16) (fld n 15 11) (fld n 10 8) else
  if n % 256 = 10 then .vxorScalar (fld n 25 21) (fld n 20 16) (fld n 15 11) (fld n 10 8) else
  if n % 256 = 11 then .vshlScalar (fld n 25 21) (fld n 20 16) (fld n 15 11) (fld n 10 8) else
  if n % 256 = 12 then .vshrScalar (fld n 25 21) (fld n 20 16) (fld n 15 11) (fld n 10 8) else
  if n % 256 = 13 then .vsraScalar (fld n 25 21) (fld n 20 16) (fld n 15 11) (fld n 10 8) else
  if n % 256 = 14 then .vfmaScalar (fld n 25 21) (fld n 20 16) (fld n 15 11) (fld n 10 8) else
  if n % 256 = 17 then .vminnScalar (fld n 25 21) (fld n 20 16) (fld n 15 11) (fld n 10 8) else
  if n % 256 = 18 then .vmaxnScalar (fld n 25 21) (fld n 20 16) (fld n 15 11) (fld n 10 8) else
  .reservedEncoding

/-- The members of major 0x24 (R107). -/
def decode24 (n : Nat) : Instr :=
  if n / 64 % 4 = 0 ∧ n / 16777216 % 4 = 0 then .vcmp (fld n 23 21) (fld n 20 16) (fld n 15 11) (fld n 10 8) (fld n 5 5) (fld n 4 0) else
  .reservedEncoding

/-- The members of major 0x25 (R107). -/
def decode25 (n : Nat) : Instr :=
  if n % 2048 = 0 then .vpermb (fld n 25 21) (fld n 20 16) (fld n 15 11) else
  if n % 256 = 1 then .vshuf (fld n 25 21) (fld n 20 16) (fld n 15 11) (fld n 10 8) else
  if n % 256 = 2 ∧ n / 2048 % 32 = 0 then .vbcast (fld n 25 21) (fld n 20 16) (fld n 10 8) else
  if n % 256 = 3 then .vslide (fld n 25 21) (fld n 20 16) (fld n 15 11) (fld n 10 8) else
  if n % 256 = 4 then .vextr (fld n 25 21) (fld n 20 16) (fld n 15 11) (fld n 10 8) else
  if n % 256 = 5 then .vins (fld n 25 21) (fld n 20 16) (fld n 15 11) (fld n 10 8) else
  .reservedEncoding

/-- The members of major 0x26 (R107). -/
def decode26 (n : Nat) : Instr :=
  if n % 256 = 0 ∧ n / 2048 % 32 = 0 then .vredsum (fld n 25 21) (fld n 20 16) (fld n 10 8) else
  if n % 256 = 1 ∧ n / 2048 % 32 = 0 then .vredmax (fld n 25 21) (fld n 20 16) (fld n 10 8) else
  if n % 256 = 2 ∧ n / 2048 % 32 = 0 then .vredmin (fld n 25 21) (fld n 20 16) (fld n 10 8) else
  if n % 256 = 3 then .vredmaxi (fld n 25 21) (fld n 20 16) (fld n 15 11) (fld n 10 8) else
  if n % 256 = 4 then .vredmini (fld n 25 21) (fld n 20 16) (fld n 15 11) (fld n 10 8) else
  if n % 256 = 5 ∧ n / 2048 % 32 = 0 then .vscan (fld n 25 21) (fld n 20 16) (fld n 10 8) else
  .reservedEncoding

/-- The members of major 0x27 (R107). -/
def decode27 (n : Nat) : Instr :=
  if n % 32 = 0 ∧ n / 2048 % 32 = 0 then .vcvt (fld n 25 21) (fld n 20 16) (fld n 10 8) (fld n 7 5) else
  if n % 32 = 1 then .vpack (fld n 25 21) (fld n 20 16) (fld n 15 11) (fld n 10 8) (fld n 7 5) else
  if n % 32 = 2 then .vunpk (fld n 25 21) (fld n 20 16) (fld n 15 11) (fld n 10 8) (fld n 7 5) else
  .reservedEncoding

/-- The members of major 0x28 (R107). -/
def decode28 (n : Nat) : Instr :=
  if n % 2 = 0 then .vld (fld n 25 21) (fld n 20 17) (fld n 16 12) (fld n 11 11) (fld n 10 8) (fld n 7 7) (fld n 6 1) else
  if n % 4 = 1 then .vlds (fld n 25 21) (fld n 20 17) (fld n 16 12) (fld n 11 11) (fld n 10 8) (fld n 7 7) (fld n 6 2) else
  .reservedEncoding

/-- The members of major 0x29 (R107). -/
def decode29 (n : Nat) : Instr :=
  if n % 2 = 0 ∧ n / 128 % 2 = 0 then .vst (fld n 25 21) (fld n 20 17) (fld n 16 12) (fld n 11 11) (fld n 10 8) (fld n 6 1) else
  if n % 4 = 1 ∧ n / 128 % 2 = 0 then .vsts (fld n 25 21) (fld n 20 17) (fld n 16 12) (fld n 11 11) (fld n 10 8) (fld n 6 2) else
  .reservedEncoding

/-- The members of major 0x2A (R107). -/
def decode2A (n : Nat) : Instr :=
  if n % 256 = 0 ∧ n / 32768 % 2 = 0 then .vgather (fld n 25 21) (fld n 20 16) (fld n 14 11) (fld n 10 8) else
  if n % 256 = 1 ∧ n / 32768 % 2 = 0 then .vscatter (fld n 25 21) (fld n 20 16) (fld n 14 11) (fld n 10 8) else
  .reservedEncoding

/-- The members of major 0x2B (R107). -/
def decode2B (n : Nat) : Instr :=
  if n % 256 = 0 ∧ n / 2048 % 32 = 0 then .fexp2 (fld n 25 21) (fld n 20 16) (fld n 10 8) else
  if n % 256 = 1 ∧ n / 2048 % 32 = 0 then .flog2 (fld n 25 21) (fld n 20 16) (fld n 10 8) else
  if n % 256 = 2 ∧ n / 2048 % 32 = 0 then .frcp (fld n 25 21) (fld n 20 16) (fld n 10 8) else
  if n % 256 = 3 ∧ n / 2048 % 32 = 0 then .frsq (fld n 25 21) (fld n 20 16) (fld n 10 8) else
  if n % 256 = 4 ∧ n / 2048 % 32 = 0 then .ftanh (fld n 25 21) (fld n 20 16) (fld n 10 8) else
  if n % 256 = 5 ∧ n / 2048 % 32 = 0 then .fsin (fld n 25 21) (fld n 20 16) (fld n 10 8) else
  if n % 256 = 6 ∧ n / 2048 % 32 = 0 then .fcos (fld n 25 21) (fld n 20 16) (fld n 10 8) else
  .reservedEncoding

/-- The members of major 0x2C (R107). -/
def decode2C (n : Nat) : Instr :=
  if n % 256 = 0 ∧ n / 2048 % 32 = 0 then .vmov (fld n 25 21) (fld n 20 16) (fld n 10 8) else
  if n % 256 = 1 then .vsel (fld n 25 21) (fld n 20 16) (fld n 15 11) (fld n 10 8) else
  if n % 256 = 2 ∧ n / 2048 % 32 = 0 then .viota (fld n 25 21) (fld n 20 16) (fld n 10 8) else
  if n % 2048 = 3 ∧ n / 16384 % 4 = 0 ∧ n / 524288 % 4 = 0 ∧ n / 16777216 % 4 = 0 then .kand (fld n 23 21) (fld n 18 16) (fld n 13 11) else
  if n % 2048 = 4 ∧ n / 16384 % 4 = 0 ∧ n / 524288 % 4 = 0 ∧ n / 16777216 % 4 = 0 then .kor (fld n 23 21) (fld n 18 16) (fld n 13 11) else
  if n % 65536 = 5 ∧ n / 524288 % 4 = 0 ∧ n / 16777216 % 4 = 0 then .knot (fld n 23 21) (fld n 18 16) else
  if n % 65536 = 6 ∧ n / 524288 % 4 = 0 then .kpopc (fld n 25 21) (fld n 18 16) else
  .reservedEncoding

/-- The members of major 0x2D (R107). -/
def decode2D (n : Nat) : Instr :=
  if n % 16 = 0 ∧ n / 4194304 % 16 = 0 then .tld (fld n 21 19) (fld n 18 15) (fld n 14 10) (fld n 9 5) (fld n 4 4) else
  if n % 32 = 0 ∧ n / 4194304 % 16 = 1 then .tst (fld n 21 19) (fld n 18 15) (fld n 14 10) (fld n 9 5) else
  .reservedEncoding

/-- The members of major 0x2E (R107). -/
def decode2E (n : Nat) : Instr :=
  if n % 65536 = 0 ∧ n / 4194304 % 16 = 0 then .tzero (fld n 21 19) (fld n 18 16) else
  if n % 65536 = 0 ∧ n / 4194304 % 16 = 1 then .ttrans (fld n 21 19) (fld n 18 16) else
  if n % 64 = 0 ∧ n / 65536 % 8 = 0 ∧ n / 4194304 % 16 = 2 then .trdv (fld n 21 19) (fld n 15 11) (fld n 10 6) else
  if n % 64 = 0 ∧ n / 65536 % 8 = 0 ∧ n / 4194304 % 16 = 3 then .twrv (fld n 21 19) (fld n 15 11) (fld n 10 6) else
  .reservedEncoding

/-- The members of major 0x2F (R107). -/
def decode2F (n : Nat) : Instr :=
  if n % 256 = 0 ∧ n / 512 % 64 = 0 ∧ n / 4194304 % 16 = 0 then .mma (fld n 21 21) (fld n 20 18) (fld n 17 15) (fld n 8 8) else
  if n % 256 = 0 ∧ n / 4194304 % 16 = 1 then .mmas (fld n 21 21) (fld n 20 18) (fld n 17 15) (fld n 14 12) (fld n 11 9) (fld n 8 8) else
  if n % 256 = 0 ∧ n / 512 % 64 = 0 ∧ n / 4194304 % 16 = 2 then .mmai (fld n 21 21) (fld n 20 18) (fld n 17 15) (fld n 8 8) else
  .reservedEncoding

/-- The members of major 0x30 (R107). -/
def decode30 (n : Nat) : Instr :=
  if n % 2097152 = 0 ∧ n / 4194304 % 16 = 0 then .aczero (fld n 21 21) else
  if n % 4096 = 0 ∧ n / 4194304 % 16 = 1 then .acld (fld n 21 21) (fld n 20 17) (fld n 16 12) else
  if n % 4096 = 0 ∧ n / 4194304 % 16 = 2 then .acst (fld n 21 21) (fld n 20 17) (fld n 16 12) else
  if n % 256 = 0 ∧ n / 4096 % 512 = 0 ∧ n / 4194304 % 16 = 3 then .accvt (fld n 21 21) (fld n 11 9) (fld n 8 8) else
  if n % 256 = 0 ∧ n / 1024 % 2048 = 0 ∧ n / 4194304 % 16 = 4 then .acadd (fld n 21 21) (fld n 9 9) (fld n 8 8) else
  .reservedEncoding

/-- The members of major 0x31 (R107). -/
def decode31 (n : Nat) : Instr :=
  if n / 8 % 8192 = 0 ∧ n / 2097152 % 32 = 0 then .sbind (fld n 20 16) (fld n 2 0) else
  if n / 8 % 8388608 = 262144 then .sunbind (fld n 2 0) else
  if n / 8 % 8 = 0 ∧ n / 1048576 % 64 = 4 then .scfg (fld n 19 16) (fld n 15 11) (fld n 10 6) (fld n 2 0) else
  if n / 8 % 8388608 = 786432 then .sgo (fld n 2 0) else
  if n / 8 % 8388608 = 1048576 then .sstop (fld n 2 0) else
  if n / 8 % 8388608 = 1310720 then .ssync (fld n 2 0) else
  .reservedEncoding

/-- The members of major 0x32 (R107). -/
def decode32 (n : Nat) : Instr :=
  if n % 8 = 0 then .cpy (fld n 25 21) (fld n 20 17) (fld n 16 12) (fld n 11 8) (fld n 7 3) else
  if n % 8 = 1 then .cpycv (fld n 25 21) (fld n 20 17) (fld n 16 12) (fld n 11 8) (fld n 7 3) else
  if n % 8 = 2 then .cpymc (fld n 25 21) (fld n 20 17) (fld n 16 12) (fld n 11 8) (fld n 7 3) else
  if n % 8 = 3 then .cpyred (fld n 25 21) (fld n 20 17) (fld n 16 12) (fld n 11 8) (fld n 7 3) else
  .reservedEncoding

/-- The members of major 0x33 (R107). -/
def decode33 (n : Nat) : Instr :=
  if n / 32 % 64 = 0 ∧ n / 2097152 % 32 = 0 then .tkcommit (fld n 20 16) (fld n 15 11) (fld n 4 4) (fld n 3 0) else
  if n / 16 % 4096 = 0 ∧ n / 2097152 % 32 = 1 then .tkforce (fld n 20 16) (fld n 3 0) else
  if n / 16 % 128 = 0 ∧ n / 2097152 % 32 = 2 then .tkmask (fld n 20 16) (fld n 15 11) (fld n 3 0) else
  if n / 16 % 128 = 0 ∧ n / 2097152 % 32 = 3 then .tkstat (fld n 20 16) (fld n 15 11) (fld n 3 0) else
  if n / 16 % 4 = 0 ∧ n / 1024 % 64 = 0 ∧ n / 2097152 % 32 = 4 then .tkfork (fld n 20 16) (fld n 9 6) (fld n 3 0) else
  if n / 16 % 128 = 0 ∧ n / 2097152 % 32 = 5 then .tktrunc (fld n 20 16) (fld n 15 11) (fld n 3 0) else
  if n / 16 % 4194304 = 786432 then .tkckpt (fld n 3 0) else
  if n / 16 % 128 = 0 ∧ n / 2097152 % 32 = 7 then .tkdraw (fld n 20 16) (fld n 15 11) (fld n 3 0) else
  .reservedEncoding

/-- The members of major 0x34 (R107). -/
def decode34 (n : Nat) : Instr :=
  if n / 16 % 128 = 0 ∧ n / 2097152 % 32 = 0 then .rndu (fld n 20 16) (fld n 15 11) (fld n 3 0) else
  if n / 16 % 128 = 0 ∧ n / 2097152 % 32 = 1 then .rndv (fld n 20 16) (fld n 15 11) (fld n 3 0) else
  if n / 16 % 128 = 0 ∧ n / 2097152 % 32 = 2 then .rndg (fld n 20 16) (fld n 15 11) (fld n 3 0) else
  .reservedEncoding

/-- The members of major 0x35 (R107). -/
def decode35 (n : Nat) : Instr :=
  if n / 32 % 64 = 0 ∧ n / 2097152 % 32 = 0 then .nmaxi (fld n 20 16) (fld n 15 11) (fld n 4 4) (fld n 3 0) else
  if n / 32 % 64 = 0 ∧ n / 2097152 % 32 = 1 then .nmini (fld n 20 16) (fld n 15 11) (fld n 4 4) (fld n 3 0) else
  if n / 16 % 128 = 0 ∧ n / 2097152 % 32 = 2 then .nadd (fld n 20 16) (fld n 15 11) (fld n 3 0) else
  .reservedEncoding

/-- The members of major 0x36 (R107). -/
def decode36 (n : Nat) : Instr :=
  if n / 16 % 4096 = 0 ∧ n / 2097152 % 32 = 0 then .eqinit (fld n 20 16) (fld n 3 0) else
  if n / 16 % 4 = 0 ∧ n / 2097152 % 32 = 1 then .equnite (fld n 20 16) (fld n 15 11) (fld n 10 6) (fld n 3 0) else
  if n / 16 % 128 = 0 ∧ n / 2097152 % 32 = 2 then .eqfind (fld n 20 16) (fld n 15 11) (fld n 3 0) else
  if n / 16 % 128 = 0 ∧ n / 2097152 % 32 = 3 then .eqsize (fld n 20 16) (fld n 15 11) (fld n 3 0) else
  if n / 16 % 4 = 0 ∧ n / 1024 % 2 = 0 ∧ n / 32768 % 2 = 0 ∧ n / 2097152 % 32 = 4 then .eqreduce (fld n 20 16) (fld n 14 11) (fld n 9 6) (fld n 3 0) else
  if n / 16 % 128 = 0 ∧ n / 2097152 % 32 = 5 then .eqsnap (fld n 20 16) (fld n 15 11) (fld n 3 0) else
  if n / 16 % 128 = 0 ∧ n / 2097152 % 32 = 6 then .equndo (fld n 20 16) (fld n 15 11) (fld n 3 0) else
  if n / 16 % 128 = 0 ∧ n / 2097152 % 32 = 7 then .eqstat (fld n 20 16) (fld n 15 11) (fld n 3 0) else
  .reservedEncoding

/-- The members of major 0x37 (R107). -/
def decode37 (n : Nat) : Instr :=
  if n / 16 % 4 = 0 ∧ n / 1024 % 2 = 0 ∧ n / 32768 % 2 = 0 ∧ n / 2097152 % 32 = 0 then .tkenc (fld n 20 16) (fld n 14 11) (fld n 9 6) (fld n 3 0) else
  if n / 32 % 2 = 0 ∧ n / 1024 % 2 = 0 ∧ n / 32768 % 2 = 0 ∧ n / 2097152 % 32 = 1 then .tkdec (fld n 20 16) (fld n 14 11) (fld n 9 6) (fld n 4 4) (fld n 3 0) else
  .reservedEncoding

/-- The members of major 0x38 (R107). -/
def decode38 (n : Nat) : Instr :=
  if n / 2097152 % 32 = 0 then .syscall (fld n 20 16) (fld n 15 11) (fld n 10 6) (fld n 5 0) else
  if n % 67108864 = 2097152 then .eret else
  if n % 67108864 = 4194304 then .wfi else
  if n / 4 % 512 = 0 ∧ n / 2097152 % 32 = 3 then .halt (fld n 20 16) (fld n 15 11) (fld n 1 0) else
  if n % 2048 = 0 ∧ n / 65536 % 1024 = 128 then .wake (fld n 15 11) else
  if n % 2048 = 1 ∧ n / 65536 % 1024 = 128 then .wakePg (fld n 15 11) else
  if n % 64 = 0 ∧ n / 2097152 % 32 = 5 then .harvest (fld n 20 16) (fld n 15 11) (fld n 10 6) else
  if n / 4 % 16 = 0 ∧ n / 2097152 % 32 = 6 then .xinv (fld n 20 16) (fld n 15 11) (fld n 10 6) (fld n 1 0) else
  if n / 16 % 128 = 0 ∧ n / 2097152 % 32 = 7 then .keyset (fld n 20 16) (fld n 15 11) (fld n 3 0) else
  if n % 2048 = 0 ∧ n / 2097152 % 32 = 8 then .keyclr (fld n 20 16) (fld n 15 11) else
  if n % 64 = 0 ∧ n / 2097152 % 32 = 9 then .spillrpl (fld n 20 16) (fld n 15 11) (fld n 10 6) else
  .reservedEncoding

/-- The member that a major opcode and the rest of the word select (R107, R108). A word of major 0x3E is a prefix:
the pair's second word is read when the pair executes (R105). -/
def decodeMajor (op n : Nat) : Instr :=
  match op with
  | 1 => decode01 n
  | 2 => decode02 n
  | 3 => decode03 n
  | 4 => decode04 n
  | 5 => decode05 n
  | 6 => decode06 n
  | 7 => decode07 n
  | 8 => decode08 n
  | 9 => decode09 n
  | 10 => decode0A n
  | 11 => decode0B n
  | 12 => decode0C n
  | 13 => decode0D n
  | 14 => decode0E n
  | 15 => decode0F n
  | 16 => decode10 n
  | 17 => decode11 n
  | 18 => decode12 n
  | 19 => decode13 n
  | 20 => decode14 n
  | 21 => decode15 n
  | 22 => decode16 n
  | 23 => decode17 n
  | 24 => decode18 n
  | 25 => decode19 n
  | 26 => decode1A n
  | 27 => decode1B n
  | 28 => decode1C n
  | 29 => decode1D n
  | 30 => decode1E n
  | 31 => decode1F n
  | 32 => decode20 n
  | 33 => decode21 n
  | 34 => decode22 n
  | 35 => decode23 n
  | 36 => decode24 n
  | 37 => decode25 n
  | 38 => decode26 n
  | 39 => decode27 n
  | 40 => decode28 n
  | 41 => decode29 n
  | 42 => decode2A n
  | 43 => decode2B n
  | 44 => decode2C n
  | 45 => decode2D n
  | 46 => decode2E n
  | 47 => decode2F n
  | 48 => decode30 n
  | 49 => decode31 n
  | 50 => decode32 n
  | 51 => decode33 n
  | 52 => decode34 n
  | 53 => decode35 n
  | 54 => decode36 n
  | 55 => decode37 n
  | 56 => decode38 n
  | 62 => .vectorPrefix
  | 0 => .illegalInstruction
  | 63 => .illegalInstruction
  | _ => .reservedEncoding

/-- The major opcode `OP` = [31:26] of a word (R101). -/
def majorOf (w : BitVec 32) : Nat := w.toNat / 67108864

/-- The instruction that a word selects. -/
def decodeWord (w : BitVec 32) : Instr := decodeMajor (majorOf w) w.toNat

/-- A 32-bit word from four bytes, the first at the lowest address (R2, R101). -/
def wordOfBytes (a b c d : Byte) : BitVec 32 := d ++ c ++ b ++ a

/-- One instruction from a list of bytes, and the bytes after it: four bytes, or eight for a prefixed pair. -/
def decodeBytes : List Byte → Option (Instr × List Byte)
  | a :: b :: c :: d :: rest =>
    let w := wordOfBytes a b c d
    if majorOf w = 62 then
      if rest.length < 4 then none else some (.vectorPrefix, rest.drop 4)
    else some (decodeWord w, rest)
  | _ => none

/-- The bytes of a number, lowest first. -/
def bytesOf : Nat → Nat → List Byte
  | 0, _ => []
  | k + 1, n => BitVec.ofNat 8 n :: bytesOf k (n / 256)

/-- The instruction of an opcode-table word: the bits above `nbits` are zero, and the longest instruction is a pair of
64 bits. -/
def decodeTableWord (nbits w : Nat) : Option Instr :=
  (decodeBytes (bytesOf 8 (w % 2 ^ nbits))).map (·.1)

/-- A field placed at bit `lo`. -/
def put {k : Nat} (x : BitVec k) (lo : Nat) : Nat := x.toNat * 2 ^ lo

/-- The word of an encoded instruction as a number, from the layouts of R104 and the selectors of R107. Steps without
a word have 0. -/
def encodeNat : Instr → Nat
  | .add d a w b x => 0x04000000 + put d 21 + put a 16 + put w 15 + put b 10 + put x 9
  | .sub d a w b x => 0x04000001 + put d 21 + put a 16 + put w 15 + put b 10 + put x 9
  | .and d a w b x => 0x04000002 + put d 21 + put a 16 + put w 15 + put b 10 + put x 9
  | .or d a w b x => 0x04000003 + put d 21 + put a 16 + put w 15 + put b 10 + put x 9
  | .xor d a w b x => 0x04000004 + put d 21 + put a 16 + put w 15 + put b 10 + put x 9
  | .andn d a w b x => 0x04000005 + put d 21 + put a 16 + put w 15 + put b 10 + put x 9
  | .shl d a w b x => 0x04000006 + put d 21 + put a 16 + put w 15 + put b 10 + put x 9
  | .shr d a w b x => 0x04000007 + put d 21 + put a 16 + put w 15 + put b 10 + put x 9
  | .sra d a w b x => 0x04000008 + put d 21 + put a 16 + put w 15 + put b 10 + put x 9
  | .mul d a w b x => 0x04000009 + put d 21 + put a 16 + put w 15 + put b 10 + put x 9
  | .mulh d a w b x => 0x0400000A + put d 21 + put a 16 + put w 15 + put b 10 + put x 9
  | .mulhu d a w b x => 0x0400000B + put d 21 + put a 16 + put w 15 + put b 10 + put x 9
  | .div d a w b x => 0x0400000C + put d 21 + put a 16 + put w 15 + put b 10 + put x 9
  | .divu d a w b x => 0x0400000D + put d 21 + put a 16 + put w 15 + put b 10 + put x 9
  | .rem d a w b x => 0x0400000E + put d 21 + put a 16 + put w 15 + put b 10 + put x 9
  | .remu d a w b x => 0x0400000F + put d 21 + put a 16 + put w 15 + put b 10 + put x 9
  | .min d a w b x => 0x04000010 + put d 21 + put a 16 + put w 15 + put b 10 + put x 9
  | .max d a w b x => 0x04000011 + put d 21 + put a 16 + put w 15 + put b 10 + put x 9
  | .minu d a w b x => 0x04000012 + put d 21 + put a 16 + put w 15 + put b 10 + put x 9
  | .maxu d a w b x => 0x04000013 + put d 21 + put a 16 + put w 15 + put b 10 + put x 9
  | .clz d a w => 0x04000014 + put d 21 + put a 16 + put w 15
  | .ctz d a w => 0x04000015 + put d 21 + put a 16 + put w 15
  | .popc d a w => 0x04000016 + put d 21 + put a 16 + put w 15
  | .sext d a w n => 0x04000017 + put d 21 + put a 16 + put w 15 + put n 10
  | .selp d a w b x p => 0x04000018 + put d 21 + put a 16 + put w 15 + put b 10 + put x 9 + put p 5
  | .addi d a w i => 0x08000000 + put d 21 + put a 16 + put w 15 + put i 0
  | .andi d a w i => 0x0C000000 + put d 21 + put a 16 + put w 15 + put i 0
  | .ori d a w i => 0x10000000 + put d 21 + put a 16 + put w 15 + put i 0
  | .xori d a w i => 0x14000000 + put d 21 + put a 16 + put w 15 + put i 0
  | .shli d a w n => 0x18000000 + put d 21 + put a 16 + put w 15 + put n 0
  | .shri d a w n => 0x18001000 + put d 21 + put a 16 + put w 15 + put n 0
  | .srai d a w n => 0x18002000 + put d 21 + put a 16 + put w 15 + put n 0
  | .pcmpi p a w c i => 0x1C000000 + put p 21 + put a 16 + put w 15 + put c 12 + put i 0
  | .li d i => 0x20000000 + put d 21 + put i 0
  | .lih d i => 0x24000000 + put d 21 + put i 0
  | .pcmp p a w b x m c => 0x28000000 + put p 21 + put a 16 + put w 15 + put b 10 + put x 9 + put m 3 + put c 0
  | .pand d a b => 0x2C000000 + put d 21 + put a 16 + put b 10
  | .por d a b => 0x2C000001 + put d 21 + put a 16 + put b 10
  | .pxor d a b => 0x2C000002 + put d 21 + put a 16 + put b 10
  | .pnot d a => 0x2C000003 + put d 21 + put a 16
  | .pmovs d => 0x2C000004 + put d 21
  | .smovp a w => 0x2C000005 + put a 16 + put w 15
  | .br p n o => 0x30000000 + put p 22 + put n 21 + put o 0
  | .jmp o => 0x34000000 + put o 0
  | .jal o => 0x38000000 + put o 0
  | .jalr d a w i => 0x3C000000 + put d 21 + put a 16 + put w 15 + put i 0
  | .ld d c a w z h o => 0x40000000 + put d 21 + put c 17 + put a 12 + put w 11 + put z 9 + put h 6 + put o 0
  | .ldu d c a w z h o => 0x44000000 + put d 21 + put c 17 + put a 12 + put w 11 + put z 9 + put h 6 + put o 0
  | .st d c a w z o => 0x48000000 + put d 21 + put c 17 + put a 12 + put w 11 + put z 9 + put o 0
  | .ldacq d c a w z s h o => 0x4C000000 + put d 21 + put c 17 + put a 12 + put w 11 + put z 9 + put s 7 + put h 6 + put o 0
  | .strel d c a w z s o => 0x50000000 + put d 21 + put c 17 + put a 12 + put w 11 + put z 9 + put s 7 + put o 0
  | .amoaddW d c a v s o => 0x54000000 + put d 21 + put c 17 + put a 12 + put v 7 + put s 1 + put o 0
  | .amoandW d c a v s o => 0x54000008 + put d 21 + put c 17 + put a 12 + put v 7 + put s 1 + put o 0
  | .amoorW d c a v s o => 0x54000010 + put d 21 + put c 17 + put a 12 + put v 7 + put s 1 + put o 0
  | .amoxorW d c a v s o => 0x54000018 + put d 21 + put c 17 + put a 12 + put v 7 + put s 1 + put o 0
  | .amominW d c a v s o => 0x54000020 + put d 21 + put c 17 + put a 12 + put v 7 + put s 1 + put o 0
  | .amomaxW d c a v s o => 0x54000028 + put d 21 + put c 17 + put a 12 + put v 7 + put s 1 + put o 0
  | .amominuW d c a v s o => 0x54000030 + put d 21 + put c 17 + put a 12 + put v 7 + put s 1 + put o 0
  | .amomaxuW d c a v s o => 0x54000038 + put d 21 + put c 17 + put a 12 + put v 7 + put s 1 + put o 0
  | .amoswapW d c a v s o => 0x54000040 + put d 21 + put c 17 + put a 12 + put v 7 + put s 1 + put o 0
  | .amofaddW d c a v s o => 0x54000048 + put d 21 + put c 17 + put a 12 + put v 7 + put s 1 + put o 0
  | .amoaddD d c a v s o => 0x58000000 + put d 21 + put c 17 + put a 12 + put v 7 + put s 1 + put o 0
  | .amoandD d c a v s o => 0x58000008 + put d 21 + put c 17 + put a 12 + put v 7 + put s 1 + put o 0
  | .amoorD d c a v s o => 0x58000010 + put d 21 + put c 17 + put a 12 + put v 7 + put s 1 + put o 0
  | .amoxorD d c a v s o => 0x58000018 + put d 21 + put c 17 + put a 12 + put v 7 + put s 1 + put o 0
  | .amominD d c a v s o => 0x58000020 + put d 21 + put c 17 + put a 12 + put v 7 + put s 1 + put o 0
  | .amomaxD d c a v s o => 0x58000028 + put d 21 + put c 17 + put a 12 + put v 7 + put s 1 + put o 0
  | .amominuD d c a v s o => 0x58000030 + put d 21 + put c 17 + put a 12 + put v 7 + put s 1 + put o 0
  | .amomaxuD d c a v s o => 0x58000038 + put d 21 + put c 17 + put a 12 + put v 7 + put s 1 + put o 0
  | .amoswapD d c a v s o => 0x58000040 + put d 21 + put c 17 + put a 12 + put v 7 + put s 1 + put o 0
  | .cas d c a v w s o => 0x5C000000 + put d 21 + put c 17 + put a 12 + put v 7 + put w 6 + put s 1 + put o 0
  | .fenceAcq s => 0x60000000 + put s 0
  | .fenceRel s => 0x60200000 + put s 0
  | .fenceFull s => 0x60400000 + put s 0
  | .cinv a b c => 0x64000000 + put a 11 + put b 6 + put c 0
  | .cflush a b c => 0x64200000 + put a 11 + put b 6 + put c 0
  | .cpref a b c => 0x64400000 + put a 11 + put b 6 + put c 0
  | .ddhint a b c => 0x64600000 + put a 11 + put b 6 + put c 0
  | .ddstat d a c => 0x64800000 + put d 16 + put a 11 + put c 0
  | .mcst d a b z c => 0x64A00000 + put d 16 + put a 11 + put b 6 + put z 4 + put c 0
  | .redst d a b o c => 0x64C00000 + put d 16 + put a 11 + put b 6 + put o 4 + put c 0
  | .cbnd d c a s => 0x68000000 + put d 22 + put c 18 + put a 13 + put s 8
  | .crestr d c a => 0x68000001 + put d 22 + put c 18 + put a 13
  | .cinc d c a => 0x68000002 + put d 22 + put c 18 + put a 13
  | .cgetb c s => 0x68000003 + put c 18 + put s 8
  | .cgetl c s => 0x68000004 + put c 18 + put s 8
  | .cgetp c s => 0x68000005 + put c 18 + put s 8
  | .cmov d c => 0x68000006 + put d 22 + put c 18
  | .cclr d => 0x68000007 + put d 22
  | .ctest c a s => 0x68000008 + put c 18 + put a 13 + put s 8
  | .cld x c a o => 0x6C000000 + put x 22 + put c 18 + put a 13 + put o 0
  | .cst x c a o => 0x70000000 + put x 22 + put c 18 + put a 13 + put o 0
  | .csrr d r => 0x74000000 + put d 21 + put r 0
  | .csrw d a r => 0x74004000 + put d 21 + put a 16 + put r 0
  | .csrs d a r => 0x74008000 + put d 21 + put a 16 + put r 0
  | .csrc d a r => 0x7400C000 + put d 21 + put a 16 + put r 0
  | .start d a b => 0x78000000 + put d 16 + put a 11 + put b 6
  | .thid d => 0x78600000 + put d 16
  | .vgrow n => 0x78800000 + put n 0
  | .vshrink n => 0x78A00000 + put n 0
  | .send a b n => 0x7C000000 + put a 11 + put b 6 + put n 0
  | .migrate a c => 0x7C200000 + put a 11 + put c 0
  | .reply a b r => 0x7C400000 + put a 11 + put b 6 + put r 0
  | .qcfg c a b q => 0x80000000 + put c 16 + put a 11 + put b 6 + put q 0
  | .qclaim d p q => 0x80200000 + put d 16 + put p 6 + put q 0
  | .qpub a q => 0x80400000 + put a 11 + put q 0
  | .qwaitf d p q => 0x80600000 + put d 16 + put p 6 + put q 0
  | .qfree a q => 0x80800000 + put a 11 + put q 0
  | .qwaite d p q => 0x80A00000 + put d 16 + put p 6 + put q 0
  | .qerr d a q => 0x80C00000 + put d 16 + put a 11 + put q 0
  | .qsetrd a q => 0x80E00000 + put a 11 + put q 0
  | .barinit c a b n => 0x84000000 + put c 16 + put a 11 + put b 6 + put n 0
  | .bararr r n => 0x84200000 + put r 4 + put n 0
  | .barwait n => 0x84400000 + put n 0
  | .barsync r n => 0x84600000 + put r 4 + put n 0
  | .vadd d a b t => 0x88000000 + put d 21 + put a 16 + put b 11 + put t 8
  | .vsub d a b t => 0x88000001 + put d 21 + put a 16 + put b 11 + put t 8
  | .vmul d a b t => 0x88000002 + put d 21 + put a 16 + put b 11 + put t 8
  | .vmulh d a b t => 0x88000003 + put d 21 + put a 16 + put b 11 + put t 8
  | .vmin d a b t => 0x88000004 + put d 21 + put a 16 + put b 11 + put t 8
  | .vmax d a b t => 0x88000005 + put d 21 + put a 16 + put b 11 + put t 8
  | .vminu d a b t => 0x88000006 + put d 21 + put a 16 + put b 11 + put t 8
  | .vmaxu d a b t => 0x88000007 + put d 21 + put a 16 + put b 11 + put t 8
  | .vand d a b t => 0x88000008 + put d 21 + put a 16 + put b 11 + put t 8
  | .vor d a b t => 0x88000009 + put d 21 + put a 16 + put b 11 + put t 8
  | .vxor d a b t => 0x8800000A + put d 21 + put a 16 + put b 11 + put t 8
  | .vshl d a b t => 0x8800000B + put d 21 + put a 16 + put b 11 + put t 8
  | .vshr d a b t => 0x8800000C + put d 21 + put a 16 + put b 11 + put t 8
  | .vsra d a b t => 0x8800000D + put d 21 + put a 16 + put b 11 + put t 8
  | .vfma d a b t => 0x8800000E + put d 21 + put a 16 + put b 11 + put t 8
  | .vabs d a t => 0x8800000F + put d 21 + put a 16 + put t 8
  | .vneg d a t => 0x88000010 + put d 21 + put a 16 + put t 8
  | .vminn d a b t => 0x88000011 + put d 21 + put a 16 + put b 11 + put t 8
  | .vmaxn d a b t => 0x88000012 + put d 21 + put a 16 + put b 11 + put t 8
  | .vaddScalar d a b t => 0x8C000000 + put d 21 + put a 16 + put b 11 + put t 8
  | .vsubScalar d a b t => 0x8C000001 + put d 21 + put a 16 + put b 11 + put t 8
  | .vmulScalar d a b t => 0x8C000002 + put d 21 + put a 16 + put b 11 + put t 8
  | .vmulhScalar d a b t => 0x8C000003 + put d 21 + put a 16 + put b 11 + put t 8
  | .vminScalar d a b t => 0x8C000004 + put d 21 + put a 16 + put b 11 + put t 8
  | .vmaxScalar d a b t => 0x8C000005 + put d 21 + put a 16 + put b 11 + put t 8
  | .vminuScalar d a b t => 0x8C000006 + put d 21 + put a 16 + put b 11 + put t 8
  | .vmaxuScalar d a b t => 0x8C000007 + put d 21 + put a 16 + put b 11 + put t 8
  | .vandScalar d a b t => 0x8C000008 + put d 21 + put a 16 + put b 11 + put t 8
  | .vorScalar d a b t => 0x8C000009 + put d 21 + put a 16 + put b 11 + put t 8
  | .vxorScalar d a b t => 0x8C00000A + put d 21 + put a 16 + put b 11 + put t 8
  | .vshlScalar d a b t => 0x8C00000B + put d 21 + put a 16 + put b 11 + put t 8
  | .vshrScalar d a b t => 0x8C00000C + put d 21 + put a 16 + put b 11 + put t 8
  | .vsraScalar d a b t => 0x8C00000D + put d 21 + put a 16 + put b 11 + put t 8
  | .vfmaScalar d a b t => 0x8C00000E + put d 21 + put a 16 + put b 11 + put t 8
  | .vminnScalar d a b t => 0x8C000011 + put d 21 + put a 16 + put b 11 + put t 8
  | .vmaxnScalar d a b t => 0x8C000012 + put d 21 + put a 16 + put b 11 + put t 8
  | .vcmp k a b t n c => 0x90000000 + put k 21 + put a 16 + put b 11 + put t 8 + put n 5 + put c 0
  | .vpermb d a b => 0x94000000 + put d 21 + put a 16 + put b 11
  | .vshuf d a b t => 0x94000001 + put d 21 + put a 16 + put b 11 + put t 8
  | .vbcast d a t => 0x94000002 + put d 21 + put a 16 + put t 8
  | .vslide d a b t => 0x94000003 + put d 21 + put a 16 + put b 11 + put t 8
  | .vextr d a b t => 0x94000004 + put d 21 + put a 16 + put b 11 + put t 8
  | .vins d a b t => 0x94000005 + put d 21 + put a 16 + put b 11 + put t 8
  | .vredsum d a t => 0x98000000 + put d 21 + put a 16 + put t 8
  | .vredmax d a t => 0x98000001 + put d 21 + put a 16 + put t 8
  | .vredmin d a t => 0x98000002 + put d 21 + put a 16 + put t 8
  | .vredmaxi d a b t => 0x98000003 + put d 21 + put a 16 + put b 11 + put t 8
  | .vredmini d a b t => 0x98000004 + put d 21 + put a 16 + put b 11 + put t 8
  | .vscan d a t => 0x98000005 + put d 21 + put a 16 + put t 8
  | .vcvt d a s u => 0x9C000000 + put d 21 + put a 16 + put s 8 + put u 5
  | .vpack d a p s u => 0x9C000001 + put d 21 + put a 16 + put p 11 + put s 8 + put u 5
  | .vunpk d a p s u => 0x9C000002 + put d 21 + put a 16 + put p 11 + put s 8 + put u 5
  | .vld d c a w t h o => 0xA0000000 + put d 21 + put c 17 + put a 12 + put w 11 + put t 8 + put h 7 + put o 1
  | .vlds d c a w t h s => 0xA0000001 + put d 21 + put c 17 + put a 12 + put w 11 + put t 8 + put h 7 + put s 2
  | .vst d c a w t o => 0xA4000000 + put d 21 + put c 17 + put a 12 + put w 11 + put t 8 + put o 1
  | .vsts d c a w t s => 0xA4000001 + put d 21 + put c 17 + put a 12 + put w 11 + put t 8 + put s 2
  | .vgather d a c t => 0xA8000000 + put d 21 + put a 16 + put c 11 + put t 8
  | .vscatter d a c t => 0xA8000001 + put d 21 + put a 16 + put c 11 + put t 8
  | .fexp2 d a t => 0xAC000000 + put d 21 + put a 16 + put t 8
  | .flog2 d a t => 0xAC000001 + put d 21 + put a 16 + put t 8
  | .frcp d a t => 0xAC000002 + put d 21 + put a 16 + put t 8
  | .frsq d a t => 0xAC000003 + put d 21 + put a 16 + put t 8
  | .ftanh d a t => 0xAC000004 + put d 21 + put a 16 + put t 8
  | .fsin d a t => 0xAC000005 + put d 21 + put a 16 + put t 8
  | .fcos d a t => 0xAC000006 + put d 21 + put a 16 + put t 8
  | .vmov d a t => 0xB0000000 + put d 21 + put a 16 + put t 8
  | .vsel d a b t => 0xB0000001 + put d 21 + put a 16 + put b 11 + put t 8
  | .viota d a t => 0xB0000002 + put d 21 + put a 16 + put t 8
  | .kand d a b => 0xB0000003 + put d 21 + put a 16 + put b 11
  | .kor d a b => 0xB0000004 + put d 21 + put a 16 + put b 11
  | .knot d a => 0xB0000005 + put d 21 + put a 16
  | .kpopc d a => 0xB0000006 + put d 21 + put a 16
  | .tld t c a b h => 0xB4000000 + put t 19 + put c 15 + put a 10 + put b 5 + put h 4
  | .tst t c a b => 0xB4400000 + put t 19 + put c 15 + put a 10 + put b 5
  | .tzero t s => 0xB8000000 + put t 19 + put s 16
  | .ttrans t s => 0xB8400000 + put t 19 + put s 16
  | .trdv t v a => 0xB8800000 + put t 19 + put v 11 + put a 6
  | .twrv t v a => 0xB8C00000 + put t 19 + put v 11 + put a 6
  | .mma n a b c => 0xBC000000 + put n 21 + put a 18 + put b 15 + put c 8
  | .mmas n a b s u c => 0xBC400000 + put n 21 + put a 18 + put b 15 + put s 12 + put u 9 + put c 8
  | .mmai n a b c => 0xBC800000 + put n 21 + put a 18 + put b 15 + put c 8
  | .aczero n => 0xC0000000 + put n 21
  | .acld n c a => 0xC0400000 + put n 21 + put c 17 + put a 12
  | .acst n c a => 0xC0800000 + put n 21 + put c 17 + put a 12
  | .accvt n t i => 0xC0C00000 + put n 21 + put t 9 + put i 8
  | .acadd n i b => 0xC1000000 + put n 21 + put i 9 + put b 8
  | .sbind v n => 0xC4000000 + put v 16 + put n 0
  | .sunbind n => 0xC4200000 + put n 0
  | .scfg c a b n => 0xC4400000 + put c 16 + put a 11 + put b 6 + put n 0
  | .sgo n => 0xC4600000 + put n 0
  | .sstop n => 0xC4800000 + put n 0
  | .ssync n => 0xC4A00000 + put n 0
  | .cpy d e f g h => 0xC8000000 + put d 21 + put e 17 + put f 12 + put g 8 + put h 3
  | .cpycv d e f g h => 0xC8000001 + put d 21 + put e 17 + put f 12 + put g 8 + put h 3
  | .cpymc d e f g h => 0xC8000002 + put d 21 + put e 17 + put f 12 + put g 8 + put h 3
  | .cpyred d e f g h => 0xC8000003 + put d 21 + put e 17 + put f 12 + put g 8 + put h 3
  | .tkcommit d a f c => 0xCC000000 + put d 16 + put a 11 + put f 4 + put c 0
  | .tkforce d c => 0xCC200000 + put d 16 + put c 0
  | .tkmask v a c => 0xCC400000 + put v 16 + put a 11 + put c 0
  | .tkstat d a c => 0xCC600000 + put d 16 + put a 11 + put c 0
  | .tkfork d b c => 0xCC800000 + put d 16 + put b 6 + put c 0
  | .tktrunc d a c => 0xCCA00000 + put d 16 + put a 11 + put c 0
  | .tkckpt c => 0xCCC00000 + put c 0
  | .tkdraw d a c => 0xCCE00000 + put d 16 + put a 11 + put c 0
  | .rndu d a c => 0xD0000000 + put d 16 + put a 11 + put c 0
  | .rndv v a c => 0xD0200000 + put v 16 + put a 11 + put c 0
  | .rndg v a c => 0xD0400000 + put v 16 + put a 11 + put c 0
  | .nmaxi d a i g => 0xD4000000 + put d 16 + put a 11 + put i 4 + put g 0
  | .nmini d a i g => 0xD4200000 + put d 16 + put a 11 + put i 4 + put g 0
  | .nadd d a g => 0xD4400000 + put d 16 + put a 11 + put g 0
  | .eqinit d f => 0xD8000000 + put d 16 + put f 0
  | .equnite d a b f => 0xD8200000 + put d 16 + put a 11 + put b 6 + put f 0
  | .eqfind d a f => 0xD8400000 + put d 16 + put a 11 + put f 0
  | .eqsize d a f => 0xD8600000 + put d 16 + put a 11 + put f 0
  | .eqreduce d a b f => 0xD8800000 + put d 16 + put a 11 + put b 6 + put f 0
  | .eqsnap d a f => 0xD8A00000 + put d 16 + put a 11 + put f 0
  | .equndo d a f => 0xD8C00000 + put d 16 + put a 11 + put f 0
  | .eqstat d a f => 0xD8E00000 + put d 16 + put a 11 + put f 0
  | .tkenc d a b s => 0xDC000000 + put d 16 + put a 11 + put b 6 + put s 0
  | .tkdec d a b x s => 0xDC200000 + put d 16 + put a 11 + put b 6 + put x 4 + put s 0
  | .syscall d a b n => 0xE0000000 + put d 16 + put a 11 + put b 6 + put n 0
  | .halt d a m => 0xE0600000 + put d 16 + put a 11 + put m 0
  | .wake a => 0xE0800000 + put a 11
  | .wakePg a => 0xE0800001 + put a 11
  | .harvest d a b => 0xE0A00000 + put d 16 + put a 11 + put b 6
  | .xinv d a b m => 0xE0C00000 + put d 16 + put a 11 + put b 6 + put m 0
  | .keyset d a c => 0xE0E00000 + put d 16 + put a 11 + put c 0
  | .keyclr d a => 0xE1000000 + put d 16 + put a 11
  | .spillrpl d a b => 0xE1200000 + put d 16 + put a 11 + put b 6
  | .retire => 0x78200000
  | .yield => 0x78400000
  | .park => 0x78C00000
  | .eret => 0xE0200000
  | .wfi => 0xE0400000
  | _ => 0

/-- The word of an encoded instruction. -/
def encodeWord (i : Instr) : BitVec 32 := BitVec.ofNat 32 (encodeNat i)

/-- Whether a row of the table has an encoding. -/
def hasWord (i : Instr) : Bool := encodeNat i != 0

/-- The words of an instruction: one, or none for a step without an encoding. A prefixed pair is a prefix word and the
word of its follower. -/
def encode (i : Instr) : List (BitVec 32) := if hasWord i then [encodeWord i] else []

end Sys2Proof
end

