-- ==== Sys2Proof/Config.lean ====
section
/-!
DEFINITION. What an implementation fixes, and the free values: constants without a body, of which no proof can see
what they are. Those that stand for a fresh choice each time are applied to the counter `State.tick`.
-/

namespace Sys2Proof

/-- How another module answers a system-window access of this one (R403): the value, the failure that is returned to the
issuing thread, or that the page is absent there, which parks the thread (R335). -/
inductive RemoteAnswer
  | value (v : BitVec 64)
  | refused
  | integrity
  | absent
  deriving DecidableEq, Repr, Inhabited

/-- FREE. What the machine does next when nothing is laid down: the manual promises no order among the cores, the
units and the outside beyond its rules (R22, R29, R82). DESIGN CHOICE, log 3. -/
opaque Config.turn : Nat → Turn

/-- FREE. The CLUSTER and CORE fields of a service pair's thread handles, which R18 does not give. DESIGN CHOICE,
log 9. -/
opaque Config.pairTag : BitVec 7

/-- FREE. Which of the two neighbours a faithful special function returns: function, format, operand (R73). DESIGN
CHOICE, log 12. -/
opaque Config.sfuUpper : Nat → Nat → BitVec 32 → Bool

/-- FREE. The scale of a block for a format whose largest finite value is 0, by scale format and largest input (R64). DESIGN
CHOICE, log 71. -/
opaque Config.scaleOverZero : Nat → Nat → Int → Nat

/-- FREE. The word of an exact image where the sum of a word and an integer does not fit it (R75, R214). DESIGN CHOICE,
log 72. -/
opaque Config.exactBeyond : Nat → Int → BitVec 64

/-- FREE. The order in which a floating sum of EQREDUCE adds its elements (R260): a key for each element. DESIGN
CHOICE, log 14. -/
opaque Config.sumKey : Nat → Nat → Nat

/-- FREE. Whether a granule was written by a copy or Lichen operation that stopped (R213, R257, R260). DESIGN CHOICE,
log 15. -/
opaque Config.written : Nat → Nat → Bool

/-- FREE. Whether a destination granule of a copy whose spans overlap holds its source as read after its overwrite
(R212). DESIGN CHOICE, log 15. -/
opaque Config.readAfter : Nat → Nat → Bool

/-- FREE. The answer of another module to a request of a step for an address (R403). DESIGN CHOICE, log 18. -/
opaque Config.remote : Nat → Nat → RemoteAnswer

/-- A page of another module as MCST, REDST and CPYMC find it: destinations after its first, at most seven, and of each whether it
may be written and whether its line is poisoned (R148, R150, R357). -/
structure RemotePage where
  more     : Nat
  permits  : BitVec 8
  poisoned : BitVec 8
  deriving DecidableEq, Repr, Inhabited

/-- FREE. What a multicast to a page of another module finds there, by step and page (R358, R403). DESIGN CHOICE, log 18. -/
opaque Config.remotePage : Nat → Nat → RemotePage

/-- FREE. What the replay of the service operating system's journal writes, by step and by the journal's bytes: addresses of the root
region's address space and the byte that each takes (R408). DESIGN CHOICE, log 55. -/
opaque Config.journalWrites : Nat → List (BitVec 8) → List (Nat × BitVec 8)

/-- FREE. The `FDOMID` of another module of the fabric, by its number (R402, R406). DESIGN CHOICE, log 18. -/
opaque Config.fabricDomain : Nat → BitVec 16

/-- FREE. The contents of the vector registers of a visitor that comes back from the visitor area, whose records do not
hold them (R17, R344). DESIGN CHOICE, log 28. -/
opaque Config.lostVector : Nat → Nat → BitVec 2048

/-- FREE. The `TTBASE` that a pair writes when it re-arms the time-triggered table in a takeover (R408). DESIGN CHOICE,
log 27. -/
opaque Config.tableBase : Nat → Nat

/-- FREE. The size in bytes of the memory device behind CXL port p (R401). DESIGN CHOICE, log 58. -/
opaque Config.cxlBytes : Nat → Nat

/-- FREE. Which set of 16 a line's tag takes at its home slice, by the line's key (R365). DESIGN CHOICE,
log 16. -/
opaque Config.tagSet : Nat → Nat

/-- FREE. Which set of 8 a leaf takes in a slice's translation cache, by address space, page and page size (R353). DESIGN
CHOICE, log 16. -/
opaque Config.tlbSet : Nat → Nat → Nat → Nat

/-- FREE. The public key of the Falcon-1024 pair that a seed generates (R410), 1,793 bytes. The manual does not define the scheme.
DESIGN CHOICE, log 77. -/
opaque Config.falconPublic : BitVec 384 → BitVec 14344

/-- FREE. The signature that the holder of a public key's private key makes over a message, padded to 1,280 bytes (R395, R398).
DESIGN CHOICE, log 77. -/
opaque Config.falconSignature : BitVec 14344 → List (BitVec 8) → BitVec 10240

/-- FREE. Whether a signature other than that one verifies over a message under a public key. DESIGN CHOICE, log 77. -/
opaque Config.falconAccepts : BitVec 14344 → List (BitVec 8) → BitVec 10240 → Bool

/-- FREE. The identity secret of die 0's physically unclonable function (R410). DESIGN CHOICE, log 58. -/
opaque Config.identitySecret : List (BitVec 8)

/-- FREE. The sealing secret of that function (R394, R410). DESIGN CHOICE, log 58. -/
opaque Config.sealingSecret : List (BitVec 8)

/-- FREE. The AES-256-GCM key that an ML-KEM-1024 exchange with the peer of a fabric port establishes: port, direction, number of
the exchange (R392). DESIGN CHOICE, log 77. -/
opaque Config.linkKey : Nat → Nat → Nat → BitVec 256

/-- FREE. The key that IDE_KM programs at a CXL port, by port and step (R392). DESIGN CHOICE, log 77. -/
opaque Config.ideKey : Nat → Nat → BitVec 256

/-- FREE. The record that the monitor generates for key slot 63 at each power-on (R393). DESIGN CHOICE,
log 58. -/
opaque Config.publicRecord : Nat → BitVec 1024

end Sys2Proof
end

