-- ==== Sys2Proof/Machine/Keccak.lean ====
section
/-!
DEFINITION. SHAKE256, which the digests and measurements of the firmware bundle are made with (R395, R396), and KMAC256, which
authenticates stored lines (R388).
-/

namespace Sys2Proof.Machine

/-- Lane (x, y) of the 25 lanes of a state. -/
def lane (a : List (BitVec 64)) (x y : Nat) : BitVec 64 := a.getD (x % 5 + 5 * (y % 5)) 0

/-- A state from its lanes. -/
def lanesFrom (f : Nat → Nat → BitVec 64) : List (BitVec 64) := (List.range 25).map fun i => f (i % 5) (i / 5)

/-- The rotation of each lane. -/
def keccakRot : List Nat :=
  [0, 1, 62, 28, 27, 36, 44, 6, 55, 20, 3, 10, 43, 25, 39, 41, 45, 15, 21, 8, 18, 2, 61, 56, 14]

/-- The constant of each round. -/
def keccakRc : List (BitVec 64) :=
  [0x0000000000000001, 0x0000000000008082, 0x800000000000808A, 0x8000000080008000, 0x000000000000808B, 0x0000000080000001,
   0x8000000080008081, 0x8000000000008009, 0x000000000000008A, 0x0000000000000088, 0x0000000080008009, 0x000000008000000A] ++
  [0x000000008000808B, 0x800000000000008B, 0x8000000000008089, 0x8000000000008003, 0x8000000000008002, 0x8000000000000080,
   0x000000000000800A, 0x800000008000000A, 0x8000000080008081, 0x8000000000008080, 0x0000000080000001, 0x8000000080008008]

/-- One round of Keccak-f[1600]. -/
def keccakRound (a : List (BitVec 64)) (rc : BitVec 64) : List (BitVec 64) :=
  let c := (List.range 5).map fun x => lane a x 0 ^^^ lane a x 1 ^^^ lane a x 2 ^^^ lane a x 3 ^^^ lane a x 4
  let d := (List.range 5).map fun x => c.getD ((x + 4) % 5) 0 ^^^ (c.getD ((x + 1) % 5) 0).rotateLeft 1
  let t := lanesFrom fun x y => (lane a x y ^^^ d.getD x 0).rotateLeft (keccakRot.getD (x + 5 * y) 0)
  let b := lanesFrom fun x y => lane t ((x + 3 * y) % 5) x
  lanesFrom fun x y =>
    let v := lane b x y ^^^ (~~~(lane b (x + 1) y) &&& lane b (x + 2) y)
    if x = 0 && y = 0 then v ^^^ rc else v

/-- Keccak-f[1600]. -/
def keccakF (a : List (BitVec 64)) : List (BitVec 64) := keccakRc.foldl keccakRound a

/-- Eight bytes as a lane, the first lowest. -/
def bytesLane (bs : List Byte) (i : Nat) : BitVec 64 :=
  BitVec.ofNat 64 ((List.range 8).foldl (fun a j => a + (bs.getD (8 * i + j) 0).toNat * 256 ^ j) 0)

/-- A block of 136 bytes absorbed. -/
def absorb (a : List (BitVec 64)) (block : List Byte) : List (BitVec 64) :=
  keccakF (a.zipIdx.map fun x => if x.2 < 17 then x.1 ^^^ bytesLane block x.2 else x.1)

/-- The message absorbed in blocks, of which the first argument bounds the number; the last is padded, from the suffix that the
function in question appends on. -/
def absorbAll (suffix : Byte) : Nat → List (BitVec 64) → List Byte → List (BitVec 64)
  | 0, a, _ => a
  | n + 1, a, bs =>
    if 136 ≤ bs.length then absorbAll suffix n (absorb a (bs.take 136)) (bs.drop 136)
    else
      let padded := bs ++ [suffix] ++ List.replicate (135 - bs.length) 0
      absorb a ((padded.take 135) ++ [(padded.getD 135 0) ||| 0x80])

/-- The first 136 bytes of a sponge of rate 136 over a message, the first lowest. -/
def sponge256 (suffix : Byte) (bs : List Byte) : BitVec 1088 :=
  let a := absorbAll suffix (bs.length / 136 + 1) (List.replicate 25 0) bs
  BitVec.ofNat 1088 ((a.take 17).zipIdx.foldl (fun n x => n + x.1.toNat * 2 ^ (64 * x.2)) 0)

/-- The first 136 bytes of SHAKE256 of a message, the first lowest. -/
def shake256 (bs : List Byte) : BitVec 1088 := sponge256 0x1F bs

/-! ### KMAC256 -/

/-- A length below 2^16 in the encoding that stands before a string: the number of its bytes, then the bytes, highest first. -/
def leftEncode (n : Nat) : List Byte :=
  if n < 256 then [1, BitVec.ofNat 8 n] else [2, BitVec.ofNat 8 (n / 256), BitVec.ofNat 8 n]

/-- A length below 2^16 in the encoding that stands behind a string. -/
def rightEncode (n : Nat) : List Byte :=
  if n < 256 then [BitVec.ofNat 8 n, 1] else [BitVec.ofNat 8 (n / 256), BitVec.ofNat 8 n, 2]

/-- A string behind its length in bits. -/
def encodeString (bs : List Byte) : List Byte := leftEncode (8 * bs.length) ++ bs

/-- Bytes behind the rate, filled up to a whole number of blocks. -/
def padBlock (bs : List Byte) : List Byte :=
  let x := leftEncode 136 ++ bs
  x ++ List.replicate ((136 - x.length % 136) % 136) 0

/-- The bytes of a name in letters, digits and hyphens. -/
def textBytesOf (t : String) : List Byte := t.toList.map fun c => BitVec.ofNat 8 c.toNat

/-- KMAC256 of a message under a key with a customisation string, with 64 bits of output. -/
def kmac64 (key : List Byte) (custom : String) (message : List Byte) : BitVec 64 :=
  (sponge256 0x04 (padBlock (encodeString (textBytesOf "KMAC") ++ encodeString (textBytesOf custom)) ++ padBlock (encodeString key)
    ++ message ++ rightEncode 64)).setWidth 64

end Sys2Proof.Machine
end

