-- ==== Sys2Proof/Machine/Crypto.lean ====
section
/-!
DEFINITION. AES-256 and the two modes that the module uses it in: XTS for stored lines (R388) and GCM for the copies of key records
that the monitor seals (R394). A block of 16 bytes is a number with its first byte lowest.
-/

namespace Sys2Proof.Machine

/-! ### Bytes -/

/-- Bytes of a number, the lowest first. -/
def leBytes (n v : Nat) : List Byte := (List.range n).map fun i => BitVec.ofNat 8 (v / 256 ^ i)

/-- A number from its bytes, the lowest first. -/
def numberOf (bs : List Byte) : Nat := bs.foldr (fun b n => b.toNat + 256 * n) 0

/-! ### AES-256 -/

/-- A byte doubled in the field of AES. -/
def xtime (x : Byte) : Byte := (x <<< 1) ^^^ (if x.getLsbD 7 then 0x1B else 0)

/-- The product of two bytes in the field of AES. -/
def gfMul (x y : Byte) : Byte :=
  ((List.range 8).foldl (fun (a : Byte × Byte) i => (if y.getLsbD i then a.1 ^^^ a.2 else a.1, xtime a.2)) (0, x)).1

/-- The inverse of a byte, its 254th power; 0 for 0. -/
def gfInv (x : Byte) : Byte :=
  ((List.range 7).foldl (fun (a : Byte × Byte) _ => (gfMul a.1 a.2, gfMul a.2 a.2)) (1, gfMul x x)).1

/-- The substitution of a byte. -/
def subByte (x : Byte) : Byte :=
  let b := gfInv x
  b ^^^ b.rotateLeft 1 ^^^ b.rotateLeft 2 ^^^ b.rotateLeft 3 ^^^ b.rotateLeft 4 ^^^ 0x63

/-- Sixteen bytes with each replaced. -/
def blockMap (f : Nat → Byte) : List Byte := (List.range 16).map f

/-- The words of the key schedule from the latest back: one word more. -/
def nextKeyWord (ws : List (List Byte)) (i : Nat) : List (List Byte) :=
  let last := ws.getD 0 []
  let t :=
    if i % 8 = 0 then
      let r := (List.range 4).map fun j => subByte (last.getD ((j + 1) % 4) 0)
      (r.getD 0 0 ^^^ BitVec.ofNat 8 (2 ^ (i / 8 - 1))) :: r.drop 1
    else if i % 8 = 4 then last.map subByte else last
  ((List.range 4).map fun j => (ws.getD 7 []).getD j 0 ^^^ t.getD j 0) :: ws

/-- The fifteen round keys of AES-256. -/
def roundKeys (key : BitVec 256) : List (List Byte) :=
  let k := leBytes 32 key.toNat
  let first := ((List.range 8).map fun i => (k.drop (4 * i)).take 4).reverse
  let ws := ((List.range 52).foldl (fun ws i => nextKeyWord ws (i + 8)) first).reverse
  (List.range 15).map fun r => ((ws.drop (4 * r)).take 4).flatten

/-- A round key added. -/
def addKey (x k : List Byte) : List Byte := blockMap fun i => x.getD i 0 ^^^ k.getD i 0

/-- The bytes substituted and the rows shifted. -/
def subShift (x : List Byte) : List Byte := blockMap fun i => subByte (x.getD ((i + 4 * (i % 4)) % 16) 0)

/-- The columns mixed. -/
def mixColumns (x : List Byte) : List Byte :=
  blockMap fun i =>
    let c (j : Nat) : Byte := x.getD (i / 4 * 4 + (i + j) % 4) 0
    xtime (c 0) ^^^ xtime (c 1) ^^^ c 1 ^^^ c 2 ^^^ c 3

/-- AES-256 of a block under round keys. -/
def aesWith (ks : List (List Byte)) (x : BitVec 128) : BitVec 128 :=
  let start := addKey (leBytes 16 x.toNat) (ks.getD 0 [])
  let mid := ((ks.drop 1).take 13).foldl (fun b k => addKey (mixColumns (subShift b)) k) start
  BitVec.ofNat 128 (numberOf (addKey (subShift mid) (ks.getD 14 [])))

/-- AES-256 of a block. -/
def aes (key : BitVec 256) (x : BitVec 128) : BitVec 128 := aesWith (roundKeys key) x

/-- A byte whose substitution is given. -/
def unsubByte (x : Byte) : Byte := gfInv (x.rotateLeft 1 ^^^ x.rotateLeft 3 ^^^ x.rotateLeft 6 ^^^ 0x05)

/-- The rows shifted back and the bytes unsubstituted. -/
def unsubShift (x : List Byte) : List Byte := blockMap fun i => unsubByte (x.getD ((i + 12 * (i % 4)) % 16) 0)

/-- The columns unmixed. -/
def unmixColumns (x : List Byte) : List Byte :=
  blockMap fun i =>
    let c (j : Nat) : Byte := x.getD (i / 4 * 4 + (i + j) % 4) 0
    gfMul (c 0) 14 ^^^ gfMul (c 1) 11 ^^^ gfMul (c 2) 13 ^^^ gfMul (c 3) 9

/-- The block whose AES-256 under round keys is given. -/
def unaesWith (ks : List (List Byte)) (y : BitVec 128) : BitVec 128 :=
  let start := unsubShift (addKey (leBytes 16 y.toNat) (ks.getD 14 []))
  let mid := ((ks.drop 1).take 13).foldr (fun k b => unsubShift (unmixColumns (addKey b k))) start
  BitVec.ofNat 128 (numberOf (addKey mid (ks.getD 0 [])))

/-! ### XTS -/

/-- The tweak of the next block. -/
def nextTweak (t : BitVec 128) : BitVec 128 := (t <<< 1) ^^^ (if t.getLsbD 127 then 0x87 else 0)

/-- The eight blocks of a line of 128 bytes as one data unit, each put through a cipher between its tweaks. -/
def xtsBlocks (f : BitVec 128 → BitVec 128) (tweak : BitVec 128) (data : BitVec 1024) : BitVec 1024 :=
  ((List.range 8).foldl (fun (a : BitVec 1024 × BitVec 128) j =>
    let c := f (data.extractLsb' (128 * j) 128 ^^^ a.2) ^^^ a.2
    (a.1 ||| (c.setWidth 1024 <<< (128 * j)), nextTweak a.2)) (0, tweak)).1

/-- A line of 128 bytes encrypted as one data unit under two keys and a tweak. -/
def xtsLine (key1 key2 : BitVec 256) (tweak : BitVec 128) (data : BitVec 1024) : BitVec 1024 :=
  xtsBlocks (aesWith (roundKeys key1)) (aes key2 tweak) data

/-- The line whose ciphertext under two keys and a tweak is given. -/
def xtsOpen (key1 key2 : BitVec 256) (tweak : BitVec 128) (text : BitVec 1024) : BitVec 1024 :=
  xtsBlocks (unaesWith (roundKeys key1)) (aes key2 tweak) text

/-! ### GCM -/

/-- The bits of a block as GCM numbers them: the highest of the first byte first. -/
def bigBlock (x : BitVec 128) : BitVec 128 := BitVec.ofNat 128 (numberOf (leBytes 16 x.toNat).reverse)

/-- The product of two blocks in the field of GCM. -/
def ghashMul (x y : BitVec 128) : BitVec 128 :=
  ((List.range 128).foldl (fun (a : BitVec 128 × BitVec 128) i =>
    (if x.getLsbD (127 - i) then a.1 ^^^ a.2 else a.1,
      (a.2 >>> 1) ^^^ (if a.2.getLsbD 0 then 0xE1#128 <<< 120 else 0))) (0, y)).1

/-- The counter block n of a nonce of 96 bits. -/
def counterBlock (nonce : BitVec 96) (n : Nat) : BitVec 128 :=
  bigBlock ((bigBlock (nonce.setWidth 128)) ||| BitVec.ofNat 128 (n % 2 ^ 32))

/-- The key stream of a record of 128 bytes. -/
def gcmStream (key : BitVec 256) (nonce : BitVec 96) : BitVec 1024 :=
  let ks := roundKeys key
  (List.range 8).foldl (fun a j => a ||| ((aesWith ks (counterBlock nonce (j + 2))).setWidth 1024 <<< (128 * j))) 0

/-- The tag of a ciphertext of 128 bytes. -/
def gcmTag (key : BitVec 256) (nonce : BitVec 96) (text : BitVec 1024) : BitVec 128 :=
  let h := bigBlock (aes key 0)
  let y := (List.range 8).foldl (fun y j => ghashMul (y ^^^ bigBlock (text.extractLsb' (128 * j) 128)) h) 0
  let z := ghashMul (y ^^^ 1024) h
  bigBlock z ^^^ aes key (counterBlock nonce 1)

/-- A record of 128 bytes under AES-256-GCM: ciphertext and tag. -/
def gcmSeal (key : BitVec 256) (nonce : BitVec 96) (record : BitVec 1024) : BitVec 1024 × BitVec 128 :=
  let text := record ^^^ gcmStream key nonce
  (text, gcmTag key nonce text)

/-- The record of a ciphertext whose tag verifies. -/
def gcmOpen (key : BitVec 256) (nonce : BitVec 96) (text : BitVec 1024) (tag : BitVec 128) : Option (BitVec 1024) :=
  if gcmTag key nonce text = tag then some (text ^^^ gcmStream key nonce) else none

end Sys2Proof.Machine
end

