-- ==== Sys2Proof/Machine/Firmware.lean ====
section
/-!
DEFINITION. What board flash holds and what the ROM and the monitor compute of it: firmware bundles, the signed configuration
record, the device identity, and the key that records are sealed under (R394–R396, R398, R410, R411).
-/

namespace Sys2Proof.Machine

/-! ### Signatures -/

/-- A Falcon-1024 signature verifies over a message under a public key: the one that the key's holder makes, and whatever else
the scheme accepts (log 77). -/
def verifies (pk : BitVec 14344) (message : List Byte) (sig : BitVec 10240) : Bool :=
  sig == Config.falconSignature pk message || Config.falconAccepts pk message sig

/-- A SHAKE256 digest of 48 bytes. -/
def digest48 (bs : List Byte) : BitVec 384 := (shake256 bs).setWidth 384

/-- A public key as its 1,793 bytes. -/
def keyBytes (pk : BitVec 14344) : List Byte := leBytes 1793 pk.toNat

/-! ### Firmware bundles (R395) -/

/-- An entry of `COMP`: kind 1 monitor, 2 service OS, 3 engine microcode. -/
structure Component where
  kind   : Nat := 0
  offset : Nat := 0
  length : Nat := 0
  digest : BitVec 384 := 0
  deriving DecidableEq, Repr, Inhabited

/-- Bytes of a bundle. -/
def bundleSlice (b : Bundle) (off n : Nat) : List Byte := (b.image.drop off).take n

/-- A field of a bundle. -/
def bundleField (b : Bundle) (off n : Nat) : Nat := numberOf (bundleSlice b off n)

/-- `VERSION`. -/
def bundleVersion (b : Bundle) : BitVec 32 := BitVec.ofNat 32 (bundleField b 0x08 4)

/-- The entry of `COMP` at an offset. -/
def bundleCompAt (b : Bundle) (a : Nat) : Component :=
  { kind := bundleField b a 4, offset := bundleField b (a + 4) 4, length := bundleField b (a + 8) 8, digest := BitVec.ofNat 384 (bundleField b (a + 16) 48) }

/-- The three entries of `COMP`. -/
def bundleComps (b : Bundle) : List Component := (List.range 3).map fun i => bundleCompAt b (0x10 + 64 * i)

/-- `VKEYH`. -/
def bundleVkeyh (b : Bundle) : BitVec 384 := BitVec.ofNat 384 (bundleField b 0xD0 48)

/-- `ROOTPK`. -/
def bundleRootPk (b : Bundle) : BitVec 14344 := BitVec.ofNat 14344 (bundleField b 0x100 1793)

/-- `SIG`. -/
def bundleSig (b : Bundle) : BitVec 10240 := BitVec.ofNat 10240 (bundleField b 0x900 1280)

/-- Bytes 0x0000 to 0x08FF, which the signature covers. -/
def bundleHead (b : Bundle) : List Byte := bundleSlice b 0 0x900

/-- The bundle measurement. -/
def bundleMeasure (b : Bundle) : BitVec 384 := digest48 (bundleHead b)

/-- The bytes of a component. -/
def componentBytes (b : Bundle) (c : Component) : List Byte := bundleSlice b c.offset c.length

/-- A component lies in the image where R395 has components: at a 4 KiB-aligned offset from 0x1000 on. -/
def componentPlaced (b : Bundle) (c : Component) : Bool :=
  c.offset % 4096 == 0 && 0x1000 ≤ c.offset && c.offset + c.length ≤ b.image.length

/-- The component of a kind. -/
def bundleComponent (b : Bundle) (kind : Nat) : Component := ((bundleComps b).find? fun c => c.kind == kind).getD {}

/-- The monitor component digest (R394). -/
def monitorDigestOf (b : Bundle) : BitVec 384 := (bundleComponent b 1).digest

/-- Every component's digest matches (R396). One that does not lie where R395 has components has no bytes that could match. DESIGN
CHOICE, log 77. -/
def digestsOk (b : Bundle) : Bool :=
  (bundleComps b).all fun c => componentPlaced b c && digest48 (componentBytes b c) == c.digest

/-- The hash of a root key equals the one that the ROM holds (R396). -/
def rootKeyOk (rootHash : BitVec 256) (pk : BitVec 14344) : Bool := (shake256 (keyBytes pk)).setWidth 256 == rootHash

/-- The four checks of the mask ROM, in their order (R396). -/
def bundleOk (rootHash : BitVec 256) (minver : BitVec 32) (b : Bundle) : Bool :=
  rootKeyOk rootHash (bundleRootPk b) && verifies (bundleRootPk b) (bundleHead b) (bundleSig b) && digestsOk b
    && minver.toNat ≤ (bundleVersion b).toNat

/-- A bundle of a version without content, its `ROOTPK` of zeros, before its signature: bytes 0x0000 to 0x08FF. -/
def emptyHead (version : Nat) : List Byte :=
  let comp (kind : Nat) : List Byte := leBytes 4 kind ++ leBytes 4 0x1000 ++ leBytes 8 0 ++ leBytes 48 (digest48 []).toNat
  leBytes 4 0x4D485842 ++ leBytes 4 1 ++ leBytes 4 version ++ leBytes 4 3 ++ comp 1 ++ comp 2 ++ comp 3 ++ List.replicate 0x830 0

/-- The factory firmware that bank 0 holds at reset: a signed bundle of version 0 without content. DESIGN CHOICE, log 2. -/
def factoryBundle : Bundle :=
  let head := emptyHead 0
  { image := head ++ leBytes 1280 (Config.falconSignature 0 head).toNat ++ List.replicate 512 0 }

/-! ### Device identity (R410) -/

/-- The seed of the identity key pair, which stands for its private key. -/
def identitySeed : BitVec 384 := digest48 (Config.identitySecret ++ textBytesOf "MHX-ID")

/-- A signature by the identity key of a seed. -/
def identitySign (seed : BitVec 384) (message : List Byte) : BitVec 10240 :=
  Config.falconSignature (Config.falconPublic seed) message

/-! ### The signed configuration record (R411) -/

/-- A die's line of the record: its serial, the units mapped out of it (clusters, engine harts, fabric lanes, and HBM channels as
ranges of absent physical addresses, base and bytes), its feature set. -/
structure DieRecord where
  serial    : BitVec 64 := 0
  noCluster : BitVec 32 := 0
  noHart    : BitVec 8 := 0
  noLane    : BitVec 24 := 0
  absent    : List (Nat × Nat) := []
  features  : BitVec 7 := 0x7F
  deriving DecidableEq, Repr, Inhabited

/-- The record, with the root key that signs it. -/
structure ConfigRecord where
  serial   : BitVec 64 := 0
  idDigest : BitVec 384 := 0
  dies     : List DieRecord := []
  rootPk   : BitVec 14344 := 0
  sig      : BitVec 10240 := 0
  deriving DecidableEq, Repr, Inhabited

/-- The bytes of the record that are signed and digested. The manual lists what it holds and gives no layout. DESIGN CHOICE,
log 77. -/
def configBytes (r : ConfigRecord) : List Byte :=
  leBytes 8 r.serial.toNat ++ leBytes 48 r.idDigest.toNat ++ r.dies.flatMap fun d =>
    leBytes 8 d.serial.toNat ++ leBytes 4 d.noCluster.toNat ++ leBytes 1 d.noHart.toNat ++ leBytes 3 d.noLane.toNat
      ++ leBytes 1 d.features.toNat ++ leBytes 4 d.absent.length ++ d.absent.flatMap fun x => leBytes 8 x.1 ++ leBytes 8 x.2

/-- The record's signature is the Kwenyx root's. -/
def recordSigned (rootHash : BitVec 256) (r : ConfigRecord) : Bool :=
  rootKeyOk rootHash r.rootPk && verifies r.rootPk (configBytes r) r.sig

/-- The identity of a seed is the one that the record names. -/
def identityMatches (seed : BitVec 384) (r : ConfigRecord) : Bool := digest48 (keyBytes (Config.falconPublic seed)) == r.idDigest

/-- The record that flash holds at reset: of this module, with nothing mapped out, signed under a root key of zeros. DESIGN CHOICE,
log 2. -/
def factoryRecord : ConfigRecord :=
  let r : ConfigRecord := { idDigest := digest48 (keyBytes (Config.falconPublic identitySeed)), dies := List.replicate 12 {} }
  { r with sig := Config.falconSignature 0 (configBytes r) }

/-! ### Sealed copies (R394) -/

/-- The key that a monitor seals records under. -/
def sealKey (monitor : BitVec 384) : BitVec 256 :=
  (shake256 (Config.sealingSecret ++ leBytes 48 monitor.toNat)).setWidth 256

end Sys2Proof.Machine
end

