-- ==== Sys2Proof/Machine/State.lean ====
section
/-!
DEFINITION. The state of the module, as plain data: every piece of state the manual names, listed with its rule in
INVENTORY.md, and the reset state. Agents are numbered: compute core `die * 128 + cluster * 4 + core` (0–1535), the
service pair of die d 2048 + d, the copy hart of cluster c 4096 + c, engine hart h of die d 8192 + 8 d + h.
-/

namespace Sys2Proof.Machine

/-- A capability and its tag, which is held out of band (R30). -/
structure Cap where
  bits : BitVec 128 := 0
  tag  : Bool := false
  deriving DecidableEq, Repr, Inhabited

/-- A slot of an agent's barrel. -/
structure Loc where
  core : Nat := 0
  slot : Nat := 0
  deriving DecidableEq, Repr, Inhabited

/-- How a thread came to be (R9, R215, R311). -/
inductive Kind
  | control
  | helper
  | message
  | migrated
  | hart
  | pair
  deriving DecidableEq, Repr, Inhabited

/-- Why a thread is out of readiness (R24), with what completes it. `csr` and `route` stall without parking: a write
that a later step performs (R36, R400, R413), a system-window access without a route (R405). -/
inductive Wait
  | park
  | sync (reg : Nat)
  | sfu
  | start (entry arg : BitVec 64) (reg : Nat)
  | vgrow (n : Nat)
  | qwaitf (ring reg pred : Nat)
  | qwaite (ring reg pred : Nat)
  | barwait (ctx phase : Nat)
  | wfi
  | page (asid va : Nat)
  | csr
  | route (module addr since : Nat) (stream : Bool)
  deriving DecidableEq, Repr, Inhabited

/-- A destination held until its result is written (R115, R138, R176): a scalar or a vector register, the value, and
for a result of fixed timing the cycle it is written in. -/
structure Hold where
  vector : Bool := false
  reg    : Nat := 0
  value  : BitVec 2048 := 0
  due    : Option Nat := none
  /-- a load that an acquire fence has found outstanding: later loads stall until it returns (R144) -/
  fenced : Bool := false
  deriving DecidableEq, Repr, Inhabited

/-- A thread, with everything of its slot but the generation. -/
structure Thread where
  kind      : Kind := .control
  /-- the model's own: a number that the thread keeps wherever it moves, by which its deliveries are ordered (R13) -/
  number    : Nat := 0
  /-- counts toward the limit of ten helpers of its core (R11, R159) -/
  counted   : Bool := false
  /-- the starter's handle and the register that this helper's retirement fills (R152) -/
  token     : Option (BitVec 64 × Nat) := none
  pc        : BitVec 64 := 0
  /-- no instruction has issued yet: the entry checks of R14, R105, R152 are still to be made -/
  fresh     : Bool := true
  regs      : Tab (BitVec 64) := []
  full      : BitVec 32 := 0xFFFFFFFF
  claimed   : BitVec 32 := 0
  holds     : List Hold := []
  preds     : BitVec 16 := 1
  masks     : Tab (BitVec 64) := []
  caps      : Tab Cap := []
  /-- the monitor's bank of `c15` on a service pair (R317) -/
  cap15m    : Cap := {}
  vallot    : Nat := 0
  vregs     : Tab (BitVec 2048) := []
  vnf       : BitVec 64 := 0
  frm       : BitVec 64 := 0
  fflags    : BitVec 64 := 0
  srkey     : BitVec 64 := 0
  srctr     : BitVec 64 := 0
  mmrev     : Nat := 2
  /-- the widest scope of a FENCE.REL or FENCE.FULL so far: 0 none, else the SC code and 1 (R91) -/
  relFence  : Nat := 0
  instret   : BitVec 64 := 0
  rid       : BitVec 32 := 0
  rcb       : Nat := 0
  asid      : Nat := 0
  launch    : BitVec 64 := 0
  crewId    : BitVec 32 := 0
  crewCnt   : BitVec 32 := 0
  wake      : Bool := false
  wait      : Option Wait := none
  /-- the model's own: the free-value counter at the moment it parked, by which waiters are kept in issue order (R24) -/
  since     : Nat := 0
  retries   : Nat := 0
  /-- time of the last retirement or of placement, in ns (R336) -/
  retired   : Nat := 0
  /-- first cycle in which the thread may issue again (R22, R154) -/
  nextIssue : Nat := 0
  /-- cycle from which the wait in readiness counts, if ready (R22) -/
  readyFrom : Option Nat := none
  priv      : Nat := 0
  ppriv     : Nat := 0
  intrap    : Bool := false
  inmon     : Bool := false
  scause    : BitVec 64 := 0
  sepc      : BitVec 64 := 0
  sval      : BitVec 64 := 0
  srcb      : BitVec 64 := 0
  sscratch  : BitVec 64 := 0
  mepc      : BitVec 64 := 0
  mcause    : BitVec 64 := 0
  mval      : BitVec 64 := 0
  mscratch  : BitVec 64 := 0
  deriving DecidableEq, Repr, Inhabited

/-- A barrel slot (R8, R19). -/
structure Slot where
  gen    : BitVec 16 := 0
  thread : Option Thread := none
  /-- first cycle in which the slot may issue again after an earlier thread of it (R22) -/
  nextIssue : Nat := 0
  deriving DecidableEq, Repr, Inhabited

/-- What a delivery carries. -/
inductive Body
  /-- a message: handler offset and payload words (R158) -/
  | message (handler : BitVec 64) (words : List (BitVec 64))
  /-- a migrated thread (R15), or a displaced or saved visitor with its whole state (R17) -/
  | thread (t : Thread) (whole : Bool)
  | reply (handle : BitVec 64) (reg : Nat) (v : BitVec 64)
  | wake (handle : BitVec 64) (page : Bool)
  | token (handle : BitVec 64) (reg : Nat) (v : BitVec 64)
  /-- a round packet of a barrier context (R169) -/
  | barrier (ctx round tag : Nat)
  /-- an NRED contribution: member, `.i`, instance tag, word (R248) -/
  | nred (ctx op tag : Nat) (v : BitVec 64)
  /-- an event for a service pair: vector offset, s1–s4, region control block (R314) -/
  | event (offset : Nat) (s1 s2 s3 s4 : BitVec 64) (rcb : Nat)
  deriving DecidableEq, Repr, Inhabited

/-- Something under way to an agent's network interface, with the agent and thread that sent it (R13), the identity of
the launch that caused it (R346) and the sender's region control block (R20). -/
structure Delivery where
  dest   : Nat := 0
  src    : Loc := {}
  launch : BitVec 64 := 0
  rcb    : Nat := 0
  body   : Body := .wake 0 false
  /-- the number and the `CREWID` of the thread that sent it -/
  sender : Nat := 0
  crew   : BitVec 32 := 0
  deriving DecidableEq, Repr, Inhabited

/-- The states of a stream (R208). -/
inductive StreamState
  | unconfigured
  | configured
  | running
  | ended
  deriving DecidableEq, Repr, Inhabited

/-- A fetched register-load, or the failure found with it: a held cause, or a page that is absent (R54, R209). -/
inductive RunItem
  | data (v : BitVec 2048)
  | fault (cause : Nat) (addr : BitVec 64)
  | page (asid va : Nat)
  deriving DecidableEq, Repr, Inhabited

/-- One of a core's eight streams (R52, R207, R208). -/
structure Stream where
  state   : StreamState := .unconfigured
  cap     : Cap := {}
  base    : Nat := 0
  size    : Nat := 0
  store   : Bool := false
  dims    : Nat := 0
  counts  : List Nat := []
  strides : List Int := []
  /-- elements popped or pushed -/
  pos     : Nat := 0
  /-- slot and vector register it is bound to -/
  bound   : Option (Nat × Nat) := none
  queue   : List RunItem := []
  /-- the register-load pushed last (R175) -/
  last    : BitVec 2048 := 0
  deriving DecidableEq, Repr, Inhabited

/-- What a queued matrix-unit instruction writes when it completes (R195): the bytes of a tile, an accumulator. -/
inductive MatWrite
  | tile (n : Nat) (bytes : BitVec 131072)
  | acc (n : Nat) (v : BitVec 524288)
  deriving DecidableEq, Repr, Inhabited

/-- A queued matrix-unit instruction: what it reads and writes (tile n as n, accumulator n as 8 + n), its result, and
the flags for its issuer. -/
structure MatOp where
  loc    : Loc := {}
  gen    : BitVec 16 := 0
  reads  : List Nat := []
  writes : List MatWrite := []
  flags  : Nat := 0
  deriving DecidableEq, Repr, Inhabited

/-- A barrier context of a core's network interface (R167–R169), with the NRED counts of the same context (R247,
R248). -/
structure Bar where
  p        : Nat := 1
  rank     : Nat := 0
  scope    : Nat := 0
  /-- partner to send round k to, as rank-table entries: (round, entry) -/
  dests    : Tab (BitVec 32) := []
  root     : BitVec 32 := 0
  arrived  : Nat := 0
  done     : Nat := 0
  round    : Nat := 0
  sent     : Bool := false
  /-- packets received and not consumed: (round, tag) -/
  packets  : List (Nat × Nat) := []
  /-- NRED members issued, instances completed at rank 0 -/
  issued   : Nat := 0
  combined : Nat := 0
  /-- contributions received: (op, tag, word) -/
  contribs : List (Nat × Nat × BitVec 64) := []
  /-- unfilled NREDs: (instance, op, handle, register, launch) -/
  unfilled : List (Nat × Nat × BitVec 64 × Nat) := []
  deriving DecidableEq, Repr, Inhabited

/-- What a thread keeps over a save for which its slot record has no room: its number, whether it migrated, whether it counts
toward the ten helpers of its core (R159), its fences (R91), what it waits for with every operand, and since when (R24, R171),
the time that its watchdog has counted (R336). -/
structure Kept where
  number   : Nat := 0
  migrated : Bool := false
  counted  : Bool := true
  idle     : Nat := 0
  relFence : Nat := 0
  wait     : Option Wait := none
  since    : Nat := 0
  /-- the ring that it waits on has been reconfigured since (R163) -/
  refused  : Bool := false
  deriving DecidableEq, Repr, Inhabited

/-- A crew's saved core as its network interface keeps it (R345, R346): whom it diverts for, the handles it saved, the
spill ring, and where the crew resumed. -/
structure Spill where
  launch  : BitVec 64 := 0
  crew    : BitVec 32 := 0
  live    : List (Nat × BitVec 16) := []
  ring    : List Delivery := []
  /-- the contexts' partners and packets, for which a record has no room (R343) -/
  bars    : Tab Bar := []
  /-- by slot, what else a record has no room for; the slots that wait in START and in VGROW, in issue order (R11, R27) -/
  kept    : Tab Kept := []
  startq  : List Nat := []
  vgrowq  : List Nat := []
  /-- where the area's copy of the ring lies: its capability and first entry (R343) -/
  area    : Cap := {}
  base    : Nat := 0
  /-- flags that operations of saved threads have raised since: slot, generation, flags (R74) -/
  flags   : List (Nat × BitVec 16 × BitVec 64) := []
  draining : Bool := true
  forward : Option Nat := none
  deriving DecidableEq, Repr, Inhabited

/-- The control of a hart (R215, R216). -/
structure Hart where
  block   : Nat := 0
  running : Bool := false
  stopped : Bool := false
  cause   : Nat := 0
  deriving DecidableEq, Repr, Inhabited

/-- An agent with a barrel: a compute core, a service pair or a hart. -/
structure Core where
  slots    : Tab Slot := []
  cycle    : Nat := 0
  tshape   : Tab (BitVec 64) := []
  tclass   : Tab Nat := []
  tiles    : Tab (BitVec 131072) := []
  accs     : Tab (BitVec 524288) := []
  matq     : List MatOp := []
  streams  : Tab Stream := []
  bars     : Tab Bar := []
  halted   : Bool := false
  held     : List Delivery := []
  /-- slots waiting in START and in VGROW, in issue order (R11, R27) -/
  startq   : List Nat := []
  vgrowq   : List Nat := []
  /-- interrupted for a pre-emption, not yet saved (R342) -/
  intr     : Bool := false
  spills   : List Spill := []
  svec     : BitVec 64 := 0
  mvec     : BitVec 64 := 0
  /-- a pair stopped by a monitor fault (R313), a pair that has started (R317) -/
  stopped  : Bool := false
  started  : Bool := false
  /-- the PTP millisecond of a pair's last tick; the epoch that a leader has set, of a pair that leads (R407) -/
  tick     : Nat := 0
  epoch    : Option (BitVec 32) := none
  /-- the `HBTIME` and `EPOCH` that a watching pair last read, and whether its tick found a takeover due (R407, R408) -/
  seenTime  : Nat := 0
  seenEpoch : BitVec 32 := 0
  overdue   : Bool := false
  hart     : Hart := {}
  deriving DecidableEq, Repr, Inhabited

/-- A ring descriptor (R161). STATE is 0 IDLE, 1 ACTIVE, 2 ERROR. -/
structure Ring where
  state   : Nat := 0
  buf     : Cap := {}
  logn    : Nat := 0
  logs    : Nat := 0
  hdr     : Bool := false
  clm     : BitVec 32 := 0
  pub     : BitVec 32 := 0
  rd      : BitVec 32 := 0
  fre     : BitVec 32 := 0
  pbit    : BitVec 256 := 0
  fbit    : BitVec 256 := 0
  code    : BitVec 16 := 0
  /-- parked QWAITF and QWAITE threads in issue order -/
  waiters : List Loc := []
  deriving DecidableEq, Repr, Inhabited

/-- The crew a cluster holds, with its effective region values (R5, R333) and what happens to it. -/
structure Crew where
  rcb      : Nat := 0
  rid      : BitVec 32 := 0
  launch   : BitVec 64 := 0
  crewId   : BitVec 32 := 0
  crewCnt  : BitVec 32 := 0
  asid     : Nat := 0
  ctxroot  : Cap := {}
  keydom   : Nat := 0
  mmrev    : Nat := 2
  feat     : BitVec 7 := 0
  diemask  : BitVec 12 := 0
  savecap  : Cap := {}
  killed   : Bool := false
  /-- stopped for a missing feature (R341) -/
  requeue  : Bool := false
  preempt  : Bool := false
  saved    : List Nat := []
  /-- the model's own: how late it was placed (R378) -/
  placed   : Nat := 0
  deriving DecidableEq, Repr, Inhabited

/-- A request in the special-function unit's queue (R190). -/
structure SfuReq where
  loc    : Loc := {}
  gen    : BitVec 16 := 0
  fn     : Nat := 0
  typ    : BitVec 3 := 0
  rm     : Nat := 0
  dest   : Nat := 0
  zero   : Bool := false
  active : BitVec 64 := 0
  src    : BitVec 2048 := 0
  /-- the pair's length in bytes, for the return -/
  len    : Nat := 4
  /-- the absent page that the return's push has met -/
  wait   : Option (Nat × Nat) := none
  /-- the load stream that the source was popped from, and its position before (R109) -/
  popped : Option (Nat × Nat) := none
  deriving DecidableEq, Repr, Inhabited

/-- A command of the copy hart's queue (R212), with everything read at issue. -/
structure CopyCmd where
  loc     : Loc := {}
  handle  : BitVec 64 := 0
  launch  : BitVec 64 := 0
  rcb     : Nat := 0
  reg     : Nat := 0
  op      : Nat := 0
  src     : Cap := {}
  srcAddr : Nat := 0
  dst     : Cap := {}
  dstAddr : Nat := 0
  count   : Nat := 0
  sfmt    : Option (BitVec 64) := none
  dfmt    : Option (BitVec 64) := none
  sstd    : Nat := 0
  dstd    : Nat := 0
  redop   : Nat := 0
  /-- the descriptors of the sixteen bank indices, none for a RAW bank (R39, R40) -/
  banks   : List (Option (BitVec 64)) := []
  asid    : Nat := 0
  crewId  : BitVec 32 := 0
  wait    : Option (Nat × Nat) := none
  /-- since when it has found no route to a module that it reads (R405) -/
  route   : Option Nat := none
  deriving DecidableEq, Repr, Inhabited

/-- An EQINIT or EQREDUCE in a cluster's Lichen unit (R257, R260). -/
structure LichenCmd where
  loc     : Loc := {}
  handle  : BitVec 64 := 0
  launch  : BitVec 64 := 0
  rcb     : Nat := 0
  reg     : Nat := 0
  reduce  : Bool := false
  command : BitVec 64 := 0
  forest  : Cap := {}
  parent  : Cap := {}
  size    : Cap := {}
  input   : Cap := {}
  output  : Cap := {}
  map     : Cap := {}
  n       : Nat := 0
  /-- the root of the issuing thread, and whether the forest has been opened: not while its descriptor's page is absent -/
  root    : Cap := {}
  opened  : Bool := true
  asid    : Nat := 0
  crewId  : BitVec 32 := 0
  wait    : Option (Nat × Nat) := none
  /-- since when it has found no route to a module that it reads (R405) -/
  route   : Option Nat := none
  deriving DecidableEq, Repr, Inhabited

/-- Where a store goes: a device line by address space and virtual address, a scratchpad byte, another module. -/
inductive Space
  | device (asid : Nat)
  | scratch (cluster : Nat)
  | window (module : Nat) (dom : Nat)
  deriving DecidableEq, Repr, Inhabited

/-- A store that has issued and not been performed (R85), within one line: where it goes, the physical address and domain
it was translated to, its bytes as the low `size` bytes of `value`, the tag a CST writes (R132), the stream it was
pushed by, and the region, launch, crew and handle that a log entry of it names (R334): no handle is noted of a store that its
thread has just made, which is then its slot's, and 0 of one that no thread has made. -/
structure PStore where
  loc    : Loc := {}
  space  : Space := .scratch 0
  addr   : Nat := 0
  pa     : Nat := 0
  dom    : Nat := 0
  size   : Nat := 0
  value  : BitVec 1024 := 0
  cap    : Bool := false
  stream : Option Nat := none
  rcb    : Nat := 0
  handle : Option (BitVec 64) := some 0
  crew   : BitVec 32 := 0
  launch : BitVec 64 := 0
  /-- the wide access it is a piece of: pieces of one access in one granule are performed together (R78) -/
  group  : Option Nat := none
  /-- that access covers the whole line, whose poison goes with its last piece (R44) -/
  whole  : Bool := false
  deriving DecidableEq, Repr, Inhabited

/-- A mode switch that waits for its point (R36). -/
structure Switch where
  index : Nat := 0
  mode  : Nat := 0
  loc   : Loc := {}
  deriving DecidableEq, Repr, Inhabited

/-- A cluster: its crew, format and bank registers, SRAM, and its units' queues. -/
structure Cluster where
  crew     : Option Crew := none
  fmt      : Tab (BitVec 64) := []
  bfmt     : Tab (BitVec 64) := []
  bmode    : Tab Nat := []
  rings    : Tab Ring := []
  sram     : Tab (BitVec 8) := []
  sramTags : Tab Bool := []
  sfu      : List SfuReq := []
  copies   : List CopyCmd := []
  lichen   : List LichenCmd := []
  switch   : Option Switch := none
  deriving DecidableEq, Repr, Inhabited

/-- Which drupelet a held line's tag points to (R46, R47). -/
inductive Drup
  | zero
  | own
  | shared (id : Nat)
  deriving DecidableEq, Repr, Inhabited

/-- The directory state of a line (R360, R362). Agents are cluster caches 0–383 and host agents 384 + port. -/
inductive Dir
  | invalid
  | exclusive (owner : Nat)
  | shared (pointers : List Nat) (dies : BitVec 12)
  | modified (owner : Nat)
  deriving DecidableEq, Repr, Inhabited

/-- A line held at its home slice, tagged by address space and virtual line (R369). -/
structure Line where
  data   : BitVec 1024 := 0
  tags   : BitVec 8 := 0
  poison : Bool := false
  dirty  : Bool := false
  dom    : Nat := 0
  /-- the physical address it was filled from and is written back to -/
  frame  : Nat := 0
  drup   : Drup := .own
  dir    : Dir := .invalid
  deriving DecidableEq, Repr, Inhabited

/-- A shared drupelet: its reference count, content, domain and the slice that stores it (R46, R365). -/
structure Drupelet where
  refs  : Nat := 0
  data  : BitVec 1024 := 0
  dom   : Nat := 0
  slice : Nat := 0
  deriving DecidableEq, Repr, Inhabited

/-- An entry of a content index (R364): the content home and set, the tag, and the line whose drupelet is canonical, or
a shared drupelet. -/
structure IndexEntry where
  home : Nat := 0
  set  : Nat := 0
  dom  : Nat := 0
  hash : BitVec 64 := 0
  /-- a shared drupelet's number, or the key of the line that holds it privately -/
  canon : Nat ⊕ Nat := .inl 0
  deriving DecidableEq, Repr

/-- A cached leaf at a home slice (R353). -/
structure TlbEntry where
  slice : Nat := 0
  asid  : Nat := 0
  page  : Nat := 0
  /-- bits of page offset: 12, 21 or 30 -/
  shift : Nat := 12
  leaf  : BitVec 64 := 0
  /-- the address of the entry that it was read from, whose D bit an overflow sets (R356) -/
  addr  : Nat := 0
  deriving DecidableEq, Repr, Inhabited

/-- What the memory engine keeps beside a stored line: the domain and the KMAC key that its MAC was made with, the key record that
its data was encrypted under, its VERSION, its poison (R388, R390). A line never written back has no entry and verifies. -/
structure Seal where
  dom     : Nat := 0
  epoch   : Nat := 0
  record  : BitVec 1024 := 0
  mac     : BitVec 256 := 0
  version : BitVec 32 := 0
  poison  : Bool := false
  sealed  : Bool := false
  deriving DecidableEq, Repr, Inhabited

/-- A replica of a line in the home slice of the requester's die that is nearest to it, with the content it was made with
(R45, R368). -/
structure Replica where
  slice  : Nat := 0
  asid   : Nat := 0
  line   : Nat := 0
  launch : BitVec 64 := 0
  data   : BitVec 1024 := 0
  deriving DecidableEq, Repr, Inhabited

/-- A key slot: its record, whether it is active, and how often it was loaded (R326, R393). -/
structure KeySlot where
  record : BitVec 1024 := 0
  active : Bool := false
  epoch  : Nat := 0
  deriving DecidableEq, Repr, Inhabited

/-- The copy of a record that the monitor has sealed: AES-256-GCM under its K_seal, with the nonce (R394). -/
structure SealedRecord where
  text  : BitVec 1024 := 0
  tag   : BitVec 128 := 0
  nonce : BitVec 96 := 0
  deriving DecidableEq, Repr, Inhabited

/-- A die's own registers, and what its line of the signed configuration record maps out (R316, R411). -/
structure Die where
  gate     : BitVec 32 := 0
  dstate   : Nat := 0
  keys     : BitVec 64 := 0
  features : BitVec 7 := 0x7F
  noCluster : BitVec 32 := 0
  noHart   : BitVec 8 := 0
  /-- fabric lanes; a port with one mapped out runs at two lanes, which changes no value and no order (R404, R412) -/
  noLane   : BitVec 24 := 0
  /-- mapped-out channels of its two stacks, as ranges of absent physical addresses (base, bytes) -/
  absent   : List (Nat × Nat) := []
  selftest : Bool := false
  /-- the pair is in service for the dispatch agent (R370) -/
  agent    : Bool := true
  /-- a power write that waits for its step: the new PWRCTL value and who wrote it -/
  power    : Option (BitVec 64 × Loc) := none
  deriving DecidableEq, Repr, Inhabited

/-- The pages a XINV names: a range of an address space, an address space, or everything (R325). -/
structure Scope where
  mode  : Nat := 0
  asid  : Nat := 0
  page  : Nat := 0
  count : Nat := 0
  deriving DecidableEq, Repr, Inhabited

/-- A SYS member whose token is outstanding (R322–R328). -/
inductive SysOp
  | halt (cores : List Nat)
  | harvest (asid page count : Nat)
  | xinv (scope : Scope)
  | keyclr (slot : Nat)
  | spill (src dst : Nat)
  deriving DecidableEq, Repr, Inhabited

/-- A token that a step of its own fills: who issued, the register, what remains to be awaited. -/
structure Pending where
  handle : BitVec 64 := 0
  reg    : Nat := 0
  loc    : Loc := {}
  launch : BitVec 64 := 0
  rcb    : Nat := 0
  op     : SysOp := .halt []
  deriving DecidableEq, Repr, Inhabited

/-- An MCST or REDST whose token is outstanding (R148). -/
structure Multicast where
  handle : BitVec 64 := 0
  reg    : Nat := 0
  loc    : Loc := {}
  launch : BitVec 64 := 0
  rcb    : Nat := 0
  status : BitVec 64 := 0
  crewId : BitVec 32 := 0
  epc    : BitVec 64 := 0
  deriving DecidableEq, Repr, Inhabited

/-- What becomes of an admitted launch (R375, R376). -/
inductive LaunchState
  | waiting
  | candidate
  | running
  | saved
  deriving DecidableEq, Repr, Inhabited

/-- An admitted launch or a table firing (R372–R380). -/
structure Launch where
  rcb      : Nat := 0
  /-- its queue, or its table entry -/
  queue    : Nat ⊕ Nat := .inl 0
  doneva   : Nat := 0
  depa     : Nat := 0
  depb     : Nat := 0
  ident    : BitVec 64 := 0
  state    : LaunchState := .waiting
  aged     : Nat := 0
  /-- the crew count, the first crew number never placed, the crews that return to be placed again (R341) -/
  crews    : Nat := 0
  next     : Nat := 0
  again    : List Nat := []
  completed : Nat := 0
  started  : Bool := false
  /-- the level kept once the first crew is placed (R380) -/
  level    : Option Nat := none
  /-- slot at whose start the window of a table firing ends -/
  window   : Option Nat := none
  /-- features a die must list before the rest is placed (R341) -/
  feat     : BitVec 7 := 0
  killed   : Bool := false
  abandoned : Bool := false
  /-- crews saved and to be resumed: crew and the cluster it was saved on -/
  savedOn  : List (Nat × Nat) := []
  /-- the save area that its crews were placed with (R333) -/
  area     : Cap := {}
  /-- crews of it are being saved, or have been, and none has resumed since (R342) -/
  saving   : Bool := false
  resuming : Bool := false
  /-- pre-empted by its table entry's overrun rule, to resume at the entry's next firing -/
  overrun  : Bool := false
  /-- what its saved visitors keep beside their records, in the order of those (R17) -/
  visitors : List Kept := []
  deriving DecidableEq, Repr

/-- An entry of the time-triggered table that is held back by an EXTEND overrun (R379): the entry, the slot it was due
in, the slot its own window ends at. -/
structure Deferred where
  entry  : Nat := 0
  slot   : Nat := 0
  window : Nat := 0
  deriving DecidableEq, Repr, Inhabited

/-- One direction of a fabric port (R392): failures in a row, packets under the present key, its nonce counter, the key-index
bit, the keys that the two indices stand for, and how many exchanges with the peer have established one. -/
structure Link where
  fails  : Nat := 0
  sent   : Nat := 0
  nonce  : BitVec 96 := 0
  keyIdx : Nat := 0
  keys   : List (Option (BitVec 256)) := [none, none]
  made   : Nat := 0
  deriving DecidableEq, Repr, Inhabited

/-- A fabric port and its two directions, 0 in and 1 out (R392, R405). -/
structure Port where
  down  : Bool := false
  links : Tab Link := []
  deriving DecidableEq, Repr, Inhabited

/-- A CXL port: its role, and the key of its IDE stream once one is established (R392, R401). -/
structure Cxl where
  host : Bool := false
  key  : Option (BitVec 256) := none
  deriving DecidableEq, Repr, Inhabited

/-- A CXL port has an established IDE stream. -/
def Cxl.ide (x : Cxl) : Bool := x.key.isSome

/-- A packet for another module (R403–R406): a store, a barrier packet or an NRED packet. -/
inductive Packet
  | store (module dom va size : Nat) (v : BitVec 64)
  /-- a read-modify-write: the AOP, or 10 for CAS, its operand and comparand (R83, R140, R142) -/
  | rmw (module dom va size op : Nat) (v cmp : BitVec 64)
  /-- an MCST, or a REDST with its AOP, which the ingress port makes at every permitted destination of the page (R148, R358) -/
  | cast (module dom va size : Nat) (op : Option Nat) (v : BitVec 64)
  | barrier (entry : BitVec 32) (ctx round tag : Nat)
  | nred (entry : BitVec 32) (ctx op tag : Nat) (v : BitVec 64)
  deriving DecidableEq, Repr, Inhabited

/-- A firmware bank of board flash (R396, R397). -/
structure Bank where
  bundle : Bundle := default
  trial  : Bool := false
  failed : Bool := false
  deriving DecidableEq, Repr, Inhabited

/-- A quote that the monitor has answered (R398). -/
structure Quote where
  nonce   : BitVec 256 := 0
  measure : BitVec 384 := 0
  version : BitVec 32 := 0
  minver  : BitVec 32 := 0
  dbg     : Nat := 0
  trial   : Bool := false
  keys    : BitVec 64 := 0
  time    : BitVec 64 := 0
  conf    : BitVec 384 := 0
  sig     : BitVec 10240 := 0
  deriving DecidableEq, Repr, Inhabited

/-- Why the model stops. -/
inductive Fault
  /-- raised by every instruction's meaning when the slot it is asked to issue from holds no thread: nothing can issue
  there (R22). Safe: no step of the machine does so. -/
  | emptySlot
  deriving DecidableEq, Repr

/-- Why the model has no meaning to give. -/
inductive Refusal
  /-- the instruction of this mnemonic is not modelled yet. Safe: nothing can be proved of it. -/
  | notModelled (mnemonic : String)
  deriving DecidableEq, Repr

/-- The machine. -/
structure State where
  cores    : Tab Core := []
  clusters : Tab Cluster := []
  dies     : Tab Die := []
  /-- device memory by physical address, its capability tags by 16-byte unit, what the memory engines keep by line. A line that
  an engine has sealed is listed as the content that its ciphertext decrypts to under the record of its entry; ciphertext, MAC and
  sidecar are `storedText` and `storedSidecar` of it (R388; log 17). -/
  mem      : List Host.Cell := []
  memTags  : Tab Bool := []
  seals    : Tab Seal := []
  /-- lines held at home slices, by address space and virtual line -/
  lines    : Tab Line := []
  drups    : Tab Drupelet := []
  index    : List IndexEntry := []
  tlb      : List TlbEntry := []
  grants   : List (Nat × Nat × Nat) := []
  replicas : List Replica := []
  /-- held lines by their last use, and the lines that each cluster's cache holds by their last grant, the latest first
  (R42, R365) -/
  recent   : List Nat := []
  caches   : Tab (List Nat) := []
  /-- the model's own: accesses of the present step that their home slices have still to account for, address space and
  address, and whether they reach the line itself or end with the walk, the latest first (R353, R354, R390) -/
  walks    : List (Nat × Nat × Bool) := []
  /-- the model's own: the number of the next thread (R13) -/
  born     : Nat := 1
  coll     : Tab (BitVec 64) := []
  unsh     : Tab (BitVec 64) := []
  /-- stores issued and not performed, by store path: cluster c as c, pair of die d as 1000 + d, engine hart h of die d
  as 2000 + 8 d + h -/
  stores   : Tab (List PStore) := []
  net      : List Delivery := []
  outbox   : List Packet := []
  /-- barrier and NRED packets that wait for a route to their module (R405) -/
  routeless : List Packet := []
  unreach  : List Nat := []
  pending  : List Pending := []
  multis   : List Multicast := []
  keys     : Tab KeySlot := []
  sealedRecords : Tab SealedRecord := []
  sealNonce : BitVec 96 := 0
  /-- slots whose records the monitor has still to load again after every die has slept (R394) -/
  toRestore : List Nat := []
  dbgctl   : Nat := 0
  /-- a change of DBGCTL that waits for its step, and who wrote it (R400) -/
  dbgReq   : Option (Nat × Loc) := none
  sroot    : BitVec 64 := 0
  svocab   : BitVec 64 := 0
  launches : List Launch := []
  credits  : Tab Int := []
  tslot    : Nat := 0
  tbase    : Nat := 0
  tlen     : Nat := 0
  tticks   : Nat := 10000
  deferred : List Deferred := []
  fenced   : Bool := false
  ports    : Tab Port := []
  cxls     : Tab Cxl := []
  banks    : Tab Bank := []
  /-- the signed configuration record of board flash (R411) -/
  record   : ConfigRecord := {}
  /-- the seed of the identity key pair while the monitor holds it (R410) -/
  identity : Option (BitVec 384) := none
  /-- the nonce of the last quote that a verifier has asked for (R397, R398) -/
  attest   : Option (BitVec 256) := none
  /-- the hash of `ROOTPK` that the mask ROM holds (R396) -/
  rootHash : BitVec 256 := 0xfb133eb925eb9524049f197751e0ae2d48f13d07bdfbcb1455719925ce62c9f9
  active   : Nat := 0
  minver   : BitVec 32 := 0
  /-- a trial bank runs and its watchdog has not started; when the watchdog expires (R397) -/
  trialArmed : Bool := false
  trialEnd : Option Nat := none
  bringup  : Nat := 0
  powered  : Bool := false
  boots    : Nat := 0
  quotes   : List Quote := []
  debugOut : List (Option (BitVec 64)) := []
  hostOut  : List (Option (BitVec 64)) := []
  windowOut : List (Except Nat (BitVec 64)) := []
  /-- PTP time in ns, and the time passed since power-on in ns -/
  ptp      : Nat := 0
  now      : Nat := 0
  /-- the model's own: what happens next, the number of the next free value, the slot whose instruction issues, its
  word and the word after it, and what an outside step is about -/
  turns    : List Turn := []
  tick     : Nat := 0
  cur      : Loc := {}
  word     : BitVec 32 := 0
  next     : BitVec 32 := 0
  cue      : Cue := {}
  /-- regions whose kill has begun and not ended (R339) -/
  killing  : List Nat := []
  /-- the model's own: the instruction just tried is not ready, and nothing has changed (R22) -/
  stalled  : Bool := false
  deriving DecidableEq, Repr

/-- The reset value of `FMTn` (R58). -/
def fmtReset (n : Nat) : BitVec 64 :=
  match n with
  | 0 => 0x83B9
  | 1 => 0x07AB
  | 2 => 0x50095
  | 3 => 0xE0031
  | 4 => 0x71
  | 5 => 0x500B5
  | 6 => 0x501A7
  | 7 => 0x30095
  | _ => 0x83B9

/-- The module at the moment power is applied, before bring-up (R400, R409): no thread, nothing held, every register at
its reset value, no key active, debug off, all dies active. Where the manual gives no reset value the value is the
DESIGN CHOICE of log 2. -/
def State.reset : State := { banks := [(0, { bundle := factoryBundle })], record := factoryRecord }

end Sys2Proof.Machine
end

