-- ==== Sys2Proof/Machine/Access.lean ====
section
/-!
DEFINITION. Reading and writing the named pieces of state: agents, slots, threads, scalar, predicate, mask, vector and
capability registers, and the fields of a capability. Every register is read and written here and nowhere else.
-/

namespace Sys2Proof.Machine

/-! ### Agents -/

/-- A compute core (R1). -/
def isCompute (id : Nat) : Bool := id < 1536

/-- A service pair (R311). -/
def isPair (id : Nat) : Bool := 2048 ≤ id && id < 2060

/-- A copy hart. -/
def isCopyHart (id : Nat) : Bool := 4096 ≤ id && id < 4480

/-- An engine hart. -/
def isEngineHart (id : Nat) : Bool := 8192 ≤ id && id < 8288

/-- The die an agent lies on (R1). -/
def dieOf (id : Nat) : Nat :=
  if id < 1536 then id / 128
  else if id < 4096 then id - 2048
  else if id < 8192 then (id - 4096) / 32
  else (id - 8192) / 8

/-- The cluster of a compute core or copy hart, numbered 0–383 in the package. -/
def clusterOf (id : Nat) : Nat := if id < 1536 then id / 4 else id - 4096

/-- The core-in-crew number of a compute core, and its core-side (R5, R33). -/
def sideOf (id : Nat) : Nat := id % 4

/-- The compute core of a cluster and side. -/
def coreOf (cluster side : Nat) : Nat := cluster * 4 + side

/-- The pair of a die. -/
def pairOf (die : Nat) : Nat := 2048 + die

/-- The store path an agent's stores go through (R85). -/
def pathOf (id : Nat) : Nat :=
  if id < 1536 then id / 4
  else if id < 4096 then 1000 + (id - 2048)
  else if id < 8192 then id - 4096
  else 2000 + (id - 8192)

/-- The distance from a home slice to a cluster (R15). -/
def distance (slice k : Nat) : Nat :=
  let gap (a b : Nat) : Nat := if a ≤ b then b - a else a - b
  let ds := slice / 16
  let j := slice % 16
  let dk := k / 32
  let c := k % 32
  16 * (gap (ds / 4) (dk / 4) + gap (ds % 4) (dk % 4)) + gap (2 + 3 * (j / 8)) (c / 8 + c / 16) + gap (j % 8) (c % 8)

/-- The home slice of a die that is nearest to a cluster of it, the lowest of equals (R45). -/
def nearSlice (k : Nat) : Nat :=
  (List.range 16).foldl (fun b j => if distance (k / 32 * 16 + j) k < distance b k then k / 32 * 16 + j else b) (k / 32 * 16)

namespace State

/-- An agent. -/
def core (s : State) (id : Nat) : Core := s.cores.get {} id

/-- The state with an agent changed. -/
def setCore (s : State) (id : Nat) (c : Core) : State := { s with cores := s.cores.set id c }

/-- A cluster. -/
def cluster (s : State) (k : Nat) : Cluster := s.clusters.get {} k

/-- The state with a cluster changed. -/
def setCluster (s : State) (k : Nat) (c : Cluster) : State := { s with clusters := s.clusters.set k c }

/-- A die. -/
def die (s : State) (d : Nat) : Die := s.dies.get {} d

/-- The state with a die changed. -/
def setDie (s : State) (d : Nat) (x : Die) : State := { s with dies := s.dies.set d x }

/-- A slot. -/
def slot (s : State) (l : Loc) : Slot := (s.core l.core).slots.get {} l.slot

/-- The state with a slot changed. -/
def setSlot (s : State) (l : Loc) (x : Slot) : State :=
  let c := s.core l.core
  s.setCore l.core { c with slots := c.slots.set l.slot x }

/-- The live thread of a slot, if any. -/
def thread? (s : State) (l : Loc) : Option Thread := (s.slot l).thread

/-- The live thread of a slot, or a blank one. -/
def thread (s : State) (l : Loc) : Thread := (s.thread? l).getD {}

/-- The state with a slot's thread changed, its generation kept. -/
def setThread (s : State) (l : Loc) (t : Thread) : State :=
  s.setSlot l { s.slot l with thread := some t }

/-- The thread whose instruction issues. -/
def me (s : State) : Thread := s.thread s.cur

/-- The state with the issuing thread changed. -/
def setMe (s : State) (t : Thread) : State := s.setThread s.cur t

/-- A change of a thread, if the slot holds one. -/
def onThread (s : State) (l : Loc) (f : Thread → Thread) : State :=
  match s.thread? l with
  | some t => s.setThread l (f t)
  | none => s

end State

/-! ### Scalar registers (R9, R23) -/

/-- `s[n]`: s0 reads as zero. -/
def Thread.s (t : Thread) (n : Nat) : Word := if n = 0 then 0 else t.regs.get 0 n

/-- A write of `s[n]`, which sets its full bit; s0 ignores it. -/
def Thread.setS (t : Thread) (n : Nat) (v : Word) : Thread :=
  if n = 0 then t else { t with regs := t.regs.set n v, full := t.full ||| (1#32 <<< n) }

/-- The full bit of `s[n]`; s0 is always full. -/
def Thread.isFull (t : Thread) (n : Nat) : Bool := n == 0 || t.full.getLsbD n

/-- `s[n]` is claimed. -/
def Thread.isClaimed (t : Thread) (n : Nat) : Bool := n != 0 && t.claimed.getLsbD n

/-- The register is emptied, as by a sync read (R23). -/
def Thread.empty (t : Thread) (n : Nat) : Thread :=
  if n = 0 then t else { t with full := t.full &&& ~~~(1#32 <<< n) }

/-- The register is emptied and claimed, as by the issue of an operation that names it as token (R23). -/
def Thread.claim (t : Thread) (n : Nat) : Thread :=
  if n = 0 then t else { t with full := t.full &&& ~~~(1#32 <<< n), claimed := t.claimed ||| (1#32 <<< n) }

/-- A fill by completion: writes, sets full, ends the claim (R23). -/
def Thread.fill (t : Thread) (n : Nat) (v : Word) : Thread :=
  if n = 0 then t
  else { t with regs := t.regs.set n v, full := t.full ||| (1#32 <<< n), claimed := t.claimed &&& ~~~(1#32 <<< n) }

/-- A scalar register is held for a result (R115, R138). -/
def Thread.heldS (t : Thread) (n : Nat) : Bool := t.holds.any fun h => !h.vector && h.reg == n

/-- A vector register is held for a result (R176). -/
def Thread.heldV (t : Thread) (n : Nat) : Bool := t.holds.any fun h => h.vector && h.reg == n

/-! ### Masks, vector registers, capabilities -/

/-- `k[n]`. -/
def Thread.k (t : Thread) (n : Nat) : Word := t.masks.get 0 n

/-- A write of `k[n]`. -/
def Thread.setK (t : Thread) (n : Nat) (v : Word) : Thread := { t with masks := t.masks.set n v }

/-- `v[n]`. -/
def Thread.v (t : Thread) (n : Nat) : BitVec 2048 := t.vregs.get 0 n

/-- A write of `v[n]`. -/
def Thread.setV (t : Thread) (n : Nat) (x : BitVec 2048) : Thread := { t with vregs := t.vregs.set n x }

/-- `c[n]`, with the monitor's bank of `c15` at monitor privilege (R317). -/
def Thread.c (t : Thread) (n : Nat) : Cap :=
  if n = 15 && t.priv == 2 then t.cap15m else t.caps.get {} n

/-- A write of `c[n]`. -/
def Thread.setC (t : Thread) (n : Nat) (x : Cap) : Thread :=
  if n = 15 && t.priv == 2 then { t with cap15m := x } else { t with caps := t.caps.set n x }

/-! ### The fields of a capability (R30) -/

def Cap.base (c : Cap) : Nat := (c.bits.extractLsb' 0 56).toNat
def Cap.len (c : Cap) : Nat := (c.bits.extractLsb' 56 40).toNat
def Cap.perm (c : Cap) : BitVec 8 := c.bits.extractLsb' 96 8
def Cap.dom (c : Cap) : Nat := (c.bits.extractLsb' 104 6).toNat
def Cap.space (c : Cap) : Nat := (c.bits.extractLsb' 110 2).toNat

/-- The permission bits of a capability (R30). -/
def permR : BitVec 8 := 0x01
def permW : BitVec 8 := 0x02
def permX : BitVec 8 := 0x04
def permLoadCap : BitVec 8 := 0x08
def permStoreCap : BitVec 8 := 0x10
def permAtomic : BitVec 8 := 0x20
def permReplicate : BitVec 8 := 0x40
def permGlobal : BitVec 8 := 0x80

/-- Every permission of a set is present. -/
def Cap.can (c : Cap) (p : BitVec 8) : Bool := c.perm &&& p == p

/-- A capability from its fields. -/
def Cap.mk' (base len : Nat) (perm : BitVec 8) (dom space : Nat) (tag : Bool) : Cap :=
  { bits := (BitVec.ofNat 16 0) ++ (BitVec.ofNat 2 space) ++ (BitVec.ofNat 6 dom) ++ perm ++ (BitVec.ofNat 40 len)
      ++ (BitVec.ofNat 56 base), tag }

/-- A window of a capability: base and length changed, the rest kept (R128). -/
def Cap.window (c : Cap) (base len : Nat) : Cap := Cap.mk' base len c.perm c.dom c.space c.tag

/-- The capability check of R3: tag 0x04, bounds 0x05, permission 0x06. The address and size are exact numbers. -/
def capCheck (c : Cap) (addr : Int) (size : Nat) (perm : BitVec 8) : Option Nat :=
  if !c.tag then some 0x04
  else if addr < c.base || (c.base : Int) + c.len < addr + size then some 0x05
  else if !c.can perm then some 0x06
  else none

/-! ### Predicates and the streams that answer for them (R121) -/

/-- The stream of a slot that is bound at all (R53). -/
def Core.boundStream (c : Core) (slot n : Nat) : Option Stream :=
  let st := c.streams.get {} n
  match st.bound with
  | some (sl, _) => if sl = slot then some st else none
  | none => none

/-- `p[n]`: p0 reads 1; p(8+n) of a bound stream reads 1 while it is running (R53, R121, R208). -/
def readP (c : Core) (slot : Nat) (t : Thread) (n : Nat) : Bool :=
  if n = 0 then true
  else if 8 ≤ n then
    match c.boundStream slot (n - 8) with
    | some st => st.state == .running
    | none => t.preds.getLsbD n
  else t.preds.getLsbD n

/-- A write of `p[n]`, discarded for p0 and for a bound stream's predicate (R121). -/
def writeP (c : Core) (slot : Nat) (t : Thread) (n : Nat) (b : Bool) : Thread :=
  if n = 0 then t
  else if 8 ≤ n && (c.boundStream slot (n - 8)).isSome then t
  else { t with preds := if b then t.preds ||| (1#16 <<< n) else t.preds &&& ~~~(1#16 <<< n) }

/-- The predicate word as PMOVS reads it: bit 0 set, bound streams reading their state (R123). -/
def predWord (c : Core) (slot : Nat) (t : Thread) : BitVec 16 :=
  BitVec.ofNat 16 ((List.range 16).foldl (fun a n => a + (if readP c slot t n then 2 ^ n else 0)) 0)

namespace State

/-- `p[n]` of the issuing thread. -/
def pred (s : State) (n : Nat) : Bool := readP (s.core s.cur.core) s.cur.slot s.me n

/-- A write of `p[n]` of the issuing thread. -/
def setPred (s : State) (n : Nat) (b : Bool) : State :=
  s.setMe (writeP (s.core s.cur.core) s.cur.slot s.me n b)

/-- A write of `s[n]` of the issuing thread. -/
def wr (s : State) (n : Nat) (v : Word) : State := s.setMe (s.me.setS n v)

/-- A write of `c[n]` of the issuing thread. -/
def setCap (s : State) (n : Nat) (c : Cap) : State := s.setMe (s.me.setC n c)

/-- The thread handle of a slot (R18). A pair's CLUSTER and CORE fields are free (log 9). -/
def handleOf (s : State) (l : Loc) : Word :=
  let gen := (s.slot l).gen.toNat
  let n :=
    if isCompute l.core then dieOf l.core * 2 ^ 27 + (l.core / 4 % 32) * 2 ^ 22 + (l.core % 4) * 2 ^ 20
    else if isPair l.core then dieOf l.core * 2 ^ 27 + Config.pairTag.toNat * 2 ^ 20
    else if isCopyHart l.core then 2 ^ 31 + dieOf l.core * 2 ^ 27 + ((l.core - 4096) % 32) * 2 ^ 22
    else 2 ^ 31 + dieOf l.core * 2 ^ 27 + ((l.core - 8192) % 8) * 2 ^ 22 + 2 ^ 20
  BitVec.ofNat 64 (n + l.slot * 2 ^ 16 + gen)

/-- The agent handle of a cluster's Lichen unit (R18). -/
def lichenHandle (k : Nat) : Word := BitVec.ofNat 64 (2 ^ 31 + (k / 32) * 2 ^ 27 + (k % 32) * 2 ^ 22 + 2 * 2 ^ 20)

/-- The slots that a handle may name (R18): a compute core's, a hart's, or a pair's. The bits that R18 gives as zero, [63:32] and
[26:25] of an engine hart's handle, are passed over in every handle; the manual says so of SEND only (R158). DESIGN CHOICE,
log 80. -/
def locsOf (h : Word) : List Loc :=
  let n := h.toNat
  let die := n / 2 ^ 27 % 16
  let cl := n / 2 ^ 22 % 32
  let co := n / 2 ^ 20 % 4
  let sl := n / 2 ^ 16 % 16
  if 12 ≤ die then []
  else if n / 2 ^ 31 % 2 = 0 then
    { core := die * 128 + cl * 4 + co, slot := sl } ::
      (if Config.pairTag.toNat = cl * 4 + co then [{ core := 2048 + die, slot := sl }] else [])
  else if co = 0 then [{ core := 4096 + die * 32 + cl, slot := sl }]
  else if co = 1 then [{ core := 8192 + die * 8 + cl % 8, slot := sl }]
  else []

/-- The live thread that a handle names: its slot holds one whose generation equals GEN (R20). -/
def resolve (s : State) (h : Word) : Option Loc :=
  (locsOf h).find? fun l => (s.thread? l).isSome && (s.slot l).gen.toNat == h.toNat % 65536

/-- A fresh number for a free value. -/
def bump (s : State) : State := { s with tick := s.tick + 1 }

/-- A die's unit is mapped out or does not exist: a compute core or copy hart whose cluster the record maps out, an
engine hart that it maps out (R412). -/
def mappedOut (s : State) (id : Nat) : Bool :=
  if isCompute id then (s.die (dieOf id)).noCluster.getLsbD (id / 4 % 32)
  else if isCopyHart id then (s.die (dieOf id)).noCluster.getLsbD ((id - 4096) % 32)
  else if isEngineHart id then (s.die (dieOf id)).noHart.getLsbD ((id - 8192) % 8)
  else !isPair id

end State

/-- The thread runs as a visitor on its cluster: the cluster holds no crew, or the crew of another region (R17). -/
def isVisitor (s : State) (l : Loc) (t : Thread) : Bool :=
  isCompute l.core &&
    match (s.cluster (clusterOf l.core)).crew with
    | some c => c.rid != t.rid
    | none => true

/-- Number of a cluster's bank indices in a mode (R33, R37, R38). -/
def Cluster.mode (c : Cluster) (k : Nat) : Nat := c.bmode.get (if k < 8 then 1 else 0) k

/-- The bank indices in a mode, ascending. -/
def Cluster.banksIn (c : Cluster) (m : Nat) : List Nat := (List.range 16).filter fun k => c.mode k == m

/-- The scratchpad's size in bytes (R38). -/
def Cluster.padSize (c : Cluster) : Nat := (c.banksIn 1).length * 131072

/-- The depth of a core's stream queues, in register-loads (R37). -/
def Cluster.depth (c : Cluster) : Nat :=
  let m := (c.banksIn 2).length
  if m = 0 then 4 else if m < 4 then 16 * m else 64

/-- The bank index that holds a scratchpad offset (R38). -/
def Cluster.bankOf (c : Cluster) (off : Nat) : Nat :=
  let bs := c.banksIn 1
  bs.getD (off / 512 % bs.length) 0

/-- Where the byte of a scratchpad offset lies in the SRAM: bank, core-side, row, byte (R38). -/
def Cluster.sramAddr (c : Cluster) (off : Nat) : Nat :=
  let n := (c.banksIn 1).length
  ((c.bankOf off * 4 + off / 128 % 4) * 256 + off / 512 / n) * 128 + off % 128

/-- `FMTn` of a cluster. -/
def Cluster.format (c : Cluster) (n : Nat) : Word := c.fmt.get (fmtReset n) n

/-- `BFMTk` of a cluster. -/
def Cluster.bankFormat (c : Cluster) (k : Nat) : Word := c.bfmt.get 0x10 k

/-- The format descriptor a thread's instruction uses: a visitor uses the reset value (R17, R58). -/
def formatFor (s : State) (l : Loc) (t : Thread) (n : Nat) : Word :=
  if isCompute l.core && !isVisitor s l t then (s.cluster (clusterOf l.core)).format n else fmtReset n

/-- Stream n of a core. -/
def Core.stream (c : Core) (n : Nat) : Stream := c.streams.get {} n

/-- Barrier context n of a core. -/
def Core.bar (c : Core) (n : Nat) : Bar := c.bars.get {} n

/-- `TSHAPEn` of a core (R113). -/
def Core.shape (c : Core) (n : Nat) : Word := c.tshape.get 0x8080 n

end Sys2Proof.Machine
end

