-- ==== Sys2Proof/Machine/Flags.lean ====
section
/-!
DEFINITION. Numbers to the last bit: the formats, exact values, rounding with its flags, the exact sums, minimum and
maximum, the special functions, and the keyed noise (R56–R75, R228, R229). Flags are numbers: 1 invalid, 2 divide by
zero, 4 overflow, 8 underflow, 16 inexact (R58).
-/

namespace Sys2Proof.Machine

/-! ### Values and formats -/

/-- A value that an encoding stands for: a NaN, signalling or not, an infinity, or a signed `m × 2^e`. -/
inductive FVal
  | nan (sig : Bool)
  | inf (neg : Bool)
  | fin (neg : Bool) (m : Nat) (e : Int)
  deriving DecidableEq, Repr, Inhabited

/-- An exact result before its rounding: a NaN, an infinity, or a signed `m / d × 2^e`. `mixed` marks an exact zero that
came from terms of both signs, which is −0 toward −∞ and +0 otherwise. -/
inductive Exact
  | nan
  | inf (neg : Bool)
  | fin (neg mixed : Bool) (m d : Nat) (e : Int)
  deriving DecidableEq, Repr, Inhabited

/-- A format: an IEEE one, or a narrow float by its sign bit and NaN policy; E and M bits and the bias (R56, R59). -/
structure Fm where
  ieee : Bool := true
  sign : Bool := true
  nanp : Bool := false
  e    : Nat := 8
  m    : Nat := 23
  bias : Int := 127
  deriving DecidableEq, Repr, Inhabited

/-- FP32, BF16 and FP16 (R56), and the scale format UE4M3 (R63). -/
def fmF32 : Fm := {}
def fmBf16 : Fm := { m := 7 }
def fmF16 : Fm := { e := 5, m := 10, bias := 15 }
def fmUe4m3 : Fm := { ieee := false, sign := false, nanp := true, e := 4, m := 3, bias := 7 }

/-- The format of a descriptor (R59). -/
def fmOf (d : Word) : Fm :=
  { ieee := false, sign := bitOf' d 0, nanp := bitOf' d 15, e := d.toNat / 2 % 8, m := d.toNat / 16 % 8,
    bias := (d.extractLsb' 7 8).toInt }
where
  /-- Bit n of a descriptor. -/
  bitOf' (d : Word) (n : Nat) : Bool := d.getLsbD n

/-- Bits of an encoding (R61). -/
def Fm.width (f : Fm) : Nat := (if f.sign then 1 else 0) + f.e + f.m

/-- Container width of a format (R62). -/
def Fm.container (f : Fm) : Nat := if f.ieee then f.width else if f.width ≤ 4 then 4 else 8

/-- The block-scale format and block size of a descriptor (R59). -/
def bsfOf (d : Word) : Nat := d.toNat / 2 ^ 16 % 4
def bszOf (d : Word) : Nat := 16 * 2 ^ (d.toNat / 2 ^ 18 % 4)

/-- The magnitude that the encoding index n stands for: adjacent magnitudes have consecutive indices, also beyond the
largest finite value (R65). -/
def Fm.at (f : Fm) (n : Nat) : Nat × Int :=
  if f.e = 0 then (n, 0)
  else if n < 2 ^ f.m then (n, 1 - f.bias - f.m)
  else (n % 2 ^ f.m + 2 ^ f.m, (n / 2 ^ f.m : Nat) - f.bias - f.m)

/-- The largest finite index of a sign (R61, R67). -/
def Fm.top (f : Fm) (neg : Bool) : Nat :=
  if f.ieee then (2 ^ f.e - 1) * 2 ^ f.m - 1
  else if f.e = 0 then (if neg then 2 ^ f.m else 2 ^ f.m - 1)
  else 2 ^ (f.e + f.m) - 1 - (if f.nanp then 1 else 0)

/-- The encoding of a sign and an index. -/
def Fm.pack (f : Fm) (neg : Bool) (n : Nat) : Nat :=
  if f.e = 0 then (if neg && f.sign then (2 ^ (f.m + 1) - n) % 2 ^ (f.m + 1) else n)
  else n + (if neg && f.sign then 2 ^ (f.e + f.m) else 0)

/-- The canonical NaN of a format and the flags that giving it raises (R57, R61, R67). -/
def Fm.nan (f : Fm) : Nat × Nat :=
  if f.ieee then ((2 ^ f.e - 1) * 2 ^ f.m + 2 ^ (f.m - 1), 0)
  else if f.nanp && f.e != 0 then (2 ^ (f.e + f.m) - 1, 0)
  else (0, 1)

/-- The value of an encoding (R56, R61). -/
def Fm.value (f : Fm) (x : Nat) : FVal :=
  let n := x % 2 ^ f.width
  if f.e = 0 then
    if f.sign && 2 ^ f.m ≤ n then .fin true (2 ^ (f.m + 1) - n) 0 else .fin false n 0
  else
    let mag := n % 2 ^ (f.e + f.m)
    let neg := f.sign && 2 ^ (f.e + f.m) ≤ n
    if f.ieee && mag / 2 ^ f.m = 2 ^ f.e - 1 then
      if mag % 2 ^ f.m = 0 then .inf neg else .nan (mag / 2 ^ (f.m - 1) % 2 = 0)
    else if !f.ieee && f.nanp && mag = 2 ^ (f.e + f.m) - 1 then .nan false
    else .fin neg (f.at mag).1 (f.at mag).2

/-! ### Rounding (R65–R69) -/

/-- `m × 2^e` as a fraction. -/
def scaleFrac (m d : Nat) (e : Int) : Nat × Nat :=
  if 0 ≤ e then (m * 2 ^ e.toNat, d) else (m, d * 2 ^ (-e).toNat)

/-- The exponent of the leading bit of a positive `m / d × 2^e`. -/
def leading (m d : Nat) (e : Int) : Int :=
  let k : Int := (Nat.log2 m : Int) - Nat.log2 d
  let le : Bool := if 0 ≤ k then d * 2 ^ k.toNat ≤ m else d ≤ m * 2 ^ (-k).toNat
  (if le then k else k - 1) + e

/-- Whether a magnitude between two neighbours goes to the upper one: the remainder `r` of `d`, the parity of the lower
neighbour's index, the sign and the noise (R65, R69). -/
def roundUp (rm noise : Nat) (neg : Bool) (odd : Bool) (r d : Nat) : Bool :=
  if r = 0 then false
  else match rm with
    | 0 => if 2 * r = d then odd else d < 2 * r
    | 1 => false
    | 2 => neg
    | 3 => !neg
    | 4 => d ≤ 2 * r
    | _ => 65536 * d ≤ 65536 * r + noise * d

/-- The index that a positive magnitude rounds to, with an unbounded exponent above, and whether it is inexact. -/
def Fm.index (f : Fm) (rm noise : Nat) (neg : Bool) (m d : Nat) (e : Int) : Nat × Bool :=
  let emin : Int := 1 - f.bias
  let k := leading m d e
  let k' := if f.e = 0 then (f.m : Int) else max k emin
  let g := k' - f.m
  let (p, q) := scaleFrac m d (e - (if f.e = 0 then 0 else g))
  let t := p / q
  let lo := if f.e = 0 then t else (k' - emin).toNat * 2 ^ f.m + t
  (lo + (if roundUp rm noise neg (lo % 2 == 1) (p % q) q then 1 else 0), p % q != 0)

/-- A positive magnitude is tiny: rounded to the format's precision with an unbounded exponent range it lies below the
smallest normal value (R68). Without mantissa bits the neighbour below that value has an even encoding (R65). -/
def Fm.tiny (f : Fm) (rm noise : Nat) (neg : Bool) (m d : Nat) (e : Int) : Bool :=
  let emin : Int := 1 - f.bias
  let k := leading m d e
  if f.e = 0 then false
  else if emin ≤ k then false
  else if k < emin - 1 then true
  else
    let (p, q) := scaleFrac m d (e - (k - f.m))
    let t := p / q + (if roundUp rm noise neg (f.m != 0 && p / q % 2 == 1) (p % q) q then 1 else 0)
    t < 2 ^ (f.m + 1)

/-- Rounds an exact result once into a format: the encoding and the flags (R65–R69). An infinity becomes the largest finite value F
with its sign in an NF format, in a signed integer format too, whose range has one value more below −F (R61, R67). Minus infinity
becomes +0 in a format without a sign, as every negative value does. DEDUCED, log 22. -/
def Fm.round (f : Fm) (rm noise : Nat) : Exact → Nat × Nat
  | .nan => f.nan
  | .inf neg =>
    if f.ieee then (f.pack neg ((2 ^ f.e - 1) * 2 ^ f.m), 0)
    else if neg && !f.sign then (0, 4)
    else (f.pack neg (f.top false), 4)
  | .fin neg mixed m d e =>
    if m = 0 then (if f.e = 0 then 0 else f.pack (if mixed then rm == 2 else neg) 0, 0)
    else if neg && !f.sign then (0, 4)
    else
      let (n, nx) := f.index rm noise neg m d e
      if f.top neg < n then
        let up := f.ieee && (rm == 0 || 4 ≤ rm || (rm == 2 && neg) || (rm == 3 && !neg))
        (f.pack neg (if up then f.top neg + 1 else f.top neg), 4 + 16)
      else
        (f.pack neg n, (if nx then 16 else 0) + (if nx && f.tiny rm noise neg m d e then 8 else 0))

/-- An exact value of a value. -/
def FVal.exact : FVal → Exact
  | .nan _ => .nan
  | .inf n => .inf n
  | .fin n m e => .fin n false m 1 e

/-- Rounds an exact result into a signed or unsigned integer of a width: saturated, NaN as 0, both invalid (R68). -/
def roundInt (w : Nat) (rm noise : Nat) : Exact → Nat × Nat
  | .nan => (0, 1)
  | .inf neg => (if neg then 2 ^ (w - 1) else 2 ^ (w - 1) - 1, 1)
  | .fin neg _ m d e =>
    let (p, q) := scaleFrac m d e
    let n := p / q + (if roundUp rm noise neg (p / q % 2 == 1) (p % q) q then 1 else 0)
    let top := if neg then 2 ^ (w - 1) else 2 ^ (w - 1) - 1
    if top < n then (top, 1)
    else (if neg then (2 ^ w - n) % 2 ^ w else n, if p % q = 0 then 0 else 16)

/-! ### Exact arithmetic -/

/-- Signalling NaN. -/
def FVal.sig : FVal → Bool
  | .nan s => s
  | _ => false

/-- NaN of either kind. -/
def FVal.isNan : FVal → Bool
  | .nan _ => true
  | _ => false

/-- The smallest exponent of finite terms. -/
def minExp : List FVal → Int → Int
  | [], k => k
  | .fin _ m e :: t, k => minExp t (if m = 0 then k else min e k)
  | _ :: t, k => minExp t k

/-- The signed sum of finite terms in units of `2^k`. -/
def sumAt (k : Int) : List FVal → Int
  | [] => 0
  | .fin n m e :: t => (if n then -1 else 1) * ((m * 2 ^ (e - k).toNat : Nat) : Int) + sumAt k t
  | _ :: t => sumAt k t

/-- A term of negative sign, zero included. -/
def FVal.isNeg : FVal → Bool
  | .nan _ => false
  | .inf n => n
  | .fin n _ _ => n

/-- An infinity. -/
def FVal.isInf : FVal → Bool
  | .inf _ => true
  | _ => false

/-- The exact sum of terms and whether it is invalid (R70): a signalling NaN or infinities of both signs. -/
def exactSum (xs : List FVal) : Exact × Nat :=
  let sig := xs.any FVal.sig
  let pos := xs.any fun x => x.isInf && !x.isNeg
  let neg := xs.any fun x => x.isInf && x.isNeg
  if xs.any FVal.isNan || (pos && neg) then (.nan, if sig || (pos && neg) then 1 else 0)
  else if pos || neg then (.inf neg, 0)
  else
    let k := minExp xs 0
    let v := sumAt k xs
    if v = 0 then
      let zs := xs.any fun x => x.isNeg
      let all := xs.all fun x => x.isNeg
      (.fin (zs && all) (zs && !all) 0 1 0, 0)
    else (.fin (v < 0) false v.natAbs 1 k, 0)

/-- A product and whether it is invalid (R70): a signalling NaN, or an infinity times zero. -/
def exactMul (a b : FVal) : FVal × Nat :=
  if a.isNan || b.isNan then (.nan false, if a.sig || b.sig then 1 else 0)
  else match a, b with
    | .fin n m e, .fin n' m' e' => (.fin (n != n') (m * m') (if m * m' = 0 then 0 else e + e'), 0)
    | .fin n m _, .inf n' => if m = 0 then (.nan false, 1) else (.inf (n != n'), 0)
    | .inf n, .fin n' m _ => if m = 0 then (.nan false, 1) else (.inf (n != n'), 0)
    | .inf n, .inf n' => (.inf (n != n'), 0)
    | _, _ => (.nan false, 0)

/-- `a × b + c` without rounding; a NaN input is invalid only if it signals (R178). -/
def exactFma (a b c : FVal) : Exact × Nat :=
  if a.isNan || b.isNan || c.isNan then (.nan, if a.sig || b.sig || c.sig then 1 else 0)
  else
    let (p, f) := exactMul a b
    if p.isNan then (.nan, f) else exactSum [p, c]

/-- The opposite value. -/
def FVal.negate : FVal → FVal
  | .nan s => .nan s
  | .inf n => .inf (!n)
  | .fin n m e => .fin (!n) m e

/-- Whether a value is less than another, both numbers. -/
def FVal.lt (a b : FVal) : Bool :=
  match a, b with
  | .inf n, .inf n' => n && !n'
  | .inf n, .fin _ _ _ => n
  | .fin _ _ _, .inf n' => !n'
  | .fin n m e, .fin n' m' e' =>
    let k := min e e'
    sumAt k [.fin n m e] < sumAt k [.fin n' m' e']
  | _, _ => false

/-- `a < b` with −0 ordered below +0 (R72). -/
def FVal.below (a b : FVal) : Bool :=
  a.lt b || (!b.lt a && a.isNeg && !b.isNeg)

/-- The equality of numbers, −0 = +0. -/
def FVal.eq (a b : FVal) : Bool := !a.isNan && !b.isNan && !a.lt b && !b.lt a

/-- VMIN, VMAX, VMINN, VMAXN of values (R72): whether the second operand is given (none for a NaN), and the flags. -/
def pickMinMax (isMax propagate : Bool) (a b : FVal) : Option Bool × Nat :=
  let fl := if a.sig || b.sig then 1 else 0
  if a.isNan && b.isNan then (none, fl)
  else if a.isNan || b.isNan then (if propagate then none else some a.isNan, fl)
  else (some (if isMax then a.below b else b.below a), 0)

/-! ### Block scales (R63, R64) -/

/-- Bytes of a scale of a block-scale format. -/
def scaleBytes (bsf : Nat) : Nat := if bsf = 2 then 2 else 1

/-- The value of a scale encoding (R63). -/
def scaleValue (bsf x : Nat) : FVal :=
  match bsf with
  | 0 => .fin false 1 0
  | 1 => if x % 256 = 255 then .nan false else .fin false 1 ((x % 256 : Nat) - 127)
  | 2 => fmBf16.value x
  | _ => if 128 ≤ x % 256 then .nan false else fmUe4m3.value (x % 128)

/-- The scale that stands for 1. -/
def scaleOne (bsf : Nat) : Nat :=
  match bsf with
  | 0 => 0
  | 1 => 127
  | 2 => 0x3F80
  | _ => 0x38

/-- The largest magnitude of the finite values of a block. -/
def largestMag (xs : List FVal) : Nat × Int :=
  xs.foldl (fun a x => match x with
    | .fin _ m e => if (FVal.fin false a.1 a.2).lt (.fin false m e) then (m, e) else a
    | _ => a) (0, 0)

/-- The scale of a block derived from its inputs (R64). Where the format's largest finite value is 0 the quotient and the
logarithm of the rule have no value; the scale is free. DESIGN CHOICE, log 71. -/
def deriveScale (bsf : Nat) (f : Fm) (xs : List FVal) : Nat :=
  let (m, e) := largestMag xs
  let (fm, fe) := f.at (f.top false)
  if bsf = 0 || m = 0 then scaleOne bsf
  else if fm = 0 then Config.scaleOverZero bsf m e % 2 ^ (8 * scaleBytes bsf)
  else if bsf = 1 then
    let k := leading m 1 e - leading fm 1 fe
    (max (-127) (min 127 k) + 127).toNat
  else
    let g := if bsf = 2 then fmBf16 else fmUe4m3
    let n := (g.index 3 0 false m fm (e - fe)).1
    g.pack false (min n (g.top false))

/-- An element divided by its block's scale, both as values: exact, NaN where the scale is NaN or infinite. -/
def exactDiv (x s : FVal) : Exact :=
  match x, s with
  | .nan _, _ => .nan
  | _, .nan _ => .nan
  | _, .inf _ => .nan
  | .inf n, .fin n' _ _ => .inf (n != n')
  | .fin n m e, .fin n' m' e' => .fin (n != n') false m (if m' = 0 then 1 else m') (e - e')

/-! ### Keyed noise (R69, R228) -/

/-- A round of Philox4x32. -/
def philoxRound (x : BitVec 32 × BitVec 32 × BitVec 32 × BitVec 32) (k0 k1 : BitVec 32) :
    BitVec 32 × BitVec 32 × BitVec 32 × BitVec 32 :=
  let a := x.1.toNat * 0xD2511F53
  let b := x.2.2.1.toNat * 0xCD9E8D57
  (BitVec.ofNat 32 (b / 2 ^ 32) ^^^ x.2.1 ^^^ k0, BitVec.ofNat 32 b,
   BitVec.ofNat 32 (a / 2 ^ 32) ^^^ x.2.2.2 ^^^ k1, BitVec.ofNat 32 a)

/-- The remaining rounds of Philox4x32. -/
def philoxLoop : Nat → BitVec 32 × BitVec 32 × BitVec 32 × BitVec 32 → BitVec 32 → BitVec 32 → BitVec 32
  | 0, x, _, _ => x.1
  | n + 1, x, k0, k1 => philoxLoop n (philoxRound x k0 k1) (k0 + 0x9E3779B9) (k1 + 0xBB67AE85)

/-- Word 0 of Philox4x32 with ten rounds (R228). -/
def philox (key : Word) (c0 c1 c2 c3 : BitVec 32) : BitVec 32 :=
  philoxLoop 10 (c0, c1, c2, c3) (key.extractLsb' 0 32) (key.extractLsb' 32 32)

/-- The noise of stochastic rounding for element e (R69). -/
def srNoise (srkey srctr : Word) (e : Nat) : Nat :=
  (philox srkey (srctr.extractLsb' 0 32) (srctr.extractLsb' 32 32) 0xFFFFFFFF (BitVec.ofNat 32 e)).toNat / 65536

/-- The FP32 uniform of a draw word (R229). -/
def uniformF32 (w : BitVec 32) : Nat := (fmF32.round 0 0 (.fin false false (2 * (w.toNat / 256) + 1) 1 (-25))).1

/-! ### Fixed-point elementary functions

Results are truncated at `2^-256` or better and made odd, so that a rounding sees them strictly between the grid points
that the exact value, which is no grid point, lies between (DESIGN CHOICE, log 13). -/

/-- Bits of fraction of the fixed-point numbers. -/
def fixP : Nat := 512

/-- The integer square root, bit by bit. -/
def isqrtFrom : Nat → Nat → Nat → Nat
  | 0, _, r => r
  | b + 1, n, r => isqrtFrom b n (if (r + 2 ^ b) * (r + 2 ^ b) ≤ n then r + 2 ^ b else r)

/-- The integer square root. -/
def isqrt (n : Nat) : Nat := isqrtFrom (Nat.log2 n / 2 + 1) n 0

/-- The product of `2^(2^-i)` over the set bits of a fraction of `n` bits, most significant first; `c` is the present
root, `a` the product so far. -/
def exp2Loop : Nat → Nat → Nat → Nat → Nat
  | 0, _, _, a => a
  | n + 1, f, c, a =>
    let c' := isqrt (c * 2 ^ fixP)
    exp2Loop n f c' (if f / 2 ^ n % 2 = 1 then a * c' / 2 ^ fixP else a)

/-- `2^(m × 2^e)` of a signed number, exact where the exponent is an integer. -/
def exactExp2 (neg : Bool) (m : Nat) (e : Int) : Exact :=
  let b := if e < 0 then (-e).toNat else 0
  let v : Int := (if neg then -1 else 1) * ((m * 2 ^ e.toNat : Nat) : Int)
  let n := v / (2 ^ b : Nat)
  let f := (v % (2 ^ b : Nat)).toNat
  if f = 0 then .fin false false 1 1 n
  else .fin false false (2 * exp2Loop b f (2 * 2 ^ fixP) (2 ^ fixP) + 1) 1 (n - fixP - 1)

/-- The next bits of a base-2 logarithm of a fixed-point number from 1 to 2, by repeated squaring. -/
def log2Loop : Nat → Nat → Nat → Nat
  | 0, _, a => a
  | n + 1, y, a =>
    let z := y * y / 2 ^ fixP
    if 2 ^ (fixP + 1) ≤ z then log2Loop n (z / 2) (2 * a + 1) else log2Loop n z (2 * a)

/-- The base-2 logarithm of a positive `m × 2^e` in units of `2^-192`, truncated downward. -/
def log2Fix (m : Nat) (e : Int) : Int :=
  let k := Nat.log2 m
  let y := m * 2 ^ fixP / 2 ^ k
  (e + k) * (2 ^ 192 : Nat) + (log2Loop 192 y 0 : Nat)

/-- The base-2 logarithm of a positive `m × 2^e`, exact for a power of two. -/
def exactLog2 (m : Nat) (e : Int) : Exact :=
  let k := Nat.log2 m
  if m = 2 ^ k then
    let v := e + k
    .fin (v < 0) false v.natAbs 1 0
  else
    let v := 2 * log2Fix m e + 1
    .fin (v < 0) false v.natAbs 1 (-193)

/-- `1 / sqrt(m × 2^e)` of a positive number. -/
def exactRsqrt (m : Nat) (e : Int) : Exact :=
  let odd := e % 2 != 0
  let m' := if odd then 2 * m else m
  let e' := if odd then e - 1 else e
  let t := isqrt (2 ^ (2 * fixP) / m')
  if t * t * m' = 2 ^ (2 * fixP) then .fin false false t 1 (-(e' / 2) - fixP)
  else .fin false false (2 * t + 1) 1 (-(e' / 2) - fixP - 1)

/-- A sum of odd-power terms of the arc tangent of 1/n, in units of `2^-fixP`. -/
def atanLoop : Nat → Nat → Nat → Int → Nat → Int
  | 0, _, _, a, _ => a
  | n + 1, q, p, a, k =>
    let t : Int := (p / (2 * k + 1) : Nat)
    atanLoop n q (p / q) (if k % 2 = 0 then a + t else a - t) (k + 1)

/-- π in units of `2^-fixP`, by Machin's formula. -/
def piFix : Int :=
  4 * (4 * atanLoop 240 25 (2 ^ fixP / 5) 0 0 - atanLoop 120 57121 (2 ^ fixP / 239) 0 0)

/-- The alternating power series of sine and cosine, and, with `s` positive, of the exponential: the term `t`, its number
`k`, the step of factorials, in units of `2^-fixP`. -/
def seriesLoop : Nat → Int → Int → Int → Nat → Nat → Int
  | 0, _, _, a, _, _ => a
  | n + 1, x2, t, a, k, step =>
    let d : Int := if step = 2 then ((k + 1) * (k + 2) : Nat) else ((k + 1 : Nat) : Int)
    let t' := t * x2 / (2 ^ fixP : Nat) / d
    seriesLoop n x2 t' (a + t') (k + step) step

/-- A number in units of `2^-fixP`. -/
def toFix (neg : Bool) (m : Nat) (e : Int) : Int :=
  let x : Nat := if 0 ≤ e + fixP then m * 2 ^ (e + fixP).toNat else m / 2 ^ (-(e + fixP)).toNat
  if neg then -(x : Int) else x

/-- An argument reduced by the nearest multiple of 2π. -/
def reduceAngle (x : Int) : Int :=
  let p := 2 * piFix
  x - (x + piFix) / p * p

/-- The sine of a number in units of `2^-fixP`. -/
def sinFix (x : Int) : Int :=
  let r := reduceAngle x
  seriesLoop 100 (-(r * r / (2 ^ fixP : Nat))) r r 1 2

/-- The cosine of a number in units of `2^-fixP`. -/
def cosFix (x : Int) : Int :=
  let r := reduceAngle x
  seriesLoop 100 (-(r * r / (2 ^ fixP : Nat))) (2 ^ fixP : Nat) (2 ^ fixP : Nat) 0 2

/-- Repeated squaring of a fixed-point number. -/
def squareLoop : Nat → Int → Int
  | 0, y => y
  | n + 1, y => squareLoop n (y * y / (2 ^ fixP : Nat))

/-- The hyperbolic tangent of a non-negative number in units of `2^-fixP`. -/
def tanhFix (x : Int) : Int :=
  let one : Int := (2 ^ fixP : Nat)
  let y := min (2 * x) (200 * one)
  let z := -(y / 256)
  let q := squareLoop 8 (seriesLoop 120 z one one 0 1)
  (one - q) * one / (one + q)

/-- A number in units of `2^-fixP`, made odd, as an exact value. -/
def fixExact (v : Int) : Exact := .fin (v < 0) false (2 * v.natAbs + 1) 1 (-(fixP : Int) - 1)

/-- ln 2 in units of `2^-fixP`: the sum of `1 / (k × 2^k)`. -/
def ln2Loop : Nat → Nat → Int → Int
  | 0, _, a => a
  | n + 1, k, a => ln2Loop n (k + 1) (a + (2 ^ fixP / (k * 2 ^ k) : Nat))

/-- ln 2 in units of `2^-fixP`. -/
def ln2Fix : Int := ln2Loop 500 1 0

/-- The natural logarithm of a positive `m × 2^e` in units of `2^-fixP`. -/
def lnFix (m : Nat) (e : Int) : Int := log2Fix m e * ln2Fix / (2 ^ 192 : Nat)

/-- The FP32 Gumbel value `−ln(−ln u)` of a draw word (R229). -/
def gumbelF32 (w : BitVec 32) : Nat :=
  let v := -(lnFix (2 * (w.toNat / 256) + 1) (-25))
  (fmF32.round 0 0 (fixExact (-(lnFix v.toNat (-(fixP : Int)))))).1

/-! ### Special functions (R73) -/

/-- A faithful function's result: one of the two neighbours of an exact value that is no grid point; it is tiny as the effective
mode has it (R68, R73). -/
def faithful (f : Fm) (fn typ mode : Nat) (x : Nat) (v : Exact) : Nat × Nat :=
  match v with
  | .fin neg _ m d e =>
    let n := (f.index 1 0 false m d e).1
    let n' := if Config.sfuUpper fn typ (BitVec.ofNat 32 x) then n + 1 else n
    (f.pack neg n', 16 + (if f.tiny mode 0 neg m d e then 8 else 0))
  | _ => f.nan

/-- An SFU function of an encoding in a format: the result and its flags (R73). Functions are numbered as F[4:0]. -/
def sfu (f : Fm) (fn typ rm : Nat) (x : Nat) : Nat × Nat :=
  let mode := if rm = 5 then 0 else rm
  match f.value x with
  | .nan s => (f.nan.1, if s then 1 else 0)
  | .inf neg =>
    match fn with
    | 0 => if neg then (0, 0) else f.round mode 0 (.inf false)
    | 1 => if neg then (f.nan.1, 1) else f.round mode 0 (.inf false)
    | 2 => (f.pack neg 0, 0)
    | 3 => if neg then (f.nan.1, 1) else (0, 0)
    | 4 => f.round mode 0 (.fin neg false 1 1 0)
    | _ => (f.nan.1, 1)
  | .fin neg m e =>
    if m = 0 then
      match fn with
      | 0 => f.round mode 0 (.fin false false 1 1 0)
      | 1 => ((f.round mode 0 (.inf true)).1, 2)
      | 2 => ((f.round mode 0 (.inf neg)).1, 2)
      | 3 => ((f.round mode 0 (.inf neg)).1, 2)
      | 6 => f.round mode 0 (.fin false false 1 1 0)
      | _ => (f.pack neg 0, 0)
    else match fn with
      | 0 =>
        if 9 ≤ leading m 1 e then f.round mode 0 (.fin false false 1 1 (if neg then -1024 else 1024))
        else f.round mode 0 (exactExp2 neg m e)
      | 1 => if neg then (f.nan.1, 1) else f.round mode 0 (exactLog2 m e)
      | 2 => f.round mode 0 (.fin neg false 1 m (-e))
      | 3 => if neg then (f.nan.1, 1) else f.round mode 0 (exactRsqrt m e)
      | 4 =>
        match fixExact (tanhFix (toFix false m e)) with
        | .fin _ b p d g => faithful f fn typ mode x (.fin neg b p d g)
        | v => faithful f fn typ mode x v
      | 5 => faithful f fn typ mode x (fixExact (sinFix (toFix neg m e)))
      | _ => faithful f fn typ mode x (fixExact (cosFix (toFix neg m e)))

end Sys2Proof.Machine
end

