-- ==== Sys2Proof/Machine/Memory.lean ====
section
/-!
DEFINITION. Memory as the manual lays it out: physical memory with its sidecars, lines held at home slices, page walks
and their caches, the checks of one access, the store path, scratchpad. One access is at most 128 bytes of one line.
-/

namespace Sys2Proof.Machine

/-- Why an instruction does not go on: it is not ready and stays so; it raises a cause with a held cause and a value; its
address is refused by the checks of its page, which is a cause at its address after a walk; it meets a poisoned line, which is
cause 0x0D at its address; it parks on an absent page; its target lies inside a pair, which the word before it has shown; it takes
a wait. -/
inductive Stop
  | stall
  | fault (cause : Nat) (val : Word) (held : Nat)
  | denied (cause held asid va : Nat)
  | poison (asid va : Nat)
  | page (asid va : Nat)
  | inside (asid : Nat) (target : Word)
  | wait (w : Wait)
  deriving DecidableEq, Repr

/-- A fault without a held cause. -/
def Stop.cause (c : Nat) (val : Word) : Stop := .fault c val 0

/-- A fault's cause and value, of a poisoned line as of any other (R44). -/
def Stop.fault? : Stop → Option (Nat × Word × Nat)
  | .fault c val held => some (c, val, held)
  | .denied c held _ va => some (c, BitVec.ofNat 64 va, held)
  | .poison _ va => some (0x0D, BitVec.ofNat 64 va, 0)
  | .inside _ target => some (0x10, target, 0)
  | _ => none

/-! ### Physical memory -/

/-- What a byte of memory that nothing has written reads as: the reset values that the dispatch block is given (R377:
`TTSLOT` is 10,000) and 0 elsewhere. DESIGN CHOICE, log 1. -/
def memInit (a : Nat) : Byte := if a = 0x81008 then 0x10 else if a = 0x81009 then 0x27 else 0

/-- A byte of physical memory. -/
def memGet : List Host.Cell → Nat → Byte
  | [], a => memInit a
  | (b, v) :: m, a => if b = a then v else memGet m a

/-- A write of a byte of physical memory, which keeps the canonical form. -/
def memPut (m : List Host.Cell) (a : Nat) (v : Byte) : List Host.Cell :=
  if v = memInit a then Tab.del m a else Tab.set m a v

/-- The canonical form of memory: addresses strictly rising, no entry equal to what an unlisted address reads as. -/
def Memory.wf (m : List Host.Cell) : Bool := Tab.risingFrom 0 m && m.all (fun e => e.2 != memInit e.1)

/-- Bytes as a number, the first lowest (R2). -/
def leNat (f : Nat → Byte) : Nat → Nat
  | 0 => 0
  | n + 1 => leNat f n + (f n).toNat * 256 ^ n

/-- Byte i of a number, the lowest first. -/
def byteOf (v i : Nat) : Byte := BitVec.ofNat 8 (v / 256 ^ i)

/-- A physical range is backed (R401). A port that has no established IDE stream refuses all CXL.mem traffic (R392): the memory
behind it then acts as a frame without backing. DESIGN CHOICE, log 78. -/
def backed (s : State) (pa : Nat) : Bool :=
  if pa < 0x30000000000 then
    pa % 0x2000000000 < 0x1DCD650000 &&
      !((s.die (pa / 0x2000000000 / 2)).absent.any fun r => r.1 ≤ pa && pa < r.1 + r.2)
  else if 0x40000000000 ≤ pa && pa < 0xC0000000000 then
    let p := (pa - 0x40000000000) / 0x10000000000
    !(s.cxls.get {} p).host && (s.cxls.get {} p).ide && pa % 0x10000000000 < Config.cxlBytes p
  else false

/-- The home slice of a device virtual address (R41). -/
def homeSlice (va : Nat) : Nat :=
  let x := va / 128 % 2 ^ 49
  ((x % 65536) ^^^ (x / 65536 % 65536) ^^^ (x / 2 ^ 32 % 65536) ^^^ (x / 2 ^ 48)) % 192

/-- The key of a line at its home slice: address space and virtual line (R369). -/
def lineKey (asid va : Nat) : Nat := asid * 2 ^ 49 + va / 128

/-- A line as its home slice holds it. -/
def State.line? (s : State) (asid va : Nat) : Option Line := s.lines.find (lineKey asid va)

/-- A key slot of the module. -/
def State.key (s : State) (n : Nat) : KeySlot := s.keys.get {} n

/-- A line's content as its frame stores it decrypted: what `State.mem` holds of its 128 bytes. -/
def plainLine (m : List Host.Cell) (line : Nat) : BitVec 1024 :=
  BitVec.ofNat 1024 (leNat (fun i => memGet m (line * 128 + i)) 128)

/-- The ciphertext of a line of 128 bytes at a physical address: AES-256-XTS under record bytes 0 to 31 and 32 to 63, the whole
line one data unit, the tweak its address (R388). -/
def cipherLine (record : BitVec 1024) (pa : Nat) (data : BitVec 1024) : BitVec 1024 :=
  xtsLine (record.extractLsb' 0 256) (record.extractLsb' 256 256) (BitVec.ofNat 128 pa) data

/-- The line whose ciphertext is given. -/
def plainOf (record : BitVec 1024) (pa : Nat) (text : BitVec 1024) : BitVec 1024 :=
  xtsOpen (record.extractLsb' 0 256) (record.extractLsb' 256 256) (BitVec.ofNat 128 pa) text

/-- The KMAC256 key of a record: its bytes 64 to 95 (R326). -/
def macKey (record : BitVec 1024) : BitVec 256 := record.extractLsb' 512 256

/-- The MAC of a stored line: KMAC256 under a key over the ciphertext, its address, the domain byte and bits `[79:64]` and
`[111:80]` of the sidecar (R388). -/
def lineMac (key : BitVec 256) (pa dom : Nat) (text : BitVec 1024) (sidecar : BitVec 128) : BitVec 64 :=
  kmac64 (leBytes 32 key.toNat) "MHX-LINE"
    (leBytes 128 text.toNat ++ leBytes 8 pa ++ leBytes 1 dom ++ leBytes 2 (sidecar.extractLsb' 64 16).toNat
      ++ leBytes 4 (sidecar.extractLsb' 80 32).toNat)

/-- The bits of a stored line's sidecar that its MAC covers, in their places: TAGS, POISON, VERSION (R388). -/
def sidecarBits (s : State) (line : Nat) : BitVec 128 :=
  let e := s.seals.get {} line
  let tags := (List.range 8).foldl (fun a u => a + (if s.memTags.get false (line * 8 + u) then 2 ^ u else 0)) 0
  BitVec.ofNat 128 (tags * 2 ^ 64 + (if e.poison then 2 ^ 72 else 0) + e.version.toNat * 2 ^ 80)

/-- The ciphertext that memory holds of a line, under the record that sealed it (R387, R388). -/
def storedText (s : State) (line : Nat) : BitVec 1024 :=
  cipherLine (s.seals.get {} line).record (line * 128) (plainLine s.mem line)

/-- The MAC that a stored line's sidecar would hold under a key and a domain. -/
def macUnder (s : State) (line : Nat) (key : BitVec 256) (dom : Nat) : BitVec 64 :=
  lineMac key (line * 128) dom (storedText s line) (sidecarBits s line)

/-- The sidecar of a stored line: its MAC below TAGS, POISON and VERSION (R388). -/
def storedSidecar (s : State) (line : Nat) : BitVec 128 :=
  let e := s.seals.get {} line
  (macUnder s line e.mac e.dom).setWidth 128 ||| sidecarBits s line

/-- A stored line verifies under the key of a domain (R388, R390): it was never written back, or its MAC was made for that
domain under the domain's present KMAC key. A MAC of another domain or key that matches by chance, against which R327 makes no
promise, fails in the model. DESIGN CHOICE, log 17. -/
def sealOk (s : State) (pa dom : Nat) : Bool :=
  let e := s.seals.get {} (pa / 128)
  !e.sealed || (e.dom == dom && e.mac == macKey (s.key dom).record)

/-- The stored line reads as poisoned: no backing, the POISON bit, or a MAC that does not match (R44, R390, R401). -/
def storedPoison (s : State) (pa dom : Nat) : Bool :=
  !backed s pa || (s.seals.get {} (pa / 128)).poison || !sealOk s pa dom

/-- The line as an access under a translation finds it: a line kept from before its page moved to another frame answers
none (R325). -/
def State.lineFor (s : State) (asid va pa : Nat) : Option Line :=
  (s.line? asid va).filter fun l => l.frame == pa / 128 * 128

/-- A byte at a device address whose translation is known: from the held line, else from memory. -/
def State.byte (s : State) (asid va pa : Nat) : Byte :=
  match s.lineFor asid va pa with
  | some l => l.data.extractLsb' (8 * (va % 128)) 8
  | none => memGet s.mem pa

/-- Bytes of one line as a number. -/
def State.bytes (s : State) (asid va pa n : Nat) : Nat := leNat (fun i => s.byte asid (va + i) (pa + i)) n

/-- The capability tag of a 16-byte unit (R130). -/
def State.unitTag (s : State) (asid va pa : Nat) : Bool :=
  match s.lineFor asid va pa with
  | some l => l.tags.getLsbD (va % 128 / 16)
  | none => s.memTags.get false (pa / 16)

/-- The line that an access under a translation finds at its home slice in the domain of its leaf: one that was filled under
another domain answers none, as one of another frame (R363, R367). -/
def State.heldFor (s : State) (asid va pa dom : Nat) : Option Line := (s.lineFor asid va pa).filter fun l => l.dom == dom

/-- A line is poisoned (R44). -/
def State.poisoned (s : State) (asid va pa dom : Nat) : Bool :=
  match s.heldFor asid va pa dom with
  | some l => l.poison
  | none => storedPoison s pa dom

/-! ### Page walks (R349–R353) -/

/-- The result of a translation: no entry, a malformed one, or a leaf with the bits of its page offset and the address
it was read from. -/
inductive Xlate
  | absent
  | malformed
  | leaf (e : Word) (shift : Nat) (addr : Nat)
  deriving DecidableEq, Repr

/-- Bits `[hi:lo]` of a word (R3). -/
def bitsOf (w : Word) (hi lo : Nat) : Nat := w.toNat / 2 ^ lo % 2 ^ (hi - lo + 1)

/-- Bit n of a word. -/
def bitOf (w : Word) (n : Nat) : Bool := w.getLsbD n

/-- Bits of page offset that a leaf of a level maps (R349). -/
def levelShift (lvl : Nat) : Nat := 12 + 9 * lvl

/-- A present entry is malformed (R350, R351). -/
def entryBad (lvl : Nat) (e : Word) : Bool :=
  bitsOf e 11 10 != 0 || bitsOf e 63 54 != 0 ||
  (lvl == 0 && !bitOf e 9) || (lvl == 3 && bitOf e 9) ||
  (if bitOf e 9 then
    bitsOf e 47 12 * 4096 % 2 ^ levelShift lvl != 0 || (bitOf e 8 && lvl != 0) || (bitOf e 2 && bitsOf e 53 48 == 63)
   else bitsOf e 8 1 != 0 || bitsOf e 53 48 != 0)

/-- The 8-byte entry at a physical address, read without translation through its home slice: the line tagged by that address in
address space 0, whatever frame it was filled from, else the frame of that address (R352). The manual has no cause for a poisoned
line that a walk reads: its data is taken as it stands. DESIGN CHOICE, log 81. -/
def State.entry (s : State) (a : Nat) : Word :=
  match s.line? 0 a with
  | some l => l.data.extractLsb' (8 * (a % 128)) 64
  | none => BitVec.ofNat 64 (leNat (fun i => memGet s.mem (a + i)) 8)

/-- The walk from a level's table (R349). -/
def walkLevel (s : State) (va : Nat) : Nat → Nat → Xlate
  | 0, table =>
    let a := table + 8 * (va / 2 ^ 12 % 512)
    let e := s.entry a
    if !bitOf e 0 then .absent else if entryBad 0 e then .malformed else .leaf e 12 a
  | lvl + 1, table =>
    let a := table + 8 * (va / 2 ^ levelShift (lvl + 1) % (if lvl + 1 = 3 then 131072 else 512))
    let e := s.entry a
    if !bitOf e 0 then .absent
    else if entryBad (lvl + 1) e then .malformed
    else if bitOf e 9 then .leaf e (levelShift (lvl + 1)) a
    else walkLevel s va lvl (bitsOf e 47 12 * 4096)

/-- The walk of an address space's table, from the translation root table on (R349). -/
def walk (s : State) (asid va : Nat) : Xlate :=
  let root := s.entry (8 * (asid % 65536))
  if root = 0 then .absent
  else if bitsOf root 19 0 != 0 || bitsOf root 63 48 != 0 then .malformed
  else walkLevel s va 3 (bitsOf root 47 20 * 2 ^ 20)

/-- The addresses of the entries that a walk reads from a level's table on. -/
def levelEntries (s : State) (va : Nat) : Nat → Nat → List Nat
  | 0, table => [table + 8 * (va / 2 ^ 12 % 512)]
  | lvl + 1, table =>
    let a := table + 8 * (va / 2 ^ levelShift (lvl + 1) % (if lvl + 1 = 3 then 131072 else 512))
    let e := s.entry a
    if !bitOf e 0 || entryBad (lvl + 1) e || bitOf e 9 then [a]
    else a :: levelEntries s va lvl (bitsOf e 47 12 * 4096)

/-- The addresses of the entries that a walk reads, at most five (R352). -/
def walkEntries (s : State) (asid va : Nat) : List Nat :=
  let a := 8 * (asid % 65536)
  let root := s.entry a
  if root = 0 || bitsOf root 19 0 != 0 || bitsOf root 63 48 != 0 then [a]
  else a :: levelEntries s va 3 (bitsOf root 47 20 * 2 ^ 20)

/-- The cached leaf of the accessed line's home slice, if it has one (R353). -/
def cachedLeaf (s : State) (asid va : Nat) : Option TlbEntry :=
  s.tlb.find? fun e => e.slice == homeSlice va && e.asid == asid && va / 2 ^ e.shift == e.page

/-- The translation an access uses: the cached leaf while one is held, else the walk (R352, R353). -/
def xlate (s : State) (asid va : Nat) : Xlate :=
  match cachedLeaf s asid va with
  | some e => .leaf e.leaf e.shift e.addr
  | none => walk s asid va

/-- The address of the leaf that maps a page: the one that a walk finds, else that of a leaf which some slice still caches,
though memory no longer shows it present (R353, R356). -/
def leafAddr (s : State) (asid va : Nat) : Option Nat :=
  match walk s asid va with
  | .leaf _ _ a => some a
  | _ => (s.tlb.find? fun e => e.asid == asid && va / 2 ^ e.shift == e.page).map fun e => e.addr

/-- The destinations of a multicast descriptor, frame and WP, or none when it is malformed (R357). -/
def destinations (s : State) (e : Word) : Option (List (Nat × Bool)) :=
  let base := bitsOf e 47 12 * 4096
  let es := (List.range 8).map fun i => s.entry (base + 8 * i)
  let vs := es.takeWhile fun d => bitOf d 0
  if vs.isEmpty || (es.drop vs.length).any (fun d => bitOf d 0) ||
      es.any (fun d => bitsOf d 11 2 != 0 || bitsOf d 63 48 != 0) then none
  else some (vs.map fun d => (bitsOf d 47 12 * 4096, bitOf d 1))

/-- The physical address of a page's destination 0 (R350, R358), or none for a malformed descriptor. -/
def leafPa (s : State) (e : Word) (shift va : Nat) : Option Nat :=
  if bitOf e 8 then (destinations s e).bind fun ds => ds.head?.map fun d => d.1 + va % 4096
  else some (bitsOf e 47 12 * 4096 + va % 2 ^ shift)

/-! ### The checks of one access (R137) -/

/-- Where a checked access goes. -/
inductive Place
  | device (asid va pa dom : Nat) (leaf : Word)
  | scratch (cluster off : Nat)
  | remote (module va dom : Nat) (v : Word)
  deriving DecidableEq, Repr

/-- Which page permissions an access needs; `late` where a poisoned line is met only when the access is performed (R150). -/
structure Need where
  r : Bool := false
  w : Bool := false
  x : Bool := false
  late : Bool := false
  deriving DecidableEq, Repr

/-- The module number of this module in the fabric domain, from the service block (R402). -/
def State.modno (s : State) : Nat := (s.byte 0 0x8800D 0x8800D).toNat

/-- The fabric domain identity of this module, from the service block (R402). -/
def State.fdomid (s : State) : Nat := (s.byte 0 0x8800E 0x8800E).toNat + 256 * (s.byte 0 0x8800F 0x8800F).toNat

/-- The links of the module carry traffic (R409). -/
def linksUp (s : State) : Bool := s.powered && s.bringup == 7

/-- A direction of a fabric port: 0 in, 1 out. -/
def Port.link (x : Port) (d : Nat) : Link := x.links.get {} (d % 2)

/-- The key that packets are sent under, once one is established. -/
def Link.key (x : Link) : Option (BitVec 256) := x.keys.getD x.keyIdx none

/-- A port that carries traffic: in service, with a key in both directions (R392). -/
def Port.carries (x : Port) : Bool := !x.down && (x.link 0).key.isSome && (x.link 1).key.isSome

/-- Some port of the fabric carries traffic: every byte on the fabric travels under link protection (R387, R392). -/
def fabricUp (s : State) : Bool := linksUp s && s.ports.any fun e => e.1 < 72 && e.2.carries

/-- No route leads to a module: all have been lost, or no port carries traffic (R392, R405). -/
def State.noRoute (s : State) (m : Nat) : Bool := s.unreach.contains m || !fabricUp s

/-- The page checks of R137, R32 and R327 on a device address in an address space. -/
def pageCheck (s : State) (asid va dom : Nat) (need : Need) : Except Stop Place :=
  match xlate s asid va with
  | .absent => .error (.page asid va)
  | .malformed => .error (.denied 0x09 0 asid va)
  | .leaf e shift _ =>
    let pdom := bitsOf e 53 48
    if (need.r && !bitOf e 1) || (need.w && !bitOf e 2) || (need.x && !bitOf e 3) then .error (.denied 0x09 0 asid va)
    else if dom != pdom && !(pdom == 63 && !need.w) then .error (.denied 0x09 0 asid va)
    else match leafPa s e shift va with
      | none => .error (.denied 0x09 0 asid va)
      | some pa =>
        if !(s.key pdom).active then .error (.denied 0x0D 0 asid va)
        else if (need.r || need.x) && !need.late && s.poisoned asid va pa pdom then .error (.poison asid va)
        else .ok (.device asid va pa pdom e)

/-- The cluster whose scratchpad an agent's threads reach: its own, for a core and for a copy hart (R31, R77). An engine hart
and a service pair run on no cluster; the manual is silent on their accesses of SPACE 01, which raise 0x06. DESIGN CHOICE,
log 63. -/
def onCluster (id : Nat) : Bool := isCompute id || isCopyHart id

/-- One access of a thread through a capability, at most one line wide: `cap_check`, SPACE, alignment, scratchpad and
page, in the order of R137. A system-window address that names this module is served in address space 1 (R403); another
module's answer is free (log 18); a page that is absent there parks the thread, with an event of that module's own (R335).
Where BASE and LEN of a capability of SPACE 00 reach past 2^56, the walk and the home slice take the address modulo 2^56, and the
line is held under the number of the next address space; the manual does not say whether such an access wraps or faults. DESIGN
CHOICE, log 80. Without a route a store is dropped when it is performed and everything else waits (R150, R405). The value of each
of these causes is the address; of a failure of the page of an address that names this module, which is checked as an access of
address space 1, the address within the module, its low 48 bits. DESIGN CHOICE, log 30. -/
def memCheck (s : State) (l : Loc) (t : Thread) (c : Cap) (addr : Int) (size align : Nat) (perm : BitVec 8)
    (need : Need) : Except Stop Place :=
  let val := BitVec.ofInt 64 addr
  match capCheck c addr size perm with
  | some cause => .error (.cause cause val)
  | none =>
    let a := addr.toNat
    if c.space = 3 then .error (.cause 0x06 val)
    else if a % align != 0 then .error (.cause 0x07 val)
    else if c.space = 1 then
      if !onCluster l.core || isVisitor s l t then .error (.cause 0x06 val)
      else if (s.cluster (clusterOf l.core)).padSize < a + size then .error (.cause 0x05 val)
      else .ok (.scratch (clusterOf l.core) a)
    else if c.space = 2 then
      let m := a / 2 ^ 48 % 256
      let va := a % 2 ^ 48
      if m = s.modno then pageCheck s 1 va c.dom need
      else if s.noRoute m then
        if need.r then .error (.wait (.route m a s.now false)) else .ok (.remote m va c.dom 0)
      else match Config.remote s.tick a with
        | .value v => .ok (.remote m va c.dom v)
        | .refused => .error (.cause 0x09 val)
        | .integrity => .error (.cause 0x0D val)
        | .absent => .error (.wait (.page 1 a))
    else pageCheck s t.asid a c.dom need

/-! ### Reading -/

/-- The pending stores of a path. -/
def State.path (s : State) (p : Nat) : List PStore := s.stores.get [] p

/-- A pending store of a path that a plain load of the path may read before it is performed: any but the elements of streams,
which no fence or release of a reader would have performed (R85, R144; log 6). -/
def PStore.readable (p : PStore) : Bool := p.stream.isNone

/-- A byte as a plain load of the writer's own path sees it: the last pending store over it, else what is performed
(R85; log 6). -/
def forward (ps : List PStore) (sp : Space) (a : Nat) (old : Byte) : Byte :=
  ps.foldl (fun b p =>
    if p.readable && p.space = sp && p.addr ≤ a && a < p.addr + p.size then p.value.extractLsb' (8 * (a - p.addr)) 8 else b) old

/-- A performed byte at a place. -/
def State.placeByte (s : State) : Place → Nat → Byte
  | .device asid va pa _ _, i => s.byte asid (va + i) (pa + i)
  | .scratch k off, i =>
    let cl := s.cluster k
    cl.sram.get 0 (cl.sramAddr (off + i))
  | .remote _ _ _ v, i => byteOf v.toNat i

/-- The space and address under which the store path knows a place. -/
def Place.key : Place → Space × Nat
  | .device asid va _ _ _ => (.device asid, va)
  | .scratch k off => (.scratch k, off)
  | .remote m va dom _ => (.window m dom, va)

/-- A plain load's bytes at a place, through the store path of its agent. -/
def State.loadNat (s : State) (path : Nat) (pl : Place) (size : Nat) : Nat :=
  leNat (fun i => forward (s.path path) pl.key.1 (pl.key.2 + i) (s.placeByte pl i)) size

/-- The capability tag of the unit at a place, through the store path: a pending store over the unit decides it. -/
def State.loadTag (s : State) (path : Nat) (pl : Place) : Bool :=
  let base := match pl with
    | .device asid va pa _ _ => s.unitTag asid va pa
    | .scratch k off => let cl := s.cluster k; cl.sramTags.get false (cl.sramAddr off / 16)
    | .remote _ _ _ _ => false
  (s.path path).foldl (fun b p =>
    if p.readable && p.space = pl.key.1 && p.addr / 16 ≤ pl.key.2 / 16 && pl.key.2 / 16 ≤ (p.addr + p.size - 1) / 16
    then p.cap else b) base

/-- The replica that a load with the H hint is served from: that of the slice nearest to its cluster (R45). -/
def replicaFor (s : State) (id asid va : Nat) : Option Replica :=
  s.replicas.find? fun r => onCluster id && r.slice == nearSlice (clusterOf id) && r.asid == asid && r.line == va / 128

/-- The bytes of a load at a place, through the store path of its agent; with the H hint from a replica of the line, if there
is one, as it was made (R45, R368); a line of a STREAM page comes from its home slice every time (R43). -/
def State.hintNat (s : State) (id : Nat) (hint : Bool) (pl : Place) (size : Nat) : Nat :=
  match (if hint then (match pl with
      | .device asid va _ _ leaf =>
        if bitOf leaf 6 then none else (replicaFor s id asid va).map fun r => (asid, va, r.data)
      | _ => none) else none) with
  | some (asid, va, data) =>
    leNat (fun i => forward (s.path (pathOf id)) (.device asid) (va + i) (data.extractLsb' (8 * ((va + i) % 128)) 8)) size
  | none => s.loadNat (pathOf id) pl size

/-! ### What an access leaves to its home slice -/

/-- An access to a line of device memory, which its home slice accounts for at the end of the step: the leaf that its walk has
found is cached and its A bit set, the stored line's check is followed up (R353, R354, R390; log 68). -/
def State.reach (s : State) (asid va : Nat) : State := { s with walks := (asid, va, true) :: s.walks }

/-- An access that its walk or the checks of its page end: the home slice accounts for the walk alone (R352, R353; log 68). -/
def State.walked (s : State) (asid va : Nat) : State := { s with walks := (asid, va, false) :: s.walks }

/-- What the failure of an access leaves to its home slice. -/
def State.reachStop (s : State) (e : Stop) : State :=
  match e with
  | .poison asid va => s.reach asid va
  | .denied _ _ asid va => s.walked asid va
  | .page asid va => s.walked asid va
  | .inside asid target => s.reach asid (target.toNat - 4)
  | _ => s

/-- An access to a place. -/
def State.reachAt (s : State) (pl : Place) : State :=
  match pl with
  | .device asid va _ _ _ => s.reach asid va
  | _ => s

/-- Lines that overlap a range. -/
def linesOver (addr size : Nat) : List Nat :=
  if size = 0 then [] else (List.range ((addr + size - 1) / 128 - addr / 128 + 1)).map fun i => (addr / 128 + i) * 128

/-- Accesses to the lines of a range. -/
def State.reachRange (s : State) (asid addr size : Nat) : State := (linesOver addr size).foldl (fun s va => s.reach asid va) s

/-! ### Writing at a home slice (R47, R362, R388) -/

/-- Some bytes of a line replaced: `size` bytes of `value` from offset `off` on. -/
def splice (old : BitVec 1024) (off size : Nat) (value : BitVec 1024) : BitVec 1024 :=
  let m : BitVec 1024 := (BitVec.ofNat 1024 (2 ^ (8 * size) - 1)) <<< (8 * off)
  (old &&& ~~~m) ||| ((value <<< (8 * off)) &&& m)

/-- The tag bits of a line after a write of some of its bytes: each unit touched loses its tag, or takes the one that a
CST writes (R130). -/
def spliceTags (old : BitVec 8) (off size : Nat) (tag : Bool) : BitVec 8 :=
  BitVec.ofNat 8 ((List.range 8).foldl (fun a u =>
    a + (if off / 16 ≤ u ∧ u ≤ (off + size - 1) / 16 then (if tag then 2 ^ u else 0)
         else if old.getLsbD u then 2 ^ u else 0)) 0)

/-- The home slice of a line, by its key. -/
def keyHome (key : Nat) : Nat := homeSlice (key % 2 ^ 49 * 128)

/-- A reference to a shared drupelet released; the drupelet is freed at zero, with its index entries (R47, R364). -/
def dropRef (s : State) (id : Nat) : State :=
  let d := s.drups.get {} id
  if d.refs ≤ 1 then
    { s with drups := s.drups.del id, index := s.index.filter fun e => e.canon != .inl id }
  else { s with drups := s.drups.set id { d with refs := d.refs - 1 } }

/-- What a line's tag gives up: its reference to a shared drupelet, or its private drupelet, which is freed with the index
entries that name it (R47, R364). -/
def freeTag (s : State) (key : Nat) (l : Line) : State :=
  match l.drup with
  | .zero => s
  | .shared id => dropRef s id
  | .own => { s with index := s.index.filter fun e => e.canon != .inr key }

/-- What the engine keeps of a line that it seals under the key of a domain (R388). -/
def State.sealFor (s : State) (dom : Nat) (old : Seal) (poison : Bool) : Seal :=
  { dom, epoch := (s.key dom).epoch, record := (s.key dom).record, mac := macKey (s.key dom).record
    version := old.version + 1, poison, sealed := true }

/-- Writes some bytes straight to memory: the bytes, the tags, the sidecar (R388). A frame without backing takes
nothing (R401). `clears` says that the access covers the line: any other leaves a poisoned line poisoned (R44). -/
def writeMem (s : State) (pa dom off size : Nat) (value : BitVec 1024) (tag clears : Bool) : State :=
  if !backed s pa then s
  else
    let line := pa / 128
    let bad := storedPoison s pa dom && !clears
    let old := s.seals.get {} line
    let mem := (List.range size).foldl (fun m i => memPut m (line * 128 + off + i) (byteOf value.toNat i)) s.mem
    let tags := (List.range 8).foldl (fun m u =>
      if off / 16 ≤ u ∧ u ≤ (off + size - 1) / 16 then Tab.put false m (line * 8 + u) tag else m) s.memTags
    { s with
      mem := mem
      memTags := tags
      seals := s.seals.set line (s.sealFor dom old bad) }

/-- Write ownership of a line is held by an agent. -/
def Dir.owned : Dir → Bool
  | .modified _ => true
  | _ => false

/-- A line is written back to its frame whole, with its tags and its poison (R388). A frame without backing takes nothing
(R401). Nothing leaves the module but under a key (R387): of a line whose domain has no active slot, as the first tables are
before slot 0 is loaded, nothing is written, and it is lost where it leaves its slice. The manual does not speak of such a
line. DESIGN CHOICE, log 81. -/
def writeBack (s : State) (l : Line) : State :=
  if !backed s l.frame || !(s.key l.dom).active then s
  else
    let n := l.frame / 128
    { s with
      mem := (List.range 128).foldl (fun m i => memPut m (l.frame + i) (byteOf l.data.toNat i)) s.mem
      memTags := (List.range 8).foldl (fun m u => Tab.put false m (n * 8 + u) (l.tags.getLsbD u)) s.memTags
      seals := s.seals.set n (s.sealFor l.dom (s.seals.get {} n) l.poison) }

/-- A line becomes the most recently used (R365). -/
def touch (s : State) (key : Nat) : State := { s with recent := key :: s.recent.filter (· != key) }

/-- No cluster's cache holds a line any more. -/
def uncache (s : State) (key : Nat) : State := { s with caches := s.caches.map fun e => (e.1, e.2.filter (· != key)) }

/-- A line leaves its slice without being written back: its drupelet is released, its copies are gone (R47, R362). -/
def dropLine (s : State) (key : Nat) : State :=
  match s.lines.find key with
  | none => s
  | some l =>
    let s1 := freeTag s key l
    uncache { s1 with lines := s1.lines.del key, recent := s1.recent.filter (· != key) } key

/-- A tag is evicted: every copy recalled, the line written back if it is dirty. -/
def evict (s : State) (key : Nat) : State :=
  match s.lines.find key with
  | none => s
  | some l =>
    let dirty := l.dirty || l.dir.owned
    dropLine (if dirty then writeBack s l else s) key

/-! ### Capacity (R1, R365) -/

/-- Tags and drupelets of a slice (R1). -/
def sliceTags : Nat := 98304
def sliceDrups : Nat := 49152

/-- Two lines compete for one set of tags at one slice (R365). -/
def sameTagSet (a b : Nat) : Bool :=
  keyHome a == keyHome b && Config.tagSet a % (sliceTags / 16) == Config.tagSet b % (sliceTags / 16)

/-- The held lines of a test, the least recently used first. -/
def oldestFirst (s : State) (p : Nat → Line → Bool) : List Nat :=
  s.recent.reverse.filter fun k =>
    match s.lines.find k with
    | some l => p k l
    | none => false

/-- A tag for a line that is about to be held: where its set of 16 is full, the least recently used is evicted (R365). -/
def needTag (s : State) (key : Nat) : State :=
  if (s.lines.filter fun e => keyHome e.1 == keyHome key).length < 16 then s
  else
    let peers := oldestFirst s fun k _ => sameTagSet k key
    if peers.length < 16 then s else match peers.head? with
      | some k => evict s k
      | none => s

/-- What a line's tag points to, as an index entry names it. -/
def Line.canon (l : Line) (key : Nat) : Nat ⊕ Nat :=
  match l.drup with
  | .shared id => .inl id
  | _ => .inr key

/-- A line's drupelet lies in the storage of a slice (R365). -/
def storedAt (s : State) (slice key : Nat) (l : Line) : Bool :=
  match l.drup with
  | .zero => false
  | .own => keyHome key == slice
  | .shared id => (s.drups.get {} id).slice == slice

/-- References to a line's drupelet. -/
def refsOf (s : State) (l : Line) : Nat :=
  match l.drup with
  | .shared id => (s.drups.get {} id).refs
  | _ => 1

/-- Drupelets of a slice's own storage in use. -/
def drupsUsed (s : State) (slice : Nat) : Nat :=
  (s.lines.filter fun e => e.2.drup == .own && keyHome e.1 == slice).length +
    (s.drups.filter fun e => e.2.slice == slice).length

/-- The least recently used drupelet of a slice's storage: of the drupelets by their latest use, the last. -/
def oldestDrup (s : State) (slice : Nat) : Option (Nat ⊕ Nat) :=
  (s.recent.filterMap fun k =>
    match s.lines.find k with
    | some l => if storedAt s slice k l then some (l.canon k) else none
    | none => none).eraseDups.getLast?

/-- A drupelet for a line at its home slice, which frees one where none is free (R365): the least recently used tag of the
line's set whose drupelet lies here with a count of 1, else every tag on the least recently used drupelet. -/
def needDrup (s : State) (key : Nat) : State :=
  let h := keyHome key
  if s.lines.length + s.drups.length < sliceDrups then s
  else if drupsUsed s h < sliceDrups then s
  else match oldestFirst s fun k l => k != key && sameTagSet k key && storedAt s h k l && refsOf s l == 1 with
    | k :: _ => evict s k
    | [] =>
      match oldestDrup s h with
      | some c => (oldestFirst s fun k l => k != key && l.drup != .zero && l.canon k == c).foldl evict s
      | none => s

/-- A held line moves to a private drupelet before a write where others point to its drupelet as well (R47): a move off a
non-zero drupelet counts in UNSH, a move off the zero drupelet does not, and a drupelet with one reference stays. -/
def unshare (s0 : State) (key : Nat) : State :=
  match s0.lines.find key with
  | none => s0
  | some l0 =>
    let s := if l0.drup == .own || (l0.drup != .zero && refsOf s0 l0 ≤ 1) then s0 else needDrup s0 key
    match s.lines.find key with
    | none => s
    | some l =>
      match l.drup with
      | .own => s
      | .zero => { s with lines := s.lines.set key { l with drup := .own } }
      | .shared id =>
        if refsOf s l ≤ 1 then s
        else
          let s1 := dropRef s id
          { s1 with lines := s1.lines.set key { l with drup := .own }, unsh := s1.unsh.set l.dom (s1.unsh.get 0 l.dom + 1) }

/-- A held line with some of its bytes written at its slice: tags, poison and directory as R130, R44 and R362 give. -/
def Line.write (l : Line) (off size : Nat) (value : BitVec 1024) (tag clears : Bool) : Line :=
  { l with
    data := splice l.data off size value
    tags := spliceTags l.tags off size tag
    poison := l.poison && !clears
    dirty := true
    dir := .invalid }

/-- A held line takes its new state, and the drupelet that it alone points to its content. -/
def putLine (s : State) (key : Nat) (l : Line) : State :=
  match l.drup with
  | .shared id =>
    { s with lines := s.lines.set key l, drups := s.drups.set id { s.drups.get {} id with data := l.data } }
  | _ => { s with lines := s.lines.set key l }

/-- A write of bytes of a held line, unshared first; no effect where no line is held. -/
def writeHeld (s : State) (key off size : Nat) (value : BitVec 1024) (tag clears : Bool) : State :=
  let s0 := uncache (unshare s key) key
  match s0.lines.find key with
  | some l => touch (putLine s0 key (l.write off size value tag clears)) key
  | none => s0

/-- A write of bytes of one line performed at its home slice: every copy recalled, the line unshared (R47, R362). A line that
is not held is written through to memory. -/
def writeAt (s : State) (asid va pa dom size : Nat) (value : BitVec 1024) (tag clears : Bool) : State :=
  let key := lineKey asid va
  if (s.heldFor asid va pa dom).isSome then writeHeld s key (va % 128) size value tag clears
  else writeMem (evict s key) pa dom (va % 128) size value tag clears

/-- A line as it is read from its frame: data, tags and poison. -/
def readFrame (s : State) (pa dom : Nat) : Line :=
  let f := pa / 128 * 128
  { data := BitVec.ofNat 1024 (leNat (fun i => memGet s.mem (f + i)) 128)
    tags := BitVec.ofNat 8 ((List.range 8).foldl (fun a u => a + (if s.memTags.get false (f / 16 + u) then 2 ^ u else 0)) 0)
    poison := storedPoison s pa dom, dom, frame := f }

/-- A line comes to be held at its home slice, read from memory where it was not held in that domain, into a tag and a drupelet
that are freed for it (R365). -/
def holdLine (s : State) (asid va pa dom : Nat) : State :=
  let key := lineKey asid va
  if (s.heldFor asid va pa dom).isSome then touch s key
  else
    let s1 := needDrup (needTag (evict s key) key) key
    touch { s1 with lines := s1.lines.set key (readFrame s1 pa dom) } key

/-- The domain of a line of memory that the hardware reaches by its physical address: that of its page in address space 0, and 0
where that maps none (R352; log 8). -/
def physDom (s : State) (a : Nat) : Nat :=
  match xlate s 0 a with
  | .leaf e _ _ => bitsOf e 53 48
  | _ => 0

/-- The line of a page-table entry is held at its home slice, filled from the frame of its address where the slice does not hold
it (R352). -/
def holdEntry (s : State) (a : Nat) : State :=
  if (s.line? 0 a).isSome then touch s (lineKey 0 a) else holdLine s 0 a a (physDom s a)

/-- Bits set in a page-table entry by an atomic OR at its home slice: a read-modify-write of its granule, which clears the tag
of the unit (R130, R354, R356). -/
def orBits (s : State) (a : Nat) (mask : Word) : State :=
  let s1 := holdEntry s a
  writeHeld s1 (lineKey 0 a) (a % 128) 8 ((s1.entry a ||| mask).setWidth 1024) false false

/-- Records of grants that a slice keeps (R356). -/
def grantRoom : Nat := 4096

/-- The slice of a record has room for one more. -/
def hasRoom (s : State) (slice : Nat) : Bool := (s.grants.filter fun x => x.1 == slice).length < grantRoom

/-- The record of a grant of write ownership, or of a write the slice performs itself (R356). Where the store is full, D of
the page's leaf, which the slice walks to, is set instead, by an OR that is itself a write of the entry's slice, with its own
record, until one finds room
or a leaf that has D set already. The first argument bounds the entries met on the way (log 64). -/
def recordIn : Nat → State → Nat → Nat → State
  | 0, s, _, _ => s
  | n + 1, s, asid, va =>
    let g := (homeSlice va, asid, va / 4096)
    if s.grants.contains g then s
    else if hasRoom s g.1 then { s with grants := g :: s.grants }
    else
      let s := (walkEntries s asid va).foldl holdEntry s
      match leafAddr s asid va with
      | some a => if bitOf (s.entry a) 5 then s else recordIn n (orBits s a 0x20) 0 a
      | none => s

/-- The record of a grant: more entries than its chain of page-table pages can hold. -/
def recordGrant (s : State) (asid va : Nat) : State := recordIn 64 s asid va

/-- An atomic OR on a page-table entry, recorded as any write of its slice. -/
def orEntry (s : State) (a : Nat) (mask : Word) : State := recordGrant (orBits s a mask) 0 a

/-- Performs a write of bytes of one line at its home slice, with its record (R356). -/
def writeLine (s : State) (asid va pa dom size : Nat) (value : BitVec 1024) (tag clears : Bool) : State :=
  recordGrant (writeAt s asid va pa dom size value tag clears) asid va

/-- Performs a write of bytes of one line of a scratchpad, at its bank (R38, R130). -/
def writeSram (s : State) (k off size : Nat) (value : BitVec 1024) (tag : Bool) : State :=
  let cl := s.cluster k
  let sram := (List.range size).foldl (fun m i => Tab.put 0 m (cl.sramAddr (off + i)) (byteOf value.toNat i)) cl.sram
  let tags := (List.range ((off + size - 1) / 16 - off / 16 + 1)).foldl
    (fun m u => Tab.put false m (cl.sramAddr ((off / 16 + u) * 16) / 16) tag) cl.sramTags
  s.setCluster k { cl with sram := sram, sramTags := tags }

/-- Writes some bytes of a destination frame (R93, R358): every held line of that frame, or memory when none is held. -/
def writeFrame (s : State) (pa dom size : Nat) (value : BitVec 1024) (clears : Bool) : State :=
  let held := s.lines.filter fun e => e.2.frame == pa / 128 * 128
  if held.isEmpty then writeMem s pa dom (pa % 128) size value false clears
  else held.foldl (fun s e => writeHeld s e.1 (pa % 128) size value false clears) s

/-- Bytes of a destination frame as a number. -/
def frameNat (s : State) (pa size : Nat) : Nat :=
  match s.lines.find? fun e => e.2.frame == pa / 128 * 128 with
  | some e => (e.2.data.extractLsb' (8 * (pa % 128)) (8 * size)).toNat
  | none => leNat (fun i => memGet s.mem (pa + i)) size

/-- A destination frame's line is poisoned. -/
def framePoison (s : State) (pa dom : Nat) : Bool :=
  match s.lines.find? fun e => e.2.frame == pa / 128 * 128 with
  | some e => e.2.poison
  | none => storedPoison s pa dom

/-- The domain of a frame's line: as it is held, as it is stored, else as address space 0 maps it, else as given. -/
def frameDom (s : State) (pa other : Nat) : Nat :=
  match s.lines.find? fun e => e.2.frame == pa / 128 * 128 with
  | some e => e.2.dom
  | none =>
    let e := s.seals.get {} (pa / 128)
    if e.sealed then e.dom
    else match xlate s 0 pa with
      | .leaf e _ _ => bitsOf e 53 48
      | _ => other

/-! ### Hardware accesses in address space 0 -/

/-- Reads bytes of the dispatch block, of a queue ring or of a token: address space 0 with VA = PA (R370). A poisoned line that a
unit of the hardware reads gives its data as it stands, since the manual gives such a unit no cause to raise. DESIGN CHOICE,
log 81. -/
def State.phys (s : State) (a size : Nat) : Nat := s.bytes 0 a a size

/-- Writes bytes of the dispatch block, of a queue ring or of a token (R370), at their home slice: the line is held there, and
leaves it through the memory engine alone (R387). -/
def State.physPut (s : State) (a size v : Nat) : State :=
  let dom := physDom s a
  writeLine (holdLine s 0 a a dom) 0 a a dom size (BitVec.ofNat 1024 v) false false

/-- The physical address and domain of a root-region address: address space 0 (log 8). -/
def rootPa (s : State) (va : Nat) : Option (Nat × Nat) :=
  match xlate s 0 va with
  | .leaf e shift _ => (leafPa s e shift va).map fun pa => (pa, bitsOf e 53 48)
  | _ => none

/-- Reads bytes of a region control block or of another table in the root region's address space. An address that is
not mapped reads as 0 (log 8), and a poisoned line gives its data as it stands. DESIGN CHOICE, log 81. -/
def State.root (s : State) (va size : Nat) : Nat :=
  match rootPa s va with
  | some (pa, _) => s.bytes 0 va pa size
  | none => 0

/-- Writes bytes in the root region's address space, at their home slice, which accounts for the access (R353). A write to an
address that is not mapped is dropped (log 8). -/
def State.rootPut (s : State) (va size v : Nat) : State :=
  match rootPa s va with
  | some (pa, dom) =>
    (writeLine (holdLine s 0 va pa dom) 0 va pa dom size (BitVec.ofNat 1024 v) false false).reach 0 va
  | none => s

/-- A capability in the root region's address space, with its tag. -/
def State.rootCap (s : State) (va : Nat) : Cap :=
  match rootPa s va with
  | some (pa, _) => { bits := BitVec.ofNat 128 (s.bytes 0 va pa 16), tag := s.unitTag 0 va pa }
  | none => {}

/-- A capability read in an address space, as the units that place threads read a capability table (R9). The manual names no
check of such a read: the model makes none of the page's permissions, of its domain and key, and of poison, and takes an absent
page for an untagged capability. DESIGN CHOICE, log 80. -/
def State.capAt (s : State) (asid va : Nat) : Cap :=
  match xlate s asid va with
  | .leaf e shift _ =>
    match leafPa s e shift va with
    | some pa =>
      let bits := BitVec.ofNat 128 (s.bytes asid va pa 16)
      let c : Cap := { bits, tag := s.unitTag asid va pa }
      if c.space = 3 || (bits.extractLsb' 112 16) != 0 then { c with tag := false } else c
    | none => {}
  | _ => {}

/-- Entry n of the capability table that a context root designates (R9): the 16 bytes at offset 16 n, read through it; a
root that does not reach them gives an untagged capability. -/
def tableCap (s : State) (asid : Nat) (root : Cap) (n : Nat) : Cap :=
  match capCheck root (root.base + 16 * n) 16 permR with
  | some _ => {}
  | none => if root.space = 0 then s.capAt asid (root.base + 16 * n) else {}

end Sys2Proof.Machine
end

