-- ==== Sys2Proof/Machine/Region.lean ====
section
/-!
DEFINITION. Region control blocks and their effective values, the error log and the undeliverable counter, and the
completion of crews and launches (R7, R331–R334, R376).
-/

namespace Sys2Proof.Machine

/-- How far the tree of regions is followed toward its root: more levels than any tree of the module holds. -/
def regionDepth : Nat := 4096

/-- The root region's control block (R315). -/
def State.rootRcb (s : State) : Nat := s.sroot.toNat

/-- A field of a region control block (R331). -/
def State.rcb (s : State) (r off size : Nat) : Nat := s.root (r + off) size

/-- A field of a region control block written by the hardware. -/
def State.rcbPut (s : State) (r off size v : Nat) : State := s.rootPut (r + off) size v

/-- A region takes a field group from its parent (R332). The root's `INHERIT` reads as 0. -/
def inherits (s : State) (r g : Nat) : Bool := r != s.rootRcb && (s.rcb r 0x20 4).testBit g

/-- The region whose own value of a group is effective for a region (R332). -/
def ownerOf (s : State) (g : Nat) : Nat → Nat → Nat
  | 0, r => r
  | n + 1, r => if inherits s r g then ownerOf s g n (s.rcb r 0x00 8) else r

/-- The effective value of a field of a group. -/
def eff (s : State) (r g off size : Nat) : Nat := s.rcb (ownerOf s g regionDepth r) off size

/-- The effective capability of a group. -/
def effCap (s : State) (r g off : Nat) : Cap := s.rootCap (ownerOf s g regionDepth r + off)

/-- The effective crew maximum: never above the parent's (R332). -/
def effCrewMax (s : State) : Nat → Nat → Nat
  | 0, r => s.rcb r 0x24 4
  | n + 1, r =>
    if r = s.rootRcb then s.rcb r 0x24 4
    else
      let up := effCrewMax s n (s.rcb r 0x00 8)
      if inherits s r 1 then up else min (s.rcb r 0x24 4) up

/-- The effective die mask: never wider than the parent's (R332). -/
def effDieMask (s : State) : Nat → Nat → BitVec 12
  | 0, r => BitVec.ofNat 12 (s.rcb r 0x30 2)
  | n + 1, r =>
    let own := BitVec.ofNat 12 (s.rcb r 0x30 2)
    if r = s.rootRcb then own
    else
      let up := effDieMask s n (s.rcb r 0x00 8)
      if inherits s r 3 then up else own &&& up

/-- A region lies at or below another (R331). -/
def isBelow (s : State) (top : Nat) : Nat → Nat → Bool
  | 0, r => r == top
  | n + 1, r => r == top || (r != s.rootRcb && r != 0 && isBelow s top n (s.rcb r 0x00 8))

/-- A launch's or thread's region lies at or below a region. -/
def below (s : State) (top r : Nat) : Bool := isBelow s top regionDepth r

/-- The chain of a region and its ancestors up to the root. -/
def ancestors (s : State) : Nat → Nat → List Nat
  | 0, r => [r]
  | n + 1, r => if r = s.rootRcb || r = 0 then [r] else r :: ancestors s n (s.rcb r 0x00 8)

/-- The home slices account for a unit's reading of a region's control block and of those above it, for its effective values
(R332, R353; log 68). -/
def reachRegion (s : State) (r : Nat) : State :=
  (ancestors s regionDepth r).foldl (fun s a => (s.reach 0 a).reach 0 (a + 128)) s

/-- The home slices account for a unit's reading of entries 0 and 14 of a capability table (R9, R353; log 68). -/
def reachTable (s : State) (asid : Nat) (root : Cap) : State := (s.reach asid root.base).reach asid (root.base + 224)

/-! ### The error log (R334) -/

/-- An entry of an error log. -/
structure LogEntry where
  cause   : Nat := 0
  held    : Nat := 0
  kind    : Nat := 0
  action  : Nat := 0xFF
  rid     : BitVec 32 := 0
  handle  : Word := 0
  epc     : Word := 0
  val     : Word := 0
  absrid  : BitVec 32 := 0
  retries : Nat := 0
  crew    : BitVec 32 := 0
  launch  : Word := 0
  deriving DecidableEq, Repr

/-- The 64 bytes of an entry, lowest first (R334). -/
def LogEntry.bytes (e : LogEntry) (time : Nat) : Nat :=
  e.cause % 256 + e.held % 256 * 256 ^ 1 + e.kind % 256 * 256 ^ 2 + e.action % 256 * 256 ^ 3
    + e.rid.toNat * 256 ^ 4 + e.handle.toNat * 256 ^ 8 + e.epc.toNat * 256 ^ 16 + e.val.toNat * 256 ^ 24
    + time % 2 ^ 64 * 256 ^ 32 + e.absrid.toNat * 256 ^ 40 + e.retries % 65536 * 256 ^ 44
    + e.crew.toNat * 256 ^ 48 + e.launch.toNat * 256 ^ 56

/-- Writes bytes through a capability in the root region's address space, each page checked against the capability's
domain (R331), split at a line's end. -/
def capWrite (s : State) (c : Cap) (va size v : Nat) (tag : Bool := false) : State :=
  let piece (s : State) (va size v : Nat) : State :=
    match pageCheck s 0 va c.dom { w := true } with
    | .ok (.device _ _ pa dom _) => (writeLine s 0 va pa dom size (BitVec.ofNat 1024 v) tag false).reach 0 va
    | .ok _ => s
    | .error e => s.reachStop e
  let fit := 128 - va % 128
  if size ≤ fit then piece s va size v
  else piece (piece s va fit v) (va + fit) (size - fit) (v / 256 ^ fit)

/-- Writes an entry to the effective log of a region and counts it in `LOGHEAD` (R334). -/
def logEntry (s : State) (r : Nat) (e : LogEntry) : State :=
  let lr := ownerOf s 14 regionDepth r
  let len := s.rcb lr 0x84 4
  let head := s.rcb lr 0x80 4
  let c := s.rootCap (lr + 0x70)
  let s1 :=
    if len = 0 || (capCheck c c.base (64 * len) permW).isSome then s
    else capWrite s c (c.base + 64 * (head % len)) 64 (e.bytes s.ptp)
  s1.rcbPut lr 0x80 4 (head + 1)

/-- The region identity in a control block. -/
def ridOf (s : State) (r : Nat) : BitVec 32 := BitVec.ofNat 32 (s.rcb r 0x18 4)

/-- An undeliverable delivery: counted in `UNDELIV` of a region and logged as kind 2, with the launch and crew of the thread
that caused it (R16, R20, R334). The delivery type is 0 message, 1 REPLY, 2 WAKE, 3 token fill, 4 barrier or NRED packet. -/
def undeliverable (s : State) (r : Nat) (handle : Word) (dtype : Nat) (launch : Word) (crew : BitVec 32) : State :=
  let s1 := s.rcbPut r 0x88 8 (s.rcb r 0x88 8 + 1)
  logEntry s1 r { kind := 2, rid := ridOf s r, handle, val := BitVec.ofNat 64 dtype, launch, crew }

/-- The region of the crew that a cluster holds, or the sender's where it holds none (R20). -/
def blameCluster (s : State) (k : Option Nat) (sender : Nat) : Nat :=
  match k.bind fun k => (s.cluster k).crew with
  | some c => c.rcb
  | none => sender

/-- The region that an undeliverable delivery to an agent is counted in. -/
def blameRegion (s : State) (dest sender : Nat) : Nat :=
  blameCluster s (if onCluster dest then some (clusterOf dest) else none) sender

/-- The cluster that a handle names (R18): of a thread on a core, of a copy hart, of a Lichen unit. An engine hart lies on none,
and die numbers from 12 on name no die. -/
def handleCluster (h : Word) : Option Nat :=
  let n := h.toNat
  let die := n / 2 ^ 27 % 16
  let kind := n / 2 ^ 20 % 4
  if 12 ≤ die || (n / 2 ^ 31 % 2 = 1 && (kind = 1 || kind = 3)) then none else some (die * 32 + n / 2 ^ 22 % 32)

/-- The region that an undeliverable delivery by handle is counted in (R20). -/
def blameHandle (s : State) (h : Word) (sender : Nat) : Nat := blameCluster s (handleCluster h) sender

/-! ### Completion of crews and launches -/

/-- The launch of an identity. Records of two queues, or a record and a firing, may give launches of one region the same identity
(R373); of those the region runs one at a time (R384), and what bears the identity on a core belongs to that one. -/
def launchIdx (s : State) (ident : Word) : Option Nat :=
  match s.launches.findIdx? fun l => l.ident == ident && l.started with
  | some i => some i
  | none => s.launches.findIdx? fun l => l.ident == ident

/-- The network interfaces no longer catch or forward for a launch that is over (R26). -/
def dropSpills (s : State) (ident : Word) : State :=
  let cores : Tab Core := s.cores.map fun e => (e.1, { e.2 with spills := e.2.spills.filter fun x => x.launch != ident })
  { s with cores := cores }

/-- Completes a launch: `RSTATE` first, then the token as a release at system scope; of one that has started the replicas are
dropped and nothing is caught or forwarded any more, and it leaves the scheduler (R26, R45, R376). -/
def completeLaunch (s : State) (i outcome : Nat) (rstate : Option Nat) : State :=
  match s.launches[i]? with
  | none => s
  | some l =>
    let s1 := match rstate with
      | some r => s.rcbPut l.rcb 0x1E 1 r
      | none => s
    let s2 := if l.doneva = 0 then s1 else s1.physPut l.doneva 8 outcome
    let s3 := if l.started then dropSpills s2 l.ident else s2
    { s3 with
      launches := s3.launches.eraseIdx i
      replicas := s3.replicas.filter fun r => !(l.started && r.launch == l.ident) }

/-- The clusters that hold crews of a launch. -/
def crewsOf (s : State) (ident : Word) : List Nat :=
  (List.range 384).filter fun k => (s.cluster k).crew.any fun c => c.launch == ident

/-- A launch that is being saved has no crew on a cluster any more: `RSTATE` goes to 3 (R342). One that has not started keeps
its `RSTATE`. -/
def launchSaved (s : State) (ident : Word) : State :=
  match launchIdx s ident with
  | none => s
  | some i =>
    match s.launches[i]? with
    | none => s
    | some l =>
      if l.saving && (crewsOf s ident).isEmpty then
        let s1 := if l.started then s.rcbPut l.rcb 0x1E 1 3 else s
        { s1 with launches := s1.launches.set i { l with state := .saved } }
      else s

/-- A copy or a Lichen operation of a launch is under way on some cluster: it may outlive the thread that issued it, with a save
(R218) or with a visitor that has left (R17). -/
def unitsBusy (s : State) (ident : Word) : Bool :=
  s.clusters.any fun e => e.2.copies.any (fun q => q.launch == ident) || e.2.lichen.any fun q => q.launch == ident

/-- A launch that has nothing left to wait for completes, once no copy or Lichen operation of it is under way, whose accesses are the
launch's too (R86): one whose last crew has completed with outcome 0x01 (R376), a killed one once no crew of it is on a cluster,
`RSTATE` going to 5 with the last launch of its region that a kill has reached (R339). -/
def launchDone (s : State) (i : Nat) : State :=
  match s.launches[i]? with
  | none => s
  | some l =>
    if unitsBusy s l.ident && l.started then s
    else if l.killed then
      if l.started && !(crewsOf s l.ident).isEmpty then s
      else
        let others := (s.launches.eraseIdx i).any fun m => m.rcb == l.rcb && m.killed
        completeLaunch s i (if l.abandoned then 0x03 else 0x02) (if others then none else some 5)
    else if l.started && l.completed == l.crews then completeLaunch s i 0x01 (some 6)
    else s

/-- A crew of a launch has completed: the launch completes with its last crew, as killed, abandoned or done (R376), or is saved
where its other crews are (R342). -/
def crewCompleted (s : State) (ident : Word) : State :=
  match launchIdx s ident with
  | none => s
  | some i =>
    match s.launches[i]? with
    | none => s
    | some l =>
      let s1 := { s with launches := s.launches.set i { l with completed := l.completed + 1 } }
      if l.killed || l.completed + 1 == l.crews then launchDone s1 i else launchSaved s1 ident

/-- The live threads of a core's slots. -/
def liveSlots (s : State) (id : Nat) : List Nat := (List.range 16).filter fun n => (s.thread? { core := id, slot := n }).isSome

/-- No thread of the crew's region is live on the cluster's cores (R7). -/
def crewEmpty (s : State) (k : Nat) (c : Crew) : Bool :=
  (List.range 4).all fun j => (List.range 16).all fun n =>
    match s.thread? { core := coreOf k j, slot := n } with
    | some t => t.rid != c.rid
    | none => true

/-- A number put into an ascending list. -/
def insertAsc (n : Nat) : List Nat → List Nat
  | [] => [n]
  | m :: ms => if n ≤ m then n :: m :: ms else m :: insertAsc n ms

end Sys2Proof.Machine
end

