-- ==== Sys2Proof/Machine/Operands.lean ====
section
/-!
DEFINITION. What an instruction names and where it exists: the registers it reads and writes (R23, R102, R103), the
privilege it needs and the agents that implement it (R108, R273, R312, R318), and the fields of a vector prefix
(R105, R106, R174).
-/

namespace Sys2Proof.Machine

/-! ### Prefixes -/

/-- The fields of a prefix, neutral by default, and the length in bytes of the instruction it makes (R105, R106). -/
structure Px where
  k   : BitVec 3 := 0
  z   : BitVec 1 := 0
  rm  : BitVec 3 := 7
  vc  : BitVec 5 := 0
  uc  : BitVec 1 := 0
  len : Nat := 4
  deriving DecidableEq, Repr, Inhabited

/-- The prefix of a word of major 0x3E. -/
def prefixOf (w : BitVec 32) : Px :=
  { k := fld w.toNat 25 23, z := fld w.toNat 22 22, rm := fld w.toNat 21 19, vc := fld w.toNat 18 14,
    uc := fld w.toNat 13 13, len := 8 }

/-- A prefix word's reserved values (R106). -/
def prefixReserved (w : BitVec 32) : Bool :=
  let p := prefixOf w
  w.toNat % 8192 != 0 || p.rm == 6 || (p.vc != 0 && p.uc == 0) || (p.k == 0 && p.z == 1)

/-- Which prefix fields a member honours (R174): the mask, zeroing, rounding, the fourth operand. -/
structure Honours where
  k  : Bool := false
  z  : Bool := false
  rm : Bool := false
  uc : Bool := false
  deriving DecidableEq, Repr

/-- The fields that each member honours (R174). Conversions between integers do not round. -/
def honoursOf : Instr → Honours
  | .vadd _ _ _ t => { k := true, z := true, rm := typeFloat t }
  | .vsub _ _ _ t => { k := true, z := true, rm := typeFloat t }
  | .vmul _ _ _ t => { k := true, z := true, rm := typeFloat t }
  | .vfma _ _ _ t => { k := true, z := true, rm := typeFloat t, uc := true }
  | .vaddScalar _ _ _ t => { k := true, z := true, rm := typeFloat t }
  | .vsubScalar _ _ _ t => { k := true, z := true, rm := typeFloat t }
  | .vmulScalar _ _ _ t => { k := true, z := true, rm := typeFloat t }
  | .vfmaScalar _ _ _ t => { k := true, z := true, rm := typeFloat t, uc := true }
  | .vmulh _ _ _ _ | .vmin _ _ _ _ | .vmax _ _ _ _ | .vminu _ _ _ _ | .vmaxu _ _ _ _ | .vand _ _ _ _
  | .vor _ _ _ _ | .vxor _ _ _ _ | .vshl _ _ _ _ | .vshr _ _ _ _ | .vsra _ _ _ _ | .vabs _ _ _ | .vneg _ _ _
  | .vminn _ _ _ _ | .vmaxn _ _ _ _ => { k := true, z := true }
  | .vmulhScalar _ _ _ _ | .vminScalar _ _ _ _ | .vmaxScalar _ _ _ _ | .vminuScalar _ _ _ _ | .vmaxuScalar _ _ _ _
  | .vandScalar _ _ _ _ | .vorScalar _ _ _ _ | .vxorScalar _ _ _ _ | .vshlScalar _ _ _ _ | .vshrScalar _ _ _ _
  | .vsraScalar _ _ _ _ | .vminnScalar _ _ _ _ | .vmaxnScalar _ _ _ _ => { k := true, z := true }
  | .vcmp _ _ _ _ _ _ => { k := true, z := true }
  | .vpermb _ _ _ | .vshuf _ _ _ _ | .vbcast _ _ _ | .vslide _ _ _ _ | .vins _ _ _ _ => { k := true, z := true }
  | .vredsum _ _ t => { k := true, rm := typeFloat t }
  | .vredmax _ _ _ | .vredmin _ _ _ | .vredmaxi _ _ _ _ | .vredmini _ _ _ _ => { k := true }
  | .vscan _ _ t => { k := true, z := true, rm := typeFloat t }
  | .vcvt _ _ s u => { k := true, z := true, rm := typeFloat s || typeFloat u, uc := true }
  | .vpack _ _ _ s u => { k := true, z := true, rm := typeFloat s || typeFloat u, uc := true }
  | .vunpk _ _ _ s u => { k := true, z := true, rm := typeFloat s || typeFloat u, uc := true }
  | .vld _ _ _ _ _ _ _ | .vlds _ _ _ _ _ _ _ | .vgather _ _ _ _ => { k := true, z := true }
  | .vst _ _ _ _ _ _ | .vsts _ _ _ _ _ _ | .vscatter _ _ _ _ => { k := true }
  | .fexp2 _ _ _ | .flog2 _ _ _ | .frcp _ _ _ | .frsq _ _ _ | .ftanh _ _ _ | .fsin _ _ _ | .fcos _ _ _ =>
    { k := true, z := true, rm := true }
  | .vmov _ _ _ | .viota _ _ _ => { k := true, z := true }
  | .vsel _ _ _ _ => { k := true }
  | _ => {}

/-- A prefix is not neutral in a field that the member ignores (R106). -/
def prefixIgnored (p : Px) (i : Instr) : Bool :=
  let h := honoursOf i
  (!h.k && p.k != 0) || (!h.z && p.z != 0) || (!h.rm && p.rm != 7) || (!h.uc && p.uc != 0)

/-- The bits that must be zero in a word of a member, by major and selector (R104, R107). -/
def zeroBits (n : Nat) : Nat :=
  let sel := n % 32
  let vb := 0xF800
  match n / 2 ^ 26 with
  | 0x22 => 0xE0 + (if sel = 15 ∨ sel = 16 then vb else 0)
  | 0x23 => 0xE0
  | 0x24 => 0x030000C0
  | 0x25 => 0xE0 + (if sel = 0 then 0x700 else if sel = 2 then vb else 0)
  | 0x26 => 0xE0 + (if sel = 3 ∨ sel = 4 then 0 else vb)
  | 0x27 => if sel = 0 then vb else 0
  | 0x28 => if n % 2 = 1 then 2 else 0
  | 0x29 => 0x80 + (if n % 2 = 1 then 2 else 0)
  | 0x2A => 0x80E0
  | 0x2B => 0xE0 + vb
  | 0x2C =>
    if sel = 3 ∨ sel = 4 then 0x0318C7E0 else if sel = 5 then 0x0318FFE0 else if sel = 6 then 0x0018FFE0
    else 0xE0 + (if sel = 1 then 0 else vb)
  | _ => 0

/-- The member that a follower's major and selector name, whatever its zero fields hold: none for an unlisted selector (R107,
R108). -/
def memberOf (w : BitVec 32) : Instr :=
  if majorOf w = 0x24 ∧ 7 ≤ w.toNat % 32 then .reservedEncoding
  else decodeWord (w &&& ~~~ BitVec.ofNat 32 (zeroBits w.toNat))

/-! ### Operands -/

/-- The registers that an instruction names: scalar sources with their sync bits, scalar destinations, token registers,
vector sources and destinations. -/
structure Uses where
  srcs  : List (BitVec 5 × BitVec 1) := []
  dsts  : List (BitVec 5) := []
  toks  : List (BitVec 5) := []
  vsrcs : List (BitVec 5) := []
  vdsts : List (BitVec 5) := []
  deriving DecidableEq, Repr

/-- Plain scalar sources. -/
def plain (rs : List (BitVec 5)) : List (BitVec 5 × BitVec 1) := rs.map fun r => (r, 0)

/-- The payload registers `s1` to `sn` of a SEND (R158). -/
def payload (n : BitVec 4) : List (BitVec 5 × BitVec 1) :=
  (List.range n.toNat).map fun i => (BitVec.ofNat 5 (i + 1), 0)

/-- The registers of each member. A member that reads its own destination lists it as a source as well. -/
def usesOf : Instr → Uses
  | .add d a w b x => { srcs := [(a, w), (b, x)], dsts := [d] }
  | .sub d a w b x => { srcs := [(a, w), (b, x)], dsts := [d] }
  | .and d a w b x => { srcs := [(a, w), (b, x)], dsts := [d] }
  | .or d a w b x => { srcs := [(a, w), (b, x)], dsts := [d] }
  | .xor d a w b x => { srcs := [(a, w), (b, x)], dsts := [d] }
  | .andn d a w b x => { srcs := [(a, w), (b, x)], dsts := [d] }
  | .shl d a w b x => { srcs := [(a, w), (b, x)], dsts := [d] }
  | .shr d a w b x => { srcs := [(a, w), (b, x)], dsts := [d] }
  | .sra d a w b x => { srcs := [(a, w), (b, x)], dsts := [d] }
  | .mul d a w b x => { srcs := [(a, w), (b, x)], dsts := [d] }
  | .mulh d a w b x => { srcs := [(a, w), (b, x)], dsts := [d] }
  | .mulhu d a w b x => { srcs := [(a, w), (b, x)], dsts := [d] }
  | .div d a w b x => { srcs := [(a, w), (b, x)], dsts := [d] }
  | .divu d a w b x => { srcs := [(a, w), (b, x)], dsts := [d] }
  | .rem d a w b x => { srcs := [(a, w), (b, x)], dsts := [d] }
  | .remu d a w b x => { srcs := [(a, w), (b, x)], dsts := [d] }
  | .min d a w b x => { srcs := [(a, w), (b, x)], dsts := [d] }
  | .max d a w b x => { srcs := [(a, w), (b, x)], dsts := [d] }
  | .minu d a w b x => { srcs := [(a, w), (b, x)], dsts := [d] }
  | .maxu d a w b x => { srcs := [(a, w), (b, x)], dsts := [d] }
  | .clz d a w => { srcs := [(a, w)], dsts := [d] }
  | .ctz d a w => { srcs := [(a, w)], dsts := [d] }
  | .popc d a w => { srcs := [(a, w)], dsts := [d] }
  | .sext d a w _ => { srcs := [(a, w)], dsts := [d] }
  | .selp d a w b x _ => { srcs := [(a, w), (b, x)], dsts := [d] }
  | .addi d a w _ => { srcs := [(a, w)], dsts := [d] }
  | .andi d a w _ => { srcs := [(a, w)], dsts := [d] }
  | .ori d a w _ => { srcs := [(a, w)], dsts := [d] }
  | .xori d a w _ => { srcs := [(a, w)], dsts := [d] }
  | .shli d a w _ => { srcs := [(a, w)], dsts := [d] }
  | .shri d a w _ => { srcs := [(a, w)], dsts := [d] }
  | .srai d a w _ => { srcs := [(a, w)], dsts := [d] }
  | .pcmpi _ a w _ _ => { srcs := [(a, w)] }
  | .li d _ => { dsts := [d] }
  | .lih d _ => { srcs := [(d, 0)], dsts := [d] }
  | .pcmp _ a w b x _ _ => { srcs := [(a, w), (b, x)] }
  | .pand _ _ _ => {}
  | .por _ _ _ => {}
  | .pxor _ _ _ => {}
  | .pnot _ _ => {}
  | .pmovs d => { dsts := [d] }
  | .smovp a w => { srcs := [(a, w)] }
  | .br _ _ _ => {}
  | .jmp _ => {}
  | .jal _ => { dsts := [31#5] }
  | .jalr d a w _ => { srcs := [(a, w)], dsts := [d] }
  | .ld d _ a w _ _ _ => { srcs := [(a, w)], dsts := [d] }
  | .ldu d _ a w _ _ _ => { srcs := [(a, w)], dsts := [d] }
  | .st d _ a w _ _ => { srcs := [(a, w), (d, 0)] }
  | .ldacq d _ a w _ _ _ _ => { srcs := [(a, w)], dsts := [d] }
  | .strel d _ a w _ _ _ => { srcs := [(a, w), (d, 0)] }
  | .amoaddW d _ a v _ _ => { srcs := [(a, 0), (v, 0)], dsts := [d] }
  | .amoandW d _ a v _ _ => { srcs := [(a, 0), (v, 0)], dsts := [d] }
  | .amoorW d _ a v _ _ => { srcs := [(a, 0), (v, 0)], dsts := [d] }
  | .amoxorW d _ a v _ _ => { srcs := [(a, 0), (v, 0)], dsts := [d] }
  | .amominW d _ a v _ _ => { srcs := [(a, 0), (v, 0)], dsts := [d] }
  | .amomaxW d _ a v _ _ => { srcs := [(a, 0), (v, 0)], dsts := [d] }
  | .amominuW d _ a v _ _ => { srcs := [(a, 0), (v, 0)], dsts := [d] }
  | .amomaxuW d _ a v _ _ => { srcs := [(a, 0), (v, 0)], dsts := [d] }
  | .amoswapW d _ a v _ _ => { srcs := [(a, 0), (v, 0)], dsts := [d] }
  | .amofaddW d _ a v _ _ => { srcs := [(a, 0), (v, 0)], dsts := [d] }
  | .amoaddD d _ a v _ _ => { srcs := [(a, 0), (v, 0)], dsts := [d] }
  | .amoandD d _ a v _ _ => { srcs := [(a, 0), (v, 0)], dsts := [d] }
  | .amoorD d _ a v _ _ => { srcs := [(a, 0), (v, 0)], dsts := [d] }
  | .amoxorD d _ a v _ _ => { srcs := [(a, 0), (v, 0)], dsts := [d] }
  | .amominD d _ a v _ _ => { srcs := [(a, 0), (v, 0)], dsts := [d] }
  | .amomaxD d _ a v _ _ => { srcs := [(a, 0), (v, 0)], dsts := [d] }
  | .amominuD d _ a v _ _ => { srcs := [(a, 0), (v, 0)], dsts := [d] }
  | .amomaxuD d _ a v _ _ => { srcs := [(a, 0), (v, 0)], dsts := [d] }
  | .amoswapD d _ a v _ _ => { srcs := [(a, 0), (v, 0)], dsts := [d] }
  | .cas d _ a v _ _ _ => { srcs := [(a, 0), (v, 0), (d, 0)], dsts := [d] }
  | .fenceAcq _ => {}
  | .fenceRel _ => {}
  | .fenceFull _ => {}
  | .cinv a b _ => { srcs := [(a, 0), (b, 0)] }
  | .cflush a b _ => { srcs := [(a, 0), (b, 0)] }
  | .cpref a b _ => { srcs := [(a, 0), (b, 0)] }
  | .ddhint a b _ => { srcs := [(a, 0), (b, 0)] }
  | .ddstat d a _ => { srcs := [(a, 0)], dsts := [d] }
  | .mcst d a b _ _ => { srcs := [(a, 0), (b, 0)], toks := [d] }
  | .redst d a b _ _ => { srcs := [(a, 0), (b, 0)], toks := [d] }
  | .cbnd _ _ a s => { srcs := [(a, 0), (s, 0)] }
  | .crestr _ _ a => { srcs := [(a, 0)] }
  | .cinc _ _ a => { srcs := [(a, 0)] }
  | .cgetb _ s => { dsts := [s] }
  | .cgetl _ s => { dsts := [s] }
  | .cgetp _ s => { dsts := [s] }
  | .cmov _ _ => {}
  | .cclr _ => {}
  | .ctest _ a s => { srcs := [(a, 0)], dsts := [s] }
  | .cld _ _ a _ => { srcs := [(a, 0)] }
  | .cst _ _ a _ => { srcs := [(a, 0)] }
  | .csrr d _ => { dsts := [d] }
  | .csrw d a _ => { srcs := [(a, 0)], dsts := [d] }
  | .csrs d a _ => { srcs := [(a, 0)], dsts := [d] }
  | .csrc d a _ => { srcs := [(a, 0)], dsts := [d] }
  | .start d a b => { srcs := [(a, 0), (b, 0)], toks := [d] }
  | .thid d => { dsts := [d] }
  | .vgrow _ => {}
  | .vshrink _ => {}
  | .send a b n => { srcs := plain [a, b] ++ payload n }
  | .migrate a _ => { srcs := [(a, 0)] }
  | .reply a b _ => { srcs := [(a, 0), (b, 0)] }
  | .qcfg _ a b _ => { srcs := [(a, 0), (b, 0)] }
  | .qclaim d _ _ => { dsts := [d] }
  | .qpub a _ => { srcs := [(a, 0)] }
  | .qwaitf d _ _ => { dsts := [d] }
  | .qfree a _ => { srcs := [(a, 0)] }
  | .qwaite d _ _ => { dsts := [d] }
  | .qerr d a _ => { srcs := [(a, 0)], dsts := [d] }
  | .qsetrd a _ => { srcs := [(a, 0)] }
  | .barinit _ a b _ => { srcs := [(a, 0), (b, 0)] }
  | .bararr _ _ => {}
  | .barwait _ => {}
  | .barsync _ _ => {}
  | .vadd d a b _ => { vsrcs := [a, b], vdsts := [d] }
  | .vsub d a b _ => { vsrcs := [a, b], vdsts := [d] }
  | .vmul d a b _ => { vsrcs := [a, b], vdsts := [d] }
  | .vmulh d a b _ => { vsrcs := [a, b], vdsts := [d] }
  | .vmin d a b _ => { vsrcs := [a, b], vdsts := [d] }
  | .vmax d a b _ => { vsrcs := [a, b], vdsts := [d] }
  | .vminu d a b _ => { vsrcs := [a, b], vdsts := [d] }
  | .vmaxu d a b _ => { vsrcs := [a, b], vdsts := [d] }
  | .vand d a b _ => { vsrcs := [a, b], vdsts := [d] }
  | .vor d a b _ => { vsrcs := [a, b], vdsts := [d] }
  | .vxor d a b _ => { vsrcs := [a, b], vdsts := [d] }
  | .vshl d a b _ => { vsrcs := [a, b], vdsts := [d] }
  | .vshr d a b _ => { vsrcs := [a, b], vdsts := [d] }
  | .vsra d a b _ => { vsrcs := [a, b], vdsts := [d] }
  | .vfma d a b _ => { vsrcs := [a, b, d], vdsts := [d] }
  | .vabs d a _ => { vsrcs := [a], vdsts := [d] }
  | .vneg d a _ => { vsrcs := [a], vdsts := [d] }
  | .vminn d a b _ => { vsrcs := [a, b], vdsts := [d] }
  | .vmaxn d a b _ => { vsrcs := [a, b], vdsts := [d] }
  | .vaddScalar d a b _ => { srcs := [(b, 0)], vsrcs := [a], vdsts := [d] }
  | .vsubScalar d a b _ => { srcs := [(b, 0)], vsrcs := [a], vdsts := [d] }
  | .vmulScalar d a b _ => { srcs := [(b, 0)], vsrcs := [a], vdsts := [d] }
  | .vmulhScalar d a b _ => { srcs := [(b, 0)], vsrcs := [a], vdsts := [d] }
  | .vminScalar d a b _ => { srcs := [(b, 0)], vsrcs := [a], vdsts := [d] }
  | .vmaxScalar d a b _ => { srcs := [(b, 0)], vsrcs := [a], vdsts := [d] }
  | .vminuScalar d a b _ => { srcs := [(b, 0)], vsrcs := [a], vdsts := [d] }
  | .vmaxuScalar d a b _ => { srcs := [(b, 0)], vsrcs := [a], vdsts := [d] }
  | .vandScalar d a b _ => { srcs := [(b, 0)], vsrcs := [a], vdsts := [d] }
  | .vorScalar d a b _ => { srcs := [(b, 0)], vsrcs := [a], vdsts := [d] }
  | .vxorScalar d a b _ => { srcs := [(b, 0)], vsrcs := [a], vdsts := [d] }
  | .vshlScalar d a b _ => { srcs := [(b, 0)], vsrcs := [a], vdsts := [d] }
  | .vshrScalar d a b _ => { srcs := [(b, 0)], vsrcs := [a], vdsts := [d] }
  | .vsraScalar d a b _ => { srcs := [(b, 0)], vsrcs := [a], vdsts := [d] }
  | .vfmaScalar d a b _ => { srcs := [(b, 0)], vsrcs := [a, d], vdsts := [d] }
  | .vminnScalar d a b _ => { srcs := [(b, 0)], vsrcs := [a], vdsts := [d] }
  | .vmaxnScalar d a b _ => { srcs := [(b, 0)], vsrcs := [a], vdsts := [d] }
  | .vcmp _ a b _ _ _ => { vsrcs := [a, b] }
  | .vpermb d a b => { vsrcs := [a, b], vdsts := [d] }
  | .vshuf d a b _ => { vsrcs := [a, b], vdsts := [d] }
  | .vbcast d a _ => { srcs := [(a, 0)], vdsts := [d] }
  | .vslide d a b _ => { srcs := [(b, 0)], vsrcs := [a], vdsts := [d] }
  | .vextr d a b _ => { srcs := [(b, 0)], dsts := [d], vsrcs := [a] }
  | .vins d a b _ => { srcs := [(a, 0), (b, 0)], vsrcs := [d], vdsts := [d] }
  | .vredsum d a _ => { dsts := [d], vsrcs := [a] }
  | .vredmax d a _ => { dsts := [d], vsrcs := [a] }
  | .vredmin d a _ => { dsts := [d], vsrcs := [a] }
  | .vredmaxi d a b _ => { srcs := [(b, 0)], dsts := [d], vsrcs := [a] }
  | .vredmini d a b _ => { srcs := [(b, 0)], dsts := [d], vsrcs := [a] }
  | .vscan d a _ => { vsrcs := [a], vdsts := [d] }
  | .vcvt d a _ _ => { vsrcs := [a], vdsts := [d] }
  | .vpack d a _ _ _ => { vsrcs := [a, d], vdsts := [d] }
  | .vunpk d a _ _ _ => { vsrcs := [a], vdsts := [d] }
  | .vld d _ a w _ _ _ => { srcs := [(a, w)], vdsts := [d] }
  | .vlds d _ a w _ _ s => { srcs := [(a, w), (s, 0)], vdsts := [d] }
  | .vst d _ a w _ _ => { srcs := [(a, w)], vsrcs := [d] }
  | .vsts d _ a w _ s => { srcs := [(a, w), (s, 0)], vsrcs := [d] }
  | .vgather d a _ _ => { vsrcs := [a], vdsts := [d] }
  | .vscatter d a _ _ => { vsrcs := [a, d] }
  | .fexp2 d a _ => { vsrcs := [a], vdsts := [d] }
  | .flog2 d a _ => { vsrcs := [a], vdsts := [d] }
  | .frcp d a _ => { vsrcs := [a], vdsts := [d] }
  | .frsq d a _ => { vsrcs := [a], vdsts := [d] }
  | .ftanh d a _ => { vsrcs := [a], vdsts := [d] }
  | .fsin d a _ => { vsrcs := [a], vdsts := [d] }
  | .fcos d a _ => { vsrcs := [a], vdsts := [d] }
  | .vmov d a _ => { vsrcs := [a], vdsts := [d] }
  | .vsel d a b _ => { vsrcs := [a, b], vdsts := [d] }
  | .viota d a _ => { srcs := [(a, 0)], vdsts := [d] }
  | .kand _ _ _ => {}
  | .kor _ _ _ => {}
  | .knot _ _ => {}
  | .kpopc d _ => { dsts := [d] }
  | .tld _ _ a b _ => { srcs := [(a, 0), (b, 0)] }
  | .tst _ _ a b => { srcs := [(a, 0), (b, 0)] }
  | .tzero _ _ => {}
  | .ttrans _ _ => {}
  | .trdv _ v a => { srcs := [(a, 0)], vdsts := [v] }
  | .twrv _ v a => { srcs := [(a, 0)], vsrcs := [v] }
  | .mma _ _ _ _ => {}
  | .mmas _ _ _ _ _ _ => {}
  | .mmai _ _ _ _ => {}
  | .aczero _ => {}
  | .acld _ _ a => { srcs := [(a, 0)] }
  | .acst _ _ a => { srcs := [(a, 0)] }
  | .accvt _ _ _ => {}
  | .acadd _ _ _ => {}
  | .sbind v _ => { vsrcs := [v] }
  | .sunbind _ => {}
  | .scfg _ a b _ => { srcs := plain [a, b, b + 1, b + 2, b + 3] }
  | .sgo _ => {}
  | .sstop _ => {}
  | .ssync _ => {}
  | .cpy d _ f _ h => { srcs := [(f, 0), (h, 0), (d, 0)], toks := [d] }
  | .cpycv d _ f _ h => { srcs := [(f, 0), (h, 0), (d, 0)], toks := [d] }
  | .cpymc d _ f _ h => { srcs := [(f, 0), (h, 0), (d, 0)], toks := [d] }
  | .cpyred d _ f _ h => { srcs := [(f, 0), (h, 0), (d, 0)], toks := [d] }
  | .tkcommit d a _ _ => { srcs := [(a, 0)], dsts := [d] }
  | .tkforce d _ => { dsts := [d] }
  | .tkmask v a _ => { srcs := [(a, 0)], vsrcs := [v], vdsts := [v] }
  | .tkstat d a _ => { srcs := [(a, 0)], dsts := [d] }
  | .tkfork d _ _ => { dsts := [d] }
  | .tktrunc d a _ => { srcs := [(a, 0)], dsts := [d] }
  | .tkckpt _ => {}
  | .tkdraw d a _ => { srcs := [(a, 0)], dsts := [d] }
  | .rndu d a _ => { srcs := [(a, 0)], dsts := [d] }
  | .rndv v a _ => { srcs := [(a, 0)], vdsts := [v] }
  | .rndg v a _ => { srcs := [(a, 0)], vdsts := [v] }
  | .nmaxi d a _ _ => { srcs := [(a, 0)], toks := [d] }
  | .nmini d a _ _ => { srcs := [(a, 0)], toks := [d] }
  | .nadd d a _ => { srcs := [(a, 0)], toks := [d] }
  | .eqinit d _ => { srcs := [(d, 0)], toks := [d] }
  | .equnite d a b _ => { srcs := [(a, 0), (b, 0)], dsts := [d] }
  | .eqfind d a _ => { srcs := [(a, 0)], dsts := [d] }
  | .eqsize d a _ => { srcs := [(a, 0)], dsts := [d] }
  | .eqreduce d _ _ _ => { srcs := [(d, 0)], toks := [d] }
  | .eqsnap d a _ => { srcs := [(a, 0)], dsts := [d] }
  | .equndo d a _ => { srcs := [(a, 0)], dsts := [d] }
  | .eqstat d a _ => { srcs := [(a, 0)], dsts := [d] }
  | .tkenc d _ _ _ => { srcs := [(d, 0)], dsts := [d] }
  | .tkdec d _ _ _ _ => { srcs := [(d, 0)], dsts := [d] }
  | .syscall d a b _ => { srcs := [(a, 0), (b, 0)], toks := [d] }
  | .halt d a _ => { srcs := [(a, 0)], toks := [d] }
  | .wake a => { srcs := [(a, 0)] }
  | .wakePg a => { srcs := [(a, 0)] }
  | .harvest d a b => { srcs := [(a, 0), (b, 0)], toks := [d] }
  | .xinv d a b _ => { srcs := [(a, 0), (b, 0)], toks := [d] }
  | .keyset d a _ => { srcs := [(a, 0)], dsts := [d] }
  | .keyclr d a => { srcs := [(a, 0)], toks := [d] }
  | .spillrpl d a b => { srcs := [(a, 0), (b, 0)], toks := [d] }
  | .retire => {}
  | .yield => {}
  | .park => {}
  | .eret => {}
  | .wfi => {}
  | _ => {}

/-- The vector fields of a member under a prefix, for the allotment check (R106, R108). -/
def Uses.vectors (u : Uses) (p : Px) : List (BitVec 5) :=
  u.vsrcs ++ u.vdsts ++ (if p.uc = 1 then [p.vc] else [])

/-! ### Privilege and presence -/

/-- The privilege level of a member: 0 kernel, 1 supervisor, 2 monitor (R318). -/
def levelOf : Instr → Nat
  | .eret | .wfi | .halt _ _ _ | .wakePg _ | .harvest _ _ _ | .xinv _ _ _ _ | .spillrpl _ _ _ => 1
  | .keyset _ _ _ | .keyclr _ _ => 2
  | _ => 0

/-- The major opcode of a member. -/
def majorIn (i : Instr) : Nat := encodeNat i / 2 ^ 26

/-- The feature of a die that a member belongs to, as its bit in the feature set (R273, R331). -/
def featureOf (i : Instr) : Option Nat :=
  let m := majorIn i
  if m = 0x33 || m = 0x34 then some 0
  else if m = 0x2B then some 1
  else if m = 0x36 then some 2
  else if m = 0x35 then some 3
  else if m = 0x37 then some 4
  else if m = 0x20 then some 5
  else none

/-- A member of major 0x1E, 0x1F or 0x38 that an engine hart implements (R312). -/
def onEngine : Instr → Bool
  | .yield | .thid _ | .vgrow _ | .vshrink _ | .park | .send _ _ _ | .reply _ _ _ | .syscall _ _ _ _ | .wake _ => true
  | _ => false

/-- A member of those majors that a copy hart implements (R312). -/
def onCopyHart : Instr → Bool
  | .yield | .thid _ | .park | .reply _ _ _ | .syscall _ _ _ _ | .wake _ => true
  | _ => false

/-- A member of majors 0x1E and 0x1F that a service pair implements (R312). -/
def onPair : Instr → Bool
  | .start _ _ _ | .retire | .yield | .thid _ | .park | .send _ _ _ | .reply _ _ _ => true
  | _ => false

/-- The member exists on an agent (R108, R312): on a compute core what the die's features list, on the others their
subsets. -/
def present (s : State) (id : Nat) (i : Instr) : Bool :=
  let m := majorIn i
  if isCompute id then
    match featureOf i with
    | some b => (s.die (dieOf id)).features.getLsbD b
    | none => true
  else if m ≤ 0x1D then true
  else if isPair id then m = 0x38 || onPair i
  else if isEngineHart id then
    m = 0x21 || (0x22 ≤ m && m ≤ 0x2A) || m = 0x2C || m = 0x35 || m = 0x37 || onEngine i
  else onCopyHart i

end Sys2Proof.Machine
end

