-- ==== Sys2Proof/Machine/Store.lean ====
section
/-!
DEFINITION. Stores on their way: the store path of a cluster, the moment each store is performed, the publication of a
ring slot by a store to its header, the kick of a hart, and read-modify-writes (R83, R85, R87, R90, R164, R166, R215).
-/

namespace Sys2Proof.Machine

/-! ### Completing a wait -/

/-- An instruction of a thread retires: the pc moves past it, `INSTRET` counts it, the retry count and the watchdog start
anew (R113, R336, R339). -/
def Thread.finish (t : Thread) (len now : Nat) : Thread :=
  { t with
    pc := t.pc + BitVec.ofNat 64 len, instret := t.instret + 1, wait := none, retries := 0, retired := now,
    fresh := false, readyFrom := none }

/-- The waiting instruction of a thread completes, with a change of the thread. -/
def completeAt (s : State) (l : Loc) (f : Thread → Thread) : State :=
  s.onThread l fun t => (f t).finish 4 s.now

/-! ### Rings (R161, R164) -/

/-- Slots of a ring. -/
def Ring.n (r : Ring) : Nat := 2 ^ r.logn

/-- The slot of an index. -/
def Ring.slotOf (r : Ring) (i : BitVec 32) : Nat := i.toNat % r.n

/-- An index lies in a range of counts taken modulo 2^32: lo ≤ i < hi. -/
def inRange (lo i hi : BitVec 32) : Bool := (i - lo).toNat < (hi - lo).toNat

/-- PUB advances over PBIT. -/
def Ring.advancePub : Nat → Ring → Ring
  | 0, r => r
  | n + 1, r =>
    if r.pub != r.clm && r.pbit.getLsbD (r.slotOf r.pub) then
      Ring.advancePub n { r with pbit := r.pbit &&& ~~~(1#256 <<< r.slotOf r.pub), pub := r.pub + 1 }
    else r

/-- FRE advances over FBIT, and stops at RD: an FBIT that a QSETRD below the old RD has left at or above RD would else carry it
past RD, which the invariant of R161 excludes; the manual does not say what becomes of it. DESIGN CHOICE, log 80. -/
def Ring.advanceFre : Nat → Ring → Ring
  | 0, r => r
  | n + 1, r =>
    if r.fre != r.rd && r.fbit.getLsbD (r.slotOf r.fre) then
      Ring.advanceFre n { r with fbit := r.fbit &&& ~~~(1#256 <<< r.slotOf r.fre), fre := r.fre + 1 }
    else r

/-- A claimed slot not yet published may be published. -/
def Ring.canPublish (r : Ring) (i : BitVec 32) : Bool :=
  r.state != 0 && inRange r.pub i r.clm && !r.pbit.getLsbD (r.slotOf i)

/-- The publication of a slot: PBIT is set and PUB advances. -/
def Ring.publish (r : Ring) (i : BitVec 32) : Ring :=
  Ring.advancePub 256 { r with pbit := r.pbit ||| (1#256 <<< r.slotOf i) }

/-- A free slot can be claimed. -/
def Ring.room (r : Ring) : Bool := (r.clm - r.fre).toNat < r.n

/-- A ring of a cluster. -/
def State.ring (s : State) (k q : Nat) : Ring := (s.cluster k).rings.get {} q

/-- A ring of a cluster changed. -/
def State.setRing (s : State) (k q : Nat) (r : Ring) : State :=
  let c := s.cluster k
  s.setCluster k { c with rings := c.rings.set q r }

/-- A waiter's instruction completes with a value and a predicate. -/
def ringAnswer (s : State) (l : Loc) (reg pred : Nat) (v : BitVec 32) (b : Bool) : State :=
  let core := s.core l.core
  completeAt s l fun t => (writeP core l.slot t pred b).setS reg (v.setWidth 64)

/-- Serves a ring's waiters in issue order: those whose turn has come complete, the others stay (R164). -/
def ringServe (s : State) (k q : Nat) : List Loc → State
  | [] => s
  | l :: ls =>
    let r := s.ring k q
    let keep (s : State) : State :=
      let r := s.ring k q
      s.setRing k q { r with waiters := r.waiters ++ [l] }
    match (s.thread l).wait with
    | some (.qwaitf q' reg pred) =>
      if q' != q then ringServe s k q ls
      else if r.state = 2 then ringServe (ringAnswer s l reg pred r.rd false) k q ls
      else if r.rd != r.pub then
        ringServe (ringAnswer (s.setRing k q { r with rd := r.rd + 1 }) l reg pred r.rd true) k q ls
      else ringServe (keep s) k q ls
    | some (.qwaite q' reg pred) =>
      if q' != q then ringServe s k q ls
      else if r.state = 2 then ringServe (ringAnswer s l reg pred r.clm false) k q ls
      else if r.room then
        ringServe (ringAnswer (s.setRing k q { r with clm := r.clm + 1 }) l reg pred r.clm true) k q ls
      else ringServe (keep s) k q ls
    | _ => ringServe s k q ls

/-- The waiters of a ring are served after its counts or its state have changed (R164). -/
def ringWake (s : State) (k q : Nat) : State :=
  let r := s.ring k q
  ringServe (s.setRing k q { r with waiters := [] }) k q r.waiters

/-- The slots of a ring whose header granule lies in bytes of the scratchpad (R166). -/
def Ring.headersIn (r : Ring) (off size : Nat) : List Nat :=
  if r.state = 0 || !r.hdr then []
  else (List.range r.n).filter fun j =>
    let h := r.buf.base + j * 2 ^ r.logs
    off < h + 8 && h < off + size

/-- The claimed, unpublished index that lies in a slot, if there is one. -/
def Ring.claimedIn (r : Ring) (j : Nat) : Option (BitVec 32) :=
  let d := (j + r.n - r.slotOf r.pub) % r.n
  let i := r.pub + BitVec.ofNat 32 d
  if r.canPublish i then some i else none

/-- The rings and indices that a store to bytes of a scratchpad publishes (R166). -/
def published (s : State) (k off size : Nat) : List (Nat × BitVec 32) :=
  (List.range 32).flatMap fun q =>
    let r := s.ring k q
    (r.headersIn off size).filterMap fun j => (r.claimedIn j).map fun i => (q, i)

/-- Publishes the slots whose header a performed store has written. -/
def publishAll (s : State) (k : Nat) (ps : List (Nat × BitVec 32)) : State :=
  ps.foldl (fun s p => ringWake (s.setRing k p.1 ((s.ring k p.1).publish p.2)) k p.1) s

/-! ### Wakes (R25) -/

/-- A WAKE takes effect on a thread: it ends a PARK, or a WFI, else sets the wake-pending bit (R25, R321). -/
def applyWake (s : State) (l : Loc) : State :=
  match (s.thread l).wait with
  | some .park => completeAt s l id
  | some .wfi => completeAt s l id
  | _ => s.onThread l fun t => { t with wake := true }

/-- The harts whose kick word lies in a granule of physical memory (R215). -/
def kicked (s : State) (pa size : Nat) : List Nat :=
  (s.cores.filter fun e =>
    (isCopyHart e.1 || isEngineHart e.1) && e.2.hart.block != 0 &&
      pa < e.2.hart.block + 8 && e.2.hart.block < pa + size).map fun e => e.1

/-- The kick of the harts whose kick word a performed store has written: their wake-pending bit is set as WAKE does. -/
def kickAll (s : State) (hs : List Nat) : State :=
  hs.foldl (fun s h => applyWake s { core := h, slot := 0 }) s

/-! ### Performing -/

/-- The handle that a log entry of a store names (R334). -/
def storeHandle (s : State) (p : PStore) : Word := p.handle.getD (s.handleOf p.loc)

/-- An access that a mapped-out frame drops is recorded in the region's log, with the handle, crew and launch of its thread or
operation, and 0 for each of them where a host or another module has made it (R334, R401, R405). -/
def logDropped (s : State) (p : PStore) : State :=
  logEntry s p.rcb
    { cause := 0x0D, kind := 0, rid := ridOf s p.rcb, handle := storeHandle s p, val := BitVec.ofNat 64 p.addr,
      crew := p.crew, launch := p.launch }

/-- A store that the leader's service operating system makes to `ANNOUNCE`, at 0x88048, ends bring-up: the links are trained, and
the host may write its queues (R402, R409). -/
def endBringup (s : State) (p : PStore) : State :=
  if s.bringup == 5 && isPair p.loc.core && p.pa < 0x88050 && 0x88048 < p.pa + p.size then { s with bringup := 7 } else s

/-- Performs a store (R85): at its home slice with a kick that it makes, at its bank with the publication that it makes, or
sends it to its module. One that is the last of an access over a whole line clears its poison (R44). -/
def performStore (s : State) (p : PStore) : State :=
  match p.space with
  | .device asid =>
    if !backed s p.pa then logDropped s p
    else
      let hs := kicked s p.pa p.size
      endBringup (kickAll (writeLine s asid p.addr p.pa p.dom p.size p.value p.cap p.whole) hs) p
  | .scratch k =>
    let ps := published s k p.addr p.size
    publishAll (writeSram s k p.addr p.size p.value p.cap) k ps
  | .window m dom =>
    if s.noRoute m then logDropped s p
    else { s with outbox := s.outbox ++ [.store m dom (p.addr % 2 ^ 48) p.size (p.value.setWidth 64)] }

/-- Two stores touch a common granule. -/
def PStore.meets (p q : PStore) : Bool :=
  p.space == q.space && p.addr / 8 ≤ (q.addr + q.size - 1) / 8 && q.addr / 8 ≤ (p.addr + p.size - 1) / 8

/-- A hart's store to its own mailbox word (R87, R215). -/
def toMailbox (s : State) (p : PStore) : Bool :=
  let b := (s.core p.loc.core).hart.block
  (isCopyHart p.loc.core || isEngineHart p.loc.core) && b != 0 && p.pa < b + 16 && b + 8 < p.pa + p.size

/-- A store is performed as a release: to a kick word, from a hart to its mailbox word, or to a header that it publishes
(R87, R90). -/
def isRelease (s : State) (p : PStore) : Bool :=
  match p.space with
  | .device _ => !(kicked s p.pa p.size).isEmpty || toMailbox s p
  | .scratch k => !(published s k p.addr p.size).isEmpty
  | .window _ _ => false

/-- Two stores were pushed by one stream, whose elements perform in pattern order (R55). -/
def PStore.sameStream (p q : PStore) : Bool := p.stream.isSome && p.stream == q.stream && p.loc.core == q.loc.core

/-- Two pieces of one wide access lie in one granule, within which the access does not tear (R78). -/
def PStore.mates (p q : PStore) : Bool :=
  p.group.isSome && p.group == q.group && p.space == q.space && p.addr / 8 == q.addr / 8

/-- A pending store is performed before a later one of its path: it touches a granule of it, was pushed by the same stream, or
the later one is a release, which waits for every earlier store that may happen before it (R55, R78, R81, R87). The
elements of streams are ordered by SSYNC alone (R144). -/
def mustPrecede (s : State) (q p : PStore) : Bool :=
  q.meets p || q.sameStream p || (isRelease s p && q.stream.isNone)

/-- The n-th pending store of a path may be performed now. -/
def canPerform (s : State) (path n : Nat) : Bool :=
  match (s.path path)[n]? with
  | none => false
  | some p => ((s.path path).take n).all fun q => !mustPrecede s q p

/-- A store that has left its path is performed. A piece clears the poison of a line that its access covers once no piece of
the access over that line is pending (R44). -/
def performNow (s : State) (p : PStore) : State :=
  let rest := (s.path (pathOf p.loc.core)).any fun q => q.group == p.group && q.space == p.space && q.addr / 128 == p.addr / 128
  performStore s { p with whole := p.whole && !rest }

/-- The n-th pending store of a path is performed, with the other pieces of its access in its granule. -/
def performAt (s : State) (path n : Nat) : State :=
  match (s.path path)[n]? with
  | none => s
  | some p =>
    let later := (s.path path).drop (n + 1)
    let rest := (s.path path).take n ++ later.filter fun q => !p.mates q
    (p :: later.filter p.mates).foldl performNow { s with stores := s.stores.set path rest }

/-- Every pending store of a path is performed, in order, the elements of streams among them. -/
def drainAll (s : State) (path : Nat) : State :=
  (s.path path).foldl performStore { s with stores := s.stores.set path [] }

/-- Which stores of a path are performed when some are: those, and what must precede them. -/
def chosen (s : State) (want : PStore → Bool) : List PStore → List (PStore × Bool)
  | [] => []
  | p :: ps =>
    let rest := chosen s want ps
    (p, want p || rest.any fun x => x.2 && mustPrecede s p x.1) :: rest

/-- Some pending stores of a path are performed, with what must precede them; the others stay pending. -/
def performWhere (s : State) (path : Nat) (want : PStore → Bool) : State :=
  let all := s.path path
  if !all.any want then s
  else
    let cs := chosen s (fun p => all.any fun q => want q && (q == p || q.mates p)) all
    ((cs.filter fun x => x.2).map fun x => x.1).foldl performNow
      { s with stores := s.stores.set path ((cs.filter fun x => !x.2).map fun x => x.1) }

/-- A release point beyond the crew: every earlier store of the path is performed, those of other threads of the cluster too,
which may happen before it (R80, R81; log 56). A fence or release does not order the elements of streams (R144). -/
def drain (s : State) (path : Nat) : State := performWhere s path fun p => p.stream.isNone

/-- A pending store touches a granule of an access. -/
def PStore.touches (p : PStore) (pl : Place) (size : Nat) : Bool :=
  p.space == pl.key.1 && p.addr / 8 ≤ (pl.key.2 + size - 1) / 8 && pl.key.2 / 8 ≤ (p.addr + p.size - 1) / 8

/-- A load may read a pending store: the last one that touches its granules, the elements of streams apart, gives every byte of
it. Otherwise its bytes would come from stores with others between them (R78). -/
def forwards (s : State) (path : Nat) (pl : Place) (size : Nat) : Bool :=
  match (s.path path).reverse.find? fun p => p.readable && p.touches pl size with
  | none => true
  | some p => p.addr ≤ pl.key.2 && pl.key.2 + size ≤ p.addr + p.size

/-- What a load finds performed: an acquire beyond the crew, and a load that cannot take its bytes from one pending store,
have the pending stores to their granules performed (R78, R85). -/
def settleFor (s : State) (path : Nat) (acquire : Bool) (pl : Place) (size : Nat) : State :=
  if !acquire && forwards s path pl size then s else performWhere s path fun p => p.touches pl size

/-- A place some bytes further on. -/
def Place.from (n : Nat) : Place → Place
  | .device asid va pa dom leaf => .device asid (va + n) (pa + n) dom leaf
  | .scratch k off => .scratch k (off + n)
  | .remote m va dom v => .remote m (va + n) dom (v >>> (8 * n))

/-- What a wide load finds performed, each of whose granules is an access of its own (R78): of the granules that pending stores
touch, those are settled that lie in the load. -/
def settleWide (s : State) (path : Nat) (acquire : Bool) (pl : Place) (size : Nat) : State :=
  ((s.path path).filter fun p => p.touches pl size).foldl (fun s p =>
    let lo := max pl.key.2 (p.addr / 8 * 8)
    let hi := min (pl.key.2 + size) ((p.addr + p.size + 7) / 8 * 8)
    settleFor s path acquire (pl.from (lo - pl.key.2)) (hi - lo)) s

/-- A store that leaves its instruction notes its thread's handle, since its slot may be another thread's when it is performed. -/
def named (s : State) (p : PStore) : PStore := { p with handle := some (storeHandle s p) }

/-- A store issues: it joins its path (R85). -/
def pushStore (s : State) (path : Nat) (p : PStore) : State :=
  { s with stores := s.stores.set path (s.path path ++ [named s p]) }

/-- A checked place and bytes as a store of a thread. -/
def storeAt (l : Loc) (t : Thread) (pl : Place) (size : Nat) (v : BitVec 1024) (tag : Bool) : PStore :=
  let p : PStore :=
    { loc := l, size, value := v, cap := tag, rcb := t.rcb, handle := none, crew := t.crewId, launch := t.launch }
  match pl with
  | .device asid va pa dom _ => { p with space := .device asid, addr := va, pa, dom }
  | .scratch k off => { p with space := .scratch k, addr := off }
  | .remote m va dom _ => { p with space := .window m dom, addr := va }

/-- The pieces of a store by granule (R78). -/
def granules (p : PStore) : List PStore :=
  if p.size ≤ 8 then [p]
  else (List.range ((p.addr + p.size - 1) / 8 - p.addr / 8 + 1)).map fun i =>
    let lo := max p.addr ((p.addr / 8 + i) * 8)
    let hi := min (p.addr + p.size) ((p.addr / 8 + i + 1) * 8)
    { p with addr := lo, pa := p.pa + (lo - p.addr), size := hi - lo, value := p.value >>> (8 * (lo - p.addr)) }

/-- The bytes of a line that some stores write, as bits. -/
def lineMask (ps : List PStore) (sp : Space) (line : Nat) : Nat :=
  ps.foldl (fun m p =>
    if p.space = sp && p.addr / 128 = line then m ||| ((2 ^ p.size - 1) <<< (p.addr % 128)) else m) 0

/-- A store's line is one that some stores write entirely. -/
def covers (ps : List PStore) (p : PStore) : Bool :=
  match p.space with
  | .device _ => lineMask ps p.space (p.addr / 128) == 2 ^ 128 - 1
  | _ => false

/-- The elements of a wide access as its stores, granule by granule (R44, R78). -/
def widePieces (group : Nat) (ps : List PStore) : List PStore :=
  let qs := ps.flatMap granules
  qs.map fun p => { p with group := some group, whole := covers qs p }

/-- Stores of one access issue in order, those that publish or kick after the others (R166). -/
def pushPieces (s : State) (path : Nat) (ls : List PStore) : State :=
  let ordered := ls.filter (fun p => !isRelease s p) ++ ls.filter (isRelease s)
  { s with stores := s.stores.set path (s.path path ++ ordered.map (named s)) }

/-- The stores of one wide access, its elements in order. -/
def pushWide (s : State) (path : Nat) (ps : List PStore) : State := pushPieces s path (widePieces (s.tick * 256) ps)

/-- The stores of an access of rows, each of which counts for itself where it covers a line (R197). -/
def pushRows (s : State) (path : Nat) (rows : List (List PStore)) : State :=
  pushPieces s path (rows.zipIdx.flatMap fun r => widePieces (s.tick * 256 + r.2 % 256) r.1)

/-- A place in device memory. -/
def Place.isDevice : Place → Bool
  | .device _ _ _ _ _ => true
  | _ => false

/-- The path of an issuing slot. -/
def State.myPath (s : State) : Nat := pathOf s.cur.core

/-! ### Read-modify-writes (R83, R140, R142) -/

/-- The FP32 sum of two bit patterns, rounded to nearest even, every NaN the canonical one (R140). -/
def f32Sum (a b : Nat) : Nat := (fmF32.round 0 0 (exactSum [fmF32.value a, fmF32.value b]).1).1

/-- The value an atomic writes, of a width in bits: 0 add, 1 and, 2 or, 3 xor, 4 min, 5 max, 6 minu, 7 maxu, 8 swap,
9 fadd (R140). -/
def amoValue (op w old v : Nat) : Nat :=
  let x : BitVec w := BitVec.ofNat w old
  let y : BitVec w := BitVec.ofNat w v
  match op with
  | 0 => (x + y).toNat
  | 1 => (x &&& y).toNat
  | 2 => (x ||| y).toNat
  | 3 => (x ^^^ y).toNat
  | 4 => if y.slt x then y.toNat else x.toNat
  | 5 => if x.slt y then y.toNat else x.toNat
  | 6 => min x.toNat y.toNat
  | 7 => max x.toNat y.toNat
  | 8 => y.toNat
  | _ => f32Sum x.toNat y.toNat

/-- A read-modify-write: its AOP, or 10 for CAS, the operand, CAS's comparand, its scope code, whether it is ordered, and whether
it executes at an ingress port, through a capability of SPACE 10 (R141). -/
structure Rmw where
  op  : Nat := 0
  v   : Nat := 0
  cmp : Nat := 0
  sc  : Nat := 1
  ord : Bool := false
  port : Bool := false
  deriving DecidableEq, Repr

/-- The value a read-modify-write of some bytes writes, none for a CAS that fails. -/
def Rmw.new (r : Rmw) (size old : Nat) : Option Nat :=
  let m := 2 ^ (8 * size)
  if r.op = 10 then (if old = r.cmp % m then some (r.v % m) else none) else some (amoValue r.op (8 * size) old (r.v % m))

end Sys2Proof.Machine
end

