-- ==== Sys2Proof/Machine/Save.lean ====
section
/-!
DEFINITION. The save area: the record of a slot, of a core and of a cluster (R343, R344), written and read through the
region's `SAVECAP` in the root region's address space. Where the manual gives a field no inner layout (the entries of
`STRMS`, `BARS` and the ring descriptors of `CLUS`), the layout is the DESIGN CHOICE of log 29.
-/

namespace Sys2Proof.Machine

/-- Reads bytes through a capability in the root region's address space, of one line; what the page checks refuse reads as
zero. -/
def areaNat (s : State) (c : Cap) (va size : Nat) : Nat :=
  match pageCheck s 0 va c.dom { r := true } with
  | .ok (.device _ _ pa _ _) => s.bytes 0 va pa size
  | _ => 0

/-- Reads a capability with its tag. -/
def areaCap (s : State) (c : Cap) (va : Nat) : Cap :=
  match pageCheck s 0 va c.dom { r := true } with
  | .ok (.device _ _ pa _ _) => { bits := BitVec.ofNat 128 (s.bytes 0 va pa 16), tag := s.unitTag 0 va pa }
  | _ => {}

/-- Bytes of a save area have been read (R352, R353). -/
def reachArea (s : State) (c : Cap) (va size : Nat) : State :=
  (linesOver va size).foldl (fun u a => match pageCheck s 0 a c.dom { r := true } with
    | .ok pl => u.reachAt pl
    | .error e => u.reachStop e) s

/-- Writes fields: offset, size, value. -/
def areaPut (s : State) (c : Cap) (base : Nat) (fs : List (Nat × Nat × Nat)) : State :=
  fs.foldl (fun s f => capWrite s c (base + f.1) f.2.1 f.2.2) s

/-- Writes capabilities with their tags, as CST does. -/
def areaPutCaps (s : State) (c : Cap) (base : Nat) (cs : List Cap) : State :=
  (cs.zipIdx).foldl (fun s x => capWrite s c (base + 16 * x.2) 16 x.1.bits.toNat x.1.tag) s

/-! ### Slot records (R344) -/

/-- The reason code of a wait and its argument. -/
def waitCode : Option Wait → Nat × Nat
  | some .park => (1, 0)
  | some (.sync r) => (2, r)
  | some (.start _ _ r) => (3, r)
  | some (.vgrow n) => (4, n)
  | some (.page _ va) => (5, va)
  | some (.qwaitf q _ _) => (6, q)
  | some (.qwaite q _ _) => (7, q)
  | some (.barwait b _) => (8, b)
  | _ => (0, 0)

/-- The thread word of a slot record. -/
def threadWord (t : Thread) : Nat :=
  let (r, _) := waitCode t.wait
  1 + (if r = 0 then 0 else 2) + 4 * r + (if t.wake then 64 else 0) + (if t.token.isSome then 128 else 0)
    + 256 * (t.retries % 256)

/-- The fields of a slot record but its capabilities. -/
def slotFields (gen : BitVec 16) (t : Thread) : List (Nat × Nat × Nat) :=
  (List.range 32).map (fun n => (8 * n, 8, (t.s n).toNat)) ++
  [(0x100, 4, t.full.toNat), (0x104, 4, t.claimed.toNat), (0x108, 4, 0), (0x10C, 2, t.preds.toNat),
   (0x10E, 2, gen.toNat), (0x110, 8, t.pc.toNat), (0x118, 4, threadWord t), (0x11C, 4, t.rid.toNat),
   (0x120, 1, t.vallot), (0x121, 1, t.mmrev), (0x122, 6, 0),
   (0x128, 8, match t.token with
     | some (h, r) => h.toNat % 2 ^ 32 + r * 2 ^ 32
     | none => 0),
   (0x130, 8, t.instret.toNat), (0x138, 1, t.fflags.toNat), (0x139, 1, t.frm.toNat), (0x13A, 1, t.vnf.toNat),
   (0x13B, 5, 0), (0x140, 8, t.srkey.toNat), (0x148, 8, t.srctr.toNat)] ++
  (List.range 8).map (fun n => (0x150 + 8 * n, 8, (t.k n).toNat)) ++
  [(0x190, 8, (waitCode t.wait).2), (0x198, 8, t.launch.toNat), (0x1A0, 4, t.crewId.toNat),
   (0x1A4, 4, t.crewCnt.toNat)] ++
  (List.range 11).map (fun n => (0x1A8 + 8 * n, 8, 0)) ++
  (List.range 32).map (fun n => (0x300 + 8 * n, 8, 0))

/-- Writes a slot's record. -/
def putSlot (s : State) (c : Cap) (base : Nat) (sl : Slot) : State :=
  match sl.thread with
  | some t =>
    areaPutCaps (areaPut s c base (slotFields sl.gen t)) c (base + 0x200) ((List.range 16).map fun n => t.caps.get {} n)
  | none =>
    areaPut s c base ((List.range 128).map fun n => (8 * n, 8, if 8 * n = 0x108 then sl.gen.toNat * 2 ^ 48 else 0))

/-- The ring that a wait is for. -/
def ringOf : Option Wait → Option Nat
  | some (.qwaitf q _ _) => some q
  | some (.qwaite q _ _) => some q
  | _ => none

/-- The wait of a slot record: its reason and argument, the operands from what the thread has kept (R26, R171, R344). An access
that was parked on a page reissues. -/
def readWait (kept : Option Wait) (reason arg : Nat) : Option Wait :=
  match reason, kept with
  | 1, _ => some .park
  | 2, _ => some (.sync arg)
  | 3, some (.start entry a _) => some (.start entry a arg)
  | 4, _ => some (.vgrow arg)
  | 6, some (.qwaitf _ reg pred) => some (.qwaitf arg reg pred)
  | 7, some (.qwaite _ reg pred) => some (.qwaite arg reg pred)
  | 8, some (.barwait _ a) => some (.barwait arg a)
  | 8, _ => some (.barwait arg 0)
  | _, _ => none

/-- Reads a slot's record: its generation and thread. The region's own data come from where the thread resumes, what the record
has no room for from `kept` (log 42). A thread that has retired nothing has still to make the checks of its entry (R105). Its
watchdog goes on with the time that it had counted before the save (R336, R344). -/
def readSlot (s : State) (c : Cap) (base slot : Nat) (rcb asid : Nat) (kept : Kept) : Slot :=
  let f (off size : Nat) : Nat := areaNat s c (base + off) size
  let w := f 0x118 4
  let gen := BitVec.ofNat 16 (f 0x10E 2)
  if w % 2 = 0 then { gen }
  else
    let tok := f 0x128 8
    let helper := w / 128 % 2 = 1
    let t : Thread :=
      { kind := if slot = 0 then .control else if kept.migrated then .migrated else if helper then .helper else .message
        number := kept.number
        relFence := kept.relFence
        counted := helper && kept.counted
        token := if helper then some (BitVec.ofNat 64 (tok % 2 ^ 32), tok / 2 ^ 32 % 32) else none
        pc := BitVec.ofNat 64 (f 0x110 8)
        fresh := !kept.migrated && f 0x130 8 == 0
        regs := (List.range 31).map fun n => (n + 1, BitVec.ofNat 64 (f (8 * (n + 1)) 8))
        full := BitVec.ofNat 32 (f 0x100 4)
        claimed := BitVec.ofNat 32 (f 0x104 4)
        preds := BitVec.ofNat 16 (f 0x10C 2)
        masks := (List.range 8).map fun n => (n, BitVec.ofNat 64 (f (0x150 + 8 * n) 8))
        caps := (List.range 16).map fun n => (n, areaCap s c (base + 0x200 + 16 * n))
        vallot := f 0x120 1
        vnf := BitVec.ofNat 64 (f 0x13A 1)
        frm := BitVec.ofNat 64 (f 0x139 1)
        fflags := BitVec.ofNat 64 (f 0x138 1)
        srkey := BitVec.ofNat 64 (f 0x140 8)
        srctr := BitVec.ofNat 64 (f 0x148 8)
        mmrev := f 0x121 1
        instret := BitVec.ofNat 64 (f 0x130 8)
        rid := BitVec.ofNat 32 (f 0x11C 4)
        rcb := rcb
        asid := asid
        launch := BitVec.ofNat 64 (f 0x198 8)
        crewId := BitVec.ofNat 32 (f 0x1A0 4)
        crewCnt := BitVec.ofNat 32 (f 0x1A4 4)
        wake := w / 64 % 2 = 1
        retries := w / 256 % 256
        wait := readWait kept.wait (w / 4 % 16) (f 0x190 8)
        since := kept.since
        retired := s.now - kept.idle }
    { gen, thread := some t }

/-! ### Visitors (R17) -/

/-- Crews of a launch. -/
def launchCrews (s : State) (ident : Word) : Nat :=
  match launchIdx s ident with
  | some i => (s.launches[i]?).elim 0 fun l => l.crews
  | none => 0

/-- The save area that a launch's crews were placed with (R333). -/
def launchArea (s : State) (ident : Word) : Cap :=
  match launchIdx s ident with
  | some i => (s.launches[i]?).elim {} fun l => l.area
  | none => {}

/-- The visitor area's count field of a launch: its capability and address (R17). -/
def visitorArea (c : Cap) (crews : Nat) : Cap × Nat := (c, c.base + 4 * crews * 0x100000)

/-- What a thread keeps for which its slot record has no room; the time now, in ns. -/
def Thread.kept (now : Nat) (t : Thread) : Kept :=
  { number := t.number, migrated := t.kind == .migrated, counted := t.counted, idle := now - t.retired
    relFence := t.relFence, wait := t.wait, since := t.since }

/-- Bytes of a core's record (R343). -/
def recordBytes : Nat := 0x100000

/-- A save-area capability serves bytes from its base on (R343). -/
def areaFits (c : Cap) (bytes : Nat) : Bool := (capCheck c c.base bytes permW).isNone

/-- The bytes that some visitors of a launch need in its save area (R17). -/
def visitorNeed (s : State) (ident : Word) (n : Nat) : Nat :=
  if n = 0 then 0 else 4 * launchCrews s ident * recordBytes + 64 + 1024 * n

/-- The save area of a launch has room for one more visitor (R17). -/
def visitorFits (s : State) (ident : Word) : Bool :=
  let (c, a) := visitorArea (launchArea s ident) (launchCrews s ident)
  areaFits c (a + 4 - c.base) && areaFits c (visitorNeed s ident (areaNat s c a 4 + 1))

/-- Writes a visitor to the visitor area of its launch, which keeps the rest of it. -/
def saveVisitor (s : State) (t : Thread) (gen : BitVec 16) : State :=
  let (c, a) := visitorArea (launchArea s t.launch) (launchCrews s t.launch)
  let n := areaNat s c a 4
  let s1 := capWrite (putSlot s c (a + 64 + 1024 * n) { gen, thread := some t }) c a 4 (n + 1)
  { s1 with launches := s1.launches.map fun l => if l.started && l.ident == t.launch then { l with visitors := l.visitors ++ [t.kept s.now] } else l }

/-- The cluster on which a crew of a launch runs. -/
def crewCluster (s : State) (ident : Word) (crew : Nat) : Option Nat :=
  (List.range 384).find? fun k => (s.cluster k).crew.any fun c => c.launch == ident && c.crewId.toNat == crew

/-- Crew 0 of a launch is saved, or is about to be. -/
def crewZeroSaved (s : State) (ident : Word) : Bool :=
  (match crewCluster s ident 0 with
    | some k => (s.cluster k).crew.any fun c => c.preempt
    | none => false) ||
  match launchIdx s ident with
  | some i => (s.launches[i]?).elim false fun l => l.state == .saved || l.savedOn.any fun x => x.1 == 0
  | none => false

/-! ### Core and cluster records (R343) -/

/-- `COREID` of a compute core (R113). -/
def coreIdWord (id : Nat) : Nat := dieOf id * 2 ^ 16 + (id / 4 % 32) * 2 ^ 8 + id % 4

/-- The slots of a core whose threads are of a crew's region. -/
def crewSlots (s : State) (id : Nat) (c : Crew) : List Nat :=
  (List.range 16).filter fun n => (s.thread? { core := id, slot := n }).any fun t => t.rid == c.rid

/-- The vector pool of some slots of a core: (slot, register) of each register in use, in slot order. -/
def poolMap (s : State) (id : Nat) (slots : List Nat) : List (Nat × Nat) :=
  slots.flatMap fun sl =>
    match s.thread? { core := id, slot := sl } with
    | some t => (List.range t.vallot).map fun r => (sl, r)
    | none => []

/-- A number's low bits in two's complement. -/
def wrap (v : Int) (w : Nat) : Nat := (v % (2 ^ w : Nat)).toNat

/-- The 64 bytes of a stream: the pattern's four words with state and binding in the first, the base, the count of
register-loads; the capability stands after the pattern. -/
def streamFields (st : Stream) : List (Nat × Nat × Nat) :=
  let cnt (n : Nat) : Nat := if n ≤ st.dims then st.counts.getD n 1 - 1 else 0
  let str (n : Nat) : Nat := if n ≤ st.dims then wrap (st.strides.getD n 0) 32 else 0
  let size := if st.size = 4 then 2 else st.size - 1
  let code := match st.state with
    | .unconfigured => 0
    | .configured => 1
    | .running => 2
    | .ended => 3
  let bnd := match st.bound with
    | some (sl, r) => 1 + 2 * sl + 32 * r
    | none => 0
  [(0, 8, size + (if st.store then 4 else 0) + 8 * st.dims + 2 ^ 8 * code + 2 ^ 16 * bnd),
   (8, 8, str 0 + 2 ^ 32 * cnt 0 + 2 ^ 48 * cnt 1), (16, 8, str 1 + 2 ^ 32 * str 2),
   (24, 8, cnt 2 + 2 ^ 16 * cnt 3 + 2 ^ 32 * str 3), (48, 8, st.base % 2 ^ 64), (56, 8, st.pos / 64 % 2 ^ 64)]

/-- A signed number from its low bits. -/
def signed (v w : Nat) : Int := (BitVec.ofNat w v).toInt

/-- A stream read from its 64 bytes. -/
def readStream (s : State) (c : Cap) (base : Nat) : Stream :=
  let w0 := areaNat s c base 8
  let w1 := areaNat s c (base + 8) 8
  let w2 := areaNat s c (base + 16) 8
  let w3 := areaNat s c (base + 24) 8
  let bnd := w0 / 2 ^ 16
  { state := match w0 / 2 ^ 8 % 4 with
      | 0 => .unconfigured
      | 1 => .configured
      | 2 => .running
      | _ => .ended
    cap := areaCap s c (base + 32)
    base := areaNat s c (base + 48) 8
    size := match w0 % 4 with
      | 0 => 1
      | 1 => 2
      | _ => 4
    store := w0 / 4 % 2 = 1
    dims := w0 / 8 % 8
    counts := [w1 / 2 ^ 32 % 2 ^ 16 + 1, w1 / 2 ^ 48 + 1, w3 % 2 ^ 16 + 1, w3 / 2 ^ 16 % 2 ^ 16 + 1]
    strides := [signed w1 32, signed w2 32, signed (w2 / 2 ^ 32) 32, signed (w3 / 2 ^ 32) 32]
    pos := 64 * areaNat s c (base + 56) 8
    bound := if bnd % 2 = 1 then some (bnd / 2 % 16, bnd / 32 % 32) else none }

/-- The fields of a barrier context of 32 bytes: P, rank, scope, the counts, the phase bit. -/
def barFields (b : Bar) : List (Nat × Nat × Nat) :=
  [(0, 2, b.p), (2, 2, b.rank), (4, 4, b.scope), (8, 8, b.arrived), (16, 8, b.done), (24, 8, b.arrived % 2)]

/-- The bytes of a vector, tile or accumulator, in words of 8. -/
def wideFields (off bytes : Nat) (v : Nat) : List (Nat × Nat × Nat) :=
  (List.range (bytes / 8)).map fun n => (off + 8 * n, 8, v / 2 ^ (64 * n) % 2 ^ 64)

/-- Bytes read as one number. -/
def readWide (s : State) (c : Cap) (base bytes : Nat) : Nat :=
  (List.range (bytes / 8)).foldl (fun a n => a + areaNat s c (base + 8 * n) 8 * 2 ^ (64 * n)) 0

/-- A ring descriptor's 64 bytes: the capability first, then the counts relative to FRE, the state and configuration, and
one bit for each slot, PBIT and FBIT having no slot in common (R161). -/
def ringFields (r : Ring) : List (Nat × Nat × Nat) :=
  [(16, 8, r.fre.toNat + 2 ^ 32 * (r.rd - r.fre).toNat + 2 ^ 42 * (r.pub - r.fre).toNat
      + 2 ^ 52 * (r.clm - r.fre).toNat),
   (24, 8, r.state + 2 ^ 8 * r.logn + 2 ^ 16 * r.logs + (if r.hdr then 2 ^ 24 else 0) + 2 ^ 32 * r.code.toNat)] ++
  wideFields 32 32 (r.pbit ||| r.fbit).toNat

/-- The slots of the indices in a range of counts. -/
def slotMask (r : Ring) (lo hi : BitVec 32) : BitVec 256 :=
  (List.range (hi - lo).toNat).foldl (fun m d => m ||| (1#256 <<< r.slotOf (lo + BitVec.ofNat 32 d))) 0

/-- A ring descriptor read from its 64 bytes. -/
def readRing (s : State) (c : Cap) (base : Nat) : Ring :=
  let w := areaNat s c (base + 16) 8
  let g := areaNat s c (base + 24) 8
  let fre := BitVec.ofNat 32 w
  let r : Ring :=
    { state := g % 2 ^ 8, logn := g / 2 ^ 8 % 2 ^ 8, logs := g / 2 ^ 16 % 2 ^ 8, hdr := g / 2 ^ 24 % 2 = 1,
      code := BitVec.ofNat 16 (g / 2 ^ 32), fre, rd := fre + BitVec.ofNat 32 (w / 2 ^ 32 % 2 ^ 10),
      pub := fre + BitVec.ofNat 32 (w / 2 ^ 42 % 2 ^ 10), clm := fre + BitVec.ofNat 32 (w / 2 ^ 52 % 2 ^ 10),
      buf := areaCap s c base }
  let m := BitVec.ofNat 256 (readWide s c (base + 32) 32)
  { r with pbit := m &&& slotMask r r.pub r.clm, fbit := m &&& slotMask r r.fre r.rd }

/-- The SRAM address of a byte of a bank: index, core-side, offset in the bank (R38). -/
def bankByte (index side off : Nat) : Nat := ((index * 4 + side) * 256 + off / 128) * 128 + off % 128

/-- Writes a core's record but `VALID` (R343): what belongs to the crew. A visitor that stays on the core keeps its slot, its
registers and its streams there, and leaves no trace in the record (R17). -/
def putCore (s : State) (c : Cap) (base id : Nat) (crew : Crew) (spilled : Nat) (last : Bool) : State :=
  let core := s.core id
  let mine := crewSlots s id crew
  let pool := poolMap s id mine
  let streamAt (n : Nat) : Stream := match (core.stream n).bound with
    | some (sl, _) => if mine.contains sl then core.stream n else {}
    | none => core.stream n
  let s1 := areaPut s c base
    [(0, 4, 0), (4, 4, coreIdWord id), (8, 8, crew.launch.toNat), (16, 8, s.ptp), (24, 4, crew.crewId.toNat),
     (28, 4, (if last then 1 else 0) + 16 * min spilled 16)]
  let s2 := areaPut s1 c base ((List.range 8).map fun n => (0x20 + 8 * n, 8, (core.shape n).toNat))
  let s3 := areaPut s2 c base ((List.range 8).map fun n => (0x60 + n, 1, core.tclass.get 0 n))
  let s4 := (List.range 16).foldl
    (fun s n =>
      let sl := s.slot { core := id, slot := n }
      putSlot s c (base + 0x100 + 1024 * n) (if mine.contains n then sl else { sl with thread := none })) s3
  let s5 := areaPut s4 c (base + 0x4100) ((List.range 64).map fun n =>
    (2 * n, 2, match pool[n]? with
      | some (sl, r) => sl + 256 * r
      | none => 0xFF))
  let s6 := (List.range 8).foldl (fun s n =>
    let st := streamAt n
    areaPutCaps (areaPut s c (base + 0x4180 + 64 * n) (streamFields st)) c (base + 0x4180 + 64 * n + 32) [st.cap]) s5
  let s7 := (List.range 16).foldl
    (fun s n => areaPut s c (base + 0x4380 + 32 * n) (barFields (core.bar n))) s6
  let s8 := (pool.zipIdx).foldl (fun s x =>
    let t := s.thread { core := id, slot := x.1.1 }
    let st := (List.range 8).find? fun n =>
      (core.stream n).bound == some x.1 && (core.stream n).store
    let v := match st with
      | some n => (core.stream n).last
      | none => t.v x.1.2
    areaPut s c (base + 0x5000 + 256 * x.2) (wideFields 0 256 v.toNat)) s7
  let s9 := (List.range 8).foldl
    (fun s n => areaPut s c (base + 0x9000 + 16384 * n) (wideFields 0 16384 (core.tiles.get 0 n).toNat)) s8
  let s10 := (List.range 2).foldl
    (fun s n => areaPut s c (base + 0x29000 + 65536 * n) (wideFields 0 65536 (core.accs.get 0 n).toNat)) s9
  let cl := s.cluster (clusterOf id)
  let s11 := ((cl.banksIn 1).zipIdx).foldl (fun s x =>
    (List.range 2048).foldl (fun s u =>
      let a (i : Nat) : Nat := bankByte x.1 (sideOf id) (16 * u + i)
      let v := leNat (fun i => cl.sram.get 0 (a i)) 16
      capWrite s c (base + 0x50000 + 32768 * x.2 + 16 * u) 16 v (cl.sramTags.get false (a 0 / 16))) s) s10
  if !last then s11
  else
    let s12 := areaPut s11 c (base + 0x49000) ((List.range 16).map fun n => (8 * n, 8, (cl.format n).toNat))
    let s13 := areaPut s12 c (base + 0x49080) ((List.range 16).map fun n => (8 * n, 8, (cl.bankFormat n).toNat))
    let s14 := areaPut s13 c (base + 0x49100) ((List.range 16).map fun n => (8 * n, 8, cl.mode n))
    (List.range 32).foldl (fun s q =>
      let r := cl.rings.get {} q
      areaPutCaps (areaPut s c (base + 0x49180 + 64 * q) (ringFields r)) c (base + 0x49180 + 64 * q) [r.buf]) s14

end Sys2Proof.Machine
end

