-- ==== Sys2Proof/Machine/Ending.lean ====
section
/-!
DEFINITION. How threads end: deliveries by handle, the end of a thread, kills, containment, the stop of a thread and of a
crew (R12, R17, R20, R314, R337–R341, R346).
-/

namespace Sys2Proof.Machine

/-! ### Deliveries by handle (R20, R26, R346) -/

/-- Where a delivery by handle goes: a spill ring, a live thread, or nowhere. -/
inductive Route
  | spill (core idx : Nat)
  | thread (l : Loc)
  | lost
  deriving DecidableEq, Repr

/-- The way of a handle's slot and generation (R346): caught for a saved crew of which it names a thread; forwarded to where that
thread's crew has resumed; caught for a saved crew of the launch that it carries; else to the thread that the slot holds. The
first argument bounds the forwardings, each of which goes on to a ring of its own. The table of R346 orders the catching alone:
where the forwarding and the live thread stand in it is a DESIGN CHOICE, log 67. A visitor that is displaced or saved takes a new
handle where it arrives, and its cluster was not its crew's: a fill to its old handle, a helper's token among them, finds no
thread and is discarded and counted as R20 gives, though R12 has the write reach a starter that is pre-empted; its claim then
does not end. DESIGN CHOICE, log 81. -/
def routeLoc : Nat → State → Loc → BitVec 16 → Word → Route
  | 0, _, _, _, _ => .lost
  | n + 1, s, l, gen, launch =>
    let sp := (s.core l.core).spills
    let names (x : Spill) : Bool := x.live.contains (l.slot, gen)
    match sp.findIdx? fun x => x.draining && names x with
    | some i => .spill l.core i
    | none =>
      match (sp.find? fun x => !x.draining && names x).bind fun x => x.forward with
      | some id => routeLoc n s { core := id, slot := l.slot } gen launch
      | none =>
        match sp.findIdx? fun x => x.draining && x.launch == launch with
        | some i => .spill l.core i
        | none => if (s.thread? l).isSome && (s.slot l).gen == gen then .thread l else .lost

/-- The generation in a handle. -/
def genOf (h : Word) : BitVec 16 := h.extractLsb' 0 16

/-- More than the forwardings that any delivery can follow: every ring forwards it once. -/
def State.routeFuel (s : State) : Nat := s.cores.foldl (fun n e => n + e.2.spills.length) 1

/-- The way of a handle. -/
def routeHandle (s : State) (h launch : Word) : Route :=
  ((locsOf h).map fun l => routeLoc s.routeFuel s l (genOf h) launch).foldl
    (fun a r => if a = .lost then r else a) .lost
where
  /-- The slots that a handle may name. -/
  locsOf (h : Word) : List Loc := State.locsOf h

/-- The number of no agent, for a delivery by a handle that names none. -/
def noAgent : Nat := 65536

/-- The core that a handle names. -/
def handleCore (h : Word) : Nat := ((State.locsOf h).head?.map fun l => l.core).getD noAgent

/-- Something leaves for an agent's network interface. -/
def send (s : State) (d : Delivery) : State := { s with net := s.net ++ [d] }

/-- Entries that a spill ring takes, and those of them that the interface itself holds (R345). -/
def spillRoom : Nat := 512
def spillHeld : Nat := 16

/-- The 128 bytes of an entry of `SPILL`: the kind and what it is addressed to, the identities, the words. The manual names
its size only. DESIGN CHOICE, log 67. -/
def Delivery.bytes (d : Delivery) : Nat :=
  let words (xs : List Word) : Nat := (xs.zipIdx).foldl (fun a x => a + x.1.toNat * 2 ^ (64 * x.2)) 0
  let head (kind a b : Nat) : Nat := kind + 2 ^ 8 * (a % 2 ^ 24) + 2 ^ 32 * (b % 2 ^ 32)
  let ids (k : Nat) (rest : Nat) : Nat :=
    k + 2 ^ 64 * d.launch.toNat + 2 ^ 128 * d.crew.toNat + 2 ^ 160 * (d.dest % 2 ^ 32) + 2 ^ 192 * rest
  match d.body with
  | .message handler ws => ids (head 1 ws.length 0) (words (handler :: ws) % 2 ^ 832)
  | .thread t _ => ids (head 2 t.preds.toNat t.full.toNat) (words (t.pc :: (List.range 10).map fun i => t.s (i + 1)) % 2 ^ 832)
  | .reply h r v => ids (head 3 r h.toNat) v.toNat
  | .wake h page => ids (head 4 (if page then 1 else 0) h.toNat) 0
  | .token h r v => ids (head 5 r h.toNat) v.toNat
  | .barrier ctx round tag => ids (head 6 ctx (round * 2 + tag)) 0
  | .nred ctx op tag v => ids (head 7 ctx (op * 2 + tag)) v.toNat
  | .event offset s1 s2 s3 s4 _ => ids (head 8 offset 0) (words [s1, s2, s3, s4])

/-- The n-th entry of a ring is written to the save area, behind those that the interface holds (R343, R345). -/
def spillWrite (s : State) (sp : Spill) (n : Nat) (d : Delivery) : State :=
  if n < spillHeld then s else capWrite s sp.area (sp.base + 128 * (n % spillRoom)) 128 d.bytes

/-- A spill ring has room for an entry; none is a back-pressured link (R345). -/
def ringRoom (s : State) (id i : Nat) : Bool :=
  match (s.core id).spills[i]? with
  | some x => x.ring.length < spillRoom
  | none => true

/-- Puts a delivery into a spill ring. -/
def spillAdd (s : State) (id idx : Nat) (d : Delivery) : State :=
  let c := s.core id
  match c.spills[idx]? with
  | some sp =>
    spillWrite (s.setCore id { c with spills := c.spills.set idx { sp with ring := sp.ring ++ [d] } }) sp sp.ring.length d
  | none => s

/-- A core's interface holds every delivery back while a ring is replayed into it (R328). -/
def replaying (s : State) (id : Nat) : Bool := s.pending.any fun p => match p.op with
  | .spill _ dst => dst == id
  | _ => false

/-- A filled register ends a sync read that waits for it (R24). -/
def Thread.unsync (t : Thread) (r : Nat) : Thread :=
  if t.wait = some (.sync r) then { t with wait := none, readyFrom := none } else t

/-- Fills a token register by handle (R12, R23). A fill is a delivery to the network interface (R346): a full spill ring holds
it back, and so does a replay. One that finds no thread is discarded and counted (R20). -/
def fillToken (s : State) (h : Word) (reg : Nat) (v launch : Word) (rcb : Nat) (crew : BitVec 32) : State :=
  if reg = 0 then s
  else
    let d (id : Nat) : Delivery := { dest := id, launch, rcb, crew, body := .token h reg v }
    match routeHandle s h launch with
    | .thread l => if replaying s l.core then send s (d l.core) else s.onThread l fun t => (t.fill reg v).unsync reg
    | .spill id i => if ringRoom s id i then spillAdd s id i (d id) else send s (d id)
    | .lost => undeliverable s (blameHandle s h rcb) h 3 launch crew

/-- Flags that an operation raises on completion reach the thread that issued it (R40, R74, R260): its `FFLAGS`, those that its
save keeps for it, or nothing once it has ended. -/
def noteFlags (s : State) (h launch : Word) (flags : BitVec 64) : State :=
  match routeHandle s h launch with
  | .thread l => s.onThread l fun t => { t with fflags := t.fflags ||| flags }
  | .spill id i =>
    let c := s.core id
    match c.spills[i]? with
    | some sp =>
      let slot := h.toNat / 2 ^ 16 % 16
      match sp.forward with
      | some far => s.onThread { core := far, slot } fun t => { t with fflags := t.fflags ||| flags }
      | none => s.setCore id { c with spills := c.spills.set i { sp with flags := (slot, genOf h, flags) :: sp.flags } }
    | none => s
  | .lost => s

/-! ### Service pairs -/

/-- The die that `LEADER` names (R402). -/
def State.leader (s : State) : Nat := (s.byte 0 0x8800C 0x8800C).toNat

/-- The pair that serves the events of a die: its own, or the leader's when it is out of service (R314). Where `LEADER` names no
die, the events stay with the die's own pair. DESIGN CHOICE, log 80. -/
def servicePair (s : State) (d : Nat) : Nat :=
  let c := s.core (pairOf d)
  if (c.started && !c.stopped && (s.phys 0x88012 2).testBit d) || 12 ≤ s.leader then pairOf d else pairOf s.leader

/-- An event for a service pair, with the number of the thread that it arises from, none where a unit does: two events of one
thread to one pair are taken in the order in which they arose (R13, R314). -/
def sendEvent (s : State) (l : Loc) (d : Nat) (offset : Nat) (s1 s2 s3 s4 launch : Word) (rcb : Nat) (sender : Nat := 0) :
    State :=
  send s { dest := servicePair s d, src := l, launch, rcb, body := .event offset s1 s2 s3 s4 rcb, sender }

/-- An access of a thread or unit waits for an absent page: the event of its home slice's die (R335). -/
def pageEvent (s : State) (l : Loc) (handle epc launch : Word) (rcb va : Nat) (sender : Nat := 0) : State :=
  sendEvent s l (homeSlice va / 16) 0x10 handle 0x08 epc (BitVec.ofNat 64 va) launch rcb sender

/-! ### The end of a thread (R153, R339) -/

/-- A held result is written. -/
def Thread.land (t : Thread) (h : Hold) : Thread :=
  if h.vector then (if h.reg < t.vallot then t.setV h.reg h.value else t)
  else t.setS h.reg (h.value.setWidth 64)

/-- Every hold of a thread ends (R337). -/
def Thread.landAll (t : Thread) : Thread := { t.holds.foldl Thread.land t with holds := [] }

/-- A stream without its binding, where a test on the bound register holds. -/
def Stream.unbindIf (st : Stream) (slot : Nat) (p : Nat → Bool) : Stream :=
  match st.bound with
  | some (sl, r) => if sl = slot && p r then { st with bound := none } else st
  | none => st

/-- A core with the streams of some registers of a slot unbound; the predicates read 0 until written (R121). -/
def Core.unbind (c : Core) (slot : Nat) (p : Nat → Bool) : Core :=
  { c with streams := c.streams.map fun e => (e.1, e.2.unbindIf slot p) }

/-- A slot waits in no queue of its core, and on no ring of its cluster. -/
def unqueue (s : State) (l : Loc) : State :=
  let c := s.core l.core
  let s1 := s.setCore l.core { c with startq := c.startq.filter (· != l.slot), vgrowq := c.vgrowq.filter (· != l.slot) }
  if !isCompute l.core then s1
  else
    let k := clusterOf l.core
    let cl := s1.cluster k
    s1.setCluster k { cl with rings := cl.rings.map fun e => (e.1, { e.2 with waiters := e.2.waiters.filter (· != l) }) }

/-- The slot is freed, its own stores performed, those that its streams have pushed among them (R86): its streams are unbound,
its allotment returns to the pool, and it waits in no queue. When it may issue again stands with the slot (R22). -/
def leaveSlot (s0 : State) (l : Loc) : State :=
  let s := performWhere s0 (pathOf l.core) fun p => p.loc == l
  let c := (s.core l.core).unbind l.slot fun _ => true
  let sl := c.slots.get {} l.slot
  let from' := max sl.nextIssue ((sl.thread.map fun t => t.nextIssue).getD 0)
  unqueue (s.setCore l.core { c with slots := c.slots.set l.slot { sl with thread := none, nextIssue := from' } }) l

/-- A core that has been saved keeps a thread of a crew. -/
def savedThreads (s : State) (id : Nat) (c : Crew) : Bool :=
  (s.core id).spills.any fun x => x.draining && x.launch == c.launch && x.crew == c.crewId && !x.live.isEmpty

/-- No thread of a crew is left, neither live on its cluster nor saved with one of its cores, and no copy or Lichen operation of its
launch is under way on the cluster, which would reach the scratchpad of the next crew (R7, R35, R86). -/
def crewOver (s : State) (k : Nat) (c : Crew) : Bool :=
  crewEmpty s k c && !(c.saved.any fun j => savedThreads s (coreOf k j) c)
    && !(s.cluster k).copies.any (fun q => q.launch == c.launch) && !(s.cluster k).lichen.any fun q => q.launch == c.launch

/-- A core whose crew is over: its contexts are reset, nothing of the crew waits, and what a ring has caught for the crew is
delivered after all. -/
def releaseCore (s : State) (c : Crew) (id : Nat) : State :=
  let x := s.core id
  let stays (n : Nat) : Bool := (s.thread? { core := id, slot := n }).isSome
  let mine (p : Spill) : Bool := p.draining && p.launch == c.launch && p.crew == c.crewId
  let caught := (x.spills.filter mine).flatMap fun p => p.ring
  { s with net := caught ++ s.net }.setCore id
    { x with
      bars := [], startq := x.startq.filter stays, vgrowq := x.vgrowq.filter stays, intr := false
      spills := if c.saved.contains (sideOf id) then x.spills.filter fun p => !mine p else x.spills }

/-- A crew that is over completes: the stores of its cluster are performed before the cluster is free, its rings return to IDLE
and its barrier contexts are reset (R7, R35, R86, R171). Visitors stay, and so do the STARTs and VGROWs that they wait in (R11,
R27). A crew stopped for a missing feature returns to its launch, whose crews are placed in `CREWID` order, and which is saved
where its other crews are (R341, R342, R382). -/
def crewCheck (s0 : State) (k : Nat) : State :=
  match (s0.cluster k).crew with
  | none => s0
  | some c =>
    if !crewOver s0 k c then s0
    else
      let s := drainAll s0 k
      let s1 := s.setCluster k { s.cluster k with crew := none, rings := [], switch := none }
      let s2 := (List.range 4).foldl (fun s j => releaseCore s c (coreOf k j)) s1
      if c.requeue then
        match launchIdx s2 c.launch with
        | none => s2
        | some i =>
          match s2.launches[i]? with
          | none => s2
          | some l =>
            launchSaved { s2 with launches := s2.launches.set i { l with again := insertAsc c.crewId.toNat l.again } } c.launch
      else crewCompleted s2 c.launch

/-- The launches that have nothing left to wait for complete, the last first, and the kills whose launches have all completed end:
`RSTATE` goes to 5 (R339). -/
def killSweep (s : State) : State :=
  let s1 := (List.range s.launches.length).reverse.foldl launchDone s
  s1.killing.foldl (fun s r =>
    if s.launches.any fun l => l.killed && below s r l.rcb then s
    else { s.rcbPut r 0x1E 1 5 with killing := s.killing.filter (· != r) }) s1

/-- What follows when a thread has left a core: its crew may have completed, and a kill may have ended. -/
def settle (s : State) (id : Nat) : State :=
  if isCompute id then killSweep (crewCheck s (clusterOf id)) else s

/-- A thread is gone from its slot. -/
def quitThread (s : State) (l : Loc) : State := settle (leaveSlot s l) l.core

/-- A thread ends: a helper's retirement value leaves for its starter, and the slot is freed (R153, R339). -/
def endThread (s : State) (l : Loc) (v : Word) : State :=
  match s.thread? l with
  | none => s
  | some t =>
    let s1 := match t.token with
      | some (h, r) =>
        send s
          { dest := handleCore h, src := l, launch := t.launch, rcb := t.rcb, body := .token h r v, sender := t.number
            crew := t.crewId }
      | none => s
    quitThread s1 l

/-! ### Visitors on a cluster whose crew is taken away (R17) -/

/-- A thread as it travels: holds ended, a wait for a page or a route given up, since the access reissues. The cycles of the
core that it leaves mean nothing where it goes. -/
def Thread.travel (t : Thread) : Thread :=
  let t := { t.landAll with nextIssue := 0 }
  match t.wait with
  | some (.page _ _) => { t with wait := none, readyFrom := none }
  | some (.route _ _ _ _) => { t with wait := none, readyFrom := none }
  | _ => { t with readyFrom := none }

/-- A visitor is saved with its launch, its stores performed (R17, R81). One that waits for the SFU is saved at the return. The
manual refuses a pre-emption whose save area is too short for its visitors; one that is displaced into a launch which has been
saved already, and whose area has no room for it, is refused in the same way: an entry of kind 7, and it stays where it runs.
DESIGN CHOICE, log 81. -/
def saveAway (s : State) (l : Loc) : State :=
  match s.thread? l with
  | none => s
  | some t =>
    if t.wait = some .sfu then s
    else if !visitorFits s t.launch then logEntry s t.rcb { kind := 7, rid := t.rid, crew := t.crewId, launch := t.launch }
    else leaveSlot (saveVisitor (drainAll s (pathOf l.core)) t.travel (s.slot l).gen) l

/-- Displaces a visitor, its stores performed (R81): it is saved with its launch where crew 0 of it is saved, else it leaves for
core 0 of the cluster on which crew 0 runs. One whose launch has no crew 0 on any cluster stays, as does one that waits for
the SFU. -/
def displace (s : State) (l : Loc) : State :=
  match s.thread? l with
  | none => s
  | some t =>
    if t.wait = some .sfu then s
    else if crewZeroSaved s t.launch then saveAway s l
    else match crewCluster s t.launch 0 with
      | some k =>
        leaveSlot (send (drainAll s (pathOf l.core))
          { dest := coreOf k 0, src := l, launch := t.launch, rcb := t.rcb, body := .thread t.travel true
            sender := t.number, crew := t.crewId }) l
      | none => s

/-- The slots of a cluster. -/
def clusterLocs (k : Nat) : List Loc :=
  (List.range 4).flatMap fun j => (List.range 16).map fun n => { core := coreOf k j, slot := n }

/-- Displaces the visitors of a cluster. -/
def displaceAll (s : State) (k : Nat) : State :=
  (clusterLocs k).foldl (fun s l => if isVisitor s l (s.thread l) then displace s l else s) s

/-! ### Kills (R339, R340) -/

/-- A delivery carries a thread of a region that is being killed. -/
def carriesKilled (s : State) (r : Nat) (d : Delivery) : Bool :=
  match d.body with
  | .thread t _ => below s r t.rcb
  | _ => false

/-- The crew of a cluster is killed: it stops, its visitors leave, and it completes when its copies and Lichen operations
have ended. -/
def killCluster (s : State) (k : Nat) : State :=
  let cl := s.cluster k
  match cl.crew with
  | none => s
  | some c =>
    let s1 := s.setCluster k
      { cl with crew := some { c with killed := true, requeue := false, preempt := false, saved := [] } }
    let s2 := (List.range 4).foldl (fun s j =>
      s.setCore (coreOf k j) { s.core (coreOf k j) with intr := false }) s1
    displaceAll s2 k

/-- The launch as a kill leaves it: it places no more crews. -/
def Launch.kill (l : Launch) : Launch := { l with killed := true, next := l.crews, again := [] }

/-- Clusters whose crew lies at or below a region. -/
def clustersBelow (s : State) (r : Nat) : List Nat :=
  (s.clusters.filter fun e => e.2.crew.any fun c => below s r c.rcb).map fun e => e.1

/-- Threads of compute cores at or below a region. -/
def threadsBelow (s : State) (r : Nat) : List Loc :=
  s.cores.flatMap fun e =>
    if !isCompute e.1 then []
    else (e.2.slots.filter fun x => x.2.thread.any fun t => below s r t.rcb).map fun x => { core := e.1, slot := x.1 }

/-- The threads of a killed region that are under way or held at an interface are ended as well. -/
def dropKilled (s : State) (r : Nat) : State :=
  let cores : Tab Core := s.cores.map fun c => (c.1, { c.2 with held := c.2.held.filter fun d => !carriesKilled s r d })
  { s with net := s.net.filter fun d => !carriesKilled s r d, cores := cores }

/-- A region is being killed: a kill has reached it or one above it and has not ended. -/
def beingKilled (s : State) (r : Nat) : Bool := s.killing.any fun k => below s k r

/-- Kills a region: `RSTATE` 4, its entry of kind 6, every thread and launch at or below it, whose accesses have performed
before a launch's token is written (R86, R339). The entry shows the cause, the policy and the level of the containment that
kills; for a kill by `REQ`, to which no cause belongs, CAUSE 0 and ACTION 0xFF (R334; log 80). A region that a kill has
reached before gets its entry only (R340). -/
def killRegion (s : State) (r : Nat) (cause : Nat := 0) (action : Nat := 0xFF) (absrid : BitVec 32 := 0) : State :=
  let e : LogEntry := { cause, action, absrid, kind := 6, rid := ridOf s r }
  if beingKilled s r then logEntry s r e
  else
    let s1 := logEntry ({ s.rcbPut r 0x1E 1 4 with killing := r :: s.killing }) r e
    let ks := clustersBelow s1 r
    let s2 := ks.foldl killCluster s1
    let ls := threadsBelow s2 r
    let paths := (ks ++ ls.map fun l => pathOf l.core).eraseDups
    let s3 := ls.foldl leaveSlot (paths.foldl drainAll s2)
    let s4 := dropKilled s3 r
    let s5 := { s4 with launches := s4.launches.map fun l => if below s4 r l.rcb then l.kill else l }
    killSweep (ks.foldl crewCheck s5)

/-! ### Containment (R338) -/

/-- What containment decides: the policy applied, the level that applied it, the region to kill, whether the instruction
reissues. -/
structure Decision where
  action : Nat := 0xFF
  level  : Option Nat := none
  kill   : Option Nat := none
  retry  : Bool := false
  deriving DecidableEq, Repr

/-- The walk from a region toward the root. `tenant` is the level below the present one, the child of the root when the
root is reached; the first argument bounds the levels. -/
def contain (s : State) (cause retries : Nat) (spent : Bool) : Nat → Nat → Option Nat → Decision
  | 0, _, _ => {}
  | n + 1, lvl, tenant =>
    let root := lvl = s.rootRcb || lvl = 0
    let up := if root then ({ kill := tenant } : Decision)
      else contain s cause retries spent n (s.rcb lvl 0x00 8) (some lvl)
    if root || (eff s lvl 8 0x38 4).testBit cause then
      match eff s lvl 6 0x34 1 % 4 with
      | 0 => { action := 0, level := some lvl }
      | 1 =>
        if !spent && retries < eff s lvl 6 0x35 1 then { action := 1, level := some lvl, retry := true } else up
      | 2 => { action := 2, level := some lvl, kill := if root then tenant else some lvl }
      | _ =>
        let p := s.rcb lvl 0x00 8
        { action := 3, level := some lvl
          kill := if root then tenant else if p = s.rootRcb || p = 0 then some lvl else some p }
    else up

/-! ### The stop of a thread (R337) -/

/-- Writes `HSTAT` of a hart of a region, in the domain of its control block (R215). A block that nothing has written and that
address space 0 does not map is taken to lie in the key domain of the region, in whose address space the microcode reaches it.
DESIGN CHOICE, log 36. -/
def hartStatus (s : State) (id rcb : Nat) (v : Nat) : State :=
  let b := (s.core id).hart.block
  if b = 0 then s
  else writeFrame s (b + 0x10) (frameDom s b (eff s rcb 4 0x32 1 % 64)) 8 (BitVec.ofNat 1024 v) false

/-- A fault stops a hart: `HSTAT` shows it, and every command in flight on a copy hart ends with the cause (R216). -/
def stopHart (s : State) (l : Loc) (cause : Nat) : State :=
  let c := s.core l.core
  let s1 := s.setCore l.core { c with hart := { c.hart with running := false, stopped := true, cause } }
  let s2 := leaveSlot (hartStatus s1 l.core (s.thread l).rcb (2 + 256 * cause)) l
  if !isCopyHart l.core then s2
  else
    let k := clusterOf l.core
    let cl := s2.cluster k
    let s3 := s2.setCluster k { cl with copies := [] }
    let s4 := cl.copies.foldl (fun s q => fillToken s q.handle q.reg (BitVec.ofNat 64 cause) q.launch q.rcb q.crewId) s3
    settle s4 (coreOf k 0)

/-- A thread that reissues its instruction: it waits for nothing, and a START gives up its claim, which it makes again (R339). -/
def Thread.reissue (t : Thread) (now : Nat) : Thread :=
  let claimed := match t.wait with
    | some (.start _ _ r) => t.claimed &&& ~~~(1#32 <<< r)
    | _ => t.claimed
  { t with claimed, retries := t.retries + 1, retired := now, wait := none, readyFrom := none }

/-- Stops a thread for a fault: its holds end and its stores perform, the fault is counted, contained and logged, and
either the instruction reissues or the thread ends and the supervisor is told (R337–R339). A kill takes the thread with the
others of its region, and no token of a helper is filled then: that is done where the crew continues (R152). `spent` is a
REDST stopped at a poisoned destination, or a thread that waits for the SFU, which are never reissued (R193, R339). In a
region that is being killed no containment runs (R340). -/
def stopThread (s : State) (l : Loc) (cause : Nat) (val : Word) (held : Nat) (spent : Bool) : State :=
  match s.thread? l with
  | none => s
  | some t =>
    let h := s.handleOf l
    let s1 := drainAll (s.setThread l t.landAll) (pathOf l.core)
    let s2 := reachRegion (s1.rcbPut t.rcb 0x90 8 (s1.rcb t.rcb 0x90 8 + 1)) t.rcb
    let d := if beingKilled s2 t.rcb then {} else contain s2 cause t.retries spent regionDepth t.rcb none
    let e : LogEntry :=
      { cause, held, kind := if d.retry then 1 else 0, action := d.action, rid := t.rid, handle := h, epc := t.pc, val
        absrid := match d.level with
          | some r => ridOf s2 r
          | none => 0
        retries := t.retries, crew := t.crewId, launch := t.launch }
    let s3 := logEntry s2 t.rcb e
    if d.retry then (unqueue s3 l).onThread l fun t => t.reissue s3.now
    else
      let s4 := if isCompute l.core then s3 else stopHart s3 l cause
      let s5 := match d.kill with
        | some r => killRegion s4 r cause d.action e.absrid
        | none => s4
      let s5 := if !isCompute l.core then s5
        else if d.kill.isSome || beingKilled s2 t.rcb then quitThread s5 l else endThread s5 l 0xFFFFFFFFFFFFFFFF
      sendEvent s5 l (dieOf l.core) 0x20 h (BitVec.ofNat 64 cause) t.pc val t.launch t.rcb t.number

/-! ### Missing features (R341) -/

/-- The dies on which a launch may be placed: in the region's mask, listing the features (R341, R382). -/
def diesFor (s : State) (rcb : Nat) (feat : BitVec 7) : List Nat :=
  let m := effDieMask s regionDepth rcb
  (List.range 12).filter fun d => m.getLsbD d && (s.die d).features &&& feat == feat

/-- A crew that starts again is not saved: its core is not interrupted, and what it has caught for the crew is dropped. -/
def dropCrewSpills (s : State) (id : Nat) (c : Crew) : State :=
  let x := s.core id
  s.setCore id { x with intr := false, spills := x.spills.filter fun p => !(p.launch == c.launch && p.crew == c.crewId) }

/-- Cause 0x0A stops the crew of a thread: its entry of kind 5, the end of its threads, its return to the launch. Where no
die lists the feature, the launch stops with the cause walked through containment from its region. -/
def stopCrew (s : State) (l : Loc) (feature : Nat) (val : Word) : State :=
  match s.thread? l with
  | none => s
  | some t =>
    let e : LogEntry :=
      { cause := 0x0A, kind := 5, rid := t.rid, handle := s.handleOf l, epc := t.pc, val, retries := t.retries
        crew := t.crewId, launch := t.launch }
    let s1 := logEntry s t.rcb e
    match crewCluster s1 t.launch t.crewId.toNat, launchIdx s1 t.launch with
    | some k, some i =>
      match s1.launches[i]?, (s1.cluster k).crew with
      | some la, some c =>
        let feat := la.feat ||| (1#7 <<< feature)
        let s2 := { s1 with launches := s1.launches.set i { la with feat } }
        let cl := s2.cluster k
        let s3 := s2.setCluster k { cl with crew := some { c with requeue := true, preempt := false, saved := [] } }
        let s4 := displaceAll ((List.range 4).foldl (fun s j => dropCrewSpills s (coreOf k j) c) s3) k
        let mine := (clusterLocs k).filter fun x => (s4.thread x).rid == c.rid && (s4.thread? x).isSome
        let s5 := leaveSlot (mine.foldl leaveSlot s4) l
        let s6 := crewCheck s5 k
        if (diesFor s6 la.rcb feat).isEmpty then
          let d := contain s6 0x0A 0 true regionDepth la.rcb none
          let absrid := match d.level with
            | some r => ridOf s6 r
            | none => 0
          let s7 := logEntry s6 la.rcb
            { cause := 0x0A, kind := 0, action := d.action, rid := ridOf s6 la.rcb, absrid, launch := la.ident }
          killRegion s7 (d.kill.getD la.rcb) 0x0A d.action absrid
        else settle s6 l.core
      | _, _ => endThread s1 l 0xFFFFFFFFFFFFFFFF
    | _, _ => endThread s1 l 0xFFFFFFFFFFFFFFFF

end Sys2Proof.Machine
end

