-- ==== Sys2Proof/Machine/Ops.lean ====
section
/-!
DEFINITION. Taking an exception and returning from one, and the issue of an instruction: the checks of R108 in their
order, the registers that wait (R23, R138), the effect of the member, and what becomes of its failure (R109).
-/

namespace Sys2Proof.Machine

/-! ### Traps of service pairs (R313) -/

/-- The entry into the monitor. -/
def monitorTrap (s : State) (mepc mcause mval : Word) : State :=
  let t := s.me
  let c := s.core s.cur.core
  s.setMe { t with
    mepc, mcause, mval, ppriv := 1, inmon := true, priv := 2
    pc := BitVec.ofNat 64 (t.c 0).base + c.mvec }

/-- A fault on a service pair: the supervisor's handler, the monitor's for a nested one; at monitor privilege the pair stops
issuing. -/
def trap (s : State) (cause : Nat) (val : Word) : State :=
  let t := s.me
  let c := s.core s.cur.core
  if t.priv = 2 then s.setCore s.cur.core { c with stopped := true }
  else if t.intrap then monitorTrap s t.pc (BitVec.ofNat 64 (cause + 2 ^ 16)) val
  else s.setMe { t with
    sepc := t.pc, scause := BitVec.ofNat 64 cause, sval := val, intrap := true
    pc := BitVec.ofNat 64 (t.c 0).base + c.svec + 0x30 }

/-- Raises a cause at the issuing instruction (R108, R109): a trap on a service pair, the stop of the crew for a missing
feature, the stop of the thread otherwise. `held` is the held cause of a stream fault, or the missing feature. -/
def raise (s : State) (cause : Nat) (val : Word) (held : Nat) (spent : Bool := false) : State :=
  if isPair s.cur.core then trap s cause val
  else if cause = 0x0A then stopCrew s s.cur held val
  else stopThread s s.cur cause val held spent

/-- The return from the current level's trap (R320): the target and the thread after it. -/
def trapReturn (t : Thread) : Word × Thread :=
  if t.priv = 2 then (t.mepc, { t with priv := t.ppriv, inmon := false })
  else (t.sepc, { t with intrap := false })

/-! ### Fetching (R101, R105) -/

/-- The word that an address space holds at an address, if it is mapped. -/
def wordAt (s : State) (asid va : Nat) : Option (BitVec 32) :=
  match xlate s asid va with
  | .leaf e shift _ => (leafPa s e shift va).map fun pa => BitVec.ofNat 32 (s.bytes asid va pa 4)
  | _ => none

/-- The fetch of a word through `c0` (R101): the capability, its SPACE (R126), the alignment, the page. The manual gives no
offending word for a fetch that fails; the value of its cause is the address of the word. DESIGN CHOICE, log 30. -/
def fetchWord (s : State) (t : Thread) (pc : Word) : Except Stop (BitVec 32) :=
  let c := t.c 0
  match capCheck c pc.toNat 4 permX with
  | some cause => .error (.cause cause pc)
  | none =>
    if c.space != 0 then .error (.cause 0x06 pc)
    else if pc.toNat % 4 != 0 then .error (.cause 0x07 pc)
    else match pageCheck s t.asid pc.toNat c.dom { x := true } with
      | .error e => .error e
      | .ok (.device asid va pa _ _) => .ok (BitVec.ofNat 32 (s.bytes asid va pa 4))
      | .ok _ => .error (.cause 0x06 pc)

/-- A target lies inside a pair: the word before it is inside `c0` and has major 0x3E (R105). -/
def insidePair (s : State) (t : Thread) (target : Word) : Bool :=
  let c := t.c 0
  let a := target.toNat
  4 ≤ a && c.base ≤ a - 4 && a ≤ c.base + c.len &&
    match wordAt s t.asid (a - 4) with
    | some w => w.toNat / 2 ^ 26 == 0x3E
    | none => false

/-- The word before a target has been read for that check, where it lies inside `c0` (R105, R353). -/
def reachTarget (s : State) (t : Thread) (target : Word) : State :=
  let c := t.c 0
  let a := target.toNat
  if 4 ≤ a && c.base ≤ a - 4 && a ≤ c.base + c.len then s.reach t.asid (a - 4) else s

/-- What the fetch of a word at the pc has read, and for a thread that has not issued yet, and did not migrate, the check of its
entry (R105). -/
def fetched (s : State) (t : Thread) : State :=
  let s1 := s.reach t.asid t.pc.toNat
  if t.fresh && t.kind != .migrated then reachTarget s1 t t.pc else s1

/-- The checks of a control transfer: a misaligned target, a target inside a pair (R101, R105). The value of either cause is
the target. -/
def transferCheck (s : State) (t : Thread) (target : Word) : Option Stop :=
  if target.toNat % 4 != 0 then some (.cause 0x07 target)
  else if insidePair s t target then some (.inside t.asid target)
  else none

/-! ### Registers that wait (R23, R138, R176) -/

/-- Whether an instruction's registers let it go on: it stalls, it parks on a sync read, or it goes. -/
inductive Ready
  | stall
  | park (reg : Nat)
  | go
  deriving DecidableEq, Repr

/-- A plain source stalls while it is empty or held; a sync source while it is held. -/
def srcStalls (t : Thread) (x : BitVec 5 × BitVec 1) : Bool :=
  t.heldS x.1.toNat || (x.2 == 0 && !t.isFull x.1.toNat)

/-- A destination or token stalls while it is claimed or held. -/
def dstStalls (t : Thread) (r : BitVec 5) : Bool :=
  r != 0 && (t.isClaimed r.toNat || t.heldS r.toNat)

/-- A sync source that is empty, and not held. -/
def awaited (t : Thread) (x : BitVec 5 × BitVec 1) : Bool := x.2 == 1 && !t.isFull x.1.toNat && !t.heldS x.1.toNat

/-- The registers of an instruction. A token register that is also a source is read before it is emptied. An instruction with an
empty sync source parks on it, whatever else it would stall on; the manual does not say which of the two it does. DESIGN
CHOICE, log 40. A member whose operand faults, a START of a misaligned entry among them, stalls on a claimed token before it
raises its cause: R152 lists the fault first and notes 'stalls first' at the claim. DESIGN CHOICE, log 80. -/
def ready (t : Thread) (u : Uses) (px : Px) : Ready :=
  match u.srcs.find? (awaited t) with
  | some x => .park x.1.toNat
  | none =>
    if u.srcs.any (srcStalls t) || u.dsts.any (dstStalls t) || u.toks.any (dstStalls t) ||
        (u.vectors px).any (fun v => t.heldV v.toNat) then .stall
    else .go

/-- The sync sources are emptied (R23). -/
def consume (t : Thread) (u : Uses) : Thread :=
  u.srcs.foldl (fun t x => if x.2 = 1 then t.empty x.1.toNat else t) t

/-- Outstanding holds that count toward the limit of eight (R138). -/
def Thread.dataHolds (t : Thread) : Nat := (t.holds.filter fun h => h.due.isNone).length

/-- Later loads wait for a load that an acquire fence has found outstanding (R144). -/
def Thread.loadsStall (t : Thread) : Bool := t.holds.any fun h => h.fenced

/-- Holds a scalar destination until its value is written: at a cycle, or when its data returns (R115, R138). `s0` is not
held. -/
def holdS (s : State) (reg : Nat) (v : Word) (due : Option Nat) : State :=
  let t := s.me
  if reg = 0 then s else s.setMe { t with holds := t.holds ++ [{ reg, value := v.setWidth 2048, due }] }

/-- Holds a vector destination (R176). -/
def holdV (s : State) (reg : Nat) (v : BitVec 2048) (due : Option Nat) : Except Stop State :=
  let t := s.me
  if due.isNone && 8 ≤ t.dataHolds then .error .stall
  else .ok (s.setMe { t with holds := t.holds ++ [{ vector := true, reg, value := v, due }] })

/-- The cycle count of the issuing core. -/
def State.cycle (s : State) : Nat := (s.core s.cur.core).cycle

/-! ### Issue (R22, R108) -/

/-- How a member goes on: to the next instruction, to a target, it stays (its completion comes later, or its pc is
already set), its thread has left, or a cause is raised after its effect (R150, R255); `spent` forbids its reissue. -/
inductive Act
  | next
  | jump (pc : Word)
  | stay
  | gone
  | after (cause : Nat) (val : Word) (spent : Bool)
  deriving DecidableEq, Repr

/-- The checks of R108 on a decoded instruction: a field value reserved, the privilege, the agent's subset, the vector
allotment. The second number is the missing feature of cause 0x0A. -/
def decodeCheck (s : State) (t : Thread) (i : Instr) (px : Px) : Option (Nat × Nat) :=
  if !i.wf then some (0x02, 0)
  else if t.priv < levelOf i then some (0x11, 0)
  else if !present s s.cur.core i then
    some (if isCompute s.cur.core then (0x0A, (featureOf i).getD 0) else (0x01, 0))
  else if (usesOf i).vectors px |>.any (fun v => t.vallot ≤ v.toNat) then some (0x03, 0)
  else none

/-- The slot has issued in this cycle: its thread may issue again in four, or a thread that takes its place (R22). -/
def issued (s : State) : State :=
  match s.thread? s.cur with
  | some t => s.setThread s.cur { t with nextIssue := max t.nextIssue (s.cycle + 4), readyFrom := some s.cycle }
  | none =>
    let sl := s.slot s.cur
    s.setSlot s.cur { sl with nextIssue := max sl.nextIssue (s.cycle + 4) }

/-- The issuing thread parks, or stalls outside the barrel, for a reason (R24). -/
def waitFor (s : State) (w : Wait) : State := s.onThread s.cur fun t => { t with wait := some w, since := s.tick }

/-- The failure of an instruction, which has no effect beside it (R109): a stall leaves everything as it is, an absent page
parks the thread with an event for the supervisor, this module's or that of the module accessed (R335), or traps on a service pair
(R313). The walk of an access that fails is for its slice to account for (R352, R353), and a poisoned line for it to follow up
(R390). -/
def fail (s : State) (e : Stop) : State :=
  match e with
  | .stall => { s with stalled := true }
  | .fault cause val held => issued (raise s cause val held)
  | .denied cause held asid va => issued (raise (s.walked asid va) cause (BitVec.ofNat 64 va) held)
  | .poison asid va => issued (raise (s.reach asid va) 0x0D (BitVec.ofNat 64 va) 0)
  | .inside asid target => issued (raise (s.reach asid (target.toNat - 4)) 0x10 target 0)
  | .wait w =>
    match w with
    | .page _ va => issued (if isPair s.cur.core then raise s 0x08 (BitVec.ofNat 64 va) 0 else waitFor s w)
    | _ => issued (waitFor s w)
  | .page asid va =>
    let s := s.walked asid va
    if isPair s.cur.core then issued (raise s 0x08 (BitVec.ofNat 64 va) 0)
    else
      let t := s.me
      pageEvent (issued (waitFor s (.page asid va))) s.cur (s.handleOf s.cur) t.pc t.launch t.rcb va t.number

/-- What follows a member's effect. -/
def conclude (s : State) (px : Px) (a : Act) : State :=
  match a with
  | .next => issued (s.onThread s.cur fun t => t.finish px.len s.now)
  | .jump pc => issued (s.onThread s.cur fun t => { t with pc }.finish 0 s.now)
  | .stay => issued s
  | .gone => issued s
  | .after cause val spent => issued (raise s cause val 0 spent)

/-- An instruction issues from the slot `cur`, whose thread is `t`. -/
def issueOn (px : Px) (i : Instr) (s : State) (t : Thread)
    (body : Thread → State → Except Stop (State × Act)) : State :=
  match decodeCheck s t i px with
  | some (cause, held) => fail s (.fault cause ((encodeWord i).setWidth 64) held)
  | none =>
    match ready t (usesOf i) px with
    | .stall => fail s .stall
    | .park r => fail s (.wait (.sync r))
    | .go =>
      let t1 := consume t (usesOf i)
      match body t1 (s.setMe t1) with
      | .error e => fail s e
      | .ok (s1, a) => conclude s1 px a

/-- An instruction under a prefix. -/
def issueP (px : Px) (i : Instr) (s : State) (body : Thread → State → Except Stop (State × Act)) :
    Host.Outcome State Fault Refusal :=
  match s.thread? s.cur with
  | none => .fault .emptySlot
  | some t => .next (issueOn px i s t body).bump

/-- An instruction without a prefix. -/
def issue (i : Instr) (s : State) (body : Thread → State → Except Stop (State × Act)) :
    Host.Outcome State Fault Refusal :=
  issueP {} i s body

/-- A member that acts on what belongs to the cluster's crew, its tiles, accumulators and barrier contexts: refused to a visitor
(R17). -/
def crewMember (i : Instr) (s : State) (body : Thread → State → Except Stop (State × Act)) : Host.Outcome State Fault Refusal :=
  issue i s fun t s =>
    if isVisitor s s.cur t then .error (.cause 0x06 ((encodeWord i).setWidth 64)) else body t s

/-- A member that writes one scalar register and goes on. -/
def write1 (s : State) (d : BitVec 5) (v : Word) : Except Stop (State × Act) := .ok (s.wr d.toNat v, .next)

/-- A step outside the barrels. -/
def outside (s : State) : Host.Outcome State Fault Refusal := .next s.bump

/-- A claimed token register of the issuing thread (R23). -/
def claimMe (s : State) (d : BitVec 5) : State := s.setMe (s.me.claim d.toNat)

end Sys2Proof.Machine
end

