-- ==== Sys2Proof/Machine/Lines.lean ====
section
/-!
DEFINITION. Lines at their home slices: the content hash and index, offers to deduplication, the directory, fills,
evictions, the walker's A bit (R46–R50, R354, R360–R366, R390).
-/

namespace Sys2Proof.Machine

/-! ### The content hash (R363) -/

/-- One SipHash round. -/
def sipRound (v : Word × Word × Word × Word) : Word × Word × Word × Word :=
  let v0 := v.1 + v.2.1
  let v1 := v.2.1.rotateLeft 13 ^^^ v0
  let v0 := v0.rotateLeft 32
  let v2 := v.2.2.1 + v.2.2.2
  let v3 := v.2.2.2.rotateLeft 16 ^^^ v2
  let v0 := v0 + v3
  let v3 := v3.rotateLeft 21 ^^^ v0
  let v2 := v2 + v1
  let v1 := v1.rotateLeft 17 ^^^ v2
  (v0, v1, v2.rotateLeft 32, v3)

/-- SipHash-2-4 of 128 bytes under a 128-bit key. -/
def sipHash (key : BitVec 128) (data : BitVec 1024) : Word :=
  let k0 : Word := key.setWidth 64
  let k1 : Word := key.extractLsb' 64 64
  let absorb (v : Word × Word × Word × Word) (m : Word) : Word × Word × Word × Word :=
    let w := sipRound (sipRound (v.1, v.2.1, v.2.2.1, v.2.2.2 ^^^ m))
    (w.1 ^^^ m, w.2)
  let v := (k0 ^^^ 0x736f6d6570736575, k1 ^^^ 0x646f72616e646f6d, k0 ^^^ 0x6c7967656e657261, k1 ^^^ 0x7465646279746573)
  let v := (List.range 16).foldl (fun v i => absorb v (data.extractLsb' (64 * i) 64)) v
  let v := absorb v 0x8000000000000000
  let v := (v.1, v.2.1, v.2.2.1 ^^^ 0xFF, v.2.2.2)
  let v := sipRound (sipRound (sipRound (sipRound v)))
  v.1 ^^^ v.2.1 ^^^ v.2.2.1 ^^^ v.2.2.2

/-- `content_hash(domain, line)` under the domain's content-hash key. -/
def contentHash (s : State) (dom : Nat) (data : BitVec 1024) : Word :=
  sipHash ((s.key dom).record.extractLsb' 768 128) data

/-! ### The content index and offers (R46, R364) -/

/-- The line of a key. -/
def lineAt (s : State) (key : Nat) : Line := (s.lines.find key).getD {}

/-- The state with a line changed. -/
def setLine (s : State) (key : Nat) (l : Line) : State := { s with lines := s.lines.set key l }

/-- An index entry names a content in a domain. -/
def IndexEntry.isFor (e : IndexEntry) (dom : Nat) (h : Word) : Bool := e.dom == dom && e.hash == h

/-- Two entries lie in one set. -/
def IndexEntry.sameSet (a b : IndexEntry) : Bool := a.home == b.home && a.set == b.set

/-- An entry at the front, the most recently used, in place of one for the same content, or else of the least recently
used of a full set of four (R364). -/
def indexPut (s : State) (e : IndexEntry) : State :=
  let rest := s.index.filter fun x => !x.isFor e.dom e.hash
  let peers := rest.filter fun x => x.sameSet e
  let rest := if peers.length < 4 then rest else match peers.getLast? with
    | some z => rest.filter (· != z)
    | none => rest
  { s with index := e :: rest }

/-- The entry of a content. -/
def indexFor (dom : Nat) (h : Word) (canon : Nat ⊕ Nat) : IndexEntry :=
  { home := h.toNat % 192, set := h.toNat / 192 % 4096, dom, hash := h, canon }

/-- A shared drupelet. -/
def drupAt (s : State) (id : Nat) : Drupelet := s.drups.get {} id

/-- The content of the drupelet that an entry names, as it stands. -/
def canonData (s : State) : Nat ⊕ Nat → BitVec 1024
  | .inl id => (drupAt s id).data
  | .inr key => (lineAt s key).data

/-- A drupelet number that is not in use. -/
def freshDrup (s : State) : Nat := s.drups.foldl (fun n e => max n (e.1 + 1)) 0

/-- A line's private drupelet becomes one that lines may share: a number of its own, one reference, every index entry that
named it following it. -/
def publish (s : State) (key : Nat) : State × Nat :=
  let l := lineAt s key
  let id := freshDrup s
  let d : Drupelet := { refs := 1, data := l.data, dom := l.dom, slice := keyHome key }
  let index := s.index.map fun e => if e.canon = .inr key then { e with canon := .inl id } else e
  ({ setLine s key { l with drup := .shared id } with drups := s.drups.set id d, index := index }, id)

/-- A line's tag comes to point to a canonical drupelet, which another line holds privately or lines share already; what it
pointed to before is released. -/
def shareWith (s : State) (key : Nat) (h : Word) (canon : Nat ⊕ Nat) : State :=
  let x : State × Nat := match canon with
    | .inl id => (s, id)
    | .inr other => publish s other
  let d := drupAt x.1 x.2
  let s1 := freeTag { x.1 with drups := x.1.drups.set x.2 { d with refs := d.refs + 1 } } key (lineAt x.1 key)
  let l := lineAt s1 key
  indexPut (setLine s1 key { l with drup := .shared x.2 }) (indexFor l.dom h (.inl x.2))

/-- A line is offered for sharing (R46). A poisoned line, and one of a domain without an active key, is never offered
(R146, R363). A line on a full shared drupelet that is offered while a newer canonical one exists moves to the newer one,
where the manual speaks of a private drupelet only. DESIGN CHOICE, log 65. -/
def offer (s : State) (key : Nat) : State :=
  match s.lines.find key with
  | none => s
  | some l =>
    if l.poison || !(s.key l.dom).active then s
    else if l.data = 0 then setLine (freeTag s key l) key { l with drup := .zero }
    else
      let h := contentHash s l.dom l.data
      match s.index.find? fun e => e.isFor l.dom h with
      | none => indexPut s (indexFor l.dom h (l.canon key))
      | some e =>
        if e.canon = l.canon key then indexPut s e
        else if canonData s e.canon != l.data then
          indexPut { s with coll := s.coll.set l.dom (s.coll.get 0 l.dom + 1) } e
        else match e.canon with
          | .inl id =>
            if (drupAt s id).refs < 1023 then shareWith s key h e.canon
            else indexPut s (indexFor l.dom h (l.canon key))
          | .inr _ => shareWith s key h e.canon

/-- Counter n of a domain (R50). -/
def dedupCounter (s : State) (dom n : Nat) : Word :=
  let ls := s.lines.filter fun e => e.2.dom == dom
  let refs (l : Line) : Nat := match l.drup with
    | .shared id => (drupAt s id).refs
    | _ => 0
  match n with
  | 0 => BitVec.ofNat 64 ls.length
  | 1 => BitVec.ofNat 64 ((ls.filter fun e => e.2.drup == .own).length +
      (s.drups.filter fun e => e.2.dom == dom).length)
  | 2 => BitVec.ofNat 64 (ls.filter fun e => e.2.drup == .zero || 1 < refs e.2).length
  | 3 => s.coll.get 0 dom
  | 4 => s.unsh.get 0 dom
  | _ => 0

/-! ### The directory (R360, R362) -/

/-- An agent of the directory is a host, which is a sharer of its own kind (R361). -/
def isHost (k : Nat) : Bool := 384 ≤ k

/-- A read by an agent. A fifth cluster's pointer turns the pointers of clusters into die bits; a die bit stands for no host,
so that a host's pointer stays and does not count among the four (R360–R362). -/
def Dir.read (d : Dir) (k : Nat) : Dir :=
  match d with
  | .invalid => .exclusive k
  | .exclusive o => if o = k then d else .shared [o, k] 0
  | .modified o => if o = k then d else .shared [o, k] 0
  | .shared ps dies =>
    if ps.contains k then d
    else if isHost k || (ps.filter fun p => !isHost p).length < 4 then .shared (ps ++ [k]) dies
    else .shared (ps.filter isHost) ((ps.filter fun p => !isHost p).foldl (fun a p => a ||| (1#12 <<< (p / 32)))
      (dies ||| (1#12 <<< (k / 32))))

/-- An agent drops its copy. A die bit stays, since it stands for other clusters as well. -/
def Dir.drop (d : Dir) (k : Nat) : Dir :=
  match d with
  | .exclusive o => if o = k then .invalid else d
  | .modified o => if o = k then .invalid else d
  | .shared ps dies =>
    let rest := ps.filter (· != k)
    if rest.isEmpty && dies == 0 then .invalid else .shared rest dies
  | .invalid => d

/-- An agent's dirty copy is written back and kept clean. -/
def Dir.clean (d : Dir) (k : Nat) : Dir :=
  match d with
  | .modified o => if o = k then .exclusive k else d
  | _ => d

/-! ### Filling and evicting (R47, R354, R365, R390) -/

/-- Entries of a slice's translation cache (R353). -/
def sliceLeaves : Nat := 4096

/-- Two leaves compete for one set of a slice's translation cache. -/
def TlbEntry.sameSet (a b : TlbEntry) : Bool :=
  a.slice == b.slice &&
    Config.tlbSet a.asid a.page a.shift % (sliceLeaves / 8) == Config.tlbSet b.asid b.page b.shift % (sliceLeaves / 8)

/-- A leaf at the front, the most recently used, in place of the least recently used of a full set of 8 (R353). -/
def tlbPut (s : State) (e : TlbEntry) : State :=
  let rest := s.tlb.filter (· != e)
  if (rest.filter fun x => x.slice == e.slice).length < 8 then { s with tlb := e :: rest }
  else
    let peers := rest.filter fun x => x.sameSet e
    let rest := if peers.length < 8 then rest else match peers.getLast? with
      | some z => rest.filter (· != z)
      | none => rest
    { s with tlb := e :: rest }

/-- A counter of the service block goes up by one (R402). -/
def serviceCount (s : State) (off : Nat) : State := s.physPut (0x80000 + off) 8 ((s.phys (0x80000 + off) 8 + 1) % 2 ^ 64)

/-- A stored line is poisoned: its text stays as it is, with a MAC under the domain's present key, and it is counted (R390). -/
def poisonStored (s : State) (pa dom : Nat) : State :=
  let n := pa / 128
  serviceCount
    { s with
      seals := s.seals.set n
        { s.seals.get {} n with
          dom, epoch := (s.key dom).epoch, mac := macKey (s.key dom).record, poison := true, sealed := true } } 0x8030

/-- The controller reads a line of which some bits have been found flipped: ciphertext bits 0 to 1,023, tag bits 1,024 to
1,031, others from there on. One flip of ciphertext or tags is corrected, everything else that does not match is poisoned. -/
def readCheck (s : State) (pa dom : Nat) (flips : List Nat) : State :=
  if !backed s pa then s
  else
    match (flips.filter fun b => flips.count b % 2 == 1).eraseDups with
    | [] => if sealOk s pa dom then s else poisonStored s pa dom
    | [b] => if b < 1032 && sealOk s pa dom then serviceCount s 0x8028 else poisonStored s pa dom
    | _ => poisonStored s pa dom

/-- A line that a home slice reads from memory where it does not hold it, checked, under an active key. -/
def readLine (s : State) (asid va pa dom : Nat) (flips : List Nat) : State :=
  if (s.heldFor asid va pa dom).isSome then s else readCheck s pa dom flips

/-- The leaf, physical address and domain of a mapped address. -/
def mappedAt (s : State) (asid va : Nat) : Option (Word × Nat × Nat) :=
  match xlate s asid va with
  | .leaf e shift _ => (leafPa s e shift va).map fun pa => (e, pa, bitsOf e 53 48)
  | _ => none

/-- The entry of a page table that a walk reads: its line is held at its own home slice, read from memory and checked if it was
not held before (R352, R390). -/
def serveEntry (s : State) (a : Nat) : State :=
  let dom := physDom s a
  if (s.line? 0 a).isSome then touch s (lineKey 0 a)
  else if !(s.key dom).active || !backed s a then s
  else holdLine (readCheck s a dom []) 0 a a dom

/-- The slice of an accessed line translates it (R352–R354): a leaf that it caches becomes the most recently used; where it caches
none, it walks, the entries that it reads are held at their slices, and a leaf that it finds is cached, its A bit set first. -/
def installLeaf (s : State) (asid va : Nat) : State :=
  match cachedLeaf s asid va with
  | some e => tlbPut s e
  | none =>
    let s1 := (walkEntries s asid va).foldl serveEntry s
    match walk s1 asid va with
    | .leaf e shift a =>
      tlbPut (if bitOf e 4 then s1 else orEntry s1 a 0x10)
        { slice := homeSlice va, asid, page := va / 2 ^ shift, shift, leaf := e ||| 0x10, addr := a }
    | _ => s1

/-- A line is filled from memory where the slice does not hold it, into a tag and a drupelet that are freed for it, and offered
where its page has DEDUP (R46, R358, R365). -/
def fillLine (s : State) (asid va pa dom : Nat) (leaf : Word) : State :=
  let s1 := holdLine s asid va pa dom
  if (s.heldFor asid va pa dom).isNone && bitOf leaf 7 && !bitOf leaf 8 then offer s1 (lineKey asid va) else s1

/-! ### Cluster caches (R42) -/

/-- Lines that a cluster's cache holds: 128 KiB for each index in cache mode. -/
def cacheLines (s : State) (k : Nat) : Nat := ((s.cluster k).banksIn 0).length * 1024

/-- A cluster's cache holds a line no more. -/
def dropCopy (s : State) (k key : Nat) : State :=
  { s with caches := s.caches.map fun e => if e.1 = k then (e.1, e.2.filter (· != key)) else e }

/-- A cluster's cache gives up a line: a copy that it alone may write is taken by the slice first. -/
def cacheOut (s : State) (k key : Nat) : State :=
  let s1 := match s.lines.find key with
    | some l =>
      setLine s key { l with
        dirty := l.dirty || l.dir == Dir.modified k
        dir := match l.dir with
          | .modified o => if o = k then .invalid else l.dir
          | d => d }
    | none => s
  dropCopy s1 k key

/-- A line that has been granted to a cluster is held by its cache. Where the cache is full it gives up the line that was
granted first, since the manual names no choice. DESIGN CHOICE, log 66. -/
def cacheIn (s : State) (k key : Nat) : State :=
  let held := (s.caches.get [] k).filter (· != key)
  let s1 := if held.length < cacheLines s k then s else match held.getLast? with
    | some z => cacheOut s k z
    | none => s
  { s1 with caches := s1.caches.set k (key :: (s1.caches.get [] k).filter (· != key)) }

/-- Write ownership is granted: the line is unshared, the grant recorded, every other copy gone (R47, R356, R362). -/
def grantLine (s : State) (key k : Nat) : State :=
  let s1 := recordGrant (uncache (unshare s key) key) (key / 2 ^ 49) (key % 2 ^ 49 * 128)
  match s1.lines.find key with
  | some l => setLine s1 key { l with dir := .modified k }
  | none => s1

/-- A held line is written back and stays held, clean; one that no active slot can encrypt stays dirty (log 81). -/
def cleanLine (s : State) (key : Nat) : State :=
  match s.lines.find key with
  | none => s
  | some l => if l.dirty && (s.key l.dom).active then setLine (writeBack s l) key { l with dirty := false } else s

/-- A line comes to a cluster's cache, if its page is present, of a domain the access may read, and no STREAM page (R42,
R43, R146). -/
def bringLine (s : State) (k asid va dom : Nat) : State :=
  match xlate s asid va with
  | .leaf e shift _ =>
    let pdom := bitsOf e 53 48
    match leafPa s e shift va with
    | none => s
    | some pa =>
      if bitOf e 6 || !(pdom == dom || pdom == 63) || !(s.key pdom).active || s.poisoned asid va pa pdom then s
      else
        let s1 := installLeaf s asid va
        let s1 := fillLine (readLine s1 asid va pa pdom []) asid va pa pdom e
        let key := lineKey asid va
        let l := lineAt s1 key
        cacheIn (setLine s1 key { l with dir := if l.dir = .invalid then .shared [k] 0 else l.dir.read k }) k key
  | _ => s

/-! ### What loads and stores of every width share (R45, R94) -/

/-- A plain access of a revision-1 thread to device memory, which acts at device scope: one through a capability of SPACE 00,
not one of the system window that names this module (R94). -/
def strengthened (t : Thread) (c : Cap) : Bool := t.mmrev == 1 && c.space == 0

/-- A replica left by a load with the H hint, in the slice of the die nearest to the cluster, where the page has W and STREAM clear
and the capability has REPLICATE (R43, R45, R358). The manual does not say whether a replica takes one of its slice's tags and
drupelets (R1): the model keeps it beside both, without a bound. DESIGN CHOICE, log 33. -/
def leaveReplica (s : State) (t : Thread) (c : Cap) (pl : Place) : State :=
  match pl with
  | .device asid va pa _ leaf =>
    let line := va / 128
    if bitOf leaf 2 || bitOf leaf 6 || bitOf leaf 8 || !c.can permReplicate || !onCluster s.cur.core
        || (replicaFor s s.cur.core asid va).isSome then s
    else
      let data := BitVec.ofNat 1024 (s.bytes asid (line * 128) (pa / 128 * 128) 128)
      let r : Replica := { slice := nearSlice (clusterOf s.cur.core), asid, line, launch := t.launch, data }
      { s with replicas := r :: s.replicas }
  | _ => s

/-! ### Read-modify-writes where R83 places them -/

/-- The cluster whose atomic unit performs a crew-scope read-modify-write of device memory: none at a wider scope, none through
the system window, none for a STREAM page, none for an agent on no cluster or for a cluster without a cache, whose every
access goes to the home slice (R42, R83, R141). -/
def atomicCluster (s : State) (l : Loc) (r : Rmw) (leaf : Word) : Option Nat :=
  if r.sc = 0 && !r.port && onCluster l.core && !bitOf leaf 6 && !((s.cluster (clusterOf l.core)).banksIn 0).isEmpty
  then some (clusterOf l.core) else none

/-- The home slice grants a cluster's atomic unit write ownership of a line, which it fills first where it does not hold it. The
line is among those that the cluster's cache holds (R42). -/
def ownLine (s : State) (asid va pa dom : Nat) (leaf : Word) (k : Nat) : State :=
  cacheIn (grantLine (fillLine s asid va pa dom leaf) (lineKey asid va) k) k (lineKey asid va)

/-- The write of a cluster's atomic unit to a line that it owns: the line stays with the cluster. -/
def writeOwned (s : State) (key off size : Nat) (value : BitVec 1024) (k : Nat) : State :=
  match s.lines.find key with
  | some l => putLine s key { l.write off size value false false with dir := .modified k }
  | none => s

/-- A line is recalled from the agent that may write it, its dirty copy taken (R83, R362). -/
def takeBack (s : State) (key : Nat) : State :=
  match s.lines.find key with
  | some l => if l.dir.owned then uncache (setLine s key { l with dirty := true, dir := .invalid }) key else s
  | none => s

/-- The stores of a path that a read-modify-write has performed before it: every one where it is ordered beyond the crew, and where
it writes a kick word, a mailbox word or a header, since a store to those is a release whatever instruction made it (R80,
R87, R90; log 56). -/
def rmwDrain (s : State) (l : Loc) (t : Thread) (pl : Place) (size : Nat) (r : Rmw) : State :=
  if (r.ord && r.sc != 0) || isRelease s (storeAt l t pl size 0 false) then drain s (pathOf l.core) else s

/-- One element as a read-modify-write sees and writes it: performed state only, at the place that its scope gives it (R83,
R85). Where it is no release, the stores to its granule alone are performed before it (R140; log 56). A packet to another
module carries the operation to its ingress port. -/
def rmwAt (s : State) (l : Loc) (t : Thread) (pl : Place) (size : Nat) (r : Rmw) : State × Nat :=
  let s1 := settleFor (rmwDrain s l t pl size r) (pathOf l.core) true pl size
  let old := leNat (fun i => s1.placeByte pl i) size
  let stored (u : State) : State := match r.new size old with
    | some v => performStore u (storeAt l t pl size (BitVec.ofNat 1024 v) false)
    | none => u
  match pl with
  | .remote m va dom _ =>
    ({ s1 with outbox := s1.outbox ++ [.rmw m dom va size r.op (BitVec.ofNat 64 r.v) (BitVec.ofNat 64 r.cmp)] }, old)
  | .scratch _ _ => (stored s1, old)
  | .device asid va pa dom leaf =>
    match atomicCluster s1 l r leaf with
    | none => (stored (takeBack s1 (lineKey asid va)), old)
    | some k =>
      let s2 := ownLine s1 asid va pa dom leaf k
      ((match r.new size old with
        | some v =>
          kickAll (writeOwned s2 (lineKey asid va) (va % 128) size (BitVec.ofNat 1024 v) k) (kicked s2 pa size)
        | none => s2), old)

end Sys2Proof.Machine
end

