-- ==== Sys2Proof/Machine/Streams.lean ====
section
/-!
DEFINITION. Streams: the pattern, run-ahead, the pop of a register-load and the push of one, what a bound register reads
and writes, and major 0x31 (R52–R55, R175, R206–R209).
-/

namespace Sys2Proof.Machine

/-! ### Patterns (R52, R207) -/

/-- Elements of a pattern. -/
def Stream.total (st : Stream) : Nat := st.counts.foldl (· * ·) 1

/-- Elements of a register-load. -/
def Stream.per (st : Stream) : Nat := 256 / st.size

/-- The offset of element k from the base: dimension 0 varies fastest. -/
def patternOffset : List Nat → List Int → Nat → Int
  | c :: cs, d :: ds, k => (k % c : Nat) * d + patternOffset cs ds (k / c)
  | _, _, _ => 0

/-- The address of element k. -/
def Stream.addr (st : Stream) (k : Nat) : Int := st.base + patternOffset st.counts st.strides k

/-- The elements of the register-load that starts at element k. -/
def Stream.load (st : Stream) (k : Nat) : List Nat :=
  (List.range st.per).filterMap fun j => if k + j < st.total then some (k + j) else none

/-- Elements of a register as a vector, lowest lane first. -/
def lanesOf (w : Nat) (xs : List Nat) : BitVec 2048 :=
  BitVec.ofNat 2048 ((xs.zip (List.range xs.length)).foldl (fun a x => a + x.1 % 2 ^ w * 2 ^ (w * x.2)) 0)

/-! ### Run-ahead (R54, R209) -/

/-- The places of the elements of a register-load, each checked. -/
def loadPlaces (s : State) (l : Loc) (t : Thread) (st : Stream) : List Nat → Except (Stop × Int) (List Place)
  | [] => .ok []
  | k :: ks =>
    match memCheck s l t st.cap (st.addr k) st.size st.size permR { r := true } with
    | .error e => .error (e, st.addr k)
    | .ok pl =>
      match loadPlaces s l t st ks with
      | .error e => .error e
      | .ok pls => .ok (pl :: pls)

/-- The next register-load as run-ahead finds it; none while an access waits for a route. -/
def fetchLoad (s : State) (l : Loc) (t : Thread) (st : Stream) (k : Nat) : Option (State × RunItem) :=
  match loadPlaces s l t st (st.load k) with
  | .ok pls =>
    let path := pathOf l.core
    let s1 := pls.foldl (fun s pl => (settleFor s path false pl st.size).reachAt pl) s
    some (s1, .data (lanesOf (8 * st.size) (pls.map fun pl => s1.loadNat path pl st.size)))
  | .error (.page asid va, _) => some (s.walked asid va, .page asid va)
  | .error (e, a) => e.fault?.map fun f => (s.reachStop e, .fault f.1 (BitVec.ofInt 64 a))

/-- Run-ahead stands still behind a held fault. -/
def RunItem.blocks : RunItem → Bool
  | .data _ => false
  | _ => true

/-- A stream of a core fetches one register-load ahead, in the address space of the slot that it is bound to: one that runs without
a binding fetches nothing until it is bound, of which the manual does not speak. DESIGN CHOICE, log 81. One that met an absent page is fetched again by any later run-ahead,
before its popping thread has parked and been woken too: the manual fixes only that it is fetched again when the thread is
woken (R54). DESIGN CHOICE, log 69. -/
def streamStep (s : State) (id n : Nat) : State :=
  let st := (s.core id).stream n
  match st.bound with
  | none => s
  | some (slot, _) =>
    let l : Loc := { core := id, slot }
    let t := s.thread l
    if st.store || st.state != .running then s
    else
      let init := if (st.queue.getLast?.any fun x => match x with
        | .page _ _ => true
        | _ => false) then st.queue.dropLast else st.queue
      let k := st.pos + init.length * st.per
      if init.any RunItem.blocks || (s.cluster (clusterOf id)).depth ≤ init.length || st.total ≤ k then s
      else match fetchLoad s l t st k with
        | some (s1, x) =>
          let c := s1.core id
          s1.setCore id { c with streams := c.streams.set n { st with queue := init ++ [x] } }
        | none => s

/-! ### Bound registers (R175, R208) -/

/-- The stream that a slot's vector register is bound to. -/
def streamFor (c : Core) (slot r : Nat) : Option Nat :=
  (List.range 8).find? fun n => (c.stream n).bound == some (slot, r)

/-- Cause 0x0B with a held cause. -/
def streamFault (held : Nat) (val : Word) : Stop := .fault 0x0B val held

/-- The position after a register-load; the pattern's end ends the stream. -/
def Stream.advance (st : Stream) : Stream :=
  let pos := min (st.pos + st.per) st.total
  { st with pos, state := if pos = st.total then .ended else st.state }

/-- What a pop finds at an empty queue: the wait for a route or for another module's page, or for run-ahead. -/
def emptyQueue (s : State) (id : Nat) (st : Stream) : Stop :=
  match st.bound with
  | some (slot, _) =>
    let l : Loc := { core := id, slot }
    match loadPlaces s l (s.thread l) st (st.load st.pos) with
    | .error (.wait (.route m a since _), _) => .wait (.route m a since true)
    | .error (.wait w, _) => .wait w
    | _ => .stall
  | none => .stall

/-- The register-load that a read of a bound load stream pops (R53, R54, R209). -/
def popLoad (s : State) (id n : Nat) : Except Stop (State × BitVec 2048) :=
  let c := s.core id
  let st := c.stream n
  if st.state != .running then .ok (s, 0)
  else match st.queue with
    | [] => .error (emptyQueue s id st)
    | .data v :: q =>
      .ok (s.setCore id { c with streams := c.streams.set n { st.advance with queue := q } }, v)
    | .fault cause a :: _ => .error (streamFault cause a)
    | .page asid va :: _ =>
      match xlate s asid va with
      | .absent => .error (.page asid va)
      | _ => .error .stall

/-- The contents of a slot's vector register that a masked write leaves: a bound store stream's last push (R175). -/
def vectorAt (s : State) (l : Loc) (r : Nat) : BitVec 2048 :=
  let c := s.core l.core
  match streamFor c l.slot r with
  | some n => if (c.stream n).store then (c.stream n).last else (s.thread l).v r
  | none => (s.thread l).v r

/-- What a vector register of the issuing slot reads: its contents, or what its stream gives. -/
def readVector (s : State) (r : Nat) : Except Stop (State × BitVec 2048) :=
  let c := s.core s.cur.core
  match streamFor c s.cur.slot r with
  | none => .ok (s, s.me.v r)
  | some n => if (c.stream n).store then .ok (s, (c.stream n).last) else popLoad s s.cur.core n

/-- The registers that an instruction reads, each once. Of two that are bound to load streams, the one named last is popped first,
and its held fault is raised or its absent page parks the thread; the manual orders neither the pops of one instruction nor
their faults. DESIGN CHOICE, log 81. -/
def readVectors (s : State) : List Nat → Except Stop (State × Tab (BitVec 2048))
  | [] => .ok (s, [])
  | r :: rs =>
    match readVectors s rs with
    | .error e => .error e
    | .ok (s, vs) =>
      if vs.has r then .ok (s, vs)
      else match readVector s r with
        | .error e => .error e
        | .ok (s, v) => .ok (s, vs.set r v)

/-- The checked stores of the elements that a push stores. A store to a module without a route is dropped when it is performed
(R405). -/
def pushPlaces (s : State) (l : Loc) (t : Thread) (st : Stream) (v : BitVec 2048) :
    List (Nat × Nat) → Except Stop (List PStore)
  | [] => .ok []
  | (lane, k) :: ks =>
    match memCheck s l t st.cap (st.addr k) st.size st.size permW { w := true } with
    | .error (.fault cause val _) => .error (streamFault cause val)
    | .error (.denied cause _ asid va) => .error (.denied 0x0B cause asid va)
    | .error e => .error e
    | .ok pl =>
      match pushPlaces s l t st v ks with
      | .error e => .error e
      | .ok ps =>
        let x := v.toNat / 2 ^ (8 * st.size * lane) % 2 ^ (8 * st.size)
        .ok (storeAt l t pl st.size (BitVec.ofNat 1024 x) false :: ps)

/-- The lines that some stores reach. -/
def State.reachStores (s : State) (ps : List PStore) : State :=
  ps.foldl (fun s p => match p.space with
    | .device asid => s.reach asid p.addr
    | _ => s) s

/-- The push of a register-load by a write of a bound store stream's register: each element is a store of its own, and they
perform in pattern order (R55), those of a header that they publish after the others of the push (R166). -/
def pushLoad (s : State) (l : Loc) (n : Nat) (v : BitVec 2048) : Except Stop State :=
  let c := s.core l.core
  let st := c.stream n
  if st.state != .running then .ok s
  else
    let ks := st.load st.pos
    match pushPlaces s l (s.thread l) st v ((List.range ks.length).zip ks) with
    | .error e => .error e
    | .ok ps =>
      let s1 := (s.setCore l.core { c with streams := c.streams.set n { st.advance with last := v } }).reachStores ps
      .ok (pushPieces s1 (pathOf l.core) (ps.map fun p => { p with stream := some n }))

/-- A write to a slot's vector register, and what its stream makes of it; one to a register that is bound to a load stream has been
refused before. -/
def writeVectorAt (s : State) (l : Loc) (r : Nat) (v : BitVec 2048) : Except Stop State :=
  let c := s.core l.core
  let put (s : State) : State := s.onThread l fun t => t.setV r v
  match streamFor c l.slot r with
  | none => .ok (put s)
  | some n =>
    if !(c.stream n).store then .error (streamFault 0 0)
    else match pushLoad s l n v with
      | .error e => .error e
      | .ok s => .ok (put s)

/-- A write to a vector register of the issuing slot. -/
def writeVector (s : State) (r : Nat) (v : BitVec 2048) : Except Stop State := writeVectorAt s s.cur r v

/-- The register is bound to a load stream, which no instruction may write. -/
def isLoadBound (s : State) (r : Nat) : Bool :=
  let c := s.core s.cur.core
  match streamFor c s.cur.slot r with
  | some n => !(c.stream n).store
  | none => false

/-- An instruction writes a register that is bound to a load stream: cause 0x0B, held cause 0, with its word (R109, R175). -/
def loadBoundFault (i : Instr) : Stop := streamFault 0 ((encodeWord i).setWidth 64)

/-- A vector register of the issuing slot is bound at all. -/
def isBound (s : State) (r : Nat) : Bool := (streamFor (s.core s.cur.core) s.cur.slot r).isSome

/-! ### STRM -/

/-- A stream member: refused to a slot that does not own the binding (R208). -/
def strm (i : Instr) (n : BitVec 3) (s : State) (body : Thread → State → Core → Stream → Except Stop (State × Act)) :
    Host.Outcome State Fault Refusal :=
  issue i s fun t s =>
    let c := s.core s.cur.core
    let st := c.stream n.toNat
    if st.bound.any fun b => b.1 != s.cur.slot then .error (streamFault 0 ((encodeWord i).setWidth 64))
    else body t s c st

/-- A stream member that changes its stream and goes on. -/
def putStream (s : State) (c : Core) (n : BitVec 3) (st : Stream) : Except Stop (State × Act) :=
  .ok (s.setCore s.cur.core { c with streams := c.streams.set n.toNat st }, .next)

/-- SBIND (R208): `p(8+n)` reads the stream from now on, and 0 once it is unbound, until it is written. -/
def execSbind (v : BitVec 5) (n : BitVec 3) (s : State) : Host.Outcome State Fault Refusal :=
  strm (.sbind v n) n s fun t s c st =>
    match streamFor c s.cur.slot v.toNat with
    | some m => if m = n.toNat then .ok (s, .next)
      else .error (streamFault 0 ((encodeWord (.sbind v n)).setWidth 64))
    | none =>
      let s1 := s.setMe { t with preds := t.preds &&& ~~~(1#16 <<< (8 + n.toNat)) }
      putStream s1 (s1.core s.cur.core) n { st with bound := some (s.cur.slot, v.toNat) }

/-- SUNBIND (R208). -/
def execSunbind (n : BitVec 3) (s : State) : Host.Outcome State Fault Refusal :=
  strm (.sunbind n) n s fun _ s c st => putStream s c n { st with bound := none }

/-- A pattern's words as a stream, or none where a field is invalid (R207). -/
def patternOf (cap : Cap) (base : Nat) (w0 w1 w2 w3 : Word) : Option Stream :=
  let dims := bitsOf w0 4 3 + 1
  let counts := [bitsOf w1 47 32, bitsOf w1 63 48, bitsOf w3 15 0, bitsOf w3 31 16]
  let strides := [bitsOf w1 31 0, bitsOf w2 31 0, bitsOf w2 63 32, bitsOf w3 63 32]
  let unused := (List.range 4).any fun d => dims ≤ d && (counts.getD d 0 != 0 || strides.getD d 0 != 0)
  if bitsOf w0 1 0 = 3 || bitsOf w0 63 5 != 0 || unused then none
  else some
    { state := .configured, cap, base, size := 2 ^ bitsOf w0 1 0, store := bitOf w0 2, dims
      counts := (counts.take dims).map (· + 1), strides := (strides.take dims).map fun x => (BitVec.ofNat 32 x).toInt }

/-- SCFG (R207, R208). -/
def execScfg (c : BitVec 4) (a b : BitVec 5) (n : BitVec 3) (s : State) : Host.Outcome State Fault Refusal :=
  strm (.scfg c a b n) n s fun t s core st =>
    let cap := t.c c.toNat
    let r := b.toNat
    match patternOf cap (cap.base + (t.s a.toNat).toNat) (t.s r) (t.s (r + 1)) (t.s (r + 2)) (t.s (r + 3)) with
    | none => .error (streamFault 0 ((encodeWord (.scfg c a b n)).setWidth 64))
    | some st' => putStream s core n { st' with bound := st.bound }

/-- SGO (R208). -/
def execSgo (n : BitVec 3) (s : State) : Host.Outcome State Fault Refusal :=
  strm (.sgo n) n s fun _ s c st =>
    if st.state = .unconfigured then .error (streamFault 0 ((encodeWord (.sgo n)).setWidth 64))
    else putStream s c n { st with state := .running, pos := 0, queue := [], last := 0 }

/-- SSTOP (R54, R208): run-ahead and held faults are discarded. -/
def execSstop (n : BitVec 3) (s : State) : Host.Outcome State Fault Refusal :=
  strm (.sstop n) n s fun _ s c st =>
    if st.state = .running || st.state = .ended then putStream s c n { st with state := .configured, queue := [] }
    else .ok (s, .next)

/-- SSYNC (R55, R208): a load stream fetches again, a store stream's elements perform. -/
def execSsync (n : BitVec 3) (s : State) : Host.Outcome State Fault Refusal :=
  strm (.ssync n) n s fun _ s c st =>
    if st.state = .running || st.state = .ended then
      if st.store then
        .ok (performWhere s s.myPath fun p => p.stream == some n.toNat && p.loc.core == s.cur.core, .next)
      else putStream s c n { st with queue := [] }
    else .ok (s, .next)

end Sys2Proof.Machine
end

