-- ==== Sys2Proof/Machine/Lanes.lean ====
section
/-!
DEFINITION. Lanes: element types, masks, what the vector members compute for each element, and the shared forms of the
vector families (R172–R191).
-/

namespace Sys2Proof.Machine

/-! ### Elements and masks (R172, R173) -/

/-- An element type: bits of an element, and its number format unless it is an integer. -/
structure Ty where
  w  : Nat := 32
  fm : Option Fm := none
  deriving DecidableEq, Repr

/-- Elements of a register. -/
def Ty.count (y : Ty) : Nat := 2048 / y.w

/-- The descriptor that `nf` names for a thread, read at issue (R60, R172). -/
def nfDesc (s : State) (t : Thread) : Word := formatFor s s.cur t (t.vnf.toNat % 16)

/-- The type of a code. -/
def tyOf (s : State) (t : Thread) (y : BitVec 3) : Ty :=
  match y.toNat with
  | 0 => { w := 8 }
  | 1 => { w := 16 }
  | 2 => { w := 32 }
  | 4 => { w := 16, fm := some fmBf16 }
  | 5 => { w := 16, fm := some fmF16 }
  | 6 => { w := 32, fm := some fmF32 }
  | _ => let f := fmOf (nfDesc s t); { w := f.container, fm := some f }

/-- Element j of a register. -/
def elem (w : Nat) (v : BitVec 2048) (j : Nat) : Nat := v.toNat / 2 ^ (w * j) % 2 ^ w

/-- An element is active: the prefix has no mask, or its word lane's bit is set. -/
def active (px : Px) (t : Thread) (w j : Nat) : Bool := px.k == 0 || (t.k px.k.toNat).getLsbD (w * j / 32)

/-- What a vector computation gives: a register, flags, and whether an element was rounded stochastically. -/
structure VRes where
  val   : BitVec 2048 := 0
  flags : Nat := 0
  sr    : Bool := false
  deriving DecidableEq, Repr

/-- A register from its elements: active ones computed, inactive ones kept or zeroed. -/
def lanes (px : Px) (t : Thread) (w : Nat) (old : BitVec 2048) (sr : Bool) (f : Nat → Nat × Nat) : VRes :=
  let r := (List.range (2048 / w)).foldl (fun (a : Nat × Nat × Bool) j =>
    if active px t w j then
      let x := f j
      (a.1 + x.1 % 2 ^ w * 2 ^ (w * j), a.2.1 ||| x.2, true)
    else (a.1 + (if px.z = 1 then 0 else elem w old j) * 2 ^ (w * j), a.2.1, a.2.2)) (0, 0, false)
  { val := BitVec.ofNat 2048 r.1, flags := r.2.1, sr := sr && r.2.2 }

/-- The effective rounding mode (R66). -/
def effRm (px : Px) (t : Thread) : Nat := if px.rm = 7 then t.frm.toNat % 8 else px.rm.toNat

/-- The noise of a stochastically rounded element (R69). -/
def noiseOf (t : Thread) (rm e : Nat) : Nat := if rm = 5 then srNoise t.srkey t.srctr e else 0

/-- Flags accumulate, and `SRCTR`'s step word counts an instruction that rounded stochastically (R69, R74). -/
def Thread.note (t : Thread) (flags : Nat) (sr : Bool) : Thread :=
  { t with
    fflags := t.fflags ||| BitVec.ofNat 64 (flags % 32)
    srctr := if sr then (t.srctr.extractLsb' 32 32 + 1) ++ t.srctr.extractLsb' 0 32 else t.srctr }

/-! ### Element computations -/

/-- An element as a signed number. -/
def sgn (w x : Nat) : Int := (BitVec.ofNat w x).toInt

/-- An integer reduced modulo 2^w. -/
def wrapTo (w : Nat) (x : Int) : Nat := (BitVec.ofInt w x).toNat

/-- The members of VOP and VOPS by their number (R177). -/
inductive VKind
  | add | sub | mul | mulh | min | max | minu | maxu | and | or | xor | shl | shr | sra | fma | abs | neg | minn | maxn
  deriving DecidableEq, Repr

/-- An integer element (R177, R178): `a`, `b`, and the addend `c` of VFMA. -/
def intOp (k : VKind) (w a b c : Nat) : Nat :=
  match k with
  | .add => wrapTo w (sgn w a + sgn w b)
  | .sub => wrapTo w (sgn w a - sgn w b)
  | .mul => wrapTo w (sgn w a * sgn w b)
  | .mulh => wrapTo w (sgn w a * sgn w b / 2 ^ w)
  | .min => if sgn w b < sgn w a then b else a
  | .max => if sgn w a < sgn w b then b else a
  | .minu => Nat.min a b
  | .maxu => Nat.max a b
  | .and => a &&& b
  | .or => a ||| b
  | .xor => a ^^^ b
  | .shl => a * 2 ^ (b % w) % 2 ^ w
  | .shr => a / 2 ^ (b % w)
  | .sra => wrapTo w (sgn w a / 2 ^ (b % w))
  | .fma => wrapTo w (sgn w a * sgn w b + sgn w c)
  | .abs => wrapTo w (if sgn w a < 0 then -sgn w a else sgn w a)
  | .neg => wrapTo w (-sgn w a)
  | .minn => if sgn w b < sgn w a then b else a
  | .maxn => if sgn w a < sgn w b then b else a

/-- An exact result rounded into a format, with the flags found before. -/
def roundFm (f : Fm) (rm noise : Nat) (x : Exact × Nat) : Nat × Nat :=
  let r := f.round rm noise x.1
  (r.1, r.2 ||| x.2)

/-- The smaller or larger of two elements (R72). -/
def minMaxFm (f : Fm) (isMax propagate : Bool) (a b : Nat) : Nat × Nat :=
  let r := pickMinMax isMax propagate (f.value a) (f.value b)
  match r.1 with
  | none => (f.nan.1, r.2)
  | some true => (b % 2 ^ f.width, r.2)
  | some false => (a % 2 ^ f.width, r.2)

/-- The sign bit of an element cleared or flipped, where its format has one beside a magnitude; else the exact absolute
value or negation, converted (R178). -/
def signOp (f : Fm) (flip : Bool) (a : Nat) : Nat × Nat :=
  let n := f.width - 1
  if f.ieee || (f.sign && f.e != 0) then
    let x := a % 2 ^ (n + 1)
    (if flip then x ^^^ 2 ^ n else x % 2 ^ n, 0)
  else
    let v := f.value a
    if v.isNan then (a % 2 ^ f.width, 0)
    else if !f.sign && !flip then (a % 2 ^ f.width, 0)
    else f.round 0 0 (if flip || v.isNeg then v.negate else v).exact

/-- A floating-point or nf element (R177, R178). -/
def fltOp (k : VKind) (f : Fm) (rm noise a b c : Nat) : Nat × Nat :=
  let x := f.value a
  let y := f.value b
  match k with
  | .add => roundFm f rm noise (exactSum [x, y])
  | .sub => roundFm f rm noise (exactSum [x, y.negate])
  | .mul => let p := exactMul x y; roundFm f rm noise (p.1.exact, p.2)
  | .fma => roundFm f rm noise (exactFma x y (f.value c))
  | .min => minMaxFm f false false a b
  | .max => minMaxFm f true false a b
  | .minn => minMaxFm f false true a b
  | .maxn => minMaxFm f true true a b
  | .abs => signOp f false a
  | .neg => signOp f true a
  | .and => (a &&& b, 0)
  | .or => (a ||| b, 0)
  | .xor => (a ^^^ b, 0)
  | _ => (intOp k f.container a b c, 0)

/-- A member that rounds (R174). -/
def VKind.rounds : VKind → Bool
  | .add | .sub | .mul | .fma => true
  | _ => false

/-- One element of a VOP member. -/
def vElem (k : VKind) (y : Ty) (t : Thread) (rm j a b c : Nat) : Nat × Nat :=
  match y.fm with
  | none => (intOp k y.w a b c, 0)
  | some f => fltOp k f rm (if k.rounds then noiseOf t rm j else 0) a b c

/-! ### Shared forms -/

/-- The registers an instruction reads because a mask leaves elements of its destination in place (R175). -/
def mergeReads (px : Px) (d : BitVec 5) : List Nat := if px.k != 0 && px.z = 0 then [d.toNat] else []

/-- A vector member: a destination bound to a load stream is refused, the named registers are read and popped, the result
is written and pushed (R175). `f` sees the thread, the registers, and gives the result. -/
def vectorMember (px : Px) (i : Instr) (d : BitVec 5) (reads : List Nat) (s : State)
    (f : Thread → State → Tab (BitVec 2048) → Except Stop VRes) : Host.Outcome State Fault Refusal :=
  issueP px i s fun t s =>
    if isLoadBound s d.toNat then .error (loadBoundFault i)
    else match readVectors s (reads ++ mergeReads px d) with
      | .error e => .error e
      | .ok (s, vs) =>
        match f t s vs with
        | .error e => .error e
        | .ok r =>
          match writeVector (s.setMe (s.me.note r.flags r.sr)) d.toNat r.val with
          | .error e => .error e
          | .ok s => .ok (s, .next)

/-- A register among those read. -/
def regOf (vs : Tab (BitVec 2048)) (r : BitVec 5) : BitVec 2048 := vs.get 0 r.toNat

/-- The addend register of VFMA: VC under UC, else the destination (R177). -/
def addendReg (px : Px) (d : BitVec 5) : BitVec 5 := if px.uc = 1 then px.vc else d

/-- VOP: two vector registers, an addend for VFMA (R177). -/
def vop (px : Px) (k : VKind) (i : Instr) (d a b : BitVec 5) (y : BitVec 3) (s : State) :
    Host.Outcome State Fault Refusal :=
  let c := addendReg px d
  vectorMember px i d ([a.toNat, b.toNat] ++ if k = .fma then [c.toNat] else []) s fun t s vs =>
    let ty := tyOf s t y
    let rm := effRm px t
    .ok (lanes px t ty.w (regOf vs d) (ty.fm.isSome && k.rounds && rm == 5) fun j =>
      vElem k ty t rm j (elem ty.w (regOf vs a) j) (elem ty.w (regOf vs b) j) (elem ty.w (regOf vs c) j))

/-- VOP of one register. -/
def vop1 (px : Px) (k : VKind) (i : Instr) (d a : BitVec 5) (y : BitVec 3) (s : State) :
    Host.Outcome State Fault Refusal :=
  vectorMember px i d [a.toNat] s fun t s vs =>
    let ty := tyOf s t y
    .ok (lanes px t ty.w (regOf vs d) false fun j => vElem k ty t 0 j (elem ty.w (regOf vs a) j) 0 0)

/-- VOPS: the second operand is a scalar in every lane (R177). -/
def vops (px : Px) (k : VKind) (i : Instr) (d a b : BitVec 5) (y : BitVec 3) (s : State) :
    Host.Outcome State Fault Refusal :=
  let c := addendReg px d
  vectorMember px i d ([a.toNat] ++ if k = .fma then [c.toNat] else []) s fun t s vs =>
    let ty := tyOf s t y
    let rm := effRm px t
    let x := (t.s b.toNat).toNat % 2 ^ ty.w
    .ok (lanes px t ty.w (regOf vs d) (ty.fm.isSome && k.rounds && rm == 5) fun j =>
      vElem k ty t rm j (elem ty.w (regOf vs a) j) x (elem ty.w (regOf vs c) j))

/-! ### Compares (R179, R180) -/

/-- A condition on two elements, with its flags: 0 EQ, 1 NE, 2 LT, 3 LE, 4 LTU, 5 LEU, 6 UNORD. -/
def vCond (c : Nat) (y : Ty) (a b : Nat) : Bool × Nat :=
  match y.fm with
  | none =>
    (match c with
     | 0 => a == b
     | 1 => a != b
     | 2 => decide (sgn y.w a < sgn y.w b)
     | 3 => decide (sgn y.w a ≤ sgn y.w b)
     | 4 => decide (a < b)
     | _ => decide (a ≤ b), 0)
  | some f =>
    let x := f.value a
    let z := f.value b
    let nan := x.isNan || z.isNan
    let r := match c with
      | 0 => x.eq z
      | 1 => !x.eq z
      | 2 => x.lt z
      | 3 => x.lt z || x.eq z
      | _ => nan
    (r, if x.sig || z.sig || (nan && (c == 2 || c == 3)) then 1 else 0)

/-- VCMP: one mask bit for each word lane, from all or any of its elements. -/
def vcmp (px : Px) (i : Instr) (k : BitVec 3) (a b : BitVec 5) (y : BitVec 3) (n : BitVec 1) (c : BitVec 5) (s : State) :
    Host.Outcome State Fault Refusal :=
  issueP px i s fun t s =>
    match readVectors s [a.toNat, b.toNat] with
    | .error e => .error e
    | .ok (s, vs) =>
      let ty := tyOf s t y
      let per := 32 / ty.w
      let r := (List.range 64).foldl (fun (acc : Nat × Nat) j =>
        if px.k == 0 || (t.k px.k.toNat).getLsbD j then
          let rs := (List.range per).map fun e =>
            vCond c.toNat ty (elem ty.w (regOf vs a) (j * per + e)) (elem ty.w (regOf vs b) (j * per + e))
          let hit := if n = 1 then rs.any fun x => x.1 else rs.all fun x => x.1
          (acc.1 + (if hit then 2 ^ j else 0), rs.foldl (fun f x => f ||| x.2) acc.2)
        else (acc.1 + (if px.z = 0 && (t.k k.toNat).getLsbD j then 2 ^ j else 0), acc.2)) (0, 0)
      .ok (s.setMe ((s.me.note r.2 false).setK k.toNat (BitVec.ofNat 64 r.1)), .next)

/-! ### Reductions (R182, R183) -/

/-- The active elements of a register with their indices. -/
def activeElems (px : Px) (t : Thread) (w : Nat) (v : BitVec 2048) : List (Nat × Nat) :=
  ((List.range (2048 / w)).filter (active px t w)).map fun j => (j, elem w v j)

/-- A value as FP32: exactly, or rounded to nearest even where it lies beyond (R182). -/
def toF32 (x : FVal) : Nat := (fmF32.round 0 0 x.exact).1

/-- The winner among numbers, the first of equals. -/
def bestOf (isMax : Bool) (xs : List (Nat × FVal)) : Option (Nat × FVal) :=
  xs.foldl (fun best x =>
    if x.2.isNan then best
    else match best with
      | none => some x
      | some b => if (if isMax then b.2.below x.2 else x.2.below b.2) then some x else best) none

/-- The winner among integers, the first of equals. -/
def bestInt (isMax : Bool) (xs : List (Nat × Int)) : Option (Nat × Int) :=
  xs.foldl (fun best x =>
    match best with
    | none => some x
    | some b => if (if isMax then b.2 < x.2 else x.2 < b.2) then some x else best) none

/-- The flags of reading values: invalid for a signalling NaN. -/
def readFlags (xs : List (Nat × FVal)) : Nat := if xs.any fun x => x.2.sig then 1 else 0

/-- The sum of active elements (R182): the word, the flags, whether it was rounded stochastically. -/
def reduceSum (y : Ty) (t : Thread) (rm : Nat) (xs : List (Nat × Nat)) : Word × Nat × Bool :=
  match y.fm with
  | none => (BitVec.ofInt 64 (xs.foldl (fun a x => a + sgn y.w x.2) 0), 0, false)
  | some f =>
    if xs.isEmpty then (0, 0, false)
    else
      let e := exactSum (xs.map fun x => f.value x.2)
      let r := roundFm fmF32 rm (noiseOf t rm 0) e
      (BitVec.ofNat 64 r.1, r.2, rm == 5)

/-- The largest or smallest of active elements (R182). -/
def reduceBest (isMax : Bool) (y : Ty) (xs : List (Nat × Nat)) : Word × Nat :=
  match y.fm with
  | none => (match bestInt isMax (xs.map fun x => (x.1, sgn y.w x.2)) with
    | some b => BitVec.ofInt 64 b.2
    | none => 0, 0)
  | some f =>
    let vs := xs.map fun x => (x.1, f.value x.2)
    (match bestOf isMax vs with
     | some b => BitVec.ofNat 64 (toF32 b.2)
     | none => 0x7FC00000, readFlags vs)

/-- The largest or smallest with its index (R183). -/
def reduceIndex (isMax : Bool) (y : Ty) (base : BitVec 32) (xs : List (Nat × Nat)) : Word × Nat :=
  let word (j : Nat) (v : BitVec 32) : Word := (BitVec.ofNat 32 j + base) ++ v
  match y.fm with
  | none => (match bestInt isMax (xs.map fun x => (x.1, sgn y.w x.2)) with
    | some b => word b.1 (BitVec.ofInt 32 b.2)
    | none => 0xFFFFFFFF7FC00000, 0)
  | some f =>
    let vs := xs.map fun x => (x.1, f.value x.2)
    (match bestOf isMax vs with
     | some b => word b.1 (BitVec.ofNat 32 (toF32 b.2))
     | none => 0xFFFFFFFF7FC00000, readFlags vs)

/-- A reduction: the scalar destination is held for eight cycles (R176). -/
def vred (px : Px) (i : Instr) (d a : BitVec 5) (y : BitVec 3) (s : State)
    (f : Thread → Ty → List (Nat × Nat) → Word × Nat × Bool) : Host.Outcome State Fault Refusal :=
  issueP px i s fun t s =>
    match readVectors s [a.toNat] with
    | .error e => .error e
    | .ok (s, vs) =>
      let ty := tyOf s t y
      let r := f t ty (activeElems px t ty.w (regOf vs a))
      .ok (holdS (s.setMe (s.me.note r.2.1 r.2.2)) d.toNat r.1 (some (s.cycle + 8)), .next)

/-- The prefix sums of VSCAN (R182): element j from the active elements up to it. -/
def scanElem (y : Ty) (t : Thread) (rm : Nat) (xs : List (Nat × Nat)) (j : Nat) : Nat × Nat :=
  let upto := xs.filter fun x => x.1 ≤ j
  match y.fm with
  | none => (wrapTo y.w (upto.foldl (fun a x => a + sgn y.w x.2) 0), 0)
  | some f => roundFm f rm (noiseOf t rm j) (exactSum (upto.map fun x => f.value x.2))

/-- A vector result that is held (R176). A destination bound to a store stream is held as well; its push follows program
order, at issue (R175). -/
def writeHeldVector (s : State) (d : BitVec 5) (v : BitVec 2048) (due : Option Nat) : Except Stop (State × Act) :=
  match (if isBound s d.toNat then writeVector s d.toNat v else .ok s) with
  | .error e => .error e
  | .ok s1 =>
    match holdV s1 d.toNat v due with
    | .error e => .error e
    | .ok s2 => .ok (s2, .next)

/-- VSCAN (R176, R182). -/
def vscan (px : Px) (i : Instr) (d a : BitVec 5) (y : BitVec 3) (s : State) : Host.Outcome State Fault Refusal :=
  issueP px i s fun t s =>
    if isLoadBound s d.toNat then .error (loadBoundFault i)
    else match readVectors s (a.toNat :: mergeReads px d) with
      | .error e => .error e
      | .ok (s, vs) =>
        let ty := tyOf s t y
        let rm := effRm px t
        let xs := activeElems px t ty.w (regOf vs a)
        let r := lanes px t ty.w (regOf vs d) (ty.fm.isSome && rm == 5) (scanElem ty t rm xs)
        writeHeldVector (s.setMe (s.me.note r.flags r.sr)) d r.val (some (s.cycle + 8))

/-! ### Conversions (R184, R185) -/

/-- One element converted from a value (R184): the exact value, whether it was a signalling NaN. -/
def convert (dst : Ty) (rm noise : Nat) (x : Exact) (flags : Nat) : Nat × Nat :=
  match dst.fm with
  | some f => roundFm f rm noise (x, flags)
  | none => let r := roundInt dst.w rm noise x; (r.1, r.2 ||| flags)

/-- An integer saturated to a signed width. -/
def saturate (w : Nat) (x : Int) : Nat :=
  let top : Int := 2 ^ (w - 1)
  wrapTo w (if x < -top then -top else if top - 1 < x then top - 1 else x)

/-- The source value of a conversion: an integer or a number with its block's scale. -/
def sourceValue (src : Ty) (scale : FVal) (scaled : Bool) (x : Nat) : FVal × Nat :=
  match src.fm with
  | none => let v := sgn src.w x; (.fin (v < 0) v.natAbs 0, 0)
  | some f =>
    let v := f.value x
    let fl := if v.sig then 1 else 0
    if !scaled then (v, fl)
    else if scale.isNan || scale.isInf then (.nan false, 1)
    else ((exactMul v scale).1, fl)

/-- The scale of block b in a register of scales. -/
def scaleAt (bsf : Nat) (v : BitVec 2048) (b : Nat) : FVal :=
  let n := scaleBytes bsf
  scaleValue bsf (elem (8 * n) v b)

/-- The members of VCVT's family. -/
inductive Conv
  | cvt | pack | unpk
  deriving DecidableEq, Repr

/-- A member that scales an nf source, one that derives the scales of an nf destination (R185). -/
def Conv.scalesSrc (m : Conv) : Bool := m != .pack
def Conv.scalesDst (m : Conv) : Bool := m != .unpk

/-- A conversion of a register: `from'` gives the source element of a destination element, where the conversion writes it.
The register of scales is read before anything is written, and given new scales for the blocks of an nf destination. -/
def convertAll (px : Px) (t : Thread) (m : Conv) (desc : Word) (src dst : Ty) (nfSrc nfDst : Bool)
    (a old vc : BitVec 2048) (rm : Nat) (lo n : Nat) (from' : Nat → Nat) : VRes × BitVec 2048 :=
  let bsf := bsfOf desc
  let bsz := bszOf desc
  let scaledSrc := nfSrc && m.scalesSrc && bsf != 0 && px.uc == 1
  let scaledDst := nfDst && m.scalesDst && bsf != 0 && px.uc == 1
  let inside (j : Nat) : Bool := lo ≤ j && j < lo + n
  let value (j : Nat) : FVal × Nat :=
    let k := from' j
    sourceValue src (scaleAt bsf vc (k / bsz)) scaledSrc (elem src.w a k)
  let f : Fm := dst.fm.getD fmF32
  let block (b : Nat) : Nat :=
    deriveScale bsf f ((((List.range bsz).map (b * bsz + ·)).filter fun j =>
      inside j && active px t dst.w j).map fun j => (value j).1)
  let blocks := (List.range (dst.count / bsz)).filter fun b => lo < (b + 1) * bsz && b * bsz < lo + n
  let scales : Tab Nat := if scaledDst then blocks.map fun b => (b, block b) else []
  let ints := src.fm.isNone && dst.fm.isNone
  let one (j : Nat) : Nat × Nat :=
    let v := value j
    if ints then (saturate dst.w (sgn src.w (elem src.w a (from' j))), 0)
    else
      let x := if scaledDst then exactDiv v.1 (scaleValue bsf (scales.get 0 (j / bsz))) else v.1.exact
      convert dst rm (noiseOf t rm j) x v.2
  let r := (List.range dst.count).foldl (fun (acc : Nat × Nat × Bool) j =>
    let keep := elem dst.w old j * 2 ^ (dst.w * j)
    if !inside j then (acc.1 + keep, acc.2)
    else if active px t dst.w j then
      let x := one j
      (acc.1 + x.1 % 2 ^ dst.w * 2 ^ (dst.w * j), acc.2.1 ||| x.2, true)
    else (acc.1 + (if px.z = 1 then 0 else keep), acc.2)) (0, 0, false)
  let sb := 8 * scaleBytes bsf
  let vc' := if !scaledDst then vc
    else BitVec.ofNat 2048 ((List.range (2048 / sb)).foldl (fun acc b =>
      let v := if scales.has b then scales.get 0 b else if m = .cvt then 0 else elem sb vc b
      acc + v % 2 ^ sb * 2 ^ (sb * b)) 0)
  ({ val := BitVec.ofNat 2048 r.1, flags := r.2.1, sr := rm == 5 && r.2.2 && !ints }, vc')

/-- The type code nf. -/
def isNf (y : BitVec 3) : Bool := y == 7

/-- A conversion member (R184, R185). VPACK keeps what lies outside its part; the parts condition is checked by the caller's
`part`, which gives the first destination element, how many, and the source of each. Where VC is VD, the one register takes the
elements, and a stream that it is bound to one register-load; the manual does not say which of the two it holds. DESIGN CHOICE,
log 80. -/
def vconv (px : Px) (m : Conv) (i : Instr) (d a : BitVec 5) (src dst : BitVec 3) (s : State)
    (part : Ty → Ty → Nat → Option (Nat × Nat × (Nat → Nat))) : Host.Outcome State Fault Refusal :=
  issueP px i s fun t s =>
    let ys := tyOf s t src
    let yd := tyOf s t dst
    let desc := nfDesc s t
    let scaled := bsfOf desc != 0 && px.uc == 1
    let readsVc := scaled && (isNf src && m.scalesSrc || isNf dst && m.scalesDst)
    let writesVc := scaled && isNf dst && m.scalesDst
    match part ys yd (if writesVc then bszOf desc else 0) with
    | none => .error (.cause 0x02 ((encodeWord i).setWidth 64))
    | some (lo, n, from') =>
      if isLoadBound s d.toNat || (writesVc && isLoadBound s px.vc.toNat) then .error (loadBoundFault i)
      else
        let reads := [a.toNat] ++ (if m = .pack then [d.toNat] else mergeReads px d) ++
          (if readsVc then [px.vc.toNat] else [])
        match readVectors s reads with
        | .error e => .error e
        | .ok (s, vs) =>
          let r := convertAll px t m desc ys yd (isNf src) (isNf dst) (regOf vs a) (regOf vs d) (regOf vs px.vc)
            (effRm px t) lo n from'
          let s1 := s.setMe (s.me.note r.1.flags r.1.sr)
          match (if writesVc && px.vc != d then writeVector s1 px.vc.toNat r.2 else .ok s1) with
          | .error e => .error e
          | .ok s2 =>
            match writeVector s2 d.toNat r.1.val with
            | .error e => .error e
            | .ok s3 => .ok (s3, .next)

/-! ### Vector memory (R186–R188) -/

/-- Bytes of the units that a type's elements are accessed by, and their number: 4-bit containers go by their bytes. -/
def unitBytes (y : Ty) : Nat := if y.w < 8 then 1 else y.w / 8

/-- The checked places of the active units of a wide access, in ascending order (R186). -/
def unitPlaces (s : State) (t : Thread) (c : Cap) (size : Nat) (perm : BitVec 8) (need : Need) :
    List (Nat × Int) → Except Stop (List (Nat × Place))
  | [] => .ok []
  | (j, addr) :: us =>
    match memCheck s s.cur t c addr size size perm need with
    | .error e => .error e
    | .ok pl =>
      match unitPlaces s t c size perm need us with
      | .error e => .error e
      | .ok ps => .ok ((j, pl) :: ps)

/-- What a wide load finds performed: each of its units is a load of its own (R78, R94, R188). -/
def settleAll (s : State) (acquire : Bool) (pls : List Place) (size : Nat) : State :=
  pls.foldl (fun s pl => (settleFor s s.myPath acquire pl size).reachAt pl) s

/-- A wide load: the destination is held until its data returns (R176), the inactive units keep their value or are zero,
and elements at or above `limit` read zero. -/
def vectorLoad (px : Px) (i : Instr) (d : BitVec 5) (c : BitVec 4) (reads : List Nat) (hint : Bool) (y : BitVec 3)
    (limit : Nat) (s : State) (addr : Thread → Tab (BitVec 2048) → Nat → Int) : Host.Outcome State Fault Refusal :=
  issueP px i s fun t s =>
    let ty := tyOf s t y
    let size := unitBytes ty
    let w := 8 * size
    let cap := t.c c.toNat
    if isLoadBound s d.toNat then .error (loadBoundFault i)
    else if 8 ≤ t.dataHolds || t.loadsStall then .error .stall
    else match readVectors s (reads ++ mergeReads px d) with
      | .error e => .error e
      | .ok (s, vs) =>
        let js := (List.range (min limit (256 / size))).filter (active px t w)
        match unitPlaces s t cap size permR { r := true } (js.map fun j => (j, addr t vs j)) with
        | .error e => .error e
        | .ok ps =>
          let s1 := settleAll s (strengthened t cap) (ps.map fun p => p.2) size
          let got : Tab Nat := ps.map fun p => (p.1, s1.hintNat s1.cur.core hint p.2 size)
          let v := (List.range (256 / size)).foldl (fun acc j =>
            let x := if limit ≤ j then 0 else if got.has j then got.get 0 j
              else if px.z = 1 then 0 else elem w (regOf vs d) j
            acc + x * 2 ^ (w * j)) 0
          let s2 := if hint then ps.foldl (fun s p => leaveReplica s t cap p.2) s1 else s1
          writeHeldVector s2 d (BitVec.ofNat 2048 v) none

/-- A wide store of the active units. -/
def vectorStore (px : Px) (i : Instr) (d : BitVec 5) (c : BitVec 4) (reads : List Nat) (y : BitVec 3) (limit : Nat)
    (s : State) (addr : Thread → Tab (BitVec 2048) → Nat → Int) : Host.Outcome State Fault Refusal :=
  issueP px i s fun t s =>
    let ty := tyOf s t y
    let size := unitBytes ty
    let w := 8 * size
    match readVectors s (d.toNat :: reads) with
    | .error e => .error e
    | .ok (s, vs) =>
      let js := (List.range (min limit (256 / size))).filter (active px t w)
      match unitPlaces s t (t.c c.toNat) size permW { w := true } (js.map fun j => (j, addr t vs j)) with
      | .error e => .error e
      | .ok ps =>
        let s1 := (ps.map fun p => p.2).foldl State.reachAt
          (if strengthened t (t.c c.toNat) then drain s s.myPath else s)
        let pieces := ps.map fun p =>
          storeAt s.cur t p.2 size (BitVec.ofNat 1024 (elem w (regOf vs d) p.1)) false
        .ok (pushWide s1 s1.myPath pieces, .next)

/-- The address of unit j of a contiguous access: bytes in register order (R186). -/
def rowAddr (t : Thread) (c : BitVec 4) (a : BitVec 5) (o : BitVec 6) (size j : Nat) : Int :=
  (t.c c.toNat).base + (t.s a.toNat).toNat + o.toInt * 256 + j * size

/-- The address of element j of a strided access. -/
def strideAddr (t : Thread) (c : BitVec 4) (a r : BitVec 5) (j : Nat) : Int :=
  (t.c c.toNat).base + (t.s a.toNat).toNat + j * (t.s r.toNat).toInt

/-- The address of element j of a gather or scatter (R187). -/
def gatherAddr (t : Thread) (c : BitVec 4) (offs : BitVec 2048) (j : Nat) : Int :=
  (t.c c.toNat).base + elem 32 offs j

/-- The size of the units of a type code, as its address needs it. -/
def unitOf (s : State) (y : BitVec 3) : Nat := unitBytes (tyOf s s.me y)

/-- A strided access of 4-bit containers is a reserved encoding (R186). -/
def stridedOk (s : State) (y : BitVec 3) : Bool := 8 ≤ (tyOf s s.me y).w

/-! ### Special functions (R189, R190) -/

/-- The running load stream that a read of a register of the issuing slot pops, and its position. -/
def poppedOf (s : State) (r : Nat) : Option (Nat × Nat) :=
  let c := s.core s.cur.core
  match streamFor c s.cur.slot r with
  | some n => if !(c.stream n).store && (c.stream n).state == .running then some (n, (c.stream n).pos) else none
  | none => none

/-- A request enters the cluster's queue, and the thread parks; a full queue stalls it. -/
def sfuMember (px : Px) (fn : Nat) (i : Instr) (d a : BitVec 5) (y : BitVec 3) (s : State) :
    Host.Outcome State Fault Refusal :=
  issueP px i s fun t s =>
    let k := clusterOf s.cur.core
    if isLoadBound s d.toNat then .error (loadBoundFault i)
    else if 32 ≤ (s.cluster k).sfu.length then .error .stall
    else match readVectors s [a.toNat] with
      | .error e => .error e
      | .ok (s', vs) =>
        let popped := poppedOf s a.toNat
        let s := s'
        let rm := effRm px t
        let req : SfuReq :=
          { loc := s.cur, gen := (s.slot s.cur).gen, fn, typ := y, rm := if rm = 5 then 0 else rm, dest := d.toNat
            zero := px.z == 1, active := if px.k = 0 then 0xFFFFFFFFFFFFFFFF else t.k px.k.toNat, src := regOf vs a
            len := px.len, popped }
        let cl := s.cluster k
        .ok (waitFor (s.setCluster k { cl with sfu := cl.sfu ++ [req] }) .sfu, .stay)

/-- The format of an SFU type code. -/
def sfuFm (y : BitVec 3) : Fm := if y = 4 then fmBf16 else if y = 5 then fmF16 else fmF32

/-- The result of a request over the destination's present contents. -/
def sfuResult (q : SfuReq) (old : BitVec 2048) : BitVec 2048 × Nat :=
  let f := sfuFm q.typ
  let w := f.width
  let r := (List.range (2048 / w)).foldl (fun (acc : Nat × Nat) j =>
    if q.active.getLsbD (w * j / 32) then
      let x := sfu f q.fn q.typ.toNat q.rm (elem w q.src j)
      (acc.1 + x.1 % 2 ^ w * 2 ^ (w * j), acc.2 ||| x.2)
    else (acc.1 + (if q.zero then 0 else elem w old j) * 2 ^ (w * j), acc.2)) (0, 0)
  (BitVec.ofNat 2048 r.1, r.2)

end Sys2Proof.Machine
end

