-- ==== Sys2Proof/Machine/Threads.lean ====
section
/-!
DEFINITION. Majors 0x1E and 0x1F: threads and messages, and the placement of a thread in a slot (R8–R15, R19, R27,
R151–R160).
-/

namespace Sys2Proof.Machine

/-! ### Placing threads -/

/-- Places a thread in a slot: the generation counts it, the wake-pending bit is clear (R19, R25), and a new thread takes a
number of its own. -/
def placeIn (s : State) (l : Loc) (t : Thread) : State :=
  let sl := s.slot l
  let number := if t.number = 0 then s.born else t.number
  { s.setSlot l { sl with gen := sl.gen + 1, thread := some { t with number, wake := false, retired := s.now } } with
    born := s.born + 1 }

/-- The lowest free pool slot of a core (R8, R13). -/
def freePool (s : State) (id : Nat) : Option Nat :=
  (List.range 16).find? fun n => n != 0 && (s.thread? { core := id, slot := n }).isNone

/-- Live helpers that count toward the limit of a core (R11, R159). -/
def liveHelpers (s : State) (id : Nat) : Nat :=
  ((List.range 16).filter fun n => ((s.thread? { core := id, slot := n }).any fun t => t.counted)).length

/-- Free vector registers of a core's pool of 64 (R27). -/
def freeVectors (s : State) (id : Nat) : Nat :=
  64 - (List.range 16).foldl (fun a n => a + (s.thread { core := id, slot := n }).vallot) 0

/-- A helper as START makes it from its starter (R9, R152). -/
def helperOf (t : Thread) (handle entry arg : Word) (reg : Nat) : Thread :=
  { kind := .helper, counted := true, token := some (handle, reg), pc := entry, regs := [(1, arg)], caps := t.caps
    cap15m := t.cap15m, rid := t.rid, rcb := t.rcb, asid := t.asid, launch := t.launch, crewId := t.crewId
    crewCnt := t.crewCnt, mmrev := t.mmrev, priv := t.priv, inmon := t.priv == 2 }

/-- The first arrival that a core holds lacks a pool slot only, not vector registers: it takes the next slot that is free (R11,
R13). -/
def slotWanted (s : State) (id : Nat) : Bool :=
  match (s.core id).held with
  | [] => false
  | d :: _ =>
    match d.body with
    | .thread t _ => t.vallot ≤ freeVectors s id
    | _ => true

/-- A core can take a helper: fewer than ten are live, a pool slot is free, and no arrival takes it (R11). -/
def helperRoom (s : State) (id : Nat) : Option Nat :=
  if liveHelpers s id < 10 && !slotWanted s id then freePool s id else none

/-! ### THR -/

/-- START (R11, R152): the helper is placed, or the starter parks behind the earlier ones. -/
def execStart (d a b : BitVec 5) (s : State) : Host.Outcome State Fault Refusal :=
  issue (.start d a b) s fun t s =>
    let id := s.cur.core
    let entry := BitVec.ofNat 64 (t.c 0).base + t.s a.toNat
    let arg := t.s b.toNat
    if entry.toNat % 4 != 0 then .error (.cause 0x07 entry)
    else
      let s1 := claimMe s d
      match (if (s.core id).startq.isEmpty then helperRoom s id else none) with
      | some n =>
        .ok (placeIn s1 { core := id, slot := n } (helperOf t (s.handleOf s.cur) entry arg d.toNat), .next)
      | none =>
        let c := s1.core id
        .ok (waitFor (s1.setCore id { c with startq := c.startq ++ [s.cur.slot] }) (.start entry arg d.toNat), .stay)

/-- Every claim and hold of the thread has ended (R23). -/
def Thread.settled (t : Thread) : Bool := t.claimed == 0 && t.holds.isEmpty

/-- RETIRE (R153): a helper's `s1` leaves for its starter's token register. Every claim has ended then; where `s1` is empty all the
same, its stored value leaves without a wait, since the manual has RETIRE wait for claims and holds and names no read of `s1`
that could stall. DESIGN CHOICE, log 81. -/
def execRetire (s : State) : Host.Outcome State Fault Refusal :=
  issue .retire s fun t s =>
    if !t.settled then .error .stall
    else .ok (endThread (drain s s.myPath) s.cur (t.s 1), .gone)

/-- YIELD (R154): the slot is not eligible in the next 16 cycles. -/
def execYield (s : State) : Host.Outcome State Fault Refusal :=
  issue .yield s fun t s => .ok (s.setMe { t with nextIssue := s.cycle + 17 }, .next)

/-- THID (R18, R154). -/
def execThid (d : BitVec 5) (s : State) : Host.Outcome State Fault Refusal :=
  issue (.thid d) s fun _ s => write1 s d (s.handleOf s.cur)

/-- VGROW (R27, R155): new registers read zero. -/
def execVgrow (n : BitVec 6) (s : State) : Host.Outcome State Fault Refusal :=
  issue (.vgrow n) s fun t s =>
    let id := s.cur.core
    let k := n.toNat
    if k = 0 then .ok (s, .next)
    else if 32 < t.vallot + k then .error (.cause 0x03 ((encodeWord (.vgrow n)).setWidth 64))
    else
      let c := s.core id
      if c.vgrowq.isEmpty && k ≤ freeVectors s id then .ok (s.setMe { t with vallot := t.vallot + k }, .next)
      else .ok (waitFor (s.setCore id { c with vgrowq := c.vgrowq ++ [s.cur.slot] }) (.vgrow k), .stay)

/-- VSHRINK (R27, R155): the released registers lose their contents and their streams. -/
def execVshrink (n : BitVec 6) (s : State) : Host.Outcome State Fault Refusal :=
  issue (.vshrink n) s fun t s =>
    let k := n.toNat
    if k = 0 then .ok (s, .next)
    else if t.vallot < k then .error (.cause 0x03 ((encodeWord (.vshrink n)).setWidth 64))
    else if t.holds.any fun h => h.vector && t.vallot - k ≤ h.reg then .error .stall
    else
      let m := t.vallot - k
      let s1 := s.setMe { t with vallot := m, vregs := t.vregs.filter fun e => e.1 < m }
      .ok (s1.setCore s.cur.core ((s1.core s.cur.core).unbind s.cur.slot fun r => m ≤ r), .next)

/-- A member that a pending wake completes, and that parks without one (R25, R156, R321). -/
def sleep (i : Instr) (w : Wait) (s : State) : Host.Outcome State Fault Refusal :=
  issue i s fun t s =>
    if t.wake then .ok (s.setMe { t with wake := false }, .next) else .ok (waitFor s w, .stay)

/-- PARK (R25, R156). -/
def execPark (s : State) : Host.Outcome State Fault Refusal := sleep .park .park s

/-! ### MSG -/

/-- The region a sender's undeliverable messages count in: a pair's are the root region's. -/
def senderRcb (s : State) (t : Thread) : Nat := if isPair s.cur.core then s.rootRcb else t.rcb

/-- The core that a word names in the layout of a thread handle, if it exists (R18, R158). -/
def namedCore (h : Word) : Option Nat :=
  let die := bitsOf h 30 27
  if 12 ≤ die then none else some (die * 128 + bitsOf h 26 22 * 4 + bitsOf h 21 20)

/-- Messages and system-call events of a core under way (R158, R319). -/
def outbound (s : State) (id : Nat) : Nat :=
  (s.net.filter fun d => d.src.core == id && match d.body with
    | .message _ _ => true
    | .event 0 _ _ _ _ _ => true
    | _ => false).length

/-- A core that a message of a launch can reach: present, with a crew on its cluster or a saved crew of that launch (R16, R158,
R346). -/
def reachable (s : State) (h launch : Word) : Option Nat :=
  match namedCore h with
  | some id =>
    if s.mappedOut id then none
    else if (s.cluster (clusterOf id)).crew.isSome || (s.core id).spills.any fun x => x.draining && x.launch == launch
    then some id
    else none
  | none => none

/-- SEND (R158). One to a core that no message reaches is discarded whether or not the outbound queue is full: the manual does
not order the two. DESIGN CHOICE, log 80. -/
def execSend (a b : BitVec 5) (n : BitVec 4) (s : State) : Host.Outcome State Fault Refusal :=
  issue (.send a b n) s fun t s =>
    match reachable s (t.s a.toNat) t.launch with
    | none => .ok (undeliverable s (senderRcb s t) (t.s a.toNat) 0 t.launch t.crewId, .next)
    | some id =>
      if 8 ≤ outbound s s.cur.core then .error .stall
      else
        let words := (List.range n.toNat).map fun i => t.s (i + 1)
        .ok (send (drain s s.myPath)
          { dest := id, src := s.cur, launch := t.launch, rcb := senderRcb s t, body := .message (t.s b.toNat) words
            sender := t.number, crew := t.crewId },
          .next)

/-- A cluster that MIGRATE may target (R15). -/
def eligible (s : State) (k : Nat) : Bool :=
  let d := s.die (k / 32)
  !d.noCluster.getLsbD (k % 32) && !d.gate.getLsbD (k % 32) && d.dstate == 0

/-- The eligible cluster nearest a home slice, the lowest among equals; the thread's own where no other is. -/
def nearest (s : State) (slice own : Nat) : Nat :=
  match ((List.range 384).filter (eligible s)).foldl (fun (best : Option Nat) k =>
    match best with
    | none => some k
    | some b => if distance slice k < distance slice b then some k else best) none with
  | some k => k
  | none => own

/-- The core that owns an address (R15). -/
def ownerCore (s : State) (id : Nat) (space addr : Nat) : Nat :=
  if space = 1 then coreOf (clusterOf id) (addr / 128 % 4) else coreOf (nearest s (homeSlice addr) (clusterOf id)) 0

/-- The thread as MIGRATE sends it: `s1` to `s10` with their full bits, the predicate word, the pc of the next instruction,
the root, the identities, a helper's token destination (R15, R159). -/
def travelling (t : Thread) (preds : BitVec 16) : Thread :=
  { kind := .migrated, number := t.number, relFence := t.relFence, token := t.token, pc := t.pc + 4
    regs := (List.range 10).map fun i => (i + 1, t.s (i + 1))
    full := t.full ||| 0xFFFFF801, preds, caps := [(15, t.c 15)], rid := t.rid, rcb := t.rcb, asid := t.asid
    launch := t.launch, crewId := t.crewId, crewCnt := t.crewCnt, mmrev := t.mmrev }

/-- MIGRATE (R15, R159). -/
def execMigrate (a : BitVec 5) (c : BitVec 4) (s : State) : Host.Outcome State Fault Refusal :=
  issue (.migrate a c) s fun t s =>
    let cap := t.c c.toNat
    let addr : Int := cap.base + (t.s a.toNat).toNat
    let val := BitVec.ofInt 64 addr
    if s.cur.slot = 0 then .error (.cause 0x01 ((encodeWord (.migrate a c)).setWidth 64))
    else match capCheck cap addr 1 0 with
      | some cause => .error (.cause cause val)
      | none =>
        if 2 ≤ cap.space then .error (.cause 0x06 val)
        else if cap.space = 1 && isVisitor s s.cur t then .error (.cause 0x06 val)
        else if cap.space = 1 && (s.cluster (clusterOf s.cur.core)).padSize ≤ addr.toNat then .error (.cause 0x05 val)
        else if !t.settled then .error .stall
        else
          let s1 := drain s s.myPath
          let core := (s1.core s.cur.core).unbind s.cur.slot fun _ => true
          let sent := travelling t (predWord core s.cur.slot t)
          let s2 := send s1
            { dest := ownerCore s s.cur.core cap.space addr.toNat, src := s.cur, launch := t.launch, rcb := t.rcb
              body := .thread sent false, sender := t.number, crew := t.crewId }
          .ok (settle (leaveSlot s2 s.cur) s.cur.core, .gone)

/-- REPLY (R160). -/
def execReply (a b r : BitVec 5) (s : State) : Host.Outcome State Fault Refusal :=
  issue (.reply a b r) s fun t s =>
    let h := t.s a.toNat
    .ok (send (drain s s.myPath)
      { dest := handleCore h, src := s.cur, launch := t.launch, rcb := senderRcb s t
        body := .reply h r.toNat (t.s b.toNat), sender := t.number, crew := t.crewId }, .next)

end Sys2Proof.Machine
end

