-- ==== Sys2Proof/Machine/Rings.lean ====
section
/-!
DEFINITION. Majors 0x20 and 0x21: rings and barriers (R161–R171).
-/

namespace Sys2Proof.Machine

/-! ### Rings -/

/-- The word of an instruction as the value of its fault (R109). -/
def wordVal (i : Instr) : Word := (encodeWord i).setWidth 64

/-- A store writes the header of a slot of some ring, claimed or not. -/
def onHeader (s : State) (p : PStore) : Bool :=
  match p.space with
  | .scratch k => (List.range 32).any fun q => !((s.ring k q).headersIn p.addr p.size).isEmpty
  | _ => false

/-- The stores to headers that a cluster's threads have issued are performed: a ring member takes effect behind every publication
that may happen before it, and no earlier store to a header is left to publish a slot that a later member claims (R301). -/
def publishHeaders (s : State) : State := performWhere s s.myPath (onHeader s)

/-- A ring member: refused to a visitor (R161), else on the ring of the cluster. -/
def ringMember (i : Instr) (q : BitVec 5) (s : State)
    (body : Thread → State → Nat → Ring → Except Stop (State × Act)) : Host.Outcome State Fault Refusal :=
  issue i s fun t s =>
    let k := clusterOf s.cur.core
    if isVisitor s s.cur t then .error (.cause 0x06 (wordVal i))
    else
      let s1 := publishHeaders s
      body t s1 k (s1.ring k q.toNat)

/-- Cause 0x0C of a ring member. -/
def ringFault (i : Instr) : Except Stop (State × Act) := .error (.cause 0x0C (wordVal i))

/-- The failure of a configuration, in the order of R163. -/
def qcfgCheck (r : Ring) (c : Cap) (cfg : Word) : Option Nat :=
  let logn := bitsOf cfg 3 0
  let logs := bitsOf cfg 7 4
  if r.state = 1 then some 0x0C
  else if logn = 0 || 8 < logn || logs < 4 || 12 < logs || bitsOf cfg 63 9 != 0 then some 0x0C
  else if !c.tag then some 0x04
  else if c.space != 1 || !c.can (permR ||| permW) then some 0x06
  else if c.base % 2 ^ logs != 0 then some 0x07
  else if c.len < 2 ^ logn * 2 ^ logs then some 0x05
  else none

/-- Waiters of a ring that is reconfigured or returned to IDLE stop with cause 0x0C (R163). -/
def refuseWaiters (s : State) (ws : List Loc) : State :=
  ws.foldl (fun s l =>
    let t := s.thread l
    match t.wait with
    | some (.qwaitf q reg pred) => refuse l (wordVal (.qwaitf (BitVec.ofNat 5 reg) (BitVec.ofNat 4 pred) (BitVec.ofNat 5 q))) s
    | some (.qwaite q reg pred) => refuse l (wordVal (.qwaite (BitVec.ofNat 5 reg) (BitVec.ofNat 4 pred) (BitVec.ofNat 5 q))) s
    | _ => s) s
where
  /-- The waiting member raises its cause. -/
  refuse (l : Loc) (v : Word) (s : State) : State :=
    stopThread (s.onThread l fun t => { t with wait := none }) l 0x0C v 0 false

/-- Saved threads of the cluster's crew that wait on a ring will stop with cause 0x0C when they are restored (R163, R171). -/
def refuseSaved (s : State) (k q : Nat) : State :=
  match (s.cluster k).crew with
  | none => s
  | some c =>
    (List.range 4).foldl (fun s j =>
      let id := coreOf k j
      let x := s.core id
      s.setCore id { x with spills := x.spills.map fun p =>
        if p.draining && p.launch == c.launch && p.crew == c.crewId then
          { p with kept := p.kept.map fun e => (e.1, if ringOf e.2.wait = some q then { e.2 with refused := true } else e.2) }
        else p }) s

/-- Every waiter of a ring that is reconfigured, of a running thread or of a saved one, is refused. -/
def reconfigure (s : State) (k q : Nat) (r' : Ring) (ws : List Loc) : State :=
  refuseWaiters (refuseSaved (s.setRing k q r') k q) ws

/-- QCFG (R163). -/
def execQcfg (c : BitVec 4) (a b q : BitVec 5) (s : State) : Host.Outcome State Fault Refusal :=
  ringMember (.qcfg c a b q) q s fun t s k r =>
    let cfg := t.s a.toNat
    if cfg = 0 then .ok (reconfigure s k q.toNat {} r.waiters, .next)
    else
      let cap := t.c c.toNat
      match qcfgCheck r cap cfg with
      | some cause => .error (.cause cause (if cause = 0x0C then wordVal (.qcfg c a b q) else BitVec.ofNat 64 cap.base))
      | none =>
        let i : BitVec 32 := (t.s b.toNat).setWidth 32
        let r' : Ring :=
          { state := 1, buf := cap, logn := bitsOf cfg 3 0, logs := bitsOf cfg 7 4, hdr := bitOf cfg 8
            clm := i, pub := i, rd := i, fre := i }
        .ok (reconfigure s k q.toNat r' r.waiters, .next)

/-- A claim or a wait that returns an index and a predicate. -/
def ringReturn (s : State) (d : BitVec 5) (p : BitVec 4) (v : BitVec 32) (b : Bool) : Except Stop (State × Act) :=
  .ok ((s.setPred p.toNat b).wr d.toNat (v.setWidth 64), .next)

/-- A member that parks on a ring (R164). -/
def ringPark (s : State) (k : Nat) (q : BitVec 5) (r : Ring) (w : Wait) : Except Stop (State × Act) :=
  .ok (waitFor (s.setRing k q.toNat { r with waiters := r.waiters ++ [s.cur] }) w, .stay)

/-- QCLAIM (R164). -/
def execQclaim (d : BitVec 5) (p : BitVec 4) (q : BitVec 5) (s : State) : Host.Outcome State Fault Refusal :=
  ringMember (.qclaim d p q) q s fun _ s k r =>
    if r.state = 0 then ringFault (.qclaim d p q)
    else if r.state = 1 && r.room then ringReturn (s.setRing k q.toNat { r with clm := r.clm + 1 }) d p r.clm true
    else ringReturn s d p r.clm false

/-- QPUB (R164): PBIT is set, PUB advances, waiters whose turn has come proceed. -/
def execQpub (a q : BitVec 5) (s : State) : Host.Outcome State Fault Refusal :=
  ringMember (.qpub a q) q s fun t s k r =>
    let i : BitVec 32 := (t.s a.toNat).setWidth 32
    if r.canPublish i then .ok (ringWake (s.setRing k q.toNat (r.publish i)) k q.toNat, .next)
    else ringFault (.qpub a q)

/-- QWAITF (R164). -/
def execQwaitf (d : BitVec 5) (p : BitVec 4) (q : BitVec 5) (s : State) : Host.Outcome State Fault Refusal :=
  ringMember (.qwaitf d p q) q s fun _ s k r =>
    if r.state = 0 then ringFault (.qwaitf d p q)
    else if r.state = 2 then ringReturn s d p r.rd false
    else if r.rd != r.pub then ringReturn (s.setRing k q.toNat { r with rd := r.rd + 1 }) d p r.rd true
    else ringPark s k q r (.qwaitf q.toNat d.toNat p.toNat)

/-- QFREE (R164): FBIT is set, FRE advances, waiters whose turn has come proceed. -/
def execQfree (a q : BitVec 5) (s : State) : Host.Outcome State Fault Refusal :=
  ringMember (.qfree a q) q s fun t s k r =>
    let i : BitVec 32 := (t.s a.toNat).setWidth 32
    if r.state != 0 && inRange r.fre i r.rd && !r.fbit.getLsbD (r.slotOf i) then
      let r' := Ring.advanceFre 256 { r with fbit := r.fbit ||| (1#256 <<< r.slotOf i) }
      .ok (ringWake (s.setRing k q.toNat r') k q.toNat, .next)
    else ringFault (.qfree a q)

/-- QWAITE (R164). -/
def execQwaite (d : BitVec 5) (p : BitVec 4) (q : BitVec 5) (s : State) : Host.Outcome State Fault Refusal :=
  ringMember (.qwaite d p q) q s fun _ s k r =>
    if r.state = 0 then ringFault (.qwaite d p q)
    else if r.state = 2 then ringReturn s d p r.clm false
    else if r.room then ringReturn (s.setRing k q.toNat { r with clm := r.clm + 1 }) d p r.clm true
    else ringPark s k q r (.qwaite q.toNat d.toNat p.toNat)

/-- The status word of a ring (R165). -/
def ringStatus (r : Ring) : Word := r.rd ++ r.code ++ BitVec.ofNat 16 r.state

/-- QERR (R164, R165): the status is read before any change. -/
def execQerr (d a q : BitVec 5) (s : State) : Host.Outcome State Fault Refusal :=
  ringMember (.qerr d a q) q s fun t s k r =>
    let code : BitVec 16 := (t.s a.toNat).setWidth 16
    if code = 0 then write1 s d (ringStatus r)
    else if r.state = 0 then ringFault (.qerr d a q)
    else if r.state = 1 then
      write1 (ringWake (s.setRing k q.toNat { r with state := 2, code }) k q.toNat) d (ringStatus r)
    else write1 s d (ringStatus r)

/-- The bits of the slots of a range of counts cleared. -/
def clearSlots (r : Ring) (m : BitVec 256) : Nat → BitVec 32 → BitVec 256
  | 0, _ => m
  | n + 1, i => clearSlots r (m &&& ~~~(1#256 <<< r.slotOf i)) n (i + 1)

/-- QSETRD (R164). -/
def execQsetrd (a q : BitVec 5) (s : State) : Host.Outcome State Fault Refusal :=
  ringMember (.qsetrd a q) q s fun t s k r =>
    let v : BitVec 32 := (t.s a.toNat).setWidth 32
    if r.state != 2 || (r.pub - r.fre).toNat < (v - r.fre).toNat then ringFault (.qsetrd a q)
    else
      let n := (v - r.fre).toNat
      let r' := { r with
        state := 1, pbit := clearSlots r r.pbit n r.fre, fbit := clearSlots r r.fbit n r.fre, fre := v, rd := v, code := 0 }
      .ok (ringWake (s.setRing k q.toNat r') k q.toNat, .next)

/-! ### Barriers -/

/-- Rounds of a barrier of P participants (R169). -/
def rounds (p : Nat) : Nat := if p ≤ 1 then 0 else Nat.log2 (p - 1) + 1

/-- The core of this module that a rank-table entry names (R168). -/
def entryCore (e : BitVec 32) : Nat :=
  e.toNat / 2 ^ 7 % 16 * 128 + e.toNat / 2 ^ 2 % 32 * 4 + e.toNat % 4

/-- The module that an entry names. -/
def entryModule (e : BitVec 32) : Nat := e.toNat / 2 ^ 11 % 256

/-- A barrier or NRED packet leaves for an entry's core: through the fabric where it names another module, once there is a route
(R405, R406). -/
def sendPacket (s : State) (id : Nat) (e : BitVec 32) (remote : Packet) (body : Body) (launch : Word) (rcb : Nat)
    (crew : BitVec 32) : State :=
  if entryModule e != s.modno then
    if s.noRoute (entryModule e) then { s with routeless := s.routeless ++ [remote] }
    else { s with outbox := s.outbox ++ [remote] }
  else send s { dest := entryCore e, src := { core := id }, launch, rcb, body, crew }

/-- The launch, region and crew that a core's packets belong to: its crew's, or for a hart its own thread's. -/
def packetOwner (s : State) (id : Nat) : Word × Nat × BitVec 32 :=
  match (if isCompute id then (s.cluster (clusterOf id)).crew else none) with
  | some c => (c.launch, c.rcb, c.crewId)
  | none =>
    let t := s.thread { core := id }
    (t.launch, t.rcb, t.crewId)

/-- Threads of a core that wait for a completed phase of a context wake (R169). -/
def wakeBarrier (s : State) (id n : Nat) : State :=
  let done := ((s.core id).bar n).done
  (List.range 16).foldl (fun s k =>
    let l : Loc := { core := id, slot := k }
    match (s.thread l).wait with
    | some (.barwait ctx phase) => if ctx = n && phase ≤ done then completeAt s l id' else s
    | _ => s) s
where
  /-- The thread is unchanged. -/
  id' (t : Thread) : Thread := t

/-- The first packet of a round and tag is consumed. -/
def takePacket (ps : List (Nat × Nat)) (p : Nat × Nat) : List (Nat × Nat) := ps.erase p

/-- The rounds of a context go as far as they can (R169). The first argument bounds them. -/
def barProgress : Nat → State → Nat → Nat → State
  | 0, s, _, _ => s
  | fuel + 1, s, id, n =>
    let c := s.core id
    let b := c.bar n
    let put (s : State) (b : Bar) : State :=
      let c := s.core id
      s.setCore id { c with bars := c.bars.set n b }
    if b.arrived ≤ b.done then s
    else if b.round = rounds b.p then
      barProgress fuel (wakeBarrier (put s { b with done := b.done + 1, round := 0, sent := false }) id n) id n
    else
      let tag := b.done % 2
      if !b.sent then
        let e := b.dests.get 0 b.round
        let w := packetOwner s id
        barProgress fuel
          (sendPacket (put s { b with sent := true }) id e (.barrier e n b.round tag) (.barrier n b.round tag) w.1 w.2.1 w.2.2)
          id n
      else if b.packets.contains (b.round, tag) then
        barProgress fuel
          (put s { b with packets := takePacket b.packets (b.round, tag), round := b.round + 1, sent := false }) id n
      else s

/-- The bound of a context's progress: both phases that may be under way, each with its rounds. -/
def barFuel : Nat := 128

/-- The entry of a rank that BARINIT reads, checked as LD checks a load (R168). -/
def rankEntry (s : State) (t : Thread) (c : Cap) (r : Nat) : Except Stop (BitVec 32) :=
  match memCheck s s.cur t c (c.base + 4 * r) 4 4 permR { r := true } with
  | .error e => .error e
  | .ok pl => .ok (BitVec.ofNat 32 (s.loadNat s.myPath pl 4))

/-- The pending stores to the entries that BARINIT reads are performed where a load could not take its bytes from one of them
(R78). -/
def settleRanks (s : State) (t : Thread) (c : Cap) (rs : List Nat) : State :=
  rs.foldl (fun s r =>
    match memCheck s s.cur t c (c.base + 4 * r) 4 4 permR { r := true } with
    | .ok pl => (settleFor s s.myPath false pl 4).reachAt pl
    | .error _ => s) s

/-- An entry that BARINIT accepts within a scope: another module is of this one's fabric domain, and its own rank's names the
issuing core (R168, R406). -/
def entryOk (s : State) (scope : Nat) (own : Bool) (e : BitVec 32) : Bool :=
  let id := s.cur.core
  let here := entryModule e == s.modno
  e.toNat / 2 ^ 19 == 0 && e.toNat / 2 ^ 7 % 16 < 12
    && !(here && s.mappedOut (entryCore e))
    && (scope == 2 || here)
    && (here || (Config.fabricDomain (entryModule e)).toNat == s.fdomid)
    && (scope != 0 || (isCompute id && clusterOf (entryCore e) == clusterOf id))
    && (!own || (here && isCompute id && entryCore e == id))

/-- The entries of a list of ranks, each read and checked in turn. -/
def readRanks (s : State) (t : Thread) (c : Cap) (scope own : Nat) : List Nat → Except Stop (List (Nat × BitVec 32))
  | [] => .ok []
  | r :: rs =>
    match rankEntry s t c r with
    | .error e => .error e
    | .ok e =>
      if !entryOk s scope (r == own) e then .error (.cause 0x06 (BitVec.ofNat 64 (c.base + 4 * r)))
      else match readRanks s t c scope own rs with
        | .error x => .error x
        | .ok es => .ok ((r, e) :: es)

/-- The partner of a rank to send round k to, and the one to receive from (R168). -/
def partnerOut (p r k : Nat) : Nat := (r + 2 ^ k) % p
def partnerIn (p r k : Nat) : Nat := (r + p - 2 ^ k % p) % p

/-- BARINIT (R168): the context keeps the packets it has received, and its NRED counts start anew (R248). An NRED of it that is not
filled yet, and the contributions that it has received, stay with it, and meet the instances that are counted anew; the manual
does not say what becomes of them. DESIGN CHOICE, log 81. -/
def execBarinit (c : BitVec 4) (a b : BitVec 5) (n : BitVec 4) (s : State) : Host.Outcome State Fault Refusal :=
  crewMember (.barinit c a b n) s fun t s =>
    let cfg := t.s a.toNat
    let p := bitsOf cfg 15 0
    let scope := bitsOf cfg 17 16
    let r := (t.s b.toNat).toNat
    if p = 0 || scope = 3 || bitsOf cfg 63 18 != 0 || p ≤ r then .error (.cause 0x02 (wordVal (.barinit c a b n)))
    else
      let ks := List.range (rounds p)
      let ranks := [r, 0] ++ ks.flatMap fun k => [partnerOut p r k, partnerIn p r k]
      let s := settleRanks s t (t.c c.toNat) ranks
      match readRanks s t (t.c c.toNat) scope r ranks with
      | .error e => .error e
      | .ok es =>
        let entry (x : Nat) : BitVec 32 := ((es.find? fun e => e.1 == x).map fun e => e.2).getD 0
        let core := s.core s.cur.core
        let old := core.bar n.toNat
        let new : Bar :=
          { old with
            p, rank := r, scope, dests := ks.map fun k => (k, entry (partnerOut p r k)), root := entry 0
            arrived := 0, done := 0, round := 0, sent := false, issued := 0, combined := 0 }
        .ok (s.setCore s.cur.core { core with bars := core.bars.set n.toNat new }, .next)

/-- An arrival at a context (R91, R169): it stalls while two phases are under way. It releases unless it is relaxed and no
release fence of a scope that includes the barrier's has gone before it. -/
def arrive (s : State) (n : Nat) (relaxed : Bool) : Except Stop State :=
  let id := s.cur.core
  let b := (s.core id).bar n
  if b.done + 2 ≤ b.arrived then .error .stall
  else
    let s1 := if (!relaxed || b.scope < s.me.relFence) && b.scope != 0 then drain s s.myPath else s
    let core := s1.core id
    .ok (barProgress barFuel (s1.setCore id { core with bars := core.bars.set n { b with arrived := b.arrived + 1 } }) id n)

/-- The wait for the phase of the core's latest arrival (R169). A parked BARWAIT waits for the count of arrivals as it stood at
its issue: a later arrival of the core, or a BARINIT made while it is parked, does not change what it waits for; the manual
writes 'park until c >= a' without saying of which moment a is. DESIGN CHOICE, log 51. -/
def await (s : State) (n : Nat) : Except Stop (State × Act) :=
  let b := (s.core s.cur.core).bar n
  if b.arrived ≤ b.done then .ok (s, .next) else .ok (waitFor s (.barwait n b.arrived), .stay)

/-- BARARR (R169). -/
def execBararr (r : BitVec 1) (n : BitVec 4) (s : State) : Host.Outcome State Fault Refusal :=
  crewMember (.bararr r n) s fun _ s =>
    match arrive s n.toNat (r == 1) with
    | .ok s => .ok (s, .next)
    | .error e => .error e

/-- BARWAIT (R169). -/
def execBarwait (n : BitVec 4) (s : State) : Host.Outcome State Fault Refusal :=
  crewMember (.barwait n) s fun _ s => await s n.toNat

/-- BARSYNC (R169): an arrival, then the wait. -/
def execBarsync (r : BitVec 1) (n : BitVec 4) (s : State) : Host.Outcome State Fault Refusal :=
  crewMember (.barsync r n) s fun _ s =>
    match arrive s n.toNat (r == 1) with
    | .ok s => await s n.toNat
    | .error e => .error e

end Sys2Proof.Machine
end

