-- ==== Sys2Proof/Machine/Reduce.lean ====
section
/-!
DEFINITION. Reductions across the network (major 0x35): contributions, their combination at rank 0, the tokens (R247–R249).
-/

namespace Sys2Proof.Machine

/-- The value and index of a contribution of NMAXI or NMINI. -/
def nredValue (w : Word) : Nat := bitsOf w 31 0
def nredIndex (w : Word) : Nat := bitsOf w 63 32

/-- Of two words the one with the lower index, of equal indices the lower value. -/
def lowerWord (a b : Word) : Word :=
  if nredIndex b < nredIndex a || (nredIndex a = nredIndex b && nredValue b < nredValue a) then b else a

/-- The winner of two FP32 contributions: a number beats a NaN, then the value, then the lower index (R248). -/
def nredFloat (isMax : Bool) (a b : Word) : Word :=
  let x := fmF32.value (nredValue a)
  let y := fmF32.value (nredValue b)
  if x.isNan && y.isNan then lowerWord a b
  else if x.isNan then b
  else if y.isNan then a
  else if (if isMax then y.below x else x.below y) then a
  else if (if isMax then x.below y else y.below x) then b
  else lowerWord a b

/-- The winner of two INT32 contributions. -/
def nredInt (isMax : Bool) (a b : Word) : Word :=
  let x := sgn 32 (nredValue a)
  let y := sgn 32 (nredValue b)
  if x = y then lowerWord a b else if (if isMax then y < x else x < y) then a else b

/-- Two contributions combined: 0 NMAXI, 1 NMAXI `.i`, 2 NMINI, 3 NMINI `.i`, 4 NADD. -/
def combine (op : Nat) (a b : Word) : Word :=
  match op with
  | 0 => nredFloat true a b
  | 1 => nredInt true a b
  | 2 => nredFloat false a b
  | 3 => nredInt false a b
  | _ => a + b

/-- Contributions combined, at least one. -/
def combineAll (op : Nat) : List Word → Word
  | [] => 0
  | w :: ws => ws.foldl (combine op) w

/-- The result of an instance: a value that is a NaN is the canonical one (R57, R248). -/
def nredResult (op : Nat) (ws : List Word) : Word :=
  let w := combineAll op ws
  if (op = 0 || op = 2) && (fmF32.value (nredValue w)).isNan then w.extractLsb' 32 32 ++ (0x7FC00000#32) else w

/-- The flags of an instance: invalid for a signalling NaN among its contributions (R57). The rules on NRED name no thread for
them; they reach the one whose token is filled. DEDUCED, log 70. -/
def nredFlags (op : Nat) (ws : List Word) : Word :=
  if (op = 0 || op = 2) && ws.any (fun w => (fmF32.value (nredValue w)).sig) then 1 else 0

/-- The first n contributions of a tag, and the rest. -/
def takeTag (tag : Nat) : Nat → List (Nat × Nat × Word) → List Word × List (Nat × Nat × Word)
  | 0, xs => ([], xs)
  | _, [] => ([], [])
  | n + 1, x :: xs =>
    if x.2.1 = tag then
      let r := takeTag tag n xs
      (x.2.2 :: r.1, r.2)
    else
      let r := takeTag tag (n + 1) xs
      (r.1, x :: r.2)

/-- The next instance at rank 0 completes when the contributions of all P participants are there: its token is filled with
their combination under rank 0's own member (R248). -/
def nredProgress (s : State) (id n : Nat) : State :=
  let c := s.core id
  let b := c.bar n
  match b.unfilled.find? fun u => u.1 == b.combined with
  | none => s
  | some u =>
    let r := takeTag (b.combined % 2) b.p b.contribs
    if b.rank != 0 || r.1.length < b.p then s
    else
      let b' := { b with contribs := r.2, combined := b.combined + 1, unfilled := b.unfilled.erase u }
      let w := packetOwner s id
      let s1 := noteFlags (s.setCore id { c with bars := c.bars.set n b' }) u.2.2.1 w.1 (nredFlags u.2.1 r.1)
      fillToken s1 u.2.2.1 u.2.2.2 (nredResult u.2.1 r.1) w.1 w.2.1 w.2.2

/-- A contribution reaches rank 0. -/
def nredArrive (s : State) (id n op tag : Nat) (v : Word) : State :=
  let c := s.core id
  let b := c.bar n
  nredProgress (nredProgress (s.setCore id { c with bars := c.bars.set n { b with contribs := b.contribs ++ [(op, tag, v)] } })
    id n) id n

/-- An NRED member: refused to a visitor (R17); a third while two are unfilled stalls; the contribution releases at the context's scope and leaves for
rank 0. Elsewhere the token is filled with 0 once it has left, which it has not while its module is out of reach (R247,
R405). -/
def nredMember (i : Instr) (op : Nat) (d a : BitVec 5) (g : BitVec 4) (s : State) : Host.Outcome State Fault Refusal :=
  crewMember i s fun t s =>
    let id := s.cur.core
    let n := g.toNat
    let b := (s.core id).bar n
    let v := t.s a.toNat
    if 2 ≤ b.unfilled.length then .error .stall
    else
      let s1 := claimMe (if b.scope != 0 then drain s s.myPath else s) d
      let tag := b.issued % 2
      let u := (b.issued, op, s1.handleOf s1.cur, d.toNat)
      let put (s : State) (b : Bar) : State :=
        let c := s.core id
        s.setCore id { c with bars := c.bars.set n b }
      if b.rank = 0 then
        .ok (nredArrive (put s1 { b with issued := b.issued + 1, unfilled := b.unfilled ++ [u] }) id n op tag v, .next)
      else
        let w := packetOwner s1 id
        let held := s1.noRoute (entryModule b.root) && entryModule b.root != s1.modno
        let s2 := put s1
          { b with issued := b.issued + 1, unfilled := if held then b.unfilled ++ [u] else b.unfilled }
        let s3 := sendPacket s2 id b.root (.nred b.root n op tag v) (.nred n op tag v) w.1 w.2.1 w.2.2
        .ok (if held then s3 else s3.setMe (s3.me.fill d.toNat 0), .next)

/-- NMAXI (R247). -/
def execNmaxi (d a : BitVec 5) (i : BitVec 1) (g : BitVec 4) (s : State) : Host.Outcome State Fault Refusal :=
  nredMember (.nmaxi d a i g) (if i = 1 then 1 else 0) d a g s

/-- NMINI (R247). -/
def execNmini (d a : BitVec 5) (i : BitVec 1) (g : BitVec 4) (s : State) : Host.Outcome State Fault Refusal :=
  nredMember (.nmini d a i g) (if i = 1 then 3 else 2) d a g s

/-- NADD (R247). -/
def execNadd (d a : BitVec 5) (g : BitVec 4) (s : State) : Host.Outcome State Fault Refusal :=
  nredMember (.nadd d a g) 4 d a g s

end Sys2Proof.Machine
end

