-- ==== Sys2Proof/Machine/Loads.lean ====
section
/-!
DEFINITION. Majors 0x10 to 0x19: loads, stores, atomics, fences, cache and deduplication hints, multicast and reducing
stores (R137–R150).
-/

namespace Sys2Proof.Machine

/-! ### Addresses and strengthening -/

/-- Bytes of an element (R139). -/
def elemSize (z : BitVec 2) : Nat := 2 ^ z.toNat

/-- The address of a member: capability base, register, offset, as an exact number (R137). -/
def memAddr (t : Thread) (c : BitVec 4) (a : BitVec 5) (off : Int) : Int :=
  (t.c c.toNat).base + (t.s a.toNat).toNat + off

/-- A scope beyond the crew: device or system (R77). -/
def wide (sc : BitVec 2) : Bool := sc != 0

/-- A ninth held destination stalls (R138). -/
def noRoom (t : Thread) (d : BitVec 5) : Bool := d != 0 && 8 ≤ t.dataHolds

/-- A returned value: the destination is held until it is written (R138). -/
def returns (s : State) (d : BitVec 5) (v : Word) : Except Stop (State × Act) := .ok (holdS s d.toNat v none, .next)

/-- An element's bytes as a register value. -/
def extend (signed : Bool) (size v : Nat) : Word :=
  if signed then (BitVec.ofNat (8 * size) v).signExtend 64 else BitVec.ofNat 64 v

/-! ### Loads and stores (R139) -/

/-- A load of one element. `acquire` is an acquire point beyond the crew, which reads only performed stores (R85). A replica
serves the loads with the H hint of the clusters that it is nearest to (log 33). -/
def loadMember (i : Instr) (d : BitVec 5) (c : BitVec 4) (a : BitVec 5) (z : BitVec 2) (o : BitVec 6)
    (hint signed acquire : Bool) (s : State) : Host.Outcome State Fault Refusal :=
  issue i s fun t s =>
    let size := elemSize z
    let cap := t.c c.toNat
    if noRoom t d || t.loadsStall then .error .stall
    else match memCheck s s.cur t cap (memAddr t c a (o.toInt * size)) size size permR { r := true } with
      | .error e => .error e
      | .ok pl =>
        let s1 := (settleFor s s.myPath (acquire || strengthened t cap) pl size).reachAt pl
        let v := extend signed size (s1.hintNat s1.cur.core hint pl size)
        returns (if hint then leaveReplica s1 t cap pl else s1) d v

/-- LD (R139). -/
def execLd (d : BitVec 5) (c : BitVec 4) (a : BitVec 5) (w : BitVec 1) (z : BitVec 2) (h : BitVec 1) (o : BitVec 6)
    (s : State) : Host.Outcome State Fault Refusal :=
  loadMember (.ld d c a w z h o) d c a z o (h == 1) true false s

/-- LDU (R139). -/
def execLdu (d : BitVec 5) (c : BitVec 4) (a : BitVec 5) (w : BitVec 1) (z : BitVec 2) (h : BitVec 1) (o : BitVec 6)
    (s : State) : Host.Outcome State Fault Refusal :=
  loadMember (.ldu d c a w z h o) d c a z o (h == 1) false false s

/-- LDACQ (R80, R139). -/
def execLdacq (d : BitVec 5) (c : BitVec 4) (a : BitVec 5) (w : BitVec 1) (z : BitVec 2) (sc : BitVec 2) (h : BitVec 1)
    (o : BitVec 6) (s : State) : Host.Outcome State Fault Refusal :=
  loadMember (.ldacq d c a w z sc h o) d c a z o (h == 1) true (wide sc) s

/-- A store of one element. `release` is a release point beyond the crew, before which the path's stores perform (R80). -/
def storeMember (i : Instr) (d : BitVec 5) (c : BitVec 4) (a : BitVec 5) (z : BitVec 2) (o : BitVec 6) (release : Bool)
    (s : State) : Host.Outcome State Fault Refusal :=
  issue i s fun t s =>
    let size := elemSize z
    match memCheck s s.cur t (t.c c.toNat) (memAddr t c a (o.toInt * size)) size size permW { w := true } with
    | .error e => .error e
    | .ok pl =>
      let s1 := (if release || strengthened t (t.c c.toNat) then drain s s.myPath else s).reachAt pl
      .ok (pushStore s1 s1.myPath (storeAt s.cur t pl size ((t.s d.toNat).setWidth 1024) false), .next)

/-- ST (R139). -/
def execSt (d : BitVec 5) (c : BitVec 4) (a : BitVec 5) (w : BitVec 1) (z : BitVec 2) (o : BitVec 6) (s : State) :
    Host.Outcome State Fault Refusal :=
  storeMember (.st d c a w z o) d c a z o false s

/-- STREL (R80, R139). -/
def execStrel (d : BitVec 5) (c : BitVec 4) (a : BitVec 5) (w : BitVec 1) (z : BitVec 2) (sc : BitVec 2) (o : BitVec 6)
    (s : State) : Host.Outcome State Fault Refusal :=
  storeMember (.strel d c a w z sc o) d c a z o (wide sc) s

/-! ### Atomics (R140–R142) -/

/-- A read-modify-write of one element, whose old value returns sign-extended (R83, R140, R142). -/
def rmwMember (i : Instr) (d : BitVec 5) (c : BitVec 4) (a : BitVec 5) (size : Nat) (s : State) (f : Thread → Rmw) :
    Host.Outcome State Fault Refusal :=
  issue i s fun t s =>
    if noRoom t d || t.loadsStall then .error .stall
    else match memCheck s s.cur t (t.c c.toNat) (memAddr t c a 0) size size permAtomic { r := true, w := true } with
      | .error e => .error e
      | .ok pl =>
        let r := rmwAt (s.reachAt pl) s.cur t pl size (f t)
        returns r.1 d (extend true size r.2)

/-- An atomic: every AOP writes the location (R140). -/
def amo (i : Instr) (d : BitVec 5) (c : BitVec 4) (a v : BitVec 5) (sc : BitVec 2) (o : BitVec 1) (size op : Nat) (s : State) :
    Host.Outcome State Fault Refusal :=
  rmwMember i d c a size s fun t =>
    { op, v := (t.s v.toNat).toNat, sc := sc.toNat, ord := o == 1, port := (t.c c.toNat).space == 2 }

/-- AMOADD on 4 bytes (R140). -/
def execAmoaddW (d : BitVec 5) (c : BitVec 4) (a v : BitVec 5) (sc : BitVec 2) (o : BitVec 1) (s : State) :
    Host.Outcome State Fault Refusal :=
  amo (.amoaddW d c a v sc o) d c a v sc o 4 0 s

/-- AMOAND on 4 bytes (R140). -/
def execAmoandW (d : BitVec 5) (c : BitVec 4) (a v : BitVec 5) (sc : BitVec 2) (o : BitVec 1) (s : State) :
    Host.Outcome State Fault Refusal :=
  amo (.amoandW d c a v sc o) d c a v sc o 4 1 s

/-- AMOOR on 4 bytes (R140). -/
def execAmoorW (d : BitVec 5) (c : BitVec 4) (a v : BitVec 5) (sc : BitVec 2) (o : BitVec 1) (s : State) :
    Host.Outcome State Fault Refusal :=
  amo (.amoorW d c a v sc o) d c a v sc o 4 2 s

/-- AMOXOR on 4 bytes (R140). -/
def execAmoxorW (d : BitVec 5) (c : BitVec 4) (a v : BitVec 5) (sc : BitVec 2) (o : BitVec 1) (s : State) :
    Host.Outcome State Fault Refusal :=
  amo (.amoxorW d c a v sc o) d c a v sc o 4 3 s

/-- AMOMIN on 4 bytes (R140). -/
def execAmominW (d : BitVec 5) (c : BitVec 4) (a v : BitVec 5) (sc : BitVec 2) (o : BitVec 1) (s : State) :
    Host.Outcome State Fault Refusal :=
  amo (.amominW d c a v sc o) d c a v sc o 4 4 s

/-- AMOMAX on 4 bytes (R140). -/
def execAmomaxW (d : BitVec 5) (c : BitVec 4) (a v : BitVec 5) (sc : BitVec 2) (o : BitVec 1) (s : State) :
    Host.Outcome State Fault Refusal :=
  amo (.amomaxW d c a v sc o) d c a v sc o 4 5 s

/-- AMOMINU on 4 bytes (R140). -/
def execAmominuW (d : BitVec 5) (c : BitVec 4) (a v : BitVec 5) (sc : BitVec 2) (o : BitVec 1) (s : State) :
    Host.Outcome State Fault Refusal :=
  amo (.amominuW d c a v sc o) d c a v sc o 4 6 s

/-- AMOMAXU on 4 bytes (R140). -/
def execAmomaxuW (d : BitVec 5) (c : BitVec 4) (a v : BitVec 5) (sc : BitVec 2) (o : BitVec 1) (s : State) :
    Host.Outcome State Fault Refusal :=
  amo (.amomaxuW d c a v sc o) d c a v sc o 4 7 s

/-- AMOSWAP on 4 bytes (R140). -/
def execAmoswapW (d : BitVec 5) (c : BitVec 4) (a v : BitVec 5) (sc : BitVec 2) (o : BitVec 1) (s : State) :
    Host.Outcome State Fault Refusal :=
  amo (.amoswapW d c a v sc o) d c a v sc o 4 8 s

/-- AMOFADD on 4 bytes (R140). -/
def execAmofaddW (d : BitVec 5) (c : BitVec 4) (a v : BitVec 5) (sc : BitVec 2) (o : BitVec 1) (s : State) :
    Host.Outcome State Fault Refusal :=
  amo (.amofaddW d c a v sc o) d c a v sc o 4 9 s

/-- AMOADD on 8 bytes (R140). -/
def execAmoaddD (d : BitVec 5) (c : BitVec 4) (a v : BitVec 5) (sc : BitVec 2) (o : BitVec 1) (s : State) :
    Host.Outcome State Fault Refusal :=
  amo (.amoaddD d c a v sc o) d c a v sc o 8 0 s

/-- AMOAND on 8 bytes (R140). -/
def execAmoandD (d : BitVec 5) (c : BitVec 4) (a v : BitVec 5) (sc : BitVec 2) (o : BitVec 1) (s : State) :
    Host.Outcome State Fault Refusal :=
  amo (.amoandD d c a v sc o) d c a v sc o 8 1 s

/-- AMOOR on 8 bytes (R140). -/
def execAmoorD (d : BitVec 5) (c : BitVec 4) (a v : BitVec 5) (sc : BitVec 2) (o : BitVec 1) (s : State) :
    Host.Outcome State Fault Refusal :=
  amo (.amoorD d c a v sc o) d c a v sc o 8 2 s

/-- AMOXOR on 8 bytes (R140). -/
def execAmoxorD (d : BitVec 5) (c : BitVec 4) (a v : BitVec 5) (sc : BitVec 2) (o : BitVec 1) (s : State) :
    Host.Outcome State Fault Refusal :=
  amo (.amoxorD d c a v sc o) d c a v sc o 8 3 s

/-- AMOMIN on 8 bytes (R140). -/
def execAmominD (d : BitVec 5) (c : BitVec 4) (a v : BitVec 5) (sc : BitVec 2) (o : BitVec 1) (s : State) :
    Host.Outcome State Fault Refusal :=
  amo (.amominD d c a v sc o) d c a v sc o 8 4 s

/-- AMOMAX on 8 bytes (R140). -/
def execAmomaxD (d : BitVec 5) (c : BitVec 4) (a v : BitVec 5) (sc : BitVec 2) (o : BitVec 1) (s : State) :
    Host.Outcome State Fault Refusal :=
  amo (.amomaxD d c a v sc o) d c a v sc o 8 5 s

/-- AMOMINU on 8 bytes (R140). -/
def execAmominuD (d : BitVec 5) (c : BitVec 4) (a v : BitVec 5) (sc : BitVec 2) (o : BitVec 1) (s : State) :
    Host.Outcome State Fault Refusal :=
  amo (.amominuD d c a v sc o) d c a v sc o 8 6 s

/-- AMOMAXU on 8 bytes (R140). -/
def execAmomaxuD (d : BitVec 5) (c : BitVec 4) (a v : BitVec 5) (sc : BitVec 2) (o : BitVec 1) (s : State) :
    Host.Outcome State Fault Refusal :=
  amo (.amomaxuD d c a v sc o) d c a v sc o 8 7 s

/-- AMOSWAP on 8 bytes (R140). -/
def execAmoswapD (d : BitVec 5) (c : BitVec 4) (a v : BitVec 5) (sc : BitVec 2) (o : BitVec 1) (s : State) :
    Host.Outcome State Fault Refusal :=
  amo (.amoswapD d c a v sc o) d c a v sc o 8 8 s

/-- CAS (R142): the comparand and the result share `s[D]`; nothing is written where they differ. -/
def execCas (d : BitVec 5) (c : BitVec 4) (a v : BitVec 5) (w : BitVec 1) (sc : BitVec 2) (o : BitVec 1) (s : State) :
    Host.Outcome State Fault Refusal :=
  let size := if w = 0 then 4 else 8
  rmwMember (.cas d c a v w sc o) d c a size s fun t =>
    { op := 10, v := (t.s v.toNat).toNat, cmp := (t.s d.toNat).toNat, sc := sc.toNat, ord := o == 1
      port := (t.c c.toNat).space == 2 }

/-! ### Fences (R84, R143, R144) -/

/-- What a fence leaves with its thread: an acquire fence marks the loads that are outstanding, which later loads wait for
(R144); a release fence keeps its scope for the relaxed arrivals after it (R91). -/
def Thread.fence (t : Thread) (acq rel : Bool) (sc : BitVec 2) : Thread :=
  { t with
    holds := if acq then t.holds.map fun h => { h with fenced := h.fenced || h.due.isNone } else t.holds
    relFence := if rel then max t.relFence (sc.toNat + 1) else t.relFence }

/-- A fence: beyond the crew, the stores of the path perform first, an acquire fence's too, since the loads before it read only
performed stores (R85). Within the crew every store is seen through the shared path at once. -/
def fence (i : Instr) (acq rel : Bool) (sc : BitVec 2) (s : State) : Host.Outcome State Fault Refusal :=
  issue i s fun _ s =>
    let s1 := if wide sc then drain s s.myPath else s
    .ok (s1.setMe (s1.me.fence acq rel sc), .next)

/-- FENCE.ACQ (R84, R143). -/
def execFenceAcq (sc : BitVec 2) (s : State) : Host.Outcome State Fault Refusal := fence (.fenceAcq sc) true false sc s

/-- FENCE.REL (R84, R143). -/
def execFenceRel (sc : BitVec 2) (s : State) : Host.Outcome State Fault Refusal := fence (.fenceRel sc) false true sc s

/-- FENCE.FULL (R84, R143). -/
def execFenceFull (sc : BitVec 2) (s : State) : Host.Outcome State Fault Refusal := fence (.fenceFull sc) true true sc s

/-! ### Cache and deduplication hints (R145–R147) -/

/-- The check of a hint's range (R146): the whole range under R, a length of at most 1 MiB, SPACE. -/
def hintCheck (c : Cap) (addr : Int) (len : Nat) : Option Nat :=
  if !c.tag then some 0x04
  else if addr < c.base || (c.base : Int) + c.len < addr + len || 0x100000 < len then some 0x05
  else if !c.can permR || c.space == 3 then some 0x06
  else none

/-- A hint, which acts on the lines of its range in device memory and waits for nothing (R146). -/
def hint (i : Instr) (a b : BitVec 5) (c : BitVec 4) (s : State) (f : Thread → Cap → State → Nat → State) :
    Host.Outcome State Fault Refusal :=
  issue i s fun t s =>
    let cap := t.c c.toNat
    let addr := memAddr t c a 0
    let len := (t.s b.toNat).toNat
    match hintCheck cap addr len with
    | some cause => .error (.cause cause (BitVec.ofInt 64 addr))
    | none =>
      if cap.space != 0 then .ok (s, .next)
      else .ok ((linesOver addr.toNat len).foldl (f t cap) s, .next)

/-- A change at a held line of a domain that a capability reaches, others passed over (R146). -/
def onHeld (s : State) (asid va dom : Nat) (f : State → Line → State) : State :=
  match s.line? asid va with
  | none => s
  | some l => if (l.dom == dom || l.dom == 63) && !l.poison then f s l else s

/-- The cluster whose cache an agent's hints act on; pairs and engine harts have none. -/
def hintCluster (id : Nat) : Option Nat := if isCompute id || isCopyHart id then some (clusterOf id) else none

/-- CINV (R146). -/
def execCinv (a b : BitVec 5) (c : BitVec 4) (s : State) : Host.Outcome State Fault Refusal :=
  hint (.cinv a b c) a b c s fun t cap u va =>
    match hintCluster s.cur.core with
    | none => u
    | some k => onHeld u t.asid va cap.dom fun s l =>
      let key := lineKey t.asid va
      dropCopy (setLine s key { l with dirty := l.dirty || l.dir == .modified k, dir := l.dir.drop k }) k key

/-- CFLUSH (R146). -/
def execCflush (a b : BitVec 5) (c : BitVec 4) (s : State) : Host.Outcome State Fault Refusal :=
  hint (.cflush a b c) a b c s fun t cap u va =>
    match hintCluster s.cur.core with
    | none => u
    | some k => onHeld u t.asid va cap.dom fun s l =>
      setLine s (lineKey t.asid va) { l with dirty := l.dirty || l.dir == .modified k, dir := l.dir.clean k }

/-- CPREF (R146), which needs cache-mode banks (R42). -/
def execCpref (a b : BitVec 5) (c : BitVec 4) (s : State) : Host.Outcome State Fault Refusal :=
  hint (.cpref a b c) a b c s fun t cap u va =>
    match hintCluster s.cur.core with
    | none => u
    | some k => if ((u.cluster k).banksIn 0).isEmpty then u else bringLine u k t.asid va cap.dom

/-- DDHINT (R46, R146): held lines whose write ownership no cluster holds. -/
def execDdhint (a b : BitVec 5) (c : BitVec 4) (s : State) : Host.Outcome State Fault Refusal :=
  hint (.ddhint a b c) a b c s fun t cap s va =>
    match s.line? t.asid va with
    | none => s
    | some l => if (l.dom == cap.dom || l.dom == 63) && !l.dir.owned then offer s (lineKey t.asid va) else s

/-- DDSTAT (R50, R147). -/
def execDdstat (d a : BitVec 5) (c : BitVec 4) (s : State) : Host.Outcome State Fault Refusal :=
  issue (.ddstat d a c) s fun t s =>
    let cap := t.c c.toNat
    if noRoom t d then .error .stall
    else if !cap.tag then .error (.cause 0x04 (BitVec.ofNat 64 c.toNat))
    else returns s d (dedupCounter s cap.dom (t.s a.toNat).toNat)

/-! ### Multicast and reducing stores (R148, R150) -/

/-- What is found of a page of another module (R357, R358; log 18). -/
def remotePage (s : State) (m va : Nat) : RemotePage := Config.remotePage s.tick ((m * 2 ^ 48 + va) / 4096)

/-- Which of the destinations of another module's page may be written. -/
def remoteDests (g : RemotePage) : List Bool := (List.range (g.more % 8 + 1)).map fun i => g.permits.getLsbD i

/-- The destinations of a checked place: each destination frame with its permission, or the place alone; of a page of another
module, which its ingress port knows, the permissions. -/
def destOf (s : State) (pl : Place) : List (Option Nat × Bool) :=
  match pl with
  | .device _ va _ _ leaf =>
    if bitOf leaf 8 then ((destinations s leaf).getD []).map fun d => (some (d.1 + va % 4096), d.2)
    else [(none, true)]
  | .remote m va _ _ => (remoteDests (remotePage s m va)).map fun w => (none, w)
  | .scratch _ _ => [(none, true)]

/-- What a multicast has done: destinations written and skipped, and whether a poisoned one stopped it. -/
structure CastState where
  s       : State
  written : Nat := 0
  skipped : Nat := 0
  stopped : Bool := false

/-- The status word of a multicast (R148). -/
def CastState.status (x : CastState) : Nat :=
  (if x.stopped then 0x0D else if x.skipped = 0 then 0 else 0x14) + x.skipped * 2 ^ 8 + x.written * 2 ^ 16

/-- A destination is poisoned: a frame, the page's own line, a line of another module by the destination's number. -/
def destPoison (s : State) (pl : Place) (n : Nat) (frame : Option Nat) : Bool :=
  match pl, frame with
  | .device _ _ _ dom _, some pa => framePoison s pa dom
  | .device asid va pa dom _, none => s.poisoned asid va pa dom
  | .remote m va _ _, _ => (remotePage s m va).poisoned.getLsbD n
  | .scratch _ _, _ => false

/-- A destination frame is written at its slice, with the grant recorded and the kick that it makes (R93, R215, R356). A frame
without backing drops the store, which is logged (R401). -/
def putFrame (s : State) (p : PStore) (asid pa : Nat) : State :=
  if !backed s pa then logDropped s p
  else kickAll (recordGrant (writeFrame s pa p.dom p.size p.value p.whole) asid p.addr) (kicked s pa p.size)

/-- A store to a destination frame, which takes the value of a REDST's operation there. -/
def frameWrite (s : State) (p : PStore) (asid pa : Nat) (rmw : Option Rmw) : State :=
  match rmw with
  | some r => putFrame s { p with value := BitVec.ofNat 1024 ((r.new p.size (frameNat s pa p.size)).getD 0) } asid pa
  | none => putFrame s p asid pa

/-- One destination is written: a frame by its own, the page's own frame as a store or an atomic. The destinations of another
module's page are written at its ingress port (R358, R404). -/
def destWrite (s : State) (l : Loc) (t : Thread) (pl : Place) (size : Nat) (rmw : Option Rmw) (frame : Option Nat)
    (v : Nat) : State :=
  let p := storeAt l t pl size (BitVec.ofNat 1024 v) false
  match pl, frame with
  | .remote _ _ _ _, _ => s
  | .device asid _ _ _ _, some pa => frameWrite s p asid pa rmw
  | _, _ =>
    match rmw with
    | some r => (rmwAt s l t pl size r).1
    | none => performStore s p

/-- One destination of a multicast, in ascending order; a REDST does not write a poisoned one. -/
def castOne (pl : Place) (reduces : Bool) (put : State → Option Nat → State) (x : CastState)
    (d : Nat × (Option Nat × Bool)) : CastState :=
  if x.stopped then x
  else if !d.2.2 then { x with skipped := x.skipped + 2 ^ d.1 }
  else if reduces && destPoison x.s pl d.1 d.2.1 then { x with stopped := true }
  else { x with s := put x.s d.2.1, written := x.written + 2 ^ d.1 }

/-- The destinations of a place in turn (R148). -/
def castAll (s : State) (pl : Place) (reduces : Bool) (put : State → Option Nat → State) : CastState :=
  let ds := destOf s pl
  ((List.range ds.length).zip ds).foldl (castOne pl reduces put) { s }

/-- A multicast to a page of another module leaves as one packet, for its ingress port to make. Without a route it is dropped, as a
store is, and its token tells of the page all the same (R405; log 18). -/
def sendCast (s : State) (pl : Place) (p : PStore) (op : Option Nat) : State :=
  match pl with
  | .remote m va dom _ =>
    if s.noRoute m then logDropped s p
    else { s with outbox := s.outbox ++ [.cast m dom va p.size op (p.value.setWidth 64)] }
  | _ => s

/-- MCST and REDST, the latter with its AOP: the checks, the release, the destinations in turn, the token (R148). A REDST
needs R in the page as well; a poisoned destination stops it after the writes before it, another module's too (R150). -/
def cast (i : Instr) (d a b : BitVec 5) (c : BitVec 4) (size : Nat) (op : Option Nat) (s : State) :
    Host.Outcome State Fault Refusal :=
  issue i s fun t s =>
    let addr := memAddr t c a 0
    let perm := if op.isSome then permW ||| permAtomic else permW
    match memCheck s s.cur t (t.c c.toNat) addr size size perm { r := op.isSome, w := true, late := true } with
    | .error e => .error e
    | .ok pl =>
      let v := (t.s b.toNat).toNat % 2 ^ (8 * size)
      let s1 := claimMe (drain (s.reachAt pl) s.myPath) d
      let s2 := sendCast s1 pl (storeAt s.cur t pl size (BitVec.ofNat 1024 v) false) op
      let x := castAll s2 pl op.isSome fun s frame => destWrite s s1.cur t pl size (op.map fun o => { op := o, v }) frame v
      let m : Multicast :=
        { handle := s.handleOf s.cur, reg := d.toNat, loc := s.cur, launch := t.launch, rcb := t.rcb
          status := BitVec.ofNat 64 x.status, crewId := t.crewId, epc := t.pc }
      let s3 := { x.s with multis := x.s.multis ++ [m] }
      .ok (s3, if x.stopped then .after 0x0D (BitVec.ofInt 64 addr) true else .next)

/-- MCST (R148). -/
def execMcst (d a b : BitVec 5) (z : BitVec 2) (c : BitVec 4) (s : State) : Host.Outcome State Fault Refusal :=
  cast (.mcst d a b z c) d a b c (elemSize z) none s

/-- REDST (R148): 0 add, 1 min and 2 max on 8 bytes, 3 fadd on 4. -/
def execRedst (d a b : BitVec 5) (o : BitVec 2) (c : BitVec 4) (s : State) : Host.Outcome State Fault Refusal :=
  let op : Nat := match o.toNat with
    | 0 => 0
    | 1 => 4
    | 2 => 5
    | _ => 9
  cast (.redst d a b o c) d a b c (if o = 3 then 4 else 8) (some op) s

end Sys2Proof.Machine
end

