-- ==== Sys2Proof/Machine/System.lean ====
section
/-!
DEFINITION. Major 0x38: the system members (R318–R330), and the steps in which the tokens of HALT, HARVEST, XINV and KEYCLR
are filled.
-/

namespace Sys2Proof.Machine

/-! ### Crossing levels -/

/-- SYSCALL (R319): from a kernel an event for the supervisor, from the supervisor the entry into the monitor. -/
def execSyscall (d a b : BitVec 5) (n : BitVec 6) (s : State) : Host.Outcome State Fault Refusal :=
  issue (.syscall d a b n) s fun t s =>
    let word := (encodeWord (.syscall d a b n)).setWidth 64
    if isPair s.cur.core then
      if t.priv = 2 then .error (.cause 0x01 word)
      else if d != 0 then .error (.cause 0x02 word)
      else
        let s1 := monitorTrap s (t.pc + 4) (BitVec.ofNat 64 (n.toNat * 2 ^ 8)) 0
        .ok (s1, .jump s1.me.pc)
    else if 8 ≤ outbound s s.cur.core then .error .stall
    else
      let s1 := drain s s.myPath
      let s2 := sendEvent s1 s.cur (dieOf s.cur.core) 0x00 (s.handleOf s.cur)
        (BitVec.ofNat 64 (n.toNat + d.toNat * 2 ^ 8)) (t.s a.toNat) (t.s b.toNat) t.launch t.rcb t.number
      .ok (s2.setMe (s2.me.empty d.toNat), .next)

/-- The monitor passes control to the service operating system: the watchdog of a trial bank starts with the first time (R317,
R397). -/
def startTrial (s : State) (t : Thread) : State :=
  if s.trialArmed && t.priv == 2 && t.ppriv == 1 then { s with trialArmed := false, trialEnd := some (s.now + 600000000000) } else s

/-- ERET (R320). -/
def execEret (s : State) : Host.Outcome State Fault Refusal :=
  issue .eret s fun t s =>
    let r := trapReturn t
    match transferCheck s t r.1 with
    | some e => .error e
    | none => .ok ((startTrial (reachTarget s t r.1) t).setMe r.2, .jump r.1)

/-- WFI (R321). -/
def execWfi (s : State) : Host.Outcome State Fault Refusal := sleep .wfi .wfi s

/-! ### Halting -/

/-- The cores that HALT acts on, if its target exists (R322). -/
def haltTargets (s : State) (h : Word) (m : BitVec 2) : Option (List Nat) :=
  match namedCore h with
  | none => none
  | some id =>
    if s.mappedOut id then none
    else if m.toNat < 2 then some [id]
    else some ((List.range 4).map fun j => coreOf (clusterOf id) j)

/-- Some cores halted or resumed. -/
def setHalted (s : State) (ids : List Nat) (b : Bool) : State :=
  ids.foldl (fun s id => s.setCore id { s.core id with halted := b }) s

/-- A token filled by the step that issues its member. -/
def fillNow (s : State) (d : BitVec 5) (v : Word) : Except Stop (State × Act) :=
  .ok (s.setMe (s.me.fill d.toNat v), .next)

/-- A token that a later step fills (R318). -/
def fillLater (s : State) (t : Thread) (d : BitVec 5) (op : SysOp) : Except Stop (State × Act) :=
  let p : Pending := { handle := s.handleOf s.cur, reg := d.toNat, loc := s.cur, launch := t.launch, rcb := t.rcb, op }
  .ok ({ claimMe s d with pending := s.pending ++ [p] }, .next)

/-- HALT (R322): a target that does not exist gives status 0x01, a resume is done at once. -/
def execHalt (d a : BitVec 5) (m : BitVec 2) (s : State) : Host.Outcome State Fault Refusal :=
  issue (.halt d a m) s fun t s =>
    match haltTargets s (t.s a.toNat) m with
    | none => fillNow s d 0x01
    | some ids =>
      if m.toNat % 2 = 1 then fillNow (setHalted s ids false) d 0
      else fillLater (setHalted s ids true) t d (.halt ids)

/-- What an instruction that has issued waits for without parking: the SFU, a CSR write, a route of the fabric (R36, R190,
R405). -/
def Wait.unfinished : Option Wait → Bool
  | some .sfu => true
  | some .csr => true
  | some (.route _ _ _ _) => true
  | _ => false

/-- Every instruction that a core has issued has completed. -/
def quiet (s : State) (id : Nat) : Bool :=
  (s.core id).matq.isEmpty && (List.range 16).all fun n =>
    match s.thread? { core := id, slot := n } with
    | some t => t.holds.isEmpty && !Wait.unfinished t.wait
    | none => true

/-- A token of a SYS member is filled and its operation is over. -/
def endPending (s : State) (n : Nat) (p : Pending) (v : Word) : State :=
  fillToken { s with pending := s.pending.eraseIdx n } p.handle p.reg v p.launch p.rcb 0

/-- HALT_COMPLETION (R322). -/
def execHaltCompletion (s : State) : Host.Outcome State Fault Refusal :=
  match s.pending[s.cue.a]? with
  | some p =>
    match p.op with
    | .halt ids => outside (if ids.all (quiet s) then endPending s s.cue.a p 0 else s)
    | _ => outside s
  | none => outside s

/-! ### Waking -/

/-- A WAKE leaves: a release at device scope (R86). -/
def wakeMember (i : Instr) (a : BitVec 5) (page : Bool) (s : State) : Host.Outcome State Fault Refusal :=
  issue i s fun t s =>
    let h := t.s a.toNat
    .ok (send (drain s s.myPath)
      { dest := handleCore h, src := s.cur, launch := t.launch, rcb := senderRcb s t, body := .wake h page
        sender := t.number, crew := t.crewId }, .next)

/-- WAKE (R25, R323). -/
def execWake (a : BitVec 5) (s : State) : Host.Outcome State Fault Refusal := wakeMember (.wake a) a false s

/-- WAKE_PG (R323). -/
def execWakePg (a : BitVec 5) (s : State) : Host.Outcome State Fault Refusal := wakeMember (.wakePg a) a true s

/-! ### Pages -/

/-- The first operand of HARVEST and XINV that is out of its limits (R324). -/
def rangeBad (a b : Word) : Option Word :=
  if bitsOf a 11 0 != 0 || bitsOf a 63 56 != 0 then some a
  else if bitsOf b 63 48 != 0 || 2 ^ 20 < bitsOf b 47 16 then some b
  else none

/-- HARVEST (R324): a count of 0 fills at once. -/
def execHarvest (d a b : BitVec 5) (s : State) : Host.Outcome State Fault Refusal :=
  issue (.harvest d a b) s fun t s =>
    let x := t.s a.toNat
    let y := t.s b.toNat
    match rangeBad x y with
    | some v => .error (.cause 0x05 v)
    | none =>
      if bitsOf y 47 16 = 0 then fillNow s d 0
      else fillLater s t d (.harvest (bitsOf y 15 0) (x.toNat / 4096) (bitsOf y 47 16))

/-- D is set in the leaf that maps a harvested step; the count rises where D was clear (R324). -/
def harvestPage (x : State × Nat) (asid page : Nat) : State × Nat :=
  match leafAddr x.1 asid (page * 4096) with
  | some a => if bitOf (x.1.entry a) 5 then x else (orEntry x.1 a 0x20, x.2 + 1)
  | none => x

/-- The grant records of a range are handed over (R324). -/
def harvest (s : State) (asid page count : Nat) : State × Nat :=
  let mine (g : Nat × Nat × Nat) : Bool := g.2.1 == asid && page ≤ g.2.2 && g.2.2 < page + count
  let gs := s.grants.filter mine
  let s1 := { s with grants := s.grants.filter fun g => !mine g }
  gs.foldl (fun x g => harvestPage x g.2.1 g.2.2) (s1, 0)

/-- HARVEST_COMPLETION (R324). -/
def execHarvestCompletion (s : State) : Host.Outcome State Fault Refusal :=
  match s.pending[s.cue.a]? with
  | some p =>
    match p.op with
    | .harvest asid page count =>
      let x := harvest s asid page count
      outside (endPending x.1 s.cue.a p (BitVec.ofNat 64 x.2))
    | _ => outside s
  | none => outside s

/-- A page of 2^shift bytes lies in a scope. -/
def Scope.has (c : Scope) (asid va shift : Nat) : Bool :=
  c.mode == 2 || (c.asid == asid &&
    (c.mode == 1 || (va / 2 ^ shift * 2 ^ shift < (c.page + c.count) * 4096 &&
      c.page * 4096 < (va / 2 ^ shift + 1) * 2 ^ shift)))

/-- The address space and address of a line's key. -/
def keyAsid (key : Nat) : Nat := key / 2 ^ 49
def keyAddr (key : Nat) : Nat := key % 2 ^ 49 * 128

/-- A line's cluster copies are recalled and invalidated, and it is written back and kept clean (R325). -/
def recallLine (s : State) (key : Nat) : State :=
  match s.lines.find key with
  | none => s
  | some l =>
    let s1 := if l.dirty || l.dir.owned then writeBack s l else s
    uncache (setLine s1 key { l with dirty := false, dir := .invalid }) key

/-- Some pending stores of every path are performed, with what must precede them. -/
def performAll (s : State) (want : PStore → Bool) : State := s.stores.foldl (fun s e => performWhere s e.1 want) s

/-- A store was translated in a scope. -/
def Scope.covers (c : Scope) (p : PStore) : Bool :=
  match p.space with
  | .device asid => c.has asid p.addr 7
  | _ => false

/-- What every home slice does for an XINV (R325): the issuer's own earlier stores are performed, so that no later walk finds the
entry that they replace (R81, R92); the stores translated in the scope are performed under the translation that they have, the
slice's lines of the scope are recalled and written back, its translations and the replicas dropped. Every later access
translates afresh. -/
def invalidate (s : State) (c : Scope) : State :=
  let s0 := performAll (drain s s.myPath) c.covers
  let keys := (s0.lines.filter fun e => c.has (keyAsid e.1) (keyAddr e.1) 7).map fun e => e.1
  let s1 := keys.foldl recallLine s0
  { s1 with
    tlb := s1.tlb.filter fun e => !c.has e.asid (e.page * 2 ^ e.shift) e.shift
    replicas := s1.replicas.filter fun r => !c.has r.asid (r.line * 128) 7 }

/-- XINV (R325). -/
def execXinv (d a b : BitVec 5) (m : BitVec 2) (s : State) : Host.Outcome State Fault Refusal :=
  issue (.xinv d a b m) s fun t s =>
    let x := t.s a.toNat
    let y := t.s b.toNat
    let go (c : Scope) : Except Stop (State × Act) := fillLater (invalidate s c) t d (.xinv c)
    if m.toNat = 0 then
      match rangeBad x y with
      | some v => .error (.cause 0x05 v)
      | none => go { asid := bitsOf y 15 0, page := x.toNat / 4096, count := bitsOf y 47 16 }
    else if m.toNat = 1 then go { mode := 1, asid := bitsOf y 15 0 }
    else go { mode := 2 }

/-- XINV_COMPLETION (R325): every access translated under a dropped entry has performed, in the step that dropped it. -/
def execXinvCompletion (s : State) : Host.Outcome State Fault Refusal :=
  match s.pending[s.cue.a]? with
  | some p =>
    match p.op with
    | .xinv _ => outside (endPending s s.cue.a p 0)
    | _ => outside s
  | none => outside s

/-! ### Keys -/

/-- The copies of a key slot in the dies that are not in DIE-SLEEP (R393). -/
def dieCopies (s : State) (n : Nat) (b : Bool) : State :=
  (List.range 12).foldl (fun s d =>
    let x := s.die d
    if x.dstate = 2 then s
    else s.setDie d { x with keys := if b then x.keys ||| (1#64 <<< n) else x.keys &&& ~~~(1#64 <<< n) }) s

/-- The digest of the monitor component of the bundle that the module runs (R394, R395). -/
def State.monitorDigest (s : State) : BitVec 384 :=
  monitorDigestOf (s.banks.get {} s.active).bundle

/-- A record as the monitor seals it, under its K_seal and the next nonce (R394). -/
def sealRecord (s : State) (record : BitVec 1024) : SealedRecord :=
  let x := gcmSeal (sealKey s.monitorDigest) s.sealNonce record
  { text := x.1, tag := x.2, nonce := s.sealNonce }

/-- A sealed copy as the monitor unseals it: none where its tag does not verify under the K_seal of this monitor (R394). -/
def unsealRecord (s : State) (r : SealedRecord) : Option (BitVec 1024) := gcmOpen (sealKey s.monitorDigest) r.nonce r.text r.tag

/-- A stored line verifies under a record for its domain, whose XTS keys are not those that it was written under: its MAC covers the
ciphertext alone (R388). -/
def Seal.recasts (e : Seal) (dom : Nat) (record : BitVec 1024) : Bool :=
  e.sealed && e.dom == dom && e.mac == macKey record && e.record.setWidth 512 != (record.setWidth 512 : BitVec 512)

/-- Such a line is listed as the content to which its ciphertext decrypts under that record (R390; log 17). -/
def recastLine (s : State) (n : Nat) (record : BitVec 1024) : State :=
  let data := plainOf record (n * 128) (storedText s n)
  { s with
    mem := (List.range 128).foldl (fun m i => memPut m (n * 128 + i) (byteOf data.toNat i)) s.mem
    seals := s.seals.set n { s.seals.get {} n with record } }

/-- The lines of a domain whose keys are loaded. -/
def recast (s : State) (dom : Nat) (record : BitVec 1024) : State :=
  (s.seals.filter fun e => e.2.recasts dom record).foldl (fun s e => recastLine s e.1 record) s

/-- A key slot takes a record: the keys serve the domain of its number, whose counters start anew (R326, R393). The monitor keeps
a copy of it, sealed (R394). -/
def loadKey (s0 : State) (n : Nat) (record : BitVec 1024) : State :=
  let s := recast s0 n record
  dieCopies
    { s with
      keys := s.keys.set n { record, active := true, epoch := (s.key n).epoch + 1 }
      sealedRecords := s.sealedRecords.set n (sealRecord s record)
      sealNonce := s.sealNonce + 1
      toRestore := s.toRestore.filter (· != n)
      coll := s.coll.del n, unsh := s.unsh.del n } n true

/-- The slot a KEYSET request takes: the named one, or the lowest inactive one of 0 to 62 (R326). Debug mode HALT takes none of
0 to 62 (R400). -/
def keySlotFor (s : State) (w : Word) : Option Nat :=
  let free (n : Nat) : Bool := !(s.key n).active && !(s.dbgctl == 2 && n < 63)
  if bitOf w 6 then (List.range 63).find? free
  else if free (bitsOf w 5 0) then some (bitsOf w 5 0) else none

/-- KEYSET (R326). -/
def execKeyset (d a : BitVec 5) (c : BitVec 4) (s : State) : Host.Outcome State Fault Refusal :=
  issue (.keyset d a c) s fun t s =>
    let w := t.s a.toNat
    let cap := t.c c.toNat
    let base := BitVec.ofNat 64 cap.base
    if noRoom t d then .error .stall
    else if bitsOf w 63 7 != 0 || (bitOf w 6 && bitsOf w 5 0 != 0) then .error (.cause 0x05 w)
    else match capCheck cap cap.base 128 permR with
      | some cause => .error (.cause cause base)
      | none =>
        if cap.space != 0 then .error (.cause 0x06 base)
        else match memCheck s s.cur t cap cap.base 128 128 permR { r := true } with
          | .error e => .error e
          | .ok pl =>
            let s := (settleWide s s.myPath false pl 128).reachAt pl
            let record := BitVec.ofNat 1024 (s.loadNat s.myPath pl 128)
            if record.extractLsb' 896 128 != 0 then .error (.cause 0x05 (base + 112))
            else match keySlotFor s w with
              | some n => returns (loadKey s n record) d (BitVec.ofNat 64 (n * 2 ^ 8))
              | none => returns s d (BitVec.ofNat 64 (0x12 + bitsOf w 5 0 * 2 ^ 8))

/-- KEYCLR (R327): an inactive slot fills at once. -/
def execKeyclr (d a : BitVec 5) (s : State) : Host.Outcome State Fault Refusal :=
  issue (.keyclr d a) s fun t s =>
    let w := t.s a.toNat
    if bitsOf w 63 6 != 0 then .error (.cause 0x05 w)
    else if !(s.key w.toNat).active then fillNow s d 0
    else fillLater s t d (.keyclr w.toNat)

/-- The domain of a replica: its held line's, else its page's. -/
def replicaDom (s : State) (r : Replica) : Nat :=
  match s.line? r.asid (r.line * 128) with
  | some l => l.dom
  | none =>
    match xlate s r.asid (r.line * 128) with
    | .leaf e _ _ => bitsOf e 53 48
    | _ => 64

/-- Every line of a domain is discarded wherever it is held, the stores that have passed their check with it, and the slot's keys
are zeroed (R327), the monitor's sealed copy of them with it. -/
def clearKey (s0 : State) (n : Nat) : State :=
  let s := performAll s0 fun p => p.dom == n && match p.space with
    | .device _ => true
    | _ => false
  let keys := (s.lines.filter fun e => e.2.dom == n).map fun e => e.1
  let rs := s.replicas.filter fun r => replicaDom s r != n
  let s1 := keys.foldl dropLine s
  dieCopies { s1 with
    replicas := rs, sealedRecords := s1.sealedRecords.del n, toRestore := s1.toRestore.filter (· != n)
    keys := s1.keys.set n { record := 0, active := false, epoch := (s1.key n).epoch } } n false

/-- KEYCLR_COMPLETION (R327). -/
def execKeyclrCompletion (s : State) : Host.Outcome State Fault Refusal :=
  match s.pending[s.cue.a]? with
  | some p =>
    match p.op with
    | .keyclr n => outside (endPending (clearKey s n) s.cue.a p 0)
    | _ => outside s
  | none => outside s

/-! ### The spill ring -/

/-- SPILLRPL (R328): the replay begins. A core that does not exist has no ring to replay. -/
def execSpillrpl (d a b : BitVec 5) (s : State) : Host.Outcome State Fault Refusal :=
  issue (.spillrpl d a b) s fun t s =>
    match namedCore (t.s a.toNat), namedCore (t.s b.toNat) with
    | some src, some dst => fillLater s t d (.spill src dst)
    | _, _ => fillNow s d 0

end Sys2Proof.Machine
end

