-- ==== Sys2Proof/Machine/Arrivals.lean ====
section
/-!
DEFINITION. What reaches the network interfaces: messages, threads, replies, wakes, tokens, packets and events, their holding
and their diversion into spill rings, and the replay of those (R9–R20, R25, R160, R169, R248, R314, R328, R346).
-/

namespace Sys2Proof.Machine

/-! ### Starting threads (R9, R14, R15, R314) -/

/-- The crew that takes arrivals at a core: one that is being ended takes none. -/
def crewFor (s : State) (id : Nat) : Option Crew :=
  match (if isCompute id then (s.cluster (clusterOf id)).crew else none) with
  | some c => if c.killed || c.requeue then none else some c
  | none => none

/-- The handler thread of a message (R9, R14, R158). -/
def messageThread (s : State) (c : Crew) (handler : Word) (words : List Word) : Thread :=
  let code := tableCap s c.asid c.ctxroot 0
  { kind := .message, pc := BitVec.ofNat 64 code.base + handler
    regs := (List.range words.length).map fun i => (i + 1, words.getD i 0)
    caps := [(0, code), (14, tableCap s c.asid c.ctxroot 14), (15, c.ctxroot)]
    rid := c.rid, rcb := c.rcb, asid := c.asid, launch := c.launch, crewId := c.crewId, crewCnt := c.crewCnt
    mmrev := c.mmrev }

/-- A migrated thread receives its code and argument capabilities from the table of the root it carries (R9). -/
def migratedThread (s : State) (t : Thread) : Thread :=
  let root := t.caps.get {} 15
  { t with caps := [(0, tableCap s t.asid root 0), (14, tableCap s t.asid root 14), (15, root)] }

/-- The thread of an event at a pair: supervisor privilege, copies of slot 0's `c0`, `c14` and supervisor `c15` (R314). -/
def eventThread (s : State) (id offset : Nat) (ws : List Word) (rcb : Nat) : Thread :=
  let t := s.thread { core := id }
  let cap (n : Nat) : Nat × Cap := (n, t.caps.get {} n)
  { kind := .pair, pc := BitVec.ofNat 64 (t.caps.get {} 0).base + (s.core id).svec + BitVec.ofNat 64 offset
    regs := (List.range 4).map fun i => (i + 1, ws.getD i 0)
    caps := [cap 0, cap 14, cap 15], priv := 1, srcb := BitVec.ofNat 64 rcb, asid := t.asid }

/-- A slot put into a list by the moment since which its thread waits. -/
def insertWaiter (s : State) (l : Loc) : List Loc → List Loc
  | [] => [l]
  | x :: xs => if (s.thread l).since ≤ (s.thread x).since then l :: x :: xs else x :: insertWaiter s l xs

/-- A slot of a core put into a queue of its waiting STARTs or VGROWs, which are served in issue order (R11, R27, R29). -/
def insertSlot (s : State) (l : Loc) (q : List Nat) : List Nat :=
  (insertWaiter s l (q.map fun n => { core := l.core, slot := n })).map fun x => x.slot

/-- A wait for a place or for registers joins the queue of the core it has moved to, at its place in issue order. -/
def requeueWait (s : State) (l : Loc) (t : Thread) : State :=
  let c := s.core l.core
  match t.wait with
  | some (.start _ _ _) => s.setCore l.core { c with startq := insertSlot s l c.startq }
  | some (.vgrow _) => s.setCore l.core { c with vgrowq := insertSlot s l c.vgrowq }
  | _ => s

/-- A thread with its whole state is placed: it keeps its wake-pending bit and the time that its watchdog has counted (R17, R26,
R336). It arrives as a migrated thread, and so does a helper that a visitor had started: it never counts toward the ten helpers of
its new core (R159). -/
def placeWhole (s : State) (l : Loc) (t : Thread) : State :=
  requeueWait ((placeIn s l { t with counted := false }).onThread l fun x =>
    { x with wake := t.wake, retired := t.retired }) l t

/-- The slots of a pair that wait in WFI go on (R321). -/
def endWfi (s : State) (id : Nat) : State :=
  (List.range 16).foldl (fun s n =>
    let l : Loc := { core := id, slot := n }
    if (s.thread l).wait = some .wfi then completeAt s l id' else s) s
where
  /-- The thread is unchanged. -/
  id' (t : Thread) : Thread := t

/-- A core as a handle's layout names it (R18). -/
def coreHandle (id : Nat) : Word :=
  BitVec.ofNat 64 (dieOf id * 2 ^ 27 + id / 4 % 32 * 2 ^ 22 + id % 4 * 2 ^ 20)

/-- The `CREWID` that a thread reads where it arrives: the number of the crew that it runs on, where that is of its own region, and
the value that it carries where it is a visitor (R5, R17). -/
def crewNumber (s : State) (id : Nat) (t : Thread) : Thread :=
  match (s.cluster (clusterOf id)).crew with
  | some c => if c.rid == t.rid then { t with crewId := c.crewId } else t
  | none => t

/-- An arrival takes a free pool slot, or is discarded; none where it has to be held (R13, R16). The manual names no other
condition: a displaced visitor whose vector allotment the core's pool cannot meet is held as well, with every arrival
behind it, though a pool slot is free. DESIGN CHOICE, log 74. -/
def placeArrival (s : State) (id : Nat) (d : Delivery) : Option State :=
  match d.body with
  | .message handler words =>
    match crewFor s id with
    | none => some (undeliverable s d.rcb (coreHandle id) 0 d.launch d.crew)
    | some c => (freePool s id).map fun n =>
      reachTable (placeIn s { core := id, slot := n } (messageThread s c handler words)) c.asid c.ctxroot
  | .thread t whole =>
    if freeVectors s id < t.vallot then none
    else (freePool s id).map fun n =>
      let l : Loc := { core := id, slot := n }
      let t := crewNumber s id t
      if whole then placeWhole s l t
      else reachTable (placeIn s l (migratedThread s t)) t.asid (t.caps.get {} 15)
  | .event offset s1 s2 s3 s4 rcb =>
    if !(s.core id).started then none
    else (freePool s id).map fun n =>
      placeIn s { core := id, slot := n } (eventThread s id offset [s1, s2, s3, s4] rcb)
  | _ => some s

/-- An arrival reaches a core: it claims a slot, or waits behind those that are held already (R13). -/
def arriveAt (s : State) (id : Nat) (d : Delivery) : State :=
  let hold : State :=
    let c := s.core id
    s.setCore id { c with held := c.held ++ [d] }
  if !(s.core id).held.isEmpty then hold else (placeArrival s id d).getD hold

/-! ### Deliveries by handle (R20, R25, R160, R323) -/

/-- A REPLY reaches its thread: not a register that is claimed (R160). -/
def replyTo (s : State) (d : Delivery) (l : Loc) (h : Word) (r : Nat) (v : Word) : State :=
  if (s.thread l).isClaimed r && !(s.thread l).isFull r then
    undeliverable s (blameHandle s h d.rcb) h 1 d.launch d.crew
  else s.onThread l fun t => (t.setS r v).unsync r

/-- A `.pg` WAKE reaches a thread: it ends a wait for an absent page, of the thread or of its request in the SFU. -/
def pageWake (s : State) (l : Loc) : State :=
  match (s.thread l).wait with
  | some (.page _ _) => s.onThread l fun t => { t with wait := none, readyFrom := none }
  | some .sfu =>
    let k := clusterOf l.core
    let cl := s.cluster k
    s.setCluster k { cl with sfu := cl.sfu.map fun q => if q.loc = l then { q with wait := none } else q }
  | _ => s

/-- The unit without a live thread that an agent handle names for a `.pg` WAKE: a copy hart of its own generation, a Lichen
unit, neither of a cluster that is mapped out (R20, R323, R412). -/
def handleUnit (s : State) (h : Word) : Option (Nat × Bool) :=
  let k := bitsOf h 30 27 * 32 + bitsOf h 26 22
  if !bitOf h 31 || 12 ≤ bitsOf h 30 27 || s.mappedOut (4096 + k) then none
  else if h = State.lichenHandle k then some (k, true)
  else if h = s.handleOf { core := 4096 + k } then some (k, false)
  else none

/-- The commands of a copy hart or of a Lichen unit no longer wait for their pages. -/
def unitWake (s : State) (k : Nat) (lichen : Bool) : State :=
  let cl := s.cluster k
  s.setCluster k
    (if lichen then { cl with lichen := cl.lichen.map fun q => { q with wait := none } }
     else { cl with copies := cl.copies.map fun q => { q with wait := none } })

/-- A WAKE by its handle (R25, R323). -/
def wakeBy (s : State) (d : Delivery) (h : Word) (page : Bool) (l : Option Loc) : State :=
  let s1 := match (if page then handleUnit s h else none) with
    | some (k, lichen) => unitWake s k lichen
    | none => s
  match l with
  | some l => if page then pageWake s1 l else applyWake s1 l
  | none =>
    if page && (handleUnit s h).isSome then s1 else undeliverable s (blameHandle s h d.rcb) h 2 d.launch d.crew

/-- A barrier or NRED packet reaches a core: a cluster without a crew discards it. -/
def packetAt (s : State) (id : Nat) (d : Delivery) (f : State → State) : State :=
  if (crewFor s id).isNone then undeliverable s (blameRegion s id d.rcb) (coreHandle id) 4 d.launch d.crew else f s

/-- A round packet is kept with its context, whose rounds go on (R169). -/
def barrierAt (s : State) (id ctx round tag : Nat) : State :=
  let c := s.core id
  let b := c.bar ctx
  barProgress barFuel (s.setCore id { c with bars := c.bars.set ctx { b with packets := b.packets ++ [(round, tag)] } }) id ctx

/-- A delivery takes effect at a core; `l` is the live thread that a handle has been found to name. -/
def takeEffect (s : State) (id : Nat) (l : Option Loc) (d : Delivery) : State :=
  match d.body with
  | .message _ _ | .thread _ _ => arriveAt s id d
  | .event _ _ _ _ _ _ => arriveAt (endWfi s id) id d
  | .reply h r v =>
    match l with
    | some l => replyTo s d l h r v
    | none => undeliverable s (blameHandle s h d.rcb) h 1 d.launch d.crew
  | .wake h page => wakeBy s d h page l
  | .token h r v =>
    match l with
    | some l => s.onThread l fun t => (t.fill r v).unsync r
    | none => if r = 0 then s else undeliverable s (blameHandle s h d.rcb) h 3 d.launch d.crew
  | .barrier ctx round tag => packetAt s id d fun s => barrierAt s id ctx round tag
  | .nred ctx op tag v => packetAt s id d fun s => nredArrive s id ctx op tag v

/-! ### Sorting (R345, R346) -/

/-- The handle that a delivery is addressed by. -/
def Body.handle : Body → Option Word
  | .reply h _ _ => some h
  | .wake h _ => some h
  | .token h _ _ => some h
  | _ => none

/-- A packet of a barrier context. -/
def Body.isPacket : Body → Bool
  | .barrier _ _ _ => true
  | .nred _ _ _ _ => true
  | _ => false

/-- The way of a delivery that no handle addresses: into the ring of a saved crew of its launch, on to where that crew has
resumed if it is a packet, or to the core it is addressed to. Where the old cluster has been given to another crew of the same
launch, a packet is that crew's and is not sent on: nothing in it says which crew of the launch it is for. DESIGN CHOICE,
log 80. -/
def routeCore : Nat → State → Nat → Delivery → Nat × Option Nat
  | 0, _, id, _ => (id, none)
  | n + 1, s, id, d =>
    let sp := (s.core id).spills
    match sp.findIdx? fun x => x.draining && x.launch == d.launch with
    | some i => (id, some i)
    | none =>
      match (sp.find? fun x => !x.draining && x.launch == d.launch).bind fun x => x.forward with
      | some far =>
        if d.body.isPacket && !((crewFor s id).any fun c => c.launch == d.launch) && far != id then routeCore n s far d
        else (id, none)
      | none => (id, none)

/-- A delivery reaches its interface: none where the interface does not take it yet. -/
def deliver (s : State) (d : Delivery) : Option State :=
  match d.body.handle with
  | some h =>
    match routeHandle s h d.launch with
    | .spill id i => if ringRoom s id i then some (spillAdd s id i d) else none
    | .thread l => if replaying s l.core then none else some (takeEffect s l.core (some l) d)
    | .lost => some (takeEffect s d.dest none d)
  | none =>
    match routeCore s.routeFuel s d.dest d with
    | (id, some i) => if ringRoom s id i then some (spillAdd s id i d) else none
    | (id, none) => if replaying s id then none else some (takeEffect s id none d)

/-- An arrival: a message, a migrated thread, an event for a service pair (R13, R314). -/
def Body.isArrival : Body → Bool
  | .message _ _ => true
  | .thread _ _ => true
  | .event _ _ _ _ _ _ => true
  | _ => false

/-- No earlier arrival from the same thread, wherever it ran, is still on its way to the same core (R13). What no thread has sent
has the number 0. -/
def inOrder (s : State) (n : Nat) (d : Delivery) : Bool :=
  !d.body.isArrival || d.sender == 0 ||
    !((s.net.take n).any fun x => x.body.isArrival && x.sender == d.sender && x.dest == d.dest)

/-- The n-th delivery under way reaches its interface, if it is of the kind asked for. -/
def netEvent (s : State) (want : Body → Bool) : Host.Outcome State Fault Refusal :=
  let n := s.cue.a
  match s.net[n]? with
  | some d =>
    if want d.body && inOrder s n d then outside ((deliver { s with net := s.net.eraseIdx n } d).getD s) else outside s
  | none => outside s

/-! ### The steps -/

/-- MESSAGE_ARRIVAL (R14). -/
def execMessageArrival (s : State) : Host.Outcome State Fault Refusal :=
  netEvent s fun b => match b with
    | .message _ _ => true
    | _ => false

/-- MIGRATED_THREAD_ARRIVAL (R15, R17). -/
def execMigratedThreadArrival (s : State) : Host.Outcome State Fault Refusal :=
  netEvent s fun b => match b with
    | .thread _ _ => true
    | _ => false

/-- HELPER_TOKEN_DELIVERY (R12). -/
def execHelperTokenDelivery (s : State) : Host.Outcome State Fault Refusal :=
  netEvent s fun b => match b with
    | .token _ _ _ => true
    | _ => false

/-- REPLY_DELIVERY (R160). -/
def execReplyDelivery (s : State) : Host.Outcome State Fault Refusal :=
  netEvent s fun b => match b with
    | .reply _ _ _ => true
    | _ => false

/-- WAKE_DELIVERY (R25, R323). -/
def execWakeDelivery (s : State) : Host.Outcome State Fault Refusal :=
  netEvent s fun b => match b with
    | .wake _ _ => true
    | _ => false

/-- BARRIER_PACKET (R169). -/
def execBarrierPacket (s : State) : Host.Outcome State Fault Refusal :=
  netEvent s fun b => match b with
    | .barrier _ _ _ => true
    | _ => false

/-- NRED_PACKET (R248). -/
def execNredPacket (s : State) : Host.Outcome State Fault Refusal :=
  netEvent s fun b => match b with
    | .nred _ _ _ _ => true
    | _ => false

/-- An event with an offset. -/
def isEvent (offset : Nat) (b : Body) : Bool :=
  match b with
  | .event o _ _ _ _ _ => o == offset
  | _ => false

/-- SYSCALL_EVENT (R314). -/
def execSyscallEvent (s : State) : Host.Outcome State Fault Refusal := netEvent s (isEvent 0x00)

/-- PAGE_EVENT (R335). -/
def execPageEvent (s : State) : Host.Outcome State Fault Refusal := netEvent s (isEvent 0x10)

/-- FAULT_EVENT (R314). -/
def execFaultEvent (s : State) : Host.Outcome State Fault Refusal := netEvent s (isEvent 0x20)

/-- HELD_ARRIVAL_PLACED (R13): the first held arrival of a core. -/
def execHeldArrivalPlaced (s : State) : Host.Outcome State Fault Refusal :=
  let id := s.cue.a
  let c := s.core id
  match c.held with
  | [] => outside s
  | d :: ds => outside ((placeArrival (s.setCore id { c with held := ds }) id d).getD s)

/-- HELPER_PLACED (R11): the first waiting START of a core. -/
def execHelperPlaced (s : State) : Host.Outcome State Fault Refusal :=
  let id := s.cue.a
  let c := s.core id
  match c.startq with
  | [] => outside s
  | n :: ns =>
    let l : Loc := { core := id, slot := n }
    let s1 := s.setCore id { c with startq := ns }
    match (s.thread l).wait, helperRoom s id with
    | some (.start entry arg reg), some k =>
      let h := helperOf (s.thread l) (s.handleOf l) entry arg reg
      outside (completeAt (placeIn s1 { core := id, slot := k } h) l fun t => t)
    | some (.start _ _ _), none => outside s
    | _, _ => outside s1

/-- VGROW_SATISFIED (R155): the first waiting VGROW of a core; its registers read zero. -/
def execVgrowSatisfied (s : State) : Host.Outcome State Fault Refusal :=
  let id := s.cue.a
  let c := s.core id
  match c.vgrowq with
  | [] => outside s
  | n :: ns =>
    let l : Loc := { core := id, slot := n }
    let s1 := s.setCore id { c with vgrowq := ns }
    match (s.thread l).wait with
    | some (.vgrow k) =>
      if freeVectors s id < k then outside s
      else outside (completeAt s1 l fun t => { t with vallot := t.vallot + k })
    | _ => outside s1

/-! ### Replay (R328) -/

/-- The ring that SPILLRPL replays: that of the launch that runs on the destination, else the source core's first. -/
def ringFor (s : State) (src dst : Nat) : Option Nat :=
  let sp := (s.core src).spills
  let mine := sp.findIdx? fun x => x.draining && (crewFor s dst).any fun c => c.launch == x.launch && c.crewId == x.crew
  match mine with
  | some i => some i
  | none => sp.findIdx? fun x => x.draining

/-- An entry takes effect at the destination as on arrival: a handle's slot and generation are the same there (R26). -/
def replay (s : State) (dst : Nat) (d : Delivery) : State :=
  let l := d.body.handle.bind fun h =>
    let l : Loc := { core := dst, slot := bitsOf h 19 16 }
    if (s.thread? l).isSome && (s.slot l).gen == genOf h then some l else none
  takeEffect s dst l d

/-- SPILLRPL_COMPLETION (R328): every entry is replayed in order, the old interface forwards from now on, the token counts the
entries. -/
def execSpillrplCompletion (s : State) : Host.Outcome State Fault Refusal :=
  match s.pending[s.cue.a]? with
  | some p =>
    match p.op with
    | .spill src dst =>
      match ringFor s src dst with
      | none => outside (endPending s s.cue.a p 0)
      | some i =>
        let c := s.core src
        let x := c.spills.getD i {}
        let left := if src = dst then c.spills.eraseIdx i
          else c.spills.set i { x with ring := [], draining := false, forward := some dst }
        let s1 := s.setCore src { c with spills := left }
        outside (endPending (x.ring.foldl (fun s d => replay s dst d) s1) s.cue.a p (BitVec.ofNat 64 x.ring.length))
    | _ => outside s
  | none => outside s

end Sys2Proof.Machine
end

