-- ==== Sys2Proof/Machine/Capability.lean ====
section
/-!
DEFINITION. Majors 0x1A, 0x1B and 0x1C: the capability members (R126–R133).
-/

namespace Sys2Proof.Machine

/-- A register number as the value of a fault (R128). -/
def regVal {w : Nat} (r : BitVec w) : Word := BitVec.ofNat 64 r.toNat

/-- `c15` is out of reach of a kernel thread (R126). -/
def sealedRoot (t : Thread) (d : BitVec 4) : Bool := d == 15 && t.priv == 0

/-- Writes a derived capability and goes on, refused for `c15` at kernel privilege (R126, R136). -/
def derive (i : Instr) (s : State) (t : Thread) (d : BitVec 4) (c : Cap) : Except Stop (State × Act) :=
  if sealedRoot t d then .error (.cause 0x06 ((encodeWord i).setWidth 64)) else .ok (s.setCap d.toNat c, .next)

/-- The window of a capability from an offset (R128): a length below zero is out of bounds. -/
def windowOf (i : Instr) (s : State) (t : Thread) (d c : BitVec 4) (off : Word) (len : Int) :
    Except Stop (State × Act) :=
  let src := t.c c.toNat
  if !src.tag then .error (.cause 0x04 (regVal c))
  else if src.len < off.toNat || len < 0 || (src.len : Int) - off.toNat < len then .error (.cause 0x05 off)
  else derive i s t d (src.window (src.base + off.toNat) len.toNat)

/-- CBND (R127, R128). -/
def execCbnd (d c : BitVec 4) (a r : BitVec 5) (s : State) : Host.Outcome State Fault Refusal :=
  issue (.cbnd d c a r) s fun t s => windowOf (.cbnd d c a r) s t d c (t.s a.toNat) (t.s r.toNat).toNat

/-- CRESTR (R127). -/
def execCrestr (d c : BitVec 4) (a : BitVec 5) (s : State) : Host.Outcome State Fault Refusal :=
  issue (.crestr d c a) s fun t s =>
    let src := t.c c.toNat
    if !src.tag then .error (.cause 0x04 (regVal c))
    else derive (.crestr d c a) s t d
      (Cap.mk' src.base src.len (src.perm &&& (t.s a.toNat).setWidth 8) src.dom src.space src.tag)

/-- CINC (R127, R128). -/
def execCinc (d c : BitVec 4) (a : BitVec 5) (s : State) : Host.Outcome State Fault Refusal :=
  issue (.cinc d c a) s fun t s =>
    windowOf (.cinc d c a) s t d c (t.s a.toNat) (((t.c c.toNat).len : Int) - (t.s a.toNat).toNat)

/-- CGETB (R127). -/
def execCgetb (c : BitVec 4) (r : BitVec 5) (s : State) : Host.Outcome State Fault Refusal :=
  issue (.cgetb c r) s fun t s => write1 s r (BitVec.ofNat 64 (t.c c.toNat).base)

/-- CGETL (R127). -/
def execCgetl (c : BitVec 4) (r : BitVec 5) (s : State) : Host.Outcome State Fault Refusal :=
  issue (.cgetl c r) s fun t s => write1 s r (BitVec.ofNat 64 (t.c c.toNat).len)

/-- The descriptor word of a capability (R129). -/
def capWord (c : Cap) : Word :=
  BitVec.ofNat 64 (c.perm.toNat + c.dom * 2 ^ 8 + c.space * 2 ^ 14 + (if c.tag then 2 ^ 16 else 0))

/-- CGETP (R127, R129). -/
def execCgetp (c : BitVec 4) (r : BitVec 5) (s : State) : Host.Outcome State Fault Refusal :=
  issue (.cgetp c r) s fun t s => write1 s r (capWord (t.c c.toNat))

/-- CMOV (R126, R127). -/
def execCmov (d c : BitVec 4) (s : State) : Host.Outcome State Fault Refusal :=
  issue (.cmov d c) s fun t s => derive (.cmov d c) s t d (t.c c.toNat)

/-- CCLR (R126, R127). -/
def execCclr (d : BitVec 4) (s : State) : Host.Outcome State Fault Refusal :=
  issue (.cclr d) s fun t s => derive (.cclr d) s t d {}

/-- The test word of a capability against an offset (R129). -/
def testWord (c : Cap) (off : Word) : Word :=
  (if c.tag then 1 else 0) + (if c.tag && c.space != 3 && off.toNat < c.len then 2 else 0)

/-- CTEST (R127, R129). -/
def execCtest (c : BitVec 4) (a r : BitVec 5) (s : State) : Host.Outcome State Fault Refusal :=
  issue (.ctest c a r) s fun t s => write1 s r (testWord (t.c c.toNat) (t.s a.toNat))

/-! ### Capabilities in memory (R131–R133) -/

/-- The address of a CLD or CST (R131), as an exact number. -/
def unitAddr (t : Thread) (c : BitVec 4) (a : BitVec 5) (o : BitVec 13) : Int :=
  (t.c c.toNat).base + (t.s a.toNat).toNat + o.toInt * 16

/-- A loaded capability with its tag dropped where its bits are no capability (R131). -/
def Cap.clean (c : Cap) : Cap :=
  if c.bits.extractLsb' 112 16 != 0 || c.space == 3 then { c with tag := false } else c

/-- The tag a CLD loads: the unit's, or a set one at monitor privilege through a capability of all permissions (R386). -/
def mintedTag (t : Thread) (cap : Cap) (tag : Bool) : Bool := tag || (t.priv == 2 && cap.perm == 0xFF)

/-- CLD (R131, R133, R386). -/
def execCld (x c : BitVec 4) (a : BitVec 5) (o : BitVec 13) (s : State) : Host.Outcome State Fault Refusal :=
  issue (.cld x c a o) s fun t s =>
    let cap := t.c c.toNat
    let addr := unitAddr t c a o
    if t.loadsStall then .error .stall
    else if sealedRoot t x then .error (.cause 0x06 ((encodeWord (.cld x c a o)).setWidth 64))
    else match capCheck cap addr 16 (permR ||| permLoadCap) with
      | some cause => .error (.cause cause (BitVec.ofInt 64 addr))
      | none =>
        if cap.space = 2 then .error (.cause 0x06 (BitVec.ofInt 64 addr))
        else match memCheck s s.cur t cap addr 16 16 permR { r := true } with
          | .error e => .error e
          | .ok pl =>
            let s := (settleFor s s.myPath false pl 16).reachAt pl
            let got : Cap := { bits := BitVec.ofNat 128 (s.loadNat s.myPath pl 16), tag := mintedTag t cap (s.loadTag s.myPath pl) }
            .ok (s.setCap x.toNat got.clean, .next)

/-- CST (R132, R133). -/
def execCst (x c : BitVec 4) (a : BitVec 5) (o : BitVec 13) (s : State) : Host.Outcome State Fault Refusal :=
  issue (.cst x c a o) s fun t s =>
    let cap := t.c c.toNat
    let src := t.c x.toNat
    let addr := unitAddr t c a o
    let val := BitVec.ofInt 64 addr
    match capCheck cap addr 16 permW with
    | some cause => .error (.cause cause val)
    | none =>
      if src.tag && !cap.can permStoreCap then .error (.cause 0x06 val)
      else if cap.space = 2 then .error (.cause 0x06 val)
      else if addr % 16 != 0 then .error (.cause 0x07 val)
      else if src.tag && !src.can permGlobal && cap.space != 1 then .error (.cause 0x06 val)
      else match memCheck s s.cur t cap addr 16 16 permW { w := true } with
        | .error e => .error e
        | .ok pl =>
          .ok (pushStore (s.reachAt pl) s.myPath (storeAt s.cur t pl 16 (src.bits.setWidth 1024) src.tag), .next)

end Sys2Proof.Machine
end

