-- ==== Sys2Proof/Machine/Results.lean ====
section
/-!
DEFINITION. What comes about after an instruction has issued: results and data that return, stores that are performed, the SFU's
return, run-ahead, the mode switch, limits of time, and the start of a hart (R36, R85, R115, R138, R148, R166, R190, R209, R215,
R216, R336, R405).
-/

namespace Sys2Proof.Machine

/-! ### Held destinations -/

/-- The first hold of a thread that a test picks is written and ends. -/
def landWhere (s : State) (l : Loc) (p : Hold → Bool) : State :=
  s.onThread l fun t =>
    match t.holds.find? p with
    | some h => { t.land h with holds := t.holds.erase h }
    | none => t

/-- SCALAR_RESULT_WRITE (R115): a multiply or divide result whose cycle has come. -/
def execScalarResultWrite (s : State) : Host.Outcome State Fault Refusal :=
  let cycle := (s.core s.cue.a).cycle
  outside (landWhere s { core := s.cue.a, slot := s.cue.b } fun h =>
    !h.vector && h.reg == s.cue.c && h.due.any fun k => k ≤ cycle)

/-- LOAD_DATA_RETURN (R138): the data of a held destination arrives. -/
def execLoadDataReturn (s : State) : Host.Outcome State Fault Refusal :=
  let l : Loc := { core := s.cue.a, slot := s.cue.b }
  match ((s.thread l).holds.filter fun h => h.due.isNone)[s.cue.c]? with
  | some h => outside (landWhere s l fun x => x == h)
  | none => outside s

/-- MULTICAST_COMPLETION (R148): the token, and the entry of kind 3 that records skips. -/
def execMulticastCompletion (s : State) : Host.Outcome State Fault Refusal :=
  match s.multis[s.cue.a]? with
  | none => outside s
  | some m =>
    let s1 := { s with multis := s.multis.eraseIdx s.cue.a }
    let s2 := if bitsOf m.status 15 8 = 0 then s1
      else logEntry s1 m.rcb
        { cause := bitsOf m.status 7 0, kind := 3, rid := ridOf s1 m.rcb, handle := m.handle, epc := m.epc
          val := m.status, crew := m.crewId, launch := m.launch }
    outside (fillToken s2 m.handle m.reg m.status m.launch m.rcb m.crewId)

/-! ### Stores -/

/-- The pending store that a step is about. -/
def cueStore (s : State) : Option PStore := (s.path s.cue.a)[s.cue.b]?

/-- A pending store is performed, if it may be and is one of those asked for (R85). -/
def storeEvent (s : State) (p : PStore → Bool) : Host.Outcome State Fault Refusal :=
  match cueStore s with
  | some x => outside (if p x && canPerform s s.cue.a s.cue.b then performAt s s.cue.a s.cue.b else s)
  | none => outside s

/-- A store to the kick word of a hart. -/
def isKick (s : State) (p : PStore) : Bool :=
  match p.space with
  | .device _ => !(kicked s p.pa p.size).isEmpty
  | _ => false

/-- A store to the header of a claimed slot. -/
def isHeader (s : State) (p : PStore) : Bool :=
  match p.space with
  | .scratch k => !(published s k p.addr p.size).isEmpty
  | _ => false

/-- A store to the dispatch block, a region control block or another word that the hardware watches in device memory. -/
def isControl (p : PStore) : Bool :=
  match p.space with
  | .device _ => true
  | _ => false

/-- STORE_PERFORMED (R85). -/
def execStorePerformed (s : State) : Host.Outcome State Fault Refusal := storeEvent s fun _ => true

/-- KICK (R87, R215). -/
def execKick (s : State) : Host.Outcome State Fault Refusal := storeEvent s (isKick s)

/-- HEADER_PUBLISH (R166). -/
def execHeaderPublish (s : State) : Host.Outcome State Fault Refusal := storeEvent s (isHeader s)

/-- REGISTER_WRITE (R331, R333, R371, R377): the word is written; the units read it at their next point. -/
def execRegisterWrite (s : State) : Host.Outcome State Fault Refusal := storeEvent s isControl

/-! ### The special-function unit (R190) -/

/-- A launch is being pre-empted. -/
def preempting (s : State) (ident : Word) : Bool :=
  s.clusters.any fun e => e.2.crew.any fun c => c.launch == ident && c.preempt

/-- The visitors of a launch are saved with it: each of its crews on a cluster is being pre-empted, or crew 0 is, or is saved
(R17). -/
def savedWith (s : State) (ident : Word) : Bool :=
  crewZeroSaved s ident ||
    (preempting s ident && (crewsOf s ident).all fun k => (s.cluster k).crew.any fun c => c.preempt)

/-- A visitor that the SFU has kept leaves once its cluster's crew is being taken away, or is saved once its own launch is being
pre-empted (R17). -/
def displaceLate (s : State) (l : Loc) : State :=
  let t := s.thread l
  if !isVisitor s l t || (s.thread? l).isNone then s
  else if savedWith s t.launch then saveAway s l
  else if (s.cluster (clusterOf l.core)).crew.any (fun c => c.killed || c.requeue || c.preempt) then displace s l
  else s

/-- The source of a request goes back to the load stream that it was popped from (R109). -/
def unpop (s : State) (q : SfuReq) : State :=
  match q.popped with
  | none => s
  | some (n, pos) =>
    let c := s.core q.loc.core
    let st := c.stream n
    s.setCore q.loc.core
      { c with streams := c.streams.set n { st with pos, state := .running, queue := .data q.src :: st.queue } }

/-- The return of a request whose thread waits for it. A push that fails is precise: the source is popped again (R109, R192). A
request whose push meets an absent page stays at the head of the queue, and those of all four cores behind it wait, since the
unit serves the oldest first; the manual does not speak of such a page. DEDUCED, log 35. -/
def sfuReturn (s : State) (k : Nat) (q : SfuReq) (rest : List SfuReq) : State :=
  let r := sfuResult q (vectorAt s q.loc q.dest)
  let popped := s.setCluster k { s.cluster k with sfu := rest }
  match writeVectorAt popped q.loc q.dest r.1 with
  | .ok s1 =>
    displaceLate (s1.onThread q.loc fun t => (t.note r.2 (q.rm == 5)).finish q.len s1.now) q.loc
  | .error (.page asid va) =>
    let t := s.thread q.loc
    pageEvent ((s.setCluster k { s.cluster k with sfu := { q with wait := some (asid, va) } :: rest }).walked asid va) q.loc
      (s.handleOf q.loc) t.pc t.launch t.rcb va t.number
  | .error e =>
    match e.fault? with
    | some (cause, val, held) =>
      stopThread (((unpop popped q).reachStop e).onThread q.loc fun t => { t with wait := none }) q.loc cause val held false
    | none => s

/-- SFU_RETURN (R190): the oldest request of a cluster returns. One whose thread is gone completes for nobody (R193). -/
def execSfuReturn (s : State) : Host.Outcome State Fault Refusal :=
  let k := s.cue.a
  match (s.cluster k).sfu with
  | [] => outside s
  | q :: rest =>
    if (s.thread q.loc).wait = some .sfu && (s.slot q.loc).gen == q.gen then
      outside (if q.wait.isSome then s else sfuReturn s k q rest)
    else outside (s.setCluster k { s.cluster k with sfu := rest })

/-! ### Streams and modes -/

/-- STREAM_RUNAHEAD_FETCH (R209). -/
def execStreamRunaheadFetch (s : State) : Host.Outcome State Fault Refusal := outside (streamStep s s.cue.a s.cue.b)

/-- A copy in flight touches its cluster's scratchpad. -/
def CopyCmd.onPad (q : CopyCmd) : Bool := q.src.space == 1 || q.dst.space == 1

/-- The SRAM of a cluster without the bytes and tags of a bank index, which then reads as zero (R36). -/
def clearBank (cl : Cluster) (i : Nat) : Cluster :=
  { cl with
    sram := cl.sram.filter fun e => e.1 / 131072 != i
    sramTags := cl.sramTags.filter fun e => e.1 * 16 / 131072 != i }

/-- A cluster's cache gives up every line it holds, dirty ones written back to their home slices (R36). -/
def flushCluster (s : State) (k : Nat) : State :=
  let lines : Tab Line := s.lines.map fun e =>
    (e.1, { e.2 with dirty := e.2.dirty || e.2.dir == .modified k, dir := e.2.dir.drop k })
  { s with lines := lines, caches := s.caches.del k }

/-- The run-ahead beyond a depth is discarded (R37). -/
def trimQueues (s : State) (k : Nat) : State :=
  let d := (s.cluster k).depth
  (List.range 4).foldl (fun s j =>
    let c := s.core (coreOf k j)
    let streams : Tab Stream := c.streams.map fun e => (e.1, { e.2 with queue := e.2.queue.take d })
    s.setCore (coreOf k j) { c with streams := streams }) s

/-- The point of a mode switch (R36): nothing of the old modes is under way. -/
def switchMode (s : State) (k : Nat) (w : Switch) : State :=
  let cl := s.cluster k
  let old := cl.mode w.index
  let s1 := if old = 0 then flushCluster s k else s
  let cl1 := if old = 1 || w.mode = 1 then clearBank cl w.index else cl
  let s2 := trimQueues (s1.setCluster k { cl1 with bmode := cl1.bmode.set w.index w.mode, switch := none }) k
  if (s2.thread w.loc).wait = some .csr then completeAt s2 w.loc fun t => t else s2

/-- MODE_SWITCH (R36). It waits for the copies on the scratchpad and for the stores to it that have issued. An EQINIT or EQREDUCE
whose arrays lie in the scratchpad is neither a copy nor an access of a core; the manual is silent on it, and the model does
not wait for it: it goes on under the new modes. DESIGN CHOICE, log 75. -/
def execModeSwitch (s : State) : Host.Outcome State Fault Refusal :=
  let k := s.cue.a
  let cl := s.cluster k
  match cl.switch with
  | none => outside s
  | some w =>
    if (cl.copies.any CopyCmd.onPad) || (s.path k).any (fun p => p.space == .scratch k) then outside s
    else outside (switchMode s k w)

/-! ### Limits of time -/

/-- WATCHDOG_EXPIRY (R336): a thread of a compute core or hart has retired nothing for its region's limit. One that waits for
the SFU ends in any case (R193). -/
def execWatchdogExpiry (s : State) : Host.Outcome State Fault Refusal :=
  let l : Loc := { core := s.cue.a, slot := s.cue.b }
  match s.thread? l with
  | none => outside s
  | some t =>
    let limit := eff s t.rcb 9 0x3C 4
    if isPair l.core || limit = 0 || s.now < t.retired + limit * 1000 then outside s
    else outside (displaceLate (stopThread s l 0x13 0 0 (t.wait == some .sfu)) l)

/-- NO_ROUTE_TIMEOUT (R405): an access has waited 10 ms for a route. -/
def execNoRouteTimeout (s : State) : Host.Outcome State Fault Refusal :=
  let l : Loc := { core := s.cue.a, slot := s.cue.b }
  match (s.thread l).wait with
  | some (.route _ addr since stream) =>
    if s.now < since + 10000000 then outside s
    else
      let s1 := { s.onThread l fun t => { t with wait := none } with cur := l }
      let val := BitVec.ofNat 64 addr
      outside (if stream then raise s1 0x0B val 0x0D else raise s1 0x0D val 0)
  | _ => outside s

/-! ### Harts (R215, R216) -/

/-- The microcode's thread on a hart, in the region assigned to it. -/
def hartThread (s : State) (h : HartLaunch) : Thread :=
  let asid := eff s h.rcb 11 0x44 2
  let root := effCap s h.rcb 12 0x50
  let code := tableCap s asid root 0
  { kind := .hart, pc := BitVec.ofNat 64 (code.base + h.entry)
    caps := [(0, code), (14, tableCap s asid root 14), (15, root)], rid := ridOf s h.rcb, rcb := h.rcb, asid
    mmrev := eff s h.rcb 7 0x36 1 % 4 }

/-- HART_RESTART (R216): system software starts a hart that does not run. -/
def execHartRestart (s : State) : Host.Outcome State Fault Refusal :=
  let id := s.cue.a
  let c := s.core id
  let h := s.cue.hart
  if !(isCopyHart id || isEngineHart id) || s.mappedOut id || c.hart.running then outside s
  else
    let s1 := s.setCore id { c with hart := { block := h.block, running := true } }
    let t := hartThread s h
    outside (reachTable (reachRegion (placeIn (hartStatus s1 id h.rcb 1) { core := id } t) t.rcb) t.asid (t.caps.get {} 15))

end Sys2Proof.Machine
end

