-- ==== Sys2Proof/Machine/Preempt.lean ====
section
/-!
DEFINITION. Requests on a region, pre-emption and resumption: what the dispatch unit does with `REQ`, how a core saves itself, and
how a crew is restored elsewhere (R17, R333, R339, R342–R348, R375).
-/

namespace Sys2Proof.Machine

/-- Visitors of a launch, on whatever cluster (R17). -/
def visitorsOf (s : State) (ident : Word) : List Loc :=
  s.cores.flatMap fun e =>
    if !isCompute e.1 then []
    else ((List.range 16).map fun n => ({ core := e.1, slot := n } : Loc)).filter fun l =>
      (s.thread? l).any fun t => t.launch == ident && isVisitor s l t

/-- Pre-empts the crew of a cluster, or refuses where its save area is unusable (R343). -/
def preemptCrew (s : State) (need k : Nat) : State :=
  let cl := s.cluster k
  match cl.crew with
  | none => s
  | some c =>
    if c.killed || c.requeue || c.preempt then s
    else if areaFits c.savecap (max need ((4 * c.crewId.toNat + 4) * recordBytes)) then
      s.setCluster k { cl with crew := some { c with preempt := true, saved := [] } }
    else logEntry s c.rcb { kind := 7, rid := c.rid, crew := c.crewId, launch := c.launch }

/-- The visitors of a launch are saved where crew 0 is, or every crew (R17). -/
def savesVisitors (s : State) (ident : Word) (ks : List Nat) : Bool :=
  ks == crewsOf s ident || (crewCluster s ident 0).any fun k => ks.contains k

/-- Pre-empts some crews of a launch, with the visitors of the launch; `RSTATE` goes to 2 (R342). -/
def preemptCrews (s : State) (i : Nat) (ks : List Nat) : State :=
  match s.launches[i]? with
  | none => s
  | some l =>
    let vs := if savesVisitors s l.ident ks then visitorsOf s l.ident else []
    let s1 := ks.foldl (fun s k => preemptCrew s (visitorNeed s l.ident vs.length) k) s
    if !ks.any fun k => (s1.cluster k).crew.any fun c => c.preempt then s1
    else
      let l' := { l with saving := true, visitors := if l.saving then l.visitors else [] }
      let s2 := { s1.rcbPut l.rcb 0x1E 1 2 with launches := s1.launches.set i l' }
      let a := visitorArea l.area l.crews
      let s3 := if !l.saving && areaFits a.1 (a.2 + 4 - a.1.base) then capWrite s2 a.1 a.2 4 0 else s2
      vs.foldl saveAway s3

/-- Pre-empts every crew of a launch, of which none is restored any more until it is resumed anew (R379). One that has no crew on
a cluster is saved at once, and places none until it resumes. -/
def preemptLaunch (s : State) (i : Nat) : State :=
  match s.launches[i]? with
  | none => s
  | some l =>
    let l' := { l with resuming := false }
    match crewsOf s l.ident with
    | [] => launchSaved { s with launches := s.launches.set i { l' with saving := true } } l.ident
    | ks => preemptCrews { s with launches := s.launches.set i l' } i ks

/-- The region control blocks in reach of a list of them by CHILD and NEXT (R331). The first argument bounds their number. -/
def regionsFrom (s : State) : Nat → List Nat → List Nat
  | 0, _ => []
  | _, [] => []
  | n + 1, r :: rs =>
    if r = 0 then regionsFrom s n rs
    else r :: regionsFrom s n (s.rcb r 0x08 8 :: (if r = s.rootRcb then rs else s.rcb r 0x10 8 :: rs))

/-- An address is that of a region control block of the tree. -/
def isRegion (s : State) (r : Nat) : Bool := (regionsFrom s 65536 [s.rootRcb]).contains r

/-- A request is taken (R331): `REQ` returns to 0. -/
def takeRequest (s : State) (n : Nat) (f : State → Nat → State) : Host.Outcome State Fault Refusal :=
  let r := s.cue.a
  if isRegion s r && s.rcb r 0x1F 1 == n then outside (f (reachRegion (s.rcbPut r 0x1F 1 0) r) r) else outside s

/-- PREEMPT_REQUEST (R342). -/
def execPreemptRequest (s : State) : Host.Outcome State Fault Refusal :=
  takeRequest s 1 fun s r =>
    match s.launches.findIdx? fun l =>
      l.rcb == r && l.started && l.completed < l.crews && (l.state == .running || l.resuming) with
    | some i => preemptLaunch s i
    | none => s

/-- KILL_REQUEST (R339, R375). -/
def execKillRequest (s : State) : Host.Outcome State Fault Refusal := takeRequest s 2 fun s r => killRegion s r

/-- A saved launch is to resume: its saved crews are restored as clusters are free; one without any goes on placing. -/
def resumeLaunch (s : State) (i : Nat) (l : Launch) : State :=
  if !l.savedOn.isEmpty then { s with launches := s.launches.set i { l with resuming := true } }
  else
    let s1 := if l.started then s.rcbPut l.rcb 0x1E 1 1 else s
    let l' := { l with state := if l.started then .running else .candidate, saving := false, overrun := false }
    { s1 with launches := s1.launches.set i l' }

/-- RESUME_REQUEST (R347): a launch that is saved, or has saved crews. -/
def execResumeRequest (s : State) : Host.Outcome State Fault Refusal :=
  takeRequest s 3 fun s r =>
    match s.launches.findIdx? fun l => l.rcb == r && (l.state == .saved || !l.savedOn.isEmpty) with
    | some i =>
      match s.launches[i]? with
      | some l => resumeLaunch s i l
      | none => s
    | none => s

/-! ### Saving (R342) -/

/-- The conditions that a core waits for before it saves itself (R138, R190, R209, R218): no hold, no queued matrix work, no
request in the SFU, no store of its own unperformed; the last core of a crew also for copies on the scratchpad. -/
def drained (s : State) (id : Nat) (last : Bool) : Bool :=
  let k := clusterOf id
  quiet s id && (s.path k).all (fun p => p.loc.core != id)
    && (!last || !(s.cluster k).copies.any CopyCmd.onPad)

/-- A core without what its crew leaves. A halt stays (R322), and so does what belongs to the visitors that stay: the streams that
are still bound, their waits (R11, R17, R27), the arrivals that are held for others than the crew. -/
def Core.emptied (c : Core) (sp : Spill) : Core :=
  { c with
    tshape := [], tclass := [], tiles := [], accs := [], matq := [], bars := [], intr := false
    streams := c.streams.filter fun e => e.2.bound.isSome
    held := c.held.filter fun d => d.launch != sp.launch, spills := c.spills ++ [sp] }

/-- A cluster's cache writes its lines back to their home slices and keeps them (R42, R342). -/
def cleanCluster (s : State) (k : Nat) : State :=
  let lines : Tab Line := s.lines.map fun e =>
    (e.1, { e.2 with dirty := e.2.dirty || e.2.dir == .modified k, dir := e.2.dir.clean k })
  { s with lines := lines }

/-- The part of the save area behind a core's record: the entries of its spill ring that the interface does not hold, and the
zero bytes (R343, R345). -/
def putSpill (s : State) (sp : Spill) (base : Nat) : State :=
  let s1 := (sp.ring.zipIdx).foldl (fun s x => spillWrite s sp x.2 x.1) s
  areaPut s1 sp.area base ((List.range 512).map fun n => (0xF0000 + 128 * n, 128, 0))

/-- A saved crew leaves its cluster. -/
def crewSaved (s : State) (k : Nat) (c : Crew) : State :=
  let s1 := flushCluster (drainAll s k) k
  let s2 := s1.setCluster k { s1.cluster k with crew := none, rings := [], switch := none }
  match launchIdx s2 c.launch with
  | none => s2
  | some i =>
    match s2.launches[i]? with
    | none => s2
    | some l =>
      launchSaved { s2 with launches := s2.launches.set i { l with savedOn := l.savedOn ++ [(c.crewId.toNat, k)] } } c.launch

/-- The crew saves a core: its record and the lines of the cluster's cache, `VALID` last, its deliveries diverted from now on
(R342–R346). -/
def saveCore (s : State) (k id : Nat) (c : Crew) : State :=
  let last := c.saved.length = 3
  let base := c.savecap.base + (4 * c.crewId.toNat + sideOf id) * recordBytes
  let x := s.core id
  let slots := crewSlots s id c
  let sp : Spill :=
    { launch := c.launch, crew := c.crewId, live := slots.map fun n => (n, (s.slot { core := id, slot := n }).gen)
      ring := x.held.filter fun d => d.launch == c.launch
      bars := x.bars
      kept := slots.map fun n => (n, (s.thread { core := id, slot := n }).kept s.now)
      startq := x.startq.filter slots.contains, vgrowq := x.vgrowq.filter slots.contains
      area := c.savecap, base := base + 0xE0000 }
  let s0 := putSpill (putCore s c.savecap base id c sp.ring.length last) sp base
  let s1 := capWrite (cleanCluster s0 k) c.savecap base 4 1
  let s2 := slots.foldl (fun s n => leaveSlot s { core := id, slot := n }) s1
  let s3 := s2.setCore id ((s2.core id).emptied sp)
  if last then crewSaved s3 k c
  else s3.setCluster k { s3.cluster k with crew := some { c with saved := sideOf id :: c.saved } }

/-- CORE_SAVE (R342): a core of a pre-empted crew is interrupted; once it has drained it displaces its visitors and saves
itself. -/
def execCoreSave (s : State) : Host.Outcome State Fault Refusal :=
  let id := s.cue.a
  let k := clusterOf id
  match (if isCompute id then (s.cluster k).crew else none) with
  | none => outside s
  | some c =>
    if !c.preempt || c.killed || c.requeue || c.saved.contains (sideOf id) then outside s
    else if !(s.core id).intr then outside (s.setCore id { s.core id with intr := true })
    else if !drained s id (c.saved.length = 3) then outside s
    else
      let vs := ((List.range 16).map fun n => ({ core := id, slot := n } : Loc)).filter fun l => isVisitor s l (s.thread l)
      outside (saveCore (vs.foldl displace s) k id c)

/-! ### Resuming (R347, R348) -/

/-- A crew as placement resolves it (R333). -/
def crewFrom (s : State) (l : Launch) (n : Nat) : Crew :=
  { rcb := l.rcb, rid := ridOf s l.rcb, launch := l.ident, crewId := BitVec.ofNat 32 n, crewCnt := BitVec.ofNat 32 l.crews
    asid := eff s l.rcb 11 0x44 2, ctxroot := effCap s l.rcb 12 0x50, keydom := eff s l.rcb 4 0x32 1 % 64
    mmrev := eff s l.rcb 7 0x36 1 % 4, feat := BitVec.ofNat 7 (eff s l.rcb 10 0x40 4)
    diemask := effDieMask s regionDepth l.rcb, savecap := effCap s l.rcb 13 0x60, placed := s.tick }

/-- The features that a die must list for a launch's next crew: those of its region, and for a crew that is placed those that a
crew of it has stopped for (R341); a saved crew is restored by the region's alone (R347). -/
def Launch.needs (s : State) (l : Launch) : BitVec 7 :=
  BitVec.ofNat 7 (eff s l.rcb 10 0x40 4) ||| (if l.savedOn.isEmpty then l.feat else 0)

/-- A cluster is free for the next crew of a launch, a saved one before those that are to be placed (R347, R382). -/
def clusterFree (s : State) (l : Launch) (k : Nat) : Bool :=
  let d := s.die (k / 32)
  (s.cluster k).crew.isNone && !((List.range 4).any fun j => !(liveSlots s (coreOf k j)).isEmpty)
    && !d.noCluster.getLsbD (k % 32) && !d.gate.getLsbD (k % 32) && d.dstate == 0 && d.agent
    && (diesFor s l.rcb (l.needs s)).contains (k / 32)

/-- The cluster block of a record: formats, bank registers, rings (R343). -/
def readCluster (s : State) (c : Cap) (base : Nat) (cl : Cluster) : Cluster :=
  let w (off n : Nat) : Nat := areaNat s c (base + off + 8 * n) 8
  { cl with
    fmt := (List.range 16).map fun n => (n, BitVec.ofNat 64 (w 0x49000 n))
    bfmt := (List.range 16).map fun n => (n, BitVec.ofNat 64 (w 0x49080 n))
    bmode := (List.range 16).map fun n => (n, w 0x49100 n)
    rings := (List.range 32).map fun q => (q, readRing s c (base + 0x49180 + 64 * q)) }

/-- The scratchpad banks of a core-side from its record (R343). -/
def readPad (s : State) (c : Cap) (base side : Nat) (cl : Cluster) : Cluster :=
  ((cl.banksIn 1).zipIdx).foldl (fun cl x =>
    (List.range 2048).foldl (fun (cl : Cluster) u =>
      let a := base + 0x50000 + 32768 * x.2 + 16 * u
      let v := areaCap s c a
      { cl with
        sram := (List.range 16).foldl (fun m i =>
          Tab.put 0 m (bankByte x.1 side (16 * u + i)) (v.bits.extractLsb' (8 * i) 8)) cl.sram
        sramTags := Tab.put false cl.sramTags (bankByte x.1 side (16 * u) / 16) v.tag }) cl) cl

/-- The vector registers of a slot from a core's record (R343). -/
def readVectorsOf (s : State) (c : Cap) (base slot : Nat) : Tab (BitVec 2048) :=
  (List.range 64).foldl (fun (vs : Tab (BitVec 2048)) n =>
    if areaNat s c (base + 0x4100 + 2 * n) 1 = slot then
      vs.set (areaNat s c (base + 0x4101 + 2 * n) 1) (BitVec.ofNat 2048 (readWide s c (base + 0x5000 + 256 * n) 256))
    else vs) []

/-- The wait of a restored thread: a BARWAIT waits for the count that it waited for, or, where its record alone says that it waits,
for its context's latest arrival (R169; log 51). -/
def restoredWait (bars : Tab Bar) : Option Wait → Option Wait
  | some (.barwait n 0) => some (.barwait n (bars.get {} n).arrived)
  | w => w

/-- The barrier contexts of a record, with the partners and packets that the old interface has kept. -/
def readBars (s : State) (c : Cap) (base : Nat) (kept : Tab Bar) : Tab Bar :=
  (List.range 16).map fun n =>
    let f (off size : Nat) : Nat := areaNat s c (base + 0x4380 + 32 * n + off) size
    (n, { kept.get {} n with p := f 0 2, rank := f 2 2, scope := f 4 4, arrived := f 8 8, done := f 16 8 })

/-- The flags that operations of a saved thread have raised since (R74). -/
def Spill.flagsOf (sp : Spill) (slot : Nat) (gen : BitVec 16) : BitVec 64 :=
  (sp.flags.filter fun f => f.1 == slot && f.2.1 == gen).foldl (fun a f => a ||| f.2.2) 0

/-- A core restored from its record, and from what the old interface has kept beside it (R343, R347). When a slot of it may issue
again stands with the core (R22); the forwarding that the core has kept for the crew from an earlier stay there ends, since
the crew's threads are in its slots again (R26). -/
def readCore (s : State) (c : Cap) (base : Nat) (crew : Crew) (sp : Spill) (old : Core) : Core :=
  let bars := readBars s c base sp.bars
  let slots : Tab Slot := (List.range 16).map fun n =>
    let sl := readSlot s c (base + 0x100 + 1024 * n) n crew.rcb crew.asid (sp.kept.get {} n)
    (n, { sl with nextIssue := (old.slots.get {} n).nextIssue, thread := sl.thread.map fun t =>
      { t with
        vregs := readVectorsOf s c base n, wait := restoredWait bars t.wait, fflags := t.fflags ||| sp.flagsOf n sl.gen } })
  { old with
    slots, bars, matq := [], intr := false, halted := false
    spills := old.spills.filter fun x => x.draining || x.launch != crew.launch || x.crew != crew.crewId
    startq := sp.startq, vgrowq := sp.vgrowq
    tshape := (List.range 8).map fun n => (n, BitVec.ofNat 64 (areaNat s c (base + 0x20 + 8 * n) 8))
    tclass := (List.range 8).map fun n => (n, areaNat s c (base + 0x60 + n) 1)
    tiles := (List.range 8).map fun n => (n, BitVec.ofNat 131072 (readWide s c (base + 0x9000 + 16384 * n) 16384))
    accs := (List.range 2).map fun n => (n, BitVec.ofNat 524288 (readWide s c (base + 0x29000 + 65536 * n) 65536))
    streams := (List.range 8).map fun n =>
      let st := readStream s c (base + 0x4180 + 64 * n)
      (n, match st.bound with
        | some (sl, r) => { st with last := if st.store then (readVectorsOf s c base sl).get 0 r else 0 }
        | none => st) }

/-- The spill of a core that caught for a crew. -/
def spillOf (s : State) (id : Nat) (ident : Word) (crew : Nat) : Option Nat :=
  (s.core id).spills.findIdx? fun x => x.draining && x.launch == ident && x.crew.toNat == crew

/-- What the old interface of a saved core has kept for its crew. -/
def spillAt (s : State) (id : Nat) (ident : Word) (crew : Nat) : Spill :=
  ((spillOf s id ident crew).bind fun n => (s.core id).spills[n]?).getD {}

/-- The slots of a restored core whose threads wait on a ring that has been reconfigured since (R171). -/
def Spill.refusedAt (sp : Spill) (id : Nat) : List Loc :=
  (sp.kept.filter fun e => e.2.refused).map fun e => { core := id, slot := e.1 }

/-- The threads of a restored cluster that wait on a ring are its waiters again, in the order in which they issued (R24, log 76),
and those whose turn has come go on. -/
def rewait (s : State) (k : Nat) : State :=
  let s1 := ((clusterLocs k).foldr (insertWaiter s) []).foldl (fun s l =>
    match ringOf (s.thread l).wait with
    | some q => s.setRing k q { s.ring k q with waiters := (s.ring k q).waiters ++ [l] }
    | none => s) s
  let s2 := (List.range 32).foldl (fun s q => ringWake s k q) s1
  (List.range 4).foldl (fun s j => (List.range 16).foldl (fun s n => wakeBarrier s (coreOf k j) n) s) s2

/-- A ring is replayed into the core where its crew resumes (R328, R347). -/
def drainSpill (s : State) (src dst : Nat) (ident : Word) (crew : Nat) : State :=
  match spillOf s src ident crew with
  | none => s
  | some i =>
    let c := s.core src
    let x := c.spills.getD i {}
    let left := if src = dst then c.spills.eraseIdx i
      else c.spills.set i { x with ring := [], draining := false, forward := some dst }
    x.ring.foldl (fun s d => replay s dst d) (s.setCore src { c with spills := left })

/-- The launch with its visitors on their way. -/
def visitorsLeft (s : State) (ident : Word) : State :=
  { s with launches := s.launches.map fun l => if l.started && l.ident == ident then { l with visitors := [] } else l }

/-- The visitors saved with a launch set out for crew 0 (R17), or for the first crew that resumes where crew 0 has completed
before, in the order of their records and with what they have kept beside those. Their vector registers are free values
(log 28). -/
def resumeVisitors (s : State) (l : Launch) (k : Nat) : State :=
  let a := visitorArea l.area l.crews
  let n := if areaFits a.1 (a.2 + 4 - a.1.base) then areaNat s a.1 a.2 4 else 0
  let n := if areaFits a.1 (a.2 + 64 + 1024 * n - a.1.base) then n else 0
  let s0 := if n = 0 then s else reachArea s a.1 a.2 (64 + 1024 * n)
  let s1 := (List.range n).foldl (fun s i =>
    let kept := l.visitors.getD i {}
    let number := if kept.number = 0 then s.born else kept.number
    match (readSlot s a.1 (a.2 + 64 + 1024 * i) 1 l.rcb (eff s l.rcb 11 0x44 2) { kept with number, migrated := true }).thread with
    | some t =>
      let vregs : Tab (BitVec 2048) := (List.range t.vallot).map fun r => (r, Config.lostVector (s.tick + i) r)
      send { s with born := s.born + 1 }
        { dest := coreOf k 0, launch := l.ident, rcb := l.rcb, body := .thread { t with vregs } true, sender := number
          crew := t.crewId }
    | none => s) s0
  visitorsLeft (if n = 0 then s1 else capWrite s1 a.1 a.2 4 0) l.ident

/-- The records of a crew are whole. -/
def recordsValid (s : State) (c : Cap) (crew : Nat) : Bool :=
  (List.range 4).all fun j => areaNat s c (c.base + (4 * crew + j) * recordBytes) 4 == 1

/-- The record that holds the cluster block of a crew. -/
def clusterRecord (s : State) (c : Cap) (crew : Nat) : Nat :=
  c.base + (4 * crew + ((List.range 4).find? fun j =>
    (areaNat s c (c.base + (4 * crew + j) * recordBytes + 0x1C) 4).testBit 0).getD 3) * recordBytes

/-- What the restoring of a crew reads of its records, the blocks of one record whole: slots, pool, registers and tiles of each core
with its banks of scratchpad, and the cluster block (R343). -/
def reachRecords (s : State) (c : Cap) (crew : Nat) (cl : Cluster) : State :=
  let s1 := (List.range 4).foldl (fun s j =>
    let base := c.base + (4 * crew + j) * recordBytes
    reachArea (reachArea s c base 0x49000) c (base + 0x50000) (32768 * (cl.banksIn 1).length)) s
  reachArea s1 c (clusterRecord s c crew + 0x49000) 0x980

/-- A saved crew is restored on a cluster: the cluster block and the scratchpad, each core, then the spill rings (R347). One of
which no thread was left, and which waited for its copies when it was saved, is over (R7). -/
def resumeCrew (s : State) (i : Nat) (l : Launch) (crew old k : Nat) : State :=
  let c := crewFrom s l crew
  let cap := c.savecap
  let base (j : Nat) : Nat := cap.base + (4 * crew + j) * recordBytes
  let cl0 : Cluster := { s.cluster k with crew := some c, sram := [], sramTags := [] }
  let cl := (List.range 4).foldl (fun cl j => readPad s cap (base j) j cl) (readCluster s cap (clusterRecord s cap crew) cl0)
  let s1 := reachRecords (reachRegion (s.setCluster k cl) l.rcb) cap crew cl
  let s2 := (List.range 4).foldl (fun s' j =>
    s'.setCore (coreOf k j) (readCore s cap (base j) c (spillAt s (coreOf old j) l.ident crew) (s'.core (coreOf k j)))) s1
  let refused := (List.range 4).flatMap fun j => (spillAt s (coreOf old j) l.ident crew).refusedAt (coreOf k j)
  let rest := l.savedOn.filter fun x => x.1 != crew
  let l' := { l with
    savedOn := rest, state := .running, resuming := !rest.isEmpty, overrun := l.overrun && !rest.isEmpty
    saving := !rest.isEmpty || preempting s l.ident, area := cap }
  let s3 := { s2.rcbPut l.rcb 0x1E 1 1 with launches := s2.launches.set i l' }
  let s4 := if crew = 0 || !l.savedOn.any (fun x => x.1 == 0) then resumeVisitors s3 l' k else s3
  let s5 := rewait (refuseWaiters s4 refused) k
  settle ((List.range 4).foldl (fun s j => drainSpill s (coreOf old j) (coreOf k j) l.ident crew) s5) (coreOf k 0)

end Sys2Proof.Machine
end

