-- ==== Sys2Proof/Machine/Schedule.lean ====
section
/-!
DEFINITION. The dispatch units: launch queues, admission, candidates, placement, and the time-triggered table (R6, R35,
R370–R384).
-/

namespace Sys2Proof.Machine

/-! ### Queues and admission -/

/-- Some agent is in service, so that launches are admitted and ordered (R370). -/
def dispatchOn (s : State) : Bool := s.powered && (List.range 12).any fun d => (s.die d).agent

/-- A field of the dispatch block (R370). -/
def State.block (s : State) (off size : Nat) : Nat := s.phys (0x80000 + off) size

/-- A field of the dispatch block written by the hardware. -/
def State.blockPut (s : State) (off size v : Nat) : State := s.physPut (0x80000 + off) size v

/-- A field of a queue descriptor (R371). -/
def queueField (s : State) (q off size : Nat) : Nat := s.block (128 * q + off) size

/-- Every byte of a stretch of the dispatch block is zero. -/
def blockZero (s : State) (off n : Nat) : Bool := (List.range n).all fun i => s.block (off + i) 1 == 0

/-- A queue descriptor is enabled and well formed (R371). -/
def queueOk (s : State) (q : Nat) : Bool :=
  let logn := queueField s q 0x08 1
  logn != 0 && logn ≤ 16 && blockZero s (128 * q + 0x09) 3 && blockZero s (128 * q + 0x15) 3
    && blockZero s (128 * q + 0x20) 96 && queueField s q 0 8 % (64 * 2 ^ logn) == 0

/-- A fairness weight; 0 reads as 1 (R371). -/
def queueWeight (s : State) (q : Nat) : Nat := max 1 (queueField s q 0x14 1)

/-- A field of a region control block that must be zero is not (R331, R332, R373). -/
def rcbBad (s : State) (r : Nat) : Bool :=
  let b (off size hi lo : Nat) : Bool := bitsOf (BitVec.ofNat 64 (s.rcb r off size)) hi lo != 0
  let z (off n : Nat) : Bool := (List.range n).any fun i => s.rcb r (off + i) 1 != 0
  b 0x1C 1 7 2 || b 0x1D 1 7 3 || b 0x20 4 31 15 || b 0x30 2 15 12 || b 0x32 1 7 6 || b 0x34 1 7 2 || b 0x36 1 7 2
    || z 0x37 1 || b 0x38 4 0 0 || b 0x38 4 31 21 || b 0x40 4 31 7 || z 0x46 10 || z 0x98 40 || z 0xFC 4

/-- The bytes of a stack part of a launch (R373). -/
def stackPart (s : State) (r : Nat) : Nat := (s.rootCap (r + 0xE0)).len / (4 * s.rcb r 0xF4 4) / 16 * 16

/-- A launch is refused (R374). -/
def launchRefused (s : State) (r qrcb : Nat) : Bool :=
  let code := s.rootCap (r + 0xC0)
  let crews := s.rcb r 0xF4 4
  let entry := s.rcb r 0xF0 4
  let mm := eff s r 7 0x36 1
  s.rcb r 0x1C 1 % 4 != 3 || rcbBad s r || !below s qrcb r
    || !code.tag || !(s.rootCap (r + 0xD0)).tag || !(s.rootCap (r + 0xE0)).tag
    || crews == 0 || entry % 4 != 0 || code.len < entry + 4 || stackPart s r < 16
    || (List.range 16).any (fun k => bitsOf (BitVec.ofNat 64 (s.rcb r 0xF8 4)) (2 * k + 1) (2 * k) == 3)
    || mm % 4 == 0 || mm % 4 == 3 || (diesFor s r (BitVec.ofNat 7 (eff s r 10 0x40 4))).isEmpty

/-- The identity of a launch: its region in the upper half (R373). -/
def launchIdent (s : State) (r low : Nat) : Word := BitVec.ofNat 64 (s.rcb r 0x18 4 * 2 ^ 32 + low % 2 ^ 32)

/-- An outcome is written to a token, where there is one (R376). -/
def writeToken (s : State) (va outcome : Nat) : State := if va = 0 then s else s.physPut va 8 outcome

/-- QUEUE_RECORD_TAKEN (R371, R372, R374): the record at `HEAD` is taken once its `SEQ` is its index, and its launch admitted or
refused. -/
def execQueueRecordTaken (s : State) : Host.Outcome State Fault Refusal :=
  let q := s.cue.a
  let head := queueField s q 0x0C 4
  if !dispatchOn s || 32 ≤ q || !queueOk s q || head = queueField s q 0x10 4 then outside s
  else
    let rec' := queueField s q 0 8 + 64 * (head % 2 ^ queueField s q 0x08 1)
    if s.phys (rec' + 0x20) 4 != head then outside s
    else
      let r := s.phys rec' 8
      let doneva := s.phys (rec' + 8) 8
      let s1 := s.blockPut (128 * q + 0x0C) 4 ((head + 1) % 2 ^ 32)
      if launchRefused s1 r (queueField s q 0x18 8) then outside (writeToken (reachRegion s1 r) doneva 0x04)
      else
        let l : Launch :=
          { rcb := r, queue := .inl q, doneva, depa := s.phys (rec' + 0x10) 8, depb := s.phys (rec' + 0x18) 8
            ident := launchIdent s r head, crews := s.rcb r 0xF4 4 }
        outside (reachRegion { s1 with launches := s1.launches ++ [l] } r)

/-! ### Candidates (R375, R380) -/

/-- What a dependence says: nothing yet, completed, or failed. -/
def dependence (s : State) (va : Nat) : Option Bool :=
  if va = 0 then some true
  else match s.phys va 8 with
    | 0 => none
    | 1 => some true
    | _ => some false

/-- No launch admitted earlier names the same region (R384). -/
def firstOfRegion (s : State) (i : Nat) (r : Nat) : Bool := !(s.launches.take i).any fun l => l.rcb == r

/-- The region of a launch runs nothing (R375). -/
def regionFree (s : State) (r : Nat) : Bool :=
  let st := s.rcb r 0x1E 1
  st == 0 || st == 5 || st == 6

/-- What makes a launch a candidate holds, until its first crew is placed (R375): its region runs nothing, its dependences have
completed. -/
def isCandidate (s : State) (l : Launch) : Bool :=
  l.started || (regionFree s l.rcb && dependence s l.depa == some true && dependence s l.depb == some true)

/-- A launch came from the time-triggered table. -/
def Launch.timed (l : Launch) : Bool := match l.queue with
  | .inr _ => true
  | .inl _ => false

/-- A launch of a queue of which no crew has been placed. -/
def Launch.unstarted (l : Launch) : Bool := !l.timed && !l.started && !l.killed && (l.state == .waiting || l.state == .candidate)

/-- LAUNCH_CANDIDATE (R375): a waiting launch whose region is free and whose dependences have completed becomes a candidate; a
failed dependence completes one that has not started with 0x05. -/
def execLaunchCandidate (s : State) : Host.Outcome State Fault Refusal :=
  let i := s.cue.a
  match s.launches[i]? with
  | none => outside s
  | some l =>
    if !l.unstarted || !dispatchOn s then outside s
    else if dependence s l.depa = some false || dependence s l.depb = some false then
      outside (completeLaunch s i 0x05 none)
    else if l.state == .waiting && isCandidate s l && firstOfRegion s i l.rcb then
      outside { s with launches := s.launches.set i { l with state := .candidate, aged := 0 } }
    else outside s

/-- Candidates that have not started and are candidates no longer wait again, and count their age from anew (R375, R380): done at
the end of every step. -/
def dropCandidates (s : State) : State :=
  let ls := s.launches.map fun (l : Launch) =>
    if l.unstarted && l.state == .candidate && !isCandidate s l then { l with state := .waiting, aged := 0 } else l
  { s with launches := ls }

/-- The effective priority of an untimed launch (R380). -/
def untimedLevel (s : State) (l : Launch) : Nat :=
  match l.level with
  | some n => n
  | none => min 6 (min 6 (eff s l.rcb 0 0x1D 1 % 8) + l.aged / 8)

/-- The level of a launch: level 7 belongs to table firings (R380). -/
def levelOfLaunch (s : State) (l : Launch) : Nat := if l.timed then 7 else untimedLevel s l

/-- The crew of a launch that is placed next: one that returns, else the next in order (R341, R382). -/
def Launch.toPlace (l : Launch) : Option Nat :=
  match l.again with
  | c :: _ => some c
  | [] => if l.next < l.crews then some l.next else none

/-- The launch with its next crew taken. -/
def Launch.take (l : Launch) : Launch :=
  match l.again with
  | _ :: cs => { l with again := cs }
  | [] => { l with next := l.next + 1 }

/-- Crews placed at or below a region. -/
def placedBelow (s : State) (r : Nat) : Nat := (s.clusters.filter fun e => e.2.crew.any fun c => below s r c.rcb).length

/-- Every ancestor's crew maximum admits one more crew (R382). -/
def underMax (s : State) (r : Nat) : Bool :=
  (ancestors s regionDepth r).all fun a => placedBelow s a + 1 ≤ effCrewMax s regionDepth a

/-- A launch has a crew to place, which its region's values admit (R382). Of a store of 2 to `REQ`, the region's own or one above
it, and a placement the dispatch unit takes the store first (R339, R384). -/
def wants (s : State) (l : Launch) : Bool :=
  (l.state == .candidate || l.state == .running) && !l.killed && l.toPlace.isSome && isCandidate s l && !l.saving
    && l.savedOn.isEmpty && ((ancestors s regionDepth l.rcb).all fun a => s.rcb a 0x1F 1 != 2) && underMax s l.rcb

/-- A crew of the table waits for a cluster that is free for it, ahead of all untimed work (R378): one to be placed, or a saved one
to be resumed. -/
def timedWaits (s : State) (k : Nat) : Bool :=
  s.launches.any fun v => v.timed && !v.killed && clusterFree s v k &&
    ((v.resuming && v.savedOn.any fun x => recordsValid s (effCap s v.rcb 13 0x60) x.1) || wants s v)

/-- A cluster is free for a launch, and no crew that goes before its own waits for it (R378, R382). -/
def openTo (s : State) (l : Launch) (k : Nat) : Bool := clusterFree s l k && (l.timed || !timedWaits s k)

/-- Free clusters of a die for a launch. -/
def freeOnDie (s : State) (l : Launch) (d : Nat) : List Nat :=
  ((List.range 32).map fun k => d * 32 + k).filter (openTo s l)

/-- The cluster that a crew is placed on: of the die with the most free ones its lowest (R382). -/
def chooseCluster (s : State) (l : Launch) : Option Nat :=
  ((List.range 12).foldl (fun (best : List Nat) d =>
    let fs := freeOnDie s l d
    if best.length < fs.length then fs else best) []).head?

/-- A launch has a crew that can be placed now (R382). -/
def placeable (s : State) (l : Launch) : Bool := wants s l && (chooseCluster s l).isSome

/-! ### Placement (R6, R35, R373, R382) -/

/-- A control context (R9, R373). -/
def controlThread (s : State) (l : Launch) (c : Crew) (j : Nat) : Thread :=
  let code := s.rootCap (l.rcb + 0xC0)
  let stack := s.rootCap (l.rcb + 0xE0)
  let part := stackPart s l.rcb
  { kind := .control, pc := BitVec.ofNat 64 (code.base + s.rcb l.rcb 0xF0 4)
    caps := [(0, code), (1, stack.window (stack.base + part * (4 * c.crewId.toNat + j)) part),
      (14, s.rootCap (l.rcb + 0xD0)), (15, c.ctxroot)]
    rid := c.rid, rcb := c.rcb, asid := c.asid, launch := c.launch, crewId := c.crewId, crewCnt := c.crewCnt
    mmrev := c.mmrev }

/-- A core as placement leaves it: tiles, shapes, streams and barrier contexts at their reset, no halt (R114, R168, R194,
R322). -/
def Core.placed (c : Core) : Core :=
  { c with
    tshape := [], tclass := [], tiles := [], accs := [], matq := [], streams := [], bars := [], halted := false
    startq := [], vgrowq := [], intr := false }

/-- The cluster as placement leaves it: modes as the launch declares them, format registers at their reset, rings IDLE, and every
bank that is not a cache zero (R35, R58, R161). -/
def Cluster.placed (cl : Cluster) (c : Crew) (modes : Nat) : Cluster :=
  { cl with
    crew := some c, fmt := [], bfmt := [], rings := [], sram := [], sramTags := [], switch := none
    bmode := (List.range 16).map fun k => (k, modes / 4 ^ k % 4) }

/-- A crew is placed on a cluster and its four control contexts start (R6). -/
def placeCrew (s : State) (l : Launch) (n k : Nat) : State :=
  let c := crewFrom s l n
  let s1 := reachRegion (flushCluster s k) l.rcb
  let s2 := s1.setCluster k ((s1.cluster k).placed c (s.rcb l.rcb 0xF8 4))
  (List.range 4).foldl (fun s' j =>
    let id := coreOf k j
    placeIn (s'.setCore id (s'.core id).placed) { core := id } (controlThread s l c j)) s2

/-- A launch's next crew is placed; with the first `RSTATE` goes to 1 and the level is kept (R380, R382). -/
def placeNext (s : State) (i : Nat) : State :=
  match s.launches[i]? with
  | none => s
  | some l =>
    match l.toPlace, chooseCluster s l with
    | some n, some k =>
      let l' := { l.take with
        state := .running, started := true, level := some (l.level.getD (levelOfLaunch s l))
        area := if l.started then l.area else effCap s l.rcb 13 0x60 }
      let s1 := if l.started then s else s.rcbPut l.rcb 0x1E 1 1
      placeCrew { s1 with launches := s1.launches.set i l' } l n k
    | _, _ => s

/-- The credit key of a queue at a level. -/
def creditKey (level q : Nat) : Nat := level * 32 + q

/-- The places in the list of launches that are placeable at a level. -/
def placeableAt (s : State) (level : Nat) : List Nat :=
  (List.range s.launches.length).filter fun i =>
    (s.launches[i]?).any fun l => placeable s l && levelOfLaunch s l == level

/-- The queue of a launch, if it came from one. -/
def Launch.queueNo (l : Launch) : Option Nat := match l.queue with
  | .inl q => some q
  | .inr _ => none

/-- A queue has a candidate at a level. -/
def queueAt (s : State) (level q : Nat) : Bool :=
  (placeableAt s level).any fun i => (s.launches[i]?).any fun l => l.queueNo == some q

/-- Some candidate with crews to place stands at a level. -/
def levelHas (s : State) (level : Nat) : Bool :=
  s.launches.any fun l => (l.state == .candidate || l.state == .running) && !l.killed && l.toPlace.isSome && isCandidate s l
    && levelOfLaunch s l == level

/-- The credits of levels without candidates are cleared, at the end of every step (R381). -/
def clearCredits (s : State) : State :=
  { s with credits := s.credits.filter fun e => levelHas s (e.1 / 32) }

/-- The choice of a queue by smooth weighted round-robin (R381). -/
def pickQueue (s : State) (level : Nat) : State × Option Nat :=
  let qs := (List.range 32).filter (queueAt s level)
  let s1 := qs.foldl (fun (s : State) q =>
    { s with credits := s.credits.set (creditKey level q) (s.credits.get 0 (creditKey level q) + queueWeight s q) }) s
  let total := qs.foldl (fun a q => a + queueWeight s q) 0
  let best := qs.foldl (fun (b : Option Nat) q =>
    match b with
    | none => some q
    | some x => if s1.credits.get 0 (creditKey level x) < s1.credits.get 0 (creditKey level q) then some q else b) none
  match best with
  | some q =>
    ({ s1 with credits := s1.credits.set (creditKey level q) (s1.credits.get 0 (creditKey level q) - total) }, some q)
  | none => (s1, none)

/-- PLACEMENT_DECISION (R381, R382): one crew is placed, of a table firing before all untimed work. A takeover's fence places none
(R408). -/
def execPlacementDecision (s : State) : Host.Outcome State Fault Refusal :=
  if s.fenced || !dispatchOn s then outside s
  else
    match placeableAt s 7 with
    | i :: _ => outside (placeNext s i)
    | [] =>
      match [6, 5, 4, 3, 2, 1, 0].find? fun v => !(placeableAt s v).isEmpty with
      | none => outside s
      | some v =>
        match pickQueue s v with
        | (s1, some q) =>
          match (placeableAt s v).find? fun i => (s.launches[i]?).any fun l => l.queueNo == some q with
          | some i => outside (placeNext s1 i)
          | none => outside s1
        | (s1, none) => outside s1

/-! ### Resumption beside placement -/

/-- CREW_RESUMPTION (R347): a saved crew of a launch that is to resume, on a free cluster that no crew of the table waits for. -/
def execCrewResumption (s : State) : Host.Outcome State Fault Refusal :=
  let i := s.cue.a
  let k := s.cue.c
  match s.launches[i]? with
  | none => outside s
  | some l =>
    match l.savedOn.find? fun x => x.1 == s.cue.b with
    | none => outside s
    | some x =>
      if !l.resuming || s.fenced || 384 ≤ k || !openTo s l k || !recordsValid s (effCap s l.rcb 13 0x60) x.1 then
        outside s
      else outside (resumeCrew s i l x.1 x.2 k)

/-! ### The time-triggered table (R377–R379) -/

/-- A field of a table entry (R378). -/
def entryField (s : State) (e off size : Nat) : Nat := s.block (0x2000 + 32 * e + off) size

/-- A counter of a table entry goes up by one. -/
def entryCount (s : State) (e off : Nat) : State :=
  s.blockPut (0x2000 + 32 * e + off) 4 ((entryField s e off 4 + 1) % 2 ^ 32)

/-- The overrun rule of an entry: 0 EXTEND, 1 PREEMPT, 2 ABANDON (R378). -/
def entryRule (s : State) (e : Nat) : Nat := entryField s e 0x10 4 % 4

/-- A launch of the table runs on past its window under EXTEND, the one rule that has later entries wait (R379). -/
def extending (s : State) (l : Launch) : Bool :=
  !l.overrun && !l.killed && match l.queue with
    | .inl _ => false
    | .inr e => entryRule s e == 0 && l.window.all fun w => w < s.tslot

/-- The dies that a launch's next crews may run on (R347, R382). -/
def launchDies (s : State) (l : Launch) : List Nat := diesFor s l.rcb (l.needs s)

/-- The untimed crews that may be pre-empted for a firing, as clusters, first to go first: lowest level, then the latest placed
(R378). -/
def victims (s : State) (l : Launch) : List Nat :=
  let dies := launchDies s l
  let key (k : Nat) : Option (Nat × Nat) := match (s.cluster k).crew with
    | some c =>
      match (launchIdx s c.launch).bind fun i => s.launches[i]? with
      | some v => if v.timed || c.killed || c.requeue || c.preempt || !dies.contains (k / 32) then none
        else some (untimedLevel s v, c.placed)
      | none => none
    | none => none
  let before (a b : Nat × Nat) : Bool := a.1 < b.1 || (a.1 == b.1 && b.2 < a.2)
  ((List.range 384).filter fun k => (key k).isSome).foldl (fun (acc : List Nat) k =>
    let x := (key k).getD (0, 0)
    acc.takeWhile (fun j => !before x ((key j).getD (0, 0))) ++ [k] ++
      acc.dropWhile (fun j => !before x ((key j).getD (0, 0)))) []

/-- Clusters that are free for a launch, or that a pre-emption will free on one of its dies. -/
def comingFree (s : State) (l : Launch) : List Nat :=
  let dies := launchDies s l
  (List.range 384).filter fun k =>
    clusterFree s l k || (dies.contains (k / 32) && (s.cluster k).crew.any fun c => c.preempt && !c.killed)

/-- Crews of a launch that wait for a cluster: those to be placed, and of a launch that resumes its saved ones too. -/
def Launch.wanting (l : Launch) : Nat :=
  let unplaced := l.again.length + (l.crews - l.next)
  if l.killed || l.state == .waiting then 0
  else if l.resuming then l.savedOn.length + unplaced
  else if l.state == .saved then 0 else unplaced

/-- Clusters for a firing's crews beside those that the table's earlier firings wait for: of each earlier one its crews that find
none elsewhere. -/
def wanted (s : State) (l : Launch) : Nat :=
  let mine := comingFree s l
  (s.launches.filter fun v => v.timed && v.queue != l.queue).foldl (fun n v =>
    n + (v.wanting - ((comingFree s v).filter fun k => !mine.contains k).length)) l.wanting

/-- Untimed crews are pre-empted until a firing's crews find clusters (R378). The first argument bounds their number. -/
def makeRoom : Nat → State → Launch → Nat → List Nat → State
  | 0, s, _, _, _ => s
  | _, s, _, _, [] => s
  | n + 1, s, l, need, k :: ks =>
    if need ≤ (comingFree s l).length then s
    else
      let s1 := match (s.cluster k).crew with
        | some c =>
          match launchIdx s c.launch with
          | some i => preemptCrews s i [k]
          | none => s
        | none => s
      makeRoom n s1 l need ks

/-- A firing's crews are given clusters. -/
def makeRoomFor (s : State) (l : Launch) : State := makeRoom 384 s l (wanted s l) (victims s l)

/-- An entry's launch, saved by PREEMPT at its previous firing, resumes (R378). -/
def resumeEntry (s : State) (e i : Nat) (l : Launch) (window : Nat) : State :=
  let s1 := resumeLaunch (entryCount s e 0x14) i { l with window := some window }
  match s1.launches[i]? with
  | some l' => makeRoomFor s1 l'
  | none => s1

/-- An entry fires for a slot (R378). Where its `TRCB` has changed, what it fired before is another launch's. -/
def fireEntry (s0 : State) (e slot : Nat) : State :=
  let r := entryField s0 e 0 8
  let s := reachRegion s0 r
  let done := entryField s e 8 8
  let width := eff s r 5 0x33 1
  if launchRefused s r s.rootRcb then writeToken s done 0x04
  else if width = 0 then entryCount s e 0x18
  else match s.launches.findIdx? fun l => l.queue == .inr e && (l.rcb == r || !(l.overrun && l.state == .saved)) with
    | some i =>
      match s.launches[i]? with
      | some l =>
        if l.overrun && l.state == .saved then resumeEntry s e i l (slot + width) else entryCount s e 0x18
      | none => s
    | none =>
      if !regionFree s r then entryCount s e 0x18
      else
        let l : Launch :=
          { rcb := r, queue := .inr e, doneva := done, ident := launchIdent s r slot, state := .candidate
            crews := s.rcb r 0xF4 4, window := some (slot + width) }
        makeRoomFor (writeToken (entryCount { s with launches := s.launches ++ [l] } e 0x14) done 0x00) l

/-- An entry is due at a slot: enabled, not empty, of a rule that is not reserved (R378). -/
def entryDue (s : State) (e : Nat) : Bool :=
  entryField s e 0 8 != 0 && (entryField s e 0x10 4).testBit 2 && entryRule s e != 3

/-- A due entry fires, is skipped while its previous firing runs, or waits behind a launch that runs on under EXTEND (R379,
R384). -/
def dueEntry (s : State) (slot : Nat) : State :=
  if s.tlen = 0 then s
  else
    let e := slot % s.tlen
    if !entryDue s e then s
    else if s.launches.any fun l => l.queue == .inr e && !(l.overrun && l.state == .saved) then entryCount s e 0x18
    else if s.launches.any (extending s) then
      let width := eff s (entryField s e 0 8) 5 0x33 1
      { s with deferred := s.deferred ++ [{ entry := e, slot, window := slot + width }] }
    else fireEntry s e slot

/-- A slot length in range (R377). -/
def tticksOk (n : Nat) : Bool := 1000 ≤ n && n ≤ 10000000

/-- Untimed candidates that no crew has been placed of age by one (R380). -/
def age (s : State) : State :=
  let ls := s.launches.map fun (l : Launch) =>
    if l.state == .candidate && !l.timed && !l.started then { l with aged := l.aged + 1 } else l
  { s with launches := ls }

/-- The header as it is read at a boundary (R377). -/
def latchHeader (s : State) : State :=
  let len := s.block 0x100C 2
  { s with tbase := s.block 0x1000 8, tticks := s.block 0x1008 4, tlen := if 256 < len then 0 else len }

/-- A slot begins, whose number is shown (R377). -/
def beginSlot (s : State) (n : Nat) : State := { s with tslot := n + 1 }.blockPut 0x1010 8 n

/-- The slot that a changed header puts the present time in. Its entry fires where it begins now; before `TTBASE` no slot has a
number. -/
def changedSlot (s : State) : State :=
  if !tticksOk s.tticks || s.ptp < s.tbase then { s with tslot := 0 }
  else
    let n := (s.ptp - s.tbase) / s.tticks
    let s1 := beginSlot s n
    if (s.ptp - s.tbase) % s.tticks = 0 then dueEntry s1 n else s1

/-- SLOT_BOUNDARY (R377, R378, R380): the slot that is due begins. A changed header takes effect here. While `TTSLOT` is out of
range no slot begins and nothing ages. -/
def execSlotBoundary (s : State) : Host.Outcome State Fault Refusal :=
  if !dispatchOn s then outside s
  else
    let s1 := latchHeader s
    let changed := s1.tbase != s.tbase || s1.tticks != s.tticks
    if !tticksOk s.tticks then outside (if changed && tticksOk s1.tticks then changedSlot s1 else s1)
    else if s.ptp < s.tbase + s.tslot * s.tticks then outside s
    else if changed then outside (changedSlot (age s1))
    else outside (dueEntry (beginSlot (age s1) s.tslot) s.tslot)

/-- DEFERRED_FIRING (R379): an entry that waited fires once no launch runs on, or is skipped when its own window has ended. It
stays held while the table fires nothing (R377). -/
def execDeferredFiring (s : State) : Host.Outcome State Fault Refusal :=
  match s.deferred.find? fun d => d.entry == s.cue.a with
  | none => outside s
  | some d =>
    let s1 := { s with deferred := s.deferred.erase d }
    if d.window < s.tslot then outside (entryCount s1 d.entry 0x18)
    else if s.launches.any (extending s) || s.tlen = 0 || !tticksOk s.tticks then outside s
    else outside (fireEntry s1 d.entry d.slot)

/-- WINDOW_OVERRUN (R379): a launch of the table still runs at the end of its window. -/
def execWindowOverrun (s : State) : Host.Outcome State Fault Refusal :=
  let i := s.cue.a
  match s.launches[i]? with
  | none => outside s
  | some l =>
    match l.queue, l.window with
    | .inr e, some w =>
      if s.tslot ≤ w then outside s
      else
        let s1 := entryCount s e 0x18
        match entryRule s e with
        | 1 => outside (preemptLaunch { s1 with launches := s1.launches.set i { l with window := none, overrun := true } } i)
        | 2 =>
          outside (killRegion { s1 with launches := s1.launches.set i { l with window := none, abandoned := true } } l.rcb)
        | _ => outside { s1 with launches := s1.launches.set i { l with window := none } }
    | _, _ => outside s

/-- ORDERING_AGENT_FAILURE (R370, R384): a die's agent goes out of service; the next in-service agent goes on with the dispatch
block. -/
def execOrderingAgentFailure (s : State) : Host.Outcome State Fault Refusal :=
  outside (s.setDie s.cue.a { s.die s.cue.a with agent := false })

end Sys2Proof.Machine
end

