-- ==== Sys2Proof/Machine/Coherence.lean ====
section
/-!
DEFINITION. What a home slice does for the agents of its directory, and the accesses that reach the module from a host or from
another module (R362, R366, R389–R391, R403).
-/

namespace Sys2Proof.Machine

/-! ### What an access leaves behind (R352–R354, R365, R390) -/

/-- What a home slice does for an access to one of its lines (R352–R354, R365, R390): it is translated, and the line is held, read
from memory and checked if it was not held before. -/
def serveAccess (s : State) (asid va : Nat) (flips : List Nat) : State :=
  let s1 := installLeaf s asid va
  match mappedAt s1 asid va with
  | none => s1
  | some (e, pa, dom) =>
    if !(s1.key dom).active || !backed s1 pa then s1
    else fillLine (readLine s1 asid va pa dom flips) asid va pa dom e

/-- One access of a step, which reaches its line or ends with its walk. -/
def serveWalk (w : Nat × Nat × Bool) (s : State) : State :=
  if w.2.2 then serveAccess s w.1 w.2.1 [] else installLeaf s w.1 w.2.1

/-- The accesses of a step are accounted for by their home slices, in order (log 68). -/
def serveWalks (s : State) : State := s.walks.foldr serveWalk { s with walks := [] }

/-! ### The directory's events (R362) -/

/-- A CXL port faces a host and has its protected stream (R392, R401). -/
def hostPort (s : State) (p : Nat) : Bool := p < 8 && (s.cxls.get {} p).host && (s.cxls.get {} p).ide && linksUp s

/-- The domains that a host agent may access (R389). -/
def hostDomain (s : State) (dom : Nat) : Bool := dom == 63 || dom == eff s s.rootRcb 4 0x32 1 % 64

/-- An agent can hold a copy of a line of a domain: a cluster that runs and has a cache, a host in its domains. -/
def mayHold (s : State) (k dom : Nat) : Bool :=
  if k < 384 then
    s.powered && !s.mappedOut (coreOf k 0) && !(s.die (k / 32)).gate.getLsbD (k % 32) && (s.die (k / 32)).dstate == 0
      && !((s.cluster k).banksIn 0).isEmpty
  else hostPort s (k - 384) && hostDomain s dom

/-- What a host's load is answered with. -/
def hostAnswer (s : State) (v : Option Word) : State := { s with hostOut := s.hostOut ++ [v] }

/-- A refused host access: its entry in the root region's log (R389). -/
def hostRefused (s : State) (va : Nat) : State :=
  logEntry s s.rootRcb { cause := 0x09, kind := 0, rid := ridOf s s.rootRcb, val := BitVec.ofNat 64 va }

/-- A host agent asks for a line that it may not have: a read is answered with the poison indication, both are recorded
(R389). -/
def refuseHost (s : State) (k va : Nat) (w : Bool) : State :=
  if k < 384 || !hostPort s (k - 384) then s
  else if w then hostRefused s va else hostAnswer (hostRefused s va) none

/-- The slice serves an agent: the access itself, then what the event does to the line. `w` asks for a page that may be written.
Lines of STREAM pages are held like any other and granted to no agent (R43). A host's addresses are those of address
space 0. -/
def serveLine (s : State) (w : Bool) (f : State → Nat → State) : Host.Outcome State Fault Refusal :=
  let k := s.cue.a
  let asid := s.cue.b
  let va := s.cue.c * 128
  match mappedAt s asid va with
  | none => outside s
  | some (e, _, dom) =>
    if isHost k && asid != 0 then outside s
    else if !mayHold s k dom || !(s.key dom).active || !(if w then bitOf e 2 else bitOf e 1 || bitOf e 3) then
      outside (refuseHost s k va w)
    else
      let s1 := serveAccess s asid va s.cue.flips
      let key := lineKey asid va
      outside (if bitOf e 6 then s1 else
        let s2 := f s1 key
        if isHost k then s2 else cacheIn s2 k key)

/-- A line's directory state is changed. -/
def setDir (s : State) (key : Nat) (f : Dir → Dir) : State :=
  match s.lines.find key with
  | some l => setLine s key { l with dir := f l.dir }
  | none => s

/-- LINE_READ (R362): data to the agent, which becomes owner or sharer. -/
def execLineRead (s : State) : Host.Outcome State Fault Refusal :=
  serveLine s false fun s1 key => setDir s1 key fun d => d.read s.cue.a

/-- OWNERSHIP_REQUEST (R47, R356, R362). -/
def execOwnershipRequest (s : State) : Host.Outcome State Fault Refusal :=
  serveLine s true fun s1 key => grantLine s1 key s.cue.a

/-- UPGRADE_NOTICE (R362): the owner of an exclusive copy may write it; the line is among those that its cache holds (R42). -/
def execUpgradeNotice (s : State) : Host.Outcome State Fault Refusal :=
  let key := lineKey s.cue.b (s.cue.c * 128)
  match s.lines.find key, mappedAt s s.cue.b (s.cue.c * 128) with
  | some l, some (e, _, _) =>
    if l.dir = .exclusive s.cue.a && bitOf e 2 then
      let s1 := grantLine s key s.cue.a
      outside (if isHost s.cue.a then s1 else cacheIn s1 s.cue.a key)
    else outside s
  | _, _ => outside s

/-! ### Hosts (R361, R389) -/

/-- A host's access is permitted: its page, if it is mapped with the permission, of a domain that a host may access, under an
active key. -/
def hostPage (s : State) (va : Nat) (write : Bool) : Option (Nat × Nat) :=
  match mappedAt s 0 va with
  | some (e, pa, dom) =>
    if hostDomain s dom && (s.key dom).active && (if write then bitOf e 2 else bitOf e 1) then some (pa, dom) else none
  | none => none

/-- An access of 1, 2, 4 or 8 bytes, naturally aligned. -/
def plainAccess (va size : Nat) : Bool := (size == 1 || size == 2 || size == 4 || size == 8) && va % size == 0

/-- HOST_CXL_ACCESS (R389): a refused load returns the poison indication, a refused store is dropped. An access wider than a
granule is an access to each of its granules (R78). -/
def execHostCxlAccess (s : State) : Host.Outcome State Fault Refusal :=
  if !hostPort s s.cue.a then outside s
  else match s.cue.host with
    | .load va size =>
      if !plainAccess va size then outside s
      else match hostPage s va false with
        | none => outside (hostAnswer (hostRefused (s.walked 0 va) va) none)
        | some (pa, dom) =>
          outside (hostAnswer (s.reach 0 va)
            (if s.poisoned 0 va pa dom then none else some (BitVec.ofNat 64 (s.bytes 0 va pa size))))
    | .store va size v =>
      if !plainAccess va size then outside s
      else match hostPage s va true with
        | none => outside (hostRefused (s.walked 0 va) va)
        | some (pa, dom) =>
          outside (performStore (s.reach 0 va)
            { space := .device 0, addr := va, pa, dom, size, value := v.setWidth 1024, rcb := s.rootRcb })

/-! ### The ingress port (R83, R403) -/

/-- What another module's access is answered with: a value, or the cause that is raised there. -/
def windowAnswer (s : State) (v : Except Nat Word) : State := { s with windowOut := s.windowOut ++ [v] }

/-- A read-modify-write performed at the ingress port; the old value is the answer. -/
def windowRmw (s : State) (pl : Place) (size : Nat) (r : Rmw) : State :=
  let old := leNat (fun i => s.placeByte pl i) size
  let s1 := match pl, r.new size old with
    | .device asid va pa dom _, some v =>
      performStore s { space := .device asid, addr := va, pa, dom, size, value := BitVec.ofNat 1024 v, rcb := s.rootRcb }
    | _, _ => s
  windowAnswer s1 (.ok (BitVec.ofNat 64 old))

/-- A multicast made at the ingress port, at the destinations of the page (R148, R358); its status word is the answer. -/
def windowCast (s : State) (pl : Place) (size : Nat) (op : Option Nat) (v : Word) : State :=
  match pl with
  | .device asid va pa dom _ =>
    let r := op.map fun o => ({ op := min o 9, v := v.toNat % 2 ^ (8 * size) } : Rmw)
    let p : PStore := { space := .device asid, addr := va, pa, dom, size, value := v.setWidth 1024, rcb := s.rootRcb }
    let x := castAll s pl op.isSome fun s frame =>
      match frame with
      | some f => frameWrite s p asid f r
      | none => match r with
        | some r => performStore s
            { p with value := BitVec.ofNat 1024 ((r.new size (leNat (fun i => s.placeByte pl i) size)).getD 0) }
        | none => performStore s p
    windowAnswer x.s (.ok (BitVec.ofNat 64 x.status))
  | _ => s

/-- An access that the ingress port translates in address space 1 and checks as R32 gives. One to an absent page is not answered:
the home slice sends the page's event to its die's pair (R335), and the access is made again by another request; the manual does
not say how the thread of another module is woken. DESIGN CHOICE, log 54. -/
def windowServe (s : State) (va size dom : Nat) (need : Need) (f : Place → State) : Host.Outcome State Fault Refusal :=
  if !plainAccess va size then outside s
  else match pageCheck s 1 va dom need with
    | .ok pl => outside ((f pl).reachAt pl)
    | .error (.page asid va) => outside (pageEvent (s.walked asid va) {} 0 0 0 s.rootRcb va)
    | .error e => match e.fault? with
      | some (cause, _, _) => outside (windowAnswer (s.reachStop e) (.error cause))
      | none => outside s

/-- SYSTEM_WINDOW_REQUEST (R392, R403, R406): a port that carries traffic has brought the packet. -/
def execSystemWindowRequest (s : State) : Host.Outcome State Fault Refusal :=
  if !fabricUp s then outside s
  else match s.cue.window with
    | .load va size dom =>
      windowServe s va size dom { r := true } fun pl =>
        windowAnswer s (.ok (BitVec.ofNat 64 (leNat (fun i => s.placeByte pl i) size)))
    | .store va size dom v =>
      windowServe s va size dom { w := true } fun pl =>
        match pl with
        | .device asid va pa dom _ =>
          performStore s { space := .device asid, addr := va, pa, dom, size, value := v.setWidth 1024, rcb := s.rootRcb }
        | _ => s
    | .rmw va size dom op v =>
      windowServe s va size dom { r := true, w := true } fun pl =>
        windowRmw s pl size { op := min op 9, v := v.toNat }
    | .cas va size dom cmp v =>
      windowServe s va size dom { r := true, w := true } fun pl =>
        windowRmw s pl size { op := 10, v := v.toNat, cmp := cmp.toNat }
    | .cast va size dom op v =>
      windowServe s va size dom { r := op.isSome, w := true, late := true } fun pl => windowCast s pl size op v
    | .barrier core ctx round tag launch =>
      if !isCompute core then outside s
      else outside (send s { dest := core, launch, rcb := s.rootRcb, body := .barrier (ctx % 16) round tag })
    | .nred core ctx op tag v launch =>
      if !isCompute core then outside s
      else outside (send s { dest := core, launch, rcb := s.rootRcb, body := .nred (ctx % 16) op tag v })

end Sys2Proof.Machine
end

