-- ==== Sys2Proof/Machine/Matrix.lean ====
section
/-!
DEFINITION. Tiles and accumulators: tile loads and stores, tile operations, matrix multiply, accumulator members (majors
0x2D to 0x30), and the completion of what the matrix unit holds (R194–R205).
-/

namespace Sys2Proof.Machine

/-! ### Spans -/

/-- Bytes from `off` on cut at multiples of `cut` of the address: offset from `addr` and number of bytes. -/
def cutsFrom (addr cut : Nat) : Nat → Nat → Nat → List (Nat × Nat)
  | 0, _, _ => []
  | fuel + 1, off, n =>
    if n = 0 then []
    else
      let k := min n (cut - (addr + off) % cut)
      (off, k) :: cutsFrom addr cut fuel (off + k) (n - k)

/-- The pieces of a span: whole lines of device memory to read, granules otherwise (R78). -/
def spanPieces (c : Cap) (addr n : Nat) (granules : Bool) : List (Nat × Nat) :=
  cutsFrom addr (if granules || c.space = 2 then 8 else 128) (n / 8 + 2) 0 n

/-- The step of R137 that a failure of a piece belongs to: the capability's, an absent page, cause 0x09, cause 0x0D. -/
def Stop.step : Stop → Nat
  | .fault 0x09 _ _ => 2
  | .fault 0x0D _ _ => 3
  | .denied 0x09 _ _ _ => 2
  | .denied _ _ _ _ => 3
  | .poison _ _ => 3
  | .fault _ _ _ => 0
  | _ => 1

/-- The first failure of some checks that are made together, step by step: of the failures of the earliest step, the first
(R137, R217). -/
def firstStop (es : List Stop) : Option Stop :=
  es.foldl (fun b e => match b with
    | none => some e
    | some x => if e.step < x.step then some e else b) none

/-- The failure of a check, if it fails. -/
def failure {α : Type} : Except Stop α → Option Stop
  | .error e => some e
  | .ok _ => none

/-- The checked places of the pieces of a span, lowest first: every page is present before a page's permission is looked at, and
every page permits before a line's integrity is. -/
def piecePlaces (s : State) (l : Loc) (t : Thread) (c : Cap) (addr : Nat) (perm : BitVec 8) (need : Need)
    (ps : List (Nat × Nat)) : Except Stop (List (Nat × Nat × Place)) :=
  let rs := ps.map fun p => (p, memCheck s l t c (addr + p.1 : Nat) p.2 1 perm need)
  match firstStop (rs.filterMap fun r => failure r.2) with
  | some e => .error e
  | none => .ok (rs.filterMap fun r => r.2.toOption.map fun pl => (r.1.1, r.1.2, pl))

/-- The checks of R137 over a span as a whole: the capability, SPACE, the scratchpad's size, every page (R197, R205). The
alignment is the caller's. -/
def spanCheck (s : State) (l : Loc) (t : Thread) (c : Cap) (addr : Int) (n : Nat) (perm : BitVec 8) (need : Need)
    (granules : Bool) : Except Stop (List (Nat × Nat × Place)) :=
  let val := BitVec.ofInt 64 addr
  match capCheck c addr n perm with
  | some cause => .error (.cause cause val)
  | none =>
    let a := addr.toNat
    if c.space = 1 && onCluster l.core && !isVisitor s l t && (s.cluster (clusterOf l.core)).padSize < a + n then
      .error (.cause 0x05 val)
    else piecePlaces s l t c a perm need (spanPieces c a n granules)

/-- The bytes of checked pieces as a number, the first lowest. -/
def spanNat (s : State) (hint : Bool) (ps : List (Nat × Nat × Place)) : Nat :=
  ps.foldl (fun a p => a + s.hintNat s.cur.core hint p.2.2 p.2.1 * 256 ^ p.1) 0

/-- The stores of a number's bytes to checked pieces. -/
def spanStores (s : State) (t : Thread) (ps : List (Nat × Nat × Place)) (v : Nat) : List PStore :=
  ps.map fun p => storeAt s.cur t p.2.2 p.2.1 (BitVec.ofNat 1024 (v / 256 ^ p.1 % 256 ^ p.2.1)) false

/-- What a load of a span finds performed; a revision-1 thread's load of device memory acquires as a whole (R78, R94). -/
def spanLoads (s : State) (t : Thread) (c : Cap) (ps : List (Nat × Nat × Place)) : State :=
  ps.foldl (fun s p => (settleWide s s.myPath (strengthened t c) p.2.2 p.2.1).reachAt p.2.2) s

/-- A revision-1 thread's store of a span of device memory releases as a whole (R94). -/
def spanOrder (s : State) (t : Thread) (c : Cap) (ps : List (Nat × Nat × Place)) : State :=
  ps.foldl (fun s p => s.reachAt p.2.2) (if strengthened t c then drain s s.myPath else s)

/-! ### The matrix unit's queue (R195) -/

/-- What a queued instruction writes, tile n as n and accumulator n as 8 + n. -/
def MatWrite.key : MatWrite → Nat
  | .tile n _ => n
  | .acc n _ => 8 + n

/-- A queued instruction writes a tile or accumulator. -/
def MatOp.puts (o : MatOp) (k : Nat) : Bool := o.writes.any fun w => w.key == k

/-- A queued instruction reads or writes a tile or accumulator. -/
def MatOp.uses (o : MatOp) (k : Nat) : Bool := o.reads.contains k || o.puts k

/-- A tile or accumulator is still to be written. -/
def Core.toWrite (c : Core) (k : Nat) : Bool := c.matq.any fun o => o.puts k

/-- A tile or accumulator is still to be read or written. -/
def Core.busy (c : Core) (k : Nat) : Bool := c.matq.any fun o => o.uses k

/-- A tile as the instructions issued so far leave it. -/
def Core.tile (c : Core) (n : Nat) : BitVec 131072 :=
  c.matq.foldl (fun v o => o.writes.foldl (fun v w => match w with
    | .tile m b => if m = n then b else v
    | .acc _ _ => v) v) (c.tiles.get 0 n)

/-- An accumulator as the instructions issued so far leave it. -/
def Core.acc (c : Core) (n : Nat) : BitVec 524288 :=
  c.matq.foldl (fun v o => o.writes.foldl (fun v w => match w with
    | .tile _ _ => v
    | .acc m b => if m = n then b else v) v) (c.accs.get 0 n)

/-- An instruction for the matrix unit, which holds four: its reads, what it writes and its flags are settled at issue from
what the instructions before it leave, and take effect at its completion (R195). -/
def enqueue (s : State) (reads : List Nat) (writes : List MatWrite) (flags : Nat) : Except Stop (State × Act) :=
  let c := s.core s.cur.core
  if 4 ≤ c.matq.length then .error .stall
  else .ok (s.setCore s.cur.core
    { c with matq := c.matq ++ [{ loc := s.cur, gen := (s.slot s.cur).gen, reads, writes, flags }] }, .next)

/-- The n-th queued instruction of a core may complete: no earlier one meets it. -/
def canComplete (c : Core) (n : Nat) : Bool :=
  match c.matq[n]? with
  | none => false
  | some o => (c.matq.take n).all fun q =>
    o.writes.all (fun w => !q.uses w.key) && o.reads.all fun k => !q.puts k

/-- The write of a completing instruction. -/
def Core.complete (c : Core) : MatWrite → Core
  | .tile n b => { c with tiles := c.tiles.set n b }
  | .acc n v => { c with accs := c.accs.set n v }

/-- MATRIX_COMPLETION (R195): a queued instruction writes its tile or accumulator, and its flags are set in the thread that
issued it, if it is still there. -/
def execMatrixCompletion (s : State) : Host.Outcome State Fault Refusal :=
  let c := s.core s.cue.a
  match c.matq[s.cue.b]? with
  | none => outside s
  | some o =>
    if canComplete c s.cue.b then
      let s1 := s.setCore s.cue.a (o.writes.foldl Core.complete { c with matq := c.matq.eraseIdx s.cue.b })
      outside (if (s1.slot o.loc).gen == o.gen then s1.onThread o.loc fun t => t.note o.flags false else s1)
    else outside s

/-! ### Shapes, classes and elements (R194) -/

/-- Rows, row bytes and format index of a shape (R113). -/
def rowsOf (w : Word) : Nat := bitsOf w 7 0
def rowBytesOf (w : Word) : Nat := bitsOf w 15 8
def formatIndex (w : Word) : Nat := bitsOf w 19 16

/-- A shape from its fields. -/
def shapeWord (rows rowBytes fmt : Nat) : Word := BitVec.ofNat 64 (rows + rowBytes * 256 + fmt * 65536)

/-- A tile as an operand: its bytes, rows, row bytes, class, descriptor, and the type of its elements. -/
structure Tile where
  bytes : BitVec 131072 := 0
  rows  : Nat := 0
  row   : Nat := 0
  cls   : Nat := 0
  desc  : Word := 0
  deriving DecidableEq, Repr

/-- The type of a tile's elements. -/
def Tile.ty (x : Tile) : Ty :=
  match x.cls with
  | 1 => { w := 16, fm := some fmBf16 }
  | 2 => { w := 16, fm := some fmF16 }
  | _ => let f := fmOf x.desc; { w := f.container, fm := some f }

/-- The format of a tile's elements. -/
def Tile.fm (x : Tile) : Fm := x.ty.fm.getD fmF32

/-- Columns of a tile: of row bytes that no whole number of elements fills, the whole ones. The manual gives a TSHAPE of a wide class
any row bytes up to 128 and does not say what its columns are then. DESIGN CHOICE, log 81. -/
def Tile.cols (x : Tile) : Nat := x.row * 8 / x.ty.w

/-- Tile n of the issuing thread's core, as its instructions find it at issue. -/
def tileAt (s : State) (t : Thread) (n : Nat) : Tile :=
  let c := s.core s.cur.core
  let w := c.shape n
  { bytes := c.tile n, rows := rowsOf w, row := rowBytesOf w, cls := c.tclass.get 0 n
    desc := formatFor s s.cur t (formatIndex w) }

/-- Element (i, j) of a tile, of a width in bits. -/
def tileElem (v : BitVec 131072) (w i j : Nat) : Nat := (v.toNat / 2 ^ (1024 * i + w * j)) % 2 ^ w

/-- Row i of a tile as a number. -/
def tileRow (v : BitVec 131072) (i : Nat) : Nat := v.toNat / 2 ^ (1024 * i) % 2 ^ 1024

/-- A tile from its rows. -/
def tileOf (rows : Nat) (f : Nat → Nat) : BitVec 131072 :=
  BitVec.ofNat 131072 ((List.range rows).foldl (fun a i => a + f i % 2 ^ 1024 * 2 ^ (1024 * i)) 0)

/-- A number from its fields of equal width, lowest first. -/
def packRow (w n : Nat) (f : Nat → Nat) : Nat :=
  (List.range n).foldl (fun a j => a + f j % 2 ^ w * 2 ^ (w * j)) 0

/-- Class and shape of a tile set at issue, where the instructions after it read them. -/
def setTileKind (s : State) (n cls : Nat) (shape : Word) : State :=
  let c := s.core s.cur.core
  s.setCore s.cur.core { c with tclass := c.tclass.set n cls, tshape := c.tshape.set n shape }

/-! ### TLD and TST (R197) -/

/-- The address of row i. -/
def rowAt (t : Thread) (c : BitVec 4) (a b : BitVec 5) (i : Nat) : Int :=
  memAddr t c a ((i : Int) * (t.s b.toNat).toInt)

/-- The checked pieces of each row: the alignment of every row first, then the rows in order. -/
def rowPlaces (s : State) (t : Thread) (c : Cap) (addr : Nat → Int) (n : Nat) (perm : BitVec 8) (need : Need)
    (granules : Bool) : List Nat → Except Stop (List (Nat × List (Nat × Nat × Place)))
  | [] => .ok []
  | i :: is =>
    match spanCheck s s.cur t c (addr i) n perm need granules with
    | .error e => .error e
    | .ok ps =>
      match rowPlaces s t c addr n perm need granules is with
      | .error e => .error e
      | .ok rs => .ok ((i, ps) :: rs)

/-- The rows of a tile load or store, checked. -/
def tileRows (s : State) (t : Thread) (c : BitVec 4) (a b : BitVec 5) (w : Word) (perm : BitVec 8) (need : Need)
    (granules : Bool) : Except Stop (List (Nat × List (Nat × Nat × Place))) :=
  let is := List.range (rowsOf w)
  match is.find? fun i => (rowAt t c a b i) % 8 != 0 with
  | some i => .error (.cause 0x07 (BitVec.ofInt 64 (rowAt t c a b i)))
  | none => rowPlaces s t (t.c c.toNat) (rowAt t c a b) (rowBytesOf w) perm need granules is

/-- TLD (R197): the tile's other bytes become zero; a tile from a formatted bank takes that bank's format (R39). -/
def execTld (n : BitVec 3) (c : BitVec 4) (a b : BitVec 5) (h : BitVec 1) (s : State) :
    Host.Outcome State Fault Refusal :=
  crewMember (.tld n c a b h) s fun t s =>
    let core := s.core s.cur.core
    let w := core.shape n.toNat
    let cap := t.c c.toNat
    if core.busy n.toNat || t.loadsStall then .error .stall
    else match tileRows s t c a b w permR { r := true } false with
      | .error e => .error e
      | .ok rows =>
        let all := rows.flatMap fun r => r.2
        let s1 := spanLoads s t cap all
        let v : BitVec 131072 := BitVec.ofNat 131072
          (rows.foldl (fun a r => a + spanNat s1 (h == 1) r.2 * 2 ^ (1024 * r.1)) 0)
        let s2 := if h = 1 then all.foldl (fun s p => leaveReplica s t cap p.2.2) s1 else s1
        let core2 := s2.core s.cur.core
        let s3 := s2.setCore s.cur.core { core2 with tiles := core2.tiles.set n.toNat v }
        let cl := s.cluster (clusterOf s.cur.core)
        let bank := cl.bankFormat (cl.bankOf (rowAt t c a b 0).toNat)
        .ok (if cap.space = 1 && !bitOf bank 4 then
            setTileKind s3 n.toNat 0 (shapeWord (rowsOf w) (rowBytesOf w) (bitsOf bank 3 0))
          else s3, .next)

/-- TST (R197): a row that covers a line clears its poison (R44). -/
def execTst (n : BitVec 3) (c : BitVec 4) (a b : BitVec 5) (s : State) : Host.Outcome State Fault Refusal :=
  crewMember (.tst n c a b) s fun t s =>
    let core := s.core s.cur.core
    if core.toWrite n.toNat then .error .stall
    else match tileRows s t c a b (core.shape n.toNat) permW { w := true } true with
      | .error e => .error e
      | .ok rows =>
        let s1 := spanOrder s t (t.c c.toNat) (rows.flatMap fun r => r.2)
        .ok (pushRows s1 s1.myPath (rows.map fun r => spanStores s1 t r.2 (tileRow (core.tile n.toNat) r.1)), .next)

/-! ### TOP (R198, R199) -/

/-- TZERO: class TS, the shape kept. -/
def execTzero (n : BitVec 3) (r : BitVec 3) (s : State) : Host.Outcome State Fault Refusal :=
  crewMember (.tzero n r) s fun _ s =>
    let w := (s.core s.cur.core).shape n.toNat
    match enqueue s [] [.tile n.toNat 0] 0 with
    | .error e => .error e
    | .ok (s, act) => .ok (setTileKind s n.toNat r.toNat w, act)

/-- TTRANS (R199). -/
def execTtrans (n : BitVec 3) (r : BitVec 3) (s : State) : Host.Outcome State Fault Refusal :=
  crewMember (.ttrans n r) s fun t s =>
    let x := tileAt s t r.toNat
    let e := x.ty.w
    let cols := x.cols
    if 128 < cols || x.rows * e % 8 != 0 || 128 < x.rows * e / 8 then
      .error (.cause 0x02 ((encodeWord (.ttrans n r)).setWidth 64))
    else
      let v := tileOf cols fun j => packRow e x.rows fun i => tileElem x.bytes e i j
      match enqueue s [r.toNat] [.tile n.toNat v] 0 with
      | .error e => .error e
      | .ok (s, act) =>
        let f := formatIndex ((s.core s.cur.core).shape r.toNat)
        .ok (setTileKind s n.toNat x.cls (shapeWord cols (x.rows * e / 8) f), act)

/-- TRDV: a row into a vector register. It waits for what is still to write the tile, and has no place of its own in the
queue once it has read. -/
def execTrdv (n : BitVec 3) (v a : BitVec 5) (s : State) : Host.Outcome State Fault Refusal :=
  crewMember (.trdv n v a) s fun t s =>
    let core := s.core s.cur.core
    if core.toWrite n.toNat || 4 ≤ core.matq.length then .error .stall
    else if isLoadBound s v.toNat then .error (loadBoundFault (.trdv n v a))
    else match writeVector s v.toNat
        (BitVec.ofNat 2048 (tileRow (core.tile n.toNat) ((t.s a.toNat).toNat % 128))) with
      | .error e => .error e
      | .ok s => .ok (s, .next)

/-- TWRV: a row from a vector register. -/
def execTwrv (n : BitVec 3) (v a : BitVec 5) (s : State) : Host.Outcome State Fault Refusal :=
  crewMember (.twrv n v a) s fun t s =>
    match readVectors s [v.toNat] with
    | .error e => .error e
    | .ok (s, vs) =>
      let old := (s.core s.cur.core).tile n.toNat
      let i := (t.s a.toNat).toNat % 128
      let row := (vs.get 0 v.toNat).toNat % 2 ^ 1024
      enqueue s [n.toNat] [.tile n.toNat (tileOf 128 fun k => if k = i then row else tileRow old k)] 0

/-! ### MMA (R70, R71, R200–R203) -/

/-- Element (i, j) of an accumulator. -/
def accElem (v : BitVec 524288) (i j : Nat) : Nat := v.toNat / 2 ^ (4096 * i + 32 * j) % 2 ^ 32

/-- An accumulator from its elements, with the flags of computing them. -/
def accOf (f : Nat → Nat → Nat × Nat) : BitVec 524288 × Nat :=
  let r := (List.range 128).foldl (fun (a : Nat × Nat) i =>
    let row := (List.range 128).foldl (fun (b : Nat × Nat) j =>
      let x := f i j
      (b.1 + x.1 % 2 ^ 32 * 2 ^ (32 * j), b.2 ||| x.2)) (0, 0)
    (a.1 + row.1 * 2 ^ (4096 * i), a.2 ||| row.2)) (0, 0)
  (BitVec.ofNat 524288 r.1, r.2)

/-- Element (i, k) of an operand times its block's scale from a tile of scales, where it has one (R63, R203). -/
def scaledElem (x : Tile) (scales : Option Tile) (i k : Nat) : FVal × Nat :=
  let v := x.fm.value (tileElem x.bytes x.ty.w i k)
  let bsf := bsfOf x.desc
  match scales with
  | none => (v, 0)
  | some q =>
    if x.cls != 0 || bsf = 0 then (v, 0)
    else
      let sc := scaleValue bsf (tileElem q.bytes (8 * scaleBytes bsf) i (k / bszOf x.desc))
      if sc.isNan || sc.isInf then (.nan false, 1) else exactMul v sc

/-- The exact sum of the products of one run of K, with its invalid flag. -/
def dotRun (a b : Nat → FVal × Nat) (ks : List Nat) : Exact × Nat :=
  let ps := ks.map fun k =>
    let p := exactMul (a k).1 (b k).1
    (p.1, p.2 ||| (a k).2 ||| (b k).2)
  let r := exactSum (ps.map fun p => p.1)
  (r.1, ps.foldl (fun f p => f ||| p.2) r.2)

/-- The sum of R70 onto an FP32 accumulator element: runs of 32, each rounded, each added and rounded. Of the flags, invalid
and overflow are raised. -/
def mmaSum (acc K : Nat) (a b : Nat → FVal × Nat) : Nat × Nat :=
  (List.range ((K + 31) / 32)).foldl (fun (x : Nat × Nat) q =>
    let run := dotRun a b ((List.range (min 32 (K - 32 * q))).map (32 * q + ·))
    let r := fmF32.round 0 0 run.1
    let y := exactSum [fmF32.value x.1, fmF32.value r.1]
    let z := fmF32.round 0 0 y.1
    (z.1, x.2 ||| ((run.2 ||| r.2 ||| y.2 ||| z.2) &&& 5))) (acc, 0)

/-- An NF integer's value. -/
def intElem (x : Tile) (i k : Nat) : Int :=
  match x.fm.value (tileElem x.bytes x.ty.w i k) with
  | .fin true m _ => -m
  | .fin false m _ => m
  | _ => 0

/-- The sum of R71 onto an INT32 accumulator element, saturated once. -/
def mmaInt (acc : Int) (K : Nat) (a b : Nat → Int) : Nat :=
  saturate 32 ((List.range K).foldl (fun x k => x + a k * b k) acc)

/-- The checks of R201 on the operands of a multiply. -/
def mmaOk (x y : Tile) : Bool :=
  x.row == y.row && x.cls == y.cls &&
    (if x.cls = 0 then x.fm.container == y.fm.container else x.row % 2 == 0)

/-- A scale tile holds the scales of an operand (R203). -/
def scalesFit (x q : Tile) : Bool :=
  let bsf := bsfOf x.desc
  bsf = 0 || (x.rows ≤ q.rows && (x.cols + bszOf x.desc - 1) / bszOf x.desc * scaleBytes bsf ≤ q.row)

/-- A multiply: the checks of its operands, the feature of 4-bit ones (R201), the M × N corner of the accumulator computed,
the rest kept (R202). -/
def mmaMember (i : Instr) (n : BitVec 1) (a b : BitVec 3) (extra : List Nat) (s : State)
    (ok : Thread → State → Tile → Tile → Bool) (f : Thread → State → Tile → Tile → Nat → Nat → Nat → Nat × Nat) :
    Host.Outcome State Fault Refusal :=
  crewMember i s fun t s =>
    let x := tileAt s t a.toNat
    let y := tileAt s t b.toNat
    let w := (encodeWord i).setWidth 64
    if !(mmaOk x y && ok t s x y) then .error (.cause 0x02 w)
    else if x.ty.w = 4 && !(s.die (dieOf s.cur.core)).features.getLsbD 6 then .error (.fault 0x0A w 6)
    else
      let old := (s.core s.cur.core).acc n.toNat
      let r := accOf fun i j =>
        let e := accElem old i j
        if i < x.rows && j < y.rows then f t s x y i j e else (e, 0)
      enqueue s ([a.toNat, b.toNat, 8 + n.toNat] ++ extra) [.acc n.toNat r.1] r.2

/-- MMA (R202). -/
def execMma (n : BitVec 1) (a b : BitVec 3) (c : BitVec 1) (s : State) : Host.Outcome State Fault Refusal :=
  mmaMember (.mma n a b c) n a b [] s (fun _ _ _ _ => true) fun _ _ x y i j e =>
    mmaSum (if c = 1 then 0 else e) x.cols (scaledElem x none i) (scaledElem y none j)

/-- MMAS (R202, R203). -/
def execMmas (n : BitVec 1) (a b : BitVec 3) (r u : BitVec 3) (c : BitVec 1) (s : State) :
    Host.Outcome State Fault Refusal :=
  mmaMember (.mmas n a b r u c) n a b [r.toNat, u.toNat] s
    (fun t s x y => x.cls == 0 && scalesFit x (tileAt s t r.toNat) && scalesFit y (tileAt s t u.toNat))
    fun t s x y i j e =>
      mmaSum (if c = 1 then 0 else e) x.cols (scaledElem x (some (tileAt s t r.toNat)) i)
        (scaledElem y (some (tileAt s t u.toNat)) j)

/-- MMAI (R71, R202). -/
def execMmai (n : BitVec 1) (a b : BitVec 3) (c : BitVec 1) (s : State) : Host.Outcome State Fault Refusal :=
  mmaMember (.mmai n a b c) n a b [] s
    (fun _ _ x y => x.cls == 0 && x.fm.e == 0 && y.fm.e == 0) fun _ _ x y i j e =>
      (mmaInt (if c = 1 then 0 else sgn 32 e) x.cols (intElem x i) (intElem y j), 0)

/-! ### ACC (R204, R205) -/

/-- ACZERO. -/
def execAczero (n : BitVec 1) (s : State) : Host.Outcome State Fault Refusal :=
  crewMember (.aczero n) s fun _ s => enqueue s [] [.acc n.toNat 0] 0

/-- The checked span of an accumulator in memory: aligned to a line, then as a whole. -/
def accSpan (s : State) (t : Thread) (c : BitVec 4) (a : BitVec 5) (perm : BitVec 8) (need : Need) (granules : Bool) :
    Except Stop (List (Nat × Nat × Place)) :=
  let addr := memAddr t c a 0
  if addr % 128 != 0 then .error (.cause 0x07 (BitVec.ofInt 64 addr))
  else spanCheck s s.cur t (t.c c.toNat) addr 65536 perm need granules

/-- ACLD. -/
def execAcld (n : BitVec 1) (c : BitVec 4) (a : BitVec 5) (s : State) : Host.Outcome State Fault Refusal :=
  crewMember (.acld n c a) s fun t s =>
    if t.loadsStall then .error .stall
    else match accSpan s t c a permR { r := true } false with
      | .error e => .error e
      | .ok ps =>
        let s1 := spanLoads s t (t.c c.toNat) ps
        enqueue s1 [] [.acc n.toNat (BitVec.ofNat 524288 (spanNat s1 false ps))] 0

/-- ACST. It waits for what is still to write the accumulator. -/
def execAcst (n : BitVec 1) (c : BitVec 4) (a : BitVec 5) (s : State) : Host.Outcome State Fault Refusal :=
  crewMember (.acst n c a) s fun t s =>
    let core := s.core s.cur.core
    if core.toWrite (8 + n.toNat) || 4 ≤ core.matq.length then .error .stall
    else match accSpan s t c a permW { w := true } true with
      | .error e => .error e
      | .ok ps =>
        let s1 := spanOrder s t (t.c c.toNat) ps
        .ok (pushWide s1 s1.myPath (spanStores s1 t ps (core.acc n.toNat).toNat), .next)

/-- ACCVT: rounded to nearest even into the tile's class and format, every scale 1. -/
def execAccvt (n : BitVec 1) (u : BitVec 3) (i : BitVec 1) (s : State) : Host.Outcome State Fault Refusal :=
  crewMember (.accvt n u i) s fun t s =>
    let x := tileAt s t u.toNat
    let ty := x.ty
    if 128 < x.cols then .error (.cause 0x02 ((encodeWord (.accvt n u i)).setWidth 64))
    else
      let v := (s.core s.cur.core).acc n.toNat
      let src : Ty := if i = 1 then { w := 32 } else { w := 32, fm := some fmF32 }
      let one (r j : Nat) : Nat × Nat :=
        let q := sourceValue src (.fin false 1 0) false (accElem v r j)
        convert ty 0 0 q.1.exact q.2
      let flags := (List.range x.rows).foldl (fun f r =>
        (List.range x.cols).foldl (fun f j => f ||| (one r j).2) f) 0
      enqueue s [8 + n.toNat] [.tile u.toNat (tileOf x.rows fun r => packRow ty.w x.cols fun j => (one r j).1)] flags

/-- ACADD: FP32 to nearest even, or INT32 saturating. -/
def execAcadd (n : BitVec 1) (i : BitVec 1) (b : BitVec 1) (s : State) : Host.Outcome State Fault Refusal :=
  crewMember (.acadd n i b) s fun _ s =>
    let core := s.core s.cur.core
    let x := core.acc n.toNat
    let y := core.acc b.toNat
    let r := accOf fun r j =>
      if i = 1 then (saturate 32 (sgn 32 (accElem x r j) + sgn 32 (accElem y r j)), 0)
      else roundFm fmF32 0 0 (exactSum [fmF32.value (accElem x r j), fmF32.value (accElem y r j)])
    enqueue s [8 + n.toNat, 8 + b.toNat] [.acc n.toNat r.1] r.2

end Sys2Proof.Machine
end

