-- ==== Sys2Proof/Machine/Copies.lean ====
section
/-!
DEFINITION. Copies (major 0x32): the command, the issue checks, and what the copy hart does when a copy completes (R40,
R75, R210–R214).
-/

namespace Sys2Proof.Machine

/-! ### Elements and pieces -/

/-- A piece of a destination: its offset, its bytes, the source bytes it needs and the bytes of the destination that it reads, and
its value and flags from the bytes of the source and of the destination as it was. -/
structure Piece where
  off   : Nat
  size  : Nat
  needs : List Nat
  dneeds : List Nat := []
  f     : (Nat → Byte) → (Nat → Byte) → Nat × Nat

/-- Some offsets in a row. -/
def offsets (a n : Nat) : List Nat := (List.range n).map (a + ·)

/-- An element that a conversion moves: bit offsets and formats of its source and its destination (R40). -/
structure Elem where
  sb : Nat
  fs : Fm
  db : Nat
  fd : Fm
  /-- between banks of one format: the bits move unchanged (R212) -/
  same : Bool := false
  deriving DecidableEq, Repr

/-- The bits of a container in bytes. -/
def bitsIn (f : Nat → Byte) (bit w : Nat) : Nat :=
  if w < 8 then (f (bit / 8)).toNat / 2 ^ (bit % 8) % 2 ^ w else leNat (fun i => f (bit / 8 + i)) (w / 8)

/-- An element converted to nearest even (R65–R68), every scale 1; unchanged between banks of one format (R212). -/
def Elem.conv (e : Elem) (src : Nat → Byte) : Nat × Nat :=
  let x := bitsIn src e.sb e.fs.container
  let v := e.fs.value x
  if e.same then (x, 0) else roundFm e.fd 0 0 (v.exact, if v.sig then 1 else 0)

/-- The source bytes of an element. -/
def Elem.needs (e : Elem) : List Nat := offsets (e.sb / 8) (max 1 (e.fs.container / 8))

/-- The pieces of a conversion: two 4-bit elements make a byte, and a last single one keeps the high nibble (R40). -/
def elemPieces : List Elem → List Piece
  | [] => []
  | [e] =>
    if e.fd.container = 4 then
      [{ off := e.db / 8, size := 1, needs := e.needs, dneeds := [e.db / 8]
         f := fun src dst => let x := e.conv src; ((dst (e.db / 8)).toNat / 16 * 16 + x.1 % 16, x.2) }]
    else [{ off := e.db / 8, size := e.fd.container / 8, needs := e.needs, f := fun src _ => e.conv src }]
  | e :: e' :: es =>
    if e.fd.container = 4 then
      { off := e.db / 8, size := 1, needs := e.needs ++ e'.needs
        f := fun src _ => let x := e.conv src; let y := e'.conv src; (x.1 % 16 + y.1 % 16 * 16, x.2 ||| y.2) }
        :: elemPieces es
    else
      { off := e.db / 8, size := e.fd.container / 8, needs := e.needs, f := fun src _ => e.conv src }
        :: elemPieces (e' :: es)

/-- The elements of a conversion between two formats. -/
def evenElems (fs fd : Fm) (n : Nat) : List Elem :=
  (List.range n).map fun k => { sb := k * fs.container, fs, db := k * fd.container, fd }

/-- The elements of a copy between banks, none where a RAW bank is touched (R40). The first argument bounds their number. -/
def bankElems (cl : Cluster) (banks : List (Option Word)) (src dst bits : Nat) : Nat → Nat → Nat → Option (List Elem)
  | 0, _, _ => some []
  | fuel + 1, sb, db =>
    if bits ≤ sb then some []
    else
      match banks.getD (cl.bankOf (src + sb / 8)) none, banks.getD (cl.bankOf (dst + db / 8)) none with
      | some ds, some dd =>
        let fs := fmOf ds
        let fd := fmOf dd
        (bankElems cl banks src dst bits fuel (sb + fs.container) (db + fd.container)).map fun es =>
          { sb, fs, db, fd, same := ds == dd } :: es
      | _, _ => none

/-- The formats that a CPYCV names. -/
def CopyCmd.srcFm (q : CopyCmd) : Fm := stdFm q.sfmt q.sstd
where
  /-- A descriptor, or one of FP32, BF16 and FP16. -/
  stdFm (d : Option Word) (std : Nat) : Fm :=
    match d with
    | some w => fmOf w
    | none => if std = 1 then fmBf16 else if std = 2 then fmF16 else fmF32

/-- The destination format of a CPYCV. -/
def CopyCmd.dstFm (q : CopyCmd) : Fm := CopyCmd.srcFm.stdFm q.dfmt q.dstd

/-- The elements of a conversion, none for a copy of bytes (R40, R212). -/
def CopyCmd.elems (q : CopyCmd) (cl : Cluster) : Option (List Elem) :=
  if q.op = 1 then some (evenElems q.srcFm q.dstFm (q.count * 8 / q.srcFm.container))
  else if q.op = 0 && q.src.space = 1 && q.dst.space = 1 then
    bankElems cl q.banks q.srcAddr q.dstAddr (8 * q.count) (2 * q.count) 0 0
  else none

/-- Bytes that a list of elements covers at its destination. -/
def elemsBytes (es : List Elem) : Nat := es.foldl (fun n e => max n ((e.db + e.fd.container + 7) / 8)) 0

/-! ### Reductions (R75, R214) -/

/-- The number of scale bytes of a narrow or exact image of K elements. -/
def scaleCount (desc : Word) (k : Nat) : Nat := if bsfOf desc = 0 then 0 else (k + bszOf desc - 1) / bszOf desc

/-- Bytes of the packed elements of a narrow image, where its scales begin. -/
def packedBytes (desc : Word) (k : Nat) : Nat := (k * (fmOf desc).container + 7) / 8

/-- Bytes of a narrow image. -/
def narrowBytes (desc : Word) (k : Nat) : Nat := packedBytes desc k + scaleCount desc k

/-- Where the words of an exact image begin. -/
def exactStart (desc : Word) (k : Nat) : Nat := (scaleCount desc k + 7) / 8 * 8

/-- Bytes of an exact image. -/
def exactBytes (desc : Word) (k : Nat) : Nat := exactStart desc k + 8 * k

/-- The marker of a NaN element. -/
def nanMarker : Nat := 2 ^ 63

/-- The agreed scale of element i, read from an exact image. -/
def agreedScale (desc : Word) (image : Nat → Byte) (i : Nat) : FVal :=
  if bsfOf desc = 0 then .fin false 1 0 else scaleValue 1 (image (i / bszOf desc)).toNat

/-- The grid of a format and an agreed scale (R75). -/
def gridOf (f : Fm) (scale : FVal) : FVal :=
  if f.e = 0 then scale else (exactMul scale (.fin false 1 (1 - f.bias - f.m))).1

/-- A sum in a word of an exact image. One that does not fit the word has no stated result (R75, R214). DESIGN CHOICE,
log 72. -/
def wordAdd (old : Nat) (n : Int) : Nat :=
  let x := sgn 64 old + n
  if -(2 ^ 63) ≤ x ∧ x < 2 ^ 63 then wrapTo 64 x else (Config.exactBeyond old n).toNat

/-- The flags of reading a scale: invalid for a NaN (R63). -/
def scaleFlags (x : FVal) : Nat := if x.isNan then 1 else 0

/-- Phase two for element i: its value on the grid added to the word, NaN as the marker, which stays (R75, R214). -/
def addExact (desc : Word) (k i : Nat) (src dst : Nat → Byte) : Nat × Nat :=
  let f := fmOf desc
  let old := leNat (fun j => dst (exactStart desc k + 8 * i + j)) 8
  let own : FVal := if bsfOf desc = 0 then .fin false 1 0
    else scaleValue 1 (src (packedBytes desc k + i / bszOf desc)).toNat
  let v := (exactMul (f.value (bitsIn src (i * f.container) f.container)) own).1
  let agreed := agreedScale desc dst i
  let nan := scaleFlags own ||| scaleFlags agreed
  if v.isNan || agreed.isNan || old = nanMarker then (nanMarker, nan)
  else
    let r := roundInt 512 0 0 (exactDiv v (gridOf f agreed))
    (wordAdd old (sgn 512 r.1), r.2)

/-- An exact word into FP32. -/
def fromExact (desc : Word) (k i : Nat) (src : Nat → Byte) : Nat × Nat :=
  let n := leNat (fun j => src (exactStart desc k + 8 * i + j)) 8
  let agreed := agreedScale desc src i
  let g := gridOf (fmOf desc) agreed
  if n = nanMarker || g.isNan then (0x7FC00000, scaleFlags agreed)
  else
    let v := sgn 64 n
    fmF32.round 0 0 (exactMul (.fin (v < 0) v.natAbs 0) g).1.exact

/-- One element of OP 0 to 4: `d op s`. -/
def reduceElem (op d x : Nat) : Nat × Nat :=
  match op with
  | 0 => ((d + x) % 2 ^ 32, 0)
  | 1 => roundFm fmF32 0 0 (exactSum [fmF32.value d, fmF32.value x])
  | 2 => minMaxFm fmF32 true false d x
  | 3 => minMaxFm fmF32 false false d x
  | _ => (max d x, 0)

/-- The pieces of a CPYRED. -/
def CopyCmd.redPieces (q : CopyCmd) : List Piece :=
  let desc := q.sfmt.getD 0
  let k := q.count
  match q.redop with
  | 5 => (List.range k).map fun i =>
      { off := exactStart desc k + 8 * i, size := 8
        needs := (i * (fmOf desc).container / 8) ::
          (if bsfOf desc = 0 then [] else [packedBytes desc k + i / bszOf desc])
        dneeds := offsets (exactStart desc k + 8 * i) 8 ++ (if bsfOf desc = 0 then [] else [i / bszOf desc])
        f := fun src dst => addExact desc k i src dst }
  | 6 => (List.range k).map fun i =>
      { off := 4 * i, size := 4
        needs := offsets (exactStart desc k + 8 * i) 8 ++ (if bsfOf desc = 0 then [] else [i / bszOf desc])
        f := fun src _ => fromExact desc k i src }
  | op =>
    let n := if op = 4 then 1 else 4
    (List.range (k / n)).map fun i =>
      { off := i * n, size := n, needs := offsets (i * n) n, dneeds := offsets (i * n) n
        f := fun src dst => reduceElem op (leNat (fun j => dst (i * n + j)) n) (leNat (fun j => src (i * n + j)) n) }

/-- The bytes of a copy without conversion, cut at the granules of the destination. -/
def CopyCmd.bytePieces (q : CopyCmd) : List Piece :=
  (cutsFrom q.dstAddr 8 (q.count / 8 + 2) 0 q.count).map fun p =>
    { off := p.1, size := p.2, needs := offsets p.1 p.2, f := fun src _ => (leNat (fun i => src (p.1 + i)) p.2, 0) }

/-- The pieces of a copy. -/
def CopyCmd.pieces (q : CopyCmd) (cl : Cluster) : List Piece :=
  if q.op = 3 then q.redPieces
  else match q.elems cl with
    | some es => elemPieces es
    | none => q.bytePieces

/-- Bytes of the source and the destination span. -/
def CopyCmd.spans (q : CopyCmd) (cl : Cluster) : Nat × Nat :=
  let desc := q.sfmt.getD 0
  if q.op = 3 then
    match q.redop with
    | 5 => (narrowBytes desc q.count, exactBytes desc q.count)
    | 6 => (exactBytes desc q.count, 4 * q.count)
    | _ => (q.count, q.count)
  else match q.elems cl with
    | some es => (q.count, elemsBytes es)
    | none => (q.count, q.count)

/-- The alignment of the source and the destination: their element sizes (R31, R212). -/
def CopyCmd.aligns (q : CopyCmd) : Nat × Nat :=
  match q.op with
  | 1 => (max 1 (q.srcFm.container / 8), max 1 (q.dstFm.container / 8))
  | 3 => (match q.redop with
    | 4 => (1, 1)
    | 5 => (1, 8)
    | 6 => (8, 4)
    | _ => (4, 4))
  | _ => (1, 1)

/-! ### Issue (R211, R212) -/

/-- The descriptors of a cluster's banks. -/
def bankDescs (cl : Cluster) : List (Option Word) :=
  (List.range 16).map fun k =>
    let b := cl.bankFormat k
    if bitOf b 4 then none else some (cl.format (bitsOf b 3 0))

/-- The fields of a command word (R211), or none for a reserved value. -/
def decodeCopy (s : State) (t : Thread) (op : Nat) (w : Word) : Option CopyCmd :=
  let count := bitsOf w 31 0
  let fmt (n : Nat) : Option Word := if n < 16 then some (formatFor s s.cur t n) else none
  match op with
  | 1 =>
    let sf := bitsOf w 36 32
    let df := bitsOf w 44 40
    let q : CopyCmd := { op, count, sfmt := fmt sf, dfmt := fmt df, sstd := sf - 16, dstd := df - 16 }
    if bitsOf w 39 37 != 0 || bitsOf w 63 45 != 0 || 0x12 < sf || 0x12 < df || count * 8 % q.srcFm.container != 0 then none
    else some q
  | 3 =>
    let red := bitsOf w 34 32
    let desc := formatFor s s.cur t (bitsOf w 39 36)
    if bitOf w 35 || bitsOf w 63 40 != 0 || red = 7 || (red < 4 && count % 4 != 0) || (5 ≤ red && 2 ≤ bsfOf desc) then none
    else some { op, count, redop := red, sfmt := some desc }
  | _ => if bitsOf w 63 32 != 0 then none else some { op, count }

/-- The issue checks of a copy in their order, on its complete command. -/
def copyCheck (s : State) (t : Thread) (q : CopyCmd) : Option Stop :=
  let cl := s.cluster (clusterOf s.cur.core)
  let n := q.spans cl
  let al := q.aligns
  let vs : Word := BitVec.ofNat 64 q.srcAddr
  let vd : Word := BitVec.ofNat 64 q.dstAddr
  let past (c : Cap) (a n : Nat) : Bool := c.space = 1 && cl.padSize < a + n
  match capCheck q.src q.srcAddr n.1 permR, capCheck q.dst q.dstAddr n.2 (if q.op = 3 then permR ||| permW else permW) with
  | some cause, _ => some (.cause cause vs)
  | none, some cause => some (.cause cause vd)
  | none, none =>
    let barred (c : Cap) : Bool := c.space = 3 || (c.space = 1 && isVisitor s s.cur t)
    if barred q.src then some (.cause 0x06 vs)
    else if barred q.dst then some (.cause 0x06 vd)
    else if q.srcAddr % al.1 != 0 then some (.cause 0x07 vs)
    else if q.dstAddr % al.2 != 0 then some (.cause 0x07 vd)
    else if past q.src q.srcAddr n.1 then some (.cause 0x05 vs)
    else if past q.dst q.dstAddr n.2 then some (.cause 0x05 vd)
    else none

/-- A copy member: the command, the checks, the queue of sixteen, the release of the earlier accesses, the token (R212). A
count of 0 fills the token at once. -/
def copyMember (i : Instr) (op : Nat) (d : BitVec 5) (cd : BitVec 4) (da : BitVec 5) (cs : BitVec 4) (sa : BitVec 5)
    (s : State) : Host.Outcome State Fault Refusal :=
  issue i s fun t s =>
    let k := clusterOf s.cur.core
    match decodeCopy s t op (t.s d.toNat) with
    | none => .error (.cause 0x02 ((encodeWord i).setWidth 64))
    | some q0 =>
      let src := t.c cs.toNat
      let dst := t.c cd.toNat
      let q : CopyCmd :=
        { q0 with
          loc := s.cur, handle := s.handleOf s.cur, launch := t.launch, rcb := t.rcb, reg := d.toNat, src, dst
          srcAddr := src.base + (t.s sa.toNat).toNat, dstAddr := dst.base + (t.s da.toNat).toNat
          banks := bankDescs (s.cluster k), asid := t.asid, crewId := t.crewId }
      match copyCheck s t q with
      | some e => .error e
      | none =>
        if q.count = 0 then .ok (s.setMe (s.me.fill d.toNat 0), .next)
        else if 16 ≤ (s.cluster k).copies.length then .error .stall
        else
          let s1 := claimMe (drain s s.myPath) d
          let cl := s1.cluster k
          .ok (s1.setCluster k { cl with copies := cl.copies ++ [q] }, .next)

/-- CPY (R210). -/
def execCpy (d : BitVec 5) (e : BitVec 4) (f : BitVec 5) (g : BitVec 4) (h : BitVec 5) (s : State) :
    Host.Outcome State Fault Refusal :=
  copyMember (.cpy d e f g h) 0 d e f g h s

/-- CPYCV (R210). -/
def execCpycv (d : BitVec 5) (e : BitVec 4) (f : BitVec 5) (g : BitVec 4) (h : BitVec 5) (s : State) :
    Host.Outcome State Fault Refusal :=
  copyMember (.cpycv d e f g h) 1 d e f g h s

/-- CPYMC (R210). -/
def execCpymc (d : BitVec 5) (e : BitVec 4) (f : BitVec 5) (g : BitVec 4) (h : BitVec 5) (s : State) :
    Host.Outcome State Fault Refusal :=
  copyMember (.cpymc d e f g h) 2 d e f g h s

/-- CPYRED (R210). -/
def execCpyred (d : BitVec 5) (e : BitVec 4) (f : BitVec 5) (g : BitVec 4) (h : BitVec 5) (s : State) :
    Host.Outcome State Fault Refusal :=
  copyMember (.cpyred d e f g h) 3 d e f g h s

/-! ### Completion (R212, R213) -/

/-- One end of a unit's access: a scratchpad byte of its cluster, another module, or a page of the address space, without
the visitor check of a thread. The capability's bounds have been checked at issue. -/
def unitPlace (s : State) (k asid : Nat) (c : Cap) (addr : Nat) (need : Need) : Except Stop Place :=
  if c.space = 1 then .ok (.scratch k addr)
  else if c.space = 2 then
    memCheck s { core := coreOf k 0 } { asid } (Cap.mk' addr 1 0 c.dom 2 true) addr 1 1 0 need
  else pageCheck s asid addr c.dom need

/-- The places of a unit's span, lowest first. -/
def unitSpan (s : State) (k asid : Nat) (c : Cap) (addr : Nat) (need : Need) :
    List (Nat × Nat) → Except (Stop × Nat) (List (Nat × Nat × Place))
  | [] => .ok []
  | (off, n) :: ps =>
    match unitPlace s k asid c (addr + off) need with
    | .error e => .error (e, addr + off)
    | .ok pl =>
      match unitSpan s k asid c addr need ps with
      | .error e => .error e
      | .ok qs => .ok ((off, n, pl) :: qs)

/-- The performed bytes of checked pieces as a number. -/
def placesNat (s : State) (ps : List (Nat × Nat × Place)) : Nat :=
  ps.foldl (fun a p => a + leNat (fun i => s.placeByte p.2.2 i) p.2.1 * 256 ^ p.1) 0

/-- The place of a byte among checked pieces. -/
def placeOf (ps : List (Nat × Nat × Place)) (off : Nat) : Option (Nat × Place) :=
  (ps.find? fun p => p.1 ≤ off && off < p.1 + p.2.1).map fun p => (off - p.1, p.2.2)

/-- What a multicast copy has written and skipped. -/
structure CopyDone where
  s    : State
  done : Nat := 0
  skip : Nat := 0

/-- A store of a CPYMC to a page of another module, whose ingress port writes its destinations (R358; log 18). -/
def copyRemote (x : CopyDone) (p : PStore) (m dom : Nat) : CopyDone :=
  let pl : Place := .remote m p.addr dom 0
  let ds := remoteDests (remotePage x.s m p.addr)
  ((List.range ds.length).zip ds).foldl (fun x d =>
    if d.2 then { x with done := x.done ||| 2 ^ d.1 } else { x with skip := x.skip ||| 2 ^ d.1 })
    { x with s := sendCast x.s pl p none }

/-- One store of a copy. In a CPYMC it goes to every permitted destination frame of its page (R148, R212). -/
def copyStore (multi : Bool) (x : CopyDone) (p : PStore) : CopyDone :=
  let leaf := match p.space with
    | .device asid => (match xlate x.s asid p.addr with
      | .leaf e _ _ => e
      | _ => 0)
    | _ => 0
  match p.space, multi with
  | .window m dom, true => copyRemote x p m dom
  | _, _ =>
  if multi && bitOf leaf 8 then
    let ds := (destinations x.s leaf).getD []
    ((List.range ds.length).zip ds).foldl (fun x d =>
      if d.2.2 then
        let asid := match p.space with
          | .device asid => asid
          | _ => 0
        { x with
          s := putFrame x.s p asid (d.2.1 + p.addr % 4096)
          done := x.done ||| 2 ^ d.1 }
      else { x with skip := x.skip ||| 2 ^ d.1 }) x
  else { x with s := performStore x.s p, done := if multi then x.done ||| 1 else x.done }

/-- The values of a copy's pieces in the order given, with their flags. A piece of spans that overlap reads its source as it
was, or as overwritten so far (R212, log 15). -/
def pieceValues (tick : Nat) (overlap : Bool) (src dst : Nat) (orig old : Nat → Byte) :
    List Piece → Tab Byte → List (Piece × Nat × Nat)
  | [], _ => []
  | p :: ps, outs =>
    let after (i : Nat) : Byte := if outs.has (src + i) then outs.get 0 (src + i) else orig i
    let v := p.f (if overlap && Config.readAfter tick ((dst + p.off) / 8) then after else orig) old
    let outs' := if overlap then (List.range p.size).foldl (fun o i => Tab.set o (dst + p.off + i) (byteOf v.1 i)) outs
      else outs
    (p, v) :: pieceValues tick overlap src dst orig old ps outs'

/-- A unit's operation meets an absent page and waits, with an event that carries its agent handle (R335). -/
def unitPageEvent (s : State) (l : Loc) (handle launch : Word) (rcb va : Nat) : State :=
  pageEvent s l handle 0 launch rcb va

/-- The log entry of a copy's or Lichen operation's status (R213, R257, R334). -/
def statusEntry (s : State) (cause rcb : Nat) (handle val launch : Word) (crew : BitVec 32) : State :=
  logEntry s rcb { cause, kind := 4, rid := ridOf s rcb, handle, val, crew, launch }

/-- The token of a copy is filled, and its command leaves the queue. -/
def endCopy (s : State) (k n : Nat) (q : CopyCmd) (status : Nat) : State :=
  let cl := s.cluster k
  let s1 := s.setCluster k { cl with copies := cl.copies.eraseIdx n }
  settle (fillToken s1 q.handle q.reg (BitVec.ofNat 64 status) q.launch q.rcb q.crewId) (coreOf k 0)

/-- The pieces and places of a copy whose pages are all present, or what stands against it. -/
def copyPlaces (s : State) (k : Nat) (q : CopyCmd) :
    Except (Stop × Nat) (List (Nat × Nat × Place) × List (Nat × Nat × Place)) :=
  let n := q.spans (s.cluster k)
  match unitSpan s k q.asid q.src q.srcAddr { r := true } (spanPieces q.src q.srcAddr n.1 false) with
  | .error e => .error e
  | .ok ss =>
    match unitSpan s k q.asid q.dst q.dstAddr { r := q.op == 3, w := true } (spanPieces q.dst q.dstAddr n.2 false) with
    | .error e => .error e
    | .ok ds => .ok (ss, ds)

/-- The stores of a copy to places that can be read and written, with their flags. -/
def copyStores (s : State) (k : Nat) (q : CopyCmd) (ss ds : List (Nat × Nat × Place)) : List PStore × Nat :=
  let srcN := placesNat s ss
  let dstN := placesNat s ds
  let n := q.spans (s.cluster k)
  let overlap := q.src.space == q.dst.space && q.srcAddr < q.dstAddr + n.2 && q.dstAddr < q.srcAddr + n.1
  let ps := (q.pieces (s.cluster k)).filter fun p =>
    (p.needs.all fun i => (placeOf ss i).isSome) && p.dneeds.all fun i => (placeOf ds i).isSome
  let vs := pieceValues s.tick overlap q.srcAddr q.dstAddr (byteOf srcN) (byteOf dstN)
    (if q.dstAddr < q.srcAddr then ps.reverse else ps) []
  let ordered := if q.dstAddr < q.srcAddr then vs.reverse else vs
  let t : Thread := { asid := q.asid, rcb := q.rcb, crewId := q.crewId, launch := q.launch }
  let stores := ordered.filterMap fun x =>
    (placeOf ds x.1.off).map fun p =>
      { storeAt q.loc t (p.2.from p.1) x.1.size (BitVec.ofNat 1024 (x.2.1 % 256 ^ x.1.size)) false with handle := some q.handle }
  (stores, vs.foldl (fun f x => f ||| x.2.2) 0)

/-- The stores of a copy are performed, granule by granule; a line that they cover loses its poison (R44, R88). -/
def copyPerform (s : State) (q : CopyCmd) (stores : List PStore) : CopyDone :=
  (widePieces (s.tick * 256) stores).foldl (copyStore (q.op == 2)) { s }

/-- The lines that a unit's access reaches. -/
def reachAll (s : State) (ps : List (Nat × Nat × Place)) : State := ps.foldl (fun s p => s.reachAt p.2.2) s

/-- What a unit's operation does that reads a module to which no route is left: it notes since when and stays; after 10 ms the
failure ends it (R405). -/
def routeWait (s : State) (since : Option Nat) (stay : Nat → State) (fail : State) : State :=
  match since with
  | none => stay s.now
  | some t => if s.now < t + 10000000 then s else fail

/-- A copy that a failure stops: the granules that `Config.written` chooses are written, the region's log has the cause and the
address, the token the cause (R213). The manual sets the flags of conversions when a copy completes; one that is stopped sets
none. DESIGN CHOICE, log 15. -/
def stopCopy (s : State) (k n : Nat) (q : CopyCmd) (e : Stop) (a : Nat) : State :=
  let cause := (e.fault?.map fun f => f.1).getD 0x0D
  let kept (c : Cap) (addr m : Nat) (need : Need) : List (Nat × Nat × Place) :=
    (spanPieces c addr m false).filterMap fun p =>
      match unitPlace s k q.asid c (addr + p.1) need with
      | .ok pl => some (p.1, p.2, pl)
      | .error _ => none
  let m := q.spans (s.cluster k)
  let st := copyStores s k q (kept q.src q.srcAddr m.1 { r := true })
    (kept q.dst q.dstAddr m.2 { r := q.op == 3, w := true })
  let some' := st.1.filter fun p => Config.written s.tick (p.addr / 8)
  let x := copyPerform (s.reachStop e) q some'
  let s1 := statusEntry x.s cause q.rcb q.handle (BitVec.ofNat 64 a) q.launch q.crewId
  endCopy s1 k n q (cause + x.skip * 2 ^ 8 + x.done * 2 ^ 16)

/-- A copy runs to its end, or waits for a page or a route. The manual does not say what the log entry of status 0x14 has in
`VAL` for a copy (R213, R334): the model has the destination's start address there. DESIGN CHOICE, log 81. -/
def runCopy (s : State) (k n : Nat) (q : CopyCmd) : State :=
  let stay (q : CopyCmd) : State :=
    let cl := s.cluster k
    s.setCluster k { cl with copies := cl.copies.set n q }
  match copyPlaces s k q with
  | .ok (ss, ds) =>
    let st := copyStores s k q ss ds
    let x := copyPerform (reachAll (reachAll s ss) ds) q st.1
    let status := if x.skip = 0 then 0 else 0x14
    let s1 := if x.skip = 0 then x.s
      else statusEntry x.s 0x14 q.rcb q.handle (BitVec.ofNat 64 q.dstAddr) q.launch q.crewId
    endCopy (noteFlags s1 q.handle q.launch (BitVec.ofNat 64 (st.2 % 32))) k n q (status + x.skip * 2 ^ 8 + x.done * 2 ^ 16)
  | .error (.page asid va, _) =>
    let id := 4096 + k
    unitPageEvent ((stay { q with wait := some (asid, va), route := none }).walked asid va) { core := id } (s.handleOf { core := id }) q.launch q.rcb va
  | .error (.wait (.page asid va), _) => stay { q with wait := some (asid, va), route := none }
  | .error (.wait w, a) =>
    routeWait s q.route (fun t => stay { q with route := some t }) (stopCopy s k n q (.wait w) a)
  | .error (e, a) => stopCopy s k n q e a

/-- COPY_COMPLETION (R212, R213): a command of a cluster's queue that waits for no page is performed, its flags are set and
its token is filled. A stopped copy hart performs none (R216). -/
def execCopyCompletion (s : State) : Host.Outcome State Fault Refusal :=
  let k := s.cue.a
  match (s.cluster k).copies[s.cue.b]? with
  | none => outside s
  | some q =>
    if q.wait.isSome || (s.core (4096 + k)).hart.stopped then outside s
    else outside (runCopy s k s.cue.b q)

end Sys2Proof.Machine
end

