-- ==== Sys2Proof/Machine/Csr.lean ====
section
/-!
DEFINITION. Major 0x1D: the CSRs, which numbers an agent has, what each reads as and what a write to it does (R34, R36,
R58, R60, R112–R114, R134, R135, R312, R315, R316).
-/

namespace Sys2Proof.Machine

/-- The kernel CSRs of each kind of agent (R113, R312). -/
def kernelCsr (id n : Nat) : Bool :=
  let every := n == 0x000 || n == 0x001 || n == 0x100 || n == 0x101 || n == 0x102
  if isCompute id then
    every || (2 ≤ n && n ≤ 4) || n == 8 || (0x10 ≤ n && n ≤ 0x17) || (0x20 ≤ n && n ≤ 0x34) || (0x40 ≤ n && n ≤ 0x60)
  else if isEngineHart id then every || n == 8 || (0x30 ≤ n && n ≤ 0x34) || n == 0x60
  else if isCopyHart id then every || n == 0x60
  else every

/-- The supervisor and monitor CSRs, which only service pairs have (R315, R316). -/
def systemCsr (n : Nat) : Bool :=
  (0x800 ≤ n && n ≤ 0x808) || (0xC00 ≤ n && n ≤ 0xC02) || (0xC10 ≤ n && n ≤ 0xC14)

/-- `COREID` (R113, R312). -/
def coreId (id : Nat) : Word :=
  BitVec.ofNat 64 (dieOf id * 2 ^ 16 +
    (if isCompute id then id / 4 % 32 * 2 ^ 8 + id % 4
     else if isCopyHart id then 1 * 2 ^ 13 + (id - 4096) % 32 * 2 ^ 8
     else if isEngineHart id then 2 * 2 ^ 13 + (id - 8192) % 8
     else 4 * 2 ^ 13))

/-- `SSTATUS` (R315). -/
def statusWord (s : State) (t : Thread) : Word :=
  BitVec.ofNat 64 (t.priv % 4 + t.ppriv % 4 * 4 + (if t.intrap then 16 else 0) + (if t.inmon then 32 else 0)
    + (if dieOf s.cur.core = s.leader then 64 else 0))

/-- `KEYCTL` (R316). -/
def keyctl (s : State) : Word :=
  BitVec.ofNat 64 ((List.range 64).foldl (fun a n => a + (if (s.key n).active then 2 ^ n else 0)) 0)

/-- `PWRCTL` of a die (R316). -/
def pwrctl (d : Die) : Word := d.gate.setWidth 64 + BitVec.ofNat 64 (d.dstate * 2 ^ 32)

/-- What a present CSR of an agent and a thread of it reads as (R113, R315, R316), to a visitor or not, to which the cluster's own
CSRs read as R17 gives. -/
def csrFor (s : State) (t : Thread) (out : Bool) (n : Nat) : Word :=
  let id := s.cur.core
  let core := s.core id
  let cl := s.cluster (clusterOf id)
  if n = 0x000 then BitVec.ofNat 64 s.cur.slot
  else if n = 0x001 then coreId id
  else if n = 0x002 then t.crewId.setWidth 64
  else if n = 0x003 then t.crewCnt.setWidth 64
  else if n = 0x004 then t.launch
  else if n = 0x008 then BitVec.ofNat 64 t.vallot
  else if 0x010 ≤ n && n ≤ 0x017 then (if out then 0 else core.shape (n - 0x10))
  else if 0x020 ≤ n && n ≤ 0x02F then (if out then fmtReset (n - 0x20) else cl.format (n - 0x20))
  else if n = 0x030 then t.vnf
  else if n = 0x031 then t.frm
  else if n = 0x032 then t.fflags
  else if n = 0x033 then t.srkey
  else if n = 0x034 then t.srctr
  else if 0x040 ≤ n && n ≤ 0x04F then (if out then 0 else cl.bankFormat (n - 0x40))
  else if 0x050 ≤ n && n ≤ 0x05F then (if out then 0 else BitVec.ofNat 64 (cl.mode (n - 0x50)))
  else if n = 0x060 then BitVec.ofNat 64 t.mmrev
  else if n = 0x100 then BitVec.ofNat 64 core.cycle
  else if n = 0x101 then t.instret
  else if n = 0x102 then BitVec.ofNat 64 s.ptp
  else if n = 0x800 then statusWord s t
  else if n = 0x801 then t.scause
  else if n = 0x802 then t.sepc
  else if n = 0x803 then t.sval
  else if n = 0x804 then s.sroot
  else if n = 0x805 then t.srcb
  else if n = 0x806 then core.svec
  else if n = 0x807 then t.sscratch
  else if n = 0x808 then s.svocab
  else if n = 0xC00 then keyctl s
  else if n = 0xC01 then BitVec.ofNat 64 s.dbgctl
  else if n = 0xC02 then pwrctl (s.die (dieOf id))
  else if n = 0xC10 then t.mepc
  else if n = 0xC11 then t.mcause
  else if n = 0xC12 then t.mval
  else if n = 0xC13 then core.mvec
  else if n = 0xC14 then t.mscratch
  else 0

/-- What a present CSR reads as to the issuing thread. -/
def csrRead (s : State) (t : Thread) (n : Nat) : Word := csrFor s t (isVisitor s s.cur t) n

/-- A descriptor that `FMTn` takes (R60). -/
def formatOk (v : Word) : Bool :=
  let w := bitsOf v 0 0 + bitsOf v 3 1 + bitsOf v 6 4
  w != 0 && w ≤ 8 && bitsOf v 63 20 == 0 && !(bitsOf v 3 1 == 0 && bitOf v 15)

/-- A shape that `TSHAPEn` takes (R114). -/
def shapeOk (v : Word) : Bool :=
  let rows := bitsOf v 7 0
  let bytes := bitsOf v 15 8
  1 ≤ rows && rows ≤ 128 && 1 ≤ bytes && bytes ≤ 128 && bitsOf v 63 20 == 0

/-- `SSTATUS` as a write leaves it: PRIV, INMON and LEADER are ignored, PPRIV below monitor privilege (R315). -/
def statusWrite (t : Thread) (v : Word) : Thread :=
  { t with
    ppriv := if t.priv = 2 then bitsOf v 3 2 else t.ppriv
    intrap := bitOf v 4 }

/-- The value that a write to `PWRCTL` asks for: gate bits of clusters that hold a crew and a DSTATE of 1 are ignored
(R316). -/
def powerValue (s : State) (d : Nat) (v : Word) : Word :=
  let old := s.die d
  let gate : BitVec 32 := BitVec.ofNat 32 ((List.range 32).foldl (fun a k =>
    let b := if (s.cluster (d * 32 + k)).crew.isSome then old.gate.getLsbD k else bitOf v k
    a + (if b then 2 ^ k else 0)) 0)
  let st := bitsOf v 33 32
  pwrctl { old with gate, dstate := if st = 1 then old.dstate else st }

/-- A write of a value to a present CSR, by a visitor or not, which changes the state or is ignored (R17, R112, R114, R315, R316).
The writer of `BMODEk`, `DBGCTL` or `PWRCTL` waits where the write takes effect at a later step (R36, R400, R413). -/
def csrPut (s : State) (t : Thread) (out : Bool) (n : Nat) (v : Word) : Except Stop (State × Bool) :=
  let id := s.cur.core
  let core := s.core id
  let k := clusterOf id
  let cl := s.cluster k
  let mine (f : Thread) : Except Stop (State × Bool) := .ok (s.setMe f, false)
  let same : Except Stop (State × Bool) := .ok (s, false)
  if 0x010 ≤ n && n ≤ 0x017 then
    if out || !shapeOk v then same
    else .ok (s.setCore id { core with tshape := core.tshape.set (n - 0x10) v }, false)
  else if 0x020 ≤ n && n ≤ 0x02F then
    if out || !formatOk v then same else .ok (s.setCluster k { cl with fmt := cl.fmt.set (n - 0x20) v }, false)
  else if n = 0x030 then (if bitsOf v 63 4 != 0 then same else mine { t with vnf := v })
  else if n = 0x031 then (if 6 ≤ v.toNat then same else mine { t with frm := v })
  else if n = 0x032 then (if bitsOf v 63 5 != 0 then same else mine { t with fflags := v })
  else if n = 0x033 then mine { t with srkey := v }
  else if n = 0x034 then mine { t with srctr := v }
  else if 0x040 ≤ n && n ≤ 0x04F then
    if out || bitsOf v 63 5 != 0 then same
    else .ok (s.setCluster k { cl with bfmt := cl.bfmt.set (n - 0x40) v }, false)
  else if 0x050 ≤ n && n ≤ 0x05F then
    if out || 3 ≤ v.toNat || cl.mode (n - 0x50) = v.toNat then same
    else if cl.switch.isSome then .error .stall
    else .ok (s.setCluster k { cl with switch := some { index := n - 0x50, mode := v.toNat, loc := s.cur } }, true)
  else if n = 0x800 then (if bitsOf v 63 7 != 0 then same else mine (statusWrite t v))
  else if n = 0x801 then (if bitsOf v 63 8 != 0 then same else mine { t with scause := v })
  else if n = 0x802 then mine { t with sepc := v }
  else if n = 0x803 then mine { t with sval := v }
  else if n = 0x804 then .ok ({ s with sroot := v &&& ~~~0xFF }, false)
  else if n = 0x805 then mine { t with srcb := v }
  else if n = 0x806 then .ok (s.setCore id { core with svec := v &&& ~~~0x7F }, false)
  else if n = 0x807 then mine { t with sscratch := v }
  else if n = 0x808 then .ok ({ s with svocab := v &&& ~~~0x7FF }, false)
  else if n = 0xC01 then
    if 3 ≤ v.toNat || s.dbgctl = v.toNat then same
    else if s.dbgReq.isSome then .error .stall
    else .ok ({ s with dbgReq := some (v.toNat, s.cur) }, true)
  else if n = 0xC02 then
    let d := dieOf id
    let w := powerValue s d v
    if bitsOf v 63 34 != 0 || w = pwrctl (s.die d) then same
    else if (s.die d).power.isSome then .error .stall
    else .ok (s.setDie d { s.die d with power := some (w, s.cur) }, true)
  else if n = 0xC10 then mine { t with mepc := v }
  else if n = 0xC11 then (if bitsOf v 63 17 != 0 then same else mine { t with mcause := v })
  else if n = 0xC12 then mine { t with mval := v }
  else if n = 0xC13 then .ok (s.setCore id { core with mvec := v }, false)
  else if n = 0xC14 then mine { t with mscratch := v }
  else same

/-- The issuing thread's write of a value to a present CSR. -/
def csrWrite (s : State) (t : Thread) (n : Nat) (v : Word) : Except Stop (State × Bool) := csrPut s t (isVisitor s s.cur t) n v

/-- The checks of a CSR number: its range's privilege, then its presence (R112, R312). -/
def csrCheck (s : State) (t : Thread) (n : Nat) : Option Nat :=
  let level := if n < 0x800 then 0 else if n < 0xC00 then 1 else 2
  if t.priv < level then some 0x11
  else if n < 0x800 && kernelCsr s.cur.core n then none
  else if isPair s.cur.core && systemCsr n then none
  else some 0x02

/-- A CSR member: `new` gives the value to write, or none where nothing is written (R134). The old value goes to the
destination; a writer that waits completes with the step that performs its write (R135). -/
def csrMember (i : Instr) (d : BitVec 5) (r : BitVec 12) (s : State) (new : Thread → Word → Option Word) :
    Host.Outcome State Fault Refusal :=
  issue i s fun t s =>
    let n := r.toNat
    match csrCheck s t n with
    | some cause => .error (.cause cause ((encodeWord i).setWidth 64))
    | none =>
      let old := csrRead s t n
      match new t old with
      | none => write1 s d old
      | some v =>
        match csrWrite s t n v with
        | .error e => .error e
        | .ok (s, false) => write1 s d old
        | .ok (s, true) => .ok (waitFor (s.wr d.toNat old) .csr, .stay)

/-- CSRR (R134). -/
def execCsrr (d : BitVec 5) (r : BitVec 12) (s : State) : Host.Outcome State Fault Refusal :=
  csrMember (.csrr d r) d r s fun _ _ => none

/-- CSRW (R134). -/
def execCsrw (d a : BitVec 5) (r : BitVec 12) (s : State) : Host.Outcome State Fault Refusal :=
  csrMember (.csrw d a r) d r s fun t _ => some (t.s a.toNat)

/-- CSRS (R134): writes nothing when the operand is 0. -/
def execCsrs (d a : BitVec 5) (r : BitVec 12) (s : State) : Host.Outcome State Fault Refusal :=
  csrMember (.csrs d a r) d r s fun t old => if t.s a.toNat = 0 then none else some (old ||| t.s a.toNat)

/-- CSRC (R134): writes nothing when the operand is 0. -/
def execCsrc (d a : BitVec 5) (r : BitVec 12) (s : State) : Host.Outcome State Fault Refusal :=
  csrMember (.csrc d a r) d r s fun t old => if t.s a.toNat = 0 then none else some (old &&& ~~~t.s a.toNat)

end Sys2Proof.Machine
end

