-- ==== Sys2Proof/Machine/Fabric.lean ====
section
/-!
DEFINITION. The links of the module, its clock, and its leadership: fabric ports, routes, CXL sessions, PTP, heartbeats and
takeover (R113, R321, R392, R405, R407, R408).
-/

namespace Sys2Proof.Machine

/-! ### Fabric ports (R392, R405) -/

/-- A fabric port. -/
def State.port (s : State) (p : Nat) : Port := s.ports.get {} p

/-- The state with a fabric port changed. -/
def State.setPort (s : State) (p : Nat) (x : Port) : State := { s with ports := s.ports.set p x }

/-- An event at a fabric port that is in service. -/
def onPort (s : State) (f : Nat → Port → State) : Host.Outcome State Fault Refusal :=
  let p := s.cue.a
  if !linksUp s || 72 ≤ p || (s.port p).down then outside s else outside (f p (s.port p))

/-- Eight packets in a row have failed in a direction: the port carries no more traffic, whatever comes after them. -/
def Port.failed (x : Port) : Bool := 8 ≤ (x.link 0).fails || 8 ≤ (x.link 1).fails

/-- The state with one direction of a port changed. -/
def State.setLink (s : State) (p d : Nat) (f : Link → Link) : State :=
  s.setPort p { s.port p with links := (s.port p).links.set (d % 2) (f ((s.port p).link d)) }

/-- A packet under the present key, with its nonce: one whose tag fails is discarded and tried again. Without a key there are no
packets. -/
def Link.packet (x : Link) (ok : Bool) : Link :=
  if x.key.isNone then x
  else if ok then { x with fails := 0, sent := x.sent + 1, nonce := x.nonce + 1 } else { x with fails := x.fails + 1 }

/-- A key exchange of a port's direction: its first key, or one of the other index, which takes over while the old one stands for
the packets under it that are on their way. The nonces start anew. -/
def Link.renew (p d : Nat) (x : Link) : Link :=
  let k := if x.key.isNone then x.keyIdx % 2 else 1 - x.keyIdx % 2
  { x with
    sent := x.sent - 2 ^ 32, nonce := 0, keyIdx := k, made := x.made + 1
    keys := x.keys.set k (some (Config.linkKey p d x.made)) }

/-- FABRIC_PACKET (R392): a packet in one direction of a port. -/
def execFabricPacket (s : State) : Host.Outcome State Fault Refusal :=
  onPort s fun p x => if x.failed then s else s.setLink p s.cue.b fun y => y.packet s.cue.flag

/-- A port is taken out of service: its bit in `PDOWN` or `PDOWNH`, and the modules that lose their last route with it (R402,
R405). -/
def portDown (s : State) (p : Nat) : State :=
  let s1 := s.setPort p { s.port p with down := true }
  let s2 := if p < 64 then s1.blockPut 0x8038 8 (s1.block 0x8038 8 ||| 2 ^ p)
    else s1.blockPut 0x8040 8 (s1.block 0x8040 8 ||| 2 ^ (p - 64))
  { s2 with unreach := s2.unreach ++ (s.cue.evict.filter fun m => !s2.unreach.contains m && m < 256) }

/-- PORT_OUT_OF_SERVICE (R392, R405): eight failures in a row. -/
def execPortOutOfService (s : State) : Host.Outcome State Fault Refusal :=
  onPort s fun p x => if x.failed then portDown s p else s

/-- LINK_LOSS (R405). -/
def execLinkLoss (s : State) : Host.Outcome State Fault Refusal := onPort s fun p _ => portDown s p

/-- The NREDs of a core whose packets a route has held back: they have left, and their tokens are filled with 0 (R247, R405). -/
def releaseNred (open' : Nat → Bool) (s : State) (id : Nat) : State :=
  (List.range 16).foldl (fun s n =>
    let c := s.core id
    let b := c.bar n
    if b.rank = 0 || !open' (entryModule b.root) || b.unfilled.isEmpty then s
    else
      let w := packetOwner s id
      b.unfilled.foldl (fun s u => fillToken s u.2.2.1 u.2.2.2 0 w.1 w.2.1 w.2.2)
        (s.setCore id { c with bars := c.bars.set n { b with unfilled := [] } })) s

/-- The threads of an agent that wait for a route to a module try again. -/
def endRoute (open' : Nat → Bool) (s : State) (id : Nat) : State :=
  (List.range 16).foldl (fun s n =>
    s.onThread { core := id, slot := n } fun t =>
      match t.wait with
      | some (.route x _ _ _) => if open' x then { t with wait := none, readyFrom := none } else t
      | _ => t) s

/-- The module that a packet is for. -/
def Packet.target : Packet → Nat
  | .store m _ _ _ _ => m
  | .rmw m _ _ _ _ _ _ => m
  | .cast m _ _ _ _ _ => m
  | .barrier e _ _ _ => entryModule e
  | .nred e _ _ _ _ => entryModule e

/-- The packets that a route was wanting for leave, in their order. -/
def releasePackets (open' : Nat → Bool) (s : State) : State :=
  { s with
    outbox := s.outbox ++ s.routeless.filter fun p => open' p.target
    routeless := s.routeless.filter fun p => !open' p.target }

/-- A route has returned, or traffic has begun: what has waited for a module that is in reach now goes on (R247, R405). -/
def openRoutes (s : State) : State :=
  let open' (m : Nat) : Bool := !s.noRoute m
  let ids := s.cores.map fun e => e.1
  ids.foldl (releaseNred open') (ids.foldl (endRoute open') (releasePackets open' s))

/-- KEY_RENEWAL (R392): an exchange that both ends sign with their identity keys, for a direction's first key and after 2^32
packets. With the first port that has both its keys the fabric carries traffic. -/
def execKeyRenewal (s : State) : Host.Outcome State Fault Refusal :=
  onPort s fun p x =>
    let y := x.link s.cue.b
    if s.identity.isNone || (y.key.isSome && y.sent < 2 ^ 32) then s
    else
      let s1 := s.setLink p s.cue.b (Link.renew p (s.cue.b % 2))
      if fabricUp s then s1 else openRoutes s1

/-- ROUTE_RETURNS (R405). -/
def execRouteReturns (s : State) : Host.Outcome State Fault Refusal :=
  let m := s.cue.a
  if !s.unreach.contains m then outside s else outside (openRoutes { s with unreach := s.unreach.filter (· != m) })

/-- SPDM_MESSAGE (R392): the session of a CXL port, which may establish its protected stream. -/
def execSpdmMessage (s : State) : Host.Outcome State Fault Refusal :=
  let p := s.cue.a
  if !linksUp s || 8 ≤ p then outside s
  else
    let x := s.cxls.get {} p
    outside (if x.ide || !s.cue.flag then s else { s with cxls := s.cxls.set p { x with key := some (Config.ideKey p s.tick) } })

/-- Bring-up stands at step 4 with both bundle banks refused: the management port accepts a bundle upload alone (R409). -/
def bundlesRefused (s : State) : Bool := s.powered && s.bringup == 4

/-- PTP_DISCIPLINE (R113, R409): the module's time as the messages set it, which come through the management port. -/
def execPtpDiscipline (s : State) : Host.Outcome State Fault Refusal :=
  outside (if bundlesRefused s then s else { s with ptp := s.cue.a })

/-! ### Leadership (R407, R408) -/

/-- A pair that runs. -/
def pairRuns (s : State) (d : Nat) : Bool :=
  d < 12 && s.powered && (s.core (pairOf d)).started && !(s.core (pairOf d)).stopped

/-- The dies whose pair is in service. -/
def online (s : State) (d : Nat) : Bool := (s.block 0x8012 2).testBit d

/-- Dies in service below a die, the leader's apart. -/
def onlineBelow (s : State) (d : Nat) : Nat := ((List.range d).filter fun e => online s e && e != s.leader).length

/-- The beat of a leader that has set an epoch: while `EPOCH` holds it, `HBTIME`, by a release at device scope; else it stops
leading. -/
def beat (s : State) (d : Nat) (e : BitVec 32) : State :=
  let c := s.core (pairOf d)
  if s.block 0x8008 4 = e.toNat then (drain s (pathOf (pairOf d))).blockPut 0x8000 8 (s.ptp % 2 ^ 64)
  else s.setCore (pairOf d) { c with epoch := none }

/-- What a watching pair reads at its tick, and whether it finds that a takeover is due (R407, R408). -/
def watch (s : State) (d : Nat) : State :=
  let c := s.core (pairOf d)
  let time := s.block 0x8000 8
  s.setCore (pairOf d)
    { c with
      seenTime := time, seenEpoch := BitVec.ofNat 32 (s.block 0x8008 4)
      overdue := d != s.leader && time + (5 + onlineBelow s d) * 1000000 ≤ s.ptp }

/-- A pair's tick: the beat of one that leads, the watching of any other in service. -/
def tickPair (s : State) (d : Nat) : State :=
  match (s.core (pairOf d)).epoch with
  | some e => beat s d e
  | none => if online s d then watch s d else s

/-- HEARTBEAT_TICK (R321, R407): a millisecond of PTP time has begun at a pair. -/
def execHeartbeatTick (s : State) : Host.Outcome State Fault Refusal :=
  let d := s.cue.a
  let c := s.core (pairOf d)
  if !pairRuns s d || s.ptp / 1000000 ≤ c.tick then outside s
  else outside (endWfi (tickPair (s.setCore (pairOf d) { c with tick := s.ptp / 1000000 }) d) (pairOf d))

/-- The cores of the clusters that hold a crew. -/
def runningCores (s : State) : List Nat :=
  ((List.range 384).filter fun k => (s.cluster k).crew.isSome).flatMap fun k => (List.range 4).map (coreOf k)

/-- The new leader announces itself, by a release at system scope. -/
def announce (s : State) (d epoch : Nat) : State :=
  (drain s (pathOf (pairOf d))).blockPut 0x8048 8 (epoch % 2 ^ 32 + d * 2 ^ 32)

/-- Steps 2 and 3 of a takeover, once the compare and swap has put a new epoch: the leader, the fence. -/
def takeLead (s : State) (d e : Nat) : State :=
  let old := s.leader
  let s1 := (s.blockPut 0x8008 4 e).blockPut 0x800C 1 d
  let s2 := s1.blockPut 0x8012 2 (if online s1 old then s1.block 0x8012 2 - 2 ^ old else s1.block 0x8012 2)
  let s3 := s2.setCore (pairOf d) { s2.core (pairOf d) with epoch := some (BitVec.ofNat 32 e) }
  { setHalted s3 (runningCores s3) true with fenced := true }

/-- A takeover begins: `cas.w.dev.ar` on `EPOCH`, from the value that the pair last read. Where it fails, the pair abandons it. -/
def beginTakeover (s0 : State) (d : Nat) : State :=
  let s1 := drain s0 (pathOf (pairOf d))
  let c := s1.core (pairOf d)
  let s := s1.setCore (pairOf d) { c with overdue := false }
  if s.block 0x8008 4 = c.seenEpoch.toNat then takeLead s d ((c.seenEpoch.toNat + 1) % 2 ^ 32) else s

/-- Step 4: the journal, `JLEN` bytes at `JOURNAL`, is replayed: the manual does not give its layout, and what its replay writes is a
free value (log 55). -/
def replayJournal (s : State) : State :=
  let a := s.block 0x8018 8
  let n := s.block 0x8020 4
  let bytes := (List.range n).map fun i => BitVec.ofNat 8 (s.phys (a + i) 1)
  (Config.journalWrites s.tick bytes).foldl (fun s w => s.rootPut w.1 1 w.2.toNat) (s.reachRange 0 a n)

/-- Steps 5 to 7: the table, the halted clusters, the announcement. -/
def endFence (s : State) (d : Nat) : State :=
  let s1 := s.blockPut 0x1000 8 (Config.tableBase s.tick % 2 ^ 64)
  let s2 := { setHalted s1 (runningCores s1) false with fenced := false }
  announce s2 d (s2.block 0x8008 4)

/-- TAKEOVER (R408): a pair of `ONLINE` whose tick has found the leader's beats missing takes the lead and fences the regions; once
everything issued has completed, it replays the journal and lets them run again. While one pair fences, another may take over
from it as from any leader. -/
def execTakeover (s : State) : Host.Outcome State Fault Refusal :=
  let d := s.cue.a
  if !pairRuns s d then outside s
  else if s.fenced && s.leader = d then outside (if (runningCores s).all (quiet s) then endFence (replayJournal s) d else s)
  else if online s d && (s.core (pairOf d)).overdue then outside (beginTakeover s d)
  else outside s

end Sys2Proof.Machine
end

