-- ==== Sys2Proof/Machine/Seq.lean ====
section
/-!
DEFINITION. Sequences: the state block and its checks, vocabularies, token operations, and majors 0x33 (SEQ), 0x34 (RNG) and
0x37 (TXT) (R219–R245).
-/

namespace Sys2Proof.Machine

/-! ### The block (R219–R222) -/

/-- A field of a block, of so many bytes at an offset. -/
def getF (b off n : Nat) : Nat := b / 256 ^ off % 256 ^ n

/-- A field as a signed number. -/
def getS (b off n : Nat) : Int := sgn (8 * n) (getF b off n)

/-- A block with a field written. -/
def putF (b off n v : Nat) : Nat := b - getF b off n * 256 ^ off + v % 256 ^ n * 256 ^ off

/-- A block with bytes of another written at an offset. -/
def copyF (b off n src from' : Nat) : Nat := putF b off n (getF src from' n)

/-- Capability index none. -/
def noIndex : Nat := 0xFF

/-- No range of ids. -/
def noId : Nat := 0xFFFFFFFF

/-- The checked lines of a block: `cap_check`, SPACE, alignment, pages, in this order (R219). -/
def blockPlaces (s : State) (t : Thread) (c : Cap) : Except Stop (List (Nat × Nat × Place)) :=
  let val := BitVec.ofNat 64 c.base
  match capCheck c c.base 4096 (permR ||| permW) with
  | some cause => .error (.cause cause val)
  | none =>
    if c.space != 0 then .error (.cause 0x06 val)
    else if c.base % 256 != 0 then .error (.cause 0x07 val)
    else piecePlaces s s.cur t c c.base (permR ||| permW) { r := true, w := true } (spanPieces c c.base 4096 false)

/-- The granules of a block that a member has changed, performed as stores. -/
def writeBlock (s : State) (t : Thread) (ps : List (Nat × Nat × Place)) (old new : Nat) : State :=
  (List.range 512).foldl (fun s i =>
    if getF old (8 * i) 8 = getF new (8 * i) 8 then s
    else match placeOf ps (8 * i) with
      | some (n, pl) => performStore s (storeAt s.cur t (pl.from n) 8 (BitVec.ofNat 1024 (getF new (8 * i) 8)) false)
      | none => s) s

def posF (b : Nat) : Nat := getF b 0x10 4
def drawF (b : Nat) : Nat := getF b 0x14 4
def seedF (b : Nat) : Word := BitVec.ofNat 64 (getF b 0x08 8)
def seqidF (b : Nat) : BitVec 32 := BitVec.ofNat 32 (getF b 0x00 4)
def flagF (b n : Nat) : Bool := (getF b 0x05 1).testBit n
def stateF (b : Nat) : Nat := getF b 0x18 1 % 8
def ovfF (b : Nat) : Bool := (getF b 0x19 1).testBit 0
def headF (b : Nat) : Nat := getF b 0x50 1 % 8
def countF (b : Nat) : Nat := getF b 0x51 1 % 16
def opF (b : Nat) : Nat := getF b 0x1C 4

/-- `STATE` changed. -/
def setStateF (b v : Nat) : Nat := putF b 0x18 1 (getF b 0x18 1 / 8 * 8 + v)

/-- A flag changed. -/
def setFlagF (b n : Nat) (v : Bool) : Nat :=
  putF b 0x05 1 (getF b 0x05 1 - (if flagF b n then 2 ^ n else 0) + (if v then 2 ^ n else 0))

/-- `OPPEND` and `OPND` cleared. -/
def clearOp (b : Nat) : Nat := putF b 0x1C 20 0

/-- Reserved bits of a block: offset, bytes, the bits that may be set (R220, R222). -/
def reservedF : List (Nat × Nat × Nat) :=
  [(0x04, 1, 0x0F), (0x05, 1, 0x07), (0x18, 4, 0xFF0107), (0x1C, 4, 0x1FFFFF), (0x26, 2, 0), (0x2C, 4, 0),
   (0x50, 1, 0x07), (0x51, 1, 0x0F), (0x52, 2, 0), (0x54, 12, 0), (0x64, 28, 0), (0x104, 4, 0x3FF), (0x108, 24, 0),
   (0x1CD, 19, 0), (0x1F8, 4, 0x07), (0x1FC, 4, 0), (0x509, 247, 0)]

/-- A block is malformed but for its vocabulary (R222). -/
def malformedF (b : Nat) : Bool :=
  4 < stateF b || 8 < countF b || (List.range 4).any (fun i => 32 < getF b (0x60 + i) 1)
    || getF b 0x502 2 = 0 || 4096 < getF b 0x502 2
    || (stateF b = 1 && opF b / 2 ^ 8 % 4 ≤ opF b / 2 ^ 6 % 4)
    || reservedF.any fun r => getF b r.1 r.2.1 &&& r.2.2 != getF b r.1 r.2.1

/-! ### Vocabularies (R224, R225) -/

/-- A descriptor. -/
structure Vocab where
  raw : Nat := 0
  deriving DecidableEq, Repr

namespace Vocab

def ntok (v : Vocab) : Nat := getF v.raw 0x00 4
def fpol (v : Vocab) : Nat := getF v.raw 0x04 4 / 2 % 4
def bytesva (v : Vocab) : Nat := getF v.raw 0x08 8
def poolva (v : Vocab) : Nat := getF v.raw 0x10 8
def mergeva (v : Vocab) : Nat := getF v.raw 0x18 8
def nmerge (v : Vocab) : Nat := getF v.raw 0x20 4
def byte0 (v : Vocab) : Nat := getF v.raw 0x24 4
def digit0 (v : Vocab) : Nat := getF v.raw 0x30 4
def minus (v : Vocab) : Nat := getF v.raw 0x34 4
def term (v : Vocab) : Nat := getF v.raw 0x38 4
def regbase (v : Vocab) : Nat := getF v.raw 0x3C 4
def opbase (v : Vocab) : Nat := getF v.raw 0x40 4
def opcount (v : Vocab) : Nat := getF v.raw 0x44 4
def faulttok (v : Vocab) : Nat := getF v.raw 0x48 4
def endtok (v : Vocab) : Nat := getF v.raw 0x4C 4
def optabva (v : Vocab) : Nat := getF v.raw 0x50 8

/-- An id lies in the control range. -/
def control (v : Vocab) (id : Nat) : Bool := getF v.raw 0x28 4 ≤ id && id ≤ getF v.raw 0x2C 4

/-- A range of ids meets the control range. -/
def meetsControl (v : Vocab) (lo n : Nat) : Bool :=
  let a := max lo (getF v.raw 0x28 4)
  a < lo + n && a ≤ getF v.raw 0x2C 4

/-- The ranges of ids that a descriptor names, and whether each must lie outside the control range. -/
def named (v : Vocab) : List (Nat × Nat × Bool) :=
  (if v.byte0 = noId then [] else [(v.byte0, 256, true)]) ++
  (if v.regbase = noId then [] else [(v.regbase, 16, false)]) ++
  [(v.digit0, 10, true), (v.minus, 1, true), (v.term, 1, true), (v.opbase, v.opcount, false), (v.faulttok, 1, false),
   (v.endtok, 1, false)]

/-- A vocabulary is valid (R225). -/
def valid (v : Vocab) : Bool :=
  getF v.raw 0x04 4 % 2 = 1 && v.fpol != 3 && 1 ≤ v.ntok && v.ntok ≤ 2 ^ 20
    && v.named.all (fun r => r.2.1 = 0 || (r.1 + r.2.1 ≤ v.ntok && !(r.2.2 && v.meetsControl r.1 r.2.1)))
    && (v.opcount = 0 || (v.control v.opbase && v.control (v.opbase + v.opcount - 1)))
    && getF v.raw 0x58 40 = 0

end Vocab

/-- The address of the descriptor that a block names. -/
def vocabAt (s : State) (b : Nat) : Nat := s.svocab.toNat + 128 * (getF b 0x04 1 % 16)

/-- The descriptor that a block names. The manual gives the sequence unit's reads of descriptors and tables no check: the model makes
none of their page's permissions, of its domain and key, and of poison. DESIGN CHOICE, log 81. -/
def vocabOf (s : State) (b : Nat) : Vocab := { raw := s.root (vocabAt s b) 128 }

/-- Bytes of the root region's address space that may lie in several lines. -/
def rootBytes (s : State) (va n : Nat) : List Nat := (List.range n).map fun i => s.root (va + i) 1

/-- A number of the root region's address space that may lie in several lines, read without a check (log 81). -/
def rootNum (s : State) (va n : Nat) : Nat := leNat (fun i => BitVec.ofNat 8 (s.root (va + i) 1)) n

/-- The entry of an operation token (R231). -/
def opEntry (s : State) (v : Vocab) (id : Nat) : Option Nat :=
  if v.opbase ≤ id && id < v.opbase + v.opcount then some (rootNum s (v.optabva + 4 * (id - v.opbase)) 4) else none

/-- The bytes that the table gives a token. -/
def tokenBytes (s : State) (v : Vocab) (id : Nat) : List Nat :=
  let e := rootNum s (v.bytesva + 4 * id) 4
  rootBytes s (v.poolva + e % 2 ^ 24) (e / 2 ^ 24 % 64)

/-- The text bytes of a token (R225). -/
def textBytes (s : State) (v : Vocab) (id : Nat) : List Nat :=
  if v.control id then
    match opEntry s v id with
    | some e => if e.testBit 17 then [] else tokenBytes s v id
    | none => []
  else tokenBytes s v id

/-- The sequence unit has read the bytes that the table gives a token (R224, R353). -/
def reachToken (s : State) (v : Vocab) (id : Nat) : State :=
  let e := rootNum s (v.bytesva + 4 * id) 4
  (s.reachRange 0 (v.bytesva + 4 * id) 4).reachRange 0 (v.poolva + e % 2 ^ 24) (e / 2 ^ 24 % 64)

/-- It has read the text bytes of a token. -/
def reachText (s : State) (v : Vocab) (id : Nat) : State :=
  if v.control id then
    match opEntry s v id with
    | some e =>
      let s1 := s.reachRange 0 (v.optabva + 4 * (id - v.opbase)) 4
      if e.testBit 17 then s1 else reachToken s1 v id
    | none => s
  else reachToken s v id

/-! ### Opening a block -/

/-- A block that a member has opened: its places, its contents, its vocabulary. -/
structure Opened where
  places : List (Nat × Nat × Place)
  b      : Nat
  v      : Vocab
  deriving DecidableEq, Repr

/-- Which states a member refuses (R222). -/
structure Refuses where
  stopped : Bool := false
  faulted : Bool := false
  deriving DecidableEq, Repr

/-- Cause 0x0F with the instruction's word. -/
def seqFault (i : Instr) : Stop := .cause 0x0F ((encodeWord i).setWidth 64)

/-- The checks of R219, R222 and R225 on a member's block; those of R219 on a second block come before the others (R251). -/
def openBlock (s : State) (t : Thread) (i : Instr) (c : BitVec 4) (r : Refuses) (child : Option (BitVec 4) := none) :
    Except Stop Opened :=
  match blockPlaces s t (t.c c.toNat) with
  | .error e => .error e
  | .ok ps =>
    match child.bind fun e => failure (blockPlaces s t (t.c e.toNat)) with
    | some e => .error e
    | none =>
      let b := placesNat s ps
      let v := vocabOf s b
      if malformedF b || !v.valid || (r.stopped && stateF b = 3) || (r.faulted && stateF b = 4) then .error (seqFault i)
      else .ok { places := ps, b, v }

/-- A block and the descriptor that it names have been read. -/
def reachBlock (s : State) (ps : List (Nat × Nat × Place)) : State := (reachAll s ps).reach 0 (vocabAt s (placesNat s ps))

/-- A sequence member: the thread's earlier stores perform first (R223), then its block is opened. -/
def seqMember (i : Instr) (c : BitVec 4) (r : Refuses) (s : State)
    (body : Thread → State → Opened → Except Stop (State × Act)) (child : Option (BitVec 4) := none) :
    Host.Outcome State Fault Refusal :=
  issue i s fun t s =>
    let s := drain s s.myPath
    match openBlock s t i c r child with
    | .error e => .error e
    | .ok o => body t (reachBlock s o.places) o

/-- A member that writes a scalar, which it holds (R138). -/
def seqScalar (i : Instr) (d : BitVec 5) (c : BitVec 4) (r : Refuses) (s : State)
    (body : Thread → State → Opened → Except Stop (State × Word)) (child : Option (BitVec 4) := none) :
    Host.Outcome State Fault Refusal :=
  seqMember i c r s (child := child) fun t s o =>
    if noRoom t d then .error .stall
    else match body t s o with
      | .error e => .error e
      | .ok (s, v) => returns s d v

/-! ### Side tables (R219) -/

/-- Entry n of the capability table that `c15` designates, read as an access of the member: its page may be absent, refuse
the read or fail its integrity (R9, R219, R335). A root that does not reach the entry gives an untagged one. -/
def tableEntry (s : State) (t : Thread) (n : Nat) : Except Stop Cap :=
  let root := t.c 15
  let a := root.base + 16 * n
  if (capCheck root a 16 permR).isSome || root.space != 0 then .ok {}
  else match pageCheck s t.asid a root.dom { r := true } with
    | .error e => .error e
    | .ok _ => .ok (s.capAt t.asid a)

/-- Entries of that table have been read, of the indices that name one (R219, R353). -/
def reachEntries (s : State) (t : Thread) (ns : List Nat) : State :=
  let root := t.c 15
  ns.foldl (fun s n =>
    if n = noIndex || (capCheck root (root.base + 16 * n) 16 permR).isSome || root.space != 0 then s
    else s.reach t.asid (root.base + 16 * n)) s

/-- The capabilities of a table are read where some entry of the table is. -/
def usedIf {α : Type} (pls : List α) (ns : List Nat) : List Nat := if pls.isEmpty then [] else ns

/-- The checked place of an entry of a side table. -/
def sidePlace (s : State) (t : Thread) (idx off size : Nat) (perm : BitVec 8) (need : Need) : Except Stop Place :=
  match tableEntry s t idx with
  | .error e => .error e
  | .ok c => memCheck s s.cur t c (c.base + off : Nat) size size perm need

/-- The places of several entries. -/
def sidePlaces (s : State) (t : Thread) (idx size : Nat) (perm : BitVec 8) (need : Need) :
    List Nat → Except Stop (List Place)
  | [] => .ok []
  | off :: offs =>
    match sidePlace s t idx off size perm need with
    | .error e => .error e
    | .ok pl =>
      match sidePlaces s t idx size perm need offs with
      | .error e => .error e
      | .ok pls => .ok (pl :: pls)

/-- An entry's value. -/
def sideGet (s : State) (pl : Place) (size : Nat) : Nat := leNat (fun i => s.placeByte pl i) size

/-- An entry written. -/
def sidePut (s : State) (t : Thread) (pl : Place) (size v : Nat) : State :=
  performStore (s.reachAt pl) (storeAt s.cur t pl size (BitVec.ofNat 1024 (v % 256 ^ size)) false)

/-- Several entries changed, one after another. -/
def sideUpdate (s : State) (t : Thread) (size : Nat) (f : Nat → Nat) (pls : List Place) : State :=
  pls.foldl (fun s pl => sidePut s t pl size (f (sideGet s pl size))) s

/-- Entries of one table copied to another. -/
def sideCopy (s : State) (t : Thread) (size : Nat) (pls : List (Place × Place)) : State :=
  pls.foldl (fun s p => sidePut (s.reachAt p.1) t p.2 size (sideGet s p.1 size)) s

/-! ### Token operations (R231–R235) -/

/-- Operand counts (R233). -/
def opSlots : List Nat := [0, 2, 2, 3, 3, 3, 3, 3, 3, 3, 2, 2, 2, 1, 0]

/-- An operation with a destination in slot 0. -/
def opHasDest (op : Nat) : Bool := 1 ≤ op && op ≤ 11

/-- Kind of slot i in a word whose KINDS stand at bit 10. -/
def kindOf (w i : Nat) : Nat := w / 2 ^ (10 + 2 * i) % 4

/-- An enabled entry is malformed (R231). -/
def entryMalformed (e : Nat) : Bool :=
  let op := e % 64
  14 < op || (List.range 3).any (fun i => kindOf e i = 3) || e / 2 ^ 8 % 4 != opSlots.getD op 0
    || (opHasDest op && kindOf e 0 = 2)

/-- A value saturated to int16; the flag says that it was. -/
def sat16 (x : Int) : Int × Bool :=
  if x < -32768 then (-32768, true) else if 32767 < x then (32767, true) else (x, false)

/-- OVF is sticky. -/
def noteOvf (b : Nat) (o : Bool) : Nat := if o && !ovfF b then putF b 0x19 1 (getF b 0x19 1 + 1) else b

/-- What an id is to the operand being collected (R232). -/
inductive Admit
  | reg (i : Nat)
  | digit (d : Nat)
  | minus
  | term
  | no
  deriving DecidableEq, Repr

/-- Admission of an id while STATE = 1 (R232). -/
def takes (v : Vocab) (b id : Nat) : Admit :=
  let w := opF b
  let kind := kindOf w (w / 2 ^ 6 % 4)
  let neg := w.testBit 16
  let nd := w / 2 ^ 17 % 8
  let isDigit := v.digit0 ≤ id && id < v.digit0 + 10
  match kind with
  | 0 => if v.regbase != noId && v.regbase ≤ id && id < v.regbase + 16 then .reg (id - v.regbase) else .no
  | 1 => if isDigit then .reg (id - v.digit0) else .no
  | 2 =>
    if isDigit && nd < 5 then .digit (id - v.digit0)
    else if id = v.minus && !neg && nd = 0 then .minus
    else if id = v.term && 0 < nd then .term
    else .no
  | _ => .no

/-- What a commit reports. -/
structure Report where
  b        : Nat := 0
  appended : Nat := 0
  stop     : Bool := false
  byString : Bool := false
  fault    : Bool := false
  fcode    : Nat := 0
  deriving DecidableEq, Repr

/-- A fault of a token operation (R235). -/
def opFault (v : Vocab) (b fcode : Nat) : Report :=
  let b := putF b 0x1A 1 fcode
  match v.fpol with
  | 1 => { b := setStateF b 4, fault := true, fcode }
  | 2 => { b := setStateF (clearOp b) 0, fault := true, fcode }
  | _ =>
    let b := clearOp b
    { b := setStateF (putF (putF b (0x30 + 4 * headF b) 4 v.faulttok) 0x51 1 1) 2, fault := true, fcode, appended := 1 }

/-- Decimal digits of a number, the highest first. -/
def decimal : Nat → Nat → List Nat → List Nat
  | 0, _, ds => ds
  | fuel + 1, n, ds => if n < 10 then n :: ds else decimal fuel (n / 10) (n % 10 :: ds)

/-- The ids that spell a result (R234). -/
def spell (v : Vocab) (r : Int) : List Nat :=
  (if r < 0 then [v.minus] else []) ++ (decimal 6 r.natAbs []).map (v.digit0 + ·) ++ [v.term]

/-- Ids appended to the empty queue. -/
def append (b : Nat) (ids : List Nat) : Nat :=
  let h := headF b
  let b := ((List.range ids.length).zip ids).foldl (fun b x => putF b (0x30 + 4 * ((h + x.1) % 8)) 4 x.2) b
  putF b 0x51 1 ids.length

/-- `z(i)`. -/
def zReg (b i : Nat) : Int := getS b (0x120 + 2 * (i % 16)) 2

/-- The value of a source slot when the operation executes. -/
def srcSlot (b i : Nat) : Int :=
  if kindOf (opF b) i < 2 then zReg b (getF b (0x20 + 2 * i) 2) else getS b (0x20 + 2 * i) 2

/-- The result of an arithmetic operation before saturation: 3 to 10 (R233). -/
def opArith (op : Nat) (a c : Int) : Int :=
  match op with
  | 3 => a + c
  | 4 => a - c
  | 5 => a * c
  | 6 => a.tdiv c
  | 7 => a.tmod c
  | 8 => min a c
  | 9 => max a c
  | _ => -a

/-- The stop of a sequence without a string, the end token or HALT: it discards the forced queue (R239). -/
def stopAt0 (b : Nat) : Nat := putF (setStateF (putF (clearOp b) 0x104 2 0) 3) 0x51 1 0

/-- The execution of the pending operation (R233, R234, R237). -/
def execute (v : Vocab) (b0 : Nat) : Report :=
  let b := setStateF b0 0
  let w := opF b
  let op := w % 64
  let a := if opHasDest op then srcSlot b 1 else srcSlot b 0
  let c := if opHasDest op then srcSlot b 2 else srcSlot b 1
  let d := getF b 0x20 2 % 16
  if (op = 6 || op = 7) && c = 0 then opFault v b 1
  else if (op = 11 || op = 12) && (a < 0 || 63 < a) then opFault v b 2
  else if op = 14 then { b := stopAt0 b, stop := true }
  else
    let raw : Int := match op with
      | 0 => 0
      | 1 | 2 | 13 => a
      | 11 => getS b (0x140 + 2 * a.toNat) 2
      | 12 => c
      | _ => opArith op a c
    let r := sat16 raw
    let b1 := noteOvf (clearOp b) r.2
    let b2 := if opHasDest op then putF b1 (0x120 + 2 * d) 2 (wrapTo 16 r.1)
      else if op = 12 then putF b1 (0x140 + 2 * a.toNat) 2 (wrapTo 16 c)
      else b1
    if op = 13 || w.testBit 20 then
      let ids := spell v r.1
      { b := setStateF (append b2 ids) 2, appended := ids.length }
    else { b := b2 }

/-- The slot in progress is done with a value; the last one executes the operation (R232, R237). -/
def slotDone (v : Vocab) (b : Nat) (x : Int) : Report :=
  let w := opF b
  let k := w / 2 ^ 6 % 4
  let b1 := putF (putF b (0x20 + 2 * k) 2 (wrapTo 16 x)) 0x28 4 0
  let w1 := w % 2 ^ 6 + (k + 1) * 2 ^ 6 + w / 2 ^ 8 % 2 ^ 8 * 2 ^ 8 + w / 2 ^ 20 * 2 ^ 20
  let b2 := putF b1 0x1C 4 w1
  if k + 1 = w / 2 ^ 8 % 4 then execute v b2 else { b := b2 }

/-- An id for the operand being collected (R232). -/
def collect (v : Vocab) (b id : Nat) : Report :=
  let w := opF b
  match takes v b id with
  | .no => opFault v b 4
  | .reg i => slotDone v b i
  | .digit d =>
    { b := putF (putF b 0x28 4 (wrapTo 32 (10 * getS b 0x28 4 + d))) 0x1C 4 (w + 2 ^ 17) }
  | .minus => { b := putF b 0x1C 4 (w + 2 ^ 16) }
  | .term =>
    let r := sat16 (if w.testBit 16 then -getS b 0x28 4 else getS b 0x28 4)
    slotDone v (noteOvf b r.2) r.1

/-! ### Stop strings (R239) -/

/-- Length of stop string i. -/
def stopLen (b i : Nat) : Nat := getF b (0x60 + i) 1

/-- The first n bytes of stop string i. -/
def stopBytes (b i n : Nat) : List Nat := (List.range n).map fun j => getF b (0x80 + 32 * i + j) 1

/-- The longest suffix of bytes that is a prefix of a string: its length, at most n. -/
def longest (str x : List Nat) : Nat → Nat
  | 0 => 0
  | n + 1 => if x.drop (x.length - (n + 1)) = str.take (n + 1) then n + 1 else longest str x n

/-- `MATCH(i)` after a byte. -/
def advance1 (b i byte : Nat) : Nat :=
  let n := stopLen b i
  if n = 0 then b
  else
    let m := if n ≤ getF b (0x100 + i) 1 then 0 else getF b (0x100 + i) 1
    putF b (0x100 + i) 1 (longest (stopBytes b i n) (stopBytes b i m ++ [byte]) (min (m + 1) n))

/-- Every `MATCH` after a byte. -/
def advanceAll (b byte : Nat) : Nat := (List.range 4).foldl (fun b i => advance1 b i byte) b

/-- A string that is complete, the lowest. -/
def completed (b : Nat) : Option Nat :=
  (List.range 4).find? fun i => stopLen b i != 0 && getF b (0x100 + i) 1 == stopLen b i

/-- The text bytes of a token against the stop strings: where one completes, and which. -/
def matchBytes (b : Nat) : List Nat → Nat → Nat × Option (Nat × Nat)
  | [], _ => (b, none)
  | x :: xs, k =>
    let b1 := advanceAll b x
    match completed b1 with
    | some i => (b1, some (k, i))
    | none => matchBytes b1 xs (k + 1)

/-! ### TKCOMMIT (R237, R238) -/

/-- The status word (R238). -/
def statusOf (r : Report) : Word :=
  let b := r.b
  BitVec.ofNat 64
    (r.appended + (if r.stop then 16 else 0) + (if r.fault then 32 else 0) + (if countF b != 0 then 64 else 0)
      + (if ovfF b then 128 else 0) + (if r.stop then getF b 0x104 1 * 2 ^ 8 else 0) + stateF b * 2 ^ 16
      + (if r.stop && r.byString then getF b 0x105 1 % 4 * 2 ^ 19 else 0) + r.fcode * 2 ^ 24 + posF b * 2 ^ 32)

/-- The head of the forced queue removed. -/
def popForced (b : Nat) : Nat :=
  let n := countF b - 1
  let b1 := putF (putF b 0x50 1 ((headF b + 1) % 8)) 0x51 1 n
  if n = 0 then setStateF b1 0 else b1

/-- Decoding a token that is not forced. -/
def decodeToken (s : State) (v : Vocab) (b id : Nat) : Report :=
  if id = v.endtok then { b := stopAt0 b, stop := true }
  else if stateF b = 1 then collect v b id
  else
    match (if stateF b = 0 then opEntry s v id else none) with
    | none => { b }
    | some e =>
      if !e.testBit 17 then { b }
      else if entryMalformed e then opFault v b 3
      else
        let w := e % 64 + e / 2 ^ 8 % 2 ^ 8 * 2 ^ 8 + e / 2 ^ 16 % 2 * 2 ^ 20
        let b1 := setStateF (putF (clearOp b) 0x1C 4 w) 1
        if e / 2 ^ 8 % 4 = 0 then execute v b1 else { b := b1 }

/-- A commit of an id to a block, after its checks. -/
def commit (s : State) (v : Vocab) (b0 id : Nat) (forced : Bool) : Report :=
  let b1 := if stateF b0 = 2 then popForced b0 else b0
  let b2 := putF (putF b1 0x10 4 (posF b1 + 1)) 0x14 4 0
  match matchBytes b2 (textBytes s v id) 1 with
  | (b3, some (k, i)) =>
    let b4 := putF (putF b3 0x104 1 k) 0x105 1 (getF b3 0x105 1 / 4 * 4 + i)
    { b := clearOp (putF (setStateF b4 3) 0x51 1 0), stop := true, byString := true }
  | (b3, none) => if forced then { b := b3 } else decodeToken s v b3 id

/-- An optional side-table entry: none where the index names no table. -/
def sideOpt (s : State) (t : Thread) (idx off size : Nat) (perm : BitVec 8) (need : Need) : Except Stop (List Place) :=
  if idx = noIndex then .ok [] else sidePlaces s t idx size perm need [off]

/-- TKCOMMIT (R237). The entries are checked in the order in which R219 names them, count[t] before history[POS]; it does not say
which of two failures is raised. DESIGN CHOICE, log 81. -/
def execTkcommit (d a : BitVec 5) (f : BitVec 1) (c : BitVec 4) (s : State) : Host.Outcome State Fault Refusal :=
  seqScalar (.tkcommit d a f c) d c { stopped := true, faulted := true } s fun t s o =>
    let id := (t.s a.toNat).toNat % 2 ^ 32
    let bad : Stop := .cause 0x0F (BitVec.ofNat 64 id)
    match sideOpt s t (getF o.b 0x1CC 1) (2 * id) 2 (permR ||| permW) { r := true, w := true } with
    | .error e => .error e
    | .ok cnt =>
      match sideOpt s t (getF o.b 0x508 1) (4 * posF o.b) 4 permW { w := true } with
      | .error e => .error e
      | .ok hist =>
        if o.v.ntok ≤ id || posF o.b = 0xFFFFFFFF then .error bad
        else if stateF o.b = 2 && (f = 0 || id != getF o.b (0x30 + 4 * headF o.b) 4) then .error bad
        else
          let r := commit s o.v o.b id (f == 1)
          let s0 := reachEntries (reachText s o.v id) t [getF o.b 0x1CC 1, getF o.b 0x508 1]
          let s1 := sideUpdate s0 t 4 (fun _ => id) hist
          let s2 := sideUpdate s1 t 2 (fun n => min (n + 1) 65535) cnt
          .ok (writeBlock s2 t o.places o.b r.b, statusOf r)

/-! ### TKFORCE, TKSTAT, TKDRAW, TKCKPT (R240, R242, R243, R250) -/

/-- TKFORCE (R240). -/
def execTkforce (d : BitVec 5) (c : BitVec 4) (s : State) : Host.Outcome State Fault Refusal :=
  seqScalar (.tkforce d c) d c {} s fun _ s o =>
    .ok (s, if countF o.b = 0 then 0xFFFFFFFFFFFFFFFF else BitVec.ofNat 64 (getF o.b (0x30 + 4 * headF o.b) 4))

/-- The cursor in effect: position and draw (R228). -/
def cursorOf (b : Nat) : Nat × Nat := if flagF b 0 then (getF b 0x2C0 4, getF b 0x2C4 4) else (posF b, drawF b)

/-- The cursor as TKDRAW writes it. -/
def cursorWord (b : Nat) : Word := BitVec.ofNat 64 ((cursorOf b).1 + (cursorOf b).2 * 2 ^ 32)

/-- TKSTAT (R250). -/
def execTkstat (d a : BitVec 5) (c : BitVec 4) (s : State) : Host.Outcome State Fault Refusal :=
  seqScalar (.tkstat d a c) d c {} s fun t s o =>
    let b := o.b
    .ok (s, match (t.s a.toNat).toNat % 16 with
      | 0 => statusOf
          { b, stop := stateF b == 3, byString := true, fault := stateF b == 4
            fcode := if stateF b = 4 then getF b 0x1A 1 else 0 }
      | 1 => cursorWord b
      | 2 => BitVec.ofNat 64 (countF b)
      | _ => 0)

/-- TKDRAW (R242). -/
def execTkdraw (d a : BitVec 5) (c : BitVec 4) (s : State) : Host.Outcome State Fault Refusal :=
  let i := Instr.tkdraw d a c
  seqScalar i d c { faulted := true } s fun t s o =>
    let b := o.b
    let done (b' : Nat) : Except Stop (State × Word) := .ok (writeBlock s t o.places b b', cursorWord b')
    match (t.s a.toNat).toNat % 4 with
    | 0 =>
      let off := if flagF b 0 then 0x2C4 else 0x14
      if 0xFFFFFFFD ≤ getF b off 4 then .error (seqFault i) else done (putF b off 4 (getF b off 4 + 1))
    | 1 => done (setFlagF (putF (putF b 0x2C0 4 (posF b)) 0x2C4 4 0) 0 true)
    | 2 => if flagF b 0 then done (putF (putF b 0x2C0 4 (getF b 0x2C0 4 + 1)) 0x2C4 4 0) else .error (seqFault i)
    | _ => done (setFlagF b 0 false)

/-- TKCKPT (R243). -/
def execTkckpt (c : BitVec 4) (s : State) : Host.Outcome State Fault Refusal :=
  seqMember (.tkckpt c) c { faulted := true } s fun t s o =>
    let b := o.b
    let b1 := copyF (copyF (copyF b 0x300 0x50 b 0x10) 0x350 0x10 b 0x100) 0x360 0xA0 b 0x120
    .ok (writeBlock s t o.places b (setFlagF b1 1 true), .next)

/-! ### TKMASK (R241) -/

/-- The sum of two exact numbers. -/
def exactAdd : Exact → Exact → Exact
  | .nan, _ => .nan
  | _, .nan => .nan
  | .inf n, .inf n' => if n = n' then .inf n else .nan
  | .inf n, .fin _ _ _ _ _ => .inf n
  | .fin _ _ _ _ _, .inf n => .inf n
  | .fin n _ m d e, .fin n' _ m' d' e' =>
    let k := min e e'
    let x : Int := m * d' * 2 ^ (e - k).toNat
    let y : Int := m' * d * 2 ^ (e' - k).toNat
    let v := (if n then -x else x) + (if n' then -y else y)
    if v = 0 then .fin (n && n') (n != n') 0 1 0 else .fin (v < 0) false v.natAbs (d * d') k

/-- The opposite of an exact number. -/
def Exact.negate : Exact → Exact
  | .nan => .nan
  | .inf n => .inf (!n)
  | .fin n mixed m d e => .fin (!n) mixed m d e

/-- A logit under the penalties: repetition, frequency times count, presence, one rounding (R241). -/
def penalize (x rep freq pres c : Nat) : Nat :=
  let v := fmF32.value x
  let r := fmF32.value rep
  let q : FVal := match r with
    | .fin false m _ => if m = 0 then .fin false 1 0 else r
    | _ => .fin false 1 0
  let positive := match v with
    | .fin n m _ => !n && m != 0
    | .inf n => !n
    | .nan _ => false
  let a := if positive then exactDiv v q else (exactMul v q).1.exact
  let f := (exactMul (fmF32.value freq) (.fin false c 0)).1.exact
  (fmF32.round 0 0 (exactAdd (exactAdd a f.negate) (fmF32.value pres).exact.negate)).1

/-- A lane's id is masked (R241). -/
def masked (v : Vocab) (b id : Nat) : Bool :=
  let on := (List.range 3).filter fun i => (getF b 0x1F8 1).testBit i
  v.ntok ≤ id || stateF b = 2 || stateF b = 3 || (stateF b = 1 && takes v b id = .no)
    || (stateF b = 0 && !on.isEmpty &&
      !on.any fun i => getF b (0x1E0 + 8 * i) 4 ≤ id && id ≤ getF b (0x1E4 + 8 * i) 4)

/-- TKMASK (R241). -/
def execTkmask (r : BitVec 5) (a : BitVec 5) (c : BitVec 4) (s : State) : Host.Outcome State Fault Refusal :=
  seqMember (.tkmask r a c) c { faulted := true } s fun t s o =>
    let b := o.b
    let id (j : Nat) : Nat := (t.s a.toNat).toNat + j
    let tab := getF b 0x1CC 1
    let counted := if flagF b 2 && tab != noIndex then (List.range 64).filter fun j => id j < o.v.ntok else []
    match sidePlaces s t tab 2 permR { r := true } (counted.map fun j => 2 * id j) with
    | .error e => .error e
    | .ok pls =>
      if isLoadBound s r.toNat then .error (loadBoundFault (.tkmask r a c))
      else match readVectors (pls.foldl State.reachAt (reachEntries s t (usedIf counted [tab]))) [r.toNat] with
        | .error e => .error e
        | .ok (s, vs) =>
          let counts : Tab Nat := counted.zip (pls.map fun pl => sideGet s pl 2)
          let old := vs.get 0 r.toNat
          let lane (j : Nat) : Nat :=
            let x := elem 32 old j
            let n := counts.get 0 j
            if masked o.v b (id j) then 0xFF800000
            else if n = 0 || (fmF32.value x).isNan then x
            else penalize x (getF b 0x1C0 4) (getF b 0x1C4 4) (getF b 0x1C8 4) n
          match writeVector s r.toNat (lanesOf 32 ((List.range 64).map lane)) with
          | .error e => .error e
          | .ok s => .ok (s, .next)

/-! ### TKTRUNC and TKFORK (R244, R245) -/

/-- Offsets of n entries of a size from entry k on. -/
def entries (size k n : Nat) : List Nat := (List.range n).map fun i => size * (k + i)

/-- The entries of one table that are read, and the entries of a second one that they name. -/
def namedPlaces (s : State) (t : Thread) (list k n tab size : Nat) (perm : BitVec 8) : Except Stop (List Place × List Place) :=
  match sidePlaces s t list 4 permR { r := true } (entries 4 k n) with
  | .error e => .error e
  | .ok pls =>
    match sidePlaces s t tab size perm { r := true, w := true } (pls.map fun pl => size * sideGet s pl 4) with
    | .error e => .error e
    | .ok qs => .ok (pls, qs)

/-- The page counts of entries of a page list: the list entries are read, then the reference array is checked (R244,
R245). -/
def refPlaces (s : State) (t : Thread) (list rc k n : Nat) : Except Stop (List Place × List Place) :=
  namedPlaces s t list k n rc 4 permAtomic

/-- Counts of ids in the token history from position k on, n of them: the history entries, then the counts (R244). -/
def countPlaces (s : State) (t : Thread) (hist tab k n : Nat) : Except Stop (List Place × List Place) :=
  namedPlaces s t hist k n tab 2 (permR ||| permW)

/-- A page's reference count changed by a relaxed atomic add at device scope, where R83 and R141 place it (R244, R245). -/
def refAdd (s : State) (t : Thread) (v : Nat) (pl : Place) : State × Nat :=
  rmwAt (s.reachAt pl) s.cur t pl 4 { op := 0, v }

/-- The references of a list of pages each gain one (R245). -/
def refsRaised (s : State) (t : Thread) (pls : List Place) : State := pls.foldl (fun s pl => (refAdd s t 1 pl).1) s

/-- References that a list of atomic decrements takes from 1 to 0 (R244). -/
def zeroedBy (s : State) (t : Thread) (pls : List Place) : State × Nat :=
  pls.foldl (fun (x : State × Nat) pl =>
    let y := refAdd x.1 t (2 ^ 32 - 1) pl
    (y.1, if y.2 = 1 then x.2 + 1 else x.2)) (s, 0)

/-- TKTRUNC (R244). -/
def execTktrunc (d a : BitVec 5) (c : BitVec 4) (s : State) : Host.Outcome State Fault Refusal :=
  seqScalar (.tktrunc d a c) d c {} s fun t s o =>
    let b := o.b
    let ck := getF b 0x300 4
    let draw := (t.s a.toNat).toNat % 2 ^ 32
    let hist := getF b 0x508 1
    let tab := getF b 0x1CC 1
    let list := getF b 0x500 1
    let rc := getF b 0x501 1
    let len := getF b 0x504 4
    let l := (ck + getF b 0x502 2 - 1) / getF b 0x502 2
    let drops := if list = noIndex then 0 else len - l
    match (if hist = noIndex || tab = noIndex then .ok ([], []) else countPlaces s t hist tab ck (posF b - ck)) with
    | .error e => .error e
    | .ok counts =>
      match (if rc = noIndex then .ok ([], []) else refPlaces s t list rc l drops) with
      | .error e => .error e
      | .ok refs =>
        if !flagF b 1 || 0xFFFFFFFD < draw then .error (.cause 0x0F (t.s a.toNat))
        else
          let s0 := reachEntries s t (usedIf counts.1 [hist, tab] ++ usedIf refs.1 [list, rc])
          let s1 := sideUpdate ((counts.1 ++ refs.1).foldl State.reachAt s0) t 2 (fun n => n - 1) counts.2
          let b1 := copyF (copyF (copyF b 0x10 0x50 b 0x300) 0x100 0x10 b 0x350) 0x120 0xA0 b 0x360
          let b2 := putF (putF b1 0x50 1 0) 0x51 1 0
          let b3 := if stateF b2 = 2 then setStateF b2 0 else b2
          let b4 := putF (putF (putF b3 0x14 4 draw) 0x2C0 4 (posF b3)) 0x2C4 4 draw
          let b5 := putF (setFlagF b4 0 false) 0x504 4 (min len l)
          let x := zeroedBy s1 t refs.2
          .ok (writeBlock x.1 t o.places b b5, BitVec.ofNat 64 (drops ||| x.2 * 2 ^ 16))

/-- The child block of a fork (R245). -/
def childOf (p old : Nat) : Nat :=
  let id := philox (seedF p) (seqidF p) (BitVec.ofNat 32 (posF p)) 0xFFFFFFFE (BitVec.ofNat 32 (getF p 0x06 2))
  let b := copyF old 0x000 0x200 p 0x000
  let b := putF (putF b 0x00 4 id.toNat) 0x06 2 0
  let b := putF (putF b 0x05 1 (if flagF p 2 then 4 else 0)) 0x14 4 0
  let b := copyF b 0x1CC 1 old 0x1CC
  let b := putF (putF b 0x200 0x200 0) 0x2C0 4 (posF p)
  copyF b 0x501 7 p 0x501

/-- The pairs of places of entries copied from one table to another, where both blocks have one. -/
def copyPairs (s : State) (t : Thread) (src dst size n : Nat) : Except Stop (List (Place × Place)) :=
  if src = noIndex || dst = noIndex then .ok []
  else match sidePlaces s t src size permR { r := true } (entries size 0 n) with
    | .error e => .error e
    | .ok ps =>
      match sidePlaces s t dst size permW { w := true } (entries size 0 n) with
      | .error e => .error e
      | .ok ds => .ok (ps.zip ds)

/-- TKFORK (R245). -/
def execTkfork (d : BitVec 5) (e : BitVec 4) (c : BitVec 4) (s : State) : Host.Outcome State Fault Refusal :=
  let i := Instr.tkfork d e c
  seqScalar i d c { faulted := true } s (child := some e) fun t s o =>
    let p := o.b
    match blockPlaces s t (t.c e.toNat) with
    | .error x => .error x
    | .ok cps =>
      let old := placesNat s cps
      let pages := getF p 0x504 4
      match copyPairs s t (getF p 0x1CC 1) (getF old 0x1CC 1) 2 o.v.ntok with
      | .error x => .error x
      | .ok counts =>
        match copyPairs s t (getF p 0x508 1) (getF old 0x508 1) 4 (posF p) with
        | .error x => .error x
        | .ok hist =>
          match copyPairs s t (getF p 0x500 1) (getF old 0x500 1) 4 pages with
          | .error x => .error x
          | .ok list =>
            let lists := getF p 0x500 1 != noIndex && getF old 0x500 1 != noIndex
            match (if lists && getF p 0x501 1 != noIndex then
                refPlaces s t (getF p 0x500 1) (getF p 0x501 1) 0 pages else .ok ([], [])) with
            | .error x => .error x
            | .ok refs =>
              if (t.c e.toNat).base = (t.c c.toNat).base || getF p 0x06 2 = 0xFFFF then .error (seqFault i)
              else
                let s0 := reachEntries s t (usedIf counts [getF p 0x1CC 1, getF old 0x1CC 1] ++
                  usedIf hist [getF p 0x508 1, getF old 0x508 1] ++ usedIf list [getF p 0x500 1, getF old 0x500 1] ++
                  usedIf refs.1 [getF p 0x501 1])
                let s1 := sideCopy (sideCopy (sideCopy s0 t 2 counts) t 4 hist) t 4 list
                let s2 := refsRaised (refs.1.foldl State.reachAt s1) t refs.2
                let child := childOf p old
                let s3 := writeBlock s2 t cps old child
                .ok (writeBlock s3 t o.places p (putF p 0x06 2 (getF p 0x06 2 + 1)), BitVec.ofNat 64 (getF child 0 4))

/-! ### RNG (R228, R229) -/

/-- The draw word of element e under a block's key and cursor. -/
def drawWord (b e : Nat) : BitVec 32 :=
  philox (seedF b) (seqidF b) (BitVec.ofNat 32 (cursorOf b).1) (BitVec.ofNat 32 (cursorOf b).2) (BitVec.ofNat 32 e)

/-- RNDU (R229). -/
def execRndu (d a : BitVec 5) (c : BitVec 4) (s : State) : Host.Outcome State Fault Refusal :=
  seqScalar (.rndu d a c) d c { faulted := true } s fun t s o =>
    let w := drawWord o.b (t.s a.toNat).toNat
    .ok (s, w ++ BitVec.ofNat 32 (uniformF32 w))

/-- A vector of draws. -/
def rndVector (i : Instr) (r a : BitVec 5) (c : BitVec 4) (s : State) (f : BitVec 32 → Nat) :
    Host.Outcome State Fault Refusal :=
  seqMember i c { faulted := true } s fun t s o =>
    let e := (t.s a.toNat).toNat
    if isLoadBound s r.toNat then .error (loadBoundFault i)
    else match writeVector s r.toNat (lanesOf 32 ((List.range 64).map fun j => f (drawWord o.b (e + j)))) with
    | .error x => .error x
    | .ok s => .ok (s, .next)

/-- RNDV (R229). -/
def execRndv (r a : BitVec 5) (c : BitVec 4) (s : State) : Host.Outcome State Fault Refusal :=
  rndVector (.rndv r a c) r a c s uniformF32

/-- RNDG (R229). -/
def execRndg (r a : BitVec 5) (c : BitVec 4) (s : State) : Host.Outcome State Fault Refusal :=
  rndVector (.rndg r a c) r a c s gumbelF32

/-! ### TXT (R226, R227) -/

/-- A span of a TXT member under R137, with its alignment. -/
def textSpan (s : State) (t : Thread) (c : Cap) (n align : Nat) (perm : BitVec 8) (need : Need) :
    Except Stop (List (Nat × Nat × Place)) :=
  let val := BitVec.ofNat 64 c.base
  match capCheck c c.base n perm with
  | some cause => .error (.cause cause val)
  | none =>
    if c.space = 3 then .error (.cause 0x06 val)
    else if c.base % align != 0 then .error (.cause 0x07 val)
    else spanCheck s s.cur t c c.base n perm need true

/-- Bytes written to a checked span from its start. -/
def writeSpan (s : State) (t : Thread) (ps : List (Nat × Nat × Place)) (bytes : List Nat) : State :=
  let v := leNat (fun i => BitVec.ofNat 8 (bytes.getD i 0)) bytes.length
  let cut := ps.filterMap fun p => if bytes.length ≤ p.1 then none else some (p.1, min p.2.1 (bytes.length - p.1), p.2.2)
  (spanStores s t cut v).foldl performStore (reachAll s cut)

/-- The single-byte token of an input byte (R226). -/
def byteToken (s : State) (v : Vocab) (x : Nat) : Option Nat :=
  if v.byte0 != noId then some (v.byte0 + x)
  else (List.range v.ntok).find? fun id => !v.control id && textBytes s v id == [x]

/-- The tokens of a list of bytes, none where a byte has no token. -/
def byteTokens (s : State) (v : Vocab) : List Nat → Option (List Nat)
  | [] => some []
  | x :: xs =>
    match byteToken s v x, byteTokens s v xs with
    | some id, some ids => some (id :: ids)
    | _, _ => none

/-- The lowest-ranked merge of a pair: rank and result. -/
def mergeOf (s : State) (v : Vocab) (l r : Nat) : Option (Nat × Nat) :=
  ((List.range v.nmerge).find? fun k =>
    let e := v.mergeva + 12 * k
    rootNum s e 4 == l && rootNum s (e + 4) 4 == r && !v.control (rootNum s (e + 8) 4)).map fun k =>
      (k, rootNum s (v.mergeva + 12 * k + 8) 4)

/-- The best merge of adjacent pairs, the leftmost of equal ranks: its place, rank and result. -/
def bestMerge (s : State) (v : Vocab) : List Nat → Nat → Option (Nat × Nat × Nat) → Option (Nat × Nat × Nat)
  | x :: y :: zs, k, best =>
    let best' := match mergeOf s v x y, best with
      | some (r, id), none => some (k, r, id)
      | some (r, id), some b => if r < b.2.1 then some (k, r, id) else best
      | none, _ => best
    bestMerge s v (y :: zs) (k + 1) best'
  | _, _, best => best

/-- Merges until none applies; the first argument bounds their number. -/
def mergeAll (s : State) (v : Vocab) : Nat → List Nat → List Nat
  | 0, xs => xs
  | n + 1, xs =>
    match bestMerge s v xs 0 none with
    | none => xs
    | some (k, _, id) => mergeAll s v n (xs.take k ++ id :: xs.drop (k + 2))

/-- The little-endian bytes of 32-bit numbers. -/
def wordsBytes (xs : List Nat) : List Nat := xs.flatMap fun x => (List.range 4).map fun i => x / 256 ^ i % 256

/-- A TXT member: the block is read for its vocabulary only (R222); the destination is held until it completes. -/
def textMember (i : Instr) (d : BitVec 5) (c : BitVec 4) (s : State)
    (body : Thread → State → Vocab → Except Stop (State × Word)) : Host.Outcome State Fault Refusal :=
  issue i s fun t s =>
    let s := drain s s.myPath
    if noRoom t d then .error .stall
    else match blockPlaces s t (t.c c.toNat) with
      | .error e => .error e
      | .ok ps =>
        let v := vocabOf s (placesNat s ps)
        if !v.valid then .error (seqFault i)
        else match body t (reachBlock s ps) v with
          | .error e => .error e
          | .ok (s, w) => returns s d w

/-- What TKENC reads of a vocabulary's tables for n bytes: the tokens' texts where no range names the bytes, the merges where two
tokens can meet. A search counts as one of the whole table. DESIGN CHOICE, log 81. -/
def reachEncode (s : State) (v : Vocab) (n : Nat) : State :=
  let s1 :=
    if v.byte0 = noId && 0 < n then ((List.range v.ntok).filter fun id => !v.control id).foldl (fun s id => reachText s v id) s
    else s
  if 2 ≤ n then s1.reachRange 0 v.mergeva (12 * v.nmerge) else s1

/-- TKENC (R226). -/
def execTkenc (d : BitVec 5) (a b : BitVec 4) (r : BitVec 4) (s : State) : Host.Outcome State Fault Refusal :=
  let i := Instr.tkenc d a b r
  textMember i d r s fun t s v =>
    let n := bitsOf (t.s d.toNat) 31 0
    let room := bitsOf (t.s d.toNat) 63 32
    match textSpan s t (t.c a.toNat) n 1 permR { r := true } with
    | .error e => .error e
    | .ok src =>
      match textSpan s t (t.c b.toNat) (4 * room) 4 permW { w := true } with
      | .error e => .error e
      | .ok dst =>
        if 65536 < n then .error (.cause 0x05 ((encodeWord i).setWidth 64))
        else
          let bytes := (List.range n).map fun k => getF (placesNat s src) k 1
          match byteTokens s v bytes with
          | none => .error (seqFault i)
          | some xs =>
            let ids := mergeAll s v n xs
            let out := ids.take room
            .ok (writeSpan (reachEncode (reachAll s src) v n) t dst (wordsBytes out), BitVec.ofNat 64 (ids.length + out.length * 2 ^ 32))

/-- The ids of a list decoded in turn: ids consumed and bytes, until one does not fit or is not below NTOK. -/
def decodeIds (s : State) (v : Vocab) (noControl : Bool) (room : Nat) : List Nat → Nat × List Nat → Nat × List Nat
  | [], acc => acc
  | id :: ids, (n, bs) =>
    let x := if noControl && v.control id then [] else tokenBytes s v id
    if v.ntok ≤ id || room < bs.length + x.length then (n, bs)
    else decodeIds s v noControl room ids (n + 1, bs ++ x)

/-- What TKDEC reads of a vocabulary's tables for some ids. -/
def reachDecode (s : State) (v : Vocab) (noControl : Bool) (ids : List Nat) : State :=
  ids.foldl (fun s id => if v.ntok ≤ id || (noControl && v.control id) then s else reachToken s v id) s

/-- TKDEC (R227). -/
def execTkdec (d : BitVec 5) (a b : BitVec 4) (x : BitVec 1) (r : BitVec 4) (s : State) :
    Host.Outcome State Fault Refusal :=
  textMember (.tkdec d a b x r) d r s fun t s v =>
    let n := bitsOf (t.s d.toNat) 31 0
    let room := bitsOf (t.s d.toNat) 63 32
    match textSpan s t (t.c a.toNat) (4 * n) 4 permR { r := true } with
    | .error e => .error e
    | .ok src =>
      match textSpan s t (t.c b.toNat) room 1 permW { w := true } with
      | .error e => .error e
      | .ok dst =>
        let all := placesNat s src
        let ids := (List.range n).map fun k => getF all (4 * k) 4
        let out := decodeIds s v (x == 1) room ids (0, [])
        .ok (writeSpan (reachDecode (reachAll s src) v (x == 1) (ids.take (out.1 + 1))) t dst out.2, BitVec.ofNat 64 (out.1 + out.2.length * 2 ^ 32))

end Sys2Proof.Machine
end

