-- ==== Sys2Proof/Machine/Lichen.lean ====
section
/-!
DEFINITION. The Lichen unit (major 0x36): forests, finds, unions, snapshots and undo, and the completion of EQINIT and
EQREDUCE (R252–R264).
-/

namespace Sys2Proof.Machine

/-! ### A forest opened (R252, R253) -/

/-- A forest that a member has opened: its descriptor and arrays, and the contents of the descriptor. -/
structure Forest where
  cap  : Cap := {}
  par  : Cap := {}
  size : Cap := {}
  log  : Cap := {}
  d    : Nat := 0
  deriving DecidableEq, Repr

namespace Forest

def n (f : Forest) : Nat := getF f.d 0x04 4
def loglen (f : Forest) : Nat := if getF f.d 0x02 1 = noIndex then 0 else getF f.d 0x08 4
def loghead (f : Forest) : Nat := getF f.d 0x0C 4
def classes (f : Forest) : Nat := getF f.d 0x10 4
def snap (f : Forest) : Bool := (getF f.d 0x03 1).testBit 0
def owned (f : Forest) : Bool := (getF f.d 0x03 1).testBit 1
def owner (f : Forest) : Nat := getF f.d 0x18 8

/-- A descriptor's own conditions (R253): reserved fields, the count, the arrays named. -/
def bad (d : Nat) : Bool :=
  2 ^ 2 ≤ getF d 0x03 1 || getF d 0x14 4 != 0 || getF d 0x20 32 != 0 || getF d 0x04 4 = 0 || 2 ^ 31 < getF d 0x04 4
    || getF d 0x00 1 = noIndex || getF d 0x01 1 = noIndex

end Forest

/-- An array over its whole length, as R137 checks a span, elements aligned. -/
def arrayCheck (s : State) (t : Thread) (c : Cap) (bytes align : Nat) (perm : BitVec 8) (need : Need) : Option Stop :=
  match textSpan s t c bytes align perm need with
  | .ok _ => none
  | .error e => some e

/-- The lines of an array over its whole length, which its check reaches. -/
def reachSpan (s : State) (asid : Nat) (c : Cap) (bytes : Nat) : State :=
  if c.space = 0 then s.reachRange asid c.base bytes else s

/-- One element of an array; an element that is out of reach reads as 0. -/
def arrayGet (s : State) (t : Thread) (c : Cap) (off size : Nat) : Nat :=
  match memCheck s s.cur t c (c.base + off : Nat) size 1 0 { r := true } with
  | .ok pl => sideGet s pl size
  | .error _ => 0

/-- One element of an array written. -/
def arrayPut (s : State) (t : Thread) (c : Cap) (off size v : Nat) : State :=
  match memCheck s s.cur t c (c.base + off : Nat) size 1 0 { w := true } with
  | .ok pl => sidePut s t pl size v
  | .error _ => s

/-- A check that an absent page stands against, another module's too, which a Lichen unit waits for and makes again where it
reaches the element. -/
def lateCheck (e : Option Stop) : Option Stop :=
  match e with
  | some (.page _ _) => none
  | some (.wait (.page _ _)) => none
  | _ => e

/-- The first failure among checks in their order; `late` passes over absent pages. -/
def firstFailing (late : Bool) : List (Option Stop) → Option Stop
  | [] => none
  | e :: es =>
    match (if late then lateCheck e else e) with
    | some x => some x
    | none => firstFailing late es

/-- The first failure of the arrays of a forest, the log among them where the member uses it. -/
def arraysCheck (s : State) (t : Thread) (f : Forest) (log : Bool) (late : Bool := false) : Option Stop :=
  let rw := permR ||| permW
  let need : Need := { r := true, w := true }
  firstFailing late
    [arrayCheck s t f.par (4 * f.n) 4 (rw ||| permAtomic) need,
      arrayCheck s t f.size (4 * f.n) 4 (rw ||| permAtomic) need,
      if log then arrayCheck s t f.log (8 * f.loglen) 8 rw need else none]

/-- The descriptor of a forest and the arrays that it names, without the check of the arrays (R253, steps 1 and 2). -/
def readForest (s : State) (t : Thread) (i : Instr) (fc : BitVec 4) (usesLog : Forest → Bool) : Except Stop (Forest × Bool) :=
  let c := t.c fc.toNat
  let rw := permR ||| permW
  let val := BitVec.ofNat 64 c.base
  match capCheck c c.base 64 rw with
  | some cause => .error (.cause cause val)
  | none =>
    if 2 ≤ c.space then .error (.cause 0x06 val)
    else match textSpan s t c 64 64 rw { r := true, w := true } with
      | .error e => .error e
      | .ok ps =>
        let d := placesNat s ps
        let log := usesLog { d } && getF d 0x02 1 != noIndex
        if Forest.bad d then .error (.cause 0x02 ((encodeWord i).setWidth 64))
        else match tableEntry s t (getF d 0 1), tableEntry s t (getF d 1 1),
            (if log then tableEntry s t (getF d 2 1) else .ok {}) with
          | .error e, _, _ => .error e
          | .ok _, .error e, _ => .error e
          | .ok _, .ok _, .error e => .error e
          | .ok par, .ok size, .ok lc => .ok ({ cap := c, par, size, log := lc, d }, log)

/-- The checks of R253, steps 1 to 3: the descriptor, its fields, the arrays; the log where the member uses it. -/
def openForest (s : State) (t : Thread) (i : Instr) (fc : BitVec 4) (usesLog : Forest → Bool) : Except Stop Forest :=
  match readForest s t i fc usesLog with
  | .error e => .error e
  | .ok (f, log) =>
    match arraysCheck s t f log with
    | some e => .error e
    | none => .ok f

/-- What the checks of a forest have reached: its descriptor, the entries of its capabilities, its arrays; the log, whose
capability has been read and has a tag, where the member uses it. -/
def reachForest (s : State) (t : Thread) (f : Forest) : State :=
  let s1 := reachEntries (reachSpan s t.asid f.cap 64) t [getF f.d 0 1, getF f.d 1 1]
  let s2 := reachSpan (reachSpan s1 t.asid f.par (4 * f.n)) t.asid f.size (4 * f.n)
  if f.log.tag then reachSpan (reachEntries s2 t [getF f.d 2 1]) t.asid f.log (8 * f.loglen) else s2

/-- The issuing thread is not the owner of a single-owner forest (R254). -/
def notOwner (s : State) (f : Forest) : Bool := f.owned && (s.handleOf s.cur).toNat != f.owner

/-! ### Finding roots (R255) -/

/-- An element's parent. -/
def parentOf (s : State) (t : Thread) (f : Forest) (x : Nat) : Nat := arrayGet s t f.par (4 * x) 4

/-- The walk of R255 with its halving stores; it gives the root, or the element at which it fails. The first argument is
what remains of the N steps. -/
def findRoot (t : Thread) (f : Forest) : Nat → State → Nat → State × Except Nat Nat
  | fuel, s, x =>
    let p := parentOf s t f x
    if p = x then (s, .ok x)
    else match fuel with
      | 0 => (s, .error x)
      | fuel + 1 =>
        if f.n ≤ p then (s, .error x)
        else
          let g := parentOf s t f p
          let s1 := if !f.snap && g != p then arrayPut s t f.par (4 * x) 4 g else s
          findRoot t f fuel s1 p

/-- A field of the descriptor written. -/
def putDesc (s : State) (t : Thread) (f : Forest) (off size v : Nat) : State := arrayPut s t f.cap off size v

/-- A synchronous member (R256): the thread's earlier stores perform first, the forest is opened, the owner is checked where
the member asks, and the result is held. A failing walk keeps its halving stores. -/
def eqMember (i : Instr) (d : BitVec 5) (fc : BitVec 4) (usesLog : Forest → Bool) (owns : Bool) (s : State)
    (body : Thread → State → Forest → Except Stop (State × Except (Nat × Nat) Word)) :
    Host.Outcome State Fault Refusal :=
  issue i s fun t s =>
    let s := drain s s.myPath
    if noRoom t d then .error .stall
    else match openForest s t i fc usesLog with
      | .error e => .error e
      | .ok f =>
        if owns && notOwner s f then .error (.cause 0x0E ((encodeWord i).setWidth 64))
        else match body t (reachForest s t f) f with
          | .error e => .error e
          | .ok (s, .ok v) => returns s d v
          | .ok (s, .error (cause, val)) => .ok (s, .after cause (BitVec.ofNat 64 val) false)

/-- An element index out of range (R253). -/
def indexBad (f : Forest) (x : Nat) : Option Stop := if f.n ≤ x then some (.cause 0x05 (BitVec.ofNat 64 x)) else none

/-- An element index of a register. -/
def eqIndex (t : Thread) (a : BitVec 5) : Nat := bitsOf (t.s a.toNat) 31 0

/-- Two roots are linked: the larger under the smaller, with its size moved and logged (R258). -/
def link (s : State) (t : Thread) (f : Forest) (lo hi : Nat) : State :=
  let s1 := putDesc (arrayPut s t f.par (4 * hi) 4 lo) t f 0x10 4 (f.classes + 2 ^ 32 - 1)
  let moved := arrayGet s1 t f.size (4 * hi) 4
  let s2 := arrayPut s1 t f.size (4 * hi) 4 0
  let s3 := if f.snap then
      putDesc (arrayPut s2 t f.log (8 * f.loghead) 8 (hi + moved * 2 ^ 32)) t f 0x0C 4 (f.loghead + 1)
    else s2
  if moved = 0 then s3 else arrayPut s3 t f.size (4 * lo) 4 (arrayGet s3 t f.size (4 * lo) 4 + moved)

/-- EQUNITE (R258), whole in one step. -/
def execEqunite (d a b : BitVec 5) (fc : BitVec 4) (s : State) : Host.Outcome State Fault Refusal :=
  eqMember (.equnite d a b fc) d fc (fun f => f.snap) true s fun t s f =>
    let x := eqIndex t a
    let y := eqIndex t b
    match indexBad f x, indexBad f y with
    | some e, _ => .error e
    | none, some e => .error e
    | none, none =>
      match findRoot t f f.n s x with
      | (s1, .error z) => .ok (s1, .error (0x05, z))
      | (s1, .ok rx) =>
        match findRoot t f f.n s1 y with
        | (s2, .error z) => .ok (s2, .error (0x05, z))
        | (s2, .ok ry) =>
          let lo := min rx ry
          if rx = ry then .ok (s2, .ok (BitVec.ofNat 64 rx))
          else if f.snap && f.loghead = f.loglen then .ok (s2, .ok (BitVec.ofNat 64 (lo + 2 ^ 62)))
          else .ok (link s2 t f lo (max rx ry), .ok (BitVec.ofNat 64 (lo + 2 ^ 63)))

/-- EQFIND (R259). -/
def execEqfind (d a : BitVec 5) (fc : BitVec 4) (s : State) : Host.Outcome State Fault Refusal :=
  eqMember (.eqfind d a fc) d fc (fun _ => false) true s fun t s f =>
    match indexBad f (eqIndex t a) with
    | some e => .error e
    | none =>
      match findRoot t f f.n s (eqIndex t a) with
      | (s1, .error z) => .ok (s1, .error (0x05, z))
      | (s1, .ok r) => .ok (s1, .ok (BitVec.ofNat 64 r))

/-- EQSIZE (R259). -/
def execEqsize (d a : BitVec 5) (fc : BitVec 4) (s : State) : Host.Outcome State Fault Refusal :=
  eqMember (.eqsize d a fc) d fc (fun _ => false) true s fun t s f =>
    match indexBad f (eqIndex t a) with
    | some e => .error e
    | none =>
      match findRoot t f f.n s (eqIndex t a) with
      | (s1, .error z) => .ok (s1, .error (0x05, z))
      | (s1, .ok r) => .ok (s1, .ok (BitVec.ofNat 64 (arrayGet s1 t f.size (4 * r) 4 + r * 2 ^ 32)))

/-- EQSNAP (R261). -/
def execEqsnap (d a : BitVec 5) (fc : BitVec 4) (s : State) : Host.Outcome State Fault Refusal :=
  eqMember (.eqsnap d a fc) d fc (fun _ => false) true s fun t s f =>
    let flags := getF f.d 0x03 1
    if (t.s a.toNat).getLsbD 0 then
      .ok (putDesc (putDesc s t f 0x03 1 (flags / 2 * 2)) t f 0x0C 4 0, .ok (BitVec.ofNat 64 f.loghead))
    else .ok (putDesc s t f 0x03 1 (flags / 2 * 2 + 1), .ok (BitVec.ofNat 64 f.loghead))

/-- The log entry at a position: the linked root, the size moved with it. -/
def logAt (s : State) (t : Thread) (f : Forest) (k : Nat) : Nat × Nat :=
  let w := arrayGet s t f.log (8 * k) 8
  (w % 2 ^ 32, w / 2 ^ 32)

/-- The first log entry or parent at or above N, in descending log order, below position k and not below t (R262). -/
def undoBad (s : State) (t : Thread) (f : Forest) (lo : Nat) : Nat → Option Nat
  | 0 => none
  | k + 1 =>
    if k < lo then none
    else
      let hi := (logAt s t f k).1
      if f.n ≤ hi then some hi
      else
        let p := parentOf s t f hi
        if f.n ≤ p then some p else undoBad s t f lo k

/-- One union undone (R262). -/
def undo1 (s : State) (t : Thread) (f : Forest) (k : Nat) : State :=
  let (hi, moved) := logAt s t f k
  let lo := parentOf s t f hi
  let s1 := arrayPut s t f.par (4 * hi) 4 hi
  let s2 := arrayPut s1 t f.size (4 * lo) 4 (arrayGet s1 t f.size (4 * lo) 4 + 2 ^ 32 - moved)
  arrayPut s2 t f.size (4 * hi) 4 moved

/-- Unions undone from a position down to a target. -/
def undoDown (s : State) (t : Thread) (f : Forest) (lo : Nat) : Nat → State
  | 0 => s
  | k + 1 => if k < lo then s else undoDown (undo1 s t f k) t f lo k

/-- EQUNDO (R262): with nothing to undo it does nothing. -/
def execEqundo (d a : BitVec 5) (fc : BitVec 4) (s : State) : Host.Outcome State Fault Refusal :=
  let i := Instr.equndo d a fc
  eqMember i d fc (fun _ => true) true s fun t s f =>
    let lo := eqIndex t a
    if !f.owned then .error (.cause 0x0E ((encodeWord i).setWidth 64))
    else if f.loghead < lo then .error (.cause 0x05 (BitVec.ofNat 64 lo))
    else if f.loghead = lo then .ok (s, .ok 0)
    else match undoBad s t f lo f.loghead with
      | some v => .error (.cause 0x05 (BitVec.ofNat 64 v))
      | none =>
        let u := f.loghead - lo
        let s1 := undoDown s t f lo f.loghead
        .ok (putDesc (putDesc s1 t f 0x0C 4 lo) t f 0x10 4 (f.classes + u), .ok (BitVec.ofNat 64 u))

/-- EQSTAT (R263). -/
def execEqstat (d a : BitVec 5) (fc : BitVec 4) (s : State) : Host.Outcome State Fault Refusal :=
  eqMember (.eqstat d a fc) d fc (fun _ => false) false s fun t s f =>
    .ok (s, .ok (BitVec.ofNat 64 (match bitsOf (t.s a.toNat) 3 0 with
      | 0 => f.classes
      | 1 => f.loghead
      | 2 => getF f.d 0x03 1
      | 3 => f.n
      | _ => 0)))

/-! ### EQINIT and EQREDUCE: issue (R257, R260) -/

/-- A reserved EQREDUCE command (R260). -/
def reduceBad (w : Word) : Bool :=
  bitsOf w 3 2 = 3 || (bitsOf w 1 0 = 3 && bitsOf w 3 2 = 0) || (bitOf w 4 && bitsOf w 15 8 = noIndex)
    || bitsOf w 7 5 != 0 || bitsOf w 63 16 != 0

/-- Bytes of an element of a reduction's type. -/
def reduceWidth (w : Word) : Nat := if bitsOf w 3 2 = 2 then 8 else 4

/-- The input and the output of a reduction, checked in turn over N elements (R260). -/
def reduceCheck (s : State) (t : Thread) (w : Word) (n : Nat) (input output : Cap) : Option Stop :=
  let e := reduceWidth w
  firstFailing true
    [if bitsOf w 1 0 = 3 then none else arrayCheck s t input (e * n) e permR { r := true },
      arrayCheck s t output (e * n) e permW { w := true }]

/-- The root map of a reduction, checked over N elements. -/
def mapCheck (s : State) (t : Thread) (n : Nat) (map : Cap) : Option Stop :=
  lateCheck (arrayCheck s t map (4 * n) 4 permW { w := true })

/-- The checks of an asynchronous member in their order: the forest, its arrays, those of a reduction, its map; the forest, and the
command with what it has read (R253, R260). An absent page of an array is no failure of the issue: the unit waits for it (R267,
R335). -/
def openCommand (s : State) (t : Thread) (i : Instr) (fc : BitVec 4) (q : LichenCmd) : Except Stop (Forest × LichenCmd) :=
  match readForest s t i fc fun _ => false with
  | .error e => .error e
  | .ok (f, _) =>
    match arraysCheck s t f false true, (if q.reduce then reduceCheck s t q.command f.n q.input q.output else none) with
    | some e, _ => .error e
    | none, some e => .error e
    | none, none =>
      let opened (map : Cap) : LichenCmd :=
        { q with forest := f.cap, parent := f.par, size := f.size, map, n := f.n, opened := true }
      if q.reduce && bitOf q.command 4 then
        match tableEntry s t (bitsOf q.command 15 8) with
        | .error e => .error e
        | .ok map =>
          match mapCheck s t f.n map with
          | some e => .error e
          | none => .ok (f, opened map)
      else .ok (f, opened {})

/-- What the checks of an asynchronous member have reached. -/
def reachCommand (s : State) (t : Thread) (f : Forest) (q : LichenCmd) : State :=
  let s1 := reachForest s t f
  if q.reduce && bitOf q.command 4 then reachEntries s1 t [bitsOf q.command 15 8] else s1

/-- A command enters the cluster's Lichen unit: the thread's earlier accesses are released, the token is claimed. -/
def lichenIssue (s : State) (t : Thread) (d : BitVec 5) (q : LichenCmd) : State :=
  let k := clusterOf s.cur.core
  let s1 := claimMe (drain s s.myPath) d
  let cl := s1.cluster k
  s1.setCluster k { cl with
    lichen := cl.lichen ++
      [{ q with
          loc := s.cur, handle := s.handleOf s.cur, launch := t.launch, rcb := t.rcb, reg := d.toNat
          root := t.c 15, asid := t.asid, crewId := t.crewId }] }

/-- An asynchronous member: its command first, then the checks of R253. Where the page of the descriptor, or of the capability
table, is absent, the command enters the unit unopened, which waits and makes the checks itself (R267, R335). -/
def lichenMember (i : Instr) (d : BitVec 5) (fc : BitVec 4) (bad : Word → Bool) (s : State) (q : Thread → LichenCmd) :
    Host.Outcome State Fault Refusal :=
  issue i s fun t s =>
    if bad (t.s d.toNat) then .error (.cause 0x02 ((encodeWord i).setWidth 64))
    else
      let s := drain s s.myPath
      match openCommand s t i fc (q t) with
      | .error (.page asid va) =>
        .ok (lichenIssue (s.walked asid va) t d { q t with forest := t.c fc.toNat, opened := false }, .next)
      | .error e => .error e
      | .ok (f, c) => .ok (lichenIssue (reachCommand s t f c) t d c, .next)

/-- EQINIT (R257). -/
def execEqinit (d : BitVec 5) (fc : BitVec 4) (s : State) : Host.Outcome State Fault Refusal :=
  lichenMember (.eqinit d fc) d fc (fun w => bitsOf w 63 1 != 0) s fun t => { command := t.s d.toNat }

/-- EQREDUCE (R260). -/
def execEqreduce (d : BitVec 5) (a b : BitVec 4) (fc : BitVec 4) (s : State) : Host.Outcome State Fault Refusal :=
  lichenMember (.eqreduce d a b fc) d fc reduceBad s fun t =>
    { reduce := true, command := t.s d.toNat, input := t.c a.toNat, output := t.c b.toNat }

/-! ### Completion -/

/-- An array element as the unit reaches it, or what stands against it. -/
def lichenPlace (s : State) (k : Nat) (q : LichenCmd) (c : Cap) (off size : Nat) (need : Need) :
    Except (Stop × Nat) Place :=
  let a := c.base + off
  if c.space = 1 && (s.cluster k).padSize < a + size then .error (.cause 0x05 (BitVec.ofNat 64 a), a)
  else match unitPlace s k q.asid c a need with
    | .ok pl => .ok pl
    | .error e => .error (e, a)

/-- An element read by the unit, if it can be reached. -/
def lichenGet (s : State) (k : Nat) (q : LichenCmd) (c : Cap) (off size : Nat) : Option Nat :=
  match lichenPlace s k q c off size { r := true } with
  | .ok pl => some (sideGet s pl size)
  | .error _ => none

/-- An element written by the unit, if it can be reached. -/
def lichenPut (s : State) (k : Nat) (q : LichenCmd) (c : Cap) (off size v : Nat) : State :=
  match lichenPlace s k q c off size { w := true } with
  | .ok pl =>
    let t : Thread := { asid := q.asid, rcb := q.rcb, crewId := q.crewId, launch := q.launch }
    performStore s { storeAt q.loc t pl size (BitVec.ofNat 1024 (v % 256 ^ size)) false with handle := some q.handle }
  | .error _ => s

/-- The first element of a list of accesses that cannot be reached. -/
def lichenBlock (s : State) (k : Nat) (q : LichenCmd) : List (Cap × Nat × Nat × Need) → Option (Stop × Nat)
  | [] => none
  | (c, off, size, need) :: xs =>
    match lichenPlace s k q c off size need with
    | .error e => some e
    | .ok _ => lichenBlock s k q xs

/-- A command ends: its token is filled, it leaves the unit. -/
def endLichen (s : State) (k n : Nat) (q : LichenCmd) (status : Nat) : State :=
  let cl := s.cluster k
  let s1 := s.setCluster k { cl with lichen := cl.lichen.eraseIdx n }
  settle (fillToken s1 q.handle q.reg (BitVec.ofNat 64 status) q.launch q.rcb q.crewId) (coreOf k 0)

/-- A command that cannot reach an element waits for its page or, for 10 ms, its route, or ends with the cause after a subset of its writes, which
`partial'` makes (R257, R260, R335, R405). -/
def lichenStop (s : State) (k n : Nat) (q : LichenCmd) (e : Stop × Nat) (partial' : State → State) : State :=
  match e.1 with
  | .page asid va =>
    let cl := s.cluster k
    pageEvent ((s.setCluster k { cl with lichen := cl.lichen.set n { q with wait := some (asid, va), route := none } }).walked asid va)
      { core := coreOf k 0 } (State.lichenHandle k) 0 q.launch q.rcb va
  | x =>
    let cause := (x.fault?.map fun f => f.1).getD 0x0D
    let stopped := endLichen (statusEntry (partial' (s.reachStop x)) cause q.rcb q.handle (BitVec.ofNat 64 e.2) q.launch q.crewId) k n q cause
    let stay (q : LichenCmd) : State :=
      let cl := s.cluster k
      s.setCluster k { cl with lichen := cl.lichen.set n q }
    match x with
    | .wait (.page asid va) => stay { q with wait := some (asid, va), route := none }
    | .wait _ => routeWait s q.route (fun t => stay { q with route := some t }) stopped
    | _ => stopped

/-- The unit's accesses have reached their lines. -/
def lichenReach (s : State) (k : Nat) (q : LichenCmd) (xs : List (Cap × Nat × Nat × Need)) : State :=
  xs.foldl (fun s x => match lichenPlace s k q x.1 x.2.1 x.2.2.1 x.2.2.2 with
    | .ok pl => s.reachAt pl
    | .error _ => s) s

/-- The issuing thread of a command, as the unit checks its forest for it. -/
def lateThread (s : State) (q : LichenCmd) : Thread :=
  { rid := ridOf s q.rcb, rcb := q.rcb, asid := q.asid, launch := q.launch, caps := [(1, q.forest), (15, q.root)] }

/-- The checks that the unit makes for a command whose forest it could not open at its issue, as for the issuing thread. -/
def openLate (s : State) (q : LichenCmd) : Except Stop (Forest × LichenCmd) :=
  openCommand { s with cur := q.loc } (lateThread s q) (if q.reduce then .eqreduce 1 0 0 1 else .eqinit 1 1) 1 q

/-- A command runs with its forest open. A failure other than an absent page that the unit finds in these checks ends the
command with the cause as its status, since the manual makes them at issue only. DESIGN CHOICE, log 73. -/
def withForest (s : State) (k n : Nat) (q : LichenCmd) (run : State → LichenCmd → State) : State :=
  if q.opened then run s q
  else match openLate s q with
    | .ok (f, c) => run (reachCommand s (lateThread s q) f c) c
    | .error e => lichenStop s k n q (e, q.forest.base) fun s => s

/-- The entries of a fresh forest, those that a test admits. -/
def initEntries (s : State) (k : Nat) (q : LichenCmd) (p : Nat → Bool) : State :=
  (List.range q.n).foldl (fun s i =>
    let s1 := if p (2 * i) then lichenPut s k q q.parent (4 * i) 4 i else s
    if p (2 * i + 1) then lichenPut s1 k q q.size (4 * i) 4 1 else s1) s

/-- EQINIT performed (R257). -/
def runInit (s : State) (k n : Nat) (q : LichenCmd) : State :=
  let rw : Need := { r := true, w := true }
  let all := (q.forest, 0, 64, rw) :: (List.range q.n).flatMap fun i => [(q.parent, 4 * i, 4, rw), (q.size, 4 * i, 4, rw)]
  match lichenBlock s k q all with
  | some e => lichenStop s k n q e fun s => initEntries s k q (Config.written s.tick)
  | none =>
    let s1 := initEntries (lichenReach s k q all) k q fun _ => true
    let s2 := lichenPut (lichenPut s1 k q q.forest 0x10 4 q.n) k q q.forest 0x0C 4 0
    let s3 := lichenPut s2 k q q.forest 0x03 1 (if bitOf q.command 0 then 2 else 0)
    endLichen (if bitOf q.command 0 then lichenPut s3 k q q.forest 0x18 8 q.handle.toNat else s3) k n q 0

/-- The root of an element, without halving: none where its chain reaches no root (R260). -/
def rootOf (s : State) (k : Nat) (q : LichenCmd) : Nat → Nat → Option Nat
  | fuel, x =>
    match lichenGet s k q q.parent (4 * x) 4 with
    | none => none
    | some p =>
      if p = x then some x
      else match fuel with
        | 0 => none
        | fuel + 1 => if q.n ≤ p then none else rootOf s k q fuel p

/-- An element sorted into a list by its key of a free order. -/
def insertBy (key : Nat → Nat) (x : Nat) : List Nat → List Nat
  | [] => [x]
  | y :: ys => if key x < key y then x :: y :: ys else y :: insertBy key x ys

/-- An FP32 value as a result: a NaN is the canonical one, invalid for a signalling one (R57). -/
def quiet32 (x : Nat) : Nat × Nat :=
  let v := fmF32.value x
  if v.isNan then (0x7FC00000, if v.sig then 1 else 0) else (x, 0)

/-- A class's reduction: the value and the flags (R260). FP32 sums add in a free order (log 14). -/
def reduceClass (tick : Nat) (w : Word) (value : Nat → Nat) (xs : List Nat) : Nat × Nat :=
  let bits := 8 * reduceWidth w
  let ints (f : Int → Int → Int) : Nat × Nat :=
    match xs.map fun i => sgn bits (value i) with
    | [] => (0, 0)
    | v :: vs => (wrapTo bits (vs.foldl f v), 0)
  match bitsOf w 1 0, bitsOf w 3 2 with
  | 3, _ => (xs.length % 2 ^ bits, 0)
  | op, 0 =>
    let order := if op = 0 then xs.foldr (insertBy (Config.sumKey tick)) [] else xs
    match order.map value with
    | [] => (0, 0)
    | v :: vs => vs.foldl (fun (a : Nat × Nat) x =>
        let r := if op = 0 then roundFm fmF32 0 0 (exactSum [fmF32.value a.1, fmF32.value x])
          else minMaxFm fmF32 (op == 2) false a.1 x
        (r.1, a.2 ||| r.2)) (quiet32 v)
  | 0, _ => ints (· + ·)
  | 1, _ => ints min
  | _, _ => ints max

/-- The writes of a reduction, those that a test admits: the classes' totals and the root map, with the flags. -/
def reduceWrites (s : State) (k : Nat) (q : LichenCmd) (p : Nat → Bool) : State × Nat :=
  let w := q.command
  let e := reduceWidth w
  let roots : Tab Nat := (List.range q.n).filterMap fun i => (rootOf s k q q.n i).map fun r => (i, r)
  let value (i : Nat) : Option Nat := if bitsOf w 1 0 = 3 then some 0 else lichenGet s k q q.input (e * i) e
  let x := roots.foldl (fun (a : State × Nat) r =>
    if r.1 != r.2 || !p (2 * r.1) then a
    else
      let xs := (roots.filter fun y => y.2 == r.1).map fun y => y.1
      if xs.any fun i => (value i).isNone then a
      else
        let v := reduceClass s.tick w (fun i => (value i).getD 0) xs
        (lichenPut a.1 k q q.output (e * r.1) e v.1, a.2 ||| v.2)) (s, 0)
  if !bitOf w 4 then x
  else (roots.foldl (fun s r => if p (2 * r.1 + 1) then lichenPut s k q q.map (4 * r.1) 4 r.2 else s) x.1, x.2)

/-- EQREDUCE performed (R260). One that a failure stops sets none of the flags of the additions already made; the manual speaks of
completion only. DESIGN CHOICE, log 15. -/
def runReduce (s : State) (k n : Nat) (q : LichenCmd) : State :=
  let w := q.command
  let e := reduceWidth w
  let all : List (Cap × Nat × Nat × Need) := (List.range q.n).flatMap fun i =>
    [(q.parent, 4 * i, 4, { r := true })] ++ (if bitsOf w 1 0 = 3 then [] else [(q.input, e * i, e, { r := true })])
      ++ [(q.output, e * i, e, { w := true })] ++ (if bitOf w 4 then [(q.map, 4 * i, 4, { w := true })] else [])
  let partly (s : State) : State := (reduceWrites s k q (Config.written s.tick)).1
  match lichenBlock s k q all with
  | some x => lichenStop s k n q x partly
  | none =>
    match (List.range q.n).find? fun i => (rootOf s k q q.n i).isNone with
    | some i =>
      endLichen (statusEntry (partly s) 0x05 q.rcb q.handle (BitVec.ofNat 64 i) q.launch q.crewId) k n q 0x05
    | none =>
      let x := reduceWrites (lichenReach s k q all) k q fun _ => true
      endLichen (noteFlags x.1 q.handle q.launch (BitVec.ofNat 64 (x.2 % 32))) k n q 0

/-- A command of a cluster's Lichen unit that waits for no page completes. -/
def lichenEvent (s : State) (reduce : Bool) (run : State → Nat → Nat → LichenCmd → State) :
    Host.Outcome State Fault Refusal :=
  let k := s.cue.a
  match (s.cluster k).lichen[s.cue.b]? with
  | none => outside s
  | some q => if q.wait.isSome || q.reduce != reduce then outside s else outside (withForest s k s.cue.b q fun u c => run u k s.cue.b c)

/-- EQINIT_COMPLETION (R257). -/
def execEqinitCompletion (s : State) : Host.Outcome State Fault Refusal := lichenEvent s false runInit

/-- EQREDUCE_COMPLETION (R260). -/
def execEqreduceCompletion (s : State) : Host.Outcome State Fault Refusal := lichenEvent s true runReduce

end Sys2Proof.Machine
end

