-- ==== Sys2Proof/Machine/Vector.lean ====
section
/-!
DEFINITION. The vector and special-function members (majors 0x22 to 0x2C): each once, under the prefix it is given.
-/

namespace Sys2Proof.Machine

/-- VADD: the sum of each active element (R177, R178). -/
def runVadd (px : Px) (d : BitVec 5) (a : BitVec 5) (b : BitVec 5) (t : BitVec 3) (s : State) : Host.Outcome State Fault Refusal :=
  vop px .add (.vadd d a b t) d a b t s

/-- VADD without a prefix. -/
def execVadd (d : BitVec 5) (a : BitVec 5) (b : BitVec 5) (t : BitVec 3) (s : State) : Host.Outcome State Fault Refusal := runVadd {} d a b t s

/-- VSUB: the difference of each active element (R177, R178). -/
def runVsub (px : Px) (d : BitVec 5) (a : BitVec 5) (b : BitVec 5) (t : BitVec 3) (s : State) : Host.Outcome State Fault Refusal :=
  vop px .sub (.vsub d a b t) d a b t s

/-- VSUB without a prefix. -/
def execVsub (d : BitVec 5) (a : BitVec 5) (b : BitVec 5) (t : BitVec 3) (s : State) : Host.Outcome State Fault Refusal := runVsub {} d a b t s

/-- VMUL: the product of each active element (R177, R178). -/
def runVmul (px : Px) (d : BitVec 5) (a : BitVec 5) (b : BitVec 5) (t : BitVec 3) (s : State) : Host.Outcome State Fault Refusal :=
  vop px .mul (.vmul d a b t) d a b t s

/-- VMUL without a prefix. -/
def execVmul (d : BitVec 5) (a : BitVec 5) (b : BitVec 5) (t : BitVec 3) (s : State) : Host.Outcome State Fault Refusal := runVmul {} d a b t s

/-- VMULH: the high half of the signed product of each active element (R177, R178). -/
def runVmulh (px : Px) (d : BitVec 5) (a : BitVec 5) (b : BitVec 5) (t : BitVec 3) (s : State) : Host.Outcome State Fault Refusal :=
  vop px .mulh (.vmulh d a b t) d a b t s

/-- VMULH without a prefix. -/
def execVmulh (d : BitVec 5) (a : BitVec 5) (b : BitVec 5) (t : BitVec 3) (s : State) : Host.Outcome State Fault Refusal := runVmulh {} d a b t s

/-- VMIN: the smaller (R72), signed for integers of each active element (R177, R178). -/
def runVmin (px : Px) (d : BitVec 5) (a : BitVec 5) (b : BitVec 5) (t : BitVec 3) (s : State) : Host.Outcome State Fault Refusal :=
  vop px .min (.vmin d a b t) d a b t s

/-- VMIN without a prefix. -/
def execVmin (d : BitVec 5) (a : BitVec 5) (b : BitVec 5) (t : BitVec 3) (s : State) : Host.Outcome State Fault Refusal := runVmin {} d a b t s

/-- VMAX: the larger (R72), signed for integers of each active element (R177, R178). -/
def runVmax (px : Px) (d : BitVec 5) (a : BitVec 5) (b : BitVec 5) (t : BitVec 3) (s : State) : Host.Outcome State Fault Refusal :=
  vop px .max (.vmax d a b t) d a b t s

/-- VMAX without a prefix. -/
def execVmax (d : BitVec 5) (a : BitVec 5) (b : BitVec 5) (t : BitVec 3) (s : State) : Host.Outcome State Fault Refusal := runVmax {} d a b t s

/-- VMINU: the unsigned smaller of each active element (R177, R178). -/
def runVminu (px : Px) (d : BitVec 5) (a : BitVec 5) (b : BitVec 5) (t : BitVec 3) (s : State) : Host.Outcome State Fault Refusal :=
  vop px .minu (.vminu d a b t) d a b t s

/-- VMINU without a prefix. -/
def execVminu (d : BitVec 5) (a : BitVec 5) (b : BitVec 5) (t : BitVec 3) (s : State) : Host.Outcome State Fault Refusal := runVminu {} d a b t s

/-- VMAXU: the unsigned larger of each active element (R177, R178). -/
def runVmaxu (px : Px) (d : BitVec 5) (a : BitVec 5) (b : BitVec 5) (t : BitVec 3) (s : State) : Host.Outcome State Fault Refusal :=
  vop px .maxu (.vmaxu d a b t) d a b t s

/-- VMAXU without a prefix. -/
def execVmaxu (d : BitVec 5) (a : BitVec 5) (b : BitVec 5) (t : BitVec 3) (s : State) : Host.Outcome State Fault Refusal := runVmaxu {} d a b t s

/-- VAND: the conjunction of bits of each active element (R177, R178). -/
def runVand (px : Px) (d : BitVec 5) (a : BitVec 5) (b : BitVec 5) (t : BitVec 3) (s : State) : Host.Outcome State Fault Refusal :=
  vop px .and (.vand d a b t) d a b t s

/-- VAND without a prefix. -/
def execVand (d : BitVec 5) (a : BitVec 5) (b : BitVec 5) (t : BitVec 3) (s : State) : Host.Outcome State Fault Refusal := runVand {} d a b t s

/-- VOR: the disjunction of bits of each active element (R177, R178). -/
def runVor (px : Px) (d : BitVec 5) (a : BitVec 5) (b : BitVec 5) (t : BitVec 3) (s : State) : Host.Outcome State Fault Refusal :=
  vop px .or (.vor d a b t) d a b t s

/-- VOR without a prefix. -/
def execVor (d : BitVec 5) (a : BitVec 5) (b : BitVec 5) (t : BitVec 3) (s : State) : Host.Outcome State Fault Refusal := runVor {} d a b t s

/-- VXOR: the exclusive disjunction of bits of each active element (R177, R178). -/
def runVxor (px : Px) (d : BitVec 5) (a : BitVec 5) (b : BitVec 5) (t : BitVec 3) (s : State) : Host.Outcome State Fault Refusal :=
  vop px .xor (.vxor d a b t) d a b t s

/-- VXOR without a prefix. -/
def execVxor (d : BitVec 5) (a : BitVec 5) (b : BitVec 5) (t : BitVec 3) (s : State) : Host.Outcome State Fault Refusal := runVxor {} d a b t s

/-- VSHL: the left shift of each active element (R177, R178). -/
def runVshl (px : Px) (d : BitVec 5) (a : BitVec 5) (b : BitVec 5) (t : BitVec 3) (s : State) : Host.Outcome State Fault Refusal :=
  vop px .shl (.vshl d a b t) d a b t s

/-- VSHL without a prefix. -/
def execVshl (d : BitVec 5) (a : BitVec 5) (b : BitVec 5) (t : BitVec 3) (s : State) : Host.Outcome State Fault Refusal := runVshl {} d a b t s

/-- VSHR: the right shift with zeros of each active element (R177, R178). -/
def runVshr (px : Px) (d : BitVec 5) (a : BitVec 5) (b : BitVec 5) (t : BitVec 3) (s : State) : Host.Outcome State Fault Refusal :=
  vop px .shr (.vshr d a b t) d a b t s

/-- VSHR without a prefix. -/
def execVshr (d : BitVec 5) (a : BitVec 5) (b : BitVec 5) (t : BitVec 3) (s : State) : Host.Outcome State Fault Refusal := runVshr {} d a b t s

/-- VSRA: the right shift with the sign of each active element (R177, R178). -/
def runVsra (px : Px) (d : BitVec 5) (a : BitVec 5) (b : BitVec 5) (t : BitVec 3) (s : State) : Host.Outcome State Fault Refusal :=
  vop px .sra (.vsra d a b t) d a b t s

/-- VSRA without a prefix. -/
def execVsra (d : BitVec 5) (a : BitVec 5) (b : BitVec 5) (t : BitVec 3) (s : State) : Host.Outcome State Fault Refusal := runVsra {} d a b t s

/-- VFMA: the product and addend of each active element (R177, R178). -/
def runVfma (px : Px) (d : BitVec 5) (a : BitVec 5) (b : BitVec 5) (t : BitVec 3) (s : State) : Host.Outcome State Fault Refusal :=
  vop px .fma (.vfma d a b t) d a b t s

/-- VFMA without a prefix. -/
def execVfma (d : BitVec 5) (a : BitVec 5) (b : BitVec 5) (t : BitVec 3) (s : State) : Host.Outcome State Fault Refusal := runVfma {} d a b t s

/-- VABS: the absolute value of each active element (R177, R178). -/
def runVabs (px : Px) (d : BitVec 5) (a : BitVec 5) (t : BitVec 3) (s : State) : Host.Outcome State Fault Refusal :=
  vop1 px .abs (.vabs d a t) d a t s

/-- VABS without a prefix. -/
def execVabs (d : BitVec 5) (a : BitVec 5) (t : BitVec 3) (s : State) : Host.Outcome State Fault Refusal := runVabs {} d a t s

/-- VNEG: the negation of each active element (R177, R178). -/
def runVneg (px : Px) (d : BitVec 5) (a : BitVec 5) (t : BitVec 3) (s : State) : Host.Outcome State Fault Refusal :=
  vop1 px .neg (.vneg d a t) d a t s

/-- VNEG without a prefix. -/
def execVneg (d : BitVec 5) (a : BitVec 5) (t : BitVec 3) (s : State) : Host.Outcome State Fault Refusal := runVneg {} d a t s

/-- VMINN: the smaller, a NaN propagated (R72) of each active element (R177, R178). -/
def runVminn (px : Px) (d : BitVec 5) (a : BitVec 5) (b : BitVec 5) (t : BitVec 3) (s : State) : Host.Outcome State Fault Refusal :=
  vop px .minn (.vminn d a b t) d a b t s

/-- VMINN without a prefix. -/
def execVminn (d : BitVec 5) (a : BitVec 5) (b : BitVec 5) (t : BitVec 3) (s : State) : Host.Outcome State Fault Refusal := runVminn {} d a b t s

/-- VMAXN: the larger, a NaN propagated (R72) of each active element (R177, R178). -/
def runVmaxn (px : Px) (d : BitVec 5) (a : BitVec 5) (b : BitVec 5) (t : BitVec 3) (s : State) : Host.Outcome State Fault Refusal :=
  vop px .maxn (.vmaxn d a b t) d a b t s

/-- VMAXN without a prefix. -/
def execVmaxn (d : BitVec 5) (a : BitVec 5) (b : BitVec 5) (t : BitVec 3) (s : State) : Host.Outcome State Fault Refusal := runVmaxn {} d a b t s

/-- VADD with a scalar in every lane: the sum (R177, R178). -/
def runVaddScalar (px : Px) (d : BitVec 5) (a : BitVec 5) (b : BitVec 5) (t : BitVec 3) (s : State) : Host.Outcome State Fault Refusal :=
  vops px .add (.vaddScalar d a b t) d a b t s

/-- VADD_SCALAR without a prefix. -/
def execVaddScalar (d : BitVec 5) (a : BitVec 5) (b : BitVec 5) (t : BitVec 3) (s : State) : Host.Outcome State Fault Refusal := runVaddScalar {} d a b t s

/-- VSUB with a scalar in every lane: the difference (R177, R178). -/
def runVsubScalar (px : Px) (d : BitVec 5) (a : BitVec 5) (b : BitVec 5) (t : BitVec 3) (s : State) : Host.Outcome State Fault Refusal :=
  vops px .sub (.vsubScalar d a b t) d a b t s

/-- VSUB_SCALAR without a prefix. -/
def execVsubScalar (d : BitVec 5) (a : BitVec 5) (b : BitVec 5) (t : BitVec 3) (s : State) : Host.Outcome State Fault Refusal := runVsubScalar {} d a b t s

/-- VMUL with a scalar in every lane: the product (R177, R178). -/
def runVmulScalar (px : Px) (d : BitVec 5) (a : BitVec 5) (b : BitVec 5) (t : BitVec 3) (s : State) : Host.Outcome State Fault Refusal :=
  vops px .mul (.vmulScalar d a b t) d a b t s

/-- VMUL_SCALAR without a prefix. -/
def execVmulScalar (d : BitVec 5) (a : BitVec 5) (b : BitVec 5) (t : BitVec 3) (s : State) : Host.Outcome State Fault Refusal := runVmulScalar {} d a b t s

/-- VMULH with a scalar in every lane: the high half of the signed product (R177, R178). -/
def runVmulhScalar (px : Px) (d : BitVec 5) (a : BitVec 5) (b : BitVec 5) (t : BitVec 3) (s : State) : Host.Outcome State Fault Refusal :=
  vops px .mulh (.vmulhScalar d a b t) d a b t s

/-- VMULH_SCALAR without a prefix. -/
def execVmulhScalar (d : BitVec 5) (a : BitVec 5) (b : BitVec 5) (t : BitVec 3) (s : State) : Host.Outcome State Fault Refusal := runVmulhScalar {} d a b t s

/-- VMIN with a scalar in every lane: the smaller (R72), signed for integers (R177, R178). -/
def runVminScalar (px : Px) (d : BitVec 5) (a : BitVec 5) (b : BitVec 5) (t : BitVec 3) (s : State) : Host.Outcome State Fault Refusal :=
  vops px .min (.vminScalar d a b t) d a b t s

/-- VMIN_SCALAR without a prefix. -/
def execVminScalar (d : BitVec 5) (a : BitVec 5) (b : BitVec 5) (t : BitVec 3) (s : State) : Host.Outcome State Fault Refusal := runVminScalar {} d a b t s

/-- VMAX with a scalar in every lane: the larger (R72), signed for integers (R177, R178). -/
def runVmaxScalar (px : Px) (d : BitVec 5) (a : BitVec 5) (b : BitVec 5) (t : BitVec 3) (s : State) : Host.Outcome State Fault Refusal :=
  vops px .max (.vmaxScalar d a b t) d a b t s

/-- VMAX_SCALAR without a prefix. -/
def execVmaxScalar (d : BitVec 5) (a : BitVec 5) (b : BitVec 5) (t : BitVec 3) (s : State) : Host.Outcome State Fault Refusal := runVmaxScalar {} d a b t s

/-- VMINU with a scalar in every lane: the unsigned smaller (R177, R178). -/
def runVminuScalar (px : Px) (d : BitVec 5) (a : BitVec 5) (b : BitVec 5) (t : BitVec 3) (s : State) : Host.Outcome State Fault Refusal :=
  vops px .minu (.vminuScalar d a b t) d a b t s

/-- VMINU_SCALAR without a prefix. -/
def execVminuScalar (d : BitVec 5) (a : BitVec 5) (b : BitVec 5) (t : BitVec 3) (s : State) : Host.Outcome State Fault Refusal := runVminuScalar {} d a b t s

/-- VMAXU with a scalar in every lane: the unsigned larger (R177, R178). -/
def runVmaxuScalar (px : Px) (d : BitVec 5) (a : BitVec 5) (b : BitVec 5) (t : BitVec 3) (s : State) : Host.Outcome State Fault Refusal :=
  vops px .maxu (.vmaxuScalar d a b t) d a b t s

/-- VMAXU_SCALAR without a prefix. -/
def execVmaxuScalar (d : BitVec 5) (a : BitVec 5) (b : BitVec 5) (t : BitVec 3) (s : State) : Host.Outcome State Fault Refusal := runVmaxuScalar {} d a b t s

/-- VAND with a scalar in every lane: the conjunction of bits (R177, R178). -/
def runVandScalar (px : Px) (d : BitVec 5) (a : BitVec 5) (b : BitVec 5) (t : BitVec 3) (s : State) : Host.Outcome State Fault Refusal :=
  vops px .and (.vandScalar d a b t) d a b t s

/-- VAND_SCALAR without a prefix. -/
def execVandScalar (d : BitVec 5) (a : BitVec 5) (b : BitVec 5) (t : BitVec 3) (s : State) : Host.Outcome State Fault Refusal := runVandScalar {} d a b t s

/-- VOR with a scalar in every lane: the disjunction of bits (R177, R178). -/
def runVorScalar (px : Px) (d : BitVec 5) (a : BitVec 5) (b : BitVec 5) (t : BitVec 3) (s : State) : Host.Outcome State Fault Refusal :=
  vops px .or (.vorScalar d a b t) d a b t s

/-- VOR_SCALAR without a prefix. -/
def execVorScalar (d : BitVec 5) (a : BitVec 5) (b : BitVec 5) (t : BitVec 3) (s : State) : Host.Outcome State Fault Refusal := runVorScalar {} d a b t s

/-- VXOR with a scalar in every lane: the exclusive disjunction of bits (R177, R178). -/
def runVxorScalar (px : Px) (d : BitVec 5) (a : BitVec 5) (b : BitVec 5) (t : BitVec 3) (s : State) : Host.Outcome State Fault Refusal :=
  vops px .xor (.vxorScalar d a b t) d a b t s

/-- VXOR_SCALAR without a prefix. -/
def execVxorScalar (d : BitVec 5) (a : BitVec 5) (b : BitVec 5) (t : BitVec 3) (s : State) : Host.Outcome State Fault Refusal := runVxorScalar {} d a b t s

/-- VSHL with a scalar in every lane: the left shift (R177, R178). -/
def runVshlScalar (px : Px) (d : BitVec 5) (a : BitVec 5) (b : BitVec 5) (t : BitVec 3) (s : State) : Host.Outcome State Fault Refusal :=
  vops px .shl (.vshlScalar d a b t) d a b t s

/-- VSHL_SCALAR without a prefix. -/
def execVshlScalar (d : BitVec 5) (a : BitVec 5) (b : BitVec 5) (t : BitVec 3) (s : State) : Host.Outcome State Fault Refusal := runVshlScalar {} d a b t s

/-- VSHR with a scalar in every lane: the right shift with zeros (R177, R178). -/
def runVshrScalar (px : Px) (d : BitVec 5) (a : BitVec 5) (b : BitVec 5) (t : BitVec 3) (s : State) : Host.Outcome State Fault Refusal :=
  vops px .shr (.vshrScalar d a b t) d a b t s

/-- VSHR_SCALAR without a prefix. -/
def execVshrScalar (d : BitVec 5) (a : BitVec 5) (b : BitVec 5) (t : BitVec 3) (s : State) : Host.Outcome State Fault Refusal := runVshrScalar {} d a b t s

/-- VSRA with a scalar in every lane: the right shift with the sign (R177, R178). -/
def runVsraScalar (px : Px) (d : BitVec 5) (a : BitVec 5) (b : BitVec 5) (t : BitVec 3) (s : State) : Host.Outcome State Fault Refusal :=
  vops px .sra (.vsraScalar d a b t) d a b t s

/-- VSRA_SCALAR without a prefix. -/
def execVsraScalar (d : BitVec 5) (a : BitVec 5) (b : BitVec 5) (t : BitVec 3) (s : State) : Host.Outcome State Fault Refusal := runVsraScalar {} d a b t s

/-- VFMA with a scalar in every lane: the product and addend (R177, R178). -/
def runVfmaScalar (px : Px) (d : BitVec 5) (a : BitVec 5) (b : BitVec 5) (t : BitVec 3) (s : State) : Host.Outcome State Fault Refusal :=
  vops px .fma (.vfmaScalar d a b t) d a b t s

/-- VFMA_SCALAR without a prefix. -/
def execVfmaScalar (d : BitVec 5) (a : BitVec 5) (b : BitVec 5) (t : BitVec 3) (s : State) : Host.Outcome State Fault Refusal := runVfmaScalar {} d a b t s

/-- VMINN with a scalar in every lane: the smaller, a NaN propagated (R72) (R177, R178). -/
def runVminnScalar (px : Px) (d : BitVec 5) (a : BitVec 5) (b : BitVec 5) (t : BitVec 3) (s : State) : Host.Outcome State Fault Refusal :=
  vops px .minn (.vminnScalar d a b t) d a b t s

/-- VMINN_SCALAR without a prefix. -/
def execVminnScalar (d : BitVec 5) (a : BitVec 5) (b : BitVec 5) (t : BitVec 3) (s : State) : Host.Outcome State Fault Refusal := runVminnScalar {} d a b t s

/-- VMAXN with a scalar in every lane: the larger, a NaN propagated (R72) (R177, R178). -/
def runVmaxnScalar (px : Px) (d : BitVec 5) (a : BitVec 5) (b : BitVec 5) (t : BitVec 3) (s : State) : Host.Outcome State Fault Refusal :=
  vops px .maxn (.vmaxnScalar d a b t) d a b t s

/-- VMAXN_SCALAR without a prefix. -/
def execVmaxnScalar (d : BitVec 5) (a : BitVec 5) (b : BitVec 5) (t : BitVec 3) (s : State) : Host.Outcome State Fault Refusal := runVmaxnScalar {} d a b t s

/-- VCMP: a mask bit for each word lane (R179, R180). -/
def runVcmp (px : Px) (k : BitVec 3) (a : BitVec 5) (b : BitVec 5) (t : BitVec 3) (n : BitVec 1) (c : BitVec 5) (s : State) : Host.Outcome State Fault Refusal :=
  vcmp px (.vcmp k a b t n c) k a b t n c s

/-- VCMP without a prefix. -/
def execVcmp (k : BitVec 3) (a : BitVec 5) (b : BitVec 5) (t : BitVec 3) (n : BitVec 1) (c : BitVec 5) (s : State) : Host.Outcome State Fault Refusal := runVcmp {} k a b t n c s

/-- VPERMB: bytes picked by unsigned byte indices (R181). -/
def runVpermb (px : Px) (d : BitVec 5) (a : BitVec 5) (b : BitVec 5) (s : State) : Host.Outcome State Fault Refusal :=
  vectorMember px (.vpermb d a b) d [a.toNat, b.toNat] s fun t _ vs =>
    .ok (lanes px t 8 (regOf vs d) false fun j => (elem 8 (regOf vs b) (elem 8 (regOf vs a) j), 0))

/-- VPERMB without a prefix. -/
def execVpermb (d : BitVec 5) (a : BitVec 5) (b : BitVec 5) (s : State) : Host.Outcome State Fault Refusal := runVpermb {} d a b s

/-- VSHUF: elements picked by unsigned indices modulo the element count (R181). -/
def runVshuf (px : Px) (d : BitVec 5) (a : BitVec 5) (b : BitVec 5) (t : BitVec 3) (s : State) : Host.Outcome State Fault Refusal :=
  vectorMember px (.vshuf d a b t) d [a.toNat, b.toNat] s fun th s vs =>
    let y := tyOf s th t
    .ok (lanes px th y.w (regOf vs d) false fun j => (elem y.w (regOf vs b) (elem y.w (regOf vs a) j % y.count), 0))

/-- VSHUF without a prefix. -/
def execVshuf (d : BitVec 5) (a : BitVec 5) (b : BitVec 5) (t : BitVec 3) (s : State) : Host.Outcome State Fault Refusal := runVshuf {} d a b t s

/-- VBCAST: the low bits of a scalar in every active element (R181). -/
def runVbcast (px : Px) (d : BitVec 5) (a : BitVec 5) (t : BitVec 3) (s : State) : Host.Outcome State Fault Refusal :=
  vectorMember px (.vbcast d a t) d [] s fun th s vs =>
    let y := tyOf s th t
    .ok (lanes px th y.w (regOf vs d) false fun _ => ((th.s a.toNat).toNat % 2 ^ y.w, 0))

/-- VBCAST without a prefix. -/
def execVbcast (d : BitVec 5) (a : BitVec 5) (t : BitVec 3) (s : State) : Host.Outcome State Fault Refusal := runVbcast {} d a t s

/-- VSLIDE: element j from element j + n, zero outside the register (R181). -/
def runVslide (px : Px) (d : BitVec 5) (a : BitVec 5) (b : BitVec 5) (t : BitVec 3) (s : State) : Host.Outcome State Fault Refusal :=
  vectorMember px (.vslide d a b t) d [a.toNat] s fun th s vs =>
    let y := tyOf s th t
    let n := (th.s b.toNat).toInt
    .ok (lanes px th y.w (regOf vs d) false fun j =>
      let k : Int := j + n
      (if 0 ≤ k && k < y.count then elem y.w (regOf vs a) k.toNat else 0, 0))

/-- VSLIDE without a prefix. -/
def execVslide (d : BitVec 5) (a : BitVec 5) (b : BitVec 5) (t : BitVec 3) (s : State) : Host.Outcome State Fault Refusal := runVslide {} d a b t s

/-- VEXTR: one element to a scalar, zero for an index outside the register; the destination is held for eight cycles (R176,
R181). -/
def runVextr (px : Px) (d : BitVec 5) (a : BitVec 5) (b : BitVec 5) (t : BitVec 3) (s : State) : Host.Outcome State Fault Refusal :=
  issueP px (.vextr d a b t) s fun th s =>
    match readVectors s [a.toNat] with
    | .error e => .error e
    | .ok (s, vs) =>
      let y := tyOf s th t
      let n := (th.s b.toNat).toNat
      let x := elem y.w (regOf vs a) n
      let v : Word := if y.count ≤ n then 0 else if y.fm.isNone then BitVec.ofInt 64 (sgn y.w x) else BitVec.ofNat 64 x
      .ok (holdS s d.toNat v (some (s.cycle + 8)), .next)

/-- VEXTR without a prefix. -/
def execVextr (d : BitVec 5) (a : BitVec 5) (b : BitVec 5) (t : BitVec 3) (s : State) : Host.Outcome State Fault Refusal := runVextr {} d a b t s

/-- VINS: one element replaced by the low bits of a scalar, the other active ones as they were (R181). An index at or above L, which
"has no effect", writes no element; zeroing still clears the inactive ones, and a bound store stream is pushed one register-load.
DEDUCED, log 24. -/
def runVins (px : Px) (d : BitVec 5) (a : BitVec 5) (b : BitVec 5) (t : BitVec 3) (s : State) : Host.Outcome State Fault Refusal :=
  vectorMember px (.vins d a b t) d [d.toNat] s fun th s vs =>
    let y := tyOf s th t
    let n := (th.s b.toNat).toNat
    .ok (lanes px th y.w (regOf vs d) false fun j =>
      (if j = n then (th.s a.toNat).toNat % 2 ^ y.w else elem y.w (regOf vs d) j, 0))

/-- VINS without a prefix. -/
def execVins (d : BitVec 5) (a : BitVec 5) (b : BitVec 5) (t : BitVec 3) (s : State) : Host.Outcome State Fault Refusal := runVins {} d a b t s

/-- VREDSUM: the sum of the active elements (R182). -/
def runVredsum (px : Px) (d : BitVec 5) (a : BitVec 5) (t : BitVec 3) (s : State) : Host.Outcome State Fault Refusal :=
  vred px (.vredsum d a t) d a t s fun th y xs => reduceSum y th (effRm px th) xs

/-- VREDSUM without a prefix. -/
def execVredsum (d : BitVec 5) (a : BitVec 5) (t : BitVec 3) (s : State) : Host.Outcome State Fault Refusal := runVredsum {} d a t s

/-- VREDMAX: the largest active element (R182). -/
def runVredmax (px : Px) (d : BitVec 5) (a : BitVec 5) (t : BitVec 3) (s : State) : Host.Outcome State Fault Refusal :=
  vred px (.vredmax d a t) d a t s fun _ y xs => let r := reduceBest true y xs; (r.1, r.2, false)

/-- VREDMAX without a prefix. -/
def execVredmax (d : BitVec 5) (a : BitVec 5) (t : BitVec 3) (s : State) : Host.Outcome State Fault Refusal := runVredmax {} d a t s

/-- VREDMIN: the smallest active element (R182). -/
def runVredmin (px : Px) (d : BitVec 5) (a : BitVec 5) (t : BitVec 3) (s : State) : Host.Outcome State Fault Refusal :=
  vred px (.vredmin d a t) d a t s fun _ y xs => let r := reduceBest false y xs; (r.1, r.2, false)

/-- VREDMIN without a prefix. -/
def execVredmin (d : BitVec 5) (a : BitVec 5) (t : BitVec 3) (s : State) : Host.Outcome State Fault Refusal := runVredmin {} d a t s

/-- VREDMAXI: the largest active element with its index (R183). -/
def runVredmaxi (px : Px) (d : BitVec 5) (a : BitVec 5) (b : BitVec 5) (t : BitVec 3) (s : State) : Host.Outcome State Fault Refusal :=
  vred px (.vredmaxi d a b t) d a t s fun th y xs =>
    let r := reduceIndex true y ((th.s b.toNat).setWidth 32) xs
    (r.1, r.2, false)

/-- VREDMAXI without a prefix. -/
def execVredmaxi (d : BitVec 5) (a : BitVec 5) (b : BitVec 5) (t : BitVec 3) (s : State) : Host.Outcome State Fault Refusal := runVredmaxi {} d a b t s

/-- VREDMINI: the smallest active element with its index (R183). -/
def runVredmini (px : Px) (d : BitVec 5) (a : BitVec 5) (b : BitVec 5) (t : BitVec 3) (s : State) : Host.Outcome State Fault Refusal :=
  vred px (.vredmini d a b t) d a t s fun th y xs =>
    let r := reduceIndex false y ((th.s b.toNat).setWidth 32) xs
    (r.1, r.2, false)

/-- VREDMINI without a prefix. -/
def execVredmini (d : BitVec 5) (a : BitVec 5) (b : BitVec 5) (t : BitVec 3) (s : State) : Host.Outcome State Fault Refusal := runVredmini {} d a b t s

/-- VSCAN: prefix sums of the active elements (R182). -/
def runVscan (px : Px) (d : BitVec 5) (a : BitVec 5) (t : BitVec 3) (s : State) : Host.Outcome State Fault Refusal :=
  vscan px (.vscan d a t) d a t s

/-- VSCAN without a prefix. -/
def execVscan (d : BitVec 5) (a : BitVec 5) (t : BitVec 3) (s : State) : Host.Outcome State Fault Refusal := runVscan {} d a t s

/-- VCVT: each element converted, where both types have as many elements (R184). -/
def runVcvt (px : Px) (d : BitVec 5) (a : BitVec 5) (r : BitVec 3) (u : BitVec 3) (s : State) : Host.Outcome State Fault Refusal :=
  vconv px .cvt (.vcvt d a r u) d a r u s fun ys yd _ =>
    if ys.count = yd.count then some (0, yd.count, id) else none

/-- VCVT without a prefix. -/
def execVcvt (d : BitVec 5) (a : BitVec 5) (r : BitVec 3) (u : BitVec 3) (s : State) : Host.Outcome State Fault Refusal := runVcvt {} d a r u s

/-- VPACK: a register converted into one part of a register of more elements (R184, R185). -/
def runVpack (px : Px) (d : BitVec 5) (a : BitVec 5) (p : BitVec 5) (r : BitVec 3) (u : BitVec 3) (s : State) : Host.Outcome State Fault Refusal :=
  vconv px .pack (.vpack d a p r u) d a r u s fun ys yd bsz =>
    let q := p.toNat
    if ys.count ≤ yd.count && q < yd.count / ys.count && bsz ≤ ys.count then
      some (q * ys.count, ys.count, fun j => j - q * ys.count)
    else none

/-- VPACK without a prefix. -/
def execVpack (d : BitVec 5) (a : BitVec 5) (p : BitVec 5) (r : BitVec 3) (u : BitVec 3) (s : State) : Host.Outcome State Fault Refusal := runVpack {} d a p r u s

/-- VUNPK: one part of a register converted into a register of fewer elements (R184, R185). -/
def runVunpk (px : Px) (d : BitVec 5) (a : BitVec 5) (p : BitVec 5) (r : BitVec 3) (u : BitVec 3) (s : State) : Host.Outcome State Fault Refusal :=
  vconv px .unpk (.vunpk d a p r u) d a r u s fun ys yd _ =>
    let q := p.toNat
    if yd.count ≤ ys.count && q < ys.count / yd.count then some (0, yd.count, fun j => j + q * yd.count) else none

/-- VUNPK without a prefix. -/
def execVunpk (d : BitVec 5) (a : BitVec 5) (p : BitVec 5) (r : BitVec 3) (u : BitVec 3) (s : State) : Host.Outcome State Fault Refusal := runVunpk {} d a p r u s

/-- VLD: consecutive elements from memory (R186). -/
def runVld (px : Px) (d : BitVec 5) (c : BitVec 4) (a : BitVec 5) (w : BitVec 1) (t : BitVec 3) (h : BitVec 1) (o : BitVec 6) (s : State) : Host.Outcome State Fault Refusal :=
  let size := unitOf s t
  vectorLoad px (.vld d c a w t h o) d c [] (h == 1) t (256 / size) s fun th _ j => rowAddr th c a o size j

/-- VLD without a prefix. -/
def execVld (d : BitVec 5) (c : BitVec 4) (a : BitVec 5) (w : BitVec 1) (t : BitVec 3) (h : BitVec 1) (o : BitVec 6) (s : State) : Host.Outcome State Fault Refusal := runVld {} d c a w t h o s

/-- VLDS: elements a stride apart from memory; 4-bit containers are a reserved encoding (R186). -/
def runVlds (px : Px) (d : BitVec 5) (c : BitVec 4) (a : BitVec 5) (w : BitVec 1) (t : BitVec 3) (h : BitVec 1) (r : BitVec 5) (s : State) : Host.Outcome State Fault Refusal :=
  if stridedOk s t then
    vectorLoad px (.vlds d c a w t h r) d c [] (h == 1) t (256 / unitOf s t) s fun th _ j => strideAddr th c a r j
  else issueP px (.vlds d c a w t h r) s fun _ _ => .error (.cause 0x02 ((encodeWord (.vlds d c a w t h r)).setWidth 64))

/-- VLDS without a prefix. -/
def execVlds (d : BitVec 5) (c : BitVec 4) (a : BitVec 5) (w : BitVec 1) (t : BitVec 3) (h : BitVec 1) (r : BitVec 5) (s : State) : Host.Outcome State Fault Refusal := runVlds {} d c a w t h r s

/-- VST: consecutive elements to memory (R186). -/
def runVst (px : Px) (d : BitVec 5) (c : BitVec 4) (a : BitVec 5) (w : BitVec 1) (t : BitVec 3) (o : BitVec 6) (s : State) : Host.Outcome State Fault Refusal :=
  let size := unitOf s t
  vectorStore px (.vst d c a w t o) d c [] t (256 / size) s fun th _ j => rowAddr th c a o size j

/-- VST without a prefix. -/
def execVst (d : BitVec 5) (c : BitVec 4) (a : BitVec 5) (w : BitVec 1) (t : BitVec 3) (o : BitVec 6) (s : State) : Host.Outcome State Fault Refusal := runVst {} d c a w t o s

/-- VSTS: elements to memory a stride apart; 4-bit containers are a reserved encoding (R186). -/
def runVsts (px : Px) (d : BitVec 5) (c : BitVec 4) (a : BitVec 5) (w : BitVec 1) (t : BitVec 3) (r : BitVec 5) (s : State) : Host.Outcome State Fault Refusal :=
  if stridedOk s t then
    vectorStore px (.vsts d c a w t r) d c [] t (256 / unitOf s t) s fun th _ j => strideAddr th c a r j
  else issueP px (.vsts d c a w t r) s fun _ _ => .error (.cause 0x02 ((encodeWord (.vsts d c a w t r)).setWidth 64))

/-- VSTS without a prefix. -/
def execVsts (d : BitVec 5) (c : BitVec 4) (a : BitVec 5) (w : BitVec 1) (t : BitVec 3) (r : BitVec 5) (s : State) : Host.Outcome State Fault Refusal := runVsts {} d c a w t r s

/-- VGATHER: 64 elements from byte offsets (R187). -/
def runVgather (px : Px) (d : BitVec 5) (a : BitVec 5) (c : BitVec 4) (t : BitVec 3) (s : State) : Host.Outcome State Fault Refusal :=
  vectorLoad px (.vgather d a c t) d c [a.toNat] false t 64 s fun th vs j => gatherAddr th c (regOf vs a) j

/-- VGATHER without a prefix. -/
def execVgather (d : BitVec 5) (a : BitVec 5) (c : BitVec 4) (t : BitVec 3) (s : State) : Host.Outcome State Fault Refusal := runVgather {} d a c t s

/-- VSCATTER: 64 elements to byte offsets (R187). -/
def runVscatter (px : Px) (d : BitVec 5) (a : BitVec 5) (c : BitVec 4) (t : BitVec 3) (s : State) : Host.Outcome State Fault Refusal :=
  vectorStore px (.vscatter d a c t) d c [a.toNat] t 64 s fun th vs j => gatherAddr th c (regOf vs a) j

/-- VSCATTER without a prefix. -/
def execVscatter (d : BitVec 5) (a : BitVec 5) (c : BitVec 4) (t : BitVec 3) (s : State) : Host.Outcome State Fault Refusal := runVscatter {} d a c t s

/-- FEXP2: 2 to the element, by the special-function unit (R189, R190). -/
def runFexp2 (px : Px) (d : BitVec 5) (a : BitVec 5) (t : BitVec 3) (s : State) : Host.Outcome State Fault Refusal :=
  sfuMember px 0 (.fexp2 d a t) d a t s

/-- FEXP2 without a prefix. -/
def execFexp2 (d : BitVec 5) (a : BitVec 5) (t : BitVec 3) (s : State) : Host.Outcome State Fault Refusal := runFexp2 {} d a t s

/-- FLOG2: the binary logarithm, by the special-function unit (R189, R190). -/
def runFlog2 (px : Px) (d : BitVec 5) (a : BitVec 5) (t : BitVec 3) (s : State) : Host.Outcome State Fault Refusal :=
  sfuMember px 1 (.flog2 d a t) d a t s

/-- FLOG2 without a prefix. -/
def execFlog2 (d : BitVec 5) (a : BitVec 5) (t : BitVec 3) (s : State) : Host.Outcome State Fault Refusal := runFlog2 {} d a t s

/-- FRCP: the reciprocal, by the special-function unit (R189, R190). -/
def runFrcp (px : Px) (d : BitVec 5) (a : BitVec 5) (t : BitVec 3) (s : State) : Host.Outcome State Fault Refusal :=
  sfuMember px 2 (.frcp d a t) d a t s

/-- FRCP without a prefix. -/
def execFrcp (d : BitVec 5) (a : BitVec 5) (t : BitVec 3) (s : State) : Host.Outcome State Fault Refusal := runFrcp {} d a t s

/-- FRSQ: the reciprocal square root, by the special-function unit (R189, R190). -/
def runFrsq (px : Px) (d : BitVec 5) (a : BitVec 5) (t : BitVec 3) (s : State) : Host.Outcome State Fault Refusal :=
  sfuMember px 3 (.frsq d a t) d a t s

/-- FRSQ without a prefix. -/
def execFrsq (d : BitVec 5) (a : BitVec 5) (t : BitVec 3) (s : State) : Host.Outcome State Fault Refusal := runFrsq {} d a t s

/-- FTANH: the hyperbolic tangent, by the special-function unit (R189, R190). -/
def runFtanh (px : Px) (d : BitVec 5) (a : BitVec 5) (t : BitVec 3) (s : State) : Host.Outcome State Fault Refusal :=
  sfuMember px 4 (.ftanh d a t) d a t s

/-- FTANH without a prefix. -/
def execFtanh (d : BitVec 5) (a : BitVec 5) (t : BitVec 3) (s : State) : Host.Outcome State Fault Refusal := runFtanh {} d a t s

/-- FSIN: the sine, by the special-function unit (R189, R190). -/
def runFsin (px : Px) (d : BitVec 5) (a : BitVec 5) (t : BitVec 3) (s : State) : Host.Outcome State Fault Refusal :=
  sfuMember px 5 (.fsin d a t) d a t s

/-- FSIN without a prefix. -/
def execFsin (d : BitVec 5) (a : BitVec 5) (t : BitVec 3) (s : State) : Host.Outcome State Fault Refusal := runFsin {} d a t s

/-- FCOS: the cosine, by the special-function unit (R189, R190). -/
def runFcos (px : Px) (d : BitVec 5) (a : BitVec 5) (t : BitVec 3) (s : State) : Host.Outcome State Fault Refusal :=
  sfuMember px 6 (.fcos d a t) d a t s

/-- FCOS without a prefix. -/
def execFcos (d : BitVec 5) (a : BitVec 5) (t : BitVec 3) (s : State) : Host.Outcome State Fault Refusal := runFcos {} d a t s

/-- VMOV: the active elements copied (R191). -/
def runVmov (px : Px) (d : BitVec 5) (a : BitVec 5) (t : BitVec 3) (s : State) : Host.Outcome State Fault Refusal :=
  vectorMember px (.vmov d a t) d [a.toNat] s fun th s vs =>
    let y := tyOf s th t
    .ok (lanes px th y.w (regOf vs d) false fun j => (elem y.w (regOf vs a) j, 0))

/-- VMOV without a prefix. -/
def execVmov (d : BitVec 5) (a : BitVec 5) (t : BitVec 3) (s : State) : Host.Outcome State Fault Refusal := runVmov {} d a t s

/-- VSEL: elements from two registers by the mask (R191). -/
def runVsel (px : Px) (d : BitVec 5) (a : BitVec 5) (b : BitVec 5) (t : BitVec 3) (s : State) : Host.Outcome State Fault Refusal :=
  issueP px (.vsel d a b t) s fun th s =>
    if isLoadBound s d.toNat then .error (loadBoundFault (.vsel d a b t))
    else match readVectors s [a.toNat, b.toNat] with
      | .error e => .error e
      | .ok (s, vs) =>
        let y := tyOf s th t
        let r := lanes {} th y.w 0 false fun j =>
          (elem y.w (if active px th y.w j then regOf vs a else regOf vs b) j, 0)
        match writeVector s d.toNat r.val with
        | .error e => .error e
        | .ok s => .ok (s, .next)

/-- VSEL without a prefix. -/
def execVsel (d : BitVec 5) (a : BitVec 5) (b : BitVec 5) (t : BitVec 3) (s : State) : Host.Outcome State Fault Refusal := runVsel {} d a b t s

/-- VIOTA: a scalar plus the element index (R191). -/
def runViota (px : Px) (d : BitVec 5) (a : BitVec 5) (t : BitVec 3) (s : State) : Host.Outcome State Fault Refusal :=
  vectorMember px (.viota d a t) d [] s fun th s vs =>
    let y := tyOf s th t
    .ok (lanes px th y.w (regOf vs d) false fun j => (((th.s a.toNat).toNat + j) % 2 ^ y.w, 0))

/-- VIOTA without a prefix. -/
def execViota (d : BitVec 5) (a : BitVec 5) (t : BitVec 3) (s : State) : Host.Outcome State Fault Refusal := runViota {} d a t s

/-- KAND: a mask from masks (R191). -/
def runKand (px : Px) (d : BitVec 3) (a : BitVec 3) (b : BitVec 3) (s : State) : Host.Outcome State Fault Refusal :=
  issueP px (.kand d a b) s fun t s => .ok (s.setMe (s.me.setK d.toNat (t.k a.toNat &&& t.k b.toNat)), .next)

/-- KAND without a prefix. -/
def execKand (d : BitVec 3) (a : BitVec 3) (b : BitVec 3) (s : State) : Host.Outcome State Fault Refusal := runKand {} d a b s

/-- KOR: a mask from masks (R191). -/
def runKor (px : Px) (d : BitVec 3) (a : BitVec 3) (b : BitVec 3) (s : State) : Host.Outcome State Fault Refusal :=
  issueP px (.kor d a b) s fun t s => .ok (s.setMe (s.me.setK d.toNat (t.k a.toNat ||| t.k b.toNat)), .next)

/-- KOR without a prefix. -/
def execKor (d : BitVec 3) (a : BitVec 3) (b : BitVec 3) (s : State) : Host.Outcome State Fault Refusal := runKor {} d a b s

/-- KNOT: a mask from masks (R191). -/
def runKnot (px : Px) (d : BitVec 3) (a : BitVec 3) (s : State) : Host.Outcome State Fault Refusal :=
  issueP px (.knot d a) s fun t s => .ok (s.setMe (s.me.setK d.toNat (~~~ t.k a.toNat)), .next)

/-- KNOT without a prefix. -/
def execKnot (d : BitVec 3) (a : BitVec 3) (s : State) : Host.Outcome State Fault Refusal := runKnot {} d a s

/-- KPOPC: the number of set bits of a mask (R191). -/
def runKpopc (px : Px) (d : BitVec 5) (a : BitVec 3) (s : State) : Host.Outcome State Fault Refusal :=
  issueP px (.kpopc d a) s fun t s =>
    write1 s d (BitVec.ofNat 64 ((List.range 64).filter fun j => (t.k a.toNat).getLsbD j).length)

/-- KPOPC without a prefix. -/
def execKpopc (d : BitVec 5) (a : BitVec 3) (s : State) : Host.Outcome State Fault Refusal := runKpopc {} d a s

end Sys2Proof.Machine
end

