-- ==== Sys2Proof/Machine/Prefix.lean ====
section
/-!
DEFINITION. The vector prefix (R105, R106, R108), and the words without a meaning.
-/

namespace Sys2Proof.Machine

/-- A word that raises a cause before any member's checks. -/
def failWord (s : State) (cause : Nat) (w : BitVec 32) : Host.Outcome State Fault Refusal :=
  match s.thread? s.cur with
  | none => .fault .emptySlot
  | some _ => .next (fail s (.fault cause (w.setWidth 64) 0)).bump

/-- The member of a pair under its prefix. A follower that decodes to none is a reserved encoding. -/
def runPair (px : Px) (i : Instr) (s : State) : Host.Outcome State Fault Refusal :=
  match i with
  | .vadd d a b t => runVadd px d a b t s
  | .vsub d a b t => runVsub px d a b t s
  | .vmul d a b t => runVmul px d a b t s
  | .vmulh d a b t => runVmulh px d a b t s
  | .vmin d a b t => runVmin px d a b t s
  | .vmax d a b t => runVmax px d a b t s
  | .vminu d a b t => runVminu px d a b t s
  | .vmaxu d a b t => runVmaxu px d a b t s
  | .vand d a b t => runVand px d a b t s
  | .vor d a b t => runVor px d a b t s
  | .vxor d a b t => runVxor px d a b t s
  | .vshl d a b t => runVshl px d a b t s
  | .vshr d a b t => runVshr px d a b t s
  | .vsra d a b t => runVsra px d a b t s
  | .vfma d a b t => runVfma px d a b t s
  | .vabs d a t => runVabs px d a t s
  | .vneg d a t => runVneg px d a t s
  | .vminn d a b t => runVminn px d a b t s
  | .vmaxn d a b t => runVmaxn px d a b t s
  | .vaddScalar d a b t => runVaddScalar px d a b t s
  | .vsubScalar d a b t => runVsubScalar px d a b t s
  | .vmulScalar d a b t => runVmulScalar px d a b t s
  | .vmulhScalar d a b t => runVmulhScalar px d a b t s
  | .vminScalar d a b t => runVminScalar px d a b t s
  | .vmaxScalar d a b t => runVmaxScalar px d a b t s
  | .vminuScalar d a b t => runVminuScalar px d a b t s
  | .vmaxuScalar d a b t => runVmaxuScalar px d a b t s
  | .vandScalar d a b t => runVandScalar px d a b t s
  | .vorScalar d a b t => runVorScalar px d a b t s
  | .vxorScalar d a b t => runVxorScalar px d a b t s
  | .vshlScalar d a b t => runVshlScalar px d a b t s
  | .vshrScalar d a b t => runVshrScalar px d a b t s
  | .vsraScalar d a b t => runVsraScalar px d a b t s
  | .vfmaScalar d a b t => runVfmaScalar px d a b t s
  | .vminnScalar d a b t => runVminnScalar px d a b t s
  | .vmaxnScalar d a b t => runVmaxnScalar px d a b t s
  | .vcmp k a b t n c => runVcmp px k a b t n c s
  | .vpermb d a b => runVpermb px d a b s
  | .vshuf d a b t => runVshuf px d a b t s
  | .vbcast d a t => runVbcast px d a t s
  | .vslide d a b t => runVslide px d a b t s
  | .vextr d a b t => runVextr px d a b t s
  | .vins d a b t => runVins px d a b t s
  | .vredsum d a t => runVredsum px d a t s
  | .vredmax d a t => runVredmax px d a t s
  | .vredmin d a t => runVredmin px d a t s
  | .vredmaxi d a b t => runVredmaxi px d a b t s
  | .vredmini d a b t => runVredmini px d a b t s
  | .vscan d a t => runVscan px d a t s
  | .vcvt d a r u => runVcvt px d a r u s
  | .vpack d a p r u => runVpack px d a p r u s
  | .vunpk d a p r u => runVunpk px d a p r u s
  | .vld d c a w t h o => runVld px d c a w t h o s
  | .vlds d c a w t h r => runVlds px d c a w t h r s
  | .vst d c a w t o => runVst px d c a w t o s
  | .vsts d c a w t r => runVsts px d c a w t r s
  | .vgather d a c t => runVgather px d a c t s
  | .vscatter d a c t => runVscatter px d a c t s
  | .fexp2 d a t => runFexp2 px d a t s
  | .flog2 d a t => runFlog2 px d a t s
  | .frcp d a t => runFrcp px d a t s
  | .frsq d a t => runFrsq px d a t s
  | .ftanh d a t => runFtanh px d a t s
  | .fsin d a t => runFsin px d a t s
  | .fcos d a t => runFcos px d a t s
  | .vmov d a t => runVmov px d a t s
  | .vsel d a b t => runVsel px d a b t s
  | .viota d a t => runViota px d a t s
  | .kand d a b => runKand px d a b s
  | .kor d a b => runKor px d a b s
  | .knot d a => runKnot px d a s
  | .kpopc d a => runKpopc px d a s
  | _ => failWord s 0x02 s.next

/-- Vector prefix: it changes the follower, which must be of majors 0x22 to 0x2C; reserved values and fields that the
follower's member ignores raise cause 0x02 with the prefix as the word, before the follower's own zero fields are looked at (R106,
R108). -/
def execVectorPrefix (s : State) : Host.Outcome State Fault Refusal :=
  let op := majorOf s.next
  let m := memberOf s.next
  let px := prefixOf s.word
  if op < 0x22 || 0x2C < op then failWord s 0x10 s.next
  else if prefixReserved s.word || (m != .reservedEncoding && prefixIgnored px m) then failWord s 0x02 s.word
  else runPair px (decodeWord s.next) s

/-- Illegal instruction: majors 0x00 and 0x3F (R107, R108). -/
def execIllegalInstruction (s : State) : Host.Outcome State Fault Refusal := failWord s 0x01 s.word

/-- Reserved encoding: majors 0x39 to 0x3D, an unlisted selector, a zero field that is not zero (R107, R108). -/
def execReservedEncoding (s : State) : Host.Outcome State Fault Refusal := failWord s 0x02 s.word

end Sys2Proof.Machine
end

