-- ==== Sys2Proof/Machine/Scalar.lean ====
section
/-!
DEFINITION. Majors 0x01 to 0x0F: scalar arithmetic, constants, predicates, branches and jumps (R115–R125).
-/

namespace Sys2Proof.Machine

/-! ### Shared forms -/

/-- A register–register member whose result is available at once (R116). -/
def binary (i : Instr) (d a b : BitVec 5) (f : Word → Word → Word) (s : State) : Host.Outcome State Fault Refusal :=
  issue i s fun t s => write1 s d (f (t.s a.toNat) (t.s b.toNat))

/-- A register–register member whose destination is held until its cycle (R115). -/
def timed (i : Instr) (d a b : BitVec 5) (cycles : Nat) (f : Word → Word → Word) (s : State) :
    Host.Outcome State Fault Refusal :=
  issue i s fun t s =>
    .ok (holdS s d.toNat (f (t.s a.toNat) (t.s b.toNat)) (some (s.cycle + cycles)), .next)

/-- A member of one source. -/
def unary (i : Instr) (d a : BitVec 5) (f : Word → Word) (s : State) : Host.Outcome State Fault Refusal :=
  issue i s fun t s => write1 s d (f (t.s a.toNat))

/-- The amount of a shift: the low six bits (R116). -/
def shiftAmount (b : Word) : Nat := b.toNat % 64

/-- Bits [127:64] of the signed product (R116). -/
def mulHigh (a b : Word) : Word := BitVec.ofInt 64 (a.toInt * b.toInt / (2 ^ 64 : Nat))

/-- Bits [127:64] of the unsigned product. -/
def mulHighU (a b : Word) : Word := BitVec.ofNat 64 (a.toNat * b.toNat / 2 ^ 64)

/-- Signed quotient, truncated toward zero, with the corners of R117. -/
def divSigned (a b : Word) : Word := if b = 0 then 0xFFFFFFFFFFFFFFFF else BitVec.ofInt 64 (a.toInt.tdiv b.toInt)

/-- Unsigned quotient. -/
def divUnsigned (a b : Word) : Word := if b = 0 then 0xFFFFFFFFFFFFFFFF else BitVec.ofNat 64 (a.toNat / b.toNat)

/-- Signed remainder, with the sign of the dividend. -/
def remSigned (a b : Word) : Word := if b = 0 then a else BitVec.ofInt 64 (a.toInt.tmod b.toInt)

/-- Unsigned remainder. -/
def remUnsigned (a b : Word) : Word := if b = 0 then a else BitVec.ofNat 64 (a.toNat % b.toNat)

/-- Leading zero bits: the count from a bit downward that are zero. -/
def leadingZeros (x : Word) : Nat := if x = 0 then 64 else 63 - Nat.log2 x.toNat

/-- Trailing zero bits, counted upward from bit n. -/
def trailingFrom (x : Word) : Nat → Nat → Nat
  | 0, n => n
  | k + 1, n => if x.getLsbD n then n else trailingFrom x k (n + 1)

/-- Set bits among the low n. -/
def setBits (x : Word) : Nat → Nat
  | 0 => 0
  | n + 1 => setBits x n + (if x.getLsbD n then 1 else 0)

/-- A comparison's conditions (R122): 0 EQ, 1 NE, 2 LT, 3 GE, 4 LTU, 5 GEU. -/
def condition (c : BitVec 3) (a b : Word) : Bool :=
  match c.toNat with
  | 0 => a == b
  | 1 => a != b
  | 2 => a.slt b
  | 3 => !a.slt b
  | 4 => a.ult b
  | _ => !a.ult b

/-! ### OPR (R116, R117) -/

/-- ADD (R116). -/
def execAdd (d a : BitVec 5) (w : BitVec 1) (b : BitVec 5) (x : BitVec 1) (s : State) : Host.Outcome State Fault Refusal :=
  binary (.add d a w b x) d a b (fun p q => p + q) s

/-- SUB (R116). -/
def execSub (d a : BitVec 5) (w : BitVec 1) (b : BitVec 5) (x : BitVec 1) (s : State) : Host.Outcome State Fault Refusal :=
  binary (.sub d a w b x) d a b (fun p q => p - q) s

/-- AND (R116). -/
def execAnd (d a : BitVec 5) (w : BitVec 1) (b : BitVec 5) (x : BitVec 1) (s : State) : Host.Outcome State Fault Refusal :=
  binary (.and d a w b x) d a b (fun p q => p &&& q) s

/-- OR (R116). -/
def execOr (d a : BitVec 5) (w : BitVec 1) (b : BitVec 5) (x : BitVec 1) (s : State) : Host.Outcome State Fault Refusal :=
  binary (.or d a w b x) d a b (fun p q => p ||| q) s

/-- XOR (R116). -/
def execXor (d a : BitVec 5) (w : BitVec 1) (b : BitVec 5) (x : BitVec 1) (s : State) : Host.Outcome State Fault Refusal :=
  binary (.xor d a w b x) d a b (fun p q => p ^^^ q) s

/-- ANDN (R116). -/
def execAndn (d a : BitVec 5) (w : BitVec 1) (b : BitVec 5) (x : BitVec 1) (s : State) : Host.Outcome State Fault Refusal :=
  binary (.andn d a w b x) d a b (fun p q => p &&& ~~~q) s

/-- SHL (R116). -/
def execShl (d a : BitVec 5) (w : BitVec 1) (b : BitVec 5) (x : BitVec 1) (s : State) : Host.Outcome State Fault Refusal :=
  binary (.shl d a w b x) d a b (fun p q => p <<< shiftAmount q) s

/-- SHR (R116). -/
def execShr (d a : BitVec 5) (w : BitVec 1) (b : BitVec 5) (x : BitVec 1) (s : State) : Host.Outcome State Fault Refusal :=
  binary (.shr d a w b x) d a b (fun p q => p >>> shiftAmount q) s

/-- SRA (R116). -/
def execSra (d a : BitVec 5) (w : BitVec 1) (b : BitVec 5) (x : BitVec 1) (s : State) : Host.Outcome State Fault Refusal :=
  binary (.sra d a w b x) d a b (fun p q => p.sshiftRight (shiftAmount q)) s

/-- MUL (R115, R116). -/
def execMul (d a : BitVec 5) (w : BitVec 1) (b : BitVec 5) (x : BitVec 1) (s : State) : Host.Outcome State Fault Refusal :=
  timed (.mul d a w b x) d a b 8 (fun p q => p * q) s

/-- MULH (R115, R116). -/
def execMulh (d a : BitVec 5) (w : BitVec 1) (b : BitVec 5) (x : BitVec 1) (s : State) : Host.Outcome State Fault Refusal :=
  timed (.mulh d a w b x) d a b 8 mulHigh s

/-- MULHU (R115, R116). -/
def execMulhu (d a : BitVec 5) (w : BitVec 1) (b : BitVec 5) (x : BitVec 1) (s : State) :
    Host.Outcome State Fault Refusal :=
  timed (.mulhu d a w b x) d a b 8 mulHighU s

/-- DIV (R115, R117). -/
def execDiv (d a : BitVec 5) (w : BitVec 1) (b : BitVec 5) (x : BitVec 1) (s : State) : Host.Outcome State Fault Refusal :=
  timed (.div d a w b x) d a b 68 divSigned s

/-- DIVU (R115, R117). -/
def execDivu (d a : BitVec 5) (w : BitVec 1) (b : BitVec 5) (x : BitVec 1) (s : State) : Host.Outcome State Fault Refusal :=
  timed (.divu d a w b x) d a b 68 divUnsigned s

/-- REM (R115, R117). -/
def execRem (d a : BitVec 5) (w : BitVec 1) (b : BitVec 5) (x : BitVec 1) (s : State) : Host.Outcome State Fault Refusal :=
  timed (.rem d a w b x) d a b 68 remSigned s

/-- REMU (R115, R117). -/
def execRemu (d a : BitVec 5) (w : BitVec 1) (b : BitVec 5) (x : BitVec 1) (s : State) : Host.Outcome State Fault Refusal :=
  timed (.remu d a w b x) d a b 68 remUnsigned s

/-- MIN (R116). -/
def execMin (d a : BitVec 5) (w : BitVec 1) (b : BitVec 5) (x : BitVec 1) (s : State) : Host.Outcome State Fault Refusal :=
  binary (.min d a w b x) d a b (fun p q => if q.slt p then q else p) s

/-- MAX (R116). -/
def execMax (d a : BitVec 5) (w : BitVec 1) (b : BitVec 5) (x : BitVec 1) (s : State) : Host.Outcome State Fault Refusal :=
  binary (.max d a w b x) d a b (fun p q => if p.slt q then q else p) s

/-- MINU (R116). -/
def execMinu (d a : BitVec 5) (w : BitVec 1) (b : BitVec 5) (x : BitVec 1) (s : State) : Host.Outcome State Fault Refusal :=
  binary (.minu d a w b x) d a b (fun p q => if q.ult p then q else p) s

/-- MAXU (R116). -/
def execMaxu (d a : BitVec 5) (w : BitVec 1) (b : BitVec 5) (x : BitVec 1) (s : State) : Host.Outcome State Fault Refusal :=
  binary (.maxu d a w b x) d a b (fun p q => if p.ult q then q else p) s

/-- CLZ (R116). -/
def execClz (d a : BitVec 5) (w : BitVec 1) (s : State) : Host.Outcome State Fault Refusal :=
  unary (.clz d a w) d a (fun p => BitVec.ofNat 64 (leadingZeros p)) s

/-- CTZ (R116). -/
def execCtz (d a : BitVec 5) (w : BitVec 1) (s : State) : Host.Outcome State Fault Refusal :=
  unary (.ctz d a w) d a (fun p => BitVec.ofNat 64 (trailingFrom p 64 0)) s

/-- POPC (R116). -/
def execPopc (d a : BitVec 5) (w : BitVec 1) (s : State) : Host.Outcome State Fault Refusal :=
  unary (.popc d a w) d a (fun p => BitVec.ofNat 64 (setBits p 64)) s

/-- SEXT (R116): from 8, 16 or 32 bits by the code in field B. -/
def execSext (d a : BitVec 5) (w : BitVec 1) (n : BitVec 5) (s : State) : Host.Outcome State Fault Refusal :=
  unary (.sext d a w n) d a (fun p => (p.setWidth (8 * 2 ^ n.toNat)).signExtend 64) s

/-- SELP (R116, R117). -/
def execSelp (d a : BitVec 5) (w : BitVec 1) (b : BitVec 5) (x : BitVec 1) (p : BitVec 4) (s : State) :
    Host.Outcome State Fault Refusal :=
  issue (.selp d a w b x p) s fun t s =>
    write1 s d (if s.pred p.toNat then t.s a.toNat else t.s b.toNat)

/-! ### Immediates and constants (R118–R120) -/

/-- ADDI (R118). -/
def execAddi (d a : BitVec 5) (w : BitVec 1) (i : BitVec 15) (s : State) : Host.Outcome State Fault Refusal :=
  unary (.addi d a w i) d a (fun p => p + sext64 15 i) s

/-- ANDI (R118). -/
def execAndi (d a : BitVec 5) (w : BitVec 1) (i : BitVec 15) (s : State) : Host.Outcome State Fault Refusal :=
  unary (.andi d a w i) d a (fun p => p &&& zext64 15 i) s

/-- ORI (R118). -/
def execOri (d a : BitVec 5) (w : BitVec 1) (i : BitVec 15) (s : State) : Host.Outcome State Fault Refusal :=
  unary (.ori d a w i) d a (fun p => p ||| zext64 15 i) s

/-- XORI (R118). -/
def execXori (d a : BitVec 5) (w : BitVec 1) (i : BitVec 15) (s : State) : Host.Outcome State Fault Refusal :=
  unary (.xori d a w i) d a (fun p => p ^^^ zext64 15 i) s

/-- SHLI (R119). -/
def execShli (d a : BitVec 5) (w : BitVec 1) (n : BitVec 6) (s : State) : Host.Outcome State Fault Refusal :=
  unary (.shli d a w n) d a (fun p => p <<< n.toNat) s

/-- SHRI (R119). -/
def execShri (d a : BitVec 5) (w : BitVec 1) (n : BitVec 6) (s : State) : Host.Outcome State Fault Refusal :=
  unary (.shri d a w n) d a (fun p => p >>> n.toNat) s

/-- SRAI (R119). -/
def execSrai (d a : BitVec 5) (w : BitVec 1) (n : BitVec 6) (s : State) : Host.Outcome State Fault Refusal :=
  unary (.srai d a w n) d a (fun p => p.sshiftRight n.toNat) s

/-- LI (R120). -/
def execLi (d : BitVec 5) (i : BitVec 21) (s : State) : Host.Outcome State Fault Refusal :=
  issue (.li d i) s fun _ s => write1 s d (sext64 21 i)

/-- LIH (R120). -/
def execLih (d : BitVec 5) (i : BitVec 21) (s : State) : Host.Outcome State Fault Refusal :=
  issue (.lih d i) s fun t s => write1 s d ((t.s d.toNat <<< 21) ||| zext64 21 i)

/-! ### Predicates (R121–R123) -/

/-- A member that writes one predicate and goes on. -/
def writePred (s : State) (p : BitVec 4) (b : Bool) : Except Stop (State × Act) := .ok (s.setPred p.toNat b, .next)

/-- PCMPI (R122). -/
def execPcmpi (p : BitVec 4) (a : BitVec 5) (w : BitVec 1) (c : BitVec 3) (i : BitVec 12) (s : State) :
    Host.Outcome State Fault Refusal :=
  issue (.pcmpi p a w c i) s fun t s => writePred s p (condition c (t.s a.toNat) (sext64 12 i))

/-- PCMP (R122): modes 0 SET, 1 AND, 2 OR. -/
def execPcmp (p : BitVec 4) (a : BitVec 5) (w : BitVec 1) (b : BitVec 5) (x : BitVec 1) (m : BitVec 2) (c : BitVec 3)
    (s : State) : Host.Outcome State Fault Refusal :=
  issue (.pcmp p a w b x m c) s fun t s =>
    let r := condition c (t.s a.toNat) (t.s b.toNat)
    let old := s.pred p.toNat
    writePred s p (if m = 0 then r else if m = 1 then old && r else old || r)

/-- PAND (R123). -/
def execPand (d a b : BitVec 4) (s : State) : Host.Outcome State Fault Refusal :=
  issue (.pand d a b) s fun _ s => writePred s d (s.pred a.toNat && s.pred b.toNat)

/-- POR (R123). -/
def execPor (d a b : BitVec 4) (s : State) : Host.Outcome State Fault Refusal :=
  issue (.por d a b) s fun _ s => writePred s d (s.pred a.toNat || s.pred b.toNat)

/-- PXOR (R123). -/
def execPxor (d a b : BitVec 4) (s : State) : Host.Outcome State Fault Refusal :=
  issue (.pxor d a b) s fun _ s => writePred s d (s.pred a.toNat != s.pred b.toNat)

/-- PNOT (R123). -/
def execPnot (d a : BitVec 4) (s : State) : Host.Outcome State Fault Refusal :=
  issue (.pnot d a) s fun _ s => writePred s d (!s.pred a.toNat)

/-- PMOVS (R123). -/
def execPmovs (d : BitVec 5) (s : State) : Host.Outcome State Fault Refusal :=
  issue (.pmovs d) s fun t s => write1 s d ((predWord (s.core s.cur.core) s.cur.slot t).setWidth 64)

/-- SMOVP (R123): predicates 1 to 15 from the bits of a register, but those that a bound stream answers for. -/
def execSmovp (a : BitVec 5) (w : BitVec 1) (s : State) : Host.Outcome State Fault Refusal :=
  issue (.smovp a w) s fun t s =>
    .ok ((List.range 15).foldl (fun s n => s.setPred (n + 1) ((t.s a.toNat).getLsbD (n + 1))) s, .next)

/-! ### Branches and jumps (R101, R105, R124, R125) -/

/-- A word offset from the instruction's address (R101). -/
def relative (pc : Word) (w : Nat) (o : BitVec w) : Word := pc + sext64 w o * 4

/-- Transfers to a target with an optional link, or raises the target's cause. -/
def goTo (s : State) (t : Thread) (target : Word) (link : Option (BitVec 5)) : Except Stop (State × Act) :=
  match transferCheck s t target with
  | some e => .error e
  | none =>
    let s := reachTarget s t target
    match link with
    | some d => .ok (s.wr d.toNat (t.pc + 4), .jump target)
    | none => .ok (s, .jump target)

/-- BR (R124). -/
def execBr (p : BitVec 4) (n : BitVec 1) (o : BitVec 21) (s : State) : Host.Outcome State Fault Refusal :=
  issue (.br p n o) s fun t s =>
    if s.pred p.toNat != (n == 1) then goTo s t (relative t.pc 21 o) none else .ok (s, .next)

/-- JMP (R124). -/
def execJmp (o : BitVec 26) (s : State) : Host.Outcome State Fault Refusal :=
  issue (.jmp o) s fun t s => goTo s t (relative t.pc 26 o) none

/-- JAL (R124): links in s31. -/
def execJal (o : BitVec 26) (s : State) : Host.Outcome State Fault Refusal :=
  issue (.jal o) s fun t s => goTo s t (relative t.pc 26 o) (some 31)

/-- JALR (R101, R124): the target, the register's address plus the words of the offset, is read before the link is written. R270 has
JALR add an offset to `c0.base`, which neither table gives. DEDUCED, log 82. -/
def execJalr (d a : BitVec 5) (w : BitVec 1) (i : BitVec 15) (s : State) : Host.Outcome State Fault Refusal :=
  issue (.jalr d a w i) s fun t s => goTo s t (relative (t.s a.toNat) 15 i) (some d)

end Sys2Proof.Machine
end

