-- ==== Sys2Proof/Machine/Trust.lean ====
section
/-!
DEFINITION. Power, bring-up, firmware banks, attestation and the debug path (R316, R317, R394–R400, R407, R409–R413).
-/

namespace Sys2Proof.Machine

/-! ### Power-off (R394, R399, R413) -/

/-- The module without power: memory as it was written back, flash, the counts of key loads, and nothing else (log 26). -/
def powerOff (s : State) : State :=
  let keys : Tab KeySlot := s.keys.map fun e => (e.1, { epoch := e.2.epoch })
  { State.reset with
    mem := s.mem, memTags := s.memTags, seals := s.seals, keys
    banks := s.banks, record := s.record, active := s.active, minver := s.minver, rootHash := s.rootHash, boots := s.boots
    quotes := s.quotes, debugOut := s.debugOut, hostOut := s.hostOut, windowOut := s.windowOut
    ptp := s.ptp, now := s.now, turns := s.turns, tick := s.tick, cue := s.cue, cur := s.cur
    word := s.word, next := s.next }

/-- The writer of a CSR whose write has been performed goes on. -/
def writerDone (s : State) (l : Loc) : State :=
  if (s.thread l).wait = some .csr then completeAt s l fun t => t else s

/-- A pending write of `PWRCTL` of a die, whose DSTATE is one asked for. -/
def powerEvent (s : State) (want : Nat → Nat → Bool) (f : Nat → Word → State) : Host.Outcome State Fault Refusal :=
  let d := s.cue.a
  match (if d < 12 then (s.die d).power else none) with
  | none => outside s
  | some (w, l) =>
    if want (s.die d).dstate (bitsOf w 33 32) then
      outside (writerDone (f d w) l)
    else outside s

/-- The die with its new `PWRCTL`. -/
def setPower (s : State) (d : Nat) (w : Word) : State :=
  s.setDie d { s.die d with gate := w.setWidth 32, dstate := bitsOf w 33 32, power := none }

/-- The gates of a die change; a cluster that loses power gives up the lines of its cache. -/
def gateDie (s : State) (d : Nat) (w : Word) : State :=
  let v := powerValue s d w
  let off := (List.range 32).filter fun k => bitOf v k && !(s.die d).gate.getLsbD k
  setPower (off.foldl (fun s k => flushCluster s (d * 32 + k)) s) d v

/-- CLUSTER_GATE (R316, R413). -/
def execClusterGate (s : State) : Host.Outcome State Fault Refusal := powerEvent s (fun old new => old == new) (gateDie s)

/-- A crew is placed on a die. -/
def dieBusy (s : State) (d : Nat) : Bool := (List.range 32).any fun k => (s.cluster (d * 32 + k)).crew.isSome

/-- Every die sleeps: `KEYCTL` is cleared; the sealed copies and the counts of loads stay (R394). -/
def allAsleep (s : State) : State :=
  if (List.range 12).any fun d => (s.die d).dstate != 2 then s
  else
    let keys : Tab KeySlot := s.keys.map fun e => (e.1, { epoch := e.2.epoch })
    { s with keys, toRestore := s.sealedRecords.map fun e => e.1 }

/-- A die goes to sleep: its clusters' caches given up, its slices' dirty lines written back, its slot copies scrubbed. -/
def sleepDie (s : State) (d : Nat) (w : Word) : State :=
  let s1 := (List.range 32).foldl (fun s k => flushCluster s (d * 32 + k)) s
  let keys := (s1.lines.filter fun e => homeSlice (keyAddr e.1) / 16 == d).map fun e => e.1
  let s2 := setPower (keys.foldl cleanLine s1) d w
  allAsleep (s2.setDie d { s2.die d with keys := 0 })

/-- A value of `PWRCTL` with the DSTATE that a die has: its own is ignored. -/
def keepDstate (s : State) (d : Nat) (w : Word) : Word := (w.setWidth 32).setWidth 64 + BitVec.ofNat 64 ((s.die d).dstate * 2 ^ 32)

/-- DIE_SLEEP (R394, R413): DSTATE is ignored while a crew is placed on the die, the gates are not. -/
def execDieSleep (s : State) : Host.Outcome State Fault Refusal :=
  powerEvent s (fun old new => old != 2 && new == 2) fun d w =>
    if dieBusy s d then gateDie s d (keepDstate s d w) else sleepDie s d w

/-- The monitor unseals a record and issues KEYSET of its slot again: the same keys as before. A copy whose tag does not verify under
this monitor's K_seal stays sealed (R394), and debug mode HALT takes none of the slots 0 to 62 (R400). -/
def restoreKey (s : State) (n : Nat) : State :=
  match (s.sealedRecords.find n).bind (unsealRecord s) with
  | some record =>
    if s.toRestore.contains n && keySlotFor s (BitVec.ofNat 64 n) == some n then loadKey s n record else s
  | none => s

/-- DIE_WAKE (R394): the slot copies come from an awake die. When none was awake no slot is active; the monitor loads slot 63 at
once, since its own pages are public, and the others one by one in further such steps, until when their pages raise 0x0D.
DESIGN CHOICE, log 79. -/
def execDieWake (s : State) : Host.Outcome State Fault Refusal :=
  if (s.die s.cue.a).power.isNone then outside (if (s.die s.cue.a).dstate = 0 then restoreKey s s.cue.b else s)
  else powerEvent s (fun old new => old == 2 && new == 0) fun d w =>
    let noneAwake := !(List.range 12).any fun e => (s.die e).dstate != 2
    let s1 := setPower s d w
    let s2 := s1.setDie d { s1.die d with keys := keyctl s1 }
    if noneAwake then restoreKey s2 63 else s2

/-- MODULE_OFF (R413): every dirty line is written back, then power goes. -/
def execModuleOff (s : State) : Host.Outcome State Fault Refusal :=
  powerEvent s (fun _ new => new == 3) fun _ _ => powerOff ((s.lines.map fun e => e.1).foldl evict s)

/-! ### What the ROM writes (log 26) -/

/-- Bytes written to memory by the ROM in the domain of an active slot, through the memory engine. -/
def romPut (s : State) (dom a : Nat) (bs : List Byte) : State :=
  let lines := List.range ((a % 128 + bs.length + 127) / 128)
  let put (m : Tab Seal) (n : Nat) : Tab Seal := m.set n (s.sealFor dom (m.get {} n) false)
  { s with
    mem := bs.zipIdx.foldl (fun m x => memPut m (a + x.2) x.1) s.mem
    memTags := lines.foldl (fun m i => (List.range 8).foldl (fun m u => Tab.del m ((a / 128 + i) * 8 + u)) m) s.memTags
    seals := lines.foldl (fun m i => put m (a / 128 + i)) s.seals }

/-- A number written by the ROM in the pages of domain 0: their lines are held at their home slices, under whatever key their domain
has once they are written back (R387). -/
def romWord (s : State) (a n v : Nat) : State :=
  writeHeld (holdLine s 0 a a 0) (lineKey 0 a) (a % 128) n (BitVec.ofNat 1024 v) false false

/-- A range of memory returned to what it held before anything was written to it. -/
def romClear (s : State) (lo hi : Nat) : State :=
  { s with
    mem := s.mem.filter fun e => e.1 < lo || hi ≤ e.1
    memTags := s.memTags.filter fun e => e.1 < lo / 16 || hi / 16 ≤ e.1
    seals := s.seals.filter fun e => e.1 < lo / 128 || hi / 128 ≤ e.1 }

/-- The bytes of a bundle's monitor and of its service operating system. -/
def monitorCode (b : Bundle) : List Byte := componentBytes b (bundleComponent b 1)
def serviceCode (b : Bundle) : List Byte := componentBytes b (bundleComponent b 2)

/-- The physical address of the monitor component on a die (R317). -/
def monitorAt (d : Nat) : Nat := d * 2 ^ 38 + 0x100000

/-- The offset of the service operating system behind it: the next page. -/
def serviceOffset (b : Bundle) : Nat := ((monitorCode b).length + 4095) / 4096 * 4096

/-- The bytes of both components, from the monitor's first to the last. -/
def codeLength (b : Bundle) : Nat := serviceOffset b + (serviceCode b).length

/-- The tables of address space 0, in the last of the first 112 GiB of stack 0 and behind: a table of level 0 for each 2 MiB of
every die's first stack window, one of level 1 for each GiB's 512, and so on up (log 26). -/
def tableBase : Nat := 0x1A00000000
def tableT0 (va : Nat) : Nat := tableBase + 4096 * (va / 2 ^ 21)
def tableT1 (va : Nat) : Nat := tableBase + 0x200000000 + 4096 * (va / 2 ^ 30)
def tableT2 (va : Nat) : Nat := tableBase + 0x210000000 + 4096 * (va / 2 ^ 39)
def tableT3 : Nat := tableBase + 0x220000000

/-- A leaf of the public domain that may be read and fetched; one of domain 0 that may be read and written, STREAM. -/
def codeLeaf (a : Nat) : Nat := a + 0x20B + 63 * 2 ^ 48
def dataLeaf (a : Nat) : Nat := a + 0x247

/-- The entries that map a page with VA = PA, from the root's table on. -/
def pageEntries (leaf : Nat → Nat) (a : Nat) : List (Nat × Nat) :=
  [(tableT3 + 8 * (a / 2 ^ 39), tableT2 a + 1), (tableT2 a + 8 * (a / 2 ^ 30 % 512), tableT1 a + 1),
    (tableT1 a + 8 * (a / 2 ^ 21 % 512), tableT0 a + 1), (tableT0 a + 8 * (a / 2 ^ 12 % 512), leaf a)]

/-- The entries that map a GiB with VA = PA. -/
def giantEntries (a : Nat) : List (Nat × Nat) :=
  [(tableT3 + 8 * (a / 2 ^ 39), tableT2 a + 1), (tableT2 a + 8 * (a / 2 ^ 30 % 512), dataLeaf a)]

/-- The entries that map the components of a die. -/
def codeEntries (b : Bundle) (d : Nat) : List (Nat × Nat) :=
  (List.range ((codeLength b + 4095) / 4096)).flatMap fun i => pageEntries codeLeaf (monitorAt d + 4096 * i)

/-- The entries that map the dispatch block with the first mebibyte, and the tables. -/
def tableEntries : List (Nat × Nat) :=
  (List.range 256).flatMap (fun i => pageEntries dataLeaf (4096 * i)) ++
    (List.range 9).flatMap fun i => giantEntries (tableBase + i * 2 ^ 30)

/-- A die's components, in the public domain, and their entries. -/
def loadDie (b : Bundle) (s : State) (d : Nat) : State :=
  let s1 := romPut s 63 (monitorAt d) (monitorCode b)
  let s2 := romPut s1 63 (monitorAt d + serviceOffset b) (serviceCode b)
  (codeEntries b d).foldl (fun s e => romWord s e.1 8 e.2) s2

/-- The thread that the ROM places on a healthy pair (R317). -/
def monitorThread (b : Bundle) (d : Nat) : Thread :=
  { kind := .pair, pc := BitVec.ofNat 64 (monitorAt d), priv := 2, ppriv := 1, inmon := true
    caps := [(0, Cap.mk' (monitorAt d) (codeLength b) 0x05 63 0 true)]
    cap15m := Cap.mk' 0 (2 ^ 40 - 1) 0xFF 0 0 true }

/-- The monitor starts on a pair. -/
def startPair (b : Bundle) (s : State) (d : Nat) : State :=
  let id := pairOf d
  placeIn (s.setCore id { s.core id with started := true, stopped := false, mvec := 0, svec := 0 }) { core := id }
    (monitorThread b d)

/-! ### Bring-up (R396, R407, R409–R411) -/

/-- A bank that the mask ROM accepts (R396). -/
def bankOk (s : State) (n : Nat) : Bool :=
  match s.banks.find n with
  | none => false
  | some k => !k.failed && bundleOk s.rootHash s.minver k.bundle

/-- The bank that bring-up takes: the active one, else the other. -/
def bankToBoot (s : State) : Option Nat := [s.active, 1 - s.active].find? (bankOk s)

/-- The dies whose pair has passed its self-test. -/
def healthyDies (h : BitVec 12) : List Nat := (List.range 12).filter fun d => h.getLsbD d

/-- Step 1: the self-tests of the pairs. -/
def selfTest (s : State) (healthy : BitVec 12) : State :=
  (List.range 12).foldl (fun s d => s.setDie d { s.die d with selftest := healthy.getLsbD d }) { s with powered := true }

/-- Step 2 succeeds: the identity is derived, and the signed record is of it (R410, R411). -/
def recordOk (s : State) : Bool := recordSigned s.rootHash s.record && identityMatches identitySeed s.record

/-- Step 3: the units that the record lists are mapped out (R412). -/
def mapOut (s : State) : State :=
  (List.range 12).foldl (fun s d =>
    let r := s.record.dies.getD d {}
    s.setDie d { s.die d with
      noCluster := r.noCluster, noHart := r.noHart, noLane := r.noLane, absent := r.absent, features := r.features }) s

/-- The election at power-on (R407). -/
def elect (s : State) (healthy : BitVec 12) (d : Nat) : State :=
  let s1 := romWord (romWord s 0x88010 2 healthy.toNat) 0x88012 2 healthy.toNat
  let s2 := romWord (romWord s1 0x88008 4 1) 0x8800C 1 d
  let s3 := romWord s2 0x88048 8 (1 + d * 2 ^ 32)
  s3.setCore (pairOf d) { s3.core (pairOf d) with epoch := some 1 }

/-- Steps 4 and 5 of bring-up from an accepted bank. No instruction of a pair runs before slot 63 is loaded, so the components are
written under it. The roots of the service operating system are minted by the monitor's own instructions (R386, log 26). -/
def bringUp (s : State) (boot : Boot) (n lead : Nat) (k : Bank) : State :=
  let dies := healthyDies boot.healthy
  let s0 := loadKey { s with active := n } 63 (Config.publicRecord s.boots)
  let s1 := romClear (romClear s0 0 0x100000) tableBase (tableBase + 9 * 2 ^ 30)
  let s2 := ((0, tableT3) :: tableEntries).foldl (fun s e => romWord s e.1 8 e.2) s1
  let s3 := dies.foldl (loadDie k.bundle) s2
  let s4 := dies.foldl (startPair k.bundle) s3
  let s5 := elect s4 boot.healthy lead
  { s5 with
    bringup := 5, boots := s5.boots + 1, trialArmed := k.trial
    cxls := (List.range 8).map fun p => (p, { host := boot.hostPorts.getLsbD p }) }

/-- POWER_ON (R407, R409–R411): the self-tests, the identity and the record, the mapped-out units, the bundle banks, the monitors, the
leader. Bring-up stops where a step fails; steps 6 and 7 are the service operating system's, whose store to `ANNOUNCE` ends
them. -/
def execPowerOn (s : State) : Host.Outcome State Fault Refusal :=
  if s.powered then outside s
  else
    let boot := s.cue.boot
    let s1 := selfTest s boot.healthy
    match healthyDies boot.healthy with
    | [] => outside { s1 with bringup := 1 }
    | lead :: _ =>
      if !boot.pufOk || !recordOk s1 then outside { s1 with bringup := 2 }
      else
        let s2 := mapOut { s1 with identity := some identitySeed }
        match (bankToBoot s2).bind fun n => (s2.banks.find n).map fun k => (n, k) with
        | none => outside { s2 with bringup := 4 }
        | some (n, k) => outside (bringUp s2 boot n lead k)

/-! ### Firmware banks (R397, R409) -/

/-- The monitor runs, which answers the management port (R397–R399, R409). -/
def monitorUp (s : State) : Bool := s.powered && 5 ≤ s.bringup

/-- BUNDLE_UPLOAD (R409): only while bring-up stands at step 4 with both banks refused. -/
def execBundleUpload (s : State) : Host.Outcome State Fault Refusal :=
  if bundlesRefused s then
    outside (powerOff { s with banks := s.banks.set 0 { bundle := s.cue.bundle } })
  else outside s

/-- BUNDLE_INSTALL (R397): into the inactive bank, as a trial, and a restart from it. -/
def execBundleInstall (s : State) : Host.Outcome State Fault Refusal :=
  if monitorUp s then
    let n := 1 - s.active
    outside (powerOff { s with banks := s.banks.set n { bundle := s.cue.bundle, trial := true }, active := n })
  else outside s

/-- The bank that the module runs from. -/
def State.bank (s : State) : Bank := s.banks.get {} s.active

/-- An acknowledgement is valid: a signature by the key whose digest is `VKEYH`, over the attestation nonce followed by the bundle
measurement (R397). The attestation nonce is that of the last quote since power-on. DESIGN CHOICE, log 77. -/
def acknowledges (s : State) (key : BitVec 14344) (sig : BitVec 10240) : Bool :=
  match s.attest with
  | some nonce =>
    digest48 (keyBytes key) == bundleVkeyh s.bank.bundle &&
      verifies key (leBytes 32 nonce.toNat ++ leBytes 48 (bundleMeasure s.bank.bundle).toNat) sig
  | none => false

/-- A trial is confirmed: `MINVER` rises to `VERSION`, TRIAL is cleared, the watchdog disarmed. -/
def confirmTrial (s : State) : State :=
  let b := s.bank
  let v := bundleVersion b.bundle
  { s with
    trialArmed := false, trialEnd := none, banks := s.banks.set s.active { b with trial := false }
    minver := if s.minver.toNat < v.toNat then v else s.minver }

/-- VERIFIER_ACKNOWLEDGEMENT (R397): a valid one, strictly before the watchdog's expiry, ends the trial and raises `MINVER`. One that
arrives before the watchdog has started ends it as well. DESIGN CHOICE, log 77. -/
def execVerifierAcknowledgement (s : State) : Host.Outcome State Fault Refusal :=
  let inTime := match s.trialEnd with
    | some e => decide (s.now < e)
    | none => s.trialArmed
  if inTime && acknowledges s s.cue.key s.cue.sig then outside (confirmTrial s) else outside s

/-- TRIAL_WATCHDOG_EXPIRY (R397): the trial bank has failed, and the module restarts from the other. -/
def execTrialWatchdogExpiry (s : State) : Host.Outcome State Fault Refusal :=
  match s.trialEnd with
  | some e =>
    if s.now < e then outside s
    else
      outside (powerOff
        { s with banks := s.banks.set s.active { s.bank with trial := false, failed := true }, active := 1 - s.active })
  | none => outside s

/-- Bytes 0x000 to 0x09F of a quote, which its signature covers (R398). -/
def quoteBytes (q : Quote) : List Byte :=
  leBytes 32 q.nonce.toNat ++ leBytes 48 q.measure.toNat ++ leBytes 4 q.version.toNat ++ leBytes 4 q.minver.toNat
    ++ leBytes 8 (q.dbg % 4 + if q.trial then 4 else 0) ++ leBytes 8 q.keys.toNat ++ leBytes 8 q.time.toNat
    ++ leBytes 48 q.conf.toNat

/-- A quote as the monitor answers it, signed by the device identity key (R398). -/
def quoteFor (s : State) (seed : BitVec 384) (nonce : BitVec 256) : Quote :=
  let b := s.bank
  let q : Quote :=
    { nonce, measure := bundleMeasure b.bundle, version := bundleVersion b.bundle, minver := s.minver, dbg := s.dbgctl
      trial := b.trial, keys := keyctl s, time := BitVec.ofNat 64 s.ptp, conf := digest48 (configBytes s.record) }
  { q with sig := identitySign seed (quoteBytes q) }

/-- QUOTE_REQUEST (R398). -/
def execQuoteRequest (s : State) : Host.Outcome State Fault Refusal :=
  match (if monitorUp s then s.identity else none) with
  | some seed => outside { s with quotes := s.quotes ++ [quoteFor s seed s.cue.nonce], attest := some s.cue.nonce }
  | none => outside s

/-! ### The debug path (R399, R400) -/

/-- A domain is protected: one of 0 to 62 whose slot is active (R393). -/
def protectedDom (s : State) (d : Nat) : Bool := d < 63 && (s.key d).active

/-- A region is protected: its effective `KEYDOM` is (R393). -/
def protectedRegion (s : State) (r : Nat) : Bool := protectedDom s (eff s r 4 0x32 1 % 64)

/-- A core runs a thread of a protected region. -/
def protectedCore (s : State) (id : Nat) : Bool :=
  (List.range 16).any fun n => (s.thread? { core := id, slot := n }).any fun t => protectedRegion s t.rcb

/-- An agent that the debug path reaches: present, of a die that is awake. -/
def debugAgent (s : State) (id : Nat) : Bool :=
  (isCompute id || isPair id || isCopyHart id || isEngineHart id) && !s.mappedOut id && (s.die (dieOf id)).dstate != 2

/-- The crew of an agent's cluster. -/
def crewAt (s : State) (id : Nat) : Option Crew := if isCompute id then (s.cluster (clusterOf id)).crew else none

/-- The region whose registers a slot of an agent shows: its thread's, else that of the crew on its cluster. -/
def debugRegion (s : State) (l : Loc) : Option Nat :=
  match s.thread? l with
  | some t => some t.rcb
  | none => (crewAt s l.core).map fun c => c.rcb

/-- A CSR that belongs to a slot, and one that belongs to a crew (R113, R315, R316). -/
def slotCsr (n : Nat) : Bool :=
  n == 8 || (0x30 ≤ n && n ≤ 0x34) || n == 0x60 || n == 0x101 || (0x800 ≤ n && n ≤ 0x803) || n == 0x805 || n == 0x807
    || (0xC10 ≤ n && n ≤ 0xC12) || n == 0xC14
def crewCsr (n : Nat) : Bool := 2 ≤ n && n ≤ 4

/-- The thread as whose a CSR of a slot is read on the debug path, where the agent can be reached and has it: the slot's own; of an
idle slot the CSRs of its core, cluster, die and module are there, and those of the crew on its cluster. -/
def debugThread (s : State) (l : Loc) (n : Nat) : Option Thread :=
  if !debugAgent s l.core || 16 ≤ l.slot || !(kernelCsr l.core n || (isPair l.core && systemCsr n)) then none
  else match s.thread? l with
    | some t => some t
    | none =>
      if slotCsr n then none
      else match crewAt s l.core with
        | some c => some { launch := c.launch, crewId := c.crewId, crewCnt := c.crewCnt, rid := c.rid, rcb := c.rcb }
        | none => if crewCsr n then none else some {}

/-- What a CSR of a slot answers. -/
def debugCsr (s : State) (l : Loc) (n : Nat) : Option Word :=
  match debugThread s l n with
  | none => none
  | some t =>
    if protectedCore s l.core && (n == 0x100 || n == 0x101) then some 0
    else if (debugRegion s l).any (protectedRegion s) then none
    else some (csrFor { s with cur := l } t false n)

/-- What a counter of a region answers: `FAULTS`, `UNDELIV`, `LOGHEAD`, which lie in its control block, whose home slice may sleep,
and the five of DDSTAT. -/
def debugCounter (s : State) (r n : Nat) : Option Word :=
  if !isRegion s r || 8 ≤ n || (n < 3 && (s.die (homeSlice (r + 0x80) / 16)).dstate == 2) then none
  else if protectedRegion s r then some 0
  else some (match n with
    | 0 => BitVec.ofNat 64 (s.rcb r 0x90 8)
    | 1 => BitVec.ofNat 64 (s.rcb r 0x88 8)
    | 2 => BitVec.ofNat 64 (s.rcb r 0x80 4)
    | n => dedupCounter s (eff s r 4 0x32 1 % 64) (n - 3))

/-- A CSR of a slot written on the debug path, as a CSRW of its value by a thread of its crew writes it; a write that a later step
performs holds up no thread (log 54). -/
def debugCsrPut (s : State) (l : Loc) (n : Nat) (v : Word) : Option State :=
  (debugThread s l n).bind fun t =>
    match csrPut { s with cur := l } t false n v with
    | .ok (u, _) => some { u with cur := s.cur }
    | .error _ => none

/-- A byte of a scratchpad that the debug path may reach: of a cluster of an awake die, and no byte that a protected region has, or
may have left where no crew is (R387; log 54). -/
def debugPad (s : State) (k off : Nat) : Bool :=
  k < 384 && debugAgent s (coreOf k 0) && decide (off < (s.cluster k).padSize) &&
    !(match (s.cluster k).crew with
      | some c => protectedRegion s c.rcb
      | none => (List.range 63).any (protectedDom s))

/-- A byte of a scratchpad as the debug path reads it. -/
def debugPadByte (s : State) (k off : Nat) : Option Word :=
  if debugPad s k off then some (((s.cluster k).sram.get 0 ((s.cluster k).sramAddr off)).setWidth 64) else none

/-- A byte of memory that the debug path may reach: mapped in an address space, not protected, its slice awake. -/
def debugPlace (s : State) (asid va : Nat) : Option (Nat × Nat) :=
  match mappedAt s asid va with
  | some (_, pa, dom) =>
    if protectedDom s dom || (s.die (homeSlice va / 16)).dstate == 2 then none else some (pa, dom)
  | none => none

/-- A physical byte of a counter of a protected region's control block, which reads 0 (R399). -/
def hiddenByte (s : State) (pa : Nat) : Bool :=
  (regionsFrom s 65536 [s.rootRcb]).any fun r =>
    protectedRegion s r && [(0x80, 4), (0x88, 8), (0x90, 8)].any fun x =>
      match rootPa s (r + x.1) with
      | some (a, _) => a ≤ pa && pa < a + x.2
      | none => false

/-- A byte of memory as the debug path reads it. -/
def debugByte (s : State) (asid va : Nat) : Option Word :=
  (debugPlace s asid va).bind fun x =>
    if s.poisoned asid va x.1 x.2 then none
    else some (if hiddenByte s x.1 then 0 else (s.byte asid va x.1).setWidth 64)

/-- The answer of the debug path to a request. -/
def debugAnswer (s : State) (v : Option Word) : State := { s with debugOut := s.debugOut ++ [v] }

/-- A register of a slot as the debug path reads it: a vector register only within the allotment (R9, R399). -/
def debugRead (c : Core) (slot : Nat) (t : Thread) : DebugReg → Option Word
  | .tile _ _ | .acc _ _ => none
  | .pc => some t.pc
  | .scalar n => some (t.s n)
  | .preds => some ((predWord c slot t).setWidth 64)
  | .mask n => some (t.k n)
  | .cap n high => some ((t.c n).bits.extractLsb' (if high then 64 else 0) 64)
  | .vector n w => if n < t.vallot then some ((t.v n).extractLsb' (64 * w) 64) else none

/-- A tile or an accumulator of a core as the debug path reads it, whatever its slots hold. -/
def debugReadCore (c : Core) : DebugReg → Option Word
  | .tile n w => some ((c.tile n).extractLsb' (64 * w) 64)
  | .acc n w => some ((c.acc n).extractLsb' (64 * w) 64)
  | _ => none

/-- `v` in word `w` of a wide register. -/
def putWord {n : Nat} (x : BitVec n) (w : Nat) (v : Word) : BitVec n :=
  (x &&& ~~~((BitVec.allOnes 64).setWidth n <<< (64 * w))) ||| (v.setWidth n <<< (64 * w))

/-- A register of a slot written on the debug path: predicates as R121 gives, and a half of a capability without its tag, as
every write of its bytes in memory (R130). -/
def debugWrite (c : Core) (slot : Nat) (t : Thread) (v : Word) : DebugReg → Option Thread
  | .pc => some { t with pc := v }
  | .scalar n => some (t.setS n v)
  | .preds => some ((List.range 16).foldl (fun t n => writeP c slot t n (v.getLsbD n)) t)
  | .mask n => some (t.setK n v)
  | .cap n high => some (t.setC n { bits := putWord (t.c n).bits (if high then 1 else 0) v })
  | .vector n w => if n < t.vallot then some (t.setV n (putWord (t.v n) w v)) else none
  | .tile _ _ | .acc _ _ => none

/-- A tile or an accumulator of a core written on the debug path. -/
def debugWriteCore (c : Core) (v : Word) : DebugReg → Option Core
  | .tile n w => some { c with tiles := c.tiles.set n (putWord (c.tiles.get 0 n) w v) }
  | .acc n w => some { c with accs := c.accs.set n (putWord (c.accs.get 0 n) w v) }
  | _ => none

/-- What the debug path does in mode HALT beyond reading what OBSERVE reads. -/
def debugHalted (s : State) : DebugRequest → State
  | .readReg core slot reg =>
    debugAnswer s (if !debugAgent s core then none
      else match (s.thread? { core, slot }).bind fun t => debugRead (s.core core) slot t reg with
        | some v => some v
        | none => if isCompute core then debugReadCore (s.core core) reg else none)
  | .writeReg core slot reg v =>
    if !debugAgent s core then debugAnswer s none
    else match (s.thread? { core, slot }).bind fun t => debugWrite (s.core core) slot t v reg with
      | some t => debugAnswer (s.setThread { core, slot } t) (some 0)
      | none =>
        match (if isCompute core then debugWriteCore (s.core core) v reg else none) with
        | some c => debugAnswer (s.setCore core c) (some 0)
        | none => debugAnswer s none
  | .writeCsr core slot n v =>
    match debugCsrPut s { core, slot } n v with
    | some u => debugAnswer u (some 0)
    | none => debugAnswer s none
  | .writeMem asid va v =>
    match debugPlace s asid va with
    | some (pa, dom) =>
      debugAnswer (performStore s
        { space := .device asid, addr := va, pa, dom, size := 1, value := v.setWidth 1024, rcb := s.rootRcb }) (some 0)
    | none => debugAnswer s none
  | .writePad k off v =>
    if debugPad s k off then
      debugAnswer (performStore s { space := .scratch k, addr := off, size := 1, value := v.setWidth 1024, rcb := s.rootRcb }) (some 0)
    else debugAnswer s none
  | .haltCore id =>
    if isCompute id && !s.mappedOut id then debugAnswer (setHalted s [id] true) (some 0) else debugAnswer s none
  | .resumeCore id =>
    if isCompute id && !s.mappedOut id then debugAnswer (setHalted s [id] false) (some 0) else debugAnswer s none
  | _ => debugAnswer s none

/-- DEBUG_REQUEST (R399). -/
def execDebugRequest (s : State) : Host.Outcome State Fault Refusal :=
  if !monitorUp s then outside s
  else if s.dbgctl = 0 then outside (debugAnswer s none)
  else match s.cue.debug with
    | .readCsr core slot n => outside (debugAnswer s (debugCsr s { core, slot } n))
    | .readCounter r n => outside (debugAnswer s (debugCounter s r n))
    | .readMem asid va => outside (debugAnswer s (debugByte s asid va))
    | .readPad k off => outside (debugAnswer s (debugPadByte s k off))
    | q => outside (if s.dbgctl = 2 then debugHalted s q else debugAnswer s none)

/-- A pending change of `DBGCTL` to a mode is made. -/
def debugMode (s : State) (mode : Nat) (l : Loc) : State := writerDone { s with dbgctl := mode, dbgReq := none } l

/-- DEBUG_OBSERVE (R400). -/
def execDebugObserve (s : State) : Host.Outcome State Fault Refusal :=
  match s.dbgReq with
  | some (1, l) => outside (debugMode s 1 l)
  | _ => outside s

/-- DEBUG_OFF (R400). -/
def execDebugOff (s : State) : Host.Outcome State Fault Refusal :=
  match s.dbgReq with
  | some (0, l) => outside (debugMode s 0 l)
  | _ => outside s

/-- The protected regions that are neither killed nor being killed. -/
def toKill (s : State) : List Nat :=
  (regionsFrom s 65536 [s.rootRcb]).filter fun r =>
    protectedRegion s r && s.rcb r 0x1E 1 != 5 && !s.killing.any fun k => below s k r

/-- A region is killed unless an earlier kill has reached it. -/
def killOnce (s : State) (r : Nat) : State := if (toKill s).contains r then killRegion s r else s

/-- DEBUG_HALT (R400): the protected regions are killed; once they are, the slots 0 to 62 are cleared and the writer goes on. -/
def execDebugHalt (s : State) : Host.Outcome State Fault Refusal :=
  match s.dbgReq with
  | some (2, l) =>
    if !(toKill s).isEmpty then outside ((toKill s).foldl killOnce s)
    else if !s.killing.isEmpty then outside s
    else
      let on := (List.range 63).filter fun n => (s.key n).active || s.sealedRecords.has n
      outside (debugMode (on.foldl clearKey s) 2 l)
  | _ => outside s

end Sys2Proof.Machine
end

