-- ==== Sys2Proof/Machine/Dispatch.lean ====
section
/-!
DEFINITION. What each instruction does: one arm for each row of the opcode table.
-/

namespace Sys2Proof.Machine

/-- The meaning of an instruction. -/
def exec (i : Instr) (s : State) : Host.Outcome State Fault Refusal :=
  match i with
  | .add d a w b x => Sys2Proof.Machine.execAdd d a w b x s
  | .sub d a w b x => Sys2Proof.Machine.execSub d a w b x s
  | .and d a w b x => Sys2Proof.Machine.execAnd d a w b x s
  | .or d a w b x => Sys2Proof.Machine.execOr d a w b x s
  | .xor d a w b x => Sys2Proof.Machine.execXor d a w b x s
  | .andn d a w b x => Sys2Proof.Machine.execAndn d a w b x s
  | .shl d a w b x => Sys2Proof.Machine.execShl d a w b x s
  | .shr d a w b x => Sys2Proof.Machine.execShr d a w b x s
  | .sra d a w b x => Sys2Proof.Machine.execSra d a w b x s
  | .mul d a w b x => Sys2Proof.Machine.execMul d a w b x s
  | .mulh d a w b x => Sys2Proof.Machine.execMulh d a w b x s
  | .mulhu d a w b x => Sys2Proof.Machine.execMulhu d a w b x s
  | .div d a w b x => Sys2Proof.Machine.execDiv d a w b x s
  | .divu d a w b x => Sys2Proof.Machine.execDivu d a w b x s
  | .rem d a w b x => Sys2Proof.Machine.execRem d a w b x s
  | .remu d a w b x => Sys2Proof.Machine.execRemu d a w b x s
  | .min d a w b x => Sys2Proof.Machine.execMin d a w b x s
  | .max d a w b x => Sys2Proof.Machine.execMax d a w b x s
  | .minu d a w b x => Sys2Proof.Machine.execMinu d a w b x s
  | .maxu d a w b x => Sys2Proof.Machine.execMaxu d a w b x s
  | .clz d a w => Sys2Proof.Machine.execClz d a w s
  | .ctz d a w => Sys2Proof.Machine.execCtz d a w s
  | .popc d a w => Sys2Proof.Machine.execPopc d a w s
  | .sext d a w n => Sys2Proof.Machine.execSext d a w n s
  | .selp d a w b x p => Sys2Proof.Machine.execSelp d a w b x p s
  | .addi d a w imm => Sys2Proof.Machine.execAddi d a w imm s
  | .andi d a w imm => Sys2Proof.Machine.execAndi d a w imm s
  | .ori d a w imm => Sys2Proof.Machine.execOri d a w imm s
  | .xori d a w imm => Sys2Proof.Machine.execXori d a w imm s
  | .shli d a w n => Sys2Proof.Machine.execShli d a w n s
  | .shri d a w n => Sys2Proof.Machine.execShri d a w n s
  | .srai d a w n => Sys2Proof.Machine.execSrai d a w n s
  | .pcmpi p a w c imm => Sys2Proof.Machine.execPcmpi p a w c imm s
  | .li d imm => Sys2Proof.Machine.execLi d imm s
  | .lih d imm => Sys2Proof.Machine.execLih d imm s
  | .pcmp p a w b x m c => Sys2Proof.Machine.execPcmp p a w b x m c s
  | .pand d a b => Sys2Proof.Machine.execPand d a b s
  | .por d a b => Sys2Proof.Machine.execPor d a b s
  | .pxor d a b => Sys2Proof.Machine.execPxor d a b s
  | .pnot d a => Sys2Proof.Machine.execPnot d a s
  | .pmovs d => Sys2Proof.Machine.execPmovs d s
  | .smovp a w => Sys2Proof.Machine.execSmovp a w s
  | .br p n o => Sys2Proof.Machine.execBr p n o s
  | .jmp o => Sys2Proof.Machine.execJmp o s
  | .jal o => Sys2Proof.Machine.execJal o s
  | .jalr d a w imm => Sys2Proof.Machine.execJalr d a w imm s
  | .ld d c a w z h o => Sys2Proof.Machine.execLd d c a w z h o s
  | .ldu d c a w z h o => Sys2Proof.Machine.execLdu d c a w z h o s
  | .st d c a w z o => Sys2Proof.Machine.execSt d c a w z o s
  | .ldacq d c a w z sel h o => Sys2Proof.Machine.execLdacq d c a w z sel h o s
  | .strel d c a w z sel o => Sys2Proof.Machine.execStrel d c a w z sel o s
  | .amoaddW d c a v sel o => Sys2Proof.Machine.execAmoaddW d c a v sel o s
  | .amoandW d c a v sel o => Sys2Proof.Machine.execAmoandW d c a v sel o s
  | .amoorW d c a v sel o => Sys2Proof.Machine.execAmoorW d c a v sel o s
  | .amoxorW d c a v sel o => Sys2Proof.Machine.execAmoxorW d c a v sel o s
  | .amominW d c a v sel o => Sys2Proof.Machine.execAmominW d c a v sel o s
  | .amomaxW d c a v sel o => Sys2Proof.Machine.execAmomaxW d c a v sel o s
  | .amominuW d c a v sel o => Sys2Proof.Machine.execAmominuW d c a v sel o s
  | .amomaxuW d c a v sel o => Sys2Proof.Machine.execAmomaxuW d c a v sel o s
  | .amoswapW d c a v sel o => Sys2Proof.Machine.execAmoswapW d c a v sel o s
  | .amofaddW d c a v sel o => Sys2Proof.Machine.execAmofaddW d c a v sel o s
  | .amoaddD d c a v sel o => Sys2Proof.Machine.execAmoaddD d c a v sel o s
  | .amoandD d c a v sel o => Sys2Proof.Machine.execAmoandD d c a v sel o s
  | .amoorD d c a v sel o => Sys2Proof.Machine.execAmoorD d c a v sel o s
  | .amoxorD d c a v sel o => Sys2Proof.Machine.execAmoxorD d c a v sel o s
  | .amominD d c a v sel o => Sys2Proof.Machine.execAmominD d c a v sel o s
  | .amomaxD d c a v sel o => Sys2Proof.Machine.execAmomaxD d c a v sel o s
  | .amominuD d c a v sel o => Sys2Proof.Machine.execAmominuD d c a v sel o s
  | .amomaxuD d c a v sel o => Sys2Proof.Machine.execAmomaxuD d c a v sel o s
  | .amoswapD d c a v sel o => Sys2Proof.Machine.execAmoswapD d c a v sel o s
  | .cas d c a v w sel o => Sys2Proof.Machine.execCas d c a v w sel o s
  | .fenceAcq sel => Sys2Proof.Machine.execFenceAcq sel s
  | .fenceRel sel => Sys2Proof.Machine.execFenceRel sel s
  | .fenceFull sel => Sys2Proof.Machine.execFenceFull sel s
  | .cinv a b c => Sys2Proof.Machine.execCinv a b c s
  | .cflush a b c => Sys2Proof.Machine.execCflush a b c s
  | .cpref a b c => Sys2Proof.Machine.execCpref a b c s
  | .ddhint a b c => Sys2Proof.Machine.execDdhint a b c s
  | .ddstat d a c => Sys2Proof.Machine.execDdstat d a c s
  | .mcst d a b z c => Sys2Proof.Machine.execMcst d a b z c s
  | .redst d a b o c => Sys2Proof.Machine.execRedst d a b o c s
  | .cbnd d c a sel => Sys2Proof.Machine.execCbnd d c a sel s
  | .crestr d c a => Sys2Proof.Machine.execCrestr d c a s
  | .cinc d c a => Sys2Proof.Machine.execCinc d c a s
  | .cgetb c sel => Sys2Proof.Machine.execCgetb c sel s
  | .cgetl c sel => Sys2Proof.Machine.execCgetl c sel s
  | .cgetp c sel => Sys2Proof.Machine.execCgetp c sel s
  | .cmov d c => Sys2Proof.Machine.execCmov d c s
  | .cclr d => Sys2Proof.Machine.execCclr d s
  | .ctest c a sel => Sys2Proof.Machine.execCtest c a sel s
  | .cld x c a o => Sys2Proof.Machine.execCld x c a o s
  | .cst x c a o => Sys2Proof.Machine.execCst x c a o s
  | .csrr d r => Sys2Proof.Machine.execCsrr d r s
  | .csrw d a r => Sys2Proof.Machine.execCsrw d a r s
  | .csrs d a r => Sys2Proof.Machine.execCsrs d a r s
  | .csrc d a r => Sys2Proof.Machine.execCsrc d a r s
  | .start d a b => Sys2Proof.Machine.execStart d a b s
  | .thid d => Sys2Proof.Machine.execThid d s
  | .vgrow n => Sys2Proof.Machine.execVgrow n s
  | .vshrink n => Sys2Proof.Machine.execVshrink n s
  | .send a b n => Sys2Proof.Machine.execSend a b n s
  | .migrate a c => Sys2Proof.Machine.execMigrate a c s
  | .reply a b r => Sys2Proof.Machine.execReply a b r s
  | .qcfg c a b q => Sys2Proof.Machine.execQcfg c a b q s
  | .qclaim d p q => Sys2Proof.Machine.execQclaim d p q s
  | .qpub a q => Sys2Proof.Machine.execQpub a q s
  | .qwaitf d p q => Sys2Proof.Machine.execQwaitf d p q s
  | .qfree a q => Sys2Proof.Machine.execQfree a q s
  | .qwaite d p q => Sys2Proof.Machine.execQwaite d p q s
  | .qerr d a q => Sys2Proof.Machine.execQerr d a q s
  | .qsetrd a q => Sys2Proof.Machine.execQsetrd a q s
  | .barinit c a b n => Sys2Proof.Machine.execBarinit c a b n s
  | .bararr r n => Sys2Proof.Machine.execBararr r n s
  | .barwait n => Sys2Proof.Machine.execBarwait n s
  | .barsync r n => Sys2Proof.Machine.execBarsync r n s
  | .vadd d a b t => Sys2Proof.Machine.execVadd d a b t s
  | .vsub d a b t => Sys2Proof.Machine.execVsub d a b t s
  | .vmul d a b t => Sys2Proof.Machine.execVmul d a b t s
  | .vmulh d a b t => Sys2Proof.Machine.execVmulh d a b t s
  | .vmin d a b t => Sys2Proof.Machine.execVmin d a b t s
  | .vmax d a b t => Sys2Proof.Machine.execVmax d a b t s
  | .vminu d a b t => Sys2Proof.Machine.execVminu d a b t s
  | .vmaxu d a b t => Sys2Proof.Machine.execVmaxu d a b t s
  | .vand d a b t => Sys2Proof.Machine.execVand d a b t s
  | .vor d a b t => Sys2Proof.Machine.execVor d a b t s
  | .vxor d a b t => Sys2Proof.Machine.execVxor d a b t s
  | .vshl d a b t => Sys2Proof.Machine.execVshl d a b t s
  | .vshr d a b t => Sys2Proof.Machine.execVshr d a b t s
  | .vsra d a b t => Sys2Proof.Machine.execVsra d a b t s
  | .vfma d a b t => Sys2Proof.Machine.execVfma d a b t s
  | .vabs d a t => Sys2Proof.Machine.execVabs d a t s
  | .vneg d a t => Sys2Proof.Machine.execVneg d a t s
  | .vminn d a b t => Sys2Proof.Machine.execVminn d a b t s
  | .vmaxn d a b t => Sys2Proof.Machine.execVmaxn d a b t s
  | .vaddScalar d a b t => Sys2Proof.Machine.execVaddScalar d a b t s
  | .vsubScalar d a b t => Sys2Proof.Machine.execVsubScalar d a b t s
  | .vmulScalar d a b t => Sys2Proof.Machine.execVmulScalar d a b t s
  | .vmulhScalar d a b t => Sys2Proof.Machine.execVmulhScalar d a b t s
  | .vminScalar d a b t => Sys2Proof.Machine.execVminScalar d a b t s
  | .vmaxScalar d a b t => Sys2Proof.Machine.execVmaxScalar d a b t s
  | .vminuScalar d a b t => Sys2Proof.Machine.execVminuScalar d a b t s
  | .vmaxuScalar d a b t => Sys2Proof.Machine.execVmaxuScalar d a b t s
  | .vandScalar d a b t => Sys2Proof.Machine.execVandScalar d a b t s
  | .vorScalar d a b t => Sys2Proof.Machine.execVorScalar d a b t s
  | .vxorScalar d a b t => Sys2Proof.Machine.execVxorScalar d a b t s
  | .vshlScalar d a b t => Sys2Proof.Machine.execVshlScalar d a b t s
  | .vshrScalar d a b t => Sys2Proof.Machine.execVshrScalar d a b t s
  | .vsraScalar d a b t => Sys2Proof.Machine.execVsraScalar d a b t s
  | .vfmaScalar d a b t => Sys2Proof.Machine.execVfmaScalar d a b t s
  | .vminnScalar d a b t => Sys2Proof.Machine.execVminnScalar d a b t s
  | .vmaxnScalar d a b t => Sys2Proof.Machine.execVmaxnScalar d a b t s
  | .vcmp k a b t n c => Sys2Proof.Machine.execVcmp k a b t n c s
  | .vpermb d a b => Sys2Proof.Machine.execVpermb d a b s
  | .vshuf d a b t => Sys2Proof.Machine.execVshuf d a b t s
  | .vbcast d a t => Sys2Proof.Machine.execVbcast d a t s
  | .vslide d a b t => Sys2Proof.Machine.execVslide d a b t s
  | .vextr d a b t => Sys2Proof.Machine.execVextr d a b t s
  | .vins d a b t => Sys2Proof.Machine.execVins d a b t s
  | .vredsum d a t => Sys2Proof.Machine.execVredsum d a t s
  | .vredmax d a t => Sys2Proof.Machine.execVredmax d a t s
  | .vredmin d a t => Sys2Proof.Machine.execVredmin d a t s
  | .vredmaxi d a b t => Sys2Proof.Machine.execVredmaxi d a b t s
  | .vredmini d a b t => Sys2Proof.Machine.execVredmini d a b t s
  | .vscan d a t => Sys2Proof.Machine.execVscan d a t s
  | .vcvt d a sel u => Sys2Proof.Machine.execVcvt d a sel u s
  | .vpack d a p sel u => Sys2Proof.Machine.execVpack d a p sel u s
  | .vunpk d a p sel u => Sys2Proof.Machine.execVunpk d a p sel u s
  | .vld d c a w t h o => Sys2Proof.Machine.execVld d c a w t h o s
  | .vlds d c a w t h sel => Sys2Proof.Machine.execVlds d c a w t h sel s
  | .vst d c a w t o => Sys2Proof.Machine.execVst d c a w t o s
  | .vsts d c a w t sel => Sys2Proof.Machine.execVsts d c a w t sel s
  | .vgather d a c t => Sys2Proof.Machine.execVgather d a c t s
  | .vscatter d a c t => Sys2Proof.Machine.execVscatter d a c t s
  | .fexp2 d a t => Sys2Proof.Machine.execFexp2 d a t s
  | .flog2 d a t => Sys2Proof.Machine.execFlog2 d a t s
  | .frcp d a t => Sys2Proof.Machine.execFrcp d a t s
  | .frsq d a t => Sys2Proof.Machine.execFrsq d a t s
  | .ftanh d a t => Sys2Proof.Machine.execFtanh d a t s
  | .fsin d a t => Sys2Proof.Machine.execFsin d a t s
  | .fcos d a t => Sys2Proof.Machine.execFcos d a t s
  | .vmov d a t => Sys2Proof.Machine.execVmov d a t s
  | .vsel d a b t => Sys2Proof.Machine.execVsel d a b t s
  | .viota d a t => Sys2Proof.Machine.execViota d a t s
  | .kand d a b => Sys2Proof.Machine.execKand d a b s
  | .kor d a b => Sys2Proof.Machine.execKor d a b s
  | .knot d a => Sys2Proof.Machine.execKnot d a s
  | .kpopc d a => Sys2Proof.Machine.execKpopc d a s
  | .tld t c a b h => Sys2Proof.Machine.execTld t c a b h s
  | .tst t c a b => Sys2Proof.Machine.execTst t c a b s
  | .tzero t sel => Sys2Proof.Machine.execTzero t sel s
  | .ttrans t sel => Sys2Proof.Machine.execTtrans t sel s
  | .trdv t v a => Sys2Proof.Machine.execTrdv t v a s
  | .twrv t v a => Sys2Proof.Machine.execTwrv t v a s
  | .mma n a b c => Sys2Proof.Machine.execMma n a b c s
  | .mmas n a b sel u c => Sys2Proof.Machine.execMmas n a b sel u c s
  | .mmai n a b c => Sys2Proof.Machine.execMmai n a b c s
  | .aczero n => Sys2Proof.Machine.execAczero n s
  | .acld n c a => Sys2Proof.Machine.execAcld n c a s
  | .acst n c a => Sys2Proof.Machine.execAcst n c a s
  | .accvt n t imm => Sys2Proof.Machine.execAccvt n t imm s
  | .acadd n imm b => Sys2Proof.Machine.execAcadd n imm b s
  | .sbind v n => Sys2Proof.Machine.execSbind v n s
  | .sunbind n => Sys2Proof.Machine.execSunbind n s
  | .scfg c a b n => Sys2Proof.Machine.execScfg c a b n s
  | .sgo n => Sys2Proof.Machine.execSgo n s
  | .sstop n => Sys2Proof.Machine.execSstop n s
  | .ssync n => Sys2Proof.Machine.execSsync n s
  | .cpy d e f g h => Sys2Proof.Machine.execCpy d e f g h s
  | .cpycv d e f g h => Sys2Proof.Machine.execCpycv d e f g h s
  | .cpymc d e f g h => Sys2Proof.Machine.execCpymc d e f g h s
  | .cpyred d e f g h => Sys2Proof.Machine.execCpyred d e f g h s
  | .tkcommit d a f c => Sys2Proof.Machine.execTkcommit d a f c s
  | .tkforce d c => Sys2Proof.Machine.execTkforce d c s
  | .tkmask v a c => Sys2Proof.Machine.execTkmask v a c s
  | .tkstat d a c => Sys2Proof.Machine.execTkstat d a c s
  | .tkfork d b c => Sys2Proof.Machine.execTkfork d b c s
  | .tktrunc d a c => Sys2Proof.Machine.execTktrunc d a c s
  | .tkckpt c => Sys2Proof.Machine.execTkckpt c s
  | .tkdraw d a c => Sys2Proof.Machine.execTkdraw d a c s
  | .rndu d a c => Sys2Proof.Machine.execRndu d a c s
  | .rndv v a c => Sys2Proof.Machine.execRndv v a c s
  | .rndg v a c => Sys2Proof.Machine.execRndg v a c s
  | .nmaxi d a imm g => Sys2Proof.Machine.execNmaxi d a imm g s
  | .nmini d a imm g => Sys2Proof.Machine.execNmini d a imm g s
  | .nadd d a g => Sys2Proof.Machine.execNadd d a g s
  | .eqinit d f => Sys2Proof.Machine.execEqinit d f s
  | .equnite d a b f => Sys2Proof.Machine.execEqunite d a b f s
  | .eqfind d a f => Sys2Proof.Machine.execEqfind d a f s
  | .eqsize d a f => Sys2Proof.Machine.execEqsize d a f s
  | .eqreduce d a b f => Sys2Proof.Machine.execEqreduce d a b f s
  | .eqsnap d a f => Sys2Proof.Machine.execEqsnap d a f s
  | .equndo d a f => Sys2Proof.Machine.execEqundo d a f s
  | .eqstat d a f => Sys2Proof.Machine.execEqstat d a f s
  | .tkenc d a b sel => Sys2Proof.Machine.execTkenc d a b sel s
  | .tkdec d a b x sel => Sys2Proof.Machine.execTkdec d a b x sel s
  | .syscall d a b n => Sys2Proof.Machine.execSyscall d a b n s
  | .halt d a m => Sys2Proof.Machine.execHalt d a m s
  | .wake a => Sys2Proof.Machine.execWake a s
  | .wakePg a => Sys2Proof.Machine.execWakePg a s
  | .harvest d a b => Sys2Proof.Machine.execHarvest d a b s
  | .xinv d a b m => Sys2Proof.Machine.execXinv d a b m s
  | .keyset d a c => Sys2Proof.Machine.execKeyset d a c s
  | .keyclr d a => Sys2Proof.Machine.execKeyclr d a s
  | .spillrpl d a b => Sys2Proof.Machine.execSpillrpl d a b s
  | .retire => Sys2Proof.Machine.execRetire s
  | .yield => Sys2Proof.Machine.execYield s
  | .park => Sys2Proof.Machine.execPark s
  | .eret => Sys2Proof.Machine.execEret s
  | .wfi => Sys2Proof.Machine.execWfi s
  | .illegalInstruction => Sys2Proof.Machine.execIllegalInstruction s
  | .modeSwitch => Sys2Proof.Machine.execModeSwitch s
  | .headerPublish => Sys2Proof.Machine.execHeaderPublish s
  | .barrierPacket => Sys2Proof.Machine.execBarrierPacket s
  | .sfuReturn => Sys2Proof.Machine.execSfuReturn s
  | .matrixCompletion => Sys2Proof.Machine.execMatrixCompletion s
  | .streamRunaheadFetch => Sys2Proof.Machine.execStreamRunaheadFetch s
  | .copyCompletion => Sys2Proof.Machine.execCopyCompletion s
  | .kick => Sys2Proof.Machine.execKick s
  | .nredPacket => Sys2Proof.Machine.execNredPacket s
  | .eqinitCompletion => Sys2Proof.Machine.execEqinitCompletion s
  | .eqreduceCompletion => Sys2Proof.Machine.execEqreduceCompletion s
  | .haltCompletion => Sys2Proof.Machine.execHaltCompletion s
  | .harvestCompletion => Sys2Proof.Machine.execHarvestCompletion s
  | .xinvCompletion => Sys2Proof.Machine.execXinvCompletion s
  | .keyclrCompletion => Sys2Proof.Machine.execKeyclrCompletion s
  | .spillrplCompletion => Sys2Proof.Machine.execSpillrplCompletion s
  | .scalarResultWrite => Sys2Proof.Machine.execScalarResultWrite s
  | .loadDataReturn => Sys2Proof.Machine.execLoadDataReturn s
  | .multicastCompletion => Sys2Proof.Machine.execMulticastCompletion s
  | .messageArrival => Sys2Proof.Machine.execMessageArrival s
  | .migratedThreadArrival => Sys2Proof.Machine.execMigratedThreadArrival s
  | .heldArrivalPlaced => Sys2Proof.Machine.execHeldArrivalPlaced s
  | .helperPlaced => Sys2Proof.Machine.execHelperPlaced s
  | .vgrowSatisfied => Sys2Proof.Machine.execVgrowSatisfied s
  | .helperTokenDelivery => Sys2Proof.Machine.execHelperTokenDelivery s
  | .replyDelivery => Sys2Proof.Machine.execReplyDelivery s
  | .wakeDelivery => Sys2Proof.Machine.execWakeDelivery s
  | .watchdogExpiry => Sys2Proof.Machine.execWatchdogExpiry s
  | .syscallEvent => Sys2Proof.Machine.execSyscallEvent s
  | .pageEvent => Sys2Proof.Machine.execPageEvent s
  | .faultEvent => Sys2Proof.Machine.execFaultEvent s
  | .preemptRequest => Sys2Proof.Machine.execPreemptRequest s
  | .killRequest => Sys2Proof.Machine.execKillRequest s
  | .resumeRequest => Sys2Proof.Machine.execResumeRequest s
  | .coreSave => Sys2Proof.Machine.execCoreSave s
  | .crewResumption => Sys2Proof.Machine.execCrewResumption s
  | .queueRecordTaken => Sys2Proof.Machine.execQueueRecordTaken s
  | .launchCandidate => Sys2Proof.Machine.execLaunchCandidate s
  | .placementDecision => Sys2Proof.Machine.execPlacementDecision s
  | .slotBoundary => Sys2Proof.Machine.execSlotBoundary s
  | .deferredFiring => Sys2Proof.Machine.execDeferredFiring s
  | .windowOverrun => Sys2Proof.Machine.execWindowOverrun s
  | .heartbeatTick => Sys2Proof.Machine.execHeartbeatTick s
  | .takeover => Sys2Proof.Machine.execTakeover s
  | .powerOn => Sys2Proof.Machine.execPowerOn s
  | .bundleUpload => Sys2Proof.Machine.execBundleUpload s
  | .bundleInstall => Sys2Proof.Machine.execBundleInstall s
  | .verifierAcknowledgement => Sys2Proof.Machine.execVerifierAcknowledgement s
  | .trialWatchdogExpiry => Sys2Proof.Machine.execTrialWatchdogExpiry s
  | .quoteRequest => Sys2Proof.Machine.execQuoteRequest s
  | .debugRequest => Sys2Proof.Machine.execDebugRequest s
  | .debugHalt => Sys2Proof.Machine.execDebugHalt s
  | .debugObserve => Sys2Proof.Machine.execDebugObserve s
  | .debugOff => Sys2Proof.Machine.execDebugOff s
  | .clusterGate => Sys2Proof.Machine.execClusterGate s
  | .dieSleep => Sys2Proof.Machine.execDieSleep s
  | .dieWake => Sys2Proof.Machine.execDieWake s
  | .moduleOff => Sys2Proof.Machine.execModuleOff s
  | .fabricPacket => Sys2Proof.Machine.execFabricPacket s
  | .portOutOfService => Sys2Proof.Machine.execPortOutOfService s
  | .linkLoss => Sys2Proof.Machine.execLinkLoss s
  | .keyRenewal => Sys2Proof.Machine.execKeyRenewal s
  | .noRouteTimeout => Sys2Proof.Machine.execNoRouteTimeout s
  | .systemWindowRequest => Sys2Proof.Machine.execSystemWindowRequest s
  | .hostCxlAccess => Sys2Proof.Machine.execHostCxlAccess s
  | .lineRead => Sys2Proof.Machine.execLineRead s
  | .ownershipRequest => Sys2Proof.Machine.execOwnershipRequest s
  | .upgradeNotice => Sys2Proof.Machine.execUpgradeNotice s
  | .registerWrite => Sys2Proof.Machine.execRegisterWrite s
  | .vectorPrefix => Sys2Proof.Machine.execVectorPrefix s
  | .reservedEncoding => Sys2Proof.Machine.execReservedEncoding s
  | .storePerformed => Sys2Proof.Machine.execStorePerformed s
  | .routeReturns => Sys2Proof.Machine.execRouteReturns s
  | .orderingAgentFailure => Sys2Proof.Machine.execOrderingAgentFailure s
  | .hartRestart => Sys2Proof.Machine.execHartRestart s
  | .ptpDiscipline => Sys2Proof.Machine.execPtpDiscipline s
  | .spdmMessage => Sys2Proof.Machine.execSpdmMessage s

end Sys2Proof.Machine
end

