-- ==== Sys2Proof/Machine/Barrel.lean ====
section
/-!
DEFINITION. The barrel of an agent: fetching, decoding and running the instruction of a slot, and which ready slot issues
in a cycle (R22, R101, R105, R108, R138).
-/

namespace Sys2Proof.Machine

/-- Runs the instruction at the pc of a slot: its word, and behind a prefix the word after it, then the meaning of the
instruction that the word decodes to. A thread that has not issued yet, and did not migrate, faults on an entry inside a
pair (R105). A fetched word is an access to its line. -/
def runSlot (s0 : State) (l : Loc) : Host.Outcome State Fault Refusal :=
  let s := { s0 with cur := l, stalled := false }
  match s.thread? l with
  | none => .fault .emptySlot
  | some t =>
    match fetchWord s t t.pc with
    | .error e => .next (fail s e).bump
    | .ok w =>
      let s1 := fetched s t
      if t.fresh && t.kind != .migrated && insidePair s t t.pc then .next (fail s1 (.cause 0x10 t.pc)).bump
      else if majorOf w = 0x3E then
        match fetchWord s t (t.pc + 4) with
        | .error e => .next (fail s1 e).bump
        | .ok n => exec .vectorPrefix { s1.reach t.asid (t.pc + 4).toNat with word := w, next := n }
      else exec (decodeWord w) { s1 with word := w, next := 0 }

/-- A slot whose instruction can issue: it holds a thread that waits for nothing, and the instruction, tried, does not
stall (R22). -/
def slotReady (s : State) (l : Loc) : Bool :=
  match s.thread? l with
  | none => false
  | some t =>
    t.wait.isNone &&
      match runSlot s l with
      | .next s' => !s'.stalled
      | _ => true

/-- The wait in readiness of each slot starts, goes on or ends (R22). -/
def markReady (s : State) (id : Nat) (ready : List Nat) : State :=
  (List.range 16).foldl (fun s n =>
    s.onThread { core := id, slot := n } fun t =>
      if ready.contains n then { t with readyFrom := some (t.readyFrom.getD s.cycle) } else { t with readyFrom := none }) s

/-- The first cycle in which a slot may issue: not within four cycles of its last issue, whatever thread made it (R22, R154). -/
def issuesFrom (s : State) (l : Loc) : Nat := max (s.slot l).nextIssue (s.thread l).nextIssue

/-- The ready slot that issues: eligible, longest waiting, of equal ones the lowest (R22, R154). -/
def pickSlot (s : State) (id : Nat) (ready : List Nat) : Option Nat :=
  let cycle := (s.core id).cycle
  ready.foldl (fun best n =>
    let t := s.thread { core := id, slot := n }
    if cycle < issuesFrom s { core := id, slot := n } then best
    else match best with
      | none => some n
      | some b =>
        if t.readyFrom.getD cycle < (s.thread { core := id, slot := b }).readyFrom.getD cycle then some n else best) none

/-- The held results whose cycle has come are written (R115, R176). -/
def landDue (s : State) (id : Nat) : State :=
  let cycle := (s.core id).cycle
  (List.range 16).foldl (fun s n =>
    s.onThread { core := id, slot := n } fun t =>
      let due := t.holds.filter fun h => h.due.any fun c => c ≤ cycle
      let rest := t.holds.filter fun h => !h.due.any fun c => c ≤ cycle
      { due.foldl Thread.land t with holds := rest }) s

/-- The agent exists and runs: DIE-SLEEP stops the clusters of a die (R413). -/
def agentOn (s : State) (id : Nat) : Bool :=
  let cluster := isCompute id || isCopyHart id
  s.powered && (cluster || isPair id || isEngineHart id) && !s.mappedOut id
    && (!cluster || (s.die (dieOf id)).dstate == 0)
    && (!cluster || !(s.die (dieOf id)).gate.getLsbD (clusterOf id % 32))

/-- One clock cycle of an agent. -/
def coreTurn (s : State) (id : Nat) : Host.Outcome State Fault Refusal :=
  if !agentOn s id then .next s.bump
  else
    let c := s.core id
    let s1 := landDue (s.setCore id { c with cycle := c.cycle + 1 }) id
    if c.halted || c.intr || c.stopped then .next s1.bump
    else
      let ready := (List.range 16).filter fun n => slotReady s1 { core := id, slot := n }
      let s2 := markReady { s1 with cur := { core := id } } id ready
      match pickSlot s2 id ready with
      | none => .next s2.bump
      | some n => runSlot s2 { core := id, slot := n }

/-- A step outside the barrels: a row of the opcode table without a word of its own. A word's own steps do not happen
without their word. -/
def outsideTurn (s : State) (i : Instr) (cue : Cue) : Host.Outcome State Fault Refusal :=
  if hasWord i || i == .illegalInstruction || i == .reservedEncoding || i == .vectorPrefix then .next s.bump
  else exec i { s with cue }

/-- Time passes. -/
def timeTurn (s : State) (ns : Nat) : State := { s with now := s.now + ns, ptp := s.ptp + ns }.bump

/-- What happens next: the first turn laid down, or a free choice (log 3). -/
def nextTurn (s : State) : Turn × State :=
  match s.turns with
  | [] => (Config.turn s.tick, s)
  | t :: ts => (t, { s with turns := ts })

/-- What every turn ends with: the home slices account for its accesses, launches that are candidates no longer wait again, and a
level of priority that has no candidate left has its credits cleared (R353, R375, R381). -/
def endTurn (s : State) : State := clearCredits (dropCandidates (serveWalks s))

/-- A turn that goes on, ended. -/
def ended : Host.Outcome State Fault Refusal → Host.Outcome State Fault Refusal
  | .next s => .next (endTurn s)
  | o => o

/-- A turn is taken. -/
def takeTurn (s : State) (t : Turn) : Host.Outcome State Fault Refusal :=
  match t with
  | .core id => ended (coreTurn s id)
  | .event i cue => ended (outsideTurn s i cue)
  | .time ns => .next (timeTurn s ns)

/-! ### A machine that is about to run one word -/

/-- Bytes of a number written to physical memory from an address on. -/
def storeBytes (m : List Host.Cell) (a n v : Nat) : List Host.Cell :=
  (List.range n).foldl (fun m i => memPut m (a + i) (byteOf v i)) m

/-- The thread that runs a placed word: of kernel privilege on a core, of monitor privilege on a pair. -/
def placedThread (pair : Bool) : Thread :=
  { kind := if pair then .pair else .control, pc := 0x1200000, priv := if pair then 2 else 0, inmon := pair
    caps := [(0, Cap.mk' 0x1200000 0x1000 0x05 0 0 true)] }

/-- The memory and the tables through which a placed word is fetched: the root table's entry of address space 0, a level-3
entry, a 1 GiB leaf with A set, key slot 0, and the two words. -/
def placeWord (s : State) (v : Nat) : State :=
  let m := storeBytes s.mem 0 8 0x1000000
  let m := storeBytes m 0x1000000 8 0x1100001
  let m := storeBytes m 0x1100000 8 0x21F
  let m := storeBytes m 0x1200000 8 v
  { s with mem := m, lines := [], tlb := [], powered := true, keys := s.keys.set 0 { s.key 0 with active := true } }

/-- The placed thread alone on its agent, whose cycle comes next. -/
def placeThread (s : State) (pair : Bool) : State :=
  let id := if pair then 2048 else 0
  let c := s.core id
  let s1 := s.setCore id
    { c with
      slots := [(0, { c.slots.get {} 0 with thread := some (placedThread pair) })]
      halted := false, intr := false, stopped := false, started := true }
  let s2 := s1.setDie 0 { s1.die 0 with dstate := 0, noCluster := 0 }
  let s3 := if pair then s2 else s2.setCluster 0 { s2.cluster 0 with crew := some {} }
  { s3 with turns := .core id :: s3.turns }

/-- The machine with an instruction, given as its table word, where the next step fetches. -/
def withWord (s : State) (nbits w : Nat) : State :=
  let v := w % 2 ^ nbits % 2 ^ 64
  placeThread (placeWord s v) (levelOf (decodeWord (BitVec.ofNat 32 v)) != 0)

end Sys2Proof.Machine
end

