-- ==== Sys2Proof/Machine/Step.lean ====
section
/-!
DEFINITION. One step of the module: the next turn is taken.
-/

namespace Sys2Proof.Machine

/-- One step: what happens next, happens. -/
def step (s : State) : Host.Outcome State Fault Refusal := takeTurn (nextTurn s).2 (nextTurn s).1

/-- The state with an instruction stored where the next step fetches. -/
def State.withFetchWord (s : State) (nbits w : Nat) : State := withWord s nbits w

end Sys2Proof.Machine
end

