-- ==== Sys2Proof/Safety.lean ====
section
/-!
DEFINITION. The terms in which claims about the machine are stated: when an instruction issues (R22, R108), how it ends
when its effect is whole, what a step leaves alone, and the results that the manual's tables give for the members of a
family, written from the tables and not from the meanings.
-/

namespace Sys2Proof.Machine

/-! ### When an instruction issues, and how it ends -/

/-- An instruction issues from the slot `cur` (R22, R108, R138): the slot holds a thread `t`, no check of R108 fails, and no
register makes it wait. -/
structure Issues (s : State) (t : Thread) (i : Instr) (px : Px := {}) : Prop where
  thread : s.thread? s.cur = some t
  legal  : decodeCheck s t i px = none
  ready  : ready t (usesOf i) px = .go

/-- The state that the member's own effect starts from: the sync sources are emptied (R23). -/
def opened (s : State) (t : Thread) (i : Instr) : State := s.setMe (consume t (usesOf i))

/-- The issuing thread's instruction retires: the pc goes to the next one, `INSTRET` counts. -/
def retired (s : State) (px : Px := {}) : State := (conclude s px .next).bump

/-- The issuing thread's instruction retires and the pc goes to a target. -/
def jumped (s : State) (pc : Word) : State := (conclude s {} (.jump pc)).bump

/-- The instruction has issued, and completes later. -/
def stays (s : State) : State := (conclude s {} .stay).bump

/-- The instruction fails with a cause, with no other effect (R109). -/
def faults (s : State) (cause : Nat) (val : Word) : State := (issued (raise s cause val 0)).bump

/-- A scalar destination held until its value is written at a cycle (R115); `s0` is not held. -/
def holding (s : State) (d : BitVec 5) (v : Word) (cycle : Nat) : State :=
  if d = 0 then s
  else s.setMe { s.me with holds := s.me.holds ++ [{ reg := d.toNat, value := v.setWidth 2048, due := some cycle }] }

/-- A scalar destination held until its data returns (R138); `s0` is not held. -/
def awaiting (s : State) (d : BitVec 5) (v : Word) : State :=
  if d = 0 then s
  else s.setMe { s.me with holds := s.me.holds ++ [{ reg := d.toNat, value := v.setWidth 2048 }] }

/-- Fewer than eight destinations await their data, or none is needed (R138). -/
def Room (t : Thread) (d : BitVec 5) : Prop := d = 0 ∨ t.dataHolds < 8

/-! ### What a step leaves alone -/

/-- Only the thread of the slot `cur` differs, and the number of the next free value: every byte and tag of memory, every
line, cluster, die, other agent and other slot is as before. -/
structure OnlyMe (s u : State) : Prop where
  rest   : u = { s with cores := u.cores, tick := s.tick + 1 }
  agents : ∀ id, u.core id = { s.core id with slots := (u.core id).slots }
  slots  : ∀ l, l ≠ s.cur → u.slot l = s.slot l
  gen    : (u.slot s.cur).gen = (s.slot s.cur).gen
  bytes  : ∀ asid va pa, u.byte asid va pa = s.byte asid va pa
  tags   : ∀ asid va pa, u.unitTag asid va pa = s.unitTag asid va pa

/-- A thread after a retirement: its pc and accounts moved on, its scalar registers and their full bits as in `u`. -/
def Thread.onward (t u : Thread) (len now : Nat) : Thread :=
  { t with
    pc := t.pc + BitVec.ofNat 64 len, instret := t.instret + 1, wait := none, retries := 0, retired := now, fresh := false
    regs := u.regs, full := u.full, nextIssue := u.nextIssue, readyFrom := u.readyFrom }

/-- An instruction has retired with one scalar register written and its sync sources emptied, and nothing else (R23): `s0`
discards the write. -/
structure SetsScalar (s u : State) (t : Thread) (i : Instr) (d : BitVec 5) (v : Word) : Prop where
  frame  : OnlyMe s u
  thread : u.me = t.onward u.me 4 s.now
  value  : ∀ r, u.me.s r = if r = d.toNat ∧ r ≠ 0 then v else t.s r
  full   : ∀ r, r < 32 → u.me.isFull r =
    ((r == d.toNat && r != 0) || (t.isFull r && (r == 0 || !(usesOf i).srcs.any fun x => x.1.toNat == r && x.2 == 1)))
  again  : u.me.nextIssue = max t.nextIssue (s.cycle + 4)

/-- Predicate n takes the writes of a slot's instructions: not `p0`, and not the predicate that a bound stream answers for
(R121). -/
def writable (s : State) (n : Nat) : Prop :=
  n ≠ 0 ∧ ¬(8 ≤ n ∧ ((s.core s.cur.core).boundStream s.cur.slot (n - 8)).isSome)

/-- An instruction has retired with some predicates written and its sync sources emptied, and nothing else (R121): `new n` is the
value of predicate n where it is written, and takes the write. -/
structure SetsPreds (s u : State) (t : Thread) (i : Instr) (new : Nat → Option Bool) : Prop where
  frame  : OnlyMe s u
  thread : u.me = { t.onward u.me 4 s.now with preds := u.me.preds }
  value  : ∀ r, u.me.s r = t.s r
  full   : ∀ r, r < 32 → u.me.isFull r =
    (t.isFull r && (r == 0 || !(usesOf i).srcs.any fun x => x.1.toNat == r && x.2 == 1))
  again  : u.me.nextIssue = max t.nextIssue (s.cycle + 4)
  taken  : ∀ n b, n < 16 → new n = some b → writable s n → u.pred n = b
  kept   : ∀ n, n < 16 → new n = none ∨ ¬writable s n → u.pred n = s.pred n

/-- One predicate written. -/
def only (p : BitVec 4) (b : Bool) (n : Nat) : Option Bool := if n = p.toNat then some b else none

/-! ### The results of the scalar family, as R116 to R120 list them -/

/-- The destination and result of a member whose result is available at once. -/
def scalarSpec (t : Thread) (pred : Nat → Bool) : Instr → Option (BitVec 5 × Word)
  | .add d a _ b _ => some (d, BitVec.ofNat 64 ((t.s a.toNat).toNat + (t.s b.toNat).toNat))
  | .sub d a _ b _ => some (d, BitVec.ofInt 64 ((t.s a.toNat).toInt - (t.s b.toNat).toInt))
  | .and d a _ b _ => some (d, t.s a.toNat &&& t.s b.toNat)
  | .or d a _ b _ => some (d, t.s a.toNat ||| t.s b.toNat)
  | .xor d a _ b _ => some (d, t.s a.toNat ^^^ t.s b.toNat)
  | .andn d a _ b _ => some (d, t.s a.toNat &&& ~~~t.s b.toNat)
  | .shl d a _ b _ => some (d, BitVec.ofNat 64 ((t.s a.toNat).toNat * 2 ^ ((t.s b.toNat).toNat % 64)))
  | .shr d a _ b _ => some (d, BitVec.ofNat 64 ((t.s a.toNat).toNat / 2 ^ ((t.s b.toNat).toNat % 64)))
  | .sra d a _ b _ => some (d, BitVec.ofInt 64 ((t.s a.toNat).toInt / 2 ^ ((t.s b.toNat).toNat % 64)))
  | .min d a _ b _ => some (d, BitVec.ofInt 64 (min (t.s a.toNat).toInt (t.s b.toNat).toInt))
  | .max d a _ b _ => some (d, BitVec.ofInt 64 (max (t.s a.toNat).toInt (t.s b.toNat).toInt))
  | .minu d a _ b _ => some (d, BitVec.ofNat 64 (min (t.s a.toNat).toNat (t.s b.toNat).toNat))
  | .maxu d a _ b _ => some (d, BitVec.ofNat 64 (max (t.s a.toNat).toNat (t.s b.toNat).toNat))
  | .sext d a _ n => some (d, BitVec.ofInt 64 (((t.s a.toNat).toNat : Int).bmod (2 ^ (8 * 2 ^ n.toNat))))
  | .selp d a _ b _ p => some (d, if pred p.toNat then t.s a.toNat else t.s b.toNat)
  | .addi d a _ i => some (d, BitVec.ofInt 64 ((t.s a.toNat).toInt + i.toInt))
  | .andi d a _ i => some (d, t.s a.toNat &&& BitVec.ofNat 64 i.toNat)
  | .ori d a _ i => some (d, t.s a.toNat ||| BitVec.ofNat 64 i.toNat)
  | .xori d a _ i => some (d, t.s a.toNat ^^^ BitVec.ofNat 64 i.toNat)
  | .shli d a _ n => some (d, BitVec.ofNat 64 ((t.s a.toNat).toNat * 2 ^ n.toNat))
  | .shri d a _ n => some (d, BitVec.ofNat 64 ((t.s a.toNat).toNat / 2 ^ n.toNat))
  | .srai d a _ n => some (d, BitVec.ofInt 64 ((t.s a.toNat).toInt / 2 ^ n.toNat))
  | .li d i => some (d, BitVec.ofInt 64 i.toInt)
  | .lih d i => some (d, BitVec.ofNat 64 ((t.s d.toNat).toNat * 2 ^ 21 + i.toNat))
  | _ => none

/-- The destination and result of a multiplication or division (R116, R117), and the cycles for which its destination is
held (R115). -/
def timedSpec (t : Thread) : Instr → Option (BitVec 5 × Nat × Word)
  | .mul d a _ b _ => some (d, 8, BitVec.ofInt 64 ((t.s a.toNat).toInt * (t.s b.toNat).toInt))
  | .mulh d a _ b _ => some (d, 8, BitVec.ofInt 64 ((t.s a.toNat).toInt * (t.s b.toNat).toInt / 2 ^ 64))
  | .mulhu d a _ b _ => some (d, 8, BitVec.ofNat 64 ((t.s a.toNat).toNat * (t.s b.toNat).toNat / 2 ^ 64))
  | .div d a _ b _ => some (d, 68,
      if t.s b.toNat = 0 then BitVec.allOnes 64 else BitVec.ofInt 64 ((t.s a.toNat).toInt.tdiv (t.s b.toNat).toInt))
  | .divu d a _ b _ => some (d, 68,
      if t.s b.toNat = 0 then BitVec.allOnes 64 else BitVec.ofNat 64 ((t.s a.toNat).toNat / (t.s b.toNat).toNat))
  | .rem d a _ b _ => some (d, 68,
      if t.s b.toNat = 0 then t.s a.toNat else BitVec.ofInt 64 ((t.s a.toNat).toInt.tmod (t.s b.toNat).toInt))
  | .remu d a _ b _ => some (d, 68,
      if t.s b.toNat = 0 then t.s a.toNat else BitVec.ofNat 64 ((t.s a.toNat).toNat % (t.s b.toNat).toNat))
  | _ => none

/-- A comparison of R122: 0 EQ, 1 NE, 2 LT, 3 GE, 4 LTU, 5 GEU. -/
def compares (c : BitVec 3) (a b : Word) : Bool :=
  match c.toNat with
  | 0 => decide (a.toNat = b.toNat)
  | 1 => decide (a.toNat ≠ b.toNat)
  | 2 => decide (a.toInt < b.toInt)
  | 3 => decide (b.toInt ≤ a.toInt)
  | 4 => decide (a.toNat < b.toNat)
  | _ => decide (b.toNat ≤ a.toNat)

/-- The target of a taken branch or jump (R101, R124), and its link register. -/
def jumpSpec (t : Thread) (pred : Nat → Bool) : Instr → Option (Word × Option (BitVec 5))
  | .br p n o => if pred p.toNat != (n == 1) then some (BitVec.ofInt 64 (t.pc.toInt + 4 * o.toInt), none) else none
  | .jmp o => some (BitVec.ofInt 64 (t.pc.toInt + 4 * o.toInt), none)
  | .jal o => some (BitVec.ofInt 64 (t.pc.toInt + 4 * o.toInt), some 31)
  | .jalr d a _ i => some (BitVec.ofInt 64 ((t.s a.toNat).toInt + 4 * i.toInt), some d)
  | _ => none

/-! ### Loads, stores, atomics, hints (chapter 07) -/

/-- The fields of a load: destination, capability, register, element size, offset in bytes, replica hint, sign extension,
acquire beyond the crew (R139). -/
structure LoadForm where
  d : BitVec 5
  c : BitVec 4
  a : BitVec 5
  size : Nat
  off : Int
  hint : Bool
  signed : Bool
  acquire : Bool

/-- LD sign-extends, LDU zero-extends, LDACQ sign-extends and acquires; SIZE is 2^z bytes, and the offset is scaled by it. -/
def loadSpec : Instr → Option LoadForm
  | .ld d c a _ z h o => some ⟨d, c, a, 2 ^ z.toNat, o.toInt * 2 ^ z.toNat, h == 1, true, false⟩
  | .ldu d c a _ z h o => some ⟨d, c, a, 2 ^ z.toNat, o.toInt * 2 ^ z.toNat, h == 1, false, false⟩
  | .ldacq d c a _ z sc h o => some ⟨d, c, a, 2 ^ z.toNat, o.toInt * 2 ^ z.toNat, h == 1, true, sc != 0⟩
  | _ => none

/-- The fields of a store: the data register, capability, register, element size, offset in bytes, release beyond the
crew (R139). -/
structure StoreForm where
  d : BitVec 5
  c : BitVec 4
  a : BitVec 5
  size : Nat
  off : Int
  release : Bool

def storeSpec : Instr → Option StoreForm
  | .st d c a _ z o => some ⟨d, c, a, 2 ^ z.toNat, o.toInt * 2 ^ z.toNat, false⟩
  | .strel d c a _ z sc o => some ⟨d, c, a, 2 ^ z.toNat, o.toInt * 2 ^ z.toNat, sc != 0⟩
  | _ => none

/-- An atomic's fields: destination, capability, register, element size, the value it leaves, or none where it leaves the
location, from the thread and the old value, and its scope and order (R140, R142). -/
structure AtomicForm where
  d : BitVec 5
  c : BitVec 4
  a : BitVec 5
  size : Nat
  new : Thread → Nat → Option Nat
  sc : BitVec 2
  ord : BitVec 1

/-- The read-modify-write that the slice or the atomic unit performs leaves, on every old value, what the table gives, at the
scope and in the order of the instruction, at an ingress port through a capability of SPACE 10. -/
def AtomicForm.fits (x : AtomicForm) (t : Thread) (r : Rmw) : Prop :=
  (∀ old, old < 2 ^ (8 * x.size) → r.new x.size old = x.new t old) ∧ r.sc = x.sc.toNat ∧ r.ord = (x.ord == 1) ∧
    r.port = ((t.c x.c.toNat).space == 2)

/-- The value of an element of a width in bits, two's complement. -/
def signedOf (bits v : Nat) : Int := (BitVec.ofNat bits v).toInt

/-- A number in two's complement of a width. -/
def wrapOf (bits : Nat) (v : Int) : Nat := (BitVec.ofInt bits v).toNat

/-- An AOP of a width on the operand register (R140). -/
def aopForm (d : BitVec 5) (c : BitVec 4) (a v : BitVec 5) (sc : BitVec 2) (o : BitVec 1) (size : Nat) (f : Nat → Nat → Nat) :
    AtomicForm :=
  ⟨d, c, a, size, fun t old => some (f old ((t.s v.toNat).toNat % 2 ^ (8 * size))), sc, o⟩

/-- The atomics, W on 4 bytes and D on 8. -/
def atomicSpec : Instr → Option AtomicForm
  | .amoaddW d c a v sc o => some (aopForm d c a v sc o 4 fun x y => (x + y) % 2 ^ 32)
  | .amoandW d c a v sc o => some (aopForm d c a v sc o 4 fun x y => x &&& y)
  | .amoorW d c a v sc o => some (aopForm d c a v sc o 4 fun x y => x ||| y)
  | .amoxorW d c a v sc o => some (aopForm d c a v sc o 4 fun x y => x ^^^ y)
  | .amominW d c a v sc o => some (aopForm d c a v sc o 4 fun x y => wrapOf 32 (min (signedOf 32 x) (signedOf 32 y)))
  | .amomaxW d c a v sc o => some (aopForm d c a v sc o 4 fun x y => wrapOf 32 (max (signedOf 32 x) (signedOf 32 y)))
  | .amominuW d c a v sc o => some (aopForm d c a v sc o 4 min)
  | .amomaxuW d c a v sc o => some (aopForm d c a v sc o 4 max)
  | .amoswapW d c a v sc o => some (aopForm d c a v sc o 4 fun _ y => y)
  | .amofaddW d c a v sc o => some (aopForm d c a v sc o 4 f32Sum)
  | .amoaddD d c a v sc o => some (aopForm d c a v sc o 8 fun x y => (x + y) % 2 ^ 64)
  | .amoandD d c a v sc o => some (aopForm d c a v sc o 8 fun x y => x &&& y)
  | .amoorD d c a v sc o => some (aopForm d c a v sc o 8 fun x y => x ||| y)
  | .amoxorD d c a v sc o => some (aopForm d c a v sc o 8 fun x y => x ^^^ y)
  | .amominD d c a v sc o => some (aopForm d c a v sc o 8 fun x y => wrapOf 64 (min (signedOf 64 x) (signedOf 64 y)))
  | .amomaxD d c a v sc o => some (aopForm d c a v sc o 8 fun x y => wrapOf 64 (max (signedOf 64 x) (signedOf 64 y)))
  | .amominuD d c a v sc o => some (aopForm d c a v sc o 8 min)
  | .amomaxuD d c a v sc o => some (aopForm d c a v sc o 8 max)
  | .amoswapD d c a v sc o => some (aopForm d c a v sc o 8 fun _ y => y)
  | .cas d c a v w sc o =>
    let size := if w = 0 then 4 else 8
    some ⟨d, c, a, size, fun t old =>
      if old = (t.s d.toNat).toNat % 2 ^ (8 * size) then some ((t.s v.toNat).toNat % 2 ^ (8 * size)) else none, sc, o⟩
  | _ => none

/-- A hint's registers, capability, and what it does to each line of its range (R146). -/
def hintSpec (t : Thread) (id : Nat) : Instr → Option (BitVec 5 × BitVec 5 × BitVec 4 × (State → Nat → State))
  | .cinv a b c => some (a, b, c, fun s va =>
      match hintCluster id with
      | none => s
      | some k => onHeld s t.asid va (t.c c.toNat).dom fun s l =>
          dropCopy (setLine s (lineKey t.asid va) { l with dirty := l.dirty || l.dir == .modified k, dir := l.dir.drop k }) k
            (lineKey t.asid va))
  | .cflush a b c => some (a, b, c, fun s va =>
      match hintCluster id with
      | none => s
      | some k => onHeld s t.asid va (t.c c.toNat).dom fun s l =>
          setLine s (lineKey t.asid va) { l with dirty := l.dirty || l.dir == .modified k, dir := l.dir.clean k })
  | .cpref a b c => some (a, b, c, fun s va =>
      match hintCluster id with
      | none => s
      | some k => if ((s.cluster k).banksIn 0).isEmpty then s else bringLine s k t.asid va (t.c c.toNat).dom)
  | .ddhint a b c => some (a, b, c, fun s va =>
      match s.line? t.asid va with
      | none => s
      | some l => if (l.dom == (t.c c.toNat).dom || l.dom == 63) && !l.dir.owned then offer s (lineKey t.asid va) else s)
  | _ => none

/-- A multicast or reducing store: token, address register, value register, capability, size, the AOP of one that reads, and
the value that a destination takes (R148). -/
structure CastForm where
  d : BitVec 5
  a : BitVec 5
  b : BitVec 5
  c : BitVec 4
  size : Nat
  op : Option Nat
  f : Nat → Nat → Nat

def castSpec : Instr → Option CastForm
  | .mcst d a b z c => some ⟨d, a, b, c, 2 ^ z.toNat, none, fun _ v => v⟩
  | .redst d a b o c => match o.toNat with
      | 0 => some ⟨d, a, b, c, 8, some 0, fun x y => (x + y) % 2 ^ 64⟩
      | 1 => some ⟨d, a, b, c, 8, some 4, fun x y => wrapOf 64 (min (signedOf 64 x) (signedOf 64 y))⟩
      | 2 => some ⟨d, a, b, c, 8, some 5, fun x y => wrapOf 64 (max (signedOf 64 x) (signedOf 64 y))⟩
      | _ => some ⟨d, a, b, c, 4, some 9, f32Sum⟩
  | _ => none

/-- What a multicast does to its destinations, in ascending order. -/
def castRun (s : State) (t : Thread) (pl : Place) (x : CastForm) (v : Nat) : CastState :=
  let ds := destOf s pl
  ((List.range ds.length).zip ds).foldl (castOne pl x.op.isSome fun u frame =>
    destWrite u s.cur t pl x.size (x.op.map fun o => { op := o, v }) frame v) { s }

/-- The status word of a multicast (R148): status, the destinations skipped, the destinations written. -/
def castStatus (x : CastState) : Word :=
  BitVec.ofNat 64 ((if x.skipped = 0 then 0 else 0x14) + x.skipped * 2 ^ 8 + x.written * 2 ^ 16)

/-! ### Capabilities (chapter 06) -/

/-- The destination and the value of a capability member that derives one, under its conditions (R127, R128). -/
def capSpec (t : Thread) : Instr → Option (BitVec 4 × Cap)
  | .cbnd d c a r =>
    let src := t.c c.toNat
    let off := (t.s a.toNat).toNat
    let len := (t.s r.toNat).toNat
    if src.tag ∧ off ≤ src.len ∧ len ≤ src.len - off then
      some (d, Cap.mk' (src.base + off) len src.perm src.dom src.space true) else none
  | .cinc d c a =>
    let src := t.c c.toNat
    let off := (t.s a.toNat).toNat
    if src.tag ∧ off ≤ src.len then
      some (d, Cap.mk' (src.base + off) (src.len - off) src.perm src.dom src.space true) else none
  | .crestr d c a =>
    let src := t.c c.toNat
    if src.tag then
      some (d, Cap.mk' src.base src.len (src.perm &&& (t.s a.toNat).setWidth 8) src.dom src.space true) else none
  | .cmov d c => some (d, t.c c.toNat)
  | .cclr d => some (d, {})
  | _ => none

/-- The destination and the value of a capability member that reads one (R127, R129). -/
def capReadSpec (t : Thread) : Instr → Option (BitVec 5 × Word)
  | .cgetb c r => some (r, BitVec.ofNat 64 (t.c c.toNat).base)
  | .cgetl c r => some (r, BitVec.ofNat 64 (t.c c.toNat).len)
  | .cgetp c r =>
    let x := t.c c.toNat
    some (r, BitVec.ofNat 64 (x.perm.toNat + x.dom * 256 + x.space * 16384 + (if x.tag then 65536 else 0)))
  | .ctest c a r =>
    let x := t.c c.toNat
    some (r, BitVec.ofNat 64 ((if x.tag then 1 else 0) +
      (if x.tag ∧ x.space ≠ 3 ∧ (t.s a.toNat).toNat < x.len then 2 else 0)))
  | _ => none

/-- The destination, the CSR and the value written of a CSR member; none where nothing is written (R134). -/
def csrSpec (t : Thread) (old : Word) : Instr → Option (BitVec 5 × BitVec 12 × Option Word)
  | .csrr d r => some (d, r, none)
  | .csrw d a r => some (d, r, some (t.s a.toNat))
  | .csrs d a r => some (d, r, if t.s a.toNat = 0 then none else some (old ||| t.s a.toNat))
  | .csrc d a r => some (d, r, if t.s a.toNat = 0 then none else some (old &&& ~~~t.s a.toNat))
  | _ => none

/-- The privilege that a CSR number's range asks for (R112). -/
def csrLevel (n : Nat) : Nat := if n < 0x800 then 0 else if n < 0xC00 then 1 else 2

/-- The CSRs that an agent has (R113, R312, R315, R316). -/
def csrPresent (id n : Nat) : Prop :=
  n ∈ [0x000, 0x001, 0x100, 0x101, 0x102] ∨
  isCompute id ∧ (n ∈ [0x002, 0x003, 0x004, 0x008, 0x060] ∨ 0x010 ≤ n ∧ n ≤ 0x017 ∨ 0x020 ≤ n ∧ n ≤ 0x034 ∨ 0x040 ≤ n ∧ n ≤ 0x05F) ∨
  isCopyHart id ∧ n = 0x060 ∨
  isEngineHart id ∧ (n ∈ [0x008, 0x060] ∨ 0x030 ≤ n ∧ n ≤ 0x034) ∨
  isPair id ∧ (0x800 ≤ n ∧ n ≤ 0x808 ∨ 0xC00 ≤ n ∧ n ≤ 0xC02 ∨ 0xC10 ≤ n ∧ n ≤ 0xC14)

/-- The value of a CSR after a write that takes effect at once: a read-only CSR, a visitor's view of the cluster, and a value with a
reserved bit or field keep the old one (R17, R58, R60, R112–R114, R315, R316). -/
def csrAfter (out : Bool) (t : Thread) (n : Nat) (old v : Word) : Word :=
  let below (m : Nat) : Word := if v.toNat < m then v else old
  if 0x010 ≤ n ∧ n ≤ 0x017 then (if out = false ∧ shapeOk v then v else old)
  else if 0x020 ≤ n ∧ n ≤ 0x02F then (if out = false ∧ formatOk v then v else old)
  else if 0x040 ≤ n ∧ n ≤ 0x04F then (if out then old else below 32)
  else if n = 0x030 then below 16
  else if n = 0x031 then below 6
  else if n = 0x032 then below 32
  else if n ∈ [0x033, 0x034, 0x802, 0x803, 0x805, 0x807, 0xC10, 0xC12, 0xC13, 0xC14] then v
  else if n = 0x800 then
    if v.toNat < 128 then BitVec.ofNat 64 (old.toNat / 32 * 32 + (if bitOf v 4 then 16 else 0) +
      (if t.priv = 2 then bitsOf v 3 2 else t.ppriv % 4) * 4 + t.priv % 4)
    else old
  else if n = 0x801 then below 256
  else if n = 0x804 then v &&& ~~~0xFF
  else if n = 0x806 then v &&& ~~~0x7F
  else if n = 0x808 then v &&& ~~~0x7FF
  else if n = 0xC11 then below (2 ^ 17)
  else old

/-- A CSR whose write takes effect at a later step: `BMODEk`, `DBGCTL`, `PWRCTL` (R36, R400, R413). -/
def csrLate (n : Nat) : Prop := 0x050 ≤ n ∧ n ≤ 0x05F ∨ n = 0xC01 ∨ n = 0xC02


/-! ### Threads, messages, rings, barriers (chapter 08) -/

/-- The instruction's thread has left its slot. -/
def left (s : State) : State := (conclude s {} .gone).bump

/-- The members that act on what belongs to the crew of their cluster: its rings, barriers, tiles, accumulators and reductions (R17, R161). -/
def ofCrew : Instr → Bool
  | .qcfg _ _ _ _ | .qclaim _ _ _ | .qpub _ _ | .qwaitf _ _ _ | .qfree _ _ | .qwaite _ _ _ | .qerr _ _ _ | .qsetrd _ _
  | .barinit _ _ _ _ | .bararr _ _ | .barwait _ | .barsync _ _ | .tld _ _ _ _ _ | .tst _ _ _ _ | .tzero _ _ | .ttrans _ _
  | .trdv _ _ _ | .twrv _ _ _ | .mma _ _ _ _ | .mmas _ _ _ _ _ _ | .mmai _ _ _ _ | .aczero _ | .acld _ _ _ | .acst _ _ _
  | .accvt _ _ _ | .acadd _ _ _ | .nmaxi _ _ _ _ | .nmini _ _ _ _ | .nadd _ _ _ => true
  | _ => false

/-- What a ring member of the cluster's crew starts from: the sync sources are emptied, and the headers that its cluster's stores write
are published (R301). -/
def ringOpened (s : State) (t : Thread) (i : Instr) : State := publishHeaders (opened s t i)

/-- The ring of a slot's cluster that a member names (R161). -/
def ownRing (s : State) (l : Loc) (q : BitVec 5) : Ring := s.ring (clusterOf l.core) q.toNat

/-- A ring of a slot's cluster changed. -/
def putRing (s : State) (l : Loc) (q : BitVec 5) (r : Ring) : State := s.setRing (clusterOf l.core) q.toNat r

/-- The waiters of a ring of a slot's cluster are served. -/
def wakeRing (s : State) (l : Loc) (q : BitVec 5) : State := ringWake s (clusterOf l.core) q.toNat

/-- What a QWAITF, a QWAITE or a QCLAIM answers at once: the value, the predicate, the ring after it (R164). -/
def ringAnswerSpec (r : Ring) : Instr → Option (BitVec 5 × BitVec 4 × BitVec 5 × BitVec 32 × Bool × Ring)
  | .qclaim d p q =>
    if r.state = 0 then none
    else if r.state = 1 ∧ r.room then some (d, p, q, r.clm, true, { r with clm := r.clm + 1 })
    else some (d, p, q, r.clm, false, r)
  | .qwaitf d p q =>
    if r.state = 0 then none
    else if r.state = 2 then some (d, p, q, r.rd, false, r)
    else if r.rd ≠ r.pub then some (d, p, q, r.rd, true, { r with rd := r.rd + 1 }) else none
  | .qwaite d p q =>
    if r.state = 0 then none
    else if r.state = 2 then some (d, p, q, r.clm, false, r)
    else if r.room then some (d, p, q, r.clm, true, { r with clm := r.clm + 1 }) else none
  | _ => none

/-- What parks on a ring, and for what (R164). -/
def ringParkSpec (r : Ring) : Instr → Option (BitVec 5 × Wait)
  | .qwaitf d p q => if r.state = 1 ∧ r.rd = r.pub then some (q, .qwaitf q.toNat d.toNat p.toNat) else none
  | .qwaite d p q => if r.state = 1 ∧ r.room = false then some (q, .qwaite q.toNat d.toNat p.toNat) else none
  | _ => none

/-- What changes a ring and then serves its waiters, and the ring after it (R163, R164). -/
def ringChangeSpec (t : Thread) (r : Ring) : Instr → Option (BitVec 5 × Ring)
  | .qpub a q =>
    let i : BitVec 32 := (t.s a.toNat).setWidth 32
    if r.state ≠ 0 ∧ (i - r.pub).toNat < (r.clm - r.pub).toNat ∧ r.pbit.getLsbD (r.slotOf i) = false then
      some (q, Ring.advancePub 256 { r with pbit := r.pbit ||| (1#256 <<< r.slotOf i) }) else none
  | .qfree a q =>
    let i : BitVec 32 := (t.s a.toNat).setWidth 32
    if r.state ≠ 0 ∧ (i - r.fre).toNat < (r.rd - r.fre).toNat ∧ r.fbit.getLsbD (r.slotOf i) = false then
      some (q, Ring.advanceFre 256 { r with fbit := r.fbit ||| (1#256 <<< r.slotOf i) }) else none
  | .qsetrd a q =>
    let v : BitVec 32 := (t.s a.toNat).setWidth 32
    let n := (v - r.fre).toNat
    if r.state = 2 ∧ n ≤ (r.pub - r.fre).toNat then
      some (q, { r with
        state := 1, pbit := clearSlots r r.pbit n r.fre, fbit := clearSlots r r.fbit n r.fre, fre := v, rd := v, code := 0 })
    else none
  | _ => none

/-! ### Vectors (chapter 09) -/

/-- A vector member that writes one register: its destination, the registers it reads, and its result from the thread, the
type's state and what the registers gave, under a prefix. -/
structure VecForm where
  d     : BitVec 5
  reads : List Nat
  f     : Thread → State → Tab (BitVec 2048) → VRes

/-- An elementwise member of two vector sources, with the destination or the prefix's `vC` as addend (R174, R177, R178). -/
def vecOp (px : Px) (k : VKind) (d a b : BitVec 5) (y : BitVec 3) : VecForm :=
  let c := if px.uc = 1 then px.vc else d
  { d, reads := [a.toNat, b.toNat] ++ if k = .fma then [c.toNat] else []
    f := fun t s vs =>
      let ty := tyOf s t y
      lanes px t ty.w (regOf vs d) (ty.fm.isSome && k.rounds && effRm px t == 5) fun j =>
        vElem k ty t (effRm px t) j (elem ty.w (regOf vs a) j) (elem ty.w (regOf vs b) j) (elem ty.w (regOf vs c) j) }

/-- An elementwise member of a vector source and a scalar in every lane. -/
def vecOpScalar (px : Px) (k : VKind) (d a b : BitVec 5) (y : BitVec 3) : VecForm :=
  let c := if px.uc = 1 then px.vc else d
  { d, reads := [a.toNat] ++ if k = .fma then [c.toNat] else []
    f := fun t s vs =>
      let ty := tyOf s t y
      lanes px t ty.w (regOf vs d) (ty.fm.isSome && k.rounds && effRm px t == 5) fun j =>
        vElem k ty t (effRm px t) j (elem ty.w (regOf vs a) j) ((t.s b.toNat).toNat % 2 ^ ty.w) (elem ty.w (regOf vs c) j) }

/-- An elementwise member whose element j is a function of the type and the registers. -/
def vecMap (px : Px) (d : BitVec 5) (reads : List Nat) (y : BitVec 3)
    (g : Thread → Ty → Tab (BitVec 2048) → Nat → Nat × Nat) : VecForm :=
  { d, reads, f := fun t s vs => lanes px t (tyOf s t y).w (regOf vs d) false fun j => g t (tyOf s t y) vs j }

/-- The members of R177, R178, R181 and R191 that write one vector register. -/
def vecSpec (px : Px) : Instr → Option VecForm
  | .vadd d a b y => some (vecOp px .add d a b y)
  | .vsub d a b y => some (vecOp px .sub d a b y)
  | .vmul d a b y => some (vecOp px .mul d a b y)
  | .vmulh d a b y => some (vecOp px .mulh d a b y)
  | .vmin d a b y => some (vecOp px .min d a b y)
  | .vmax d a b y => some (vecOp px .max d a b y)
  | .vminu d a b y => some (vecOp px .minu d a b y)
  | .vmaxu d a b y => some (vecOp px .maxu d a b y)
  | .vand d a b y => some (vecOp px .and d a b y)
  | .vor d a b y => some (vecOp px .or d a b y)
  | .vxor d a b y => some (vecOp px .xor d a b y)
  | .vshl d a b y => some (vecOp px .shl d a b y)
  | .vshr d a b y => some (vecOp px .shr d a b y)
  | .vsra d a b y => some (vecOp px .sra d a b y)
  | .vfma d a b y => some (vecOp px .fma d a b y)
  | .vminn d a b y => some (vecOp px .minn d a b y)
  | .vmaxn d a b y => some (vecOp px .maxn d a b y)
  | .vabs d a y => some (vecMap px d [a.toNat] y fun t ty vs j => vElem .abs ty t 0 j (elem ty.w (regOf vs a) j) 0 0)
  | .vneg d a y => some (vecMap px d [a.toNat] y fun t ty vs j => vElem .neg ty t 0 j (elem ty.w (regOf vs a) j) 0 0)
  | .vaddScalar d a b y => some (vecOpScalar px .add d a b y)
  | .vsubScalar d a b y => some (vecOpScalar px .sub d a b y)
  | .vmulScalar d a b y => some (vecOpScalar px .mul d a b y)
  | .vmulhScalar d a b y => some (vecOpScalar px .mulh d a b y)
  | .vminScalar d a b y => some (vecOpScalar px .min d a b y)
  | .vmaxScalar d a b y => some (vecOpScalar px .max d a b y)
  | .vminuScalar d a b y => some (vecOpScalar px .minu d a b y)
  | .vmaxuScalar d a b y => some (vecOpScalar px .maxu d a b y)
  | .vandScalar d a b y => some (vecOpScalar px .and d a b y)
  | .vorScalar d a b y => some (vecOpScalar px .or d a b y)
  | .vxorScalar d a b y => some (vecOpScalar px .xor d a b y)
  | .vshlScalar d a b y => some (vecOpScalar px .shl d a b y)
  | .vshrScalar d a b y => some (vecOpScalar px .shr d a b y)
  | .vsraScalar d a b y => some (vecOpScalar px .sra d a b y)
  | .vfmaScalar d a b y => some (vecOpScalar px .fma d a b y)
  | .vminnScalar d a b y => some (vecOpScalar px .minn d a b y)
  | .vmaxnScalar d a b y => some (vecOpScalar px .maxn d a b y)
  | .vpermb d a b => some (vecMap px d [a.toNat, b.toNat] 0 fun _ _ vs j => (elem 8 (regOf vs b) (elem 8 (regOf vs a) j), 0))
  | .vshuf d a b y => some (vecMap px d [a.toNat, b.toNat] y fun _ ty vs j =>
      (elem ty.w (regOf vs b) (elem ty.w (regOf vs a) j % ty.count), 0))
  | .vbcast d a y => some (vecMap px d [] y fun t ty _ _ => ((t.s a.toNat).toNat % 2 ^ ty.w, 0))
  | .vslide d a b y => some (vecMap px d [a.toNat] y fun t ty vs j =>
      (if 0 ≤ (j : Int) + (t.s b.toNat).toInt && (j : Int) + (t.s b.toNat).toInt < ty.count then
        elem ty.w (regOf vs a) ((j : Int) + (t.s b.toNat).toInt).toNat else 0, 0))
  | .vins d a b y => some (vecMap px d [d.toNat] y fun t ty vs j =>
      (if j = (t.s b.toNat).toNat then (t.s a.toNat).toNat % 2 ^ ty.w else elem ty.w (regOf vs d) j, 0))
  | .vmov d a y => some (vecMap px d [a.toNat] y fun _ ty vs j => (elem ty.w (regOf vs a) j, 0))
  | .viota d a y => some (vecMap px d [] y fun t ty _ j => (((t.s a.toNat).toNat + j) % 2 ^ ty.w, 0))
  | _ => none

/-- The destination of a reduction, its source, and its result over the active elements (R182, R183). -/
def redSpec (px : Px) : Instr → Option (BitVec 5 × BitVec 5 × BitVec 3 × (Thread → Ty → List (Nat × Nat) → Word × Nat × Bool))
  | .vredsum d a y => some (d, a, y, fun t ty xs => reduceSum ty t (effRm px t) xs)
  | .vredmax d a y => some (d, a, y, fun _ ty xs => ((reduceBest true ty xs).1, (reduceBest true ty xs).2, false))
  | .vredmin d a y => some (d, a, y, fun _ ty xs => ((reduceBest false ty xs).1, (reduceBest false ty xs).2, false))
  | .vredmaxi d a b y => some (d, a, y, fun t ty xs =>
      let r := reduceIndex true ty ((t.s b.toNat).setWidth 32) xs
      (r.1, r.2, false))
  | .vredmini d a b y => some (d, a, y, fun t ty xs =>
      let r := reduceIndex false ty ((t.s b.toNat).setWidth 32) xs
      (r.1, r.2, false))
  | _ => none

/-- The fields of a conversion: destination, source, the two types, which member, and the part of the destination that is
written: first element, count, the source element of each (R184, R185). -/
structure ConvForm where
  d : BitVec 5
  a : BitVec 5
  src : BitVec 3
  dst : BitVec 3
  m : Conv
  part : Ty → Ty → Nat → Option (Nat × Nat × (Nat → Nat))

def convSpec : Instr → Option ConvForm
  | .vcvt d a r u => some ⟨d, a, r, u, .cvt, fun ys yd _ => if ys.count = yd.count then some (0, yd.count, id) else none⟩
  | .vpack d a p r u => some ⟨d, a, r, u, .pack, fun ys yd bsz =>
      if ys.count ≤ yd.count && p.toNat < yd.count / ys.count && bsz ≤ ys.count then
        some (p.toNat * ys.count, ys.count, fun j => j - p.toNat * ys.count) else none⟩
  | .vunpk d a p r u => some ⟨d, a, r, u, .unpk, fun ys yd _ =>
      if yd.count ≤ ys.count && p.toNat < ys.count / yd.count then
        some (0, yd.count, fun j => j + p.toNat * yd.count) else none⟩
  | _ => none

/-- The fields of a vector load or store: the register, the capability, registers read for the addresses, the replica hint,
the type, how many units it has, whether its type is one that it takes, the address of unit j (R186, R187). -/
structure VecMemForm where
  d : BitVec 5
  c : BitVec 4
  reads : List Nat
  hint : Bool
  y : BitVec 3
  units : Nat → Nat
  ok : Ty → Bool
  addr : Thread → Tab (BitVec 2048) → Nat → Nat → Int

def vecLoadSpec : Instr → Option VecMemForm
  | .vld d c a _ y h o => some ⟨d, c, [], h == 1, y, fun n => 256 / n, fun _ => true, fun t _ n j =>
      (t.c c.toNat).base + (t.s a.toNat).toNat + o.toInt * 256 + j * n⟩
  | .vlds d c a _ y h r => some ⟨d, c, [], h == 1, y, fun n => 256 / n, fun ty => 8 ≤ ty.w, fun t _ _ j =>
      (t.c c.toNat).base + (t.s a.toNat).toNat + j * (t.s r.toNat).toInt⟩
  | .vgather d a c y => some ⟨d, c, [a.toNat], false, y, fun _ => 64, fun _ => true, fun t vs _ j =>
      (t.c c.toNat).base + elem 32 (regOf vs a) j⟩
  | _ => none

def vecStoreSpec : Instr → Option VecMemForm
  | .vst d c a _ y o => some ⟨d, c, [], false, y, fun n => 256 / n, fun _ => true, fun t _ n j =>
      (t.c c.toNat).base + (t.s a.toNat).toNat + o.toInt * 256 + j * n⟩
  | .vsts d c a _ y r => some ⟨d, c, [], false, y, fun n => 256 / n, fun ty => 8 ≤ ty.w, fun t _ _ j =>
      (t.c c.toNat).base + (t.s a.toNat).toNat + j * (t.s r.toNat).toInt⟩
  | .vscatter d a c y => some ⟨d, c, [a.toNat], false, y, fun _ => 64, fun _ => true, fun t vs _ j =>
      (t.c c.toNat).base + elem 32 (regOf vs a) j⟩
  | _ => none

/-- The function number and fields of a special-function member (R189). -/
def sfuSpec : Instr → Option (Nat × BitVec 5 × BitVec 5 × BitVec 3)
  | .fexp2 d a y => some (0, d, a, y)
  | .flog2 d a y => some (1, d, a, y)
  | .frcp d a y => some (2, d, a, y)
  | .frsq d a y => some (3, d, a, y)
  | .ftanh d a y => some (4, d, a, y)
  | .fsin d a y => some (5, d, a, y)
  | .fcos d a y => some (6, d, a, y)
  | _ => none

/-- The mask that a mask member leaves (R191). -/
def maskSpec (t : Thread) : Instr → Option (BitVec 3 × Word)
  | .kand d a b => some (d, t.k a.toNat &&& t.k b.toNat)
  | .kor d a b => some (d, t.k a.toNat ||| t.k b.toNat)
  | .knot d a => some (d, ~~~t.k a.toNat)
  | _ => none

/-- A vector register held until its value is written (R176). -/
def holdingV (s : State) (d : BitVec 5) (v : BitVec 2048) (due : Option Nat) : State :=
  s.setMe { s.me with holds := s.me.holds ++ [{ vector := true, reg := d.toNat, value := v, due }] }

/-- A member runs under a prefix to a state, and without a prefix by its own word. -/
def RunsTo (px : Px) (i : Instr) (s : State) (u : State) : Prop :=
  runPair px i s = .next u ∧ (px = {} → exec i s = .next u)

/-- `x ≤ y` of two numbers, −0 and +0 equal; false with a NaN (R72, R180). -/
def FVal.atMost : FVal → FVal → Prop
  | .nan _, _ => False
  | _, .nan _ => False
  | .inf true, _ => True
  | _, .inf false => True
  | .inf false, _ => False
  | _, .inf true => False
  | .fin n m e, .fin n' m' e' =>
    (if n then -1 else 1) * ((m : Int) * 2 ^ (e - min e e').toNat) ≤ (if n' then -1 else 1) * ((m' : Int) * 2 ^ (e' - min e e').toNat)

/-! ### Tiles, accumulators, streams, copies (chapter 10) -/

/-- An instruction of the matrix unit joins its core's queue of four (R195). -/
def queued (s : State) (reads : List Nat) (writes : List MatWrite) (flags : Nat) : State :=
  let c := s.core s.cur.core
  s.setCore s.cur.core
    { c with matq := c.matq ++ [{ loc := s.cur, gen := (s.slot s.cur).gen, reads, writes, flags }] }

/-- The issuing thread is no visitor of its cluster, so that it may act on what belongs to the crew (R17). -/
def InCrew (s : State) (t : Thread) (i : Instr) : Prop := isVisitor (opened s t i) s.cur (consume t (usesOf i)) = false

/-- The queue of the issuing core has room. -/
def MatRoom (s : State) : Prop := (s.core s.cur.core).matq.length < 4

/-- A multiply's accumulator, operands, the scale tiles that it reads, its own conditions beside those of R201, and the new value of
the element in row i and column j (R202, R203). -/
structure MmaForm where
  n : BitVec 1
  a : BitVec 3
  b : BitVec 3
  extra : List Nat
  ok : Bool
  f : Nat → Nat → Nat → Nat × Nat

def mmaSpec (s : State) (t : Thread) : Instr → Option MmaForm
  | .mma n a b c => some ⟨n, a, b, [], true, fun i j e =>
      mmaSum (if c = 1 then 0 else e) (tileAt s t a.toNat).cols (scaledElem (tileAt s t a.toNat) none i)
        (scaledElem (tileAt s t b.toNat) none j)⟩
  | .mmas n a b r u c => some ⟨n, a, b, [r.toNat, u.toNat],
      (tileAt s t a.toNat).cls = 0 ∧ scalesFit (tileAt s t a.toNat) (tileAt s t r.toNat) ∧
        scalesFit (tileAt s t b.toNat) (tileAt s t u.toNat), fun i j e =>
      mmaSum (if c = 1 then 0 else e) (tileAt s t a.toNat).cols
        (scaledElem (tileAt s t a.toNat) (some (tileAt s t r.toNat)) i)
        (scaledElem (tileAt s t b.toNat) (some (tileAt s t u.toNat)) j)⟩
  | .mmai n a b c => some ⟨n, a, b, [],
      (tileAt s t a.toNat).cls = 0 ∧ (tileAt s t a.toNat).fm.e = 0 ∧ (tileAt s t b.toNat).fm.e = 0, fun i j e =>
      (mmaInt (if c = 1 then 0 else sgn 32 e) (tileAt s t a.toNat).cols (intElem (tileAt s t a.toNat) i)
        (intElem (tileAt s t b.toNat) j), 0)⟩
  | _ => none

/-- The stream after a stream member that changes it (R207, R208). -/
def streamSpec (t : Thread) (st : Stream) (slot : Nat) : Instr → Option (BitVec 3 × Stream)
  | .sunbind n => some (n, { st with bound := none })
  | .scfg c a b n =>
    (patternOf (t.c c.toNat) ((t.c c.toNat).base + (t.s a.toNat).toNat) (t.s b.toNat) (t.s (b.toNat + 1)) (t.s (b.toNat + 2))
      (t.s (b.toNat + 3))).map fun x => (n, { x with bound := st.bound })
  | .sgo n => if st.state = .unconfigured then none else some (n, { st with state := .running, pos := 0, queue := [], last := 0 })
  | .sstop n => if st.state = .running ∨ st.state = .ended then some (n, { st with state := .configured, queue := [] }) else none
  | .ssync n => if (st.state = .running ∨ st.state = .ended) ∧ st.store = false then some (n, { st with queue := [] }) else none
  | .sbind v n => some (n, { st with bound := some (slot, v.toNat) })
  | _ => none

/-- The number of a copy member and its fields: token, destination capability and register, source capability and register. -/
def copySpec : Instr → Option (Nat × BitVec 5 × BitVec 4 × BitVec 5 × BitVec 4 × BitVec 5)
  | .cpy d e f g h => some (0, d, e, f, g, h)
  | .cpycv d e f g h => some (1, d, e, f, g, h)
  | .cpymc d e f g h => some (2, d, e, f, g, h)
  | .cpyred d e f g h => some (3, d, e, f, g, h)
  | _ => none

/-! ### Sequences, reductions across the network, forests, system members (chapters 11, 12, 20) -/

/-- A sequence member or a member of the Lichen unit starts once the stores of its path have been performed (R223, R256). -/
def settled (s : State) (t : Thread) (i : Instr) : State := drain (opened s t i) s.myPath

/-- What a member that only reads its block answers: destination, block, the states it refuses, the word (R228, R229, R240, R250). -/
def seqReadSpec (t : Thread) (b : Nat) : Instr → Option (BitVec 5 × BitVec 4 × Refuses × Word)
  | .tkforce d c => some (d, c, {}, if countF b = 0 then BitVec.allOnes 64 else BitVec.ofNat 64 (getF b (0x30 + 4 * headF b) 4))
  | .tkstat d a c => some (d, c, {}, match (t.s a.toNat).toNat % 16 with
      | 0 => statusOf { b, stop := stateF b == 3, byString := true, fault := stateF b == 4, fcode := if stateF b = 4 then getF b 0x1A 1 else 0 }
      | 1 => BitVec.ofNat 64 ((cursorOf b).1 + (cursorOf b).2 * 2 ^ 32)
      | 2 => BitVec.ofNat 64 (countF b)
      | _ => 0)
  | .rndu d a c =>
    let w := philox (seedF b) (seqidF b) (BitVec.ofNat 32 (cursorOf b).1) (BitVec.ofNat 32 (cursorOf b).2)
      (BitVec.ofNat 32 (t.s a.toNat).toNat)
    some (d, c, { faulted := true }, w ++ BitVec.ofNat 32 (uniformF32 w))
  | _ => none

/-- The block that TKDRAW or TKCKPT leaves: destination, block number, the block, whether the new cursor is answered (R242,
R243). -/
def seqWriteSpec (t : Thread) (b : Nat) : Instr → Option (BitVec 5 × BitVec 4 × Nat)
  | .tkdraw d a c =>
    let at' := if flagF b 0 then 0x2C4 else 0x14
    match (t.s a.toNat).toNat % 4 with
    | 0 => if 0xFFFFFFFD ≤ getF b at' 4 then none else some (d, c, putF b at' 4 (getF b at' 4 + 1))
    | 1 => some (d, c, setFlagF (putF (putF b 0x2C0 4 (posF b)) 0x2C4 4 0) 0 true)
    | 2 => if flagF b 0 then some (d, c, putF (putF b 0x2C0 4 (getF b 0x2C0 4 + 1)) 0x2C4 4 0) else none
    | _ => some (d, c, setFlagF b 0 false)
  | .tkckpt c => some (0, c, setFlagF (copyF (copyF (copyF b 0x300 0x50 b 0x10) 0x350 0x10 b 0x100) 0x360 0xA0 b 0x120) 1 true)
  | _ => none

/-- A vector of draws: the vector register, the first element's register, the block, the function of a draw (R229). -/
def drawSpec : Instr → Option (BitVec 5 × BitVec 5 × BitVec 4 × (BitVec 32 → Nat))
  | .rndv r a c => some (r, a, c, uniformF32)
  | .rndg r a c => some (r, a, c, gumbelF32)
  | _ => none

/-- An NRED member's token, source, context and operation (R247). -/
def nredSpec : Instr → Option (BitVec 5 × BitVec 5 × BitVec 4 × Nat)
  | .nmaxi d a i g => some (d, a, g, if i = 1 then 1 else 0)
  | .nmini d a i g => some (d, a, g, if i = 1 then 3 else 2)
  | .nadd d a g => some (d, a, g, 4)
  | _ => none

/-- A synchronous member of the Lichen unit: destination, forest, whether it uses the log and needs the owner, the word it
answers and the state it leaves (R255, R256, R258, R259, R261–R263). -/
def forestSpec (s : State) (t : Thread) (f : Forest) : Instr → Option (BitVec 5 × BitVec 4 × (Forest → Bool) × Bool × State × Word)
  | .equnite d a b fc =>
    let x := eqIndex t a
    let y := eqIndex t b
    if f.n ≤ x ∨ f.n ≤ y then none
    else match findRoot t f f.n s x with
      | (_, .error _) => none
      | (s1, .ok rx) =>
        match findRoot t f f.n s1 y with
        | (_, .error _) => none
        | (s2, .ok ry) => some (d, fc, (fun f => f.snap), true,
            if rx = ry then (s2, BitVec.ofNat 64 rx)
            else if f.snap ∧ f.loghead = f.loglen then (s2, BitVec.ofNat 64 (min rx ry + 2 ^ 62))
            else (link s2 t f (min rx ry) (max rx ry), BitVec.ofNat 64 (min rx ry + 2 ^ 63)))
  | .eqfind d a fc =>
    if f.n ≤ eqIndex t a then none
    else match findRoot t f f.n s (eqIndex t a) with
      | (_, .error _) => none
      | (s1, .ok r) => some (d, fc, (fun _ => false), true, s1, BitVec.ofNat 64 r)
  | .eqsize d a fc =>
    if f.n ≤ eqIndex t a then none
    else match findRoot t f f.n s (eqIndex t a) with
      | (_, .error _) => none
      | (s1, .ok r) => some (d, fc, (fun _ => false), true, s1, BitVec.ofNat 64 (arrayGet s1 t f.size (4 * r) 4 + r * 2 ^ 32))
  | .eqsnap d a fc => some (d, fc, (fun _ => false), true,
      if (t.s a.toNat).getLsbD 0 then putDesc (putDesc s t f 0x03 1 (getF f.d 0x03 1 / 2 * 2)) t f 0x0C 4 0
      else putDesc s t f 0x03 1 (getF f.d 0x03 1 / 2 * 2 + 1), BitVec.ofNat 64 f.loghead)
  | .equndo d a fc =>
    let n := eqIndex t a
    if f.owned = false ∨ f.loghead < n ∨ (undoBad s t f n f.loghead).isSome then none
    else if f.loghead = n then some (d, fc, (fun _ => true), true, s, 0)
    else some (d, fc, (fun _ => true), true,
      putDesc (putDesc (undoDown s t f n f.loghead) t f 0x0C 4 n) t f 0x10 4 (f.classes + (f.loghead - n)),
      BitVec.ofNat 64 (f.loghead - n))
  | .eqstat d a fc => some (d, fc, (fun _ => false), false, s, BitVec.ofNat 64 (match (t.s a.toNat).toNat % 16 with
      | 0 => f.classes
      | 1 => f.loghead
      | 2 => getF f.d 0x03 1
      | 3 => f.n
      | _ => 0))
  | _ => none

/-- The command of an asynchronous member of the Lichen unit: its token, its forest, the command word's own conditions, what it
names (R257, R260). -/
def commandSpec (t : Thread) : Instr → Option (BitVec 5 × BitVec 4 × Bool × LichenCmd)
  | .eqinit d fc => some (d, fc, (t.s d.toNat).toNat < 2, { command := t.s d.toNat })
  | .eqreduce d a b fc =>
    let w := t.s d.toNat
    some (d, fc, bitsOf w 3 2 ≠ 3 ∧ (bitsOf w 1 0 = 3 → bitsOf w 3 2 ≠ 0) ∧ (bitOf w 4 = true → bitsOf w 15 8 ≠ 0xFF) ∧
        bitsOf w 7 5 = 0 ∧ bitsOf w 63 16 = 0,
      { reduce := true, command := w, input := t.c a.toNat, output := t.c b.toNat })
  | _ => none

/-- A command joins the Lichen unit of its thread's cluster with everything that it reads: the path's stores have been
performed, the token is claimed. -/
def joinsLichen (s : State) (t : Thread) (d : BitVec 5) (q : LichenCmd) : State :=
  let k := clusterOf s.cur.core
  let s1 := claimMe (drain s s.myPath) d
  s1.setCluster k { s1.cluster k with lichen := (s1.cluster k).lichen ++
    [{ q with
        loc := s.cur, handle := s.handleOf s.cur, launch := t.launch, rcb := t.rcb, reg := d.toNat, root := t.c 15, asid := t.asid
        crewId := t.crewId }] }

/-- A token register of the issuing thread filled at once. -/
def filled (s : State) (d : BitVec 5) (v : Word) : State := s.setMe (s.me.fill d.toNat v)

/-- A token claimed, and a later step owed to it (R318). -/
def owes (s : State) (t : Thread) (d : BitVec 5) (op : SysOp) : State :=
  let s1 := claimMe s d
  { s1 with pending := s1.pending ++
    [{ handle := s.handleOf s.cur, reg := d.toNat, loc := s.cur, launch := t.launch, rcb := t.rcb, op }] }

/-- A system member with a token: its token, and what it does, a value at once or a step owed (R322, R324, R325, R327, R328). -/
def sysSpec (s : State) (t : Thread) : Instr → Option (BitVec 5 × State × (Word ⊕ SysOp))
  | .halt d a m =>
    match haltTargets s (t.s a.toNat) m with
    | none => some (d, s, .inl 1)
    | some ids => if m.toNat % 2 = 1 then some (d, setHalted s ids false, .inl 0) else some (d, setHalted s ids true, .inr (.halt ids))
  | .harvest d a b =>
    if (rangeBad (t.s a.toNat) (t.s b.toNat)).isSome then none
    else if bitsOf (t.s b.toNat) 47 16 = 0 then some (d, s, .inl 0)
    else some (d, s, .inr (.harvest (bitsOf (t.s b.toNat) 15 0) ((t.s a.toNat).toNat / 4096) (bitsOf (t.s b.toNat) 47 16)))
  | .xinv d a b m =>
    let asid := bitsOf (t.s b.toNat) 15 0
    let scope : Scope := if m = 0 then { asid, page := (t.s a.toNat).toNat / 4096, count := bitsOf (t.s b.toNat) 47 16 }
      else if m = 1 then { mode := 1, asid } else { mode := 2 }
    if m = 0 ∧ (rangeBad (t.s a.toNat) (t.s b.toNat)).isSome then none
    else some (d, invalidate s scope, .inr (.xinv scope))
  | .keyclr d a =>
    if 63 < (t.s a.toNat).toNat then none
    else if (s.key (t.s a.toNat).toNat).active then some (d, s, .inr (.keyclr (t.s a.toNat).toNat)) else some (d, s, .inl 0)
  | .spillrpl d a b =>
    match namedCore (t.s a.toNat), namedCore (t.s b.toNat) with
    | some src, some dst => some (d, s, .inr (.spill src dst))
    | _, _ => some (d, s, .inl 0)
  | _ => none

/-! ### Steps outside the instructions (chapter 95) -/

/-- Which deliveries a step of the network is about (R12, R14, R15, R25, R160, R169, R248, R314, R335). -/
def netSpec : Instr → Option (Body → Bool)
  | .messageArrival => some fun b => match b with
      | .message _ _ => true
      | _ => false
  | .migratedThreadArrival => some fun b => match b with
      | .thread _ _ => true
      | _ => false
  | .helperTokenDelivery => some fun b => match b with
      | .token _ _ _ => true
      | _ => false
  | .replyDelivery => some fun b => match b with
      | .reply _ _ _ => true
      | _ => false
  | .wakeDelivery => some fun b => match b with
      | .wake _ _ => true
      | _ => false
  | .barrierPacket => some fun b => match b with
      | .barrier _ _ _ => true
      | _ => false
  | .nredPacket => some fun b => match b with
      | .nred _ _ _ _ => true
      | _ => false
  | .syscallEvent => some fun b => match b with
      | .event o _ _ _ _ _ => o == 0x00
      | _ => false
  | .pageEvent => some fun b => match b with
      | .event o _ _ _ _ _ => o == 0x10
      | _ => false
  | .faultEvent => some fun b => match b with
      | .event o _ _ _ _ _ => o == 0x20
      | _ => false
  | _ => none

/-- A token of a system member filled, its operation over (R318). -/
def paid (s : State) (n : Nat) (p : Pending) (v : Word) : State :=
  fillToken { s with pending := s.pending.eraseIdx n } p.handle p.reg v p.launch p.rcb 0

/-- The step that fills a system member's token, when it can: the state that the token is filled from, and the word (R322,
R324, R325, R327). -/
def sysEndSpec (s : State) (op : SysOp) : Instr → Option (State × Word)
  | .haltCompletion => match op with
      | .halt ids => if ids.all (quiet s) then some (s, 0) else none
      | _ => none
  | .harvestCompletion => match op with
      | .harvest asid page count => some ((harvest s asid page count).1, BitVec.ofNat 64 (harvest s asid page count).2)
      | _ => none
  | .xinvCompletion => match op with
      | .xinv _ => some (s, 0)
      | _ => none
  | .keyclrCompletion => match op with
      | .keyclr n => some (clearKey s n, 0)
      | _ => none
  | _ => none

/-- Which pending stores a step performs (R85, R87, R166, R331). -/
def storeStepSpec (s : State) : Instr → Option (PStore → Bool)
  | .storePerformed => some fun _ => true
  | .kick => some (isKick s)
  | .headerPublish => some (isHeader s)
  | .registerWrite => some fun p => match p.space with
      | .device _ => true
      | _ => false
  | _ => none

/-- A step at a fabric port in service, and the state after it (R392, R405). -/
def portSpec (s : State) (p : Nat) (x : Port) : Instr → Option State
  | .fabricPacket => some (
      if 8 ≤ (x.link 0).fails ∨ 8 ≤ (x.link 1).fails then s
      else s.setLink p s.cue.b fun y =>
        if y.key = none then y
        else if s.cue.flag then { y with fails := 0, sent := y.sent + 1, nonce := y.nonce + 1 } else { y with fails := y.fails + 1 })
  | .portOutOfService => some (if 8 ≤ (x.link 0).fails ∨ 8 ≤ (x.link 1).fails then portDown s p else s)
  | .linkLoss => some (portDown s p)
  | .keyRenewal => some (
      if s.identity = none ∨ ((x.link s.cue.b).key ≠ none ∧ (x.link s.cue.b).sent < 2 ^ 32) then s
      else
        let s1 := s.setLink p s.cue.b fun y =>
          let k := if y.key = none then y.keyIdx % 2 else 1 - y.keyIdx % 2
          { y with
            sent := y.sent - 2 ^ 32, nonce := 0, keyIdx := k, made := y.made + 1
            keys := y.keys.set k (some (Config.linkKey p (s.cue.b % 2) y.made)) }
        if fabricUp s then s1 else openRoutes s1)
  | _ => none

/-- A step about a region's request, its number, and what it does once `REQ` is 0 (R331, R339, R342, R347). -/
def requestSpec (r : Nat) : Instr → Option (Nat × (State → State))
  | .preemptRequest => some (1, fun s =>
      match s.launches.findIdx? fun l => l.rcb == r && l.started && l.completed < l.crews && (l.state == .running || l.resuming) with
      | some i => preemptLaunch s i
      | none => s)
  | .killRequest => some (2, fun s => killRegion s r)
  | .resumeRequest => some (3, fun s =>
      match s.launches.findIdx? fun l => l.rcb == r && (l.state == .saved || !l.savedOn.isEmpty) with
      | some i => match s.launches[i]? with
          | some l => if l.savedOn ≠ [] then { s with launches := s.launches.set i { l with resuming := true } } else resumeLaunch s i l
          | none => s
      | none => s)
  | _ => none

/-! ### The machine as a whole -/

/-- The memory of a machine is in its canonical form: addresses rise, and no cell holds what an unlisted one reads as. -/
def MemoryInv (s : State) : Prop := Memory.wf s.mem = true

/-- An agent's cycle begins: its counter goes up, and the results due are written (R113, R115). -/
def begun (s : State) (id : Nat) : State := landDue (s.setCore id { s.core id with cycle := (s.core id).cycle + 1 }) id

/-- The slots of an agent whose instruction can issue, once its cycle has begun. -/
def readySlots (s : State) (id : Nat) : List Nat :=
  (List.range 16).filter fun n => slotReady (begun s id) { core := id, slot := n }

/-- An agent's cycle as the slot that issues finds it: the waits in readiness noted (R22). -/
def marked (s : State) (id : Nat) : State := markReady { begun s id with cur := { core := id } } id (readySlots s id)

end Sys2Proof.Machine
end

