-- ==== Sys2Proof/Certificates/Slice0/Obligations.lean ====
section
/-!
DEFINITION. The statements for the provers.
-/

open Sys2Proof Sys2Proof.Machine

/-! ### Scalars, predicates, branches (chapter 06) -/

/-- R23, R115, R116, R118–R120: every register–register, immediate and constant member whose result is available at once
completes with the result of its table, CLZ, CTZ and POPC with the count of the bits that they name, and leaves everything
else as it was. -/
def Obligations.ScalarResults : Prop :=
  (∀ (s : State) (t : Thread) (i : Instr) (d : BitVec 5) (v : Word),
    Issues s t i → scalarSpec t s.pred i = some (d, v) →
      ∃ u, exec i s = .next u ∧ SetsScalar s u t i d v) ∧
  ∀ (s : State) (t : Thread) (d a : BitVec 5) (w : BitVec 1),
    (Issues s t (.clz d a w) → ∃ u n, exec (.clz d a w) s = .next u ∧ SetsScalar s u t (.clz d a w) d (BitVec.ofNat 64 n) ∧
      n ≤ 64 ∧ (∀ k, k < n → (t.s a.toNat).getLsbD (63 - k) = false) ∧ (n < 64 → (t.s a.toNat).getLsbD (63 - n) = true)) ∧
    (Issues s t (.ctz d a w) → ∃ u n, exec (.ctz d a w) s = .next u ∧ SetsScalar s u t (.ctz d a w) d (BitVec.ofNat 64 n) ∧
      n ≤ 64 ∧ (∀ k, k < n → (t.s a.toNat).getLsbD k = false) ∧ (n < 64 → (t.s a.toNat).getLsbD n = true)) ∧
    (Issues s t (.popc d a w) → ∃ u, exec (.popc d a w) s = .next u ∧
      SetsScalar s u t (.popc d a w) d
        (BitVec.ofNat 64 ((List.range 64).filter fun k => (t.s a.toNat).getLsbD k).length))

/-- R115, R116, R117: a multiplication or division retires at once and holds its destination, 8 or 68 cycles long, for the
result of its table; the division corners are those of R117. The result is written, and the hold ends, in the first cycle of
its core at or after the one it is due in, and not before. -/
def Obligations.TimedResults : Prop :=
  (∀ (s : State) (t : Thread) (i : Instr) (d : BitVec 5) (n : Nat) (v : Word),
    Issues s t i → timedSpec t i = some (d, n, v) →
      exec i s = .next (retired (holding (opened s t i) d v (s.cycle + n)))) ∧
  ∀ (s : State) (id n : Nat) (t : Thread) (r c : Nat) (v : BitVec 2048), n < 16 →
    s.thread? { core := id, slot := n } = some t → t.holds = [{ reg := r, value := v, due := some c }] →
      (landDue s id).thread { core := id, slot := n } =
        if c ≤ (s.core id).cycle then { t.setS r (v.setWidth 64) with holds := [] } else t

/-- R121, R122, R123: PCMPI, PCMP, PAND, POR, PXOR, PNOT and SMOVP complete with the predicates of their tables and leave everything else
as it was, `p0` and the predicates of bound streams among it. PMOVS completes with the sixteen predicates as a word. -/
def Obligations.PredicateResults : Prop :=
  ∀ (s : State) (t : Thread),
    (∀ p a w c i, let x : Instr := .pcmpi p a w c i
      Issues s t x → ∃ u, exec x s = .next u ∧
        SetsPreds s u t x (only p (compares c (t.s a.toNat) (BitVec.ofInt 64 i.toInt)))) ∧
    (∀ p a w b y m c, let x : Instr := .pcmp p a w b y m c
      let r := compares c (t.s a.toNat) (t.s b.toNat)
      Issues s t x → ∃ u, exec x s = .next u ∧
        SetsPreds s u t x (only p (if m = 0 then r else if m = 1 then s.pred p.toNat && r else s.pred p.toNat || r))) ∧
    (∀ d a b, let x : Instr := .pand d a b
      Issues s t x → ∃ u, exec x s = .next u ∧ SetsPreds s u t x (only d (s.pred a.toNat && s.pred b.toNat))) ∧
    (∀ d a b, let x : Instr := .por d a b
      Issues s t x → ∃ u, exec x s = .next u ∧ SetsPreds s u t x (only d (s.pred a.toNat || s.pred b.toNat))) ∧
    (∀ d a b, let x : Instr := .pxor d a b
      Issues s t x → ∃ u, exec x s = .next u ∧ SetsPreds s u t x (only d (xor (s.pred a.toNat) (s.pred b.toNat)))) ∧
    (∀ d a, let x : Instr := .pnot d a
      Issues s t x → ∃ u, exec x s = .next u ∧ SetsPreds s u t x (only d (!s.pred a.toNat))) ∧
    (∀ d, let x : Instr := .pmovs d
      Issues s t x → ∃ u v, exec x s = .next u ∧ SetsScalar s u t x d v ∧
        v.toNat < 2 ^ 16 ∧ ∀ n, n < 16 → v.getLsbD n = s.pred n) ∧
    (∀ a w, let x : Instr := .smovp a w
      Issues s t x → ∃ u, exec x s = .next u ∧ SetsPreds s u t x fun n => some ((t.s a.toNat).getLsbD n))

/-- R101, R124: a branch taken, JMP, JAL and JALR go to their target, with the address of the next instruction in the link
register, where the target is aligned and not inside a pair; a branch not taken goes on. A target that is not a multiple of 4 raises cause
0x07, and one inside a pair cause 0x10, with the target as its value and no other effect, but that the word before the target has been read
for the check. That JALR's base is an address and not an offset from `c0` is the model's reading, log 82. -/
def Obligations.Transfers : Prop :=
  ∀ (s : State) (t : Thread) (i : Instr), Issues s t i →
    let t1 := consume t (usesOf i)
    (∀ target link, jumpSpec t s.pred i = some (target, link) → transferCheck (opened s t i) t1 target = none →
      let s1 := reachTarget (opened s t i) t1 target
      exec i s = .next (jumped (match link with
        | some d => s1.wr d.toNat (t.pc + 4)
        | none => s1) target)) ∧
    (∀ p n o, i = .br p n o → jumpSpec t s.pred i = none → exec i s = .next (retired (opened s t i))) ∧
    (∀ target link, jumpSpec t s.pred i = some (target, link) →
      (target.toNat % 4 ≠ 0 → exec i s = .next (faults s 0x07 target)) ∧
      (target.toNat % 4 = 0 → insidePair (opened s t i) t1 target = true →
        exec i s = .next (faults (s.reach t1.asid (target.toNat - 4)) 0x10 target)))

/-! ### Loads, stores, atomics, hints (chapter 07) -/

/-- R137, R138, R139: LD, LDU and LDACQ, through a capability and a page that allow it, with room for a held destination and no earlier load
that an acquire fence waits for, hold their destination for the element's value, sign- or zero-extended.
That the value comes from a pending store of the thread's own path where one gives every byte of it, which R85 only allows, is the model's choice, log 6; that an
acquire beyond the crew, a revision-1 access to device memory, and a load that would mix a pending store with other bytes have the pending stores to their granules
performed first is the model's choice, log 56. -/
def Obligations.Loads : Prop :=
  (∀ (s : State) (t : Thread) (i : Instr) (x : LoadForm) (pl : Place), loadSpec i = some x →
    Issues s t i → Room t x.d → t.loadsStall = false →
      memCheck (opened s t i) s.cur (consume t (usesOf i)) (t.c x.c.toNat)
        ((t.c x.c.toNat).base + (t.s x.a.toNat).toNat + x.off) x.size x.size permR { r := true } = .ok pl →
        let s1 := (settleFor (opened s t i) s.myPath (x.acquire || strengthened t (t.c x.c.toNat)) pl x.size).reachAt pl
        let s2 := if x.hint then leaveReplica s1 (consume t (usesOf i)) (t.c x.c.toNat) pl else s1
        let v := if x.hint then s1.hintNat s1.cur.core true pl x.size else s1.loadNat (pathOf s1.cur.core) pl x.size
        exec i s = .next (retired (awaiting s2 x.d
          (if x.signed then BitVec.ofInt 64 (signedOf (8 * x.size) v) else BitVec.ofNat 64 v)))) ∧
  ∀ (s : State) (path : Nat) (pl : Place) (size : Nat),
    (∀ p, ((s.path path).reverse.find? fun q => q.readable && q.touches pl size) = some p →
      p.addr ≤ pl.key.2 ∧ pl.key.2 + size ≤ p.addr + p.size → settleFor s path false pl size = s) ∧
    ((∀ q ∈ s.path path, q.touches pl size = false) → ∀ b, settleFor s path b pl size = s)

/-- R85, R137, R139: ST and STREL, through a capability and a page that allow it, put the low bytes of their data register on
the path at the checked place; STREL beyond the crew, and a revision-1 access to device memory, first perform the path's
stores.
A store on its path is what the path's own loads of its bytes read, those of other threads of the path too, and they read every byte outside it as before: R85 only
says that they may, and that they do is the model's choice, log 6. -/
def Obligations.Stores : Prop :=
  (∀ (s : State) (t : Thread) (i : Instr) (x : StoreForm) (pl : Place), storeSpec i = some x →
    Issues s t i →
      memCheck (opened s t i) s.cur (consume t (usesOf i)) (t.c x.c.toNat)
        ((t.c x.c.toNat).base + (t.s x.a.toNat).toNat + x.off) x.size x.size permW { w := true } = .ok pl →
        let s1 := (if x.release || strengthened t (t.c x.c.toNat) then drain (opened s t i) s.myPath else opened s t i).reachAt pl
        exec i s = .next (retired (pushStore s1 s1.myPath
          (storeAt s.cur t pl x.size ((t.s x.d.toNat).setWidth 1024) false)))) ∧
  ∀ (s : State) (path : Nat) (l : Loc) (t : Thread) (pl : Place) (size : Nat) (v : BitVec 1024), size ≤ 128 →
    (pushStore s path (storeAt l t pl size v false)).loadNat path pl size = v.toNat % 256 ^ size ∧
      ∀ (q : Place) (n : Nat),
        (q.key.1 ≠ pl.key.1 ∨ q.key.2 + n ≤ pl.key.2 ∨ pl.key.2 + size ≤ q.key.2) →
          (pushStore s path (storeAt l t pl size v false)).loadNat path q n = s.loadNat path q n

/-- R83, R140, R142: an atomic, through a capability with ATOMIC and a page with R and W, with room for a held destination, is a
read-modify-write of its place that leaves the value of its table, at its scope and in its order, and holds its destination for the old value,
sign-extended. CAS leaves the location where the old value differs from its comparand.
The old value is the performed one, once stores of its path have been performed: all of them for an ordered atomic beyond the crew and for one to a kick word, a
mailbox word or a header (R87), those to its granule for any. Which stores those are is the model's choice, log 56. -/
def Obligations.Atomics : Prop :=
  (∀ (s : State) (t : Thread) (i : Instr) (x : AtomicForm) (pl : Place), atomicSpec i = some x →
    Issues s t i → Room t x.d → t.loadsStall = false →
      memCheck (opened s t i) s.cur (consume t (usesOf i)) (t.c x.c.toNat)
        ((t.c x.c.toNat).base + (t.s x.a.toNat).toNat) x.size x.size permAtomic { r := true, w := true } = .ok pl →
        ∃ r, x.fits t r ∧
          let y := rmwAt ((opened s t i).reachAt pl) s.cur (consume t (usesOf i)) pl x.size r
          exec i s = .next (retired (awaiting y.1 x.d (BitVec.ofInt 64 (signedOf (8 * x.size) y.2))))) ∧
  ∀ (s : State) (l : Loc) (t : Thread) (pl : Place) (size : Nat) (r : Rmw),
    let path := pathOf l.core
    let first := (r.ord = true ∧ r.sc ≠ 0) ∨ isRelease s (storeAt l t pl size 0 false) = true
    let s1 := settleFor (if first then drain s path else s) path true pl size
    (rmwAt s l t pl size r).2 = leNat (fun i => s1.placeByte pl i) size

/-- R84, R143: a fence retires; beyond the crew the stores of its path have been performed, after an acquire fence too, which is the model's choice, log 56.
R144: after an acquire or full fence later loads wait for every load that is outstanding. R146: a hint whose range its capability allows acts on each line of the range, in device memory; on
another space it does nothing. R147: DDSTAT holds its destination for the counter of its capability's domain. -/
def Obligations.FencesAndHints : Prop :=
  ∀ (s : State) (t : Thread),
    (∀ i sc acq rel, (i, acq, rel) ∈ ([(.fenceAcq sc, true, false), (.fenceRel sc, false, true), (.fenceFull sc, true, true)] :
        List (Instr × Bool × Bool)) → Issues s t i →
      let s1 := if sc = 0 then opened s t i else drain (opened s t i) s.myPath
      ∃ u, exec i s = .next (retired (s1.setMe u)) ∧
        u = { s1.me with holds := u.holds, relFence := if rel then max s1.me.relFence (sc.toNat + 1) else s1.me.relFence } ∧
        u.loadsStall = (s1.me.loadsStall || (acq && s1.me.holds.any fun h => h.due.isNone)) ∧
        u.holds.map (fun h => { h with fenced := false }) = s1.me.holds.map fun h => { h with fenced := false }) ∧
    (∀ i a b c f, hintSpec (consume t (usesOf i)) s.cur.core i = some (a, b, c, f) → Issues s t i →
      hintCheck (t.c c.toNat) ((t.c c.toNat).base + (t.s a.toNat).toNat) (t.s b.toNat).toNat = none →
      exec i s = .next (retired (if (t.c c.toNat).space = 0 then
          (linesOver ((t.c c.toNat).base + (t.s a.toNat).toNat) (t.s b.toNat).toNat).foldl f (opened s t i)
        else opened s t i))) ∧
    (∀ d a c, Issues s t (.ddstat d a c) → Room t d → (t.c c.toNat).tag = true →
      exec (.ddstat d a c) s = .next (retired (awaiting (opened s t (.ddstat d a c)) d
        (dedupCounter s (t.c c.toNat).dom (t.s a.toNat).toNat))))

/-- R148: MCST and REDST, through a capability and a page that allow them, perform the path's stores, claim their token, write
their destinations in ascending order, each with the value that their table gives, and leave the status for the token under way. -/
def Obligations.Multicasts : Prop :=
  (∀ (i : Instr) (x : CastForm) (o : Nat), castSpec i = some x → x.op = some o → ∀ old v, old < 2 ^ (8 * x.size) → v < 2 ^ (8 * x.size) →
    Rmw.new { op := o, v } x.size old = some (x.f old v)) ∧
  ∀ (s : State) (t : Thread) (i : Instr) (x : CastForm) (pl : Place), castSpec i = some x →
    Issues s t i →
      memCheck (opened s t i) s.cur (consume t (usesOf i)) (t.c x.c.toNat)
        ((t.c x.c.toNat).base + (t.s x.a.toNat).toNat) x.size x.size
        (if x.op.isSome then permW ||| permAtomic else permW) { r := x.op.isSome, w := true, late := true } = .ok pl →
        let v := (t.s x.b.toNat).toNat % 2 ^ (8 * x.size)
        let s1 := claimMe (drain ((opened s t i).reachAt pl) s.myPath) x.d
        let s2 := sendCast s1 pl (storeAt s.cur (consume t (usesOf i)) pl x.size (BitVec.ofNat 1024 v) false) x.op
        let r := castRun s2 (consume t (usesOf i)) pl x v
        r.stopped = false →
          exec i s = .next (retired { r.s with multis := r.s.multis ++
            [{ handle := s.handleOf s.cur, reg := x.d.toNat, loc := s.cur, launch := t.launch
               rcb := t.rcb, status := castStatus r, crewId := t.crewId, epc := t.pc }] })

/-! ### Capabilities and CSRs (chapter 06) -/

/-- R126, R127, R128, R129: the members that derive a capability write it where `c15` is not the destination at kernel
privilege; the members that read one write their word. -/
def Obligations.CapabilityResults : Prop :=
  ∀ (s : State) (t : Thread) (i : Instr), Issues s t i →
    (∀ d c, capSpec t i = some (d, c) → ¬(d = 15 ∧ t.priv = 0) →
      exec i s = .next (retired ((opened s t i).setCap d.toNat c))) ∧
    (∀ d v, capReadSpec t i = some (d, v) → ∃ u, exec i s = .next u ∧ SetsScalar s u t i d v)

/-- R127, R128: no capability member widens. In every state that CBND, CINC or CRESTR leaves, the capability `c[d]` lies within the source, carries no permission that
the source lacks, and names the same domain and space; where the source has no tag, the window passes its end or `c15` is out of reach, a cause is raised instead. -/
def Obligations.CapabilitiesNarrow : Prop :=
  ∀ (s u : State) (t : Thread) (i : Instr) (d c : BitVec 4) (a r : BitVec 5), i ∈ [.cbnd d c a r, .cinc d c a, .crestr d c a] →
    Issues s t i → exec i s = .next u →
      let src := t.c c.toNat
      (capSpec t i = none ∨ (d = 15 ∧ t.priv = 0) → ∃ cause val, cause ∈ [0x04, 0x05, 0x06] ∧ u = faults s cause val) ∧
      (capSpec t i ≠ none → ¬(d = 15 ∧ t.priv = 0) → src.base + src.len < 2 ^ 56 → ∃ w, u.thread? s.cur = some w ∧
        let x := w.c d.toNat
        src.base ≤ x.base ∧ x.base + x.len ≤ src.base + src.len ∧ (∀ n, x.perm.getLsbD n = true → src.perm.getLsbD n = true) ∧
          x.dom = src.dom ∧ x.space = src.space)

/-- R131, R132: CLD loads a capability with its tag, and CST stores one with its tag, where the checks of both pass. A capability whose
bits [127:112] are not zero, or of SPACE 11, loads with its tag clear. -/
def Obligations.CapabilityMemory : Prop :=
  (∀ (c : Cap), c.clean.bits = c.bits ∧
    (c.clean.tag = true ↔ c.tag = true ∧ c.bits.toNat < 2 ^ 112 ∧ c.space ≠ 3)) ∧
  ∀ (s : State) (t : Thread) (x c : BitVec 4) (a : BitVec 5) (o : BitVec 13) (pl : Place),
    let addr : Int := (t.c c.toNat).base + (t.s a.toNat).toNat + o.toInt * 16
    (Issues s t (.cld x c a o) → t.loadsStall = false → ¬(x = 15 ∧ t.priv = 0) → (t.c c.toNat).space ≠ 2 →
      capCheck (t.c c.toNat) addr 16 (permR ||| permLoadCap) = none →
      memCheck (opened s t (.cld x c a o)) s.cur (consume t (usesOf (.cld x c a o))) (t.c c.toNat) addr 16 16 permR
        { r := true } = .ok pl →
      let s1 := (settleFor (opened s t (.cld x c a o)) s.myPath false pl 16).reachAt pl
      let got : Cap := { bits := BitVec.ofNat 128 (s1.loadNat s1.myPath pl 16), tag := mintedTag t (t.c c.toNat) (s1.loadTag s1.myPath pl) }
      exec (.cld x c a o) s = .next (retired (s1.setCap x.toNat got.clean))) ∧
    (Issues s t (.cst x c a o) → (t.c c.toNat).space ≠ 2 → addr % 16 = 0 →
      capCheck (t.c c.toNat) addr 16 permW = none →
      ((t.c x.toNat).tag = true → (t.c c.toNat).can permStoreCap = true ∧
        ((t.c x.toNat).can permGlobal = true ∨ (t.c c.toNat).space = 1)) →
      memCheck (opened s t (.cst x c a o)) s.cur (consume t (usesOf (.cst x c a o))) (t.c c.toNat) addr 16 16 permW
        { w := true } = .ok pl →
      exec (.cst x c a o) s = .next (retired (pushStore ((opened s t (.cst x c a o)).reachAt pl) s.myPath
        (storeAt s.cur t pl 16 ((t.c x.toNat).bits.setWidth 1024) (t.c x.toNat).tag))))

/-- R112, R134, R135: CSRR, CSRW, CSRS and CSRC of a CSR number in a range above the thread's privilege raise cause 0x11, of one that the agent
does not have cause 0x02, with no other effect. Of a present one in reach CSRR, and CSRS and CSRC with an operand of 0, write the CSR to
their destination and change nothing else; a write that takes effect at once leaves the CSR's new value, every other CSR as it was, and the
old value in the destination. A write to `BMODEk`, `DBGCTL` or `PWRCTL` that changes nothing completes with the old value; one that does
leaves its request, and its writer waits. That a PPRIV of 0 or 3 and the low bits of `MVEC` are kept as written is the model's choice, log 31. -/
def Obligations.CsrMembers : Prop :=
  ∀ (s : State) (t : Thread) (d a : BitVec 5) (r : BitVec 12) (i : Instr),
    i ∈ ([.csrr d r, .csrw d a r, .csrs d a r, .csrc d a r] : List Instr) → Issues s t i →
    let n := r.toNat
    let s1 := opened s t i
    let t1 := consume t (usesOf i)
    let old := csrRead s1 t1 n
    let out := isVisitor s1 s.cur t1
    (t.priv < csrLevel n → exec i s = .next (faults s 0x11 ((encodeWord i).setWidth 64))) ∧
    (csrLevel n ≤ t.priv → ¬csrPresent s.cur.core n → exec i s = .next (faults s 0x02 ((encodeWord i).setWidth 64))) ∧
    (csrLevel n ≤ t.priv → csrPresent s.cur.core n →
      (i = .csrr d r → exec i s = .next (retired (s1.wr d.toNat old))) ∧
      (t.s a.toNat = 0 → i = .csrs d a r ∨ i = .csrc d a r → exec i s = .next (retired (s1.wr d.toNat old))) ∧
      ∀ v, csrSpec t old i = some (d, r, some v) →
        (¬csrLate n → ∃ u, exec i s = .next (retired (u.wr d.toNat old)) ∧ csrRead u u.me n = csrAfter out t n old v ∧
          (∀ m, m ≠ n → csrRead u u.me m = csrRead s1 t1 m) ∧
          u = { s1 with cores := u.cores, clusters := u.clusters, sroot := u.sroot, svocab := u.svocab }) ∧
        (0x050 ≤ n → n ≤ 0x05F → let k := clusterOf s.cur.core
          (out = true ∨ 3 ≤ v.toNat ∨ (s1.cluster k).mode (n - 0x50) = v.toNat → exec i s = .next (retired (s1.wr d.toNat old))) ∧
          (out = false → v.toNat < 3 → (s1.cluster k).mode (n - 0x50) ≠ v.toNat → (s1.cluster k).switch = none →
            exec i s = .next (stays (waitFor ((s1.setCluster k { s1.cluster k with
              switch := some { index := n - 0x50, mode := v.toNat, loc := s.cur } }).wr d.toNat old) .csr)))) ∧
        (n = 0xC01 →
          (3 ≤ v.toNat ∨ s.dbgctl = v.toNat → exec i s = .next (retired (s1.wr d.toNat old))) ∧
          (v.toNat < 3 → s.dbgctl ≠ v.toNat → s.dbgReq = none →
            exec i s = .next (stays (waitFor (State.wr { s1 with dbgReq := some (v.toNat, s.cur) } d.toNat old) .csr)))) ∧
        (n = 0xC02 → let x := dieOf s.cur.core
          let w := powerValue s1 x v
          (2 ^ 34 ≤ v.toNat ∨ w = pwrctl (s1.die x) → exec i s = .next (retired (s1.wr d.toNat old))) ∧
          (v.toNat < 2 ^ 34 → w ≠ pwrctl (s1.die x) → (s1.die x).power = none →
            exec i s = .next (stays (waitFor ((s1.setDie x { s1.die x with power := some (w, s.cur) }).wr d.toNat old) .csr)))))


/-! ### Threads, messages, rings, barriers (chapter 08) -/

/-- R11, R12, R152: START with a pool slot free, fewer than ten helpers live and nobody before it claims its token and places the
helper, which begins at the entry with its argument in `s1` and the starter's capabilities; with no room the starter parks
and waits its turn. -/
def Obligations.Start : Prop :=
  (∀ (t : Thread) (h entry arg : Word) (r : Nat), let x := helperOf t h entry arg r
    x.pc = entry ∧ x.s 1 = arg ∧ (∀ n, n ≠ 1 → x.s n = 0) ∧ (∀ n, x.c n = t.c n) ∧ x.token = some (h, r) ∧ x.counted = true) ∧
  (∀ (s : State) (id : Nat), (helperRoom s id).isSome = true →
    ((List.range 16).filter fun n => (s.thread? { core := id, slot := n }).any fun t => t.counted).length < 10) ∧
  ∀ (s : State) (t : Thread) (d a b : BitVec 5), Issues s t (.start d a b) →
    let entry := BitVec.ofNat 64 (t.c 0).base + t.s a.toNat
    let id := s.cur.core
    let s1 := claimMe (opened s t (.start d a b)) d
    entry.toNat % 4 = 0 →
      (∀ n, (s.core id).startq = [] → helperRoom s id = some n →
        exec (.start d a b) s = .next (retired (placeIn s1 { core := id, slot := n }
          (helperOf (consume t (usesOf (.start d a b))) (s.handleOf s.cur) entry (t.s b.toNat) d.toNat)))) ∧
      ((s.core id).startq ≠ [] ∨ helperRoom s id = none →
        exec (.start d a b) s = .next (stays (waitFor (s1.setCore id { s1.core id with startq := (s1.core id).startq ++ [s.cur.slot] })
          (.start entry (t.s b.toNat) d.toNat))))

/-- R152, R101: START at an entry that is no multiple of 4 raises cause 0x07. R155: VGROW beyond 32 registers and VSHRINK beyond
the allotment raise cause 0x03. R159: MIGRATE from slot 0 raises cause 0x01. R17, R161: a member of a visitor that acts on the rings, the
barriers, the tiles, the accumulators or the reductions of its cluster's crew raises cause 0x06. Each has no other effect. -/
def Obligations.ThreadFaults : Prop :=
  ∀ (s : State) (t : Thread),
    (∀ d a b, Issues s t (.start d a b) → (BitVec.ofNat 64 (t.c 0).base + t.s a.toNat).toNat % 4 ≠ 0 →
      exec (.start d a b) s = .next (faults s 0x07 (BitVec.ofNat 64 (t.c 0).base + t.s a.toNat))) ∧
    (∀ n, Issues s t (.vgrow n) → n ≠ 0 → 32 < t.vallot + n.toNat →
      exec (.vgrow n) s = .next (faults s 0x03 ((encodeWord (.vgrow n)).setWidth 64))) ∧
    (∀ n, Issues s t (.vshrink n) → n ≠ 0 → t.vallot < n.toNat →
      exec (.vshrink n) s = .next (faults s 0x03 ((encodeWord (.vshrink n)).setWidth 64))) ∧
    (∀ a c, Issues s t (.migrate a c) → s.cur.slot = 0 →
      exec (.migrate a c) s = .next (faults s 0x01 ((encodeWord (.migrate a c)).setWidth 64))) ∧
    ∀ i, ofCrew i = true → Issues s t i → isVisitor (opened s t i) s.cur (consume t (usesOf i)) = true →
      exec i s = .next (faults s 0x06 ((encodeWord i).setWidth 64))

/-- R27, R155: VGROW of zero does nothing; with registers free and nobody before it, it enlarges the allotment; else it parks. VSHRINK
gives registers up, with their contents and their streams. -/
def Obligations.Allotment : Prop :=
  ∀ (s : State) (t : Thread) (n : BitVec 6),
    let id := s.cur.core
    (Issues s t (.vgrow n) → t.vallot + n.toNat ≤ 32 →
      (n = 0 → exec (.vgrow n) s = .next (retired (opened s t (.vgrow n)))) ∧
      (n ≠ 0 → (s.core id).vgrowq = [] → n.toNat ≤ freeVectors s id →
        exec (.vgrow n) s = .next (retired (s.setMe { t with vallot := t.vallot + n.toNat }))) ∧
      (n ≠ 0 → (s.core id).vgrowq ≠ [] ∨ freeVectors s id < n.toNat →
        exec (.vgrow n) s = .next (stays (waitFor ((opened s t (.vgrow n)).setCore id
          { (opened s t (.vgrow n)).core id with vgrowq := (s.core id).vgrowq ++ [s.cur.slot] }) (.vgrow n.toNat))))) ∧
    (Issues s t (.vshrink n) → n.toNat ≤ t.vallot →
      (∀ h ∈ t.holds, h.vector = true → h.reg < t.vallot - n.toNat) →
      (n = 0 → exec (.vshrink n) s = .next (retired (opened s t (.vshrink n)))) ∧
      (n ≠ 0 → let s1 := s.setMe { t with
          vallot := t.vallot - n.toNat, vregs := t.vregs.filter fun e => e.1 < t.vallot - n.toNat }
        exec (.vshrink n) s = .next (retired (s1.setCore id
          ((s1.core id).unbind s.cur.slot fun r => t.vallot - n.toNat ≤ r)))))

/-- R153: RETIRE with no claim and no hold performs the path's stores, sends a helper's `s1` to its starter's token and frees the
slot. R15, R159: MIGRATE from a pool slot, through a capability that reaches its address, sends the thread to the core that
owns the address and frees the slot. -/
def Obligations.Leaving : Prop :=
  (∀ (s : State) (l : Loc) (t : Thread) (v : Word), s.thread? l = some t →
    endThread s l v = settle (leaveSlot (match t.token with
      | some (h, r) => send s
          { dest := handleCore h, src := l, launch := t.launch, rcb := t.rcb, body := .token h r v, sender := t.number, crew := t.crewId }
      | none => s) l) l.core) ∧
  (∀ (s : State) (l : Loc), (leaveSlot s l).thread? l = none) ∧
  ∀ (s : State) (t : Thread),
    (Issues s t .retire → t.settled = true →
      exec .retire s = .next (left (endThread (drain (opened s t .retire) s.myPath) s.cur (t.s 1)))) ∧
    (∀ a c, let addr : Int := (t.c c.toNat).base + (t.s a.toNat).toNat
      let s1 := opened s t (.migrate a c)
      let t1 := consume t (usesOf (.migrate a c))
      Issues s t (.migrate a c) → s.cur.slot ≠ 0 → t.settled = true → capCheck (t.c c.toNat) addr 1 0 = none →
      ((t.c c.toNat).space = 0 ∨ (t.c c.toNat).space = 1 ∧ isVisitor s1 s.cur t1 = false ∧
        addr < (s1.cluster (clusterOf s.cur.core)).padSize) →
      let s2 := drain s1 s.myPath
      let core := (s2.core s2.cur.core).unbind s2.cur.slot fun _ => true
      let s3 := send s2
        { dest := ownerCore s1 s.cur.core (t.c c.toNat).space addr.toNat, src := s.cur, launch := t.launch, rcb := t.rcb
          body := .thread (travelling t1 (predWord core s.cur.slot t1)) false, sender := t.number, crew := t.crewId }
      exec (.migrate a c) s = .next (left (settle (leaveSlot s3 s.cur) s.cur.core)))

/-- R18, R154: THID writes the thread's handle; YIELD retires, and its slot is not eligible in the next 16 cycles. R25, R156, R321: PARK and WFI
consume a pending wake and retire; without one they park until a wake arrives. -/
def Obligations.Parking : Prop :=
  ∀ (s : State) (t : Thread),
    (∀ d, Issues s t (.thid d) → ∃ u, exec (.thid d) s = .next u ∧ SetsScalar s u t (.thid d) d (s.handleOf s.cur)) ∧
    (Issues s t .yield → ∃ u, exec .yield s = .next u ∧ OnlyMe s u ∧ u.me = t.onward u.me 4 s.now ∧
      s.cycle + 16 < u.me.nextIssue) ∧
    (∀ i w, (i = .park ∧ w = .park) ∨ (i = .wfi ∧ w = .wfi) → Issues s t i →
      (t.wake = true → exec i s = .next (retired (s.setMe { t with wake := false }))) ∧
      (t.wake = false → exec i s = .next (stays (waitFor (opened s t i) w))))

/-- R158: SEND to a core that a message can reach performs the path's stores and sends the handler and the payload registers;
SEND to another is counted as undeliverable. R160: REPLY sends its value to the handle's thread. -/
def Obligations.Messages : Prop :=
  ∀ (s : State) (t : Thread) (a b : BitVec 5),
    (∀ n, let s1 := opened s t (.send a b n)
      let t1 := consume t (usesOf (.send a b n))
      Issues s t (.send a b n) →
      (∀ id, reachable s1 (t.s a.toNat) t1.launch = some id → outbound s1 s.cur.core < 8 →
        exec (.send a b n) s = .next (retired (send (drain s1 s.myPath)
          { dest := id, src := s.cur, launch := t.launch, rcb := senderRcb s1 t1
            body := .message (t.s b.toNat) ((List.range n.toNat).map fun i => t.s (i + 1)), sender := t.number
            crew := t.crewId }))) ∧
      (reachable s1 (t.s a.toNat) t1.launch = none →
        exec (.send a b n) s = .next (retired (undeliverable s1 (senderRcb s1 t1) (t.s a.toNat) 0 t1.launch t.crewId)))) ∧
    (∀ r, let s1 := opened s t (.reply a b r)
      Issues s t (.reply a b r) →
        exec (.reply a b r) s = .next (retired (send (drain s1 s.myPath)
          { dest := handleCore (t.s a.toNat), src := s.cur, launch := t.launch, rcb := senderRcb s1 (consume t (usesOf (.reply a b r)))
            body := .reply (t.s a.toNat) r.toNat (t.s b.toNat), sender := t.number, crew := t.crewId })))

/-- R163, R164, R165: QCFG of zero returns a ring to IDLE, and of a configuration that passes the checks makes it ACTIVE and empty at the index of
its start register; waiters of the old ring, of saved threads too, are stopped. QCLAIM, QWAITF and QWAITE answer with an index and a predicate as their table gives;
QWAITF and QWAITE without an answer park in issue order; QPUB, QFREE and QSETRD change the ring and serve its waiters. QERR of zero reads the
status of the ring; QERR of a code puts an ACTIVE ring into ERROR with that code, serves its waiters, and reads the status as it was; on a ring
in ERROR it reads the status only. -/
def Obligations.RingMembers : Prop :=
  ∀ (s : State) (t : Thread) (i : Instr),
    let s1 := ringOpened s t i
    let t1 := consume t (usesOf i)
    Issues s t i → isVisitor (opened s t i) s.cur t1 = false →
      (∀ c a b q, i = .qcfg c a b q →
        let r := ownRing s1 s.cur q
        let cfg := t.s a.toNat
        (cfg = 0 → exec i s = .next (retired (reconfigure s1 (clusterOf s.cur.core) q.toNat {} r.waiters))) ∧
        (cfg ≠ 0 → qcfgCheck r (t.c c.toNat) cfg = none →
          exec i s = .next (retired (reconfigure s1 (clusterOf s.cur.core) q.toNat
            { state := 1, buf := t.c c.toNat, logn := bitsOf cfg 3 0, logs := bitsOf cfg 7 4, hdr := bitOf cfg 8
              clm := (t.s b.toNat).setWidth 32, pub := (t.s b.toNat).setWidth 32, rd := (t.s b.toNat).setWidth 32
              fre := (t.s b.toNat).setWidth 32 } r.waiters)))) ∧
      (∀ d p q v b r, ringAnswerSpec (ownRing s1 s.cur q) i = some (d, p, q, v, b, r) →
        exec i s = .next (retired (((if r = ownRing s1 s.cur q then s1 else putRing s1 s.cur q r).setPred p.toNat b).wr d.toNat (v.setWidth 64)))) ∧
      (∀ q w, ringParkSpec (ownRing s1 s.cur q) i = some (q, w) →
        exec i s = .next (stays (waitFor (putRing s1 s.cur q
          { ownRing s1 s.cur q with waiters := (ownRing s1 s.cur q).waiters ++ [s1.cur] }) w))) ∧
      (∀ q r, ringChangeSpec t (ownRing s1 s.cur q) i = some (q, r) →
        exec i s = .next (retired (wakeRing (putRing s1 s.cur q r) s.cur q))) ∧
      (∀ d a q, i = .qerr d a q →
        let r := ownRing s1 s.cur q
        let code : BitVec 16 := (t.s a.toNat).setWidth 16
        (code = 0 ∨ 2 ≤ r.state → exec i s = .next (retired (s1.wr d.toNat (ringStatus r)))) ∧
        (code ≠ 0 → r.state = 1 → exec i s = .next (retired
          ((wakeRing (putRing s1 s.cur q { r with state := 2, code }) s.cur q).wr d.toNat (ringStatus r)))))

/-- R168: BARINIT with a configuration in range and a rank table whose entries pass the checks gives its context the rank, the scope, the
partners and counts that start anew. R91, R169: BARARR arrives, and BARWAIT waits for the phase of the latest arrival or goes on;
BARSYNC does the one after the other. -/
def Obligations.Barriers : Prop :=
  ∀ (s : State) (t : Thread) (n : BitVec 4),
    (∀ c a b es, let i : Instr := .barinit c a b n
      let s1 := opened s t i
      let t1 := consume t (usesOf i)
      let cfg := t.s a.toNat
      let p := bitsOf cfg 15 0
      let r := (t.s b.toNat).toNat
      let ks := List.range (rounds p)
      let entry (x : Nat) : BitVec 32 := ((es.find? fun e => e.1 == x).map fun e => e.2).getD 0
      let ranks := [r, 0] ++ ks.flatMap fun k => [partnerOut p r k, partnerIn p r k]
      Issues s t i → isVisitor s1 s.cur t1 = false →
      r < p → bitsOf cfg 17 16 ≠ 3 → bitsOf cfg 63 18 = 0 →
      let s2 := settleRanks s1 t1 (t1.c c.toNat) ranks
      let id := s2.cur.core
      readRanks s2 t1 (t1.c c.toNat) (bitsOf cfg 17 16) r ranks = .ok es →
        exec i s = .next (retired (s2.setCore id { s2.core id with
          bars := (s2.core id).bars.set n.toNat { (s2.core id).bar n.toNat with
            p, rank := r, scope := bitsOf cfg 17 16, dests := ks.map fun k => (k, entry (partnerOut p r k)), root := entry 0
            arrived := 0, done := 0, round := 0, sent := false, issued := 0, combined := 0 } }))) ∧
    (∀ r u, let i : Instr := .bararr r n
      Issues s t i → isVisitor (opened s t i) s.cur (consume t (usesOf i)) = false →
      arrive (opened s t i) n.toNat (r == 1) = .ok u → exec i s = .next (retired u)) ∧
    (let i : Instr := .barwait n
      let s1 := opened s t i
      let b := (s1.core s.cur.core).bar n.toNat
      Issues s t i → isVisitor s1 s.cur (consume t (usesOf i)) = false →
        exec i s = .next (if b.arrived ≤ b.done then retired s1 else stays (waitFor s1 (.barwait n.toNat b.arrived)))) ∧
    (∀ r u, let i : Instr := .barsync r n
      Issues s t i → isVisitor (opened s t i) s.cur (consume t (usesOf i)) = false →
      arrive (opened s t i) n.toNat (r == 1) = .ok u → u.cur = s.cur →
        let b := (u.core s.cur.core).bar n.toNat
        exec i s = .next (if b.arrived ≤ b.done then retired u else stays (waitFor u (.barwait n.toNat b.arrived))))

/-! ### Vectors (chapter 09) -/

/-- R174, R177, R178, R181, R191: an elementwise vector member, under any prefix that it honours or none, whose registers can be
read and whose destination can be written, writes the elements of its table and notes the flags that they raise. -/
def Obligations.VectorResults : Prop :=
  ∀ (s : State) (t : Thread) (i : Instr) (px : Px) (x : VecForm) (s1 u : State) (vs : Tab (BitVec 2048)),
    vecSpec px i = some x → Issues s t i px →
      isLoadBound (opened s t i) x.d.toNat = false →
      readVectors (opened s t i) (x.reads ++ mergeReads px x.d) = .ok (s1, vs) →
      let r := x.f (consume t (usesOf i)) s1 vs
      writeVector (s1.setMe (s1.me.note r.flags r.sr)) x.d.toNat r.val = .ok u →
        RunsTo px i s (retired u px)

/-- R174: element j of an elementwise result is the member's element where it is active; elsewhere it is zero under zeroing and the
destination's own without. R178: the integer elements of the vector members are the operations on words of the element's width. -/
def Obligations.LanesByElement : Prop :=
  (∀ (px : Px) (t : Thread) (w : Nat) (old : BitVec 2048) (sr : Bool) (f : Nat → Nat × Nat) (j : Nat),
    w ∈ [4, 8, 16, 32] → j < 2048 / w →
      elem w (lanes px t w old sr f).val j =
        if active px t w j then (f j).1 % 2 ^ w else if px.z = 1 then 0 else elem w old j) ∧
  ∀ (w : Nat) (a b c : BitVec w), w ∈ [8, 16, 32] →
    let n (k : VKind) : BitVec w := BitVec.ofNat w (intOp k w a.toNat b.toNat c.toNat)
    n .add = a + b ∧ n .sub = a - b ∧ n .mul = a * b ∧ n .fma = a * b + c ∧ n .and = a &&& b ∧ n .or = a ||| b ∧
      n .xor = a ^^^ b ∧ n .neg = -a ∧ n .abs = (if a.slt 0 then -a else a) ∧
      n .min = (if b.slt a then b else a) ∧ n .max = (if a.slt b then b else a) ∧
      n .minu = (if b.ult a then b else a) ∧ n .maxu = (if a.ult b then b else a) ∧
      n .shl = a <<< (b.toNat % w) ∧ n .shr = a >>> (b.toNat % w) ∧ n .sra = a.sshiftRight (b.toNat % w) ∧
      n .mulh = BitVec.ofInt w (a.toInt * b.toInt / 2 ^ w)

/-- R72: of two numbers VMIN and VMINN return the smaller and VMAX and VMAXN the larger, −0 below +0, without a flag; of a number and a NaN
VMIN and VMAX return the number and VMINN and VMAXN the format's NaN; of two NaNs all return it; a signalling NaN raises invalid.
R57, R61: that NaN in FP32, BF16, FP16 and NF, where every NaN is quiet. R180: the conditions of VCMP hold as their table gives, with invalid raised by a signalling NaN and, under LT and
LE, by a quiet one; one that the type does not have raises cause 0x02. -/
def Obligations.MinMax : Prop :=
  fmF32.nan.1 = 0x7FC00000 ∧ fmBf16.nan.1 = 0x7FC0 ∧ fmF16.nan.1 = 0x7E00 ∧
  (∀ (f : Fm) (a : Nat), f.ieee = false → (f.value a).sig = false ∧ (f.nanp = true → f.e ≠ 0 → f.nan.1 = 2 ^ (f.e + f.m) - 1)) ∧
  (∀ (f : Fm) (isMax propagate : Bool) (a b : Nat),
    let x := f.value a
    let z := f.value b
    let r := minMaxFm f isMax propagate a b
    let v := f.value r.1
    (x.isNan = false → z.isNan = false →
      r.2 = 0 ∧ (r.1 = a % 2 ^ f.width ∨ r.1 = b % 2 ^ f.width) ∧
        (if isMax then x.atMost v ∧ z.atMost v else v.atMost x ∧ v.atMost z) ∧
        ∀ n m e k, x = .fin n 0 e → z = .fin m 0 k → v.isNeg = if isMax then n && m else n || m) ∧
    (x.isNan = true → z.isNan = false → r.1 = if propagate then f.nan.1 else b % 2 ^ f.width) ∧
    (x.isNan = false → z.isNan = true → r.1 = if propagate then f.nan.1 else a % 2 ^ f.width) ∧
    (x.isNan = true → z.isNan = true → r.1 = f.nan.1) ∧
    (x.isNan || z.isNan → r.2 = if x.sig || z.sig then 1 else 0)) ∧
  (∀ (f : Fm) (w a b : Nat),
    let x := f.value a
    let z := f.value b
    let nan : Prop := x.isNan = true ∨ z.isNan = true
    let y : Ty := { w, fm := some f }
    let signals : Nat := if x.sig || z.sig then 1 else 0
    ((vCond 0 y a b).1 = true ↔ x.atMost z ∧ z.atMost x) ∧ ((vCond 1 y a b).1 = true ↔ ¬(x.atMost z ∧ z.atMost x)) ∧
      ((vCond 2 y a b).1 = true ↔ x.atMost z ∧ ¬z.atMost x) ∧ ((vCond 3 y a b).1 = true ↔ x.atMost z) ∧
      ((vCond 6 y a b).1 = true ↔ nan) ∧ (∀ c ∈ [0, 1, 6], (vCond c y a b).2 = signals) ∧
      ∀ c ∈ [2, 3], (nan → (vCond c y a b).2 = 1) ∧ (¬nan → (vCond c y a b).2 = 0)) ∧
  (∀ (w : Nat) (a b : BitVec w),
    let h (c : Nat) : Bool × Nat := vCond c { w } a.toNat b.toNat
    w ∈ [8, 16, 32] → h 0 = (a == b, 0) ∧ h 1 = (a != b, 0) ∧ h 2 = (a.slt b, 0) ∧ h 3 = (a.sle b, 0) ∧ h 4 = (a.ult b, 0) ∧
      h 5 = (a.ule b, 0)) ∧
  ∀ (s : State) (t : Thread) (k : BitVec 3) (a b : BitVec 5) (y : BitVec 3) (n : BitVec 1) (c : BitVec 5), s.thread? s.cur = some t →
    let i : Instr := .vcmp k a b y n c
    6 < c.toNat ∨ (y.toNat < 3 ∧ c = 6) ∨ (3 < y.toNat ∧ (c = 4 ∨ c = 5)) →
      exec i s = .next (faults s 0x02 ((encodeWord i).setWidth 64))

/-- R179, R180: VCMP, whose registers can be read, writes a mask bit for each active word lane from its elements, keeps or under zeroing
clears the bits of the inactive ones, and notes the flags of the active ones. R191: KAND, KOR and KNOT write their mask, KPOPC counts one; VSEL,
whose destination can be written, picks each element by the prefix's mask. -/
def Obligations.Masks : Prop :=
  ∀ (s : State) (t : Thread) (i : Instr),
    (∀ px k a b y n c s1 vs, i = .vcmp k a b y n c → Issues s t i px → readVectors (opened s t i) [a.toNat, b.toNat] = .ok (s1, vs) →
      let ty := tyOf s1 (consume t (usesOf i)) y
      let at' (j e : Nat) : Bool × Nat := vCond c.toNat ty (elem ty.w (regOf vs a) (j * (32 / ty.w) + e))
        (elem ty.w (regOf vs b) (j * (32 / ty.w) + e))
      let lanes := List.range (32 / ty.w)
      let on (j : Nat) : Bool := px.k == 0 || (t.k px.k.toNat).getLsbD j
      let flags := ((List.range 64).filter on).foldl (fun f j => lanes.foldl (fun f e => f ||| (at' j e).2) f) 0
      ∃ m, RunsTo px i s (retired (s1.setMe ((s1.me.note flags false).setK k.toNat m)) px) ∧
        ∀ j, j < 64 → m.getLsbD j =
          if on j then (if n = 1 then lanes.any fun e => (at' j e).1 else lanes.all fun e => (at' j e).1)
          else decide (px.z = 0) && (t.k k.toNat).getLsbD j) ∧
    (∀ d v, maskSpec t i = some (d, v) → Issues s t i →
      exec i s = .next (retired ((opened s t i).setMe ((opened s t i).me.setK d.toNat v)))) ∧
    (∀ d a, i = .kpopc d a → Issues s t i → ∃ u, exec i s = .next u ∧
      SetsScalar s u t i d (BitVec.ofNat 64 ((List.range 64).filter fun j => (t.k a.toNat).getLsbD j).length)) ∧
    (∀ px d a b y s1 vs u, i = .vsel d a b y → Issues s t i px → isLoadBound (opened s t i) d.toNat = false →
      readVectors (opened s t i) [a.toNat, b.toNat] = .ok (s1, vs) →
      let ty := tyOf s1 (consume t (usesOf i)) y
      writeVector s1 d.toNat (lanes {} t ty.w 0 false fun j =>
        (elem ty.w (if active px t ty.w j then regOf vs a else regOf vs b) j, 0)).val = .ok u →
        RunsTo px i s (retired u px))

/-- R176, R182, R183: a reduction notes its flags and holds its scalar destination eight cycles for the result over the active elements;
VEXTR holds it for the element, zero for an index outside the register. VSCAN holds its vector destination eight cycles for the prefix sums of the
active elements, or pushes them where it is bound to a store stream. -/
def Obligations.Reductions : Prop :=
  ∀ (s : State) (t : Thread) (i : Instr) (px : Px) (s1 : State) (vs : Tab (BitVec 2048)), Issues s t i px →
    (∀ d a y f, redSpec px i = some (d, a, y, f) → readVectors (opened s t i) [a.toNat] = .ok (s1, vs) →
      let t1 := consume t (usesOf i)
      let ty := tyOf s1 t1 y
      let r := f t1 ty (activeElems px t1 ty.w (regOf vs a))
      RunsTo px i s (retired (holding (s1.setMe (s1.me.note r.2.1 r.2.2)) d r.1 (s1.cycle + 8)) px)) ∧
    (∀ d a b y, i = .vextr d a b y → readVectors (opened s t i) [a.toNat] = .ok (s1, vs) →
      let ty := tyOf s1 (consume t (usesOf i)) y
      let n := (t.s b.toNat).toNat
      let x := elem ty.w (regOf vs a) n
      RunsTo px i s (retired (holding s1 d
        (if ty.count ≤ n then 0 else if ty.fm.isNone then BitVec.ofInt 64 (sgn ty.w x) else BitVec.ofNat 64 x)
        (s1.cycle + 8)) px)) ∧
    (∀ d a y u, i = .vscan d a y → isLoadBound (opened s t i) d.toNat = false →
      readVectors (opened s t i) (a.toNat :: mergeReads px d) = .ok (s1, vs) →
      let t1 := consume t (usesOf i)
      let ty := tyOf s1 t1 y
      let r := lanes px t1 ty.w (regOf vs d) (ty.fm.isSome && effRm px t1 == 5)
        (scanElem ty t1 (effRm px t1) (activeElems px t1 ty.w (regOf vs a)))
      writeHeldVector (s1.setMe (s1.me.note r.flags r.sr)) d r.val (some (s1.cycle + 8)) = .ok (u, .next) →
        RunsTo px i s (retired u px))

/-- R184, R185: VCVT, VPACK and VUNPK, between types whose element counts and part allow it, whose registers can be read and written, write the
converted elements and note the flags; VCVT and VPACK to a scaled nf also write the scales of their blocks to `vC`. Where `vC` is `vD` it takes the elements alone: the
model's choice, log 80. -/
def Obligations.Conversions : Prop :=
  ∀ (s : State) (t : Thread) (i : Instr) (px : Px) (x : ConvForm) (s1 s2 u : State) (vs : Tab (BitVec 2048)) (lo n : Nat) (g : Nat → Nat),
    let s0 := opened s t i
    let t1 := consume t (usesOf i)
    let desc := nfDesc s0 t1
    let scaled := bsfOf desc ≠ 0 ∧ px.uc = 1
    let readsVc := scaled ∧ ((x.src = 7 ∧ x.m ≠ .pack) ∨ (x.dst = 7 ∧ x.m ≠ .unpk))
    let writesVc := scaled ∧ x.dst = 7 ∧ x.m ≠ .unpk
    convSpec i = some x → Issues s t i px →
      x.part (tyOf s0 t1 x.src) (tyOf s0 t1 x.dst) (if writesVc then bszOf desc else 0) = some (lo, n, g) →
      isLoadBound s0 x.d.toNat = false → (writesVc → isLoadBound s0 px.vc.toNat = false) →
      readVectors s0 ([x.a.toNat] ++ (if x.m = .pack then [x.d.toNat] else mergeReads px x.d) ++ (if readsVc then [px.vc.toNat] else []))
        = .ok (s1, vs) →
      let r := convertAll px t1 x.m desc (tyOf s0 t1 x.src) (tyOf s0 t1 x.dst) (isNf x.src) (isNf x.dst) (regOf vs x.a) (regOf vs x.d)
        (regOf vs px.vc) (effRm px t1) lo n g
      (if writesVc ∧ px.vc ≠ x.d then writeVector (s1.setMe (s1.me.note r.1.flags r.1.sr)) px.vc.toNat r.2
        else .ok (s1.setMe (s1.me.note r.1.flags r.1.sr))) = .ok s2 →
      writeVector s2 x.d.toNat r.1.val = .ok u →
        RunsTo px i s (retired u px)

/-- R176, R186, R187: a vector load whose active units are all reachable, with room for a held destination and no earlier load that an acquire
fence waits for, holds its destination, or the push to the store stream that it is bound to, for the elements loaded, the others kept or zeroed.
R78: each unit is a load of its own. A vector store whose active units are all reachable puts their elements on the path, in order, as pieces of its granules. -/
def Obligations.VectorMemory : Prop :=
  (∀ (s : State) (t : Thread) (i : Instr) (px : Px) (x : VecMemForm) (s1 u : State) (vs : Tab (BitVec 2048)) (ps : List (Nat × Place)),
    let s0 := opened s t i
    let t1 := consume t (usesOf i)
    let size := unitBytes (tyOf s0 t1 x.y)
    let limit := x.units (unitBytes (tyOf s t x.y))
    vecLoadSpec i = some x → Issues s t i px → x.ok (tyOf s t x.y) = true → isLoadBound s0 x.d.toNat = false →
      t.dataHolds < 8 → t.loadsStall = false →
      readVectors s0 (x.reads ++ mergeReads px x.d) = .ok (s1, vs) →
      unitPlaces s1 t1 (t.c x.c.toNat) size permR { r := true }
        (((List.range (min limit (256 / size))).filter (active px t1 (8 * size))).map fun j =>
          (j, x.addr t1 vs (unitBytes (tyOf s t x.y)) j)) = .ok ps →
      let s2 := settleAll s1 (strengthened t1 (t.c x.c.toNat)) (ps.map fun p => p.2) size
      let got : Tab Nat := ps.map fun p => (p.1, s2.hintNat s2.cur.core x.hint p.2 size)
      let s3 := if x.hint then ps.foldl (fun s p => leaveReplica s t1 (t.c x.c.toNat) p.2) s2 else s2
      writeHeldVector s3 x.d (BitVec.ofNat 2048 ((List.range (256 / size)).foldl (fun acc j =>
        acc + (if limit ≤ j then 0 else if got.has j then got.get 0 j
          else if px.z = 1 then 0 else elem (8 * size) (regOf vs x.d) j) * 2 ^ (8 * size * j)) 0)) none = .ok (u, .next) →
        RunsTo px i s (retired u px)) ∧
  ∀ (s : State) (t : Thread) (i : Instr) (px : Px) (x : VecMemForm) (s1 : State) (vs : Tab (BitVec 2048)) (ps : List (Nat × Place)),
    let s0 := opened s t i
    let t1 := consume t (usesOf i)
    let size := unitBytes (tyOf s0 t1 x.y)
    vecStoreSpec i = some x → Issues s t i px → x.ok (tyOf s t x.y) = true →
      readVectors s0 (x.d.toNat :: x.reads) = .ok (s1, vs) →
      unitPlaces s1 t1 (t.c x.c.toNat) size permW { w := true }
        (((List.range (min (x.units (unitBytes (tyOf s t x.y))) (256 / size))).filter (active px t1 (8 * size))).map fun j =>
          (j, x.addr t1 vs (unitBytes (tyOf s t x.y)) j)) = .ok ps →
      let s2 := (ps.map fun p => p.2).foldl State.reachAt (if strengthened t1 (t.c x.c.toNat) then drain s1 s1.myPath else s1)
      RunsTo px i s (retired (pushWide s2 s2.myPath (ps.map fun p =>
          storeAt s1.cur t1 p.2 size (BitVec.ofNat 1024 (elem (8 * size) (regOf vs x.d) p.1)) false)) px)

/-- R109, R189, R190: a special-function member with room in its cluster's queue of 32 puts its request there, with the register-load that it
popped from a load stream, and parks until the unit returns; a push that fails at the return gives that register-load back. -/
def Obligations.SpecialFunctions : Prop :=
  (∀ (s : State) (k : Nat) (q : SfuReq) (rest : List SfuReq) (n pos cause : Nat) (val : Word) (held : Nat) (e : Stop),
    let s1 := s.setCluster k { s.cluster k with sfu := rest }
    writeVectorAt s1 q.loc q.dest (sfuResult q (vectorAt s q.loc q.dest)).1 = .error e → e.fault? = some (cause, val, held) →
      q.popped = some (n, pos) →
        let c := s1.core q.loc.core
        let st := c.stream n
        let s2 := s1.setCore q.loc.core
          { c with streams := c.streams.set n { st with pos, state := .running, queue := .data q.src :: st.queue } }
        sfuReturn s k q rest = stopThread ((s2.reachStop e).onThread q.loc fun t => { t with wait := none }) q.loc cause val held false) ∧
  ∀ (s : State) (t : Thread) (i : Instr) (px : Px) (fn : Nat) (d a : BitVec 5) (y : BitVec 3) (s1 : State) (vs : Tab (BitVec 2048)),
    let k := clusterOf s.cur.core
    sfuSpec i = some (fn, d, a, y) → Issues s t i px → isLoadBound (opened s t i) d.toNat = false →
      ((opened s t i).cluster k).sfu.length < 32 → readVectors (opened s t i) [a.toNat] = .ok (s1, vs) →
        let rm := effRm px (consume t (usesOf i))
        RunsTo px i s (stays (waitFor (s1.setCluster k { s1.cluster k with sfu := (s1.cluster k).sfu ++
          [{ loc := s1.cur, gen := (s1.slot s1.cur).gen, fn, typ := y, rm := if rm = 5 then 0 else rm, dest := d.toNat
             zero := px.z == 1, active := if px.k = 0 then 0xFFFFFFFFFFFFFFFF else t.k px.k.toNat, src := regOf vs a
             len := px.len, popped := poppedOf (opened s t i) a.toNat }] }) .sfu))

/-- R105, R106, R108: a prefix before a member of majors 0x22 to 0x2C that honours its fields runs the member under them, so that before an
elementwise vector member whose registers can be read and written it writes the elements of that member's table and retires with the member as one
instruction. A follower of another major raises cause 0x10; reserved values of the prefix, and fields that the member of the follower's
selector does not honour, raise cause 0x02 with the prefix as the value; a follower that decodes to none raises it with the follower as the value. R107: the words of majors
0x00 and 0x3F raise cause 0x01, those of majors 0x39 to 0x3D, as every word that selects no member, cause 0x02. -/
def Obligations.PrefixAndNoMember : Prop :=
  (∀ w : BitVec 32,
    (majorOf w = 0x00 ∨ majorOf w = 0x3F → decodeWord w = .illegalInstruction) ∧
    (0x39 ≤ majorOf w → majorOf w ≤ 0x3D → decodeWord w = .reservedEncoding) ∧
    (majorOf w = 0x3E → decodeWord w = .vectorPrefix)) ∧
  ∀ (s : State) (t : Thread), s.thread? s.cur = some t →
    let op := majorOf s.next
    let i := decodeWord s.next
    let m := memberOf s.next
    let px := prefixOf s.word
    (op < 0x22 ∨ 0x2C < op → exec .vectorPrefix s = .next (faults s 0x10 (s.next.setWidth 64))) ∧
    (0x22 ≤ op → op ≤ 0x2C →
      (prefixReserved s.word = true → exec .vectorPrefix s = .next (faults s 0x02 (s.word.setWidth 64))) ∧
      (m ≠ .reservedEncoding → prefixIgnored px m = true → exec .vectorPrefix s = .next (faults s 0x02 (s.word.setWidth 64))) ∧
      (prefixReserved s.word = false → m = .reservedEncoding ∨ prefixIgnored px m = false → i = .reservedEncoding →
        exec .vectorPrefix s = .next (faults s 0x02 (s.next.setWidth 64))) ∧
      (prefixReserved s.word = false → m = .reservedEncoding ∨ prefixIgnored px m = false →
        exec .vectorPrefix s = runPair px i s ∧
        ∀ (x : VecForm) (s1 u : State) (vs : Tab (BitVec 2048)), vecSpec px i = some x → Issues s t i px →
          isLoadBound (opened s t i) x.d.toNat = false →
          readVectors (opened s t i) (x.reads ++ mergeReads px x.d) = .ok (s1, vs) →
          let r := x.f (consume t (usesOf i)) s1 vs
          writeVector (s1.setMe (s1.me.note r.flags r.sr)) x.d.toNat r.val = .ok u →
            exec .vectorPrefix s = .next (retired u px))) ∧
    exec .illegalInstruction s = .next (faults s 0x01 (s.word.setWidth 64)) ∧
    exec .reservedEncoding s = .next (faults s 0x02 (s.word.setWidth 64))

/-! ### Tiles, accumulators, streams, copies (chapter 10) -/

/-- R17, R39, R196, R197: TLD of the crew's thread, with no queued instruction that meets its tile, no load that an acquire fence waits for and all
rows reachable, fills the tile from its rows, the other bytes zero, and takes the format of a formatted bank; TST, with none that still
writes its tile, stores the rows through the path, one after another. -/
def Obligations.TileMemory : Prop :=
  ∀ (s : State) (t : Thread) (n : BitVec 3) (c : BitVec 4) (a b : BitVec 5) (rows : List (Nat × List (Nat × Nat × Place))),
    (∀ h, let i : Instr := .tld n c a b h
      let s0 := opened s t i
      let t1 := consume t (usesOf i)
      let w := (s0.core s.cur.core).shape n.toNat
      let cap := t.c c.toNat
      Issues s t i → InCrew s t i → (s0.core s.cur.core).busy n.toNat = false → t.loadsStall = false →
      tileRows s0 t1 c a b w permR { r := true } false = .ok rows →
        let all := rows.flatMap fun r => r.2
        let s1 := spanLoads s0 t1 cap all
        let v : BitVec 131072 := BitVec.ofNat 131072 (rows.foldl (fun a r => a + spanNat s1 (h == 1) r.2 * 2 ^ (1024 * r.1)) 0)
        let s2 := if h = 1 then all.foldl (fun s p => leaveReplica s t1 cap p.2.2) s1 else s1
        let s3 := s2.setCore s.cur.core { s2.core s.cur.core with tiles := (s2.core s.cur.core).tiles.set n.toNat v }
        let cl := s0.cluster (clusterOf s.cur.core)
        let bank := cl.bankFormat (cl.bankOf (rowAt t1 c a b 0).toNat)
        exec i s = .next (retired (if cap.space = 1 ∧ bitOf bank 4 = false then
          setTileKind s3 n.toNat 0 (shapeWord (rowsOf w) (rowBytesOf w) (bitsOf bank 3 0)) else s3))) ∧
    (let i : Instr := .tst n c a b
      let s0 := opened s t i
      let t1 := consume t (usesOf i)
      Issues s t i → InCrew s t i → (s0.core s.cur.core).toWrite n.toNat = false →
      tileRows s0 t1 c a b ((s0.core s.cur.core).shape n.toNat) permW { w := true } true = .ok rows →
        let s1 := spanOrder s0 t1 (t.c c.toNat) (rows.flatMap fun r => r.2)
        exec i s = .next (retired (pushRows s1 s1.myPath (rows.map fun r =>
          spanStores s1 t1 r.2 (tileRow ((s0.core s.cur.core).tile n.toNat) r.1)))))

/-- R17, R195, R198, R199: in the crew's thread TZERO, TTRANS and TWRV with room in the queue join it with the tile they leave, and TZERO and TTRANS set its class and
shape; TRDV, once its tile is written, writes the row to its vector register. -/
def Obligations.TileMembers : Prop :=
  ∀ (s : State) (t : Thread) (n : BitVec 3),
    (∀ r, let i : Instr := .tzero n r
      let s0 := opened s t i
      Issues s t i → InCrew s t i → MatRoom s0 →
        exec i s = .next (retired (setTileKind (queued s0 [] [.tile n.toNat 0] 0) n.toNat r.toNat ((s0.core s0.cur.core).shape n.toNat)))) ∧
    (∀ r, let i : Instr := .ttrans n r
      let s0 := opened s t i
      let x := tileAt s0 (consume t (usesOf i)) r.toNat
      Issues s t i → InCrew s t i → MatRoom s0 → x.cols ≤ 128 → x.rows * x.ty.w % 8 = 0 → x.rows * x.ty.w / 8 ≤ 128 →
        let s1 := queued s0 [r.toNat] [.tile n.toNat (tileOf x.cols fun j => packRow x.ty.w x.rows fun i => tileElem x.bytes x.ty.w i j)] 0
        exec i s = .next (retired (setTileKind s1 n.toNat x.cls
          (shapeWord x.cols (x.rows * x.ty.w / 8) (formatIndex ((s1.core s1.cur.core).shape r.toNat)))))) ∧
    (∀ v a s1 vs, let i : Instr := .twrv n v a
      Issues s t i → InCrew s t i → readVectors (opened s t i) [v.toNat] = .ok (s1, vs) → MatRoom s1 →
        exec i s = .next (retired (queued s1 [n.toNat] [.tile n.toNat (tileOf 128 fun k =>
          if k = (t.s a.toNat).toNat % 128 then (vs.get 0 v.toNat).toNat % 2 ^ 1024
          else tileRow ((s1.core s1.cur.core).tile n.toNat) k)] 0))) ∧
    (∀ v a u, let i : Instr := .trdv n v a
      let c := (opened s t i).core (opened s t i).cur.core
      Issues s t i → InCrew s t i → c.toWrite n.toNat = false → c.matq.length < 4 →
      writeVector (opened s t i) v.toNat (BitVec.ofNat 2048 (tileRow (c.tile n.toNat) ((t.s a.toNat).toNat % 128))) = .ok u →
        exec i s = .next (retired u))

/-- R17, R195, R200–R203: a multiply of the crew's thread whose operands pass the checks, with the feature where they are of 4 bits, joins the queue with the
accumulator it leaves: the corner of its rows and columns summed, the rest kept. One whose operands fail the checks raises cause
0x02 with no other effect. -/
def Obligations.Multiplies : Prop :=
  ∀ (s : State) (t : Thread) (i : Instr) (x : MmaForm),
    let s0 := opened s t i
    let t1 := consume t (usesOf i)
    let p := tileAt s0 t1 x.a.toNat
    let q := tileAt s0 t1 x.b.toNat
    mmaSpec s0 t1 i = some x → Issues s t i → InCrew s t i →
      (mmaOk p q = false ∨ x.ok = false → exec i s = .next (faults s 0x02 ((encodeWord i).setWidth 64))) ∧
      (MatRoom s0 → mmaOk p q = true → x.ok = true → (p.ty.w = 4 → (s0.die (dieOf s0.cur.core)).features.getLsbD 6 = true) →
        let old := (s0.core s0.cur.core).acc x.n.toNat
        let r := accOf fun r c => if r < p.rows && c < q.rows then x.f r c (accElem old r c) else (accElem old r c, 0)
        exec i s = .next (retired (queued s0 ([x.a.toNat, x.b.toNat, 8 + x.n.toNat] ++ x.extra) [.acc x.n.toNat r.1] r.2)))

/-- R17, R195, R204, R205: in the crew's thread ACZERO, ACLD, ACCVT and ACADD with room join the queue with what they leave; ACST, once its accumulator is written,
stores it through the path. -/
def Obligations.Accumulators : Prop :=
  ∀ (s : State) (t : Thread) (n : BitVec 1),
    (let i : Instr := .aczero n;
      Issues s t i → InCrew s t i → MatRoom (opened s t i) → exec i s = .next (retired (queued (opened s t i) [] [.acc n.toNat 0] 0))) ∧
    (∀ c a ps, let i : Instr := .acld n c a
      Issues s t i → InCrew s t i → t.loadsStall = false → accSpan (opened s t i) (consume t (usesOf i)) c a permR { r := true } false = .ok ps →
        let s1 := spanLoads (opened s t i) (consume t (usesOf i)) (t.c c.toNat) ps
        MatRoom s1 → exec i s = .next (retired (queued s1 [] [.acc n.toNat (BitVec.ofNat 524288 (spanNat s1 false ps))] 0))) ∧
    (∀ c a ps, let i : Instr := .acst n c a
      let core := (opened s t i).core (opened s t i).cur.core
      Issues s t i → InCrew s t i → core.toWrite (8 + n.toNat) = false → core.matq.length < 4 →
      accSpan (opened s t i) (consume t (usesOf i)) c a permW { w := true } true = .ok ps →
        let s1 := spanOrder (opened s t i) (consume t (usesOf i)) (t.c c.toNat) ps
        exec i s = .next (retired (pushWide s1 s1.myPath (spanStores s1 (consume t (usesOf i)) ps (core.acc n.toNat).toNat)))) ∧
    (∀ u b, let i : Instr := .accvt n u b
      let x := tileAt (opened s t i) (consume t (usesOf i)) u.toNat
      let v := ((opened s t i).core (opened s t i).cur.core).acc n.toNat
      let one (r j : Nat) : Nat × Nat :=
        let q := sourceValue (if b = 1 then { w := 32 } else { w := 32, fm := some fmF32 }) (.fin false 1 0) false (accElem v r j)
        convert x.ty 0 0 q.1.exact q.2
      Issues s t i → InCrew s t i → MatRoom (opened s t i) → x.cols ≤ 128 →
        exec i s = .next (retired (queued (opened s t i) [8 + n.toNat]
          [.tile u.toNat (tileOf x.rows fun r => packRow x.ty.w x.cols fun j => (one r j).1)]
          ((List.range x.rows).foldl (fun f r => (List.range x.cols).foldl (fun f j => f ||| (one r j).2) f) 0)))) ∧
    (∀ m b, let i : Instr := .acadd n m b
      let c := (opened s t i).core (opened s t i).cur.core
      let r := accOf fun r j =>
        if m = 1 then (saturate 32 (sgn 32 (accElem (c.acc n.toNat) r j) + sgn 32 (accElem (c.acc b.toNat) r j)), 0)
        else roundFm fmF32 0 0 (exactSum [fmF32.value (accElem (c.acc n.toNat) r j), fmF32.value (accElem (c.acc b.toNat) r j)])
      Issues s t i → InCrew s t i → MatRoom (opened s t i) →
        exec i s = .next (retired (queued (opened s t i) [8 + n.toNat, 8 + b.toNat] [.acc n.toNat r.1] r.2)))

/-- R206, R207, R208: a stream member of a stream that no other slot holds leaves the stream as its table gives; SBIND of a register that no stream of the slot has binds it, in
place of what the slot had bound the stream to, and clears the predicate of the stream first; of the register that the stream is bound to already it changes nothing, of one bound
to another stream it raises 0x0B, as every member of a stream of another slot does. SSTOP and SSYNC of a stream that does not run do nothing, and SSYNC of a store stream performs
the elements that it has pushed. The elements of a running stream advance a register-load at a time, and the last one ends it. That SGO forgets the last pushed register-load is
the model's choice, log 34. -/
def Obligations.StreamMembers : Prop :=
  (∀ (st : Stream), st.pos ≤ st.total →
    st.advance.pos ≤ st.total ∧ st.pos ≤ st.advance.pos ∧
      (st.pos + st.per < st.total → st.advance.pos = st.pos + st.per ∧ st.advance.state = st.state) ∧
      (st.total ≤ st.pos + st.per → st.advance.pos = st.total ∧ st.advance.state = .ended)) ∧
  ∀ (s : State) (t : Thread) (i : Instr) (n : BitVec 3),
    let s0 := opened s t i
    let c := s0.core s0.cur.core
    let st := c.stream n.toNat
    (Issues s t i → i ∈ [.sunbind n, .sgo n, .sstop n, .ssync n] ∨ (∃ v, i = .sbind v n) ∨ (∃ a b c, i = .scfg a b c n) →
      (∃ b, st.bound = some b ∧ b.1 ≠ s.cur.slot) →
        exec i s = .next (faults s 0x0B ((encodeWord i).setWidth 64))) ∧
    (Issues s t i → (∀ b, st.bound = some b → b.1 = s.cur.slot) →
      (∀ x, (∀ v m, i ≠ .sbind v m) → streamSpec t st s.cur.slot i = some (n, x) →
        exec i s = .next (retired (s0.setCore s0.cur.core { c with streams := c.streams.set n.toNat x }))) ∧
      (∀ v x, i = .sbind v n → streamSpec t st s.cur.slot i = some (n, x) → streamFor c s.cur.slot v.toNat = none →
        let s1 := s0.setMe { t with preds := t.preds &&& ~~~(1#16 <<< (8 + n.toNat)) }
        exec i s = .next (retired (s1.setCore s1.cur.core { s1.core s1.cur.core with
          streams := (s1.core s1.cur.core).streams.set n.toNat x }))) ∧
      (∀ v m, i = .sbind v n → streamFor c s.cur.slot v.toNat = some m → exec i s =
        if m = n.toNat then .next (retired s0) else .next (faults s 0x0B ((encodeWord i).setWidth 64))) ∧
      (i = .sstop n ∨ i = .ssync n → st.state = .unconfigured ∨ st.state = .configured → exec i s = .next (retired s0)) ∧
      (i = .ssync n → st.state = .running ∨ st.state = .ended → st.store = true →
        exec i s = .next (retired (performWhere s0 s0.myPath fun p => p.stream == some n.toNat && p.loc.core == s0.cur.core))))

/-- R211, R212: a copy member whose command and spans pass the checks joins its cluster's queue of sixteen with everything it reads, its
thread's stores performed and its token claimed; one of no bytes fills the token with 0 at once. -/
def Obligations.Copies : Prop :=
  ∀ (s : State) (t : Thread) (i : Instr) (op : Nat) (d da sa : BitVec 5) (cd cs : BitVec 4) (q0 : CopyCmd),
    let s0 := opened s t i
    let t1 := consume t (usesOf i)
    let k := clusterOf s0.cur.core
    let q : CopyCmd := { q0 with
      loc := s0.cur, handle := s0.handleOf s0.cur, launch := t1.launch, rcb := t1.rcb, reg := d.toNat
      src := t1.c cs.toNat, dst := t1.c cd.toNat, srcAddr := (t1.c cs.toNat).base + (t1.s sa.toNat).toNat
      dstAddr := (t1.c cd.toNat).base + (t1.s da.toNat).toNat, banks := bankDescs (s0.cluster k), asid := t1.asid, crewId := t1.crewId }
    copySpec i = some (op, d, cd, da, cs, sa) → Issues s t i → decodeCopy s0 t1 op (t1.s d.toNat) = some q0 → copyCheck s0 t1 q = none →
      (q0.count = 0 → exec i s = .next (retired (s0.setMe (s0.me.fill d.toNat 0)))) ∧
      (q0.count ≠ 0 → (s0.cluster k).copies.length < 16 →
        let s1 := claimMe (drain s0 s0.myPath) d
        exec i s = .next (retired (s1.setCluster k { s1.cluster k with copies := (s1.cluster k).copies ++ [q] })))

/-! ### Sequences (chapter 11) -/

/-- R223, R229, R240, R242, R243, R250: TKFORCE, TKSTAT and RNDU on a block that passes the checks of R219, R222 and R225, with room for a held
destination, hold it for the word that their table gives; TKDRAW and TKCKPT write the block that theirs gives, and TKDRAW holds its destination
for the cursor. R229, R241: RNDV and RNDG write a draw to every word lane of a vector register that can be written; TKMASK, whose counts and
register can be read, masks and penalizes the logits of its lanes. That TKSTAT answers the stop fields in STATE 3 alone and the fault code in STATE 4 alone is the
model's choice, log 59. -/
def Obligations.SequenceBlock : Prop :=
  ∀ (s : State) (t : Thread) (i : Instr) (o : Opened), Issues s t i →
    let s1 := settled s t i
    let s2 := reachBlock s1 o.places
    let t1 := consume t (usesOf i)
    (∀ d c r v, seqReadSpec t o.b i = some (d, c, r, v) → Room t d → openBlock s1 t1 i c r = .ok o →
      exec i s = .next (retired (awaiting s2 d v))) ∧
    (∀ d c b', seqWriteSpec t o.b i = some (d, c, b') → Room t d → openBlock s1 t1 i c { faulted := true } = .ok o →
      exec i s = .next (retired (awaiting (writeBlock s2 t1 o.places o.b b') d
        (BitVec.ofNat 64 ((cursorOf b').1 + (cursorOf b').2 * 2 ^ 32))))) ∧
    (∀ r a c f u, drawSpec i = some (r, a, c, f) → openBlock s1 t1 i c { faulted := true } = .ok o →
      writeVector s2 r.toNat (lanesOf 32 ((List.range 64).map fun j => f (philox (seedF o.b) (seqidF o.b)
        (BitVec.ofNat 32 (cursorOf o.b).1) (BitVec.ofNat 32 (cursorOf o.b).2) (BitVec.ofNat 32 ((t.s a.toNat).toNat + j))))) = .ok u →
      exec i s = .next (retired u)) ∧
    (∀ r a c ps s3 u vs, i = .tkmask r a c → openBlock s1 t1 i c { faulted := true } = .ok o →
      let id (j : Nat) : Nat := (t.s a.toNat).toNat + j
      let tab := getF o.b 0x1CC 1
      let counted := if flagF o.b 2 ∧ tab ≠ 0xFF then (List.range 64).filter fun j => id j < o.v.ntok else []
      sidePlaces s2 t1 tab 2 permR { r := true } (counted.map fun j => 2 * id j) = .ok ps →
      isLoadBound s2 r.toNat = false → readVectors (ps.foldl State.reachAt (reachEntries s2 t1 (usedIf counted [tab]))) [r.toNat] =
        .ok (s3, vs) →
      let counts : Tab Nat := counted.zip (ps.map fun p => sideGet s3 p 2)
      let lane (j : Nat) : Nat :=
        let x := elem 32 (vs.get 0 r.toNat) j
        if masked o.v o.b (id j) then 0xFF800000
        else if counts.get 0 j = 0 ∨ (fmF32.value x).isNan then x
        else penalize x (getF o.b 0x1C0 4) (getF o.b 0x1C4 4) (getF o.b 0x1C8 4) (counts.get 0 j)
      writeVector s3 r.toNat (lanesOf 32 ((List.range 64).map lane)) = .ok u →
        exec i s = .next (retired u))

/-- R237, R238, R244, R245: on a block and tables that pass their checks, with room for a held destination, TKCOMMIT commits its id to the block, the
history and the counts, and holds its destination for the status; TKTRUNC goes back to the checkpoint; TKFORK writes the child's block and
tables and answers its number. -/
def Obligations.SequenceTokens : Prop :=
  ∀ (s : State) (t : Thread) (d : BitVec 5) (c : BitVec 4) (o : Opened), Room t d →
    (∀ a f hist cnt, let i : Instr := .tkcommit d a f c
      let s1 := settled s t i
      let s2 := reachBlock s1 o.places
      let t1 := consume t (usesOf i)
      let id := (t.s a.toNat).toNat % 2 ^ 32
      Issues s t i → openBlock s1 t1 i c { stopped := true, faulted := true } = .ok o →
      sideOpt s2 t1 (getF o.b 0x508 1) (4 * posF o.b) 4 permW { w := true } = .ok hist →
      sideOpt s2 t1 (getF o.b 0x1CC 1) (2 * id) 2 (permR ||| permW) { r := true, w := true } = .ok cnt →
      id < o.v.ntok → posF o.b ≠ 0xFFFFFFFF → (stateF o.b = 2 → f = 1 ∧ id = getF o.b (0x30 + 4 * headF o.b) 4) →
        let r := commit s2 o.v o.b id (f == 1)
        let s0 := reachEntries (reachText s2 o.v id) t1 [getF o.b 0x1CC 1, getF o.b 0x508 1]
        let s3 := sideUpdate (sideUpdate s0 t1 4 (fun _ => id) hist) t1 2 (fun n => min (n + 1) 65535) cnt
        exec i s = .next (retired (awaiting (writeBlock s3 t1 o.places o.b r.b) d (statusOf r)))) ∧
    (∀ a counts refs, let i : Instr := .tktrunc d a c
      let s1 := settled s t i
      let s2 := reachBlock s1 o.places
      let t1 := consume t (usesOf i)
      let ck := getF o.b 0x300 4
      let draw := (t.s a.toNat).toNat % 2 ^ 32
      let len := getF o.b 0x504 4
      let l := (ck + getF o.b 0x502 2 - 1) / getF o.b 0x502 2
      let drops := if getF o.b 0x500 1 = 0xFF then 0 else len - l
      Issues s t i → openBlock s1 t1 i c {} = .ok o →
      (if getF o.b 0x508 1 = 0xFF ∨ getF o.b 0x1CC 1 = 0xFF then .ok ([], [])
        else countPlaces s2 t1 (getF o.b 0x508 1) (getF o.b 0x1CC 1) ck (posF o.b - ck)) = .ok counts →
      (if getF o.b 0x501 1 = 0xFF then .ok ([], []) else refPlaces s2 t1 (getF o.b 0x500 1) (getF o.b 0x501 1) l drops) = .ok refs →
      flagF o.b 1 = true → draw ≤ 0xFFFFFFFD →
        let b1 := copyF (copyF (copyF o.b 0x10 0x50 o.b 0x300) 0x100 0x10 o.b 0x350) 0x120 0xA0 o.b 0x360
        let b2 := putF (putF b1 0x50 1 0) 0x51 1 0
        let b3 := if stateF b2 = 2 then setStateF b2 0 else b2
        let b4 := putF (putF (putF b3 0x14 4 draw) 0x2C0 4 (posF b3)) 0x2C4 4 draw
        let s0 := reachEntries s2 t1 (usedIf counts.1 [getF o.b 0x508 1, getF o.b 0x1CC 1] ++
          usedIf refs.1 [getF o.b 0x500 1, getF o.b 0x501 1])
        let x := zeroedBy (sideUpdate ((counts.1 ++ refs.1).foldl State.reachAt s0) t1 2 (fun n => n - 1) counts.2) t1 refs.2
        exec i s = .next (retired (awaiting
          (writeBlock x.1 t1 o.places o.b (putF (setFlagF b4 0 false) 0x504 4 (min len l))) d
          (BitVec.ofNat 64 (drops ||| x.2 * 2 ^ 16))))) ∧
    (∀ e cps counts hist list refs, let i : Instr := .tkfork d e c
      let s1 := settled s t i
      let s2 := reachBlock s1 o.places
      let t1 := consume t (usesOf i)
      Issues s t i → openBlock s1 t1 i c { faulted := true } (some e) = .ok o → blockPlaces s2 t1 (t.c e.toNat) = .ok cps →
      let p := o.b
      let old := placesNat s2 cps
      let pages := getF p 0x504 4
      copyPairs s2 t1 (getF p 0x1CC 1) (getF old 0x1CC 1) 2 o.v.ntok = .ok counts →
      copyPairs s2 t1 (getF p 0x508 1) (getF old 0x508 1) 4 (posF p) = .ok hist →
      copyPairs s2 t1 (getF p 0x500 1) (getF old 0x500 1) 4 pages = .ok list →
      (if getF p 0x500 1 ≠ 0xFF ∧ getF old 0x500 1 ≠ 0xFF ∧ getF p 0x501 1 ≠ 0xFF then
        refPlaces s2 t1 (getF p 0x500 1) (getF p 0x501 1) 0 pages else .ok ([], [])) = .ok refs →
      (t.c e.toNat).base ≠ (t.c c.toNat).base → getF p 0x06 2 ≠ 0xFFFF →
        let s0 := reachEntries s2 t1 (usedIf counts [getF p 0x1CC 1, getF old 0x1CC 1] ++
          usedIf hist [getF p 0x508 1, getF old 0x508 1] ++ usedIf list [getF p 0x500 1, getF old 0x500 1] ++
          usedIf refs.1 [getF p 0x501 1])
        let s3 := sideCopy (sideCopy (sideCopy s0 t1 2 counts) t1 4 hist) t1 4 list
        let s4 := writeBlock (refsRaised (refs.1.foldl State.reachAt s3) t1 refs.2) t1 cps old (childOf p old)
        exec i s = .next (retired (awaiting (writeBlock s4 t1 o.places p (putF p 0x06 2 (getF p 0x06 2 + 1))) d
          (BitVec.ofNat 64 (getF (childOf p old) 0 4)))))

/-- R226, R227: with a valid vocabulary, spans that pass their checks and room for a held destination, TKENC, on text of at most 65,536 bytes each
of which has a token, writes as many ids as fit and answers how many there are and how many it wrote; TKDEC writes the bytes of the ids that fit and
answers how many ids and bytes. -/
def Obligations.TextMembers : Prop :=
  ∀ (s : State) (t : Thread) (d : BitVec 5) (a b r : BitVec 4) (ps src dst : List (Nat × Nat × Place)), Room t d →
    let n := bitsOf (t.s d.toNat) 31 0
    let room := bitsOf (t.s d.toNat) 63 32
    (∀ xs, let i : Instr := .tkenc d a b r
      let s1 := settled s t i
      let s2 := reachBlock s1 ps
      let t1 := consume t (usesOf i)
      Issues s t i → blockPlaces s1 t1 (t.c r.toNat) = .ok ps →
      let v := vocabOf s1 (placesNat s1 ps)
      v.valid = true → textSpan s2 t1 (t.c a.toNat) n 1 permR { r := true } = .ok src →
      textSpan s2 t1 (t.c b.toNat) (4 * room) 4 permW { w := true } = .ok dst → n ≤ 65536 →
      byteTokens s2 v ((List.range n).map fun k => getF (placesNat s2 src) k 1) = some xs →
        let ids := mergeAll s2 v n xs
        exec i s = .next (retired (awaiting (writeSpan (reachEncode (reachAll s2 src) v n) t1 dst (wordsBytes (ids.take room))) d
          (BitVec.ofNat 64 (ids.length + (min room ids.length) * 2 ^ 32))))) ∧
    (∀ x, let i : Instr := .tkdec d a b x r
      let s1 := settled s t i
      let s2 := reachBlock s1 ps
      let t1 := consume t (usesOf i)
      Issues s t i → blockPlaces s1 t1 (t.c r.toNat) = .ok ps →
      let v := vocabOf s1 (placesNat s1 ps)
      v.valid = true → textSpan s2 t1 (t.c a.toNat) (4 * n) 4 permR { r := true } = .ok src →
      textSpan s2 t1 (t.c b.toNat) room 1 permW { w := true } = .ok dst →
        let ids := (List.range n).map fun k => getF (placesNat s2 src) (4 * k) 4
        let out := decodeIds s2 v (x == 1) room ids (0, [])
        exec i s = .next (retired (awaiting (writeSpan (reachDecode (reachAll s2 src) v (x == 1) (ids.take (out.1 + 1))) t1 dst out.2) d
          (BitVec.ofNat 64 (out.1 + out.2.length * 2 ^ 32)))))

/-- R17, R247, R248: an NRED member of the crew's thread with fewer than two unfilled before it releases at its context's scope, claims its token and contributes:
at rank 0 the contribution joins the context's own, elsewhere it leaves for rank 0 and the token is filled with 0, unless the way is gone.
Two contributions combine to the same word in either order. -/
def Obligations.NetworkReductions : Prop :=
  (∀ (s : State) (t : Thread) (i : Instr) (d a : BitVec 5) (g : BitVec 4) (op : Nat), nredSpec i = some (d, a, g, op) → Issues s t i →
    let id := s.cur.core
    let b := (s.core id).bar g.toNat
    let s0 := opened s t i
    let s1 := claimMe (if b.scope ≠ 0 then drain s0 s.myPath else s0) d
    let own : Nat × Nat × Word × Nat := (b.issued, op, s1.handleOf s1.cur, d.toNat)
    let put (s : State) (b : Bar) : State := s.setCore id { s.core id with bars := (s.core id).bars.set g.toNat b }
    let gone := s1.noRoute (entryModule b.root) && entryModule b.root != s1.modno
    InCrew s t i → b.unfilled.length < 2 →
      (b.rank = 0 → exec i s = .next (retired (nredArrive
        (put s1 { b with issued := b.issued + 1, unfilled := b.unfilled ++ [own] }) id g.toNat op (b.issued % 2) (t.s a.toNat)))) ∧
      (b.rank ≠ 0 →
        let s2 := put s1 { b with issued := b.issued + 1, unfilled := if gone then b.unfilled ++ [own] else b.unfilled }
        let w := packetOwner s1 id
        let s3 := sendPacket s2 id b.root (.nred b.root g.toNat op (b.issued % 2) (t.s a.toNat))
          (.nred g.toNat op (b.issued % 2) (t.s a.toNat)) w.1 w.2.1 w.2.2
        exec i s = .next (retired (if gone then s3 else filled s3 d 0)))) ∧
  ∀ (op : Nat) (a b : Word), combine op a b = combine op b a

/-! ### Forests (chapter 12) -/

/-- R253–R263: a synchronous member on a forest that passes its checks, by its owner where one is needed, with room for a held destination,
leaves the forest and holds its destination for the word that its table gives. R257, R260: EQINIT and EQREDUCE with a command in range, on a forest
and arrays that pass their checks, join their cluster's Lichen unit with everything they read, and claim their token. R267: where a page of
the descriptor or of the capability table is absent, the command joins the unit unopened, and the thread goes on. -/
def Obligations.ForestMembers : Prop :=
  (∀ (s : State) (t : Thread) (i : Instr) (f : Forest) (d : BitVec 5) (fc : BitVec 4) (log : Forest → Bool) (owns : Bool) (u : State) (v : Word),
    let s1 := settled s t i
    let t1 := consume t (usesOf i)
    forestSpec (reachForest s1 t1 f) t1 f i = some (d, fc, log, owns, u, v) → Issues s t i → Room t d → openForest s1 t1 i fc log = .ok f →
      (owns = true → notOwner s1 f = false) → exec i s = .next (retired (awaiting u d v))) ∧
  ∀ (s : State) (t : Thread) (i : Instr) (d : BitVec 5) (fc : BitVec 4) (q : LichenCmd),
    let s1 := settled s t i
    let t1 := consume t (usesOf i)
    commandSpec t1 i = some (d, fc, true, q) → Issues s t i →
      (∀ f map, openForest s1 t1 i fc (fun _ => false) = .ok f →
        (if q.reduce && bitOf q.command 4 then tableEntry s1 t1 (bitsOf q.command 15 8) else .ok {}) = .ok map →
        (q.reduce = true →
          let e := if bitsOf q.command 3 2 = 2 then 8 else 4
          (bitsOf q.command 1 0 ≠ 3 → arrayCheck s1 t1 q.input (e * f.n) e permR { r := true } = none) ∧
          arrayCheck s1 t1 q.output (e * f.n) e permW { w := true } = none ∧
          (bitOf q.command 4 = true → arrayCheck s1 t1 map (4 * f.n) 4 permW { w := true } = none)) →
        let c := { q with forest := f.cap, parent := f.par, size := f.size, map, n := f.n, opened := true }
        exec i s = .next (retired (joinsLichen (reachCommand s1 t1 f c) t1 d c))) ∧
      ∀ asid va, readForest s1 t1 i fc (fun _ => false) = .error (.page asid va) →
        exec i s = .next (retired (joinsLichen (s1.walked asid va) t1 d { q with forest := t.c fc.toNat, opened := false }))

/-! ### System members (chapter 20) -/

/-- R313, R319, R320: SYSCALL of a kernel with room outbound performs its stores, sends an event and empties its register; of the supervisor it
enters the monitor at MVEC, with the next instruction's address in MEPC, the number in MCAUSE and 0 in MVAL. ERET goes back to SEPC, or from
the monitor to MEPC at the privilege of PPRIV; a kernel's raises cause 0x11, and one to a misaligned target or into a pair has the faults of a transfer. -/
def Obligations.Levels : Prop :=
  ∀ (s : State) (t : Thread),
    (∀ d a b n, let i : Instr := .syscall d a b n
      let s1 := drain (opened s t i) s.myPath
      Issues s t i → isPair s.cur.core = false → outbound (opened s t i) s.cur.core < 8 →
        let s2 := sendEvent s1 s.cur (dieOf s.cur.core) 0x00 (s.handleOf s.cur) (BitVec.ofNat 64 (n.toNat + d.toNat * 2 ^ 8))
          (t.s a.toNat) (t.s b.toNat) t.launch t.rcb t.number
        exec i s = .next (retired (s2.setMe (s2.me.empty d.toNat)))) ∧
    (∀ a b n, let i : Instr := .syscall 0 a b n
      Issues s t i → isPair s.cur.core = true → t.priv ≠ 2 → ∃ u, exec i s = .next u ∧
        u.me.pc = BitVec.ofNat 64 (t.c 0).base + (s.core s.cur.core).mvec ∧ u.me.mepc = t.pc + 4 ∧
        u.me.mcause.toNat = n.toNat * 256 ∧ u.me.mval = 0 ∧ u.me.ppriv = 1 ∧ u.me.priv = 2 ∧ u.me.inmon = true ∧
        ∀ asid va pa, u.byte asid va pa = s.byte asid va pa) ∧
    (Issues s t .eret → transferCheck (opened s t .eret) t (if t.priv = 2 then t.mepc else t.sepc) = none → ∃ u, exec .eret s = .next u ∧
      u.me.pc = (if t.priv = 2 then t.mepc else t.sepc) ∧ u.me.priv = (if t.priv = 2 then t.ppriv else t.priv) ∧
      u.me.intrap = (if t.priv = 2 then t.intrap else false) ∧ u.me.inmon = (if t.priv = 2 then false else t.inmon) ∧
      ∀ asid va pa, u.byte asid va pa = s.byte asid va pa) ∧
    (Issues s t .eret → let target := if t.priv = 2 then t.mepc else t.sepc
      (target.toNat % 4 ≠ 0 → exec .eret s = .next (faults s 0x07 target)) ∧
      (target.toNat % 4 = 0 → insidePair (opened s t .eret) t target = true →
        exec .eret s = .next (faults (s.reach t.asid (target.toNat - 4)) 0x10 target))) ∧
    (s.thread? s.cur = some t → t.priv = 0 → exec .eret s = .next (faults s 0x11 ((encodeWord .eret).setWidth 64)))

/-- R25, R86, R318, R322–R328: HALT, HARVEST, XINV, KEYCLR and SPILLRPL with operands in range fill their token at once or claim it for a
later step, as their table gives; WAKE and WAKE.PG perform the path's stores and send the wake; KEYSET, of a request and a record in range
that its capability and page let it read, loads the record into the slot it takes, or reports that none is free. That the report of a request of any slot names slot 0 is the
model's choice, log 49, and that XINV invalidates when it issues is log 50. -/
def Obligations.SystemMembers : Prop :=
  ∀ (s : State) (t : Thread) (i : Instr), Issues s t i →
    let s1 := opened s t i
    let t1 := consume t (usesOf i)
    (∀ d u v, sysSpec s1 t1 i = some (d, u, .inl v) → exec i s = .next (retired (filled u d v))) ∧
    (∀ d u op, sysSpec s1 t1 i = some (d, u, .inr op) → exec i s = .next (retired (owes u t1 d op))) ∧
    (∀ a page, (page = false ∧ i = .wake a) ∨ (page = true ∧ i = .wakePg a) →
      exec i s = .next (retired (send (drain s1 s.myPath)
        { dest := handleCore (t.s a.toNat), src := s.cur, launch := t.launch, rcb := senderRcb s1 t1
          body := .wake (t.s a.toNat) page, sender := t.number, crew := t.crewId }))) ∧
    (∀ d a c pl, i = .keyset d a c → Room t d →
      let w := t.s a.toNat
      let cap := t.c c.toNat
      bitsOf w 63 7 = 0 → (bitOf w 6 = true → bitsOf w 5 0 = 0) → capCheck cap cap.base 128 permR = none → cap.space = 0 →
      memCheck s1 s.cur t1 cap cap.base 128 128 permR { r := true } = .ok pl →
      let s2 := (settleWide s1 s1.myPath false pl 128).reachAt pl
      let record := BitVec.ofNat 1024 (s2.loadNat s2.myPath pl 128)
      record.toNat < 2 ^ 896 →
        exec i s = .next (retired (match keySlotFor s2 w with
          | some n => awaiting (loadKey s2 n record) d (BitVec.ofNat 64 (n * 2 ^ 8))
          | none => awaiting s2 d (BitVec.ofNat 64 (0x12 + bitsOf w 5 0 * 2 ^ 8)))))

/-! ### Steps outside the instructions (chapter 95) -/

/-- R12–R15, R25, R160, R169, R248, R314, R335: a delivery under way, of the kind that the step is about and in the order of R13, leaves the
network and reaches its interface, if the interface takes it. A fill or a reply for a live thread whose handle no saved crew holds writes its
register, full, unless a reply meets a claimed token.
R11, R13, R155: the first held arrival of a core is placed once it can be; the first waiting START of a core places its helper once there is
room, and its starter retires; the first waiting VGROW gets its registers once they are free, and retires. -/
def Obligations.Deliveries : Prop :=
  ((∀ (s : State) (i : Instr) (p : Body → Bool) (d : Delivery), netSpec i = some p → s.net[s.cue.a]? = some d → p d.body = true →
    inOrder s s.cue.a d = true →
      exec i s = .next ((deliver { s with net := s.net.eraseIdx s.cue.a } d).getD s).bump) ∧
  (∀ (s : State) (d : Delivery) (h v : Word) (r : Nat) (l : Loc), routeHandle s h d.launch = .thread l → replaying s l.core = false →
    (d.body = .token h r v → deliver s d = some (s.onThread l fun t => (t.fill r v).unsync r)) ∧
    (d.body = .reply h r v → ((s.thread l).isClaimed r = false ∨ (s.thread l).isFull r = true) →
      deliver s d = some (s.onThread l fun t => (t.setS r v).unsync r)))) ∧
  ∀ (s : State),
    let id := s.cue.a
    let c := s.core id
    (∀ d ds u, c.held = d :: ds → placeArrival (s.setCore id { c with held := ds }) id d = some u →
      exec .heldArrivalPlaced s = .next u.bump) ∧
    (∀ n ns e v r k, c.startq = n :: ns → (s.thread { core := id, slot := n }).wait = some (.start e v r) → helperRoom s id = some k →
      let l : Loc := { core := id, slot := n }
      exec .helperPlaced s = .next (completeAt (placeIn (s.setCore id { c with startq := ns }) { core := id, slot := k }
        (helperOf (s.thread l) (s.handleOf l) e v r)) l fun t => t).bump) ∧
    (∀ n ns k, c.vgrowq = n :: ns → (s.thread { core := id, slot := n }).wait = some (.vgrow k) → k ≤ freeVectors s id →
      exec .vgrowSatisfied s = .next (completeAt (s.setCore id { c with vgrowq := ns }) { core := id, slot := n }
        fun t => { t with vallot := t.vallot + k }).bump)

/-- R115, R138, R148, R190, R195, R209, R212, R257, R260: what an instruction has issued comes about: a held result is written, a multicast fills its token,
the SFU returns, a queued instruction that no earlier one meets writes its result and notes its flags, run-ahead fetches, a copy of a hart that
is not stopped and a command of the Lichen unit whose forest is open run, none of which waits for a page.
R318, R322, R324, R325, R327, R328: the token of HALT, HARVEST, XINV or KEYCLR is filled once its table allows, with its word; that of SPILLRPL with
the number of entries replayed. That XINV's token can be filled without a condition, and HALT's without waiting for stores, is the model's choice, log 50; that a copy runs
whole in one step is log 45. -/
def Obligations.Completions : Prop :=
  (∀ (s : State),
    (let c := (s.core s.cue.a).cycle;
      exec .scalarResultWrite s = .next (landWhere s { core := s.cue.a, slot := s.cue.b } fun h =>
        !h.vector && h.reg == s.cue.c && h.due.any fun k => k ≤ c).bump) ∧
    (∀ h, let l : Loc := { core := s.cue.a, slot := s.cue.b };
      ((s.thread l).holds.filter fun h => h.due.isNone)[s.cue.c]? = some h →
        exec .loadDataReturn s = .next (s.onThread l fun t => { t.land h with holds := t.holds.erase h }).bump) ∧
    (∀ m, s.multis[s.cue.a]? = some m → bitsOf m.status 15 8 = 0 →
      exec .multicastCompletion s = .next
        (fillToken { s with multis := s.multis.eraseIdx s.cue.a } m.handle m.reg m.status m.launch m.rcb m.crewId).bump) ∧
    (∀ q qs, (s.cluster s.cue.a).sfu = q :: qs → q.wait = none → (s.thread q.loc).wait = some .sfu → (s.slot q.loc).gen = q.gen →
      exec .sfuReturn s = .next (sfuReturn s s.cue.a q qs).bump) ∧
    (∀ o, (s.core s.cue.a).matq[s.cue.b]? = some o → canComplete (s.core s.cue.a) s.cue.b = true →
      let c := s.core s.cue.a
      let s1 := s.setCore s.cue.a (o.writes.foldl Core.complete { c with matq := c.matq.eraseIdx s.cue.b })
      exec .matrixCompletion s = .next
        (if (s1.slot o.loc).gen = o.gen then s1.onThread o.loc fun t => t.note o.flags false else s1).bump) ∧
    exec .streamRunaheadFetch s = .next (streamStep s s.cue.a s.cue.b).bump ∧
    (∀ q, (s.cluster s.cue.a).copies[s.cue.b]? = some q → q.wait = none → (s.core (4096 + s.cue.a)).hart.stopped = false →
      exec .copyCompletion s = .next (runCopy s s.cue.a s.cue.b q).bump) ∧
    (∀ q, (s.cluster s.cue.a).lichen[s.cue.b]? = some q → q.wait = none → q.opened = true →
      (q.reduce = false → exec .eqinitCompletion s = .next (runInit s s.cue.a s.cue.b q).bump) ∧
      (q.reduce = true → exec .eqreduceCompletion s = .next (runReduce s s.cue.a s.cue.b q).bump))) ∧
  ∀ (s : State) (p : Pending), s.pending[s.cue.a]? = some p →
    (∀ i u v, sysEndSpec s p.op i = some (u, v) →
      exec i s = .next (paid u s.cue.a p v).bump) ∧
    (∀ src dst, p.op = .spill src dst →
      (ringFor s src dst = none → exec .spillrplCompletion s = .next (paid s s.cue.a p 0).bump) ∧
      (∀ n, ringFor s src dst = some n →
        let c := s.core src
        let x := c.spills.getD n {}
        let left := if src = dst then c.spills.eraseIdx n
          else c.spills.set n { x with ring := [], draining := false, forward := some dst }
        let u := x.ring.foldl (fun s d => replay s dst d) (s.setCore src { c with spills := left })
        exec .spillrplCompletion s = .next (paid u s.cue.a p (BitVec.ofNat 64 x.ring.length)).bump))

/-- R36, R215, R216, R336, R405: the modes of a cluster switch once nothing of the old ones is under way; a thread past its region's limit stops with
cause 0x13, one that the SFU has parked in any case; an access that has waited 10 ms for a route fails with 0x0D, a stream's with 0x0B; system software
starts a hart that does not run. How a hart comes to start, with its block and its thread, is the model's choice, log 36.
R78, R85, R87, R166, R331, R371, R377: a pending store that no earlier one of its path holds back is performed, by the step that is about it. With it
go the other pieces of its access in its granule, and no others, which is the model's choice, log 56. -/
def Obligations.UnitSteps : Prop :=
  (∀ (s : State),
    (∀ w, let k := s.cue.a
      (s.cluster k).switch = some w → ((s.cluster k).copies.any CopyCmd.onPad) = false →
      ((s.path k).any fun p => p.space == .scratch k) = false →
        exec .modeSwitch s = .next (switchMode s k w).bump) ∧
    (∀ t, let l : Loc := { core := s.cue.a, slot := s.cue.b }
      let limit := eff s t.rcb 9 0x3C 4
      s.thread? l = some t → isPair l.core = false → limit ≠ 0 → t.retired + limit * 1000 ≤ s.now →
        exec .watchdogExpiry s = .next (displaceLate (stopThread s l 0x13 0 0 (t.wait == some .sfu)) l).bump) ∧
    (∀ m a since b, let l : Loc := { core := s.cue.a, slot := s.cue.b };
      (s.thread l).wait = some (.route m a since b) → since + 10000000 ≤ s.now →
        let s1 := { s.onThread l fun t => { t with wait := none } with cur := l }
        exec .noRouteTimeout s = .next (if b then raise s1 0x0B (BitVec.ofNat 64 a) 0x0D
          else raise s1 0x0D (BitVec.ofNat 64 a) 0).bump) ∧
    (let id := s.cue.a;
      (isCopyHart id || isEngineHart id) = true → s.mappedOut id = false → (s.core id).hart.running = false →
        let s1 := s.setCore id { s.core id with hart := { block := s.cue.hart.block, running := true } }
        let t := hartThread s s.cue.hart
        exec .hartRestart s = .next
          (reachTable (reachRegion (placeIn (hartStatus s1 id s.cue.hart.rcb 1) { core := id } t) t.rcb) t.asid (t.caps.get {} 15)).bump)) ∧
  ∀ (s : State) (i : Instr) (p : PStore → Bool) (x : PStore), storeStepSpec s i = some p → (s.path s.cue.a)[s.cue.b]? = some x →
    p x = true → canPerform s s.cue.a s.cue.b = true →
      exec i s = .next (performAt s s.cue.a s.cue.b).bump ∧
        (x.group = none → x.whole = false → performAt s s.cue.a s.cue.b =
          performStore { s with stores := s.stores.set s.cue.a ((s.path s.cue.a).eraseIdx s.cue.b) } x)

/-- R331, R339, R342, R347: a request of a region of the tree is taken, its `REQ` back to 0, and does what its table gives. A pre-emption acts on the launch of
exactly that region, a kill on its whole tree, which is the model's choice, log 52. A core of a crew being pre-empted is first interrupted, then, drained, saved with
its visitors displaced; when a core, and the crew's last, counts as drained is the model's choice, log 51. A saved crew of a launch that is to resume, whose records
are whole, resumes on a free cluster, an untimed one where no crew of the table waits for it (R378). -/
def Obligations.RegionSteps : Prop :=
  ∀ (s : State),
    (∀ i n f, requestSpec s.cue.a i = some (n, f) → isRegion s s.cue.a = true → s.rcb s.cue.a 0x1F 1 = n →
      exec i s = .next (f (reachRegion (s.rcbPut s.cue.a 0x1F 1 0) s.cue.a)).bump) ∧
    (∀ c, let id := s.cue.a
      let k := clusterOf id
      isCompute id = true → (s.cluster k).crew = some c → c.preempt = true → c.killed = false → c.requeue = false →
      c.saved.contains (sideOf id) = false →
        ((s.core id).intr = false → exec .coreSave s = .next (s.setCore id { s.core id with intr := true }).bump) ∧
        ((s.core id).intr = true → drained s id (c.saved.length = 3) = true →
          let vs := ((List.range 16).map fun n => ({ core := id, slot := n } : Loc)).filter fun l => isVisitor s l (s.thread l)
          exec .coreSave s = .next (saveCore (vs.foldl displace s) k id c).bump)) ∧
    (∀ l x, let k := s.cue.c
      s.launches[s.cue.a]? = some l → (l.savedOn.find? fun x => x.1 == s.cue.b) = some x → l.resuming = true → s.fenced = false → k < 384 →
      clusterFree s l k = true → (l.timed = true ∨ timedWaits s k = false) → recordsValid s (effCap s l.rcb 13 0x60) x.1 = true →
        exec .crewResumption s = .next (resumeCrew s s.cue.a l x.1 x.2 k).bump)

/-- R371, R374, R375, R377–R379, R381, R382: a record whose `SEQ` is its index is taken and its launch admitted, or refused with 0x04; a waiting launch whose
dependences have completed becomes a candidate, one with a failed dependence completes with 0x05; one crew is placed at a time, of the table's
launches before all others, and of the highest level else; the slot that is due begins, that of the new header where it has changed, and candidates
age; a deferred entry fires or is skipped; a window that has ended acts by its rule. R384: an agent that fails is out of service. At which slot a changed
header begins, and when candidates age, are the model's choice, log 53. -/
def Obligations.ScheduleSteps : Prop :=
  ∀ (s : State), dispatchOn s = true →
    (let q := s.cue.a
      let head := queueField s q 0x0C 4
      let rec' := queueField s q 0 8 + 64 * (head % 2 ^ queueField s q 0x08 1)
      let r := s.phys rec' 8
      let s1 := s.blockPut (128 * q + 0x0C) 4 ((head + 1) % 2 ^ 32)
      q < 32 → queueOk s q = true → head ≠ queueField s q 0x10 4 → s.phys (rec' + 0x20) 4 = head →
        exec .queueRecordTaken s = .next (if launchRefused s1 r (queueField s q 0x18 8)
          then writeToken (reachRegion s1 r) (s.phys (rec' + 8) 8) 0x04
          else reachRegion { s1 with launches := s1.launches ++ [{
            rcb := r, queue := .inl q, doneva := s.phys (rec' + 8) 8, depa := s.phys (rec' + 0x10) 8, depb := s.phys (rec' + 0x18) 8
            ident := launchIdent s r head, crews := s.rcb r 0xF4 4 }] } r).bump) ∧
    (∀ l, let i := s.cue.a
      s.launches[i]? = some l → l.killed = false → l.timed = false → l.started = false →
        (l.state = .waiting ∨ l.state = .candidate → dependence s l.depa = some false ∨ dependence s l.depb = some false →
          exec .launchCandidate s = .next (completeLaunch s i 0x05 none).bump) ∧
        (l.state = .waiting → dependence s l.depa = some true → dependence s l.depb = some true → s.rcb l.rcb 0x1E 1 ∈ [0, 5, 6] →
          firstOfRegion s i l.rcb = true →
            exec .launchCandidate s = .next (State.bump { s with launches := s.launches.set i { l with state := .candidate, aged := 0 } }))) ∧
    (s.fenced = false →
      (∀ i is, placeableAt s 7 = i :: is → exec .placementDecision s = .next (placeNext s i).bump) ∧
      (∀ v q i s1, placeableAt s 7 = [] → ([6, 5, 4, 3, 2, 1, 0].find? fun v => !(placeableAt s v).isEmpty) = some v →
        pickQueue s v = (s1, some q) →
        ((placeableAt s v).find? fun i => (s.launches[i]?).any fun l => l.queueNo == some q) = some i →
          exec .placementDecision s = .next (placeNext s1 i).bump)) ∧
    (tticksOk s.tticks = true → s.tbase + s.tslot * s.tticks ≤ s.ptp → let s1 := latchHeader s
      (s1.tbase = s.tbase → s1.tticks = s.tticks →
        exec .slotBoundary s = .next (dueEntry ({ age s1 with tslot := s.tslot + 1 }.blockPut 0x1010 8 s.tslot) s.tslot).bump) ∧
      (s1.tbase ≠ s.tbase ∨ s1.tticks ≠ s.tticks → exec .slotBoundary s = .next (changedSlot (age s1)).bump)) ∧
    (∀ d, (s.deferred.find? fun d => d.entry == s.cue.a) = some d →
      let s1 := { s with deferred := s.deferred.erase d }
      (d.window < s.tslot → exec .deferredFiring s = .next (entryCount s1 d.entry 0x18).bump) ∧
      (s.tslot ≤ d.window → s.launches.any (extending s) = false → s.tlen ≠ 0 → tticksOk s.tticks = true →
        exec .deferredFiring s = .next (fireEntry s1 d.entry d.slot).bump)) ∧
    (∀ l e w, let i := s.cue.a
      s.launches[i]? = some l → l.queue = .inr e → l.window = some w → w < s.tslot →
        let s1 := entryCount s e 0x18
        exec .windowOverrun s = .next (match entryRule s e with
          | 1 => preemptLaunch { s1 with launches := s1.launches.set i { l with window := none, overrun := true } } i
          | 2 => killRegion { s1 with launches := s1.launches.set i { l with window := none, abandoned := true } } l.rcb
          | _ => { s1 with launches := s1.launches.set i { l with window := none } }).bump) ∧
    exec .orderingAgentFailure s = .next (s.setDie s.cue.a { s.die s.cue.a with agent := false }).bump

/-- R43, R113, R362, R389, R392, R403, R405, R407, R408: the directory serves an agent that may hold a line, which takes the line into its cache, but for a
line of a STREAM page, which the slice alone holds; an owner's exclusive copy becomes its to write; a host's permitted load is answered and its permitted store
performed, a refused load is answered with the poison indication; another module's load through the ingress port is answered; the links, the routes, the
clock, the leader's beat, the watching pairs and the takeover go on as their tables give. That a host's access to a page that is not mapped or not permitted is refused
as one of another domain is, and how routes return, are the model's choice, log 54; that traffic needs one port with both its keys, log 18; what of a takeover the
hardware does, and what its replay of the journal writes, log 55. -/
def Obligations.LinkSteps : Prop :=
  ∀ (s : State),
    (∀ w e pa dom, let k := s.cue.a
      let asid := s.cue.b
      let va := s.cue.c * 128
      let key := lineKey asid va
      let serves (u : State) : Host.Outcome State Fault Refusal := .next (if k < 384 then cacheIn u k key else u).bump
      mappedAt s asid va = some (e, pa, dom) → (384 ≤ k → asid = 0) → mayHold s k dom = true → (s.key dom).active = true →
      (if w then bitOf e 2 else bitOf e 1 || bitOf e 3) = true →
        let s1 := serveAccess s asid va s.cue.flips
        (bitOf e 6 = true → exec (if w then .ownershipRequest else .lineRead) s = .next s1.bump) ∧
        (bitOf e 6 = false → w = false → exec .lineRead s = serves (setDir s1 key fun d => d.read k)) ∧
        (bitOf e 6 = false → w = true → exec .ownershipRequest s = serves (grantLine s1 key k))) ∧
    (∀ l e pa dom, let key := lineKey s.cue.b (s.cue.c * 128)
      s.lines.find key = some l → mappedAt s s.cue.b (s.cue.c * 128) = some (e, pa, dom) → l.dir = .exclusive s.cue.a → bitOf e 2 = true →
        exec .upgradeNotice s = .next
          (if isHost s.cue.a then grantLine s key s.cue.a else cacheIn (grantLine s key s.cue.a) s.cue.a key).bump) ∧
    (∀ va size pa dom, hostPort s s.cue.a = true → plainAccess va size = true →
      (s.cue.host = .load va size → hostPage s va false = some (pa, dom) → s.poisoned 0 va pa dom = false →
        exec .hostCxlAccess s = .next (hostAnswer (s.reach 0 va) (some (BitVec.ofNat 64 (s.bytes 0 va pa size)))).bump) ∧
      (s.cue.host = .load va size → hostPage s va false = none → exec .hostCxlAccess s = .next (hostAnswer (hostRefused (s.walked 0 va) va) none).bump) ∧
      (∀ v, s.cue.host = .store va size v → hostPage s va true = some (pa, dom) →
        exec .hostCxlAccess s = .next (performStore (s.reach 0 va)
          { space := .device 0, addr := va, pa, dom, size, value := v.setWidth 1024, rcb := s.rootRcb }).bump)) ∧
    (fabricUp s = true →
      (∀ va size dom pl, s.cue.window = .load va size dom → plainAccess va size = true → pageCheck s 1 va dom { r := true } = .ok pl →
        exec .systemWindowRequest s = .next
          ((windowAnswer s (.ok (BitVec.ofNat 64 (leNat (fun i => s.placeByte pl i) size)))).reachAt pl).bump)) ∧
    (fabricUp s = false → exec .systemWindowRequest s = .next s.bump) ∧
    (linksUp s = true →
      (∀ i p u, p = s.cue.a → p < 72 → (s.port p).down = false → portSpec s p (s.port p) i = some u → exec i s = .next u.bump) ∧
      (s.cue.a < 8 → let x := s.cxls.get {} s.cue.a;
        exec .spdmMessage s = .next
          (if x.key = none ∧ s.cue.flag = true
            then State.bump { s with cxls := s.cxls.set s.cue.a { x with key := some (Config.ideKey s.cue.a s.tick) } } else s.bump))) ∧
    (s.unreach.contains s.cue.a = true →
      exec .routeReturns s = .next (openRoutes { s with unreach := s.unreach.filter (· != s.cue.a) }).bump) ∧
    (let ids := s.cores.map fun e => e.1
      let opens (m : Nat) : Bool := !s.noRoute m
      openRoutes s = ids.foldl (releaseNred opens) (ids.foldl (endRoute opens)
        { s with outbox := s.outbox ++ s.routeless.filter (fun p => !s.noRoute p.target)
                 routeless := s.routeless.filter fun p => s.noRoute p.target })) ∧
    exec .ptpDiscipline s = .next (if s.powered = true ∧ s.bringup = 4 then s.bump else State.bump { s with ptp := s.cue.a }) ∧
    (pairRuns s s.cue.a = true → let d := s.cue.a
      let c := s.core (pairOf d)
      (c.tick < s.ptp / 1000000 → let s1 := s.setCore (pairOf d) { c with tick := s.ptp / 1000000 }
        exec .heartbeatTick s = .next (endWfi (match c.epoch with
          | some e => if s1.block 0x8008 4 = e.toNat then (drain s1 (pathOf (pairOf d))).blockPut 0x8000 8 (s1.ptp % 2 ^ 64)
            else s1.setCore (pairOf d) { s1.core (pairOf d) with epoch := none }
          | none => if online s1 d then watch s1 d else s1) (pairOf d)).bump) ∧
      (s.fenced = false ∨ s.leader ≠ d → online s d = true → c.overdue = true →
        let s1 := drain s (pathOf (pairOf d))
        let s2 := s1.setCore (pairOf d) { s1.core (pairOf d) with overdue := false }
        exec .takeover s = .next (if s2.block 0x8008 4 = (s1.core (pairOf d)).seenEpoch.toNat
          then takeLead s2 d (((s1.core (pairOf d)).seenEpoch.toNat + 1) % 2 ^ 32) else s2).bump) ∧
      (s.fenced = true → s.leader = d → (runningCores s).all (quiet s) = true → exec .takeover s = .next (endFence (replayJournal s) d).bump))

/-- R394, R396–R400, R407, R409–R413: power comes on, the units that the record lists are mapped out and the accepted bank is brought up; bundles are uploaded and
installed, a trial is confirmed by a signature over the nonce of the last quote and the measurement, or fails; a quote is answered, signed by the identity key; the debug path
answers nothing in mode OFF, and in the others a reachable byte of a domain that it may read, and its mode changes; clusters, dies and the module lose and regain power, with the key slots restored one
by one after the last die has slept. The way back of the keys, log 79, that the nonce of an acknowledgement is that of the last quote, log 77, and which byte a debugger names, log 54,
are the model's choice. -/
def Obligations.TrustSteps : Prop :=
  ∀ (s : State),
    (∀ lead ls n k, let boot := s.cue.boot
      let s1 := (List.range 12).foldl (fun s d => s.setDie d { s.die d with selftest := boot.healthy.getLsbD d }) { s with powered := true }
      let s2 := mapOut { s1 with identity := some identitySeed }
      s.powered = false → healthyDies boot.healthy = lead :: ls → boot.pufOk = true → recordSigned s.rootHash s.record = true →
      identityMatches identitySeed s.record = true → bankToBoot s2 = some n →
      s2.banks.find n = some k → exec .powerOn s = .next (bringUp s2 boot n lead k).bump) ∧
    (s.powered = true → s.bringup = 4 →
      exec .bundleUpload s = .next (powerOff { s with banks := s.banks.set 0 { bundle := s.cue.bundle } }).bump) ∧
    (monitorUp s = true →
      exec .bundleInstall s = .next (powerOff { s with
        banks := s.banks.set (1 - s.active) { bundle := s.cue.bundle, trial := true }, active := 1 - s.active }).bump ∧
      (∀ seed, s.identity = some seed → let q : Quote := {
          nonce := s.cue.nonce, measure := bundleMeasure s.bank.bundle, version := bundleVersion s.bank.bundle, minver := s.minver, dbg := s.dbgctl
          trial := s.bank.trial, keys := keyctl s, time := BitVec.ofNat 64 s.ptp, conf := digest48 (configBytes s.record) }
        exec .quoteRequest s = .next (State.bump { s with
          quotes := s.quotes ++ [{ q with sig := identitySign seed (quoteBytes q) }], attest := some s.cue.nonce })) ∧
      (s.dbgctl = 0 → exec .debugRequest s = .next (debugAnswer s none).bump) ∧
      (∀ asid va pa dom, s.dbgctl ≠ 0 → s.cue.debug = .readMem asid va → debugPlace s asid va = some (pa, dom) → s.poisoned asid va pa dom = false →
        hiddenByte s pa = false → exec .debugRequest s = .next (debugAnswer s (some ((s.byte asid va pa).setWidth 64))).bump)) ∧
    (∀ e, s.trialEnd = some e →
      (∀ nonce, s.attest = some nonce → digest48 (keyBytes s.cue.key) = bundleVkeyh s.bank.bundle →
        verifies s.cue.key (leBytes 32 nonce.toNat ++ leBytes 48 (bundleMeasure s.bank.bundle).toNat) s.cue.sig = true → s.now < e →
          let v := bundleVersion s.bank.bundle
          exec .verifierAcknowledgement s = .next (State.bump { s with
            trialArmed := false, trialEnd := none, banks := s.banks.set s.active { s.bank with trial := false }
            minver := if s.minver.toNat < v.toNat then v else s.minver })) ∧
      (e ≤ s.now → exec .trialWatchdogExpiry s = .next (powerOff { s with
        banks := s.banks.set s.active { s.bank with trial := false, failed := true }, active := 1 - s.active }).bump)) ∧
    (∀ l, (s.dbgReq = some (1, l) → exec .debugObserve s = .next (debugMode s 1 l).bump) ∧
      (s.dbgReq = some (0, l) → exec .debugOff s = .next (debugMode s 0 l).bump) ∧
      (s.dbgReq = some (2, l) →
        (toKill s ≠ [] → exec .debugHalt s = .next ((toKill s).foldl killOnce s).bump) ∧
        (toKill s = [] → s.killing = [] → exec .debugHalt s = .next
          (debugMode (((List.range 63).filter fun n => (s.key n).active || s.sealedRecords.has n).foldl clearKey s) 2 l).bump))) ∧
    (∀ w l, let d := s.cue.a
      d < 12 → (s.die d).power = some (w, l) →
        ((s.die d).dstate = bitsOf w 33 32 → let v := powerValue s d w
          exec .clusterGate s = .next (writerDone (setPower (((List.range 32).filter fun k => bitOf v k && !(s.die d).gate.getLsbD k).foldl
            (fun s k => flushCluster s (d * 32 + k)) s) d v) l).bump) ∧
        ((s.die d).dstate ≠ 2 → bitsOf w 33 32 = 2 → exec .dieSleep s = .next
          (writerDone (if dieBusy s d then gateDie s d (keepDstate s d w) else sleepDie s d w) l).bump) ∧
        ((s.die d).dstate = 2 → bitsOf w 33 32 = 0 →
          let s1 := setPower s d w
          let s2 := s1.setDie d { s1.die d with keys := keyctl s1 }
          exec .dieWake s = .next (writerDone (if (List.range 12).any fun e => (s.die e).dstate != 2 then s2 else restoreKey s2 63) l).bump) ∧
        (bitsOf w 33 32 = 3 → exec .moduleOff s = .next
          (writerDone (powerOff ((s.lines.map fun e => e.1).foldl evict s)) l).bump)) ∧
    ((s.die s.cue.a).power = none → (s.die s.cue.a).dstate = 0 → exec .dieWake s = .next (restoreKey s s.cue.b).bump)

/-! ### Encoding (chapter 05) -/

/-- R104, R107: words of the manual's encoding tables, written out, decode to the instructions they stand for. -/
def Obligations.Words : Prop :=
  decodeWord 0x04610800 = .add 3 1 0 2 0 ∧ decodeWord 0x09898000 = .addi 12 9 1 0 ∧ decodeWord 0x28451801 = .pcmp 2 5 0 6 0 0 1 ∧
    decodeWord 0x48A40600 = .st 5 2 0 0 3 0 ∧ decodeWord 0x6D780002 = .cld 5 14 0 2 ∧ decodeWord 0x74A00100 = .csrr 5 0x100 ∧
    decodeWord 0x7C002141 = .send 4 5 1 ∧ decodeWord 0x88611600 = .vadd 3 1 2 6 ∧ decodeWord 0xA0056600 = .vld 0 2 22 0 6 0 0 ∧
    decodeWord 0xB41190A0 = .tld 2 3 4 5 0 ∧ decodeWord 0xC928A258 = .cpy 9 4 10 2 11 ∧ decodeWord 0xCC062807 = .tkcommit 6 5 0 7 ∧
    decodeWord 0xD82531C4 = .equnite 5 6 7 4 ∧ decodeWord 0xE0672002 = .halt 7 4 2

/-- R102, R107: for every well-formed instruction with a word of its own, decoding its encoding gives it back. -/
def Obligations.RoundTrip : Prop := ∀ (i : Instr), i.wf = true → hasWord i = true → decodeWord (encodeWord i) = i

/-! ### The step -/

/-- R22, R101, R105: in the turn of an agent that runs, the slot that issues runs the instruction that the word at its pc decodes to,
and behind a prefix the member after it; a fetch that fails, of the second word too, and an entry inside a pair fail the instruction; a step outside the
barrels runs its row of the opcode table. Every such turn ends with what the home slices do for its accesses, with launches that are candidates no longer and with
credits of empty levels, moments that the manual does not give: the model's choice, logs 53 and 68. -/
def Obligations.StepRuns : Prop :=
  ∀ (s : State),
    (∀ id n t, (nextTurn s).1 = .core id →
      let s0 := (nextTurn s).2
      let u := marked s0 id
      let l : Loc := { core := id, slot := n }
      agentOn s0 id = true → (s0.core id).halted = false → (s0.core id).intr = false → (s0.core id).stopped = false →
      pickSlot u id (readySlots s0 id) = some n → u.thread? l = some t →
        let v := { u with cur := l, stalled := false }
        let v1 := fetched v t
        let v2 := v1.reach t.asid (t.pc + 4).toNat
        (∀ w, fetchWord v t t.pc = .ok w → (t.fresh = true → t.kind ≠ .migrated → insidePair v t t.pc = false) →
          (majorOf w ≠ 0x3E → step s = ended (exec (decodeWord w) { v1 with word := w, next := 0 })) ∧
          (∀ x, majorOf w = 0x3E → fetchWord v t (t.pc + 4) = .ok x →
            step s = ended (exec .vectorPrefix { v2 with word := w, next := x })) ∧
          (∀ e, majorOf w = 0x3E → fetchWord v t (t.pc + 4) = .error e → step s = ended (.next (fail v1 e).bump))) ∧
        (∀ e, fetchWord v t t.pc = .error e → step s = ended (.next (fail v e).bump)) ∧
        (∀ w, fetchWord v t t.pc = .ok w → t.fresh = true → t.kind ≠ .migrated → insidePair v t t.pc = true →
          step s = ended (.next (fail v1 (.cause 0x10 t.pc)).bump))) ∧
    (∀ i cue, (nextTurn s).1 = .event i cue → hasWord i = false →
      i ≠ .illegalInstruction → i ≠ .reservedEncoding → i ≠ .vectorPrefix →
        step s = ended (exec i { (nextTurn s).2 with cue })) ∧
    (∀ u, ended (.next u) = .next (clearCredits (dropCandidates
      (u.walks.foldr serveWalk { u with walks := [] }))))

/-- R22, R154: the slot that issues is a ready one that is eligible, whose thread and whose slot have both waited since their last issue, and no eligible
ready slot has waited longer; of those that have waited as long it is the lowest. -/
def Obligations.Fairness : Prop :=
  ∀ (s : State) (id n : Nat) (ready : List Nat), ready.Pairwise (· < ·) → pickSlot s id ready = some n →
    let l (k : Nat) : Loc := { core := id, slot := k }
    let wait (k : Nat) : Nat := (s.thread (l k)).readyFrom.getD (s.core id).cycle
    let eligible (k : Nat) : Prop := (s.slot (l k)).nextIssue ≤ (s.core id).cycle ∧ (s.thread (l k)).nextIssue ≤ (s.core id).cycle
    n ∈ ready ∧ eligible n ∧ ∀ k ∈ ready, eligible k → wait n ≤ wait k ∧ (wait n = wait k → n ≤ k)

/-- The model's own form of memory (log 1), of which no rule speaks: every step keeps memory in its canonical form. -/
def Obligations.MemoryKept : Prop := ∀ (s s' : State), MemoryInv s → step s = .next s' → MemoryInv s'

/-- R22, R109, R138: what an instruction does with its own thread leaves every byte and tag of memory, every line, cluster, die, other agent and
other slot as it was; a store that joins its path leaves all but the path. -/
def Obligations.Frames : Prop :=
  ∀ (s : State),
    (∀ px, OnlyMe s (retired s px)) ∧ (∀ pc, OnlyMe s (jumped s pc)) ∧ OnlyMe s (stays s) ∧
    (∀ d v n, OnlyMe s (retired (holding s d v n)) ∧ OnlyMe s (retired (awaiting s d v)) ∧ OnlyMe s (retired (filled s d v))) ∧
    (∀ t i px, s.thread? s.cur = some t → OnlyMe s (retired (opened s t i) px)) ∧
    (∀ p x asid va pa, (pushStore s p x).cores = s.cores ∧ (pushStore s p x).byte asid va pa = s.byte asid va pa ∧
      ∀ q, q ≠ p → (pushStore s p x).path q = s.path q)

/-- The model's own choice (log 3), of which no rule speaks: no step stops the machine; every step answers a next state. -/
def Obligations.StepsGoOn : Prop := ∀ (s : State), ∃ s', step s = .next s'

/-- R44, R47, R356, R388: a write of bytes of a line that its slice holds, or that no slice holds and whose frame is backed, is read back at its
address, and every byte outside it, of its own and of every other line, reads as before, where its grant finds room and the slice a drupelet. -/
def Obligations.PerformedStores : Prop :=
  ∀ (s : State) (asid va pa dom size : Nat) (v : BitVec 1024) (tag clears : Bool), va % 128 = pa % 128 → 0 < size → va % 128 + size ≤ 128 →
    (s.heldFor asid va pa dom).isSome = true ∨ (s.line? asid va = none ∧ backed s pa = true) →
    s.grants.contains (homeSlice va, asid, va / 4096) = true ∨ (s.grants.filter fun x => x.1 == homeSlice va).length < 4096 →
    drupsUsed s (keyHome (lineKey asid va)) < 49152 →
      let u := writeLine s asid va pa dom size v tag clears
      u.bytes asid va pa size = v.toNat % 256 ^ size ∧
        ∀ asid' va' pa', va' % 128 = pa' % 128 → (lineKey asid' va' = lineKey asid va → va' < va ∨ va + size ≤ va') →
          pa' < pa ∨ pa + size ≤ pa' → u.byte asid' va' pa' = s.byte asid' va' pa'

/-! ### Reset and exceptions -/

/-- R161, R168, R208, R377, R400, R409 and the model's own choices of logs 1 and 2: at the moment power is applied no slot holds a thread, every barrier
context has one participant of rank 0, every stream is unconfigured, every ring is IDLE, no key is active, debug is off, no delivery and no store
is under way, `TTSLOT` is 10,000 in the table's header and in effect, every other byte of memory reads as zero, and memory is in its canonical form. -/
def Obligations.Reset : Prop :=
  MemoryInv State.reset ∧ State.reset.powered = false ∧ State.reset.dbgctl = 0 ∧ State.reset.net = [] ∧ (∀ k, State.reset.path k = []) ∧ State.reset.tticks = 10000 ∧
    (∀ l, State.reset.thread? l = none) ∧ (∀ n, (State.reset.key n).active = false) ∧
    (∀ id n, ((State.reset.core id).bar n).p = 1 ∧ ((State.reset.core id).bar n).rank = 0) ∧
    (∀ id n, ((State.reset.core id).stream n).state = .unconfigured) ∧ (∀ k q, (State.reset.ring k q).state = 0) ∧
    (∀ a, memGet State.reset.mem a = if a = 0x81008 then 0x10 else if a = 0x81009 then 0x27 else 0)

/-- R313: a fault on a service pair saves the pc, the cause and the value and goes to the supervisor's handler at SVEC + 0x30, inside a trap to
the monitor with bit 16 of the cause set, and in the monitor stops the pair; nothing else of the thread changes.
R109, R335: an instruction that meets an absent page on a core parks with everything else of its thread as it was, and its event leaves
for the pair of the page's die. -/
def Obligations.Exceptions : Prop :=
  (∀ (s : State) (cause : Nat) (val : Word) (held : Nat), isPair s.cur.core = true → cause < 2 ^ 16 →
    let t := s.me
    let c0 := BitVec.ofNat 64 (t.c 0).base
    (t.priv ≠ 2 → t.intrap = false → (raise s cause val held).me = { t with
      sepc := t.pc, scause := BitVec.ofNat 64 cause, sval := val, intrap := true, pc := c0 + (s.core s.cur.core).svec + 0x30 }) ∧
    (t.priv ≠ 2 → t.intrap = true → (raise s cause val held).me = { t with
      mepc := t.pc, mcause := BitVec.ofNat 64 (cause + 2 ^ 16), mval := val, ppriv := 1, inmon := true, priv := 2
      pc := c0 + (s.core s.cur.core).mvec }) ∧
    (t.priv = 2 → raise s cause val held = s.setCore s.cur.core { s.core s.cur.core with stopped := true }) ∧
    ∀ asid va pa, (raise s cause val held).byte asid va pa = s.byte asid va pa) ∧
  ∀ (s : State) (t : Thread) (asid va : Nat), s.thread? s.cur = some t → isPair s.cur.core = false →
    let u := fail s (.page asid va)
    u.me.wait = some (.page asid va) ∧ u.me.pc = t.pc ∧ u.me.regs = t.regs ∧ u.me.full = t.full ∧ u.me.caps = t.caps ∧
      u.net = s.net ++ [{ dest := servicePair s (homeSlice va / 16), src := s.cur, launch := t.launch, rcb := t.rcb
                          body := .event 0x10 (s.handleOf s.cur) 0x08 t.pc (BitVec.ofNat 64 va) t.rcb, sender := t.number }]
end

