-- ==== Sys2Proof/Laws/State.lean ====
section
/-!
SUPPORT. What the named updates of the state and of a thread change and leave alone: one lemma per field and update, and the
laws of tables behind them.
-/

namespace Sys2Proof

/-! ### Tables -/

namespace Tab

variable {α : Type}

@[simp] theorem get_nil (d : α) (k : Nat) : Tab.get d [] k = d := rfl

@[simp] theorem find_nil (k : Nat) : Tab.find ([] : Tab α) k = none := rfl

theorem get_set (d : α) (t : Tab α) (k k' : Nat) (v : α) : Tab.get d (t.set k v) k' = if k' = k then v else Tab.get d t k' := by
  induction t with
  | nil => simp [Tab.set, Tab.get, eq_comm]
  | cons e t ih =>
    obtain ⟨j, w⟩ := e
    simp only [Tab.set]
    split
    · simp [Tab.get, eq_comm]
    · split
      · subst_vars
        simp only [Tab.get]
        split <;> split <;> first | rfl | omega
      · simp only [Tab.get, ih]
        split <;> split <;> first | rfl | omega

@[simp] theorem get_set_self (d : α) (t : Tab α) (k : Nat) (v : α) : Tab.get d (t.set k v) k = v := by simp [get_set]

theorem get_set_ne (d : α) (t : Tab α) {k k' : Nat} (v : α) (h : k' ≠ k) : Tab.get d (t.set k v) k' = Tab.get d t k' := by
  simp [get_set, h]

theorem find_set (t : Tab α) (k k' : Nat) (v : α) : (t.set k v).find k' = if k' = k then some v else t.find k' := by
  induction t with
  | nil => simp [Tab.set, Tab.find, eq_comm]
  | cons e t ih =>
    obtain ⟨j, w⟩ := e
    simp only [Tab.set]
    split
    · simp [Tab.find, eq_comm]
    · split
      · subst_vars
        simp only [Tab.find]
        split <;> split <;> first | rfl | omega
      · simp only [Tab.find, ih]
        split <;> split <;> first | rfl | omega

@[simp] theorem find_set_self (t : Tab α) (k : Nat) (v : α) : (t.set k v).find k = some v := by simp [find_set]

theorem find_set_ne (t : Tab α) {k k' : Nat} (v : α) (h : k' ≠ k) : (t.set k v).find k' = t.find k' := by simp [find_set, h]

theorem get_del (d : α) (t : Tab α) (k k' : Nat) : Tab.get d (t.del k) k' = if k' = k then d else Tab.get d t k' := by
  induction t with
  | nil => simp [Tab.del]
  | cons e t ih =>
    obtain ⟨j, w⟩ := e
    simp only [Tab.del]
    split
    · rw [ih]
      simp only [Tab.get]
      split
      · rfl
      · split <;> first | rfl | omega
    · simp only [Tab.get, ih]
      split <;> split <;> first | rfl | omega

theorem find_del (t : Tab α) (k k' : Nat) : (t.del k).find k' = if k' = k then none else t.find k' := by
  induction t with
  | nil => simp [Tab.del]
  | cons e t ih =>
    obtain ⟨j, w⟩ := e
    simp only [Tab.del]
    split
    · rw [ih]
      simp only [Tab.find]
      split
      · rfl
      · split <;> first | rfl | omega
    · simp only [Tab.find, ih]
      split <;> split <;> first | rfl | omega

theorem set_set (t : Tab α) (k : Nat) (v w : α) : (t.set k v).set k w = t.set k w := by
  induction t with
  | nil => simp [Tab.set]
  | cons e t ih =>
    obtain ⟨j, u⟩ := e
    simp only [Tab.set]
    split
    · simp [Tab.set]
    · split
      · subst_vars
        simp [Tab.set]
      · simp [Tab.set, *]

theorem rising_mono {t : Tab α} {b c : Nat} (h : Tab.risingFrom b t = true) (hc : c ≤ b) : Tab.risingFrom c t = true := by
  cases t with
  | nil => rfl
  | cons e t =>
    obtain ⟨j, w⟩ := e
    simp only [Tab.risingFrom, Bool.and_eq_true, decide_eq_true_eq] at h ⊢
    exact ⟨by omega, h.2⟩

theorem rising_set {t : Tab α} {b k : Nat} {v : α} (h : Tab.risingFrom b t = true) (hk : b ≤ k) :
    Tab.risingFrom b (t.set k v) = true := by
  induction t generalizing b with
  | nil => simp [Tab.set, Tab.risingFrom, hk]
  | cons e t ih =>
    obtain ⟨j, w⟩ := e
    simp only [Tab.risingFrom, Bool.and_eq_true, decide_eq_true_eq] at h
    simp only [Tab.set]
    split
    · simp only [Tab.risingFrom, Bool.and_eq_true, decide_eq_true_eq]
      exact ⟨hk, by omega, h.2⟩
    · split
      · subst_vars
        simp only [Tab.risingFrom, Bool.and_eq_true, decide_eq_true_eq]
        exact ⟨hk, h.2⟩
      · simp only [Tab.risingFrom, Bool.and_eq_true, decide_eq_true_eq]
        exact ⟨h.1, ih h.2 (by omega)⟩

theorem rising_del {t : Tab α} {b : Nat} (k : Nat) (h : Tab.risingFrom b t = true) : Tab.risingFrom b (t.del k) = true := by
  induction t generalizing b with
  | nil => rfl
  | cons e t ih =>
    obtain ⟨j, w⟩ := e
    simp only [Tab.risingFrom, Bool.and_eq_true, decide_eq_true_eq] at h
    simp only [Tab.del]
    split
    · exact rising_mono (ih h.2) (by omega)
    · simp only [Tab.risingFrom, Bool.and_eq_true, decide_eq_true_eq]
      exact ⟨h.1, ih h.2⟩

theorem rising_filter {t : Tab α} {b : Nat} (p : Nat × α → Bool) (h : Tab.risingFrom b t = true) :
    Tab.risingFrom b (t.filter p) = true := by
  induction t generalizing b with
  | nil => rfl
  | cons e t ih =>
    obtain ⟨j, w⟩ := e
    simp only [Tab.risingFrom, Bool.and_eq_true, decide_eq_true_eq] at h
    simp only [List.filter_cons]
    split
    · simp only [Tab.risingFrom, Bool.and_eq_true, decide_eq_true_eq]
      exact ⟨h.1, ih h.2⟩
    · exact rising_mono (ih h.2) (by omega)

theorem mem_set {t : Tab α} {k : Nat} {v : α} {e : Nat × α} (h : e ∈ t.set k v) : e = (k, v) ∨ e ∈ t := by
  induction t with
  | nil => simpa [Tab.set] using h
  | cons x t ih =>
    obtain ⟨j, w⟩ := x
    simp only [Tab.set] at h
    split at h
    · simpa using h
    · split at h
      · simp only [List.mem_cons] at h ⊢
        tauto
      · simp only [List.mem_cons] at h ⊢
        rcases h with h | h
        · exact .inr (.inl h)
        · rcases ih h with h | h <;> tauto

theorem mem_del {t : Tab α} {k : Nat} {e : Nat × α} (h : e ∈ t.del k) : e ∈ t := by
  induction t with
  | nil => simp [Tab.del] at h
  | cons x t ih =>
    obtain ⟨j, w⟩ := x
    simp only [Tab.del] at h
    split at h
    · exact List.mem_cons_of_mem _ (ih h)
    · simp only [List.mem_cons] at h ⊢
      rcases h with h | h
      · exact .inl h
      · exact .inr (ih h)

end Tab


namespace Machine

/-! ### Updates of the state, field by field -/

@[simp] theorem State.setCore_cores (s : State) (id : Nat) (c : Core) : (s.setCore id c).cores = s.cores.set id c := rfl
@[simp] theorem State.setCore_clusters (s : State) (id : Nat) (c : Core) : (s.setCore id c).clusters = s.clusters := rfl
@[simp] theorem State.setCore_dies (s : State) (id : Nat) (c : Core) : (s.setCore id c).dies = s.dies := rfl
@[simp] theorem State.setCore_mem (s : State) (id : Nat) (c : Core) : (s.setCore id c).mem = s.mem := rfl
@[simp] theorem State.setCore_memTags (s : State) (id : Nat) (c : Core) : (s.setCore id c).memTags = s.memTags := rfl
@[simp] theorem State.setCore_seals (s : State) (id : Nat) (c : Core) : (s.setCore id c).seals = s.seals := rfl
@[simp] theorem State.setCore_lines (s : State) (id : Nat) (c : Core) : (s.setCore id c).lines = s.lines := rfl
@[simp] theorem State.setCore_drups (s : State) (id : Nat) (c : Core) : (s.setCore id c).drups = s.drups := rfl
@[simp] theorem State.setCore_index (s : State) (id : Nat) (c : Core) : (s.setCore id c).index = s.index := rfl
@[simp] theorem State.setCore_tlb (s : State) (id : Nat) (c : Core) : (s.setCore id c).tlb = s.tlb := rfl
@[simp] theorem State.setCore_grants (s : State) (id : Nat) (c : Core) : (s.setCore id c).grants = s.grants := rfl
@[simp] theorem State.setCore_replicas (s : State) (id : Nat) (c : Core) : (s.setCore id c).replicas = s.replicas := rfl
@[simp] theorem State.setCore_recent (s : State) (id : Nat) (c : Core) : (s.setCore id c).recent = s.recent := rfl
@[simp] theorem State.setCore_caches (s : State) (id : Nat) (c : Core) : (s.setCore id c).caches = s.caches := rfl
@[simp] theorem State.setCore_walks (s : State) (id : Nat) (c : Core) : (s.setCore id c).walks = s.walks := rfl
@[simp] theorem State.setCore_born (s : State) (id : Nat) (c : Core) : (s.setCore id c).born = s.born := rfl
@[simp] theorem State.setCore_coll (s : State) (id : Nat) (c : Core) : (s.setCore id c).coll = s.coll := rfl
@[simp] theorem State.setCore_unsh (s : State) (id : Nat) (c : Core) : (s.setCore id c).unsh = s.unsh := rfl
@[simp] theorem State.setCore_stores (s : State) (id : Nat) (c : Core) : (s.setCore id c).stores = s.stores := rfl
@[simp] theorem State.setCore_net (s : State) (id : Nat) (c : Core) : (s.setCore id c).net = s.net := rfl
@[simp] theorem State.setCore_outbox (s : State) (id : Nat) (c : Core) : (s.setCore id c).outbox = s.outbox := rfl
@[simp] theorem State.setCore_routeless (s : State) (id : Nat) (c : Core) : (s.setCore id c).routeless = s.routeless := rfl
@[simp] theorem State.setCore_unreach (s : State) (id : Nat) (c : Core) : (s.setCore id c).unreach = s.unreach := rfl
@[simp] theorem State.setCore_pending (s : State) (id : Nat) (c : Core) : (s.setCore id c).pending = s.pending := rfl
@[simp] theorem State.setCore_multis (s : State) (id : Nat) (c : Core) : (s.setCore id c).multis = s.multis := rfl
@[simp] theorem State.setCore_keys (s : State) (id : Nat) (c : Core) : (s.setCore id c).keys = s.keys := rfl
@[simp] theorem State.setCore_sealedRecords (s : State) (id : Nat) (c : Core) : (s.setCore id c).sealedRecords = s.sealedRecords := rfl
@[simp] theorem State.setCore_sealNonce (s : State) (id : Nat) (c : Core) : (s.setCore id c).sealNonce = s.sealNonce := rfl
@[simp] theorem State.setCore_toRestore (s : State) (id : Nat) (c : Core) : (s.setCore id c).toRestore = s.toRestore := rfl
@[simp] theorem State.setCore_dbgctl (s : State) (id : Nat) (c : Core) : (s.setCore id c).dbgctl = s.dbgctl := rfl
@[simp] theorem State.setCore_dbgReq (s : State) (id : Nat) (c : Core) : (s.setCore id c).dbgReq = s.dbgReq := rfl
@[simp] theorem State.setCore_sroot (s : State) (id : Nat) (c : Core) : (s.setCore id c).sroot = s.sroot := rfl
@[simp] theorem State.setCore_svocab (s : State) (id : Nat) (c : Core) : (s.setCore id c).svocab = s.svocab := rfl
@[simp] theorem State.setCore_launches (s : State) (id : Nat) (c : Core) : (s.setCore id c).launches = s.launches := rfl
@[simp] theorem State.setCore_credits (s : State) (id : Nat) (c : Core) : (s.setCore id c).credits = s.credits := rfl
@[simp] theorem State.setCore_tslot (s : State) (id : Nat) (c : Core) : (s.setCore id c).tslot = s.tslot := rfl
@[simp] theorem State.setCore_tbase (s : State) (id : Nat) (c : Core) : (s.setCore id c).tbase = s.tbase := rfl
@[simp] theorem State.setCore_tlen (s : State) (id : Nat) (c : Core) : (s.setCore id c).tlen = s.tlen := rfl
@[simp] theorem State.setCore_tticks (s : State) (id : Nat) (c : Core) : (s.setCore id c).tticks = s.tticks := rfl
@[simp] theorem State.setCore_deferred (s : State) (id : Nat) (c : Core) : (s.setCore id c).deferred = s.deferred := rfl
@[simp] theorem State.setCore_fenced (s : State) (id : Nat) (c : Core) : (s.setCore id c).fenced = s.fenced := rfl
@[simp] theorem State.setCore_ports (s : State) (id : Nat) (c : Core) : (s.setCore id c).ports = s.ports := rfl
@[simp] theorem State.setCore_cxls (s : State) (id : Nat) (c : Core) : (s.setCore id c).cxls = s.cxls := rfl
@[simp] theorem State.setCore_banks (s : State) (id : Nat) (c : Core) : (s.setCore id c).banks = s.banks := rfl
@[simp] theorem State.setCore_record (s : State) (id : Nat) (c : Core) : (s.setCore id c).record = s.record := rfl
@[simp] theorem State.setCore_identity (s : State) (id : Nat) (c : Core) : (s.setCore id c).identity = s.identity := rfl
@[simp] theorem State.setCore_attest (s : State) (id : Nat) (c : Core) : (s.setCore id c).attest = s.attest := rfl
@[simp] theorem State.setCore_rootHash (s : State) (id : Nat) (c : Core) : (s.setCore id c).rootHash = s.rootHash := rfl
@[simp] theorem State.setCore_active (s : State) (id : Nat) (c : Core) : (s.setCore id c).active = s.active := rfl
@[simp] theorem State.setCore_minver (s : State) (id : Nat) (c : Core) : (s.setCore id c).minver = s.minver := rfl
@[simp] theorem State.setCore_trialArmed (s : State) (id : Nat) (c : Core) : (s.setCore id c).trialArmed = s.trialArmed := rfl
@[simp] theorem State.setCore_trialEnd (s : State) (id : Nat) (c : Core) : (s.setCore id c).trialEnd = s.trialEnd := rfl
@[simp] theorem State.setCore_bringup (s : State) (id : Nat) (c : Core) : (s.setCore id c).bringup = s.bringup := rfl
@[simp] theorem State.setCore_powered (s : State) (id : Nat) (c : Core) : (s.setCore id c).powered = s.powered := rfl
@[simp] theorem State.setCore_boots (s : State) (id : Nat) (c : Core) : (s.setCore id c).boots = s.boots := rfl
@[simp] theorem State.setCore_quotes (s : State) (id : Nat) (c : Core) : (s.setCore id c).quotes = s.quotes := rfl
@[simp] theorem State.setCore_debugOut (s : State) (id : Nat) (c : Core) : (s.setCore id c).debugOut = s.debugOut := rfl
@[simp] theorem State.setCore_hostOut (s : State) (id : Nat) (c : Core) : (s.setCore id c).hostOut = s.hostOut := rfl
@[simp] theorem State.setCore_windowOut (s : State) (id : Nat) (c : Core) : (s.setCore id c).windowOut = s.windowOut := rfl
@[simp] theorem State.setCore_ptp (s : State) (id : Nat) (c : Core) : (s.setCore id c).ptp = s.ptp := rfl
@[simp] theorem State.setCore_now (s : State) (id : Nat) (c : Core) : (s.setCore id c).now = s.now := rfl
@[simp] theorem State.setCore_turns (s : State) (id : Nat) (c : Core) : (s.setCore id c).turns = s.turns := rfl
@[simp] theorem State.setCore_tick (s : State) (id : Nat) (c : Core) : (s.setCore id c).tick = s.tick := rfl
@[simp] theorem State.setCore_cur (s : State) (id : Nat) (c : Core) : (s.setCore id c).cur = s.cur := rfl
@[simp] theorem State.setCore_word (s : State) (id : Nat) (c : Core) : (s.setCore id c).word = s.word := rfl
@[simp] theorem State.setCore_next (s : State) (id : Nat) (c : Core) : (s.setCore id c).next = s.next := rfl
@[simp] theorem State.setCore_cue (s : State) (id : Nat) (c : Core) : (s.setCore id c).cue = s.cue := rfl
@[simp] theorem State.setCore_killing (s : State) (id : Nat) (c : Core) : (s.setCore id c).killing = s.killing := rfl
@[simp] theorem State.setCore_stalled (s : State) (id : Nat) (c : Core) : (s.setCore id c).stalled = s.stalled := rfl

@[simp] theorem State.setCluster_cores (s : State) (k : Nat) (c : Cluster) : (s.setCluster k c).cores = s.cores := rfl
@[simp] theorem State.setCluster_clusters (s : State) (k : Nat) (c : Cluster) : (s.setCluster k c).clusters = s.clusters.set k c := rfl
@[simp] theorem State.setCluster_dies (s : State) (k : Nat) (c : Cluster) : (s.setCluster k c).dies = s.dies := rfl
@[simp] theorem State.setCluster_mem (s : State) (k : Nat) (c : Cluster) : (s.setCluster k c).mem = s.mem := rfl
@[simp] theorem State.setCluster_memTags (s : State) (k : Nat) (c : Cluster) : (s.setCluster k c).memTags = s.memTags := rfl
@[simp] theorem State.setCluster_seals (s : State) (k : Nat) (c : Cluster) : (s.setCluster k c).seals = s.seals := rfl
@[simp] theorem State.setCluster_lines (s : State) (k : Nat) (c : Cluster) : (s.setCluster k c).lines = s.lines := rfl
@[simp] theorem State.setCluster_drups (s : State) (k : Nat) (c : Cluster) : (s.setCluster k c).drups = s.drups := rfl
@[simp] theorem State.setCluster_index (s : State) (k : Nat) (c : Cluster) : (s.setCluster k c).index = s.index := rfl
@[simp] theorem State.setCluster_tlb (s : State) (k : Nat) (c : Cluster) : (s.setCluster k c).tlb = s.tlb := rfl
@[simp] theorem State.setCluster_grants (s : State) (k : Nat) (c : Cluster) : (s.setCluster k c).grants = s.grants := rfl
@[simp] theorem State.setCluster_replicas (s : State) (k : Nat) (c : Cluster) : (s.setCluster k c).replicas = s.replicas := rfl
@[simp] theorem State.setCluster_recent (s : State) (k : Nat) (c : Cluster) : (s.setCluster k c).recent = s.recent := rfl
@[simp] theorem State.setCluster_caches (s : State) (k : Nat) (c : Cluster) : (s.setCluster k c).caches = s.caches := rfl
@[simp] theorem State.setCluster_walks (s : State) (k : Nat) (c : Cluster) : (s.setCluster k c).walks = s.walks := rfl
@[simp] theorem State.setCluster_born (s : State) (k : Nat) (c : Cluster) : (s.setCluster k c).born = s.born := rfl
@[simp] theorem State.setCluster_coll (s : State) (k : Nat) (c : Cluster) : (s.setCluster k c).coll = s.coll := rfl
@[simp] theorem State.setCluster_unsh (s : State) (k : Nat) (c : Cluster) : (s.setCluster k c).unsh = s.unsh := rfl
@[simp] theorem State.setCluster_stores (s : State) (k : Nat) (c : Cluster) : (s.setCluster k c).stores = s.stores := rfl
@[simp] theorem State.setCluster_net (s : State) (k : Nat) (c : Cluster) : (s.setCluster k c).net = s.net := rfl
@[simp] theorem State.setCluster_outbox (s : State) (k : Nat) (c : Cluster) : (s.setCluster k c).outbox = s.outbox := rfl
@[simp] theorem State.setCluster_routeless (s : State) (k : Nat) (c : Cluster) : (s.setCluster k c).routeless = s.routeless := rfl
@[simp] theorem State.setCluster_unreach (s : State) (k : Nat) (c : Cluster) : (s.setCluster k c).unreach = s.unreach := rfl
@[simp] theorem State.setCluster_pending (s : State) (k : Nat) (c : Cluster) : (s.setCluster k c).pending = s.pending := rfl
@[simp] theorem State.setCluster_multis (s : State) (k : Nat) (c : Cluster) : (s.setCluster k c).multis = s.multis := rfl
@[simp] theorem State.setCluster_keys (s : State) (k : Nat) (c : Cluster) : (s.setCluster k c).keys = s.keys := rfl
@[simp] theorem State.setCluster_sealedRecords (s : State) (k : Nat) (c : Cluster) : (s.setCluster k c).sealedRecords = s.sealedRecords := rfl
@[simp] theorem State.setCluster_sealNonce (s : State) (k : Nat) (c : Cluster) : (s.setCluster k c).sealNonce = s.sealNonce := rfl
@[simp] theorem State.setCluster_toRestore (s : State) (k : Nat) (c : Cluster) : (s.setCluster k c).toRestore = s.toRestore := rfl
@[simp] theorem State.setCluster_dbgctl (s : State) (k : Nat) (c : Cluster) : (s.setCluster k c).dbgctl = s.dbgctl := rfl
@[simp] theorem State.setCluster_dbgReq (s : State) (k : Nat) (c : Cluster) : (s.setCluster k c).dbgReq = s.dbgReq := rfl
@[simp] theorem State.setCluster_sroot (s : State) (k : Nat) (c : Cluster) : (s.setCluster k c).sroot = s.sroot := rfl
@[simp] theorem State.setCluster_svocab (s : State) (k : Nat) (c : Cluster) : (s.setCluster k c).svocab = s.svocab := rfl
@[simp] theorem State.setCluster_launches (s : State) (k : Nat) (c : Cluster) : (s.setCluster k c).launches = s.launches := rfl
@[simp] theorem State.setCluster_credits (s : State) (k : Nat) (c : Cluster) : (s.setCluster k c).credits = s.credits := rfl
@[simp] theorem State.setCluster_tslot (s : State) (k : Nat) (c : Cluster) : (s.setCluster k c).tslot = s.tslot := rfl
@[simp] theorem State.setCluster_tbase (s : State) (k : Nat) (c : Cluster) : (s.setCluster k c).tbase = s.tbase := rfl
@[simp] theorem State.setCluster_tlen (s : State) (k : Nat) (c : Cluster) : (s.setCluster k c).tlen = s.tlen := rfl
@[simp] theorem State.setCluster_tticks (s : State) (k : Nat) (c : Cluster) : (s.setCluster k c).tticks = s.tticks := rfl
@[simp] theorem State.setCluster_deferred (s : State) (k : Nat) (c : Cluster) : (s.setCluster k c).deferred = s.deferred := rfl
@[simp] theorem State.setCluster_fenced (s : State) (k : Nat) (c : Cluster) : (s.setCluster k c).fenced = s.fenced := rfl
@[simp] theorem State.setCluster_ports (s : State) (k : Nat) (c : Cluster) : (s.setCluster k c).ports = s.ports := rfl
@[simp] theorem State.setCluster_cxls (s : State) (k : Nat) (c : Cluster) : (s.setCluster k c).cxls = s.cxls := rfl
@[simp] theorem State.setCluster_banks (s : State) (k : Nat) (c : Cluster) : (s.setCluster k c).banks = s.banks := rfl
@[simp] theorem State.setCluster_record (s : State) (k : Nat) (c : Cluster) : (s.setCluster k c).record = s.record := rfl
@[simp] theorem State.setCluster_identity (s : State) (k : Nat) (c : Cluster) : (s.setCluster k c).identity = s.identity := rfl
@[simp] theorem State.setCluster_attest (s : State) (k : Nat) (c : Cluster) : (s.setCluster k c).attest = s.attest := rfl
@[simp] theorem State.setCluster_rootHash (s : State) (k : Nat) (c : Cluster) : (s.setCluster k c).rootHash = s.rootHash := rfl
@[simp] theorem State.setCluster_active (s : State) (k : Nat) (c : Cluster) : (s.setCluster k c).active = s.active := rfl
@[simp] theorem State.setCluster_minver (s : State) (k : Nat) (c : Cluster) : (s.setCluster k c).minver = s.minver := rfl
@[simp] theorem State.setCluster_trialArmed (s : State) (k : Nat) (c : Cluster) : (s.setCluster k c).trialArmed = s.trialArmed := rfl
@[simp] theorem State.setCluster_trialEnd (s : State) (k : Nat) (c : Cluster) : (s.setCluster k c).trialEnd = s.trialEnd := rfl
@[simp] theorem State.setCluster_bringup (s : State) (k : Nat) (c : Cluster) : (s.setCluster k c).bringup = s.bringup := rfl
@[simp] theorem State.setCluster_powered (s : State) (k : Nat) (c : Cluster) : (s.setCluster k c).powered = s.powered := rfl
@[simp] theorem State.setCluster_boots (s : State) (k : Nat) (c : Cluster) : (s.setCluster k c).boots = s.boots := rfl
@[simp] theorem State.setCluster_quotes (s : State) (k : Nat) (c : Cluster) : (s.setCluster k c).quotes = s.quotes := rfl
@[simp] theorem State.setCluster_debugOut (s : State) (k : Nat) (c : Cluster) : (s.setCluster k c).debugOut = s.debugOut := rfl
@[simp] theorem State.setCluster_hostOut (s : State) (k : Nat) (c : Cluster) : (s.setCluster k c).hostOut = s.hostOut := rfl
@[simp] theorem State.setCluster_windowOut (s : State) (k : Nat) (c : Cluster) : (s.setCluster k c).windowOut = s.windowOut := rfl
@[simp] theorem State.setCluster_ptp (s : State) (k : Nat) (c : Cluster) : (s.setCluster k c).ptp = s.ptp := rfl
@[simp] theorem State.setCluster_now (s : State) (k : Nat) (c : Cluster) : (s.setCluster k c).now = s.now := rfl
@[simp] theorem State.setCluster_turns (s : State) (k : Nat) (c : Cluster) : (s.setCluster k c).turns = s.turns := rfl
@[simp] theorem State.setCluster_tick (s : State) (k : Nat) (c : Cluster) : (s.setCluster k c).tick = s.tick := rfl
@[simp] theorem State.setCluster_cur (s : State) (k : Nat) (c : Cluster) : (s.setCluster k c).cur = s.cur := rfl
@[simp] theorem State.setCluster_word (s : State) (k : Nat) (c : Cluster) : (s.setCluster k c).word = s.word := rfl
@[simp] theorem State.setCluster_next (s : State) (k : Nat) (c : Cluster) : (s.setCluster k c).next = s.next := rfl
@[simp] theorem State.setCluster_cue (s : State) (k : Nat) (c : Cluster) : (s.setCluster k c).cue = s.cue := rfl
@[simp] theorem State.setCluster_killing (s : State) (k : Nat) (c : Cluster) : (s.setCluster k c).killing = s.killing := rfl
@[simp] theorem State.setCluster_stalled (s : State) (k : Nat) (c : Cluster) : (s.setCluster k c).stalled = s.stalled := rfl

@[simp] theorem State.setDie_cores (s : State) (d : Nat) (x : Die) : (s.setDie d x).cores = s.cores := rfl
@[simp] theorem State.setDie_clusters (s : State) (d : Nat) (x : Die) : (s.setDie d x).clusters = s.clusters := rfl
@[simp] theorem State.setDie_dies (s : State) (d : Nat) (x : Die) : (s.setDie d x).dies = s.dies.set d x := rfl
@[simp] theorem State.setDie_mem (s : State) (d : Nat) (x : Die) : (s.setDie d x).mem = s.mem := rfl
@[simp] theorem State.setDie_memTags (s : State) (d : Nat) (x : Die) : (s.setDie d x).memTags = s.memTags := rfl
@[simp] theorem State.setDie_seals (s : State) (d : Nat) (x : Die) : (s.setDie d x).seals = s.seals := rfl
@[simp] theorem State.setDie_lines (s : State) (d : Nat) (x : Die) : (s.setDie d x).lines = s.lines := rfl
@[simp] theorem State.setDie_drups (s : State) (d : Nat) (x : Die) : (s.setDie d x).drups = s.drups := rfl
@[simp] theorem State.setDie_index (s : State) (d : Nat) (x : Die) : (s.setDie d x).index = s.index := rfl
@[simp] theorem State.setDie_tlb (s : State) (d : Nat) (x : Die) : (s.setDie d x).tlb = s.tlb := rfl
@[simp] theorem State.setDie_grants (s : State) (d : Nat) (x : Die) : (s.setDie d x).grants = s.grants := rfl
@[simp] theorem State.setDie_replicas (s : State) (d : Nat) (x : Die) : (s.setDie d x).replicas = s.replicas := rfl
@[simp] theorem State.setDie_recent (s : State) (d : Nat) (x : Die) : (s.setDie d x).recent = s.recent := rfl
@[simp] theorem State.setDie_caches (s : State) (d : Nat) (x : Die) : (s.setDie d x).caches = s.caches := rfl
@[simp] theorem State.setDie_walks (s : State) (d : Nat) (x : Die) : (s.setDie d x).walks = s.walks := rfl
@[simp] theorem State.setDie_born (s : State) (d : Nat) (x : Die) : (s.setDie d x).born = s.born := rfl
@[simp] theorem State.setDie_coll (s : State) (d : Nat) (x : Die) : (s.setDie d x).coll = s.coll := rfl
@[simp] theorem State.setDie_unsh (s : State) (d : Nat) (x : Die) : (s.setDie d x).unsh = s.unsh := rfl
@[simp] theorem State.setDie_stores (s : State) (d : Nat) (x : Die) : (s.setDie d x).stores = s.stores := rfl
@[simp] theorem State.setDie_net (s : State) (d : Nat) (x : Die) : (s.setDie d x).net = s.net := rfl
@[simp] theorem State.setDie_outbox (s : State) (d : Nat) (x : Die) : (s.setDie d x).outbox = s.outbox := rfl
@[simp] theorem State.setDie_routeless (s : State) (d : Nat) (x : Die) : (s.setDie d x).routeless = s.routeless := rfl
@[simp] theorem State.setDie_unreach (s : State) (d : Nat) (x : Die) : (s.setDie d x).unreach = s.unreach := rfl
@[simp] theorem State.setDie_pending (s : State) (d : Nat) (x : Die) : (s.setDie d x).pending = s.pending := rfl
@[simp] theorem State.setDie_multis (s : State) (d : Nat) (x : Die) : (s.setDie d x).multis = s.multis := rfl
@[simp] theorem State.setDie_keys (s : State) (d : Nat) (x : Die) : (s.setDie d x).keys = s.keys := rfl
@[simp] theorem State.setDie_sealedRecords (s : State) (d : Nat) (x : Die) : (s.setDie d x).sealedRecords = s.sealedRecords := rfl
@[simp] theorem State.setDie_sealNonce (s : State) (d : Nat) (x : Die) : (s.setDie d x).sealNonce = s.sealNonce := rfl
@[simp] theorem State.setDie_toRestore (s : State) (d : Nat) (x : Die) : (s.setDie d x).toRestore = s.toRestore := rfl
@[simp] theorem State.setDie_dbgctl (s : State) (d : Nat) (x : Die) : (s.setDie d x).dbgctl = s.dbgctl := rfl
@[simp] theorem State.setDie_dbgReq (s : State) (d : Nat) (x : Die) : (s.setDie d x).dbgReq = s.dbgReq := rfl
@[simp] theorem State.setDie_sroot (s : State) (d : Nat) (x : Die) : (s.setDie d x).sroot = s.sroot := rfl
@[simp] theorem State.setDie_svocab (s : State) (d : Nat) (x : Die) : (s.setDie d x).svocab = s.svocab := rfl
@[simp] theorem State.setDie_launches (s : State) (d : Nat) (x : Die) : (s.setDie d x).launches = s.launches := rfl
@[simp] theorem State.setDie_credits (s : State) (d : Nat) (x : Die) : (s.setDie d x).credits = s.credits := rfl
@[simp] theorem State.setDie_tslot (s : State) (d : Nat) (x : Die) : (s.setDie d x).tslot = s.tslot := rfl
@[simp] theorem State.setDie_tbase (s : State) (d : Nat) (x : Die) : (s.setDie d x).tbase = s.tbase := rfl
@[simp] theorem State.setDie_tlen (s : State) (d : Nat) (x : Die) : (s.setDie d x).tlen = s.tlen := rfl
@[simp] theorem State.setDie_tticks (s : State) (d : Nat) (x : Die) : (s.setDie d x).tticks = s.tticks := rfl
@[simp] theorem State.setDie_deferred (s : State) (d : Nat) (x : Die) : (s.setDie d x).deferred = s.deferred := rfl
@[simp] theorem State.setDie_fenced (s : State) (d : Nat) (x : Die) : (s.setDie d x).fenced = s.fenced := rfl
@[simp] theorem State.setDie_ports (s : State) (d : Nat) (x : Die) : (s.setDie d x).ports = s.ports := rfl
@[simp] theorem State.setDie_cxls (s : State) (d : Nat) (x : Die) : (s.setDie d x).cxls = s.cxls := rfl
@[simp] theorem State.setDie_banks (s : State) (d : Nat) (x : Die) : (s.setDie d x).banks = s.banks := rfl
@[simp] theorem State.setDie_record (s : State) (d : Nat) (x : Die) : (s.setDie d x).record = s.record := rfl
@[simp] theorem State.setDie_identity (s : State) (d : Nat) (x : Die) : (s.setDie d x).identity = s.identity := rfl
@[simp] theorem State.setDie_attest (s : State) (d : Nat) (x : Die) : (s.setDie d x).attest = s.attest := rfl
@[simp] theorem State.setDie_rootHash (s : State) (d : Nat) (x : Die) : (s.setDie d x).rootHash = s.rootHash := rfl
@[simp] theorem State.setDie_active (s : State) (d : Nat) (x : Die) : (s.setDie d x).active = s.active := rfl
@[simp] theorem State.setDie_minver (s : State) (d : Nat) (x : Die) : (s.setDie d x).minver = s.minver := rfl
@[simp] theorem State.setDie_trialArmed (s : State) (d : Nat) (x : Die) : (s.setDie d x).trialArmed = s.trialArmed := rfl
@[simp] theorem State.setDie_trialEnd (s : State) (d : Nat) (x : Die) : (s.setDie d x).trialEnd = s.trialEnd := rfl
@[simp] theorem State.setDie_bringup (s : State) (d : Nat) (x : Die) : (s.setDie d x).bringup = s.bringup := rfl
@[simp] theorem State.setDie_powered (s : State) (d : Nat) (x : Die) : (s.setDie d x).powered = s.powered := rfl
@[simp] theorem State.setDie_boots (s : State) (d : Nat) (x : Die) : (s.setDie d x).boots = s.boots := rfl
@[simp] theorem State.setDie_quotes (s : State) (d : Nat) (x : Die) : (s.setDie d x).quotes = s.quotes := rfl
@[simp] theorem State.setDie_debugOut (s : State) (d : Nat) (x : Die) : (s.setDie d x).debugOut = s.debugOut := rfl
@[simp] theorem State.setDie_hostOut (s : State) (d : Nat) (x : Die) : (s.setDie d x).hostOut = s.hostOut := rfl
@[simp] theorem State.setDie_windowOut (s : State) (d : Nat) (x : Die) : (s.setDie d x).windowOut = s.windowOut := rfl
@[simp] theorem State.setDie_ptp (s : State) (d : Nat) (x : Die) : (s.setDie d x).ptp = s.ptp := rfl
@[simp] theorem State.setDie_now (s : State) (d : Nat) (x : Die) : (s.setDie d x).now = s.now := rfl
@[simp] theorem State.setDie_turns (s : State) (d : Nat) (x : Die) : (s.setDie d x).turns = s.turns := rfl
@[simp] theorem State.setDie_tick (s : State) (d : Nat) (x : Die) : (s.setDie d x).tick = s.tick := rfl
@[simp] theorem State.setDie_cur (s : State) (d : Nat) (x : Die) : (s.setDie d x).cur = s.cur := rfl
@[simp] theorem State.setDie_word (s : State) (d : Nat) (x : Die) : (s.setDie d x).word = s.word := rfl
@[simp] theorem State.setDie_next (s : State) (d : Nat) (x : Die) : (s.setDie d x).next = s.next := rfl
@[simp] theorem State.setDie_cue (s : State) (d : Nat) (x : Die) : (s.setDie d x).cue = s.cue := rfl
@[simp] theorem State.setDie_killing (s : State) (d : Nat) (x : Die) : (s.setDie d x).killing = s.killing := rfl
@[simp] theorem State.setDie_stalled (s : State) (d : Nat) (x : Die) : (s.setDie d x).stalled = s.stalled := rfl

@[simp] theorem State.setThread_clusters (s : State) (l : Loc) (t : Thread) : (s.setThread l t).clusters = s.clusters := rfl
@[simp] theorem State.setThread_dies (s : State) (l : Loc) (t : Thread) : (s.setThread l t).dies = s.dies := rfl
@[simp] theorem State.setThread_mem (s : State) (l : Loc) (t : Thread) : (s.setThread l t).mem = s.mem := rfl
@[simp] theorem State.setThread_memTags (s : State) (l : Loc) (t : Thread) : (s.setThread l t).memTags = s.memTags := rfl
@[simp] theorem State.setThread_seals (s : State) (l : Loc) (t : Thread) : (s.setThread l t).seals = s.seals := rfl
@[simp] theorem State.setThread_lines (s : State) (l : Loc) (t : Thread) : (s.setThread l t).lines = s.lines := rfl
@[simp] theorem State.setThread_drups (s : State) (l : Loc) (t : Thread) : (s.setThread l t).drups = s.drups := rfl
@[simp] theorem State.setThread_index (s : State) (l : Loc) (t : Thread) : (s.setThread l t).index = s.index := rfl
@[simp] theorem State.setThread_tlb (s : State) (l : Loc) (t : Thread) : (s.setThread l t).tlb = s.tlb := rfl
@[simp] theorem State.setThread_grants (s : State) (l : Loc) (t : Thread) : (s.setThread l t).grants = s.grants := rfl
@[simp] theorem State.setThread_replicas (s : State) (l : Loc) (t : Thread) : (s.setThread l t).replicas = s.replicas := rfl
@[simp] theorem State.setThread_recent (s : State) (l : Loc) (t : Thread) : (s.setThread l t).recent = s.recent := rfl
@[simp] theorem State.setThread_caches (s : State) (l : Loc) (t : Thread) : (s.setThread l t).caches = s.caches := rfl
@[simp] theorem State.setThread_walks (s : State) (l : Loc) (t : Thread) : (s.setThread l t).walks = s.walks := rfl
@[simp] theorem State.setThread_born (s : State) (l : Loc) (t : Thread) : (s.setThread l t).born = s.born := rfl
@[simp] theorem State.setThread_coll (s : State) (l : Loc) (t : Thread) : (s.setThread l t).coll = s.coll := rfl
@[simp] theorem State.setThread_unsh (s : State) (l : Loc) (t : Thread) : (s.setThread l t).unsh = s.unsh := rfl
@[simp] theorem State.setThread_stores (s : State) (l : Loc) (t : Thread) : (s.setThread l t).stores = s.stores := rfl
@[simp] theorem State.setThread_net (s : State) (l : Loc) (t : Thread) : (s.setThread l t).net = s.net := rfl
@[simp] theorem State.setThread_outbox (s : State) (l : Loc) (t : Thread) : (s.setThread l t).outbox = s.outbox := rfl
@[simp] theorem State.setThread_routeless (s : State) (l : Loc) (t : Thread) : (s.setThread l t).routeless = s.routeless := rfl
@[simp] theorem State.setThread_unreach (s : State) (l : Loc) (t : Thread) : (s.setThread l t).unreach = s.unreach := rfl
@[simp] theorem State.setThread_pending (s : State) (l : Loc) (t : Thread) : (s.setThread l t).pending = s.pending := rfl
@[simp] theorem State.setThread_multis (s : State) (l : Loc) (t : Thread) : (s.setThread l t).multis = s.multis := rfl
@[simp] theorem State.setThread_keys (s : State) (l : Loc) (t : Thread) : (s.setThread l t).keys = s.keys := rfl
@[simp] theorem State.setThread_sealedRecords (s : State) (l : Loc) (t : Thread) : (s.setThread l t).sealedRecords = s.sealedRecords := rfl
@[simp] theorem State.setThread_sealNonce (s : State) (l : Loc) (t : Thread) : (s.setThread l t).sealNonce = s.sealNonce := rfl
@[simp] theorem State.setThread_toRestore (s : State) (l : Loc) (t : Thread) : (s.setThread l t).toRestore = s.toRestore := rfl
@[simp] theorem State.setThread_dbgctl (s : State) (l : Loc) (t : Thread) : (s.setThread l t).dbgctl = s.dbgctl := rfl
@[simp] theorem State.setThread_dbgReq (s : State) (l : Loc) (t : Thread) : (s.setThread l t).dbgReq = s.dbgReq := rfl
@[simp] theorem State.setThread_sroot (s : State) (l : Loc) (t : Thread) : (s.setThread l t).sroot = s.sroot := rfl
@[simp] theorem State.setThread_svocab (s : State) (l : Loc) (t : Thread) : (s.setThread l t).svocab = s.svocab := rfl
@[simp] theorem State.setThread_launches (s : State) (l : Loc) (t : Thread) : (s.setThread l t).launches = s.launches := rfl
@[simp] theorem State.setThread_credits (s : State) (l : Loc) (t : Thread) : (s.setThread l t).credits = s.credits := rfl
@[simp] theorem State.setThread_tslot (s : State) (l : Loc) (t : Thread) : (s.setThread l t).tslot = s.tslot := rfl
@[simp] theorem State.setThread_tbase (s : State) (l : Loc) (t : Thread) : (s.setThread l t).tbase = s.tbase := rfl
@[simp] theorem State.setThread_tlen (s : State) (l : Loc) (t : Thread) : (s.setThread l t).tlen = s.tlen := rfl
@[simp] theorem State.setThread_tticks (s : State) (l : Loc) (t : Thread) : (s.setThread l t).tticks = s.tticks := rfl
@[simp] theorem State.setThread_deferred (s : State) (l : Loc) (t : Thread) : (s.setThread l t).deferred = s.deferred := rfl
@[simp] theorem State.setThread_fenced (s : State) (l : Loc) (t : Thread) : (s.setThread l t).fenced = s.fenced := rfl
@[simp] theorem State.setThread_ports (s : State) (l : Loc) (t : Thread) : (s.setThread l t).ports = s.ports := rfl
@[simp] theorem State.setThread_cxls (s : State) (l : Loc) (t : Thread) : (s.setThread l t).cxls = s.cxls := rfl
@[simp] theorem State.setThread_banks (s : State) (l : Loc) (t : Thread) : (s.setThread l t).banks = s.banks := rfl
@[simp] theorem State.setThread_record (s : State) (l : Loc) (t : Thread) : (s.setThread l t).record = s.record := rfl
@[simp] theorem State.setThread_identity (s : State) (l : Loc) (t : Thread) : (s.setThread l t).identity = s.identity := rfl
@[simp] theorem State.setThread_attest (s : State) (l : Loc) (t : Thread) : (s.setThread l t).attest = s.attest := rfl
@[simp] theorem State.setThread_rootHash (s : State) (l : Loc) (t : Thread) : (s.setThread l t).rootHash = s.rootHash := rfl
@[simp] theorem State.setThread_active (s : State) (l : Loc) (t : Thread) : (s.setThread l t).active = s.active := rfl
@[simp] theorem State.setThread_minver (s : State) (l : Loc) (t : Thread) : (s.setThread l t).minver = s.minver := rfl
@[simp] theorem State.setThread_trialArmed (s : State) (l : Loc) (t : Thread) : (s.setThread l t).trialArmed = s.trialArmed := rfl
@[simp] theorem State.setThread_trialEnd (s : State) (l : Loc) (t : Thread) : (s.setThread l t).trialEnd = s.trialEnd := rfl
@[simp] theorem State.setThread_bringup (s : State) (l : Loc) (t : Thread) : (s.setThread l t).bringup = s.bringup := rfl
@[simp] theorem State.setThread_powered (s : State) (l : Loc) (t : Thread) : (s.setThread l t).powered = s.powered := rfl
@[simp] theorem State.setThread_boots (s : State) (l : Loc) (t : Thread) : (s.setThread l t).boots = s.boots := rfl
@[simp] theorem State.setThread_quotes (s : State) (l : Loc) (t : Thread) : (s.setThread l t).quotes = s.quotes := rfl
@[simp] theorem State.setThread_debugOut (s : State) (l : Loc) (t : Thread) : (s.setThread l t).debugOut = s.debugOut := rfl
@[simp] theorem State.setThread_hostOut (s : State) (l : Loc) (t : Thread) : (s.setThread l t).hostOut = s.hostOut := rfl
@[simp] theorem State.setThread_windowOut (s : State) (l : Loc) (t : Thread) : (s.setThread l t).windowOut = s.windowOut := rfl
@[simp] theorem State.setThread_ptp (s : State) (l : Loc) (t : Thread) : (s.setThread l t).ptp = s.ptp := rfl
@[simp] theorem State.setThread_now (s : State) (l : Loc) (t : Thread) : (s.setThread l t).now = s.now := rfl
@[simp] theorem State.setThread_turns (s : State) (l : Loc) (t : Thread) : (s.setThread l t).turns = s.turns := rfl
@[simp] theorem State.setThread_tick (s : State) (l : Loc) (t : Thread) : (s.setThread l t).tick = s.tick := rfl
@[simp] theorem State.setThread_cur (s : State) (l : Loc) (t : Thread) : (s.setThread l t).cur = s.cur := rfl
@[simp] theorem State.setThread_word (s : State) (l : Loc) (t : Thread) : (s.setThread l t).word = s.word := rfl
@[simp] theorem State.setThread_next (s : State) (l : Loc) (t : Thread) : (s.setThread l t).next = s.next := rfl
@[simp] theorem State.setThread_cue (s : State) (l : Loc) (t : Thread) : (s.setThread l t).cue = s.cue := rfl
@[simp] theorem State.setThread_killing (s : State) (l : Loc) (t : Thread) : (s.setThread l t).killing = s.killing := rfl
@[simp] theorem State.setThread_stalled (s : State) (l : Loc) (t : Thread) : (s.setThread l t).stalled = s.stalled := rfl

@[simp] theorem State.setMe_clusters (s : State) (t : Thread) : (s.setMe t).clusters = s.clusters := rfl
@[simp] theorem State.setMe_dies (s : State) (t : Thread) : (s.setMe t).dies = s.dies := rfl
@[simp] theorem State.setMe_mem (s : State) (t : Thread) : (s.setMe t).mem = s.mem := rfl
@[simp] theorem State.setMe_memTags (s : State) (t : Thread) : (s.setMe t).memTags = s.memTags := rfl
@[simp] theorem State.setMe_seals (s : State) (t : Thread) : (s.setMe t).seals = s.seals := rfl
@[simp] theorem State.setMe_lines (s : State) (t : Thread) : (s.setMe t).lines = s.lines := rfl
@[simp] theorem State.setMe_drups (s : State) (t : Thread) : (s.setMe t).drups = s.drups := rfl
@[simp] theorem State.setMe_index (s : State) (t : Thread) : (s.setMe t).index = s.index := rfl
@[simp] theorem State.setMe_tlb (s : State) (t : Thread) : (s.setMe t).tlb = s.tlb := rfl
@[simp] theorem State.setMe_grants (s : State) (t : Thread) : (s.setMe t).grants = s.grants := rfl
@[simp] theorem State.setMe_replicas (s : State) (t : Thread) : (s.setMe t).replicas = s.replicas := rfl
@[simp] theorem State.setMe_recent (s : State) (t : Thread) : (s.setMe t).recent = s.recent := rfl
@[simp] theorem State.setMe_caches (s : State) (t : Thread) : (s.setMe t).caches = s.caches := rfl
@[simp] theorem State.setMe_walks (s : State) (t : Thread) : (s.setMe t).walks = s.walks := rfl
@[simp] theorem State.setMe_born (s : State) (t : Thread) : (s.setMe t).born = s.born := rfl
@[simp] theorem State.setMe_coll (s : State) (t : Thread) : (s.setMe t).coll = s.coll := rfl
@[simp] theorem State.setMe_unsh (s : State) (t : Thread) : (s.setMe t).unsh = s.unsh := rfl
@[simp] theorem State.setMe_stores (s : State) (t : Thread) : (s.setMe t).stores = s.stores := rfl
@[simp] theorem State.setMe_net (s : State) (t : Thread) : (s.setMe t).net = s.net := rfl
@[simp] theorem State.setMe_outbox (s : State) (t : Thread) : (s.setMe t).outbox = s.outbox := rfl
@[simp] theorem State.setMe_routeless (s : State) (t : Thread) : (s.setMe t).routeless = s.routeless := rfl
@[simp] theorem State.setMe_unreach (s : State) (t : Thread) : (s.setMe t).unreach = s.unreach := rfl
@[simp] theorem State.setMe_pending (s : State) (t : Thread) : (s.setMe t).pending = s.pending := rfl
@[simp] theorem State.setMe_multis (s : State) (t : Thread) : (s.setMe t).multis = s.multis := rfl
@[simp] theorem State.setMe_keys (s : State) (t : Thread) : (s.setMe t).keys = s.keys := rfl
@[simp] theorem State.setMe_sealedRecords (s : State) (t : Thread) : (s.setMe t).sealedRecords = s.sealedRecords := rfl
@[simp] theorem State.setMe_sealNonce (s : State) (t : Thread) : (s.setMe t).sealNonce = s.sealNonce := rfl
@[simp] theorem State.setMe_toRestore (s : State) (t : Thread) : (s.setMe t).toRestore = s.toRestore := rfl
@[simp] theorem State.setMe_dbgctl (s : State) (t : Thread) : (s.setMe t).dbgctl = s.dbgctl := rfl
@[simp] theorem State.setMe_dbgReq (s : State) (t : Thread) : (s.setMe t).dbgReq = s.dbgReq := rfl
@[simp] theorem State.setMe_sroot (s : State) (t : Thread) : (s.setMe t).sroot = s.sroot := rfl
@[simp] theorem State.setMe_svocab (s : State) (t : Thread) : (s.setMe t).svocab = s.svocab := rfl
@[simp] theorem State.setMe_launches (s : State) (t : Thread) : (s.setMe t).launches = s.launches := rfl
@[simp] theorem State.setMe_credits (s : State) (t : Thread) : (s.setMe t).credits = s.credits := rfl
@[simp] theorem State.setMe_tslot (s : State) (t : Thread) : (s.setMe t).tslot = s.tslot := rfl
@[simp] theorem State.setMe_tbase (s : State) (t : Thread) : (s.setMe t).tbase = s.tbase := rfl
@[simp] theorem State.setMe_tlen (s : State) (t : Thread) : (s.setMe t).tlen = s.tlen := rfl
@[simp] theorem State.setMe_tticks (s : State) (t : Thread) : (s.setMe t).tticks = s.tticks := rfl
@[simp] theorem State.setMe_deferred (s : State) (t : Thread) : (s.setMe t).deferred = s.deferred := rfl
@[simp] theorem State.setMe_fenced (s : State) (t : Thread) : (s.setMe t).fenced = s.fenced := rfl
@[simp] theorem State.setMe_ports (s : State) (t : Thread) : (s.setMe t).ports = s.ports := rfl
@[simp] theorem State.setMe_cxls (s : State) (t : Thread) : (s.setMe t).cxls = s.cxls := rfl
@[simp] theorem State.setMe_banks (s : State) (t : Thread) : (s.setMe t).banks = s.banks := rfl
@[simp] theorem State.setMe_record (s : State) (t : Thread) : (s.setMe t).record = s.record := rfl
@[simp] theorem State.setMe_identity (s : State) (t : Thread) : (s.setMe t).identity = s.identity := rfl
@[simp] theorem State.setMe_attest (s : State) (t : Thread) : (s.setMe t).attest = s.attest := rfl
@[simp] theorem State.setMe_rootHash (s : State) (t : Thread) : (s.setMe t).rootHash = s.rootHash := rfl
@[simp] theorem State.setMe_active (s : State) (t : Thread) : (s.setMe t).active = s.active := rfl
@[simp] theorem State.setMe_minver (s : State) (t : Thread) : (s.setMe t).minver = s.minver := rfl
@[simp] theorem State.setMe_trialArmed (s : State) (t : Thread) : (s.setMe t).trialArmed = s.trialArmed := rfl
@[simp] theorem State.setMe_trialEnd (s : State) (t : Thread) : (s.setMe t).trialEnd = s.trialEnd := rfl
@[simp] theorem State.setMe_bringup (s : State) (t : Thread) : (s.setMe t).bringup = s.bringup := rfl
@[simp] theorem State.setMe_powered (s : State) (t : Thread) : (s.setMe t).powered = s.powered := rfl
@[simp] theorem State.setMe_boots (s : State) (t : Thread) : (s.setMe t).boots = s.boots := rfl
@[simp] theorem State.setMe_quotes (s : State) (t : Thread) : (s.setMe t).quotes = s.quotes := rfl
@[simp] theorem State.setMe_debugOut (s : State) (t : Thread) : (s.setMe t).debugOut = s.debugOut := rfl
@[simp] theorem State.setMe_hostOut (s : State) (t : Thread) : (s.setMe t).hostOut = s.hostOut := rfl
@[simp] theorem State.setMe_windowOut (s : State) (t : Thread) : (s.setMe t).windowOut = s.windowOut := rfl
@[simp] theorem State.setMe_ptp (s : State) (t : Thread) : (s.setMe t).ptp = s.ptp := rfl
@[simp] theorem State.setMe_now (s : State) (t : Thread) : (s.setMe t).now = s.now := rfl
@[simp] theorem State.setMe_turns (s : State) (t : Thread) : (s.setMe t).turns = s.turns := rfl
@[simp] theorem State.setMe_tick (s : State) (t : Thread) : (s.setMe t).tick = s.tick := rfl
@[simp] theorem State.setMe_cur (s : State) (t : Thread) : (s.setMe t).cur = s.cur := rfl
@[simp] theorem State.setMe_word (s : State) (t : Thread) : (s.setMe t).word = s.word := rfl
@[simp] theorem State.setMe_next (s : State) (t : Thread) : (s.setMe t).next = s.next := rfl
@[simp] theorem State.setMe_cue (s : State) (t : Thread) : (s.setMe t).cue = s.cue := rfl
@[simp] theorem State.setMe_killing (s : State) (t : Thread) : (s.setMe t).killing = s.killing := rfl
@[simp] theorem State.setMe_stalled (s : State) (t : Thread) : (s.setMe t).stalled = s.stalled := rfl

@[simp] theorem State.bump_cores (s : State) : (s.bump).cores = s.cores := rfl
@[simp] theorem State.bump_clusters (s : State) : (s.bump).clusters = s.clusters := rfl
@[simp] theorem State.bump_dies (s : State) : (s.bump).dies = s.dies := rfl
@[simp] theorem State.bump_mem (s : State) : (s.bump).mem = s.mem := rfl
@[simp] theorem State.bump_memTags (s : State) : (s.bump).memTags = s.memTags := rfl
@[simp] theorem State.bump_seals (s : State) : (s.bump).seals = s.seals := rfl
@[simp] theorem State.bump_lines (s : State) : (s.bump).lines = s.lines := rfl
@[simp] theorem State.bump_drups (s : State) : (s.bump).drups = s.drups := rfl
@[simp] theorem State.bump_index (s : State) : (s.bump).index = s.index := rfl
@[simp] theorem State.bump_tlb (s : State) : (s.bump).tlb = s.tlb := rfl
@[simp] theorem State.bump_grants (s : State) : (s.bump).grants = s.grants := rfl
@[simp] theorem State.bump_replicas (s : State) : (s.bump).replicas = s.replicas := rfl
@[simp] theorem State.bump_recent (s : State) : (s.bump).recent = s.recent := rfl
@[simp] theorem State.bump_caches (s : State) : (s.bump).caches = s.caches := rfl
@[simp] theorem State.bump_walks (s : State) : (s.bump).walks = s.walks := rfl
@[simp] theorem State.bump_born (s : State) : (s.bump).born = s.born := rfl
@[simp] theorem State.bump_coll (s : State) : (s.bump).coll = s.coll := rfl
@[simp] theorem State.bump_unsh (s : State) : (s.bump).unsh = s.unsh := rfl
@[simp] theorem State.bump_stores (s : State) : (s.bump).stores = s.stores := rfl
@[simp] theorem State.bump_net (s : State) : (s.bump).net = s.net := rfl
@[simp] theorem State.bump_outbox (s : State) : (s.bump).outbox = s.outbox := rfl
@[simp] theorem State.bump_routeless (s : State) : (s.bump).routeless = s.routeless := rfl
@[simp] theorem State.bump_unreach (s : State) : (s.bump).unreach = s.unreach := rfl
@[simp] theorem State.bump_pending (s : State) : (s.bump).pending = s.pending := rfl
@[simp] theorem State.bump_multis (s : State) : (s.bump).multis = s.multis := rfl
@[simp] theorem State.bump_keys (s : State) : (s.bump).keys = s.keys := rfl
@[simp] theorem State.bump_sealedRecords (s : State) : (s.bump).sealedRecords = s.sealedRecords := rfl
@[simp] theorem State.bump_sealNonce (s : State) : (s.bump).sealNonce = s.sealNonce := rfl
@[simp] theorem State.bump_toRestore (s : State) : (s.bump).toRestore = s.toRestore := rfl
@[simp] theorem State.bump_dbgctl (s : State) : (s.bump).dbgctl = s.dbgctl := rfl
@[simp] theorem State.bump_dbgReq (s : State) : (s.bump).dbgReq = s.dbgReq := rfl
@[simp] theorem State.bump_sroot (s : State) : (s.bump).sroot = s.sroot := rfl
@[simp] theorem State.bump_svocab (s : State) : (s.bump).svocab = s.svocab := rfl
@[simp] theorem State.bump_launches (s : State) : (s.bump).launches = s.launches := rfl
@[simp] theorem State.bump_credits (s : State) : (s.bump).credits = s.credits := rfl
@[simp] theorem State.bump_tslot (s : State) : (s.bump).tslot = s.tslot := rfl
@[simp] theorem State.bump_tbase (s : State) : (s.bump).tbase = s.tbase := rfl
@[simp] theorem State.bump_tlen (s : State) : (s.bump).tlen = s.tlen := rfl
@[simp] theorem State.bump_tticks (s : State) : (s.bump).tticks = s.tticks := rfl
@[simp] theorem State.bump_deferred (s : State) : (s.bump).deferred = s.deferred := rfl
@[simp] theorem State.bump_fenced (s : State) : (s.bump).fenced = s.fenced := rfl
@[simp] theorem State.bump_ports (s : State) : (s.bump).ports = s.ports := rfl
@[simp] theorem State.bump_cxls (s : State) : (s.bump).cxls = s.cxls := rfl
@[simp] theorem State.bump_banks (s : State) : (s.bump).banks = s.banks := rfl
@[simp] theorem State.bump_record (s : State) : (s.bump).record = s.record := rfl
@[simp] theorem State.bump_identity (s : State) : (s.bump).identity = s.identity := rfl
@[simp] theorem State.bump_attest (s : State) : (s.bump).attest = s.attest := rfl
@[simp] theorem State.bump_rootHash (s : State) : (s.bump).rootHash = s.rootHash := rfl
@[simp] theorem State.bump_active (s : State) : (s.bump).active = s.active := rfl
@[simp] theorem State.bump_minver (s : State) : (s.bump).minver = s.minver := rfl
@[simp] theorem State.bump_trialArmed (s : State) : (s.bump).trialArmed = s.trialArmed := rfl
@[simp] theorem State.bump_trialEnd (s : State) : (s.bump).trialEnd = s.trialEnd := rfl
@[simp] theorem State.bump_bringup (s : State) : (s.bump).bringup = s.bringup := rfl
@[simp] theorem State.bump_powered (s : State) : (s.bump).powered = s.powered := rfl
@[simp] theorem State.bump_boots (s : State) : (s.bump).boots = s.boots := rfl
@[simp] theorem State.bump_quotes (s : State) : (s.bump).quotes = s.quotes := rfl
@[simp] theorem State.bump_debugOut (s : State) : (s.bump).debugOut = s.debugOut := rfl
@[simp] theorem State.bump_hostOut (s : State) : (s.bump).hostOut = s.hostOut := rfl
@[simp] theorem State.bump_windowOut (s : State) : (s.bump).windowOut = s.windowOut := rfl
@[simp] theorem State.bump_ptp (s : State) : (s.bump).ptp = s.ptp := rfl
@[simp] theorem State.bump_now (s : State) : (s.bump).now = s.now := rfl
@[simp] theorem State.bump_turns (s : State) : (s.bump).turns = s.turns := rfl
@[simp] theorem State.bump_tick (s : State) : (s.bump).tick = s.tick + 1 := rfl
@[simp] theorem State.bump_cur (s : State) : (s.bump).cur = s.cur := rfl
@[simp] theorem State.bump_word (s : State) : (s.bump).word = s.word := rfl
@[simp] theorem State.bump_next (s : State) : (s.bump).next = s.next := rfl
@[simp] theorem State.bump_cue (s : State) : (s.bump).cue = s.cue := rfl
@[simp] theorem State.bump_killing (s : State) : (s.bump).killing = s.killing := rfl
@[simp] theorem State.bump_stalled (s : State) : (s.bump).stalled = s.stalled := rfl

/-! ### Reading back what an update has written -/

theorem State.core_setCore (s : State) (id id' : Nat) (c : Core) : (s.setCore id c).core id' = if id' = id then c else s.core id' := by
  simp [State.core, Tab.get_set]

@[simp] theorem State.core_setCore_self (s : State) (id : Nat) (c : Core) : (s.setCore id c).core id = c := by simp [State.core_setCore]

theorem State.cluster_setCluster (s : State) (k k' : Nat) (c : Cluster) :
    (s.setCluster k c).cluster k' = if k' = k then c else s.cluster k' := by
  simp [State.cluster, Tab.get_set]

@[simp] theorem State.cluster_setCluster_self (s : State) (k : Nat) (c : Cluster) : (s.setCluster k c).cluster k = c := by
  simp [State.cluster_setCluster]

theorem State.die_setDie (s : State) (d d' : Nat) (x : Die) : (s.setDie d x).die d' = if d' = d then x else s.die d' := by
  simp [State.die, Tab.get_set]

@[simp] theorem State.core_setCluster (s : State) (k id : Nat) (c : Cluster) : (s.setCluster k c).core id = s.core id := rfl

@[simp] theorem State.cluster_setCore (s : State) (id k : Nat) (c : Core) : (s.setCore id c).cluster k = s.cluster k := rfl

@[simp] theorem State.die_setCore (s : State) (id d : Nat) (c : Core) : (s.setCore id c).die d = s.die d := rfl

@[simp] theorem State.die_setCluster (s : State) (k d : Nat) (c : Cluster) : (s.setCluster k c).die d = s.die d := rfl

@[simp] theorem State.cluster_setMe (s : State) (t : Thread) (k : Nat) : (s.setMe t).cluster k = s.cluster k := rfl

@[simp] theorem State.die_setMe (s : State) (t : Thread) (d : Nat) : (s.setMe t).die d = s.die d := rfl

@[simp] theorem State.myPath_setMe (s : State) (t : Thread) : (s.setMe t).myPath = s.myPath := rfl

@[simp] theorem State.path_setMe (s : State) (t : Thread) (p : Nat) : (s.setMe t).path p = s.path p := rfl

theorem Loc.ext' {a b : Loc} (h : a.core = b.core) (h' : a.slot = b.slot) : a = b := by
  cases a
  cases b
  simp_all

/-- An agent after a change of one of its slots: that slot. -/
theorem State.core_setSlot (s : State) (l : Loc) (x : Slot) (id : Nat) :
    (s.setSlot l x).core id = if id = l.core then { s.core id with slots := (s.core id).slots.set l.slot x } else s.core id := by
  simp only [State.setSlot, State.core_setCore]
  split
  · subst_vars
    rfl
  · rfl

/-- A slot after a change of one. -/
theorem State.slot_setSlot (s : State) (l l' : Loc) (x : Slot) : (s.setSlot l x).slot l' = if l' = l then x else s.slot l' := by
  simp only [State.slot, State.core_setSlot]
  by_cases hc : l'.core = l.core
  · rw [if_pos hc]
    simp only [Tab.get_set]
    by_cases hs : l'.slot = l.slot
    · rw [if_pos hs, if_pos (Loc.ext' hc hs)]
    · rw [if_neg hs, if_neg (fun h => hs (by rw [h]))]
  · rw [if_neg hc, if_neg (fun h => hc (by rw [h]))]

/-- A slot after a change of a thread. -/
theorem State.slot_setThread (s : State) (l l' : Loc) (t : Thread) :
    (s.setThread l t).slot l' = if l' = l then { s.slot l with thread := some t } else s.slot l' := by
  simp [State.setThread, State.slot_setSlot]

theorem State.thread?_setThread (s : State) (l l' : Loc) (t : Thread) :
    (s.setThread l t).thread? l' = if l' = l then some t else s.thread? l' := by
  simp only [State.thread?, State.slot_setThread]
  split <;> rfl

theorem State.thread_setThread (s : State) (l l' : Loc) (t : Thread) :
    (s.setThread l t).thread l' = if l' = l then t else s.thread l' := by
  simp only [State.thread, State.thread?_setThread]
  split <;> rfl

@[simp] theorem State.me_setMe (s : State) (t : Thread) : (s.setMe t).me = t := by
  simp [State.me, State.setMe, State.thread_setThread]

@[simp] theorem State.thread?_setMe (s : State) (t : Thread) : (s.setMe t).thread? s.cur = some t := by
  simp [State.setMe, State.thread?_setThread]

@[simp] theorem State.setMe_setMe (s : State) (t u : Thread) : (s.setMe t).setMe u = s.setMe u := by
  simp only [State.setMe, State.setThread, State.setSlot, State.setCore, State.slot, State.core, Tab.get_set_self, Tab.set_set]

/-- The generation of a slot is not a thread's. -/
@[simp] theorem State.gen_setThread (s : State) (l l' : Loc) (t : Thread) : ((s.setThread l t).slot l').gen = (s.slot l').gen := by
  rw [State.slot_setThread]
  split
  · subst_vars
    rfl
  · rfl

/-- A handle does not depend on what the threads hold. -/
@[simp] theorem State.handleOf_setMe (s : State) (t : Thread) (l : Loc) : (s.setMe t).handleOf l = s.handleOf l := by
  simp [State.handleOf, State.setMe]

/-- A change of the thread of a slot that holds one. -/
theorem State.onThread_some {s : State} {l : Loc} {t : Thread} (h : s.thread? l = some t) (f : Thread → Thread) :
    s.onThread l f = s.setThread l (f t) := by
  simp [State.onThread, h]

theorem State.onThread_cur {s : State} {t : Thread} (h : s.thread? s.cur = some t) (f : Thread → Thread) :
    s.onThread s.cur f = s.setMe (f t) := by
  rw [State.onThread_some h]
  rfl

theorem State.me_of_thread {s : State} {t : Thread} (h : s.thread? s.cur = some t) : s.me = t := by
  simp [State.me, State.thread, h]

theorem State.onThread_setMe (s : State) (t : Thread) (f : Thread → Thread) : (s.setMe t).onThread s.cur f = s.setMe (f t) := by
  have h := State.onThread_cur (s := s.setMe t) (t := t) (State.thread?_setMe s t) f
  simpa using h

/-- An agent after a change of a thread: its slots only. -/
theorem State.core_setMe (s : State) (t : Thread) (id : Nat) :
    (s.setMe t).core id = { s.core id with slots := ((s.setMe t).core id).slots } := by
  simp only [State.setMe, State.setThread, State.core_setSlot]
  split <;> rfl

/-! ### Bytes do not depend on threads -/

@[simp] theorem State.lineFor_setMe (s : State) (t : Thread) (asid va pa : Nat) :
    (s.setMe t).lineFor asid va pa = s.lineFor asid va pa := rfl

@[simp] theorem State.byte_setMe (s : State) (t : Thread) (asid va pa : Nat) : (s.setMe t).byte asid va pa = s.byte asid va pa := rfl

@[simp] theorem State.unitTag_setMe (s : State) (t : Thread) (asid va pa : Nat) :
    (s.setMe t).unitTag asid va pa = s.unitTag asid va pa := rfl

@[simp] theorem State.byte_bump (s : State) (asid va pa : Nat) : s.bump.byte asid va pa = s.byte asid va pa := rfl

@[simp] theorem State.unitTag_bump (s : State) (asid va pa : Nat) : s.bump.unitTag asid va pa = s.unitTag asid va pa := rfl

@[simp] theorem State.core_bump (s : State) (id : Nat) : s.bump.core id = s.core id := rfl

@[simp] theorem State.slot_bump (s : State) (l : Loc) : s.bump.slot l = s.slot l := rfl

@[simp] theorem State.me_bump (s : State) : s.bump.me = s.me := rfl

@[simp] theorem State.thread?_bump (s : State) (l : Loc) : s.bump.thread? l = s.thread? l := rfl

/-! ### Registers of a thread -/

/-- A register after a write: `s0` discards it. -/
theorem Thread.s_setS (t : Thread) (n m : Nat) (v : Word) : (t.setS n v).s m = if m = n ∧ m ≠ 0 then v else t.s m := by
  unfold Thread.setS
  split
  · subst_vars
    simp only [Thread.s]
    split <;> simp_all
  · simp only [Thread.s, Tab.get_set]
    split
    · simp_all
    · simp only [ne_eq]
      split <;> simp_all

/-- Emptying a register leaves its value. -/
@[simp] theorem Thread.s_empty (t : Thread) (n m : Nat) : (t.empty n).s m = t.s m := by
  unfold Thread.empty
  split <;> rfl

/-- What a sync read leaves alone: everything but the full bits. -/
theorem Thread.empty_eq (t : Thread) (n : Nat) : t.empty n = { t with full := (t.empty n).full } := by
  unfold Thread.empty
  split <;> rfl

theorem Thread.setS_eq (t : Thread) (n : Nat) (v : Word) :
    t.setS n v = { t with regs := (t.setS n v).regs, full := (t.setS n v).full } := by
  unfold Thread.setS
  split <;> rfl

end Machine
end Sys2Proof
end

