-- ==== Sys2Proof/Laws/Issue.lean ====
section
/-!
SUPPORT. What the issue of an instruction does: the sync sources emptied, the member's effect, and the ways in which it
ends. Statements about an instruction go through these lemmas.
-/

namespace Sys2Proof.Machine

/-! ### The sync sources -/

/-- Emptying the sync sources changes the full bits only. -/
theorem consume_eq (t : Thread) (u : Uses) : consume t u = { t with full := (consume t u).full } := by
  have h : ∀ (xs : List (BitVec 5 × BitVec 1)) (t : Thread),
      (xs.foldl (fun t x => if x.2 = 1 then t.empty x.1.toNat else t) t) =
        { t with full := (xs.foldl (fun t x => if x.2 = 1 then t.empty x.1.toNat else t) t).full } := by
    intro xs
    induction xs with
    | nil => intro t; rfl
    | cons x xs ih =>
      intro t
      simp only [List.foldl_cons]
      rw [ih]
      split
      · rw [Thread.empty_eq]
      · rfl
  exact h u.srcs t

@[simp] theorem consume_s (t : Thread) (u : Uses) (n : Nat) : (consume t u).s n = t.s n := by rw [consume_eq]; rfl

@[simp] theorem consume_c (t : Thread) (u : Uses) (n : Nat) : (consume t u).c n = t.c n := by rw [consume_eq]; rfl

@[simp] theorem consume_k (t : Thread) (u : Uses) (n : Nat) : (consume t u).k n = t.k n := by rw [consume_eq]; rfl

@[simp] theorem consume_pc (t : Thread) (u : Uses) : (consume t u).pc = t.pc := by rw [consume_eq]

@[simp] theorem consume_holds (t : Thread) (u : Uses) : (consume t u).holds = t.holds := by rw [consume_eq]

@[simp] theorem consume_preds (t : Thread) (u : Uses) : (consume t u).preds = t.preds := by rw [consume_eq]

@[simp] theorem consume_launch (t : Thread) (u : Uses) : (consume t u).launch = t.launch := by rw [consume_eq]

@[simp] theorem consume_rcb (t : Thread) (u : Uses) : (consume t u).rcb = t.rcb := by rw [consume_eq]

@[simp] theorem consume_asid (t : Thread) (u : Uses) : (consume t u).asid = t.asid := by rw [consume_eq]

@[simp] theorem consume_priv (t : Thread) (u : Uses) : (consume t u).priv = t.priv := by rw [consume_eq]

@[simp] theorem consume_vallot (t : Thread) (u : Uses) : (consume t u).vallot = t.vallot := by rw [consume_eq]

@[simp] theorem consume_mmrev (t : Thread) (u : Uses) : (consume t u).mmrev = t.mmrev := by rw [consume_eq]

@[simp] theorem consume_crewId (t : Thread) (u : Uses) : (consume t u).crewId = t.crewId := by rw [consume_eq]

@[simp] theorem consume_wake (t : Thread) (u : Uses) : (consume t u).wake = t.wake := by rw [consume_eq]

@[simp] theorem consume_dataHolds (t : Thread) (u : Uses) : (consume t u).dataHolds = t.dataHolds := by simp [Thread.dataHolds]

/-- Without sources nothing is emptied. -/
theorem consume_none {t : Thread} {u : Uses} (h : u.srcs = []) : consume t u = t := by simp [consume, h]

/-- Room for a held destination, as the members ask for it. -/
theorem noRoom_of_room {t : Thread} {d : BitVec 5} (h : Room t d) : noRoom t d = false := by
  rcases h with rfl | h
  · simp [noRoom]
  · simp [noRoom, Nat.not_le.mpr h]

@[simp] theorem noRoom_consume (t : Thread) (u : Uses) (d : BitVec 5) : noRoom (consume t u) d = noRoom t d := by simp [noRoom]

/-! ### The ways in which an instruction ends -/

/-- An instruction that issues ends as its member's effect does. -/
theorem issue_ok {s s1 : State} {t : Thread} {i : Instr} {px : Px} {a : Act}
    {body : Thread → State → Except Stop (State × Act)} (h : Issues s t i px)
    (hb : body (consume t (usesOf i)) (opened s t i) = .ok (s1, a)) : issueP px i s body = .next (conclude s1 px a).bump := by
  simp only [opened] at hb
  simp [issueP, h.thread, issueOn, h.legal, h.ready, hb]

/-- An instruction that issues and fails has no other effect. -/
theorem issue_error {s : State} {t : Thread} {i : Instr} {px : Px} {e : Stop}
    {body : Thread → State → Except Stop (State × Act)} (h : Issues s t i px)
    (hb : body (consume t (usesOf i)) (opened s t i) = .error e) : issueP px i s body = .next (fail s e).bump := by
  simp only [opened] at hb
  simp [issueP, h.thread, issueOn, h.legal, h.ready, hb]

/-- Whatever an instruction does in a slot that holds a thread, the machine goes on. -/
theorem issue_goes_on {s : State} {t : Thread} {i : Instr} {px : Px} {body : Thread → State → Except Stop (State × Act)}
    (h : s.thread? s.cur = some t) : ∃ u, issueP px i s body = .next u := by
  refine ⟨(issueOn px i s t body).bump, ?_⟩
  simp only [issueP, h]

/-- A member that retires. -/
theorem issue_retires {s s1 : State} {t : Thread} {i : Instr} {px : Px} {body : Thread → State → Except Stop (State × Act)}
    (h : Issues s t i px) (hb : body (consume t (usesOf i)) (opened s t i) = .ok (s1, .next)) :
    issueP px i s body = .next (retired s1 px) := issue_ok h hb

/-- A member whose cause is raised has that effect only. -/
theorem issue_faults {s : State} {t : Thread} {i : Instr} {px : Px} {cause : Nat} {val : Word}
    {body : Thread → State → Except Stop (State × Act)} (h : Issues s t i px)
    (hb : body (consume t (usesOf i)) (opened s t i) = .error (.cause cause val)) :
    issueP px i s body = .next (faults s cause val) := issue_error h hb

/-- A register number is zero as a number or as bits. -/
theorem reg_zero {n : Nat} (d : BitVec n) : d.toNat = 0 ↔ d = 0 := by simp [BitVec.toNat_eq]

/-- A held scalar destination, as the statements write it. -/
theorem holdS_due (s : State) (d : BitVec 5) (v : Word) (n : Nat) : holdS s d.toNat v (some n) = holding s d v n := by
  simp only [holdS, holding, reg_zero]

theorem holdS_data (s : State) (d : BitVec 5) (v : Word) : holdS s d.toNat v none = awaiting s d v := by
  simp only [holdS, awaiting, reg_zero]

/-- A member whose destination awaits a value. -/
theorem returns_eq (s : State) (d : BitVec 5) (v : Word) : returns s d v = .ok (awaiting s d v, .next) := by
  rw [returns, holdS_data]

@[simp] theorem opened_me (s : State) (t : Thread) (i : Instr) : (opened s t i).me = consume t (usesOf i) := State.me_setMe s _

@[simp] theorem opened_cur (s : State) (t : Thread) (i : Instr) : (opened s t i).cur = s.cur := rfl

@[simp] theorem opened_myPath (s : State) (t : Thread) (i : Instr) : (opened s t i).myPath = s.myPath := rfl

@[simp] theorem opened_cluster (s : State) (t : Thread) (i : Instr) (k : Nat) : (opened s t i).cluster k = s.cluster k := rfl

/-- The cycle count does not depend on the threads. -/
@[simp] theorem opened_cycle (s : State) (t : Thread) (i : Instr) : (opened s t i).cycle = s.cycle := by
  simp only [State.cycle, opened_cur]
  rw [opened, State.core_setMe]

/-! ### What a retirement leaves alone -/

@[simp] theorem cycle_setMe (s : State) (t : Thread) : (s.setMe t).cycle = s.cycle := by
  simp only [State.cycle, State.setMe_cur]
  rw [State.core_setMe]

/-- A thread that has retired, with the accounts of its slot (R22). -/
def Thread.retire (t : Thread) (len now cycle : Nat) : Thread :=
  { t.finish len now with nextIssue := max t.nextIssue (cycle + 4), readyFrom := some cycle }

/-- An issue in a slot that holds a thread. -/
theorem issued_setMe (s : State) (t : Thread) :
    issued (s.setMe t) = s.setMe { t with nextIssue := max t.nextIssue (s.cycle + 4), readyFrom := some s.cycle } := by
  simp only [issued, State.setMe_cur, State.thread?_setMe, cycle_setMe]
  exact State.setMe_setMe s t _

theorem retired_setMe (s : State) (t : Thread) (px : Px) :
    retired (s.setMe t) px = (s.setMe (t.retire px.len s.now s.cycle)).bump := by
  simp only [retired, conclude]
  rw [State.setMe_cur, State.onThread_setMe, issued_setMe]
  rfl

theorem jumped_setMe (s : State) (t : Thread) (pc : Word) :
    jumped (s.setMe t) pc = (s.setMe ({ t with pc }.retire 0 s.now s.cycle)).bump := by
  simp only [jumped, conclude]
  rw [State.setMe_cur, State.onThread_setMe, issued_setMe]
  rfl

theorem stays_setMe (s : State) (t : Thread) :
    stays (s.setMe t) =
      (s.setMe { t with nextIssue := max t.nextIssue (s.cycle + 4), readyFrom := some s.cycle }).bump := by
  simp only [stays, conclude, issued_setMe]

/-- A change of the issuing thread, and the number of the next free value, is all that `OnlyMe` allows. -/
theorem onlyMe_setMe (s : State) (t : Thread) : OnlyMe s (s.setMe t).bump where
  rest := rfl
  agents id := by
    rw [State.core_bump]
    exact State.core_setMe s t id
  slots l h := by simp [State.setMe, State.slot_setThread, h]
  gen := by simp [State.setMe]
  bytes _ _ _ := rfl
  tags _ _ _ := rfl

/-- The full bit of a register after one is emptied. -/
theorem Thread.isFull_empty (t : Thread) (n r : Nat) (hr : r < 32) :
    (t.empty n).isFull r = (t.isFull r && (r == 0 || !(n == r))) := by
  unfold Thread.empty
  by_cases h0 : n = 0
  · cases r <;> simp [h0, Thread.isFull]
  · simp only [h0, if_false, Thread.isFull, BitVec.getLsbD_and, BitVec.getLsbD_not, BitVec.getLsbD_shiftLeft, hr, decide_true,
      Bool.true_and, BitVec.getLsbD_one]
    by_cases h : n = r
    · subst h
      simp [h0]
    · have h2 : r < n ∨ r - n ≠ 0 := by omega
      rcases h2 with h2 | h2 <;> simp [h, h2]

/-- Full bits after the sync sources are emptied. -/
theorem consume_isFull (t : Thread) (u : Uses) (r : Nat) (hr : r < 32) :
    (consume t u).isFull r = (t.isFull r && (r == 0 || !u.srcs.any fun x => x.1.toNat == r && x.2 == 1)) := by
  unfold consume
  induction u.srcs generalizing t with
  | nil => simp
  | cons x xs ih =>
    simp only [List.foldl_cons, List.any_cons]
    rw [ih]
    by_cases h1 : x.2 = 1
    · rw [if_pos h1, Thread.isFull_empty _ _ _ hr, h1]
      cases t.isFull r <;> cases hr0 : (r == 0) <;> cases hx : (x.1.toNat == r) <;> simp
    · rw [if_neg h1]
      have : (x.2 == 1) = false := by simpa using h1
      rw [this, Bool.and_false, Bool.false_or]

/-- The full bit of a register after a write. -/
theorem Thread.isFull_setS (t : Thread) (n r : Nat) (v : Word) (hn : n < 32) (hr : r < 32) :
    (t.setS n v).isFull r = ((r == n && r != 0) || t.isFull r) := by
  unfold Thread.setS
  by_cases h0 : n = 0
  · simp only [h0, if_true]
    by_cases h : r = 0 <;> simp [h, Thread.isFull]
  · simp only [h0, if_false, Thread.isFull, BitVec.getLsbD_or, BitVec.getLsbD_shiftLeft, hr, decide_true, Bool.true_and,
      BitVec.getLsbD_one]
    by_cases h : r = n
    · simp [h, h0, hn]
    · have : ¬(¬r < n ∧ r - n = 0) := by omega
      by_cases hlt : r < n
      · simp [h, hlt]
      · have : r - n ≠ 0 := by omega
        simp [h, this]

/-- A member that writes one scalar register and retires. -/
theorem setsScalar_wr {s : State} {t : Thread} {i : Instr} (d : BitVec 5) (v : Word) :
    SetsScalar s (retired ((opened s t i).wr d.toNat v)) t i d v := by
  have h : (opened s t i).wr d.toNat v = s.setMe ((consume t (usesOf i)).setS d.toNat v) := by
    rw [State.wr, opened_me, opened]
    exact State.setMe_setMe s _ _
  rw [h, retired_setMe]
  refine ⟨onlyMe_setMe s _, ?_, ?_, ?_, ?_⟩
  · rw [State.me_bump, State.me_setMe, Thread.setS_eq, consume_eq]
    rfl
  · intro r
    rw [State.me_bump, State.me_setMe]
    show ((consume t (usesOf i)).setS d.toNat v).s r = _
    rw [Thread.s_setS, consume_s]
  · intro r hr
    rw [State.me_bump, State.me_setMe]
    show ((consume t (usesOf i)).setS d.toNat v).isFull r = _
    rw [Thread.isFull_setS _ _ _ _ d.isLt hr, consume_isFull _ _ _ hr]
  · rw [State.me_bump, State.me_setMe]
    show max ((consume t (usesOf i)).setS d.toNat v).nextIssue _ = _
    rw [Thread.setS_eq, consume_eq]

end Sys2Proof.Machine
end

