-- ==== Sys2Proof/Laws/Members.lean ====
section
/-!
SUPPORT. What the shared forms of the member families do, once each: statements about a family go through these lemmas and
do not unfold its form.
-/

namespace Sys2Proof.Machine

/-! ### The state that a member starts from -/

/-- Emptying sync sources changes nothing of an agent but its slots. -/
theorem core_opened (s : State) (t : Thread) (i : Instr) (id : Nat) :
    (opened s t i).core id = { s.core id with slots := ((opened s t i).core id).slots } := State.core_setMe s _ id

@[simp] theorem startq_opened (s : State) (t : Thread) (i : Instr) (id : Nat) :
    ((opened s t i).core id).startq = (s.core id).startq := by rw [core_opened]

@[simp] theorem vgrowq_opened (s : State) (t : Thread) (i : Instr) (id : Nat) :
    ((opened s t i).core id).vgrowq = (s.core id).vgrowq := by rw [core_opened]

@[simp] theorem bar_opened (s : State) (t : Thread) (i : Instr) (id n : Nat) :
    ((opened s t i).core id).bar n = (s.core id).bar n := by rw [core_opened]; rfl

/-- Emptying sync sources leaves every handle as it was. -/
@[simp] theorem handleOf_opened (s : State) (t : Thread) (i : Instr) (l : Loc) :
    (opened s t i).handleOf l = s.handleOf l := by
  unfold opened State.handleOf State.setMe
  simp only [State.gen_setThread]

/-! ### Predicates -/

/-- A predicate after a write of one (R121). -/
theorem readP_writeP (c : Core) (slot : Nat) (t : Thread) (m n : Nat) (b : Bool) (hn : n < 16) :
    readP c slot (writeP c slot t m b) n =
      if n = m ∧ n ≠ 0 ∧ ¬(8 ≤ n ∧ (c.boundStream slot (n - 8)).isSome) then b else readP c slot t n := by
  unfold writeP readP
  by_cases h0 : n = 0
  · simp [h0]
  by_cases hm : m = 0
  · simp [hm, h0]
  by_cases hb : 8 ≤ m ∧ (c.boundStream slot (m - 8)).isSome = true
  · have : (decide (8 ≤ m) && (c.boundStream slot (m - 8)).isSome) = true := by simpa using hb
    simp only [h0, hm, this, if_true, if_false]
    by_cases hnm : n = m
    · subst hnm; simp [hb]
    · simp [hnm]
  · have : ¬((decide (8 ≤ m) && (c.boundStream slot (m - 8)).isSome) = true) := by simpa using hb
    simp only [h0, hm, this, if_false]
    by_cases hnm : n = m
    · subst hnm
      have hbit : (if b then t.preds ||| (1#16 <<< n) else t.preds &&& ~~~(1#16 <<< n)).getLsbD n = b := by
        cases b <;> simp [hn]
      by_cases h8 : 8 ≤ n
      · have : c.boundStream slot (n - 8) = none := by simpa [h8] using hb
        simp [h0, h8, this, hbit]
      · simp [h0, h8, hbit]
    · have hbit : (if b then t.preds ||| (1#16 <<< m) else t.preds &&& ~~~(1#16 <<< m)).getLsbD n = t.preds.getLsbD n := by
        have : (n < m ∨ n - m ≠ 0) := by omega
        cases b <;> simp [hn] <;> rcases this with h | h <;> simp [h]
      simp [hnm, hbit]

/-- A write of a predicate changes the predicates only. -/
theorem writeP_eq (c : Core) (slot : Nat) (t : Thread) (m : Nat) (b : Bool) :
    writeP c slot t m b = { t with preds := (writeP c slot t m b).preds } := by
  unfold writeP; split; rfl; split <;> rfl

/-- A member that changes the predicates of its thread and retires. -/
theorem setsPreds_setMe {s : State} {t u : Thread} {i : Instr} {new : Nat → Option Bool}
    (he : u = { consume t (usesOf i) with preds := u.preds })
    (ht : ∀ n b, n < 16 → new n = some b → writable s n → readP (s.core s.cur.core) s.cur.slot u n = b)
    (hk : ∀ n, n < 16 → new n = none ∨ ¬writable s n → readP (s.core s.cur.core) s.cur.slot u n = s.pred n) :
    SetsPreds s (retired (s.setMe u)) t i new := by
  rw [retired_setMe]
  have hp : ∀ n, State.pred (s.setMe (u.retire (Px.len {}) s.now s.cycle)).bump n = readP (s.core s.cur.core) s.cur.slot u n := by
    intro n
    unfold State.pred
    rw [State.me_bump, State.me_setMe]
    unfold readP
    rw [State.core_bump]
    show (if n = 0 then _ else if 8 ≤ n then (match ((s.setMe _).core s.cur.core).boundStream s.cur.slot (n-8) with | some st => _ | none => _) else _) = _
    rw [State.core_setMe]
    rfl
  refine ⟨onlyMe_setMe s _, ?_, ?_, ?_, ?_, ?_, ?_⟩
  · rw [State.me_bump, State.me_setMe, he, consume_eq]; rfl
  · intro r; rw [State.me_bump, State.me_setMe, he]; exact consume_s t _ r
  · intro r hr; rw [State.me_bump, State.me_setMe, he]; exact consume_isFull t _ r hr
  · rw [State.me_bump, State.me_setMe, he, consume_eq]; rfl
  · intro n b h1 h2 h3; rw [hp]; exact ht n b h1 h2 h3
  · intro n h1 h2; rw [hp]; exact hk n h1 h2

/-- Emptying sync sources leaves every predicate as it was. -/
theorem pred_opened {s : State} {t : Thread} {i : Instr} (h : s.thread? s.cur = some t) (n : Nat) :
    (opened s t i).pred n = s.pred n := by
  have hm : s.me.preds = t.preds := by simp [State.me, State.thread, h]
  unfold State.pred
  rw [opened_me]
  unfold readP
  show (if n = 0 then _ else if 8 ≤ n then (match ((opened s t i).core s.cur.core).boundStream s.cur.slot (n-8) with | some st => _ | none => _) else _) = _
  rw [core_opened]
  rw [consume_preds, hm]
  rfl

/-- A member that writes one predicate and retires. -/
theorem setsPreds_one {s : State} {t : Thread} {i : Instr} (h : s.thread? s.cur = some t) (p : BitVec 4) (b : Bool) :
    SetsPreds s (retired ((opened s t i).setPred p.toNat b)) t i (only p b) := by
  have e : (opened s t i).setPred p.toNat b = s.setMe (writeP (s.core s.cur.core) s.cur.slot (consume t (usesOf i)) p.toNat b) := by
    unfold State.setPred
    rw [opened_me, opened_cur, core_opened, opened]
    exact State.setMe_setMe s _ _
  have hc : ∀ n, readP (s.core s.cur.core) s.cur.slot (consume t (usesOf i)) n = s.pred n := by
    intro n; rw [State.pred]; unfold readP; rw [consume_preds]; simp [State.me, State.thread, h]
  rw [e]
  refine setsPreds_setMe (writeP_eq _ _ _ _ _) ?_ ?_
  · intro n b' hn hb hw
    rw [readP_writeP _ _ _ _ _ _ hn]
    simp only [only] at hb
    split at hb
    · cases hb
      rw [if_pos ⟨‹_›, hw⟩]
    · cases hb
  · intro n hn hk
    rw [readP_writeP _ _ _ _ _ _ hn, hc, if_neg]
    rintro ⟨h1, h2⟩
    rcases hk with hk | hk
    · simp [only, h1] at hk
    · exact hk h2

/-! ### Rings and barriers -/

/-- A ring member of the cluster's crew ends as its effect on the ring does, once the headers that may come before it are
published. -/
theorem ringMember_ok {s s1 : State} {t : Thread} {i : Instr} {q : BitVec 5} {a : Act}
    {body : Thread → State → Nat → Ring → Except Stop (State × Act)} (h : Issues s t i)
    (hv : isVisitor (opened s t i) s.cur (consume t (usesOf i)) = false)
    (hb : body (consume t (usesOf i)) (publishHeaders (opened s t i)) (clusterOf s.cur.core)
      (Machine.State.ring (publishHeaders (opened s t i)) (clusterOf s.cur.core) q.toNat) = .ok (s1, a)) :
    ringMember i q s body = .next (conclude s1 {} a).bump := by
  refine issue_ok h ?_
  change (if isVisitor (opened s t i) s.cur (consume t (usesOf i)) = true then _ else _) = _
  rw [if_neg (by simp [hv])]
  exact hb

/-- A member that acts on what belongs to the crew ends as its effect does, in a thread that is no visitor. -/
theorem crewMember_ok {s s1 : State} {t : Thread} {i : Instr} {a : Act} {body : Thread → State → Except Stop (State × Act)}
    (h : Issues s t i) (hv : isVisitor (opened s t i) s.cur (consume t (usesOf i)) = false)
    (hb : body (consume t (usesOf i)) (opened s t i) = .ok (s1, a)) :
    crewMember i s body = .next (conclude s1 {} a).bump := by
  refine issue_ok h ?_
  change (if isVisitor (opened s t i) s.cur (consume t (usesOf i)) = true then _ else _) = _
  rw [if_neg (by simp [hv])]
  exact hb

/-- A visitor's member that acts on what belongs to the crew raises cause 0x06 (R17). -/
theorem crewMember_visitor {s : State} {t : Thread} {i : Instr} {body : Thread → State → Except Stop (State × Act)}
    (h : Issues s t i) (hv : isVisitor (opened s t i) s.cur (consume t (usesOf i)) = true) :
    crewMember i s body = .next (faults s 0x06 ((encodeWord i).setWidth 64)) := by
  refine issue_faults h ?_
  change (if isVisitor (opened s t i) s.cur (consume t (usesOf i)) = true then _ else _) = _
  rw [if_pos hv]

/-! ### Vectors and the matrix unit -/

/-- A vector member whose registers can be read and written retires with its flags noted. -/
theorem vectorMember_ok {s s1 u : State} {t : Thread} {i : Instr} {px : Px} {d : BitVec 5} {reads : List Nat} {r : VRes}
    {vs : Tab (BitVec 2048)} {f : Thread → State → Tab (BitVec 2048) → Except Stop VRes} (h : Issues s t i px)
    (hl : isLoadBound (opened s t i) d.toNat = false)
    (hr : readVectors (opened s t i) (reads ++ mergeReads px d) = .ok (s1, vs))
    (hf : f (consume t (usesOf i)) s1 vs = .ok r)
    (hw : writeVector (s1.setMe (s1.me.note r.flags r.sr)) d.toNat r.val = .ok u) :
    vectorMember px i d reads s f = .next (retired u px) := by
  refine issue_retires h ?_
  simp only [hl, hr, hf, hw]
  rfl

/-- With room in the queue an instruction of the matrix unit joins it. -/
theorem enqueue_ok {s : State} {reads : List Nat} {writes : List MatWrite} {flags : Nat} (h : MatRoom s) :
    enqueue s reads writes flags = .ok (queued s reads writes flags, .next) := by
  unfold MatRoom at h
  simp [enqueue, queued, Nat.not_le.mpr h]

/-! ### Sequences -/

/-- A sequence member whose block passes the checks ends as its effect does. -/
theorem seqMember_ok {s s1 : State} {t : Thread} {i : Instr} {c : BitVec 4} {r : Refuses} {o : Opened} {a : Act}
    {body : Thread → State → Opened → Except Stop (State × Act)} {child : Option (BitVec 4)} (h : Issues s t i)
    (ho : openBlock (settled s t i) (consume t (usesOf i)) i c r child = .ok o)
    (hb : body (consume t (usesOf i)) (reachBlock (settled s t i) o.places) o = .ok (s1, a)) :
    seqMember i c r s body child = .next (conclude s1 {} a).bump := by
  refine issue_ok h ?_
  simp only [settled] at ho hb
  simp only [opened_myPath, ho, hb]

/-- A sequence member with a scalar destination holds it for its word. -/
theorem seqScalar_ok {s s1 : State} {t : Thread} {i : Instr} {d : BitVec 5} {c : BitVec 4} {r : Refuses} {v : Word} {o : Opened}
    {body : Thread → State → Opened → Except Stop (State × Word)} {child : Option (BitVec 4)} (h : Issues s t i) (hd : Room t d)
    (ho : openBlock (settled s t i) (consume t (usesOf i)) i c r child = .ok o)
    (hb : body (consume t (usesOf i)) (reachBlock (settled s t i) o.places) o = .ok (s1, v)) :
    seqScalar i d c r s body child = .next (retired (awaiting s1 d v)) := by
  refine seqMember_ok (a := .next) h ho ?_
  rw [if_neg (by simp [noRoom_of_room hd])]
  simp only [hb, returns_eq]

/-- A text member whose vocabulary is valid holds its destination for its word. -/
theorem textMember_ok {s s1 : State} {t : Thread} {i : Instr} {d : BitVec 5} {c : BitVec 4} {v : Word}
    {ps : List (Nat × Nat × Place)} {body : Thread → State → Vocab → Except Stop (State × Word)} (h : Issues s t i)
    (hd : Room t d) (hp : blockPlaces (settled s t i) (consume t (usesOf i)) (t.c c.toNat) = .ok ps)
    (hv : (vocabOf (settled s t i) (placesNat (settled s t i) ps)).valid = true)
    (hb : body (consume t (usesOf i)) (reachBlock (settled s t i) ps) (vocabOf (settled s t i) (placesNat (settled s t i) ps)) =
      .ok (s1, v)) :
    textMember i d c s body = .next (retired (awaiting s1 d v)) := by
  refine issue_retires h ?_
  simp only [settled] at hp hv hb
  rw [if_neg (by simp [noRoom_of_room hd])]
  simp only [opened_myPath, consume_c, hp, hv, hb, returns_eq]
  rfl

/-! ### Forests -/

/-- A synchronous member of the Lichen unit, on a forest that passes the checks, holds its destination for its word. -/
theorem eqMember_ok {s s1 : State} {t : Thread} {i : Instr} {d : BitVec 5} {fc : BitVec 4} {log : Forest → Bool} {owns : Bool}
    {f : Forest} {v : Word} {body : Thread → State → Forest → Except Stop (State × Except (Nat × Nat) Word)}
    (h : Issues s t i) (hd : Room t d) (ho : openForest (settled s t i) (consume t (usesOf i)) i fc log = .ok f)
    (hn : owns = true → notOwner (settled s t i) f = false)
    (hb : body (consume t (usesOf i)) (reachForest (settled s t i) (consume t (usesOf i)) f) f = .ok (s1, .ok v)) :
    eqMember i d fc log owns s body = .next (retired (awaiting s1 d v)) := by
  refine issue_retires h ?_
  change openForest (drain (opened s t i) (opened s t i).myPath) _ _ _ _ = _ at ho
  change _ → notOwner (drain (opened s t i) (opened s t i).myPath) f = false at hn
  change body _ (reachForest (drain (opened s t i) (opened s t i).myPath) _ f) f = _ at hb
  rw [if_neg (by simp [noRoom_of_room hd])]
  simp only [ho]
  rw [if_neg (by simpa using hn)]
  simp only [hb, returns_eq]

/-- An asynchronous member of the Lichen unit whose command is in range and whose checks pass joins the unit. -/
theorem lichenMember_ok {s : State} {t : Thread} {i : Instr} {d : BitVec 5} {fc : BitVec 4} {bad : Word → Bool}
    {q : Thread → LichenCmd} {f : Forest} {c : LichenCmd} (h : Issues s t i) (hb : bad (t.s d.toNat) = false)
    (ho : openCommand (settled s t i) (consume t (usesOf i)) i fc (q (consume t (usesOf i))) = .ok (f, c)) :
    lichenMember i d fc bad s q = .next (retired
      (lichenIssue (reachCommand (settled s t i) (consume t (usesOf i)) f c) (consume t (usesOf i)) d c)) := by
  refine issue_retires h ?_
  change openCommand (drain (opened s t i) (opened s t i).myPath) _ _ _ _ = _ at ho
  rw [if_neg (by simp [hb])]
  simp only [ho]
  rfl

end Sys2Proof.Machine
end

