-- ==== Sys2Proof/Laws/Memory.lean ====
section
/-!
SUPPORT. Memory: reading a byte after a write, and that every operation that writes memory keeps its canonical form.
-/

namespace Sys2Proof.Machine

/-! ### A byte read after a write -/

/-- A byte written is the byte read; every other byte reads as before. -/
theorem memGet_memPut (m : List Host.Cell) (a b : Nat) (v : Byte) :
    memGet (memPut m a v) b = if b = a then v else memGet m b := by
  unfold memPut
  split
  · next h =>
    induction m with
    | nil => simp only [Tab.del, memGet]; split <;> simp_all
    | cons e t ih =>
      obtain ⟨j, w⟩ := e
      simp only [Tab.del, memGet]
      split
      · rw [ih]; by_cases hb : b = a
        · simp [hb]
        · simp only [hb, if_false]; rw [if_neg (by omega)]
      · simp only [memGet, ih]; split <;> split <;> first | rfl | omega
  · induction m with
    | nil => simp [Tab.set, memGet, eq_comm]
    | cons e t ih =>
      obtain ⟨j, w⟩ := e
      simp only [Tab.set]
      split
      · simp [memGet, eq_comm]
      · split
        · subst_vars; simp only [memGet]; split <;> split <;> first | rfl | omega
        · simp only [memGet, ih]; split <;> split <;> first | rfl | omega

/-- A byte of memory that nothing has written reads as the initial one. -/
@[simp] theorem memGet_nil (a : Nat) : memGet [] a = memInit a := rfl

/-- Bytes put one by one at consecutive addresses are read there, and no other byte changes. -/
theorem memGet_fold (f : Nat → Byte) (n : Nat) (m : List Host.Cell) (a b : Nat) :
    memGet ((List.range n).foldl (fun m i => memPut m (a + i) (f i)) m) b =
      if a ≤ b ∧ b < a + n then f (b - a) else memGet m b := by
  induction n with
  | zero => simp only [List.range_zero, List.foldl_nil]; rw [if_neg (by omega)]
  | succ n ih =>
    rw [List.range_succ, List.foldl_append]
    simp only [List.foldl_cons, List.foldl_nil, memGet_memPut, ih]
    split
    · subst_vars; rw [if_pos (by omega)]; congr 1; omega
    · split <;> split <;> first | rfl | omega

/-! ### The canonical form -/

/-- The canonical form of memory, as a proposition. -/
theorem Memory.wf_iff {m : List Host.Cell} :
    Memory.wf m = true ↔ Tab.risingFrom 0 m = true ∧ ∀ e ∈ m, e.2 ≠ memInit e.1 := by
  simp [Memory.wf]

/-- Reset memory, which lists nothing, has the canonical form. -/
theorem Memory.wf_nil : Memory.wf [] = true := rfl

/-- A byte put keeps the canonical form. -/
theorem Memory.wf_put {m : List Host.Cell} (a : Nat) (v : Byte) (h : Memory.wf m = true) : Memory.wf (memPut m a v) = true := by
  rw [Memory.wf_iff] at h ⊢
  unfold memPut
  split
  · exact ⟨Tab.rising_del a h.1, fun e he => h.2 e (Tab.mem_del he)⟩
  · next hv =>
    refine ⟨Tab.rising_set h.1 (Nat.zero_le a), fun e he => ?_⟩
    obtain rfl | he := Tab.mem_set he
    · exact hv
    · exact h.2 e he

/-- Bytes put from a list of anything keep the canonical form. -/
theorem Memory.wf_foldl {α : Type} (f : α → Nat) (g : α → Byte) (l : List α) {m : List Host.Cell} (h : Memory.wf m = true) :
    Memory.wf (l.foldl (fun m x => memPut m (f x) (g x)) m) = true := by
  induction l generalizing m with
  | nil => exact h
  | cons x l ih => exact ih (Memory.wf_put _ _ h)

/-- Cells dropped keep the canonical form. -/
theorem Memory.wf_filter {m : List Host.Cell} (p : Host.Cell → Bool) (h : Memory.wf m = true) : Memory.wf (m.filter p) = true := by
  rw [Memory.wf_iff] at h ⊢
  exact ⟨Tab.rising_filter p h.1, fun e he => h.2 e (List.mem_of_mem_filter he)⟩

/-! ### The operations on a state's memory -/

/-- A write of some bytes straight to memory. -/
theorem writeMem_wf {s : State} (pa dom off size : Nat) (v : BitVec 1024) (tag clears : Bool) (h : Memory.wf s.mem = true) :
    Memory.wf (writeMem s pa dom off size v tag clears).mem = true := by
  unfold writeMem
  split
  · exact h
  · exact Memory.wf_foldl _ _ _ h

/-- A line written back. -/
theorem writeBack_wf {s : State} (l : Line) (h : Memory.wf s.mem = true) : Memory.wf (writeBack s l).mem = true := by
  unfold writeBack
  split
  · exact h
  · exact Memory.wf_foldl _ _ _ h

/-- What the ROM writes. -/
theorem romPut_wf {s : State} (dom a : Nat) (bs : List Byte) (h : Memory.wf s.mem = true) :
    Memory.wf (romPut s dom a bs).mem = true :=
  Memory.wf_foldl (fun x : Byte × Nat => a + x.2) (fun x => x.1) bs.zipIdx h

/-- A range that the ROM clears. -/
theorem romClear_wf {s : State} (lo hi : Nat) (h : Memory.wf s.mem = true) : Memory.wf (romClear s lo hi).mem = true :=
  Memory.wf_filter _ h

/-- A drupelet reference released leaves memory alone. -/
@[simp] theorem dropRef_mem (s : State) (id : Nat) : (dropRef s id).mem = s.mem := by unfold dropRef; dsimp only; split <;> rfl

/-- What a tag gives up leaves memory alone. -/
@[simp] theorem freeTag_mem (s : State) (key : Nat) (l : Line) : (freeTag s key l).mem = s.mem := by
  unfold freeTag
  split <;> simp

@[simp] theorem touch_mem (s : State) (key : Nat) : (touch s key).mem = s.mem := rfl

@[simp] theorem uncache_mem (s : State) (key : Nat) : (uncache s key).mem = s.mem := rfl

/-- A held line's new state leaves memory alone. -/
@[simp] theorem putLine_mem (s : State) (key : Nat) (l : Line) : (putLine s key l).mem = s.mem := by
  unfold putLine
  split <;> rfl

/-- A line that leaves its slice without write-back leaves memory alone. -/
@[simp] theorem dropLine_mem (s : State) (key : Nat) : (dropLine s key).mem = s.mem := by
  unfold dropLine
  split
  · rfl
  · simp

/-- A tag evicted. -/
theorem evict_wf {s : State} (key : Nat) (h : Memory.wf s.mem = true) : Memory.wf (evict s key).mem = true := by
  unfold evict
  split
  · exact h
  · dsimp only
    rw [dropLine_mem]
    split
    · exact writeBack_wf _ h
    · exact h

/-- Some tags evicted in turn. -/
theorem evictAll_wf (ks : List Nat) {s : State} (h : Memory.wf s.mem = true) : Memory.wf (ks.foldl evict s).mem = true := by
  induction ks generalizing s with
  | nil => exact h
  | cons k ks ih => exact ih (evict_wf k h)

/-- A tag found for a line. -/
theorem needTag_wf {s : State} (key : Nat) (h : Memory.wf s.mem = true) : Memory.wf (needTag s key).mem = true := by
  unfold needTag
  split
  · exact h
  · dsimp only
    split
    · exact h
    · split
      · exact evict_wf _ h
      · exact h

/-- A drupelet found for a line. -/
theorem needDrup_wf {s : State} (key : Nat) (h : Memory.wf s.mem = true) : Memory.wf (needDrup s key).mem = true := by
  unfold needDrup
  dsimp only
  split
  · exact h
  · split
    · exact h
    · split
      · exact evict_wf _ h
      · split
        · exact evictAll_wf _ h
        · exact h

/-- A line unshared. -/
theorem unshare_wf {s : State} (key : Nat) (h : Memory.wf s.mem = true) : Memory.wf (unshare s key).mem = true := by
  unfold unshare
  split
  · exact h
  · next l0 _ =>
    dsimp only
    generalize hs : (if l0.drup == .own || (l0.drup != .zero && decide (refsOf s l0 ≤ 1)) then s else needDrup s key) = u
    have hu : Memory.wf u.mem = true := by
      rw [← hs]
      split
      · exact h
      · exact needDrup_wf _ h
    split
    · exact hu
    · split
      · exact hu
      · exact hu
      · split
        · exact hu
        · simpa using hu

/-- A write of a held line. -/
theorem writeHeld_wf {s : State} (key off size : Nat) (v : BitVec 1024) (tag clears : Bool) (h : Memory.wf s.mem = true) :
    Memory.wf (writeHeld s key off size v tag clears).mem = true := by
  have hu := unshare_wf key h
  unfold writeHeld
  dsimp only
  split
  · simpa using hu
  · exact hu

/-- A write at a home slice. -/
theorem writeAt_wf {s : State} (asid va pa dom size : Nat) (v : BitVec 1024) (tag clears : Bool) (h : Memory.wf s.mem = true) :
    Memory.wf (writeAt s asid va pa dom size v tag clears).mem = true := by
  unfold writeAt
  dsimp only
  split
  · exact writeHeld_wf _ _ _ _ _ _ h
  · exact writeMem_wf _ _ _ _ _ _ _ (evict_wf _ h)

/-- A line held for an access. -/
theorem holdLine_wf {s : State} (asid va pa dom : Nat) (h : Memory.wf s.mem = true) : Memory.wf (holdLine s asid va pa dom).mem = true := by
  have h1 := needDrup_wf (lineKey asid va) (needTag_wf (lineKey asid va) (evict_wf (lineKey asid va) h))
  unfold holdLine
  dsimp only
  split
  · exact h
  · exact h1

/-- The line of a page-table entry held. -/
theorem holdEntry_wf {s : State} (a : Nat) (h : Memory.wf s.mem = true) : Memory.wf (holdEntry s a).mem = true := by
  unfold holdEntry
  split
  · exact h
  · exact holdLine_wf _ _ _ _ h

/-- Bits of a page-table entry set. -/
theorem orBits_wf {s : State} (a : Nat) (mask : Word) (h : Memory.wf s.mem = true) : Memory.wf (orBits s a mask).mem = true :=
  writeHeld_wf _ _ _ _ _ _ (holdEntry_wf a h)

/-- The entries of a walk taken one by one. -/
theorem entries_wf {f : State → Nat → State} (as : List Nat)
    (hf : ∀ {u : State} a, Memory.wf u.mem = true → Memory.wf (f u a).mem = true) {s : State} (h : Memory.wf s.mem = true) :
    Memory.wf (as.foldl f s).mem = true := by
  induction as generalizing s with
  | nil => exact h
  | cons a as ih => exact ih (hf a h)

/-- A grant recorded, or the D bits that stand for it set. -/
theorem recordIn_wf (n : Nat) {s : State} (asid va : Nat) (h : Memory.wf s.mem = true) : Memory.wf (recordIn n s asid va).mem = true := by
  induction n generalizing s asid va with
  | zero => exact h
  | succ n ih =>
    unfold recordIn
    extract_lets g
    split
    · exact h
    · split
      · exact h
      · have h1 := entries_wf (walkEntries s asid va) (fun a hu => holdEntry_wf a hu) h
        split
        · next a _ =>
          split
          · exact h1
          · exact ih 0 a (orBits_wf a 0x20 h1)
        · exact h1

/-- A grant of write ownership recorded. -/
theorem recordGrant_wf {s : State} (asid va : Nat) (h : Memory.wf s.mem = true) : Memory.wf (recordGrant s asid va).mem = true :=
  recordIn_wf 64 asid va h

/-- An atomic OR on a page-table entry, with its record. -/
theorem orEntry_wf {s : State} (a : Nat) (mask : Word) (h : Memory.wf s.mem = true) : Memory.wf (orEntry s a mask).mem = true :=
  recordGrant_wf _ _ (orBits_wf _ _ h)

/-- A write performed at a home slice. -/
theorem writeLine_wf {s : State} (asid va pa dom size : Nat) (v : BitVec 1024) (tag clears : Bool) (h : Memory.wf s.mem = true) :
    Memory.wf (writeLine s asid va pa dom size v tag clears).mem = true := recordGrant_wf _ _ (writeAt_wf _ _ _ _ _ _ _ _ h)

/-- A write of a destination frame. -/
theorem writeFrame_wf {s : State} (pa dom size : Nat) (v : BitVec 1024) (clears : Bool) (h : Memory.wf s.mem = true) :
    Memory.wf (writeFrame s pa dom size v clears).mem = true := by
  unfold writeFrame
  dsimp only
  split
  · exact writeMem_wf _ _ _ _ _ _ _ h
  · next hne =>
    clear hne
    generalize (s.lines.filter _) = l
    induction l generalizing s with
    | nil => exact h
    | cons e l ih => exact ih (writeHeld_wf _ _ _ _ _ _ h)

/-- A write of the dispatch block, of a queue ring or of a token. -/
theorem physPut_wf {s : State} (a size v : Nat) (h : Memory.wf s.mem = true) : Memory.wf (s.physPut a size v).mem = true :=
  writeLine_wf _ _ _ _ _ _ _ _ (holdLine_wf _ _ _ _ h)

/-- A write of a table in the root region's address space. -/
theorem rootPut_wf {s : State} (va size v : Nat) (h : Memory.wf s.mem = true) : Memory.wf (s.rootPut va size v).mem = true := by
  unfold State.rootPut
  split
  · exact writeLine_wf _ _ _ _ _ _ _ _ (holdLine_wf _ _ _ _ h)
  · exact h

/-- A write of a scratchpad leaves memory alone. -/
@[simp] theorem writeSram_mem (s : State) (k off size : Nat) (v : BitVec 1024) (tag : Bool) :
    (writeSram s k off size v tag).mem = s.mem := rfl

/-! ### Fills (R46, R354, R365, R390) -/

@[simp] theorem setLine_mem (s : State) (key : Nat) (l : Line) : (setLine s key l).mem = s.mem := rfl

@[simp] theorem indexPut_mem (s : State) (e : IndexEntry) : (indexPut s e).mem = s.mem := rfl

/-- A line that comes to share a drupelet leaves memory alone. -/
@[simp] theorem shareWith_mem (s : State) (key : Nat) (h : Word) (canon : Nat ⊕ Nat) : (shareWith s key h canon).mem = s.mem := by
  unfold shareWith
  cases canon <;> simp [publish]

/-- An offer leaves memory alone. -/
@[simp] theorem offer_mem (s : State) (key : Nat) : (offer s key).mem = s.mem := by
  unfold offer
  dsimp only
  repeat' split
  all_goals simp

/-- A leaf cached leaves memory alone. -/
@[simp] theorem tlbPut_mem (s : State) (e : TlbEntry) : (tlbPut s e).mem = s.mem := by
  unfold tlbPut
  dsimp only
  split <;> rfl

/-- Either of two states. -/
theorem ite_wf {c : Prop} [Decidable c] {s u : State} (h : Memory.wf s.mem = true) (hu : Memory.wf u.mem = true) :
    Memory.wf (if c then s else u).mem = true := by
  split
  · exact h
  · exact hu

/-- A line filled. -/
theorem fillLine_wf {s : State} (asid va pa dom : Nat) (leaf : Word) (h : Memory.wf s.mem = true) :
    Memory.wf (fillLine s asid va pa dom leaf).mem = true := by
  have h1 := holdLine_wf asid va pa dom h
  unfold fillLine
  dsimp only
  split
  · simpa using h1
  · exact h1

/-- A counter of the service block. -/
theorem serviceCount_wf {s : State} (off : Nat) (h : Memory.wf s.mem = true) : Memory.wf (serviceCount s off).mem = true :=
  physPut_wf _ _ _ h

/-- A stored line read and checked. -/
theorem readCheck_wf {s : State} (pa dom : Nat) (flips : List Nat) (h : Memory.wf s.mem = true) :
    Memory.wf (readCheck s pa dom flips).mem = true := by
  have hp : Memory.wf (poisonStored s pa dom).mem = true := serviceCount_wf _ h
  unfold readCheck
  split
  · exact h
  · split
    · split
      · exact h
      · exact hp
    · split
      · exact serviceCount_wf _ h
      · exact hp
    · exact hp

/-- A line read from memory where it is not held. -/
theorem readLine_wf {s : State} (asid va pa dom : Nat) (flips : List Nat) (h : Memory.wf s.mem = true) :
    Memory.wf (readLine s asid va pa dom flips).mem = true := ite_wf h (readCheck_wf _ _ _ h)

/-- The entry of a page table that a walk reads. -/
theorem serveEntry_wf {s : State} (a : Nat) (h : Memory.wf s.mem = true) : Memory.wf (serveEntry s a).mem = true := by
  unfold serveEntry
  dsimp only
  split
  · exact h
  · split
    · exact h
    · exact holdLine_wf _ _ _ _ (readCheck_wf _ _ _ h)

/-- A slice's translation of an access: the entries held, a leaf cached with its A bit set. -/
theorem installLeaf_wf {s : State} (asid va : Nat) (h : Memory.wf s.mem = true) : Memory.wf (installLeaf s asid va).mem = true := by
  have h1 := entries_wf (walkEntries s asid va) (fun a hu => serveEntry_wf a hu) h
  unfold installLeaf
  generalize cachedLeaf s asid va = c
  extract_lets s1
  generalize walk s1 asid va = d
  cases c with
  | some e => simpa using h
  | none =>
    cases d with
    | leaf e shift a =>
      simp only [tlbPut_mem]
      exact ite_wf h1 (orEntry_wf a 0x10 h1)
    | absent => exact h1
    | malformed => exact h1

/-- An access accounted for by its home slice. -/
theorem serveAccess_wf {s : State} (asid va : Nat) (flips : List Nat) (h : Memory.wf s.mem = true) :
    Memory.wf (serveAccess s asid va flips).mem = true := by
  have h1 := installLeaf_wf asid va h
  unfold serveAccess
  extract_lets s1
  split
  · exact h1
  · split
    · exact h1
    · exact fillLine_wf _ _ _ _ _ (readLine_wf _ _ _ _ _ h1)

/-- One access of a step accounted for. -/
theorem serveWalk_wf (w : Nat × Nat × Bool) {s : State} (h : Memory.wf s.mem = true) : Memory.wf (serveWalk w s).mem = true :=
  ite_wf (serveAccess_wf _ _ _ h) (installLeaf_wf _ _ h)

/-- A line listed anew under another record. -/
theorem recastLine_wf {s : State} (n : Nat) (record : BitVec 1024) (h : Memory.wf s.mem = true) :
    Memory.wf (recastLine s n record).mem = true := Memory.wf_foldl _ _ _ h

/-- The copies of a key slot in the dies leave memory alone. -/
@[simp] theorem dieCopies_mem (s : State) (n : Nat) (on : Bool) : (dieCopies s n on).mem = s.mem := by
  unfold dieCopies
  generalize List.range 12 = ds
  induction ds generalizing s with
  | nil => rfl
  | cons d ds ih =>
    rw [List.foldl_cons, ih]
    dsimp only
    by_cases hd : (s.die d).dstate = 2
    · rw [if_pos hd]
    · rw [if_neg hd]; rfl

/-- A key slot loaded. -/
theorem loadKey_wf {s : State} (n : Nat) (record : BitVec 1024) (h : Memory.wf s.mem = true) :
    Memory.wf (loadKey s n record).mem = true := by
  rw [loadKey, dieCopies_mem]
  unfold recast
  generalize s.seals.filter _ = es
  induction es generalizing s with
  | nil => exact h
  | cons e es ih => exact ih (recastLine_wf _ _ h)

/-! ### Stored lines (R388, R390) -/

/-- A sealed line that verifies is one whose MAC, recomputed under the present key of the domain, is the one stored. -/
theorem sealOk_mac {s : State} {pa dom : Nat} (hs : (s.seals.get {} (pa / 128)).sealed = true) (h : sealOk s pa dom = true) :
    macUnder s (pa / 128) (macKey (s.key dom).record) dom = (storedSidecar s (pa / 128)).setWidth 64 := by
  have low : (sidecarBits s (pa / 128)).setWidth 64 = 0 := by
    simp only [sidecarBits]
    apply BitVec.eq_of_toNat_eq
    generalize (List.range 8).foldl _ 0 = n
    simp only [BitVec.toNat_setWidth, BitVec.toNat_ofNat]
    split <;> simp <;> omega
  simp only [sealOk, hs, Bool.not_true, Bool.false_or, Bool.and_eq_true, beq_iff_eq] at h
  rw [← h.2, ← h.1]
  simp [storedSidecar, BitVec.setWidth_or, low]

/-- The end of a turn. -/
theorem endTurn_wf {s : State} (h : Memory.wf s.mem = true) : Memory.wf (endTurn s).mem = true := by
  show Memory.wf (serveWalks s).mem = true
  unfold serveWalks
  generalize s.walks = ws
  induction ws with
  | nil => exact h
  | cons w ws ih => exact serveWalk_wf w ih

end Sys2Proof.Machine
end

