-- ==== Sys2Proof/Laws/PerInstr.lean ====
section
/-!
SUPPORT. The round trip of the encoding (R104, R107), one lemma for each constructor: a word of an instruction decodes to
that instruction, with every operand at every value that its field holds. The lemmas of an instruction without a word
hold for want of one.
-/

namespace Sys2Proof.Laws.RoundTrip

/-- The word of a well-formed instruction that has one decodes to it. -/
def Statement (i : Instr) : Prop := i.wf = true → hasWord i = true → decodeWord (encodeWord i) = i

/-- The word of an instruction is read by the decoder of its major opcode. -/
theorem of_fields {i : Instr} {n : Nat} (op : Nat) (ho : op < 64) (e : encodeNat i = n)
    (h : ∀ N, N = n → N / 67108864 = op ∧ decodeMajor op N = i) : Statement i := by
  obtain ⟨h1, h2⟩ := h n rfl
  have hw : (encodeWord i).toNat = n := by rw [encodeWord, e]; exact Nat.mod_eq_of_lt (by omega)
  intro _ _
  rw [decodeWord, majorOf, hw, h1, h2]

/-- The lowest part of a number, and the rest. -/
theorem part_zero {N P w x : Nat} (e : N = P * w + x) (hx : x < w) : N / w = P ∧ N % w = x := by
  subst e
  exact ⟨by rw [Nat.mul_comm, Nat.mul_add_div (by omega), Nat.div_eq_of_lt hx, Nat.add_zero],
    by rw [Nat.mul_comm, Nat.mul_add_mod, Nat.mod_eq_of_lt hx]⟩

/-- The next part of a number, and the rest. -/
theorem part {N m Q P w x m' : Nat} (h : N / m = Q) (e : Q = P * w + x) (hx : x < w) (hm : m * w = m') :
    N / m' = P ∧ N / m % w = x := by
  rw [← hm, ← Nat.div_div_eq_div_mul, h]
  exact part_zero e hx

/-- A field of a word is the operand that the word holds there. -/
theorem fld_eq {n hi lo p q : Nat} {x : BitVec (hi - lo + 1)} (h : n / p % q = x.toNat) (hp : 2 ^ lo = p)
    (hq : 2 ^ (hi - lo + 1) = q) : fld n hi lo = x :=
  BitVec.eq_of_toNat_eq (by subst hp hq; exact (BitVec.toNat_ofNat ..).trans h)

/-- The same for a field from bit 0. -/
theorem fld_zero {n hi q : Nat} {x : BitVec (hi - 0 + 1)} (h : n % q = x.toNat) (hq : 2 ^ (hi - 0 + 1) = q) : fld n hi 0 = x :=
  fld_eq (p := 1) (by rwa [Nat.div_one]) rfl hq

theorem add (d : BitVec 5) (a : BitVec 5) (w : BitVec 1) (b : BitVec 5) (x : BitVec 1) : Statement (.add d a w b x) := by
  refine of_fields (n := 0x04000000 + put d 21 + put a 16 + put w 15 + put b 10 + put x 9) 1 (by decide) rfl fun N hN => ?_
  have hN : N = (((((1 * 32 + d.toNat) * 32 + a.toNat) * 2 + w.toNat) * 32 + b.toNat) * 2 + x.toNat) * 512 + 0 := by
    simp only [put, Nat.reducePow] at hN; omega
  obtain ⟨q0, f0⟩ := part_zero hN (by decide)
  obtain ⟨q1, f1⟩ := part q0 rfl x.isLt (show 512 * 2 = 1024 by decide)
  obtain ⟨q2, f2⟩ := part q1 rfl b.isLt (show 1024 * 32 = 32768 by decide)
  obtain ⟨q3, f3⟩ := part q2 rfl w.isLt (show 32768 * 2 = 65536 by decide)
  obtain ⟨q4, f4⟩ := part q3 rfl a.isLt (show 65536 * 32 = 2097152 by decide)
  obtain ⟨q5, f5⟩ := part q4 rfl d.isLt (show 2097152 * 32 = 67108864 by decide)
  refine ⟨q5, ?_⟩
  refine (if_pos f0).trans ?_
  rw [show fld N 25 21 = d from fld_eq f5 rfl rfl,
    show fld N 20 16 = a from fld_eq f4 rfl rfl,
    show fld N 15 15 = w from fld_eq f3 rfl rfl,
    show fld N 14 10 = b from fld_eq f2 rfl rfl,
    show fld N 9 9 = x from fld_eq f1 rfl rfl]

theorem sub (d : BitVec 5) (a : BitVec 5) (w : BitVec 1) (b : BitVec 5) (x : BitVec 1) : Statement (.sub d a w b x) := by
  refine of_fields (n := 0x04000001 + put d 21 + put a 16 + put w 15 + put b 10 + put x 9) 1 (by decide) rfl fun N hN => ?_
  have hN : N = (((((1 * 32 + d.toNat) * 32 + a.toNat) * 2 + w.toNat) * 32 + b.toNat) * 2 + x.toNat) * 512 + 1 := by
    simp only [put, Nat.reducePow] at hN; omega
  obtain ⟨q0, f0⟩ := part_zero hN (by decide)
  obtain ⟨q1, f1⟩ := part q0 rfl x.isLt (show 512 * 2 = 1024 by decide)
  obtain ⟨q2, f2⟩ := part q1 rfl b.isLt (show 1024 * 32 = 32768 by decide)
  obtain ⟨q3, f3⟩ := part q2 rfl w.isLt (show 32768 * 2 = 65536 by decide)
  obtain ⟨q4, f4⟩ := part q3 rfl a.isLt (show 65536 * 32 = 2097152 by decide)
  obtain ⟨q5, f5⟩ := part q4 rfl d.isLt (show 2097152 * 32 = 67108864 by decide)
  refine ⟨q5, ?_⟩
  refine (if_neg (fun h => absurd (f0.symm.trans h) (by decide))).trans <|
    (if_pos f0).trans ?_
  rw [show fld N 25 21 = d from fld_eq f5 rfl rfl,
    show fld N 20 16 = a from fld_eq f4 rfl rfl,
    show fld N 15 15 = w from fld_eq f3 rfl rfl,
    show fld N 14 10 = b from fld_eq f2 rfl rfl,
    show fld N 9 9 = x from fld_eq f1 rfl rfl]

theorem and (d : BitVec 5) (a : BitVec 5) (w : BitVec 1) (b : BitVec 5) (x : BitVec 1) : Statement (.and d a w b x) := by
  refine of_fields (n := 0x04000002 + put d 21 + put a 16 + put w 15 + put b 10 + put x 9) 1 (by decide) rfl fun N hN => ?_
  have hN : N = (((((1 * 32 + d.toNat) * 32 + a.toNat) * 2 + w.toNat) * 32 + b.toNat) * 2 + x.toNat) * 512 + 2 := by
    simp only [put, Nat.reducePow] at hN; omega
  obtain ⟨q0, f0⟩ := part_zero hN (by decide)
  obtain ⟨q1, f1⟩ := part q0 rfl x.isLt (show 512 * 2 = 1024 by decide)
  obtain ⟨q2, f2⟩ := part q1 rfl b.isLt (show 1024 * 32 = 32768 by decide)
  obtain ⟨q3, f3⟩ := part q2 rfl w.isLt (show 32768 * 2 = 65536 by decide)
  obtain ⟨q4, f4⟩ := part q3 rfl a.isLt (show 65536 * 32 = 2097152 by decide)
  obtain ⟨q5, f5⟩ := part q4 rfl d.isLt (show 2097152 * 32 = 67108864 by decide)
  refine ⟨q5, ?_⟩
  refine (if_neg (fun h => absurd (f0.symm.trans h) (by decide))).trans <|
    (if_neg (fun h => absurd (f0.symm.trans h) (by decide))).trans <|
    (if_pos f0).trans ?_
  rw [show fld N 25 21 = d from fld_eq f5 rfl rfl,
    show fld N 20 16 = a from fld_eq f4 rfl rfl,
    show fld N 15 15 = w from fld_eq f3 rfl rfl,
    show fld N 14 10 = b from fld_eq f2 rfl rfl,
    show fld N 9 9 = x from fld_eq f1 rfl rfl]

theorem or (d : BitVec 5) (a : BitVec 5) (w : BitVec 1) (b : BitVec 5) (x : BitVec 1) : Statement (.or d a w b x) := by
  refine of_fields (n := 0x04000003 + put d 21 + put a 16 + put w 15 + put b 10 + put x 9) 1 (by decide) rfl fun N hN => ?_
  have hN : N = (((((1 * 32 + d.toNat) * 32 + a.toNat) * 2 + w.toNat) * 32 + b.toNat) * 2 + x.toNat) * 512 + 3 := by
    simp only [put, Nat.reducePow] at hN; omega
  obtain ⟨q0, f0⟩ := part_zero hN (by decide)
  obtain ⟨q1, f1⟩ := part q0 rfl x.isLt (show 512 * 2 = 1024 by decide)
  obtain ⟨q2, f2⟩ := part q1 rfl b.isLt (show 1024 * 32 = 32768 by decide)
  obtain ⟨q3, f3⟩ := part q2 rfl w.isLt (show 32768 * 2 = 65536 by decide)
  obtain ⟨q4, f4⟩ := part q3 rfl a.isLt (show 65536 * 32 = 2097152 by decide)
  obtain ⟨q5, f5⟩ := part q4 rfl d.isLt (show 2097152 * 32 = 67108864 by decide)
  refine ⟨q5, ?_⟩
  refine (if_neg (fun h => absurd (f0.symm.trans h) (by decide))).trans <|
    (if_neg (fun h => absurd (f0.symm.trans h) (by decide))).trans <|
    (if_neg (fun h => absurd (f0.symm.trans h) (by decide))).trans <|
    (if_pos f0).trans ?_
  rw [show fld N 25 21 = d from fld_eq f5 rfl rfl,
    show fld N 20 16 = a from fld_eq f4 rfl rfl,
    show fld N 15 15 = w from fld_eq f3 rfl rfl,
    show fld N 14 10 = b from fld_eq f2 rfl rfl,
    show fld N 9 9 = x from fld_eq f1 rfl rfl]

theorem xor (d : BitVec 5) (a : BitVec 5) (w : BitVec 1) (b : BitVec 5) (x : BitVec 1) : Statement (.xor d a w b x) := by
  refine of_fields (n := 0x04000004 + put d 21 + put a 16 + put w 15 + put b 10 + put x 9) 1 (by decide) rfl fun N hN => ?_
  have hN : N = (((((1 * 32 + d.toNat) * 32 + a.toNat) * 2 + w.toNat) * 32 + b.toNat) * 2 + x.toNat) * 512 + 4 := by
    simp only [put, Nat.reducePow] at hN; omega
  obtain ⟨q0, f0⟩ := part_zero hN (by decide)
  obtain ⟨q1, f1⟩ := part q0 rfl x.isLt (show 512 * 2 = 1024 by decide)
  obtain ⟨q2, f2⟩ := part q1 rfl b.isLt (show 1024 * 32 = 32768 by decide)
  obtain ⟨q3, f3⟩ := part q2 rfl w.isLt (show 32768 * 2 = 65536 by decide)
  obtain ⟨q4, f4⟩ := part q3 rfl a.isLt (show 65536 * 32 = 2097152 by decide)
  obtain ⟨q5, f5⟩ := part q4 rfl d.isLt (show 2097152 * 32 = 67108864 by decide)
  refine ⟨q5, ?_⟩
  refine (if_neg (fun h => absurd (f0.symm.trans h) (by decide))).trans <|
    (if_neg (fun h => absurd (f0.symm.trans h) (by decide))).trans <|
    (if_neg (fun h => absurd (f0.symm.trans h) (by decide))).trans <|
    (if_neg (fun h => absurd (f0.symm.trans h) (by decide))).trans <|
    (if_pos f0).trans ?_
  rw [show fld N 25 21 = d from fld_eq f5 rfl rfl,
    show fld N 20 16 = a from fld_eq f4 rfl rfl,
    show fld N 15 15 = w from fld_eq f3 rfl rfl,
    show fld N 14 10 = b from fld_eq f2 rfl rfl,
    show fld N 9 9 = x from fld_eq f1 rfl rfl]

theorem andn (d : BitVec 5) (a : BitVec 5) (w : BitVec 1) (b : BitVec 5) (x : BitVec 1) : Statement (.andn d a w b x) := by
  refine of_fields (n := 0x04000005 + put d 21 + put a 16 + put w 15 + put b 10 + put x 9) 1 (by decide) rfl fun N hN => ?_
  have hN : N = (((((1 * 32 + d.toNat) * 32 + a.toNat) * 2 + w.toNat) * 32 + b.toNat) * 2 + x.toNat) * 512 + 5 := by
    simp only [put, Nat.reducePow] at hN; omega
  obtain ⟨q0, f0⟩ := part_zero hN (by decide)
  obtain ⟨q1, f1⟩ := part q0 rfl x.isLt (show 512 * 2 = 1024 by decide)
  obtain ⟨q2, f2⟩ := part q1 rfl b.isLt (show 1024 * 32 = 32768 by decide)
  obtain ⟨q3, f3⟩ := part q2 rfl w.isLt (show 32768 * 2 = 65536 by decide)
  obtain ⟨q4, f4⟩ := part q3 rfl a.isLt (show 65536 * 32 = 2097152 by decide)
  obtain ⟨q5, f5⟩ := part q4 rfl d.isLt (show 2097152 * 32 = 67108864 by decide)
  refine ⟨q5, ?_⟩
  refine (if_neg (fun h => absurd (f0.symm.trans h) (by decide))).trans <|
    (if_neg (fun h => absurd (f0.symm.trans h) (by decide))).trans <|
    (if_neg (fun h => absurd (f0.symm.trans h) (by decide))).trans <|
    (if_neg (fun h => absurd (f0.symm.trans h) (by decide))).trans <|
    (if_neg (fun h => absurd (f0.symm.trans h) (by decide))).trans <|
    (if_pos f0).trans ?_
  rw [show fld N 25 21 = d from fld_eq f5 rfl rfl,
    show fld N 20 16 = a from fld_eq f4 rfl rfl,
    show fld N 15 15 = w from fld_eq f3 rfl rfl,
    show fld N 14 10 = b from fld_eq f2 rfl rfl,
    show fld N 9 9 = x from fld_eq f1 rfl rfl]

theorem shl (d : BitVec 5) (a : BitVec 5) (w : BitVec 1) (b : BitVec 5) (x : BitVec 1) : Statement (.shl d a w b x) := by
  refine of_fields (n := 0x04000006 + put d 21 + put a 16 + put w 15 + put b 10 + put x 9) 1 (by decide) rfl fun N hN => ?_
  have hN : N = (((((1 * 32 + d.toNat) * 32 + a.toNat) * 2 + w.toNat) * 32 + b.toNat) * 2 + x.toNat) * 512 + 6 := by
    simp only [put, Nat.reducePow] at hN; omega
  obtain ⟨q0, f0⟩ := part_zero hN (by decide)
  obtain ⟨q1, f1⟩ := part q0 rfl x.isLt (show 512 * 2 = 1024 by decide)
  obtain ⟨q2, f2⟩ := part q1 rfl b.isLt (show 1024 * 32 = 32768 by decide)
  obtain ⟨q3, f3⟩ := part q2 rfl w.isLt (show 32768 * 2 = 65536 by decide)
  obtain ⟨q4, f4⟩ := part q3 rfl a.isLt (show 65536 * 32 = 2097152 by decide)
  obtain ⟨q5, f5⟩ := part q4 rfl d.isLt (show 2097152 * 32 = 67108864 by decide)
  refine ⟨q5, ?_⟩
  refine (if_neg (fun h => absurd (f0.symm.trans h) (by decide))).trans <|
    (if_neg (fun h => absurd (f0.symm.trans h) (by decide))).trans <|
    (if_neg (fun h => absurd (f0.symm.trans h) (by decide))).trans <|
    (if_neg (fun h => absurd (f0.symm.trans h) (by decide))).trans <|
    (if_neg (fun h => absurd (f0.symm.trans h) (by decide))).trans <|
    (if_neg (fun h => absurd (f0.symm.trans h) (by decide))).trans <|
    (if_pos f0).trans ?_
  rw [show fld N 25 21 = d from fld_eq f5 rfl rfl,
    show fld N 20 16 = a from fld_eq f4 rfl rfl,
    show fld N 15 15 = w from fld_eq f3 rfl rfl,
    show fld N 14 10 = b from fld_eq f2 rfl rfl,
    show fld N 9 9 = x from fld_eq f1 rfl rfl]

theorem shr (d : BitVec 5) (a : BitVec 5) (w : BitVec 1) (b : BitVec 5) (x : BitVec 1) : Statement (.shr d a w b x) := by
  refine of_fields (n := 0x04000007 + put d 21 + put a 16 + put w 15 + put b 10 + put x 9) 1 (by decide) rfl fun N hN => ?_
  have hN : N = (((((1 * 32 + d.toNat) * 32 + a.toNat) * 2 + w.toNat) * 32 + b.toNat) * 2 + x.toNat) * 512 + 7 := by
    simp only [put, Nat.reducePow] at hN; omega
  obtain ⟨q0, f0⟩ := part_zero hN (by decide)
  obtain ⟨q1, f1⟩ := part q0 rfl x.isLt (show 512 * 2 = 1024 by decide)
  obtain ⟨q2, f2⟩ := part q1 rfl b.isLt (show 1024 * 32 = 32768 by decide)
  obtain ⟨q3, f3⟩ := part q2 rfl w.isLt (show 32768 * 2 = 65536 by decide)
  obtain ⟨q4, f4⟩ := part q3 rfl a.isLt (show 65536 * 32 = 2097152 by decide)
  obtain ⟨q5, f5⟩ := part q4 rfl d.isLt (show 2097152 * 32 = 67108864 by decide)
  refine ⟨q5, ?_⟩
  refine (if_neg (fun h => absurd (f0.symm.trans h) (by decide))).trans <|
    (if_neg (fun h => absurd (f0.symm.trans h) (by decide))).trans <|
    (if_neg (fun h => absurd (f0.symm.trans h) (by decide))).trans <|
    (if_neg (fun h => absurd (f0.symm.trans h) (by decide))).trans <|
    (if_neg (fun h => absurd (f0.symm.trans h) (by decide))).trans <|
    (if_neg (fun h => absurd (f0.symm.trans h) (by decide))).trans <|
    (if_neg (fun h => absurd (f0.symm.trans h) (by decide))).trans <|
    (if_pos f0).trans ?_
  rw [show fld N 25 21 = d from fld_eq f5 rfl rfl,
    show fld N 20 16 = a from fld_eq f4 rfl rfl,
    show fld N 15 15 = w from fld_eq f3 rfl rfl,
    show fld N 14 10 = b from fld_eq f2 rfl rfl,
    show fld N 9 9 = x from fld_eq f1 rfl rfl]

theorem sra (d : BitVec 5) (a : BitVec 5) (w : BitVec 1) (b : BitVec 5) (x : BitVec 1) : Statement (.sra d a w b x) := by
  refine of_fields (n := 0x04000008 + put d 21 + put a 16 + put w 15 + put b 10 + put x 9) 1 (by decide) rfl fun N hN => ?_
  have hN : N = (((((1 * 32 + d.toNat) * 32 + a.toNat) * 2 + w.toNat) * 32 + b.toNat) * 2 + x.toNat) * 512 + 8 := by
    simp only [put, Nat.reducePow] at hN; omega
  obtain ⟨q0, f0⟩ := part_zero hN (by decide)
  obtain ⟨q1, f1⟩ := part q0 rfl x.isLt (show 512 * 2 = 1024 by decide)
  obtain ⟨q2, f2⟩ := part q1 rfl b.isLt (show 1024 * 32 = 32768 by decide)
  obtain ⟨q3, f3⟩ := part q2 rfl w.isLt (show 32768 * 2 = 65536 by decide)
  obtain ⟨q4, f4⟩ := part q3 rfl a.isLt (show 65536 * 32 = 2097152 by decide)
  obtain ⟨q5, f5⟩ := part q4 rfl d.isLt (show 2097152 * 32 = 67108864 by decide)
  refine ⟨q5, ?_⟩
  refine (if_neg (fun h => absurd (f0.symm.trans h) (by decide))).trans <|
    (if_neg (fun h => absurd (f0.symm.trans h) (by decide))).trans <|
    (if_neg (fun h => absurd (f0.symm.trans h) (by decide))).trans <|
    (if_neg (fun h => absurd (f0.symm.trans h) (by decide))).trans <|
    (if_neg (fun h => absurd (f0.symm.trans h) (by decide))).trans <|
    (if_neg (fun h => absurd (f0.symm.trans h) (by decide))).trans <|
    (if_neg (fun h => absurd (f0.symm.trans h) (by decide))).trans <|
    (if_neg (fun h => absurd (f0.symm.trans h) (by decide))).trans <|
    (if_pos f0).trans ?_
  rw [show fld N 25 21 = d from fld_eq f5 rfl rfl,
    show fld N 20 16 = a from fld_eq f4 rfl rfl,
    show fld N 15 15 = w from fld_eq f3 rfl rfl,
    show fld N 14 10 = b from fld_eq f2 rfl rfl,
    show fld N 9 9 = x from fld_eq f1 rfl rfl]

theorem mul (d : BitVec 5) (a : BitVec 5) (w : BitVec 1) (b : BitVec 5) (x : BitVec 1) : Statement (.mul d a w b x) := by
  refine of_fields (n := 0x04000009 + put d 21 + put a 16 + put w 15 + put b 10 + put x 9) 1 (by decide) rfl fun N hN => ?_
  have hN : N = (((((1 * 32 + d.toNat) * 32 + a.toNat) * 2 + w.toNat) * 32 + b.toNat) * 2 + x.toNat) * 512 + 9 := by
    simp only [put, Nat.reducePow] at hN; omega
  obtain ⟨q0, f0⟩ := part_zero hN (by decide)
  obtain ⟨q1, f1⟩ := part q0 rfl x.isLt (show 512 * 2 = 1024 by decide)
  obtain ⟨q2, f2⟩ := part q1 rfl b.isLt (show 1024 * 32 = 32768 by decide)
  obtain ⟨q3, f3⟩ := part q2 rfl w.isLt (show 32768 * 2 = 65536 by decide)
  obtain ⟨q4, f4⟩ := part q3 rfl a.isLt (show 65536 * 32 = 2097152 by decide)
  obtain ⟨q5, f5⟩ := part q4 rfl d.isLt (show 2097152 * 32 = 67108864 by decide)
  refine ⟨q5, ?_⟩
  refine (if_neg (fun h => absurd (f0.symm.trans h) (by decide))).trans <|
    (if_neg (fun h => absurd (f0.symm.trans h) (by decide))).trans <|
    (if_neg (fun h => absurd (f0.symm.trans h) (by decide))).trans <|
    (if_neg (fun h => absurd (f0.symm.trans h) (by decide))).trans <|
    (if_neg (fun h => absurd (f0.symm.trans h) (by decide))).trans <|
    (if_neg (fun h => absurd (f0.symm.trans h) (by decide))).trans <|
    (if_neg (fun h => absurd (f0.symm.trans h) (by decide))).trans <|
    (if_neg (fun h => absurd (f0.symm.trans h) (by decide))).trans <|
    (if_neg (fun h => absurd (f0.symm.trans h) (by decide))).trans <|
    (if_pos f0).trans ?_
  rw [show fld N 25 21 = d from fld_eq f5 rfl rfl,
    show fld N 20 16 = a from fld_eq f4 rfl rfl,
    show fld N 15 15 = w from fld_eq f3 rfl rfl,
    show fld N 14 10 = b from fld_eq f2 rfl rfl,
    show fld N 9 9 = x from fld_eq f1 rfl rfl]

theorem mulh (d : BitVec 5) (a : BitVec 5) (w : BitVec 1) (b : BitVec 5) (x : BitVec 1) : Statement (.mulh d a w b x) := by
  refine of_fields (n := 0x0400000A + put d 21 + put a 16 + put w 15 + put b 10 + put x 9) 1 (by decide) rfl fun N hN => ?_
  have hN : N = (((((1 * 32 + d.toNat) * 32 + a.toNat) * 2 + w.toNat) * 32 + b.toNat) * 2 + x.toNat) * 512 + 10 := by
    simp only [put, Nat.reducePow] at hN; omega
  obtain ⟨q0, f0⟩ := part_zero hN (by decide)
  obtain ⟨q1, f1⟩ := part q0 rfl x.isLt (show 512 * 2 = 1024 by decide)
  obtain ⟨q2, f2⟩ := part q1 rfl b.isLt (show 1024 * 32 = 32768 by decide)
  obtain ⟨q3, f3⟩ := part q2 rfl w.isLt (show 32768 * 2 = 65536 by decide)
  obtain ⟨q4, f4⟩ := part q3 rfl a.isLt (show 65536 * 32 = 2097152 by decide)
  obtain ⟨q5, f5⟩ := part q4 rfl d.isLt (show 2097152 * 32 = 67108864 by decide)
  refine ⟨q5, ?_⟩
  refine (if_neg (fun h => absurd (f0.symm.trans h) (by decide))).trans <|
    (if_neg (fun h => absurd (f0.symm.trans h) (by decide))).trans <|
    (if_neg (fun h => absurd (f0.symm.trans h) (by decide))).trans <|
    (if_neg (fun h => absurd (f0.symm.trans h) (by decide))).trans <|
    (if_neg (fun h => absurd (f0.symm.trans h) (by decide))).trans <|
    (if_neg (fun h => absurd (f0.symm.trans h) (by decide))).trans <|
    (if_neg (fun h => absurd (f0.symm.trans h) (by decide))).trans <|
    (if_neg (fun h => absurd (f0.symm.trans h) (by decide))).trans <|
    (if_neg (fun h => absurd (f0.symm.trans h) (by decide))).trans <|
    (if_neg (fun h => absurd (f0.symm.trans h) (by decide))).trans <|
    (if_pos f0).trans ?_
  rw [show fld N 25 21 = d from fld_eq f5 rfl rfl,
    show fld N 20 16 = a from fld_eq f4 rfl rfl,
    show fld N 15 15 = w from fld_eq f3 rfl rfl,
    show fld N 14 10 = b from fld_eq f2 rfl rfl,
    show fld N 9 9 = x from fld_eq f1 rfl rfl]

theorem mulhu (d : BitVec 5) (a : BitVec 5) (w : BitVec 1) (b : BitVec 5) (x : BitVec 1) : Statement (.mulhu d a w b x) := by
  refine of_fields (n := 0x0400000B + put d 21 + put a 16 + put w 15 + put b 10 + put x 9) 1 (by decide) rfl fun N hN => ?_
  have hN : N = (((((1 * 32 + d.toNat) * 32 + a.toNat) * 2 + w.toNat) * 32 + b.toNat) * 2 + x.toNat) * 512 + 11 := by
    simp only [put, Nat.reducePow] at hN; omega
  obtain ⟨q0, f0⟩ := part_zero hN (by decide)
  obtain ⟨q1, f1⟩ := part q0 rfl x.isLt (show 512 * 2 = 1024 by decide)
  obtain ⟨q2, f2⟩ := part q1 rfl b.isLt (show 1024 * 32 = 32768 by decide)
  obtain ⟨q3, f3⟩ := part q2 rfl w.isLt (show 32768 * 2 = 65536 by decide)
  obtain ⟨q4, f4⟩ := part q3 rfl a.isLt (show 65536 * 32 = 2097152 by decide)
  obtain ⟨q5, f5⟩ := part q4 rfl d.isLt (show 2097152 * 32 = 67108864 by decide)
  refine ⟨q5, ?_⟩
  refine (if_neg (fun h => absurd (f0.symm.trans h) (by decide))).trans <|
    (if_neg (fun h => absurd (f0.symm.trans h) (by decide))).trans <|
    (if_neg (fun h => absurd (f0.symm.trans h) (by decide))).trans <|
    (if_neg (fun h => absurd (f0.symm.trans h) (by decide))).trans <|
    (if_neg (fun h => absurd (f0.symm.trans h) (by decide))).trans <|
    (if_neg (fun h => absurd (f0.symm.trans h) (by decide))).trans <|
    (if_neg (fun h => absurd (f0.symm.trans h) (by decide))).trans <|
    (if_neg (fun h => absurd (f0.symm.trans h) (by decide))).trans <|
    (if_neg (fun h => absurd (f0.symm.trans h) (by decide))).trans <|
    (if_neg (fun h => absurd (f0.symm.trans h) (by decide))).trans <|
    (if_neg (fun h => absurd (f0.symm.trans h) (by decide))).trans <|
    (if_pos f0).trans ?_
  rw [show fld N 25 21 = d from fld_eq f5 rfl rfl,
    show fld N 20 16 = a from fld_eq f4 rfl rfl,
    show fld N 15 15 = w from fld_eq f3 rfl rfl,
    show fld N 14 10 = b from fld_eq f2 rfl rfl,
    show fld N 9 9 = x from fld_eq f1 rfl rfl]

theorem div (d : BitVec 5) (a : BitVec 5) (w : BitVec 1) (b : BitVec 5) (x : BitVec 1) : Statement (.div d a w b x) := by
  refine of_fields (n := 0x0400000C + put d 21 + put a 16 + put w 15 + put b 10 + put x 9) 1 (by decide) rfl fun N hN => ?_
  have hN : N = (((((1 * 32 + d.toNat) * 32 + a.toNat) * 2 + w.toNat) * 32 + b.toNat) * 2 + x.toNat) * 512 + 12 := by
    simp only [put, Nat.reducePow] at hN; omega
  obtain ⟨q0, f0⟩ := part_zero hN (by decide)
  obtain ⟨q1, f1⟩ := part q0 rfl x.isLt (show 512 * 2 = 1024 by decide)
  obtain ⟨q2, f2⟩ := part q1 rfl b.isLt (show 1024 * 32 = 32768 by decide)
  obtain ⟨q3, f3⟩ := part q2 rfl w.isLt (show 32768 * 2 = 65536 by decide)
  obtain ⟨q4, f4⟩ := part q3 rfl a.isLt (show 65536 * 32 = 2097152 by decide)
  obtain ⟨q5, f5⟩ := part q4 rfl d.isLt (show 2097152 * 32 = 67108864 by decide)
  refine ⟨q5, ?_⟩
  refine (if_neg (fun h => absurd (f0.symm.trans h) (by decide))).trans <|
    (if_neg (fun h => absurd (f0.symm.trans h) (by decide))).trans <|
    (if_neg (fun h => absurd (f0.symm.trans h) (by decide))).trans <|
    (if_neg (fun h => absurd (f0.symm.trans h) (by decide))).trans <|
    (if_neg (fun h => absurd (f0.symm.trans h) (by decide))).trans <|
    (if_neg (fun h => absurd (f0.symm.trans h) (by decide))).trans <|
    (if_neg (fun h => absurd (f0.symm.trans h) (by decide))).trans <|
    (if_neg (fun h => absurd (f0.symm.trans h) (by decide))).trans <|
    (if_neg (fun h => absurd (f0.symm.trans h) (by decide))).trans <|
    (if_neg (fun h => absurd (f0.symm.trans h) (by decide))).trans <|
    (if_neg (fun h => absurd (f0.symm.trans h) (by decide))).trans <|
    (if_neg (fun h => absurd (f0.symm.trans h) (by decide))).trans <|
    (if_pos f0).trans ?_
  rw [show fld N 25 21 = d from fld_eq f5 rfl rfl,
    show fld N 20 16 = a from fld_eq f4 rfl rfl,
    show fld N 15 15 = w from fld_eq f3 rfl rfl,
    show fld N 14 10 = b from fld_eq f2 rfl rfl,
    show fld N 9 9 = x from fld_eq f1 rfl rfl]

theorem divu (d : BitVec 5) (a : BitVec 5) (w : BitVec 1) (b : BitVec 5) (x : BitVec 1) : Statement (.divu d a w b x) := by
  refine of_fields (n := 0x0400000D + put d 21 + put a 16 + put w 15 + put b 10 + put x 9) 1 (by decide) rfl fun N hN => ?_
  have hN : N = (((((1 * 32 + d.toNat) * 32 + a.toNat) * 2 + w.toNat) * 32 + b.toNat) * 2 + x.toNat) * 512 + 13 := by
    simp only [put, Nat.reducePow] at hN; omega
  obtain ⟨q0, f0⟩ := part_zero hN (by decide)
  obtain ⟨q1, f1⟩ := part q0 rfl x.isLt (show 512 * 2 = 1024 by decide)
  obtain ⟨q2, f2⟩ := part q1 rfl b.isLt (show 1024 * 32 = 32768 by decide)
  obtain ⟨q3, f3⟩ := part q2 rfl w.isLt (show 32768 * 2 = 65536 by decide)
  obtain ⟨q4, f4⟩ := part q3 rfl a.isLt (show 65536 * 32 = 2097152 by decide)
  obtain ⟨q5, f5⟩ := part q4 rfl d.isLt (show 2097152 * 32 = 67108864 by decide)
  refine ⟨q5, ?_⟩
  refine (if_neg (fun h => absurd (f0.symm.trans h) (by decide))).trans <|
    (if_neg (fun h => absurd (f0.symm.trans h) (by decide))).trans <|
    (if_neg (fun h => absurd (f0.symm.trans h) (by decide))).trans <|
    (if_neg (fun h => absurd (f0.symm.trans h) (by decide))).trans <|
    (if_neg (fun h => absurd (f0.symm.trans h) (by decide))).trans <|
    (if_neg (fun h => absurd (f0.symm.trans h) (by decide))).trans <|
    (if_neg (fun h => absurd (f0.symm.trans h) (by decide))).trans <|
    (if_neg (fun h => absurd (f0.symm.trans h) (by decide))).trans <|
    (if_neg (fun h => absurd (f0.symm.trans h) (by decide))).trans <|
    (if_neg (fun h => absurd (f0.symm.trans h) (by decide))).trans <|
    (if_neg (fun h => absurd (f0.symm.trans h) (by decide))).trans <|
    (if_neg (fun h => absurd (f0.symm.trans h) (by decide))).trans <|
    (if_neg (fun h => absurd (f0.symm.trans h) (by decide))).trans <|
    (if_pos f0).trans ?_
  rw [show fld N 25 21 = d from fld_eq f5 rfl rfl,
    show fld N 20 16 = a from fld_eq f4 rfl rfl,
    show fld N 15 15 = w from fld_eq f3 rfl rfl,
    show fld N 14 10 = b from fld_eq f2 rfl rfl,
    show fld N 9 9 = x from fld_eq f1 rfl rfl]

theorem rem (d : BitVec 5) (a : BitVec 5) (w : BitVec 1) (b : BitVec 5) (x : BitVec 1) : Statement (.rem d a w b x) := by
  refine of_fields (n := 0x0400000E + put d 21 + put a 16 + put w 15 + put b 10 + put x 9) 1 (by decide) rfl fun N hN => ?_
  have hN : N = (((((1 * 32 + d.toNat) * 32 + a.toNat) * 2 + w.toNat) * 32 + b.toNat) * 2 + x.toNat) * 512 + 14 := by
    simp only [put, Nat.reducePow] at hN; omega
  obtain ⟨q0, f0⟩ := part_zero hN (by decide)
  obtain ⟨q1, f1⟩ := part q0 rfl x.isLt (show 512 * 2 = 1024 by decide)
  obtain ⟨q2, f2⟩ := part q1 rfl b.isLt (show 1024 * 32 = 32768 by decide)
  obtain ⟨q3, f3⟩ := part q2 rfl w.isLt (show 32768 * 2 = 65536 by decide)
  obtain ⟨q4, f4⟩ := part q3 rfl a.isLt (show 65536 * 32 = 2097152 by decide)
  obtain ⟨q5, f5⟩ := part q4 rfl d.isLt (show 2097152 * 32 = 67108864 by decide)
  refine ⟨q5, ?_⟩
  refine (if_neg (fun h => absurd (f0.symm.trans h) (by decide))).trans <|
    (if_neg (fun h => absurd (f0.symm.trans h) (by decide))).trans <|
    (if_neg (fun h => absurd (f0.symm.trans h) (by decide))).trans <|
    (if_neg (fun h => absurd (f0.symm.trans h) (by decide))).trans <|
    (if_neg (fun h => absurd (f0.symm.trans h) (by decide))).trans <|
    (if_neg (fun h => absurd (f0.symm.trans h) (by decide))).trans <|
    (if_neg (fun h => absurd (f0.symm.trans h) (by decide))).trans <|
    (if_neg (fun h => absurd (f0.symm.trans h) (by decide))).trans <|
    (if_neg (fun h => absurd (f0.symm.trans h) (by decide))).trans <|
    (if_neg (fun h => absurd (f0.symm.trans h) (by decide))).trans <|
    (if_neg (fun h => absurd (f0.symm.trans h) (by decide))).trans <|
    (if_neg (fun h => absurd (f0.symm.trans h) (by decide))).trans <|
    (if_neg (fun h => absurd (f0.symm.trans h) (by decide))).trans <|
    (if_neg (fun h => absurd (f0.symm.trans h) (by decide))).trans <|
    (if_pos f0).trans ?_
  rw [show fld N 25 21 = d from fld_eq f5 rfl rfl,
    show fld N 20 16 = a from fld_eq f4 rfl rfl,
    show fld N 15 15 = w from fld_eq f3 rfl rfl,
    show fld N 14 10 = b from fld_eq f2 rfl rfl,
    show fld N 9 9 = x from fld_eq f1 rfl rfl]

theorem remu (d : BitVec 5) (a : BitVec 5) (w : BitVec 1) (b : BitVec 5) (x : BitVec 1) : Statement (.remu d a w b x) := by
  refine of_fields (n := 0x0400000F + put d 21 + put a 16 + put w 15 + put b 10 + put x 9) 1 (by decide) rfl fun N hN => ?_
  have hN : N = (((((1 * 32 + d.toNat) * 32 + a.toNat) * 2 + w.toNat) * 32 + b.toNat) * 2 + x.toNat) * 512 + 15 := by
    simp only [put, Nat.reducePow] at hN; omega
  obtain ⟨q0, f0⟩ := part_zero hN (by decide)
  obtain ⟨q1, f1⟩ := part q0 rfl x.isLt (show 512 * 2 = 1024 by decide)
  obtain ⟨q2, f2⟩ := part q1 rfl b.isLt (show 1024 * 32 = 32768 by decide)
  obtain ⟨q3, f3⟩ := part q2 rfl w.isLt (show 32768 * 2 = 65536 by decide)
  obtain ⟨q4, f4⟩ := part q3 rfl a.isLt (show 65536 * 32 = 2097152 by decide)
  obtain ⟨q5, f5⟩ := part q4 rfl d.isLt (show 2097152 * 32 = 67108864 by decide)
  refine ⟨q5, ?_⟩
  refine (if_neg (fun h => absurd (f0.symm.trans h) (by decide))).trans <|
    (if_neg (fun h => absurd (f0.symm.trans h) (by decide))).trans <|
    (if_neg (fun h => absurd (f0.symm.trans h) (by decide))).trans <|
    (if_neg (fun h => absurd (f0.symm.trans h) (by decide))).trans <|
    (if_neg (fun h => absurd (f0.symm.trans h) (by decide))).trans <|
    (if_neg (fun h => absurd (f0.symm.trans h) (by decide))).trans <|
    (if_neg (fun h => absurd (f0.symm.trans h) (by decide))).trans <|
    (if_neg (fun h => absurd (f0.symm.trans h) (by decide))).trans <|
    (if_neg (fun h => absurd (f0.symm.trans h) (by decide))).trans <|
    (if_neg (fun h => absurd (f0.symm.trans h) (by decide))).trans <|
    (if_neg (fun h => absurd (f0.symm.trans h) (by decide))).trans <|
    (if_neg (fun h => absurd (f0.symm.trans h) (by decide))).trans <|
    (if_neg (fun h => absurd (f0.symm.trans h) (by decide))).trans <|
    (if_neg (fun h => absurd (f0.symm.trans h) (by decide))).trans <|
    (if_neg (fun h => absurd (f0.symm.trans h) (by decide))).trans <|
    (if_pos f0).trans ?_
  rw [show fld N 25 21 = d from fld_eq f5 rfl rfl,
    show fld N 20 16 = a from fld_eq f4 rfl rfl,
    show fld N 15 15 = w from fld_eq f3 rfl rfl,
    show fld N 14 10 = b from fld_eq f2 rfl rfl,
    show fld N 9 9 = x from fld_eq f1 rfl rfl]

theorem min (d : BitVec 5) (a : BitVec 5) (w : BitVec 1) (b : BitVec 5) (x : BitVec 1) : Statement (.min d a w b x) := by
  refine of_fields (n := 0x04000010 + put d 21 + put a 16 + put w 15 + put b 10 + put x 9) 1 (by decide) rfl fun N hN => ?_
  have hN : N = (((((1 * 32 + d.toNat) * 32 + a.toNat) * 2 + w.toNat) * 32 + b.toNat) * 2 + x.toNat) * 512 + 16 := by
    simp only [put, Nat.reducePow] at hN; omega
  obtain ⟨q0, f0⟩ := part_zero hN (by decide)
  obtain ⟨q1, f1⟩ := part q0 rfl x.isLt (show 512 * 2 = 1024 by decide)
  obtain ⟨q2, f2⟩ := part q1 rfl b.isLt (show 1024 * 32 = 32768 by decide)
  obtain ⟨q3, f3⟩ := part q2 rfl w.isLt (show 32768 * 2 = 65536 by decide)
  obtain ⟨q4, f4⟩ := part q3 rfl a.isLt (show 65536 * 32 = 2097152 by decide)
  obtain ⟨q5, f5⟩ := part q4 rfl d.isLt (show 2097152 * 32 = 67108864 by decide)
  refine ⟨q5, ?_⟩
  refine (if_neg (fun h => absurd (f0.symm.trans h) (by decide))).trans <|
    (if_neg (fun h => absurd (f0.symm.trans h) (by decide))).trans <|
    (if_neg (fun h => absurd (f0.symm.trans h) (by decide))).trans <|
    (if_neg (fun h => absurd (f0.symm.trans h) (by decide))).trans <|
    (if_neg (fun h => absurd (f0.symm.trans h) (by decide))).trans <|
    (if_neg (fun h => absurd (f0.symm.trans h) (by decide))).trans <|
    (if_neg (fun h => absurd (f0.symm.trans h) (by decide))).trans <|
    (if_neg (fun h => absurd (f0.symm.trans h) (by decide))).trans <|
    (if_neg (fun h => absurd (f0.symm.trans h) (by decide))).trans <|
    (if_neg (fun h => absurd (f0.symm.trans h) (by decide))).trans <|
    (if_neg (fun h => absurd (f0.symm.trans h) (by decide))).trans <|
    (if_neg (fun h => absurd (f0.symm.trans h) (by decide))).trans <|
    (if_neg (fun h => absurd (f0.symm.trans h) (by decide))).trans <|
    (if_neg (fun h => absurd (f0.symm.trans h) (by decide))).trans <|
    (if_neg (fun h => absurd (f0.symm.trans h) (by decide))).trans <|
    (if_neg (fun h => absurd (f0.symm.trans h) (by decide))).trans <|
    (if_pos f0).trans ?_
  rw [show fld N 25 21 = d from fld_eq f5 rfl rfl,
    show fld N 20 16 = a from fld_eq f4 rfl rfl,
    show fld N 15 15 = w from fld_eq f3 rfl rfl,
    show fld N 14 10 = b from fld_eq f2 rfl rfl,
    show fld N 9 9 = x from fld_eq f1 rfl rfl]

theorem max (d : BitVec 5) (a : BitVec 5) (w : BitVec 1) (b : BitVec 5) (x : BitVec 1) : Statement (.max d a w b x) := by
  refine of_fields (n := 0x04000011 + put d 21 + put a 16 + put w 15 + put b 10 + put x 9) 1 (by decide) rfl fun N hN => ?_
  have hN : N = (((((1 * 32 + d.toNat) * 32 + a.toNat) * 2 + w.toNat) * 32 + b.toNat) * 2 + x.toNat) * 512 + 17 := by
    simp only [put, Nat.reducePow] at hN; omega
  obtain ⟨q0, f0⟩ := part_zero hN (by decide)
  obtain ⟨q1, f1⟩ := part q0 rfl x.isLt (show 512 * 2 = 1024 by decide)
  obtain ⟨q2, f2⟩ := part q1 rfl b.isLt (show 1024 * 32 = 32768 by decide)
  obtain ⟨q3, f3⟩ := part q2 rfl w.isLt (show 32768 * 2 = 65536 by decide)
  obtain ⟨q4, f4⟩ := part q3 rfl a.isLt (show 65536 * 32 = 2097152 by decide)
  obtain ⟨q5, f5⟩ := part q4 rfl d.isLt (show 2097152 * 32 = 67108864 by decide)
  refine ⟨q5, ?_⟩
  refine (if_neg (fun h => absurd (f0.symm.trans h) (by decide))).trans <|
    (if_neg (fun h => absurd (f0.symm.trans h) (by decide))).trans <|
    (if_neg (fun h => absurd (f0.symm.trans h) (by decide))).trans <|
    (if_neg (fun h => absurd (f0.symm.trans h) (by decide))).trans <|
    (if_neg (fun h => absurd (f0.symm.trans h) (by decide))).trans <|
    (if_neg (fun h => absurd (f0.symm.trans h) (by decide))).trans <|
    (if_neg (fun h => absurd (f0.symm.trans h) (by decide))).trans <|
    (if_neg (fun h => absurd (f0.symm.trans h) (by decide))).trans <|
    (if_neg (fun h => absurd (f0.symm.trans h) (by decide))).trans <|
    (if_neg (fun h => absurd (f0.symm.trans h) (by decide))).trans <|
    (if_neg (fun h => absurd (f0.symm.trans h) (by decide))).trans <|
    (if_neg (fun h => absurd (f0.symm.trans h) (by decide))).trans <|
    (if_neg (fun h => absurd (f0.symm.trans h) (by decide))).trans <|
    (if_neg (fun h => absurd (f0.symm.trans h) (by decide))).trans <|
    (if_neg (fun h => absurd (f0.symm.trans h) (by decide))).trans <|
    (if_neg (fun h => absurd (f0.symm.trans h) (by decide))).trans <|
    (if_neg (fun h => absurd (f0.symm.trans h) (by decide))).trans <|
    (if_pos f0).trans ?_
  rw [show fld N 25 21 = d from fld_eq f5 rfl rfl,
    show fld N 20 16 = a from fld_eq f4 rfl rfl,
    show fld N 15 15 = w from fld_eq f3 rfl rfl,
    show fld N 14 10 = b from fld_eq f2 rfl rfl,
    show fld N 9 9 = x from fld_eq f1 rfl rfl]

theorem minu (d : BitVec 5) (a : BitVec 5) (w : BitVec 1) (b : BitVec 5) (x : BitVec 1) : Statement (.minu d a w b x) := by
  refine of_fields (n := 0x04000012 + put d 21 + put a 16 + put w 15 + put b 10 + put x 9) 1 (by decide) rfl fun N hN => ?_
  have hN : N = (((((1 * 32 + d.toNat) * 32 + a.toNat) * 2 + w.toNat) * 32 + b.toNat) * 2 + x.toNat) * 512 + 18 := by
    simp only [put, Nat.reducePow] at hN; omega
  obtain ⟨q0, f0⟩ := part_zero hN (by decide)
  obtain ⟨q1, f1⟩ := part q0 rfl x.isLt (show 512 * 2 = 1024 by decide)
  obtain ⟨q2, f2⟩ := part q1 rfl b.isLt (show 1024 * 32 = 32768 by decide)
  obtain ⟨q3, f3⟩ := part q2 rfl w.isLt (show 32768 * 2 = 65536 by decide)
  obtain ⟨q4, f4⟩ := part q3 rfl a.isLt (show 65536 * 32 = 2097152 by decide)
  obtain ⟨q5, f5⟩ := part q4 rfl d.isLt (show 2097152 * 32 = 67108864 by decide)
  refine ⟨q5, ?_⟩
  refine (if_neg (fun h => absurd (f0.symm.trans h) (by decide))).trans <|
    (if_neg (fun h => absurd (f0.symm.trans h) (by decide))).trans <|
    (if_neg (fun h => absurd (f0.symm.trans h) (by decide))).trans <|
    (if_neg (fun h => absurd (f0.symm.trans h) (by decide))).trans <|
    (if_neg (fun h => absurd (f0.symm.trans h) (by decide))).trans <|
    (if_neg (fun h => absurd (f0.symm.trans h) (by decide))).trans <|
    (if_neg (fun h => absurd (f0.symm.trans h) (by decide))).trans <|
    (if_neg (fun h => absurd (f0.symm.trans h) (by decide))).trans <|
    (if_neg (fun h => absurd (f0.symm.trans h) (by decide))).trans <|
    (if_neg (fun h => absurd (f0.symm.trans h) (by decide))).trans <|
    (if_neg (fun h => absurd (f0.symm.trans h) (by decide))).trans <|
    (if_neg (fun h => absurd (f0.symm.trans h) (by decide))).trans <|
    (if_neg (fun h => absurd (f0.symm.trans h) (by decide))).trans <|
    (if_neg (fun h => absurd (f0.symm.trans h) (by decide))).trans <|
    (if_neg (fun h => absurd (f0.symm.trans h) (by decide))).trans <|
    (if_neg (fun h => absurd (f0.symm.trans h) (by decide))).trans <|
    (if_neg (fun h => absurd (f0.symm.trans h) (by decide))).trans <|
    (if_neg (fun h => absurd (f0.symm.trans h) (by decide))).trans <|
    (if_pos f0).trans ?_
  rw [show fld N 25 21 = d from fld_eq f5 rfl rfl,
    show fld N 20 16 = a from fld_eq f4 rfl rfl,
    show fld N 15 15 = w from fld_eq f3 rfl rfl,
    show fld N 14 10 = b from fld_eq f2 rfl rfl,
    show fld N 9 9 = x from fld_eq f1 rfl rfl]

theorem maxu (d : BitVec 5) (a : BitVec 5) (w : BitVec 1) (b : BitVec 5) (x : BitVec 1) : Statement (.maxu d a w b x) := by
  refine of_fields (n := 0x04000013 + put d 21 + put a 16 + put w 15 + put b 10 + put x 9) 1 (by decide) rfl fun N hN => ?_
  have hN : N = (((((1 * 32 + d.toNat) * 32 + a.toNat) * 2 + w.toNat) * 32 + b.toNat) * 2 + x.toNat) * 512 + 19 := by
    simp only [put, Nat.reducePow] at hN; omega
  obtain ⟨q0, f0⟩ := part_zero hN (by decide)
  obtain ⟨q1, f1⟩ := part q0 rfl x.isLt (show 512 * 2 = 1024 by decide)
  obtain ⟨q2, f2⟩ := part q1 rfl b.isLt (show 1024 * 32 = 32768 by decide)
  obtain ⟨q3, f3⟩ := part q2 rfl w.isLt (show 32768 * 2 = 65536 by decide)
  obtain ⟨q4, f4⟩ := part q3 rfl a.isLt (show 65536 * 32 = 2097152 by decide)
  obtain ⟨q5, f5⟩ := part q4 rfl d.isLt (show 2097152 * 32 = 67108864 by decide)
  refine ⟨q5, ?_⟩
  refine (if_neg (fun h => absurd (f0.symm.trans h) (by decide))).trans <|
    (if_neg (fun h => absurd (f0.symm.trans h) (by decide))).trans <|
    (if_neg (fun h => absurd (f0.symm.trans h) (by decide))).trans <|
    (if_neg (fun h => absurd (f0.symm.trans h) (by decide))).trans <|
    (if_neg (fun h => absurd (f0.symm.trans h) (by decide))).trans <|
    (if_neg (fun h => absurd (f0.symm.trans h) (by decide))).trans <|
    (if_neg (fun h => absurd (f0.symm.trans h) (by decide))).trans <|
    (if_neg (fun h => absurd (f0.symm.trans h) (by decide))).trans <|
    (if_neg (fun h => absurd (f0.symm.trans h) (by decide))).trans <|
    (if_neg (fun h => absurd (f0.symm.trans h) (by decide))).trans <|
    (if_neg (fun h => absurd (f0.symm.trans h) (by decide))).trans <|
    (if_neg (fun h => absurd (f0.symm.trans h) (by decide))).trans <|
    (if_neg (fun h => absurd (f0.symm.trans h) (by decide))).trans <|
    (if_neg (fun h => absurd (f0.symm.trans h) (by decide))).trans <|
    (if_neg (fun h => absurd (f0.symm.trans h) (by decide))).trans <|
    (if_neg (fun h => absurd (f0.symm.trans h) (by decide))).trans <|
    (if_neg (fun h => absurd (f0.symm.trans h) (by decide))).trans <|
    (if_neg (fun h => absurd (f0.symm.trans h) (by decide))).trans <|
    (if_neg (fun h => absurd (f0.symm.trans h) (by decide))).trans <|
    (if_pos f0).trans ?_
  rw [show fld N 25 21 = d from fld_eq f5 rfl rfl,
    show fld N 20 16 = a from fld_eq f4 rfl rfl,
    show fld N 15 15 = w from fld_eq f3 rfl rfl,
    show fld N 14 10 = b from fld_eq f2 rfl rfl,
    show fld N 9 9 = x from fld_eq f1 rfl rfl]

theorem clz (d : BitVec 5) (a : BitVec 5) (w : BitVec 1) : Statement (.clz d a w) := by
  refine of_fields (n := 0x04000014 + put d 21 + put a 16 + put w 15) 1 (by decide) rfl fun N hN => ?_
  have hN : N = (((1 * 32 + d.toNat) * 32 + a.toNat) * 2 + w.toNat) * 32768 + 20 := by
    simp only [put, Nat.reducePow] at hN; omega
  obtain ⟨q0, f0⟩ := part_zero hN (by decide)
  obtain ⟨q1, f1⟩ := part q0 rfl w.isLt (show 32768 * 2 = 65536 by decide)
  obtain ⟨q2, f2⟩ := part q1 rfl a.isLt (show 65536 * 32 = 2097152 by decide)
  obtain ⟨q3, f3⟩ := part q2 rfl d.isLt (show 2097152 * 32 = 67108864 by decide)
  refine ⟨q3, ?_⟩
  refine (if_neg (by omega)).trans <|
    (if_neg (by omega)).trans <|
    (if_neg (by omega)).trans <|
    (if_neg (by omega)).trans <|
    (if_neg (by omega)).trans <|
    (if_neg (by omega)).trans <|
    (if_neg (by omega)).trans <|
    (if_neg (by omega)).trans <|
    (if_neg (by omega)).trans <|
    (if_neg (by omega)).trans <|
    (if_neg (by omega)).trans <|
    (if_neg (by omega)).trans <|
    (if_neg (by omega)).trans <|
    (if_neg (by omega)).trans <|
    (if_neg (by omega)).trans <|
    (if_neg (by omega)).trans <|
    (if_neg (by omega)).trans <|
    (if_neg (by omega)).trans <|
    (if_neg (by omega)).trans <|
    (if_neg (by omega)).trans <|
    (if_pos f0).trans ?_
  rw [show fld N 25 21 = d from fld_eq f3 rfl rfl,
    show fld N 20 16 = a from fld_eq f2 rfl rfl,
    show fld N 15 15 = w from fld_eq f1 rfl rfl]

theorem ctz (d : BitVec 5) (a : BitVec 5) (w : BitVec 1) : Statement (.ctz d a w) := by
  refine of_fields (n := 0x04000015 + put d 21 + put a 16 + put w 15) 1 (by decide) rfl fun N hN => ?_
  have hN : N = (((1 * 32 + d.toNat) * 32 + a.toNat) * 2 + w.toNat) * 32768 + 21 := by
    simp only [put, Nat.reducePow] at hN; omega
  obtain ⟨q0, f0⟩ := part_zero hN (by decide)
  obtain ⟨q1, f1⟩ := part q0 rfl w.isLt (show 32768 * 2 = 65536 by decide)
  obtain ⟨q2, f2⟩ := part q1 rfl a.isLt (show 65536 * 32 = 2097152 by decide)
  obtain ⟨q3, f3⟩ := part q2 rfl d.isLt (show 2097152 * 32 = 67108864 by decide)
  refine ⟨q3, ?_⟩
  refine (if_neg (by omega)).trans <|
    (if_neg (by omega)).trans <|
    (if_neg (by omega)).trans <|
    (if_neg (by omega)).trans <|
    (if_neg (by omega)).trans <|
    (if_neg (by omega)).trans <|
    (if_neg (by omega)).trans <|
    (if_neg (by omega)).trans <|
    (if_neg (by omega)).trans <|
    (if_neg (by omega)).trans <|
    (if_neg (by omega)).trans <|
    (if_neg (by omega)).trans <|
    (if_neg (by omega)).trans <|
    (if_neg (by omega)).trans <|
    (if_neg (by omega)).trans <|
    (if_neg (by omega)).trans <|
    (if_neg (by omega)).trans <|
    (if_neg (by omega)).trans <|
    (if_neg (by omega)).trans <|
    (if_neg (by omega)).trans <|
    (if_neg (fun h => absurd (f0.symm.trans h) (by decide))).trans <|
    (if_pos f0).trans ?_
  rw [show fld N 25 21 = d from fld_eq f3 rfl rfl,
    show fld N 20 16 = a from fld_eq f2 rfl rfl,
    show fld N 15 15 = w from fld_eq f1 rfl rfl]

theorem popc (d : BitVec 5) (a : BitVec 5) (w : BitVec 1) : Statement (.popc d a w) := by
  refine of_fields (n := 0x04000016 + put d 21 + put a 16 + put w 15) 1 (by decide) rfl fun N hN => ?_
  have hN : N = (((1 * 32 + d.toNat) * 32 + a.toNat) * 2 + w.toNat) * 32768 + 22 := by
    simp only [put, Nat.reducePow] at hN; omega
  obtain ⟨q0, f0⟩ := part_zero hN (by decide)
  obtain ⟨q1, f1⟩ := part q0 rfl w.isLt (show 32768 * 2 = 65536 by decide)
  obtain ⟨q2, f2⟩ := part q1 rfl a.isLt (show 65536 * 32 = 2097152 by decide)
  obtain ⟨q3, f3⟩ := part q2 rfl d.isLt (show 2097152 * 32 = 67108864 by decide)
  refine ⟨q3, ?_⟩
  refine (if_neg (by omega)).trans <|
    (if_neg (by omega)).trans <|
    (if_neg (by omega)).trans <|
    (if_neg (by omega)).trans <|
    (if_neg (by omega)).trans <|
    (if_neg (by omega)).trans <|
    (if_neg (by omega)).trans <|
    (if_neg (by omega)).trans <|
    (if_neg (by omega)).trans <|
    (if_neg (by omega)).trans <|
    (if_neg (by omega)).trans <|
    (if_neg (by omega)).trans <|
    (if_neg (by omega)).trans <|
    (if_neg (by omega)).trans <|
    (if_neg (by omega)).trans <|
    (if_neg (by omega)).trans <|
    (if_neg (by omega)).trans <|
    (if_neg (by omega)).trans <|
    (if_neg (by omega)).trans <|
    (if_neg (by omega)).trans <|
    (if_neg (fun h => absurd (f0.symm.trans h) (by decide))).trans <|
    (if_neg (fun h => absurd (f0.symm.trans h) (by decide))).trans <|
    (if_pos f0).trans ?_
  rw [show fld N 25 21 = d from fld_eq f3 rfl rfl,
    show fld N 20 16 = a from fld_eq f2 rfl rfl,
    show fld N 15 15 = w from fld_eq f1 rfl rfl]

theorem sext (d : BitVec 5) (a : BitVec 5) (w : BitVec 1) (n : BitVec 5) : Statement (.sext d a w n) := by
  refine of_fields (n := 0x04000017 + put d 21 + put a 16 + put w 15 + put n 10) 1 (by decide) rfl fun N hN => ?_
  have hN : N = ((((1 * 32 + d.toNat) * 32 + a.toNat) * 2 + w.toNat) * 32 + n.toNat) * 1024 + 23 := by
    simp only [put, Nat.reducePow] at hN; omega
  obtain ⟨q0, f0⟩ := part_zero hN (by decide)
  obtain ⟨q1, f1⟩ := part q0 rfl n.isLt (show 1024 * 32 = 32768 by decide)
  obtain ⟨q2, f2⟩ := part q1 rfl w.isLt (show 32768 * 2 = 65536 by decide)
  obtain ⟨q3, f3⟩ := part q2 rfl a.isLt (show 65536 * 32 = 2097152 by decide)
  obtain ⟨q4, f4⟩ := part q3 rfl d.isLt (show 2097152 * 32 = 67108864 by decide)
  refine ⟨q4, ?_⟩
  refine (if_neg (by omega)).trans <|
    (if_neg (by omega)).trans <|
    (if_neg (by omega)).trans <|
    (if_neg (by omega)).trans <|
    (if_neg (by omega)).trans <|
    (if_neg (by omega)).trans <|
    (if_neg (by omega)).trans <|
    (if_neg (by omega)).trans <|
    (if_neg (by omega)).trans <|
    (if_neg (by omega)).trans <|
    (if_neg (by omega)).trans <|
    (if_neg (by omega)).trans <|
    (if_neg (by omega)).trans <|
    (if_neg (by omega)).trans <|
    (if_neg (by omega)).trans <|
    (if_neg (by omega)).trans <|
    (if_neg (by omega)).trans <|
    (if_neg (by omega)).trans <|
    (if_neg (by omega)).trans <|
    (if_neg (by omega)).trans <|
    (if_neg (by omega)).trans <|
    (if_neg (by omega)).trans <|
    (if_neg (by omega)).trans <|
    (if_pos f0).trans ?_
  rw [show fld N 25 21 = d from fld_eq f4 rfl rfl,
    show fld N 20 16 = a from fld_eq f3 rfl rfl,
    show fld N 15 15 = w from fld_eq f2 rfl rfl,
    show fld N 14 10 = n from fld_eq f1 rfl rfl]

theorem selp (d : BitVec 5) (a : BitVec 5) (w : BitVec 1) (b : BitVec 5) (x : BitVec 1) (p : BitVec 4) : Statement (.selp d a w b x p) := by
  refine of_fields (n := 0x04000018 + put d 21 + put a 16 + put w 15 + put b 10 + put x 9 + put p 5) 1 (by decide) rfl fun N hN => ?_
  have hN : N = ((((((1 * 32 + d.toNat) * 32 + a.toNat) * 2 + w.toNat) * 32 + b.toNat) * 2 + x.toNat) * 16 + p.toNat) * 32 + 24 := by
    simp only [put, Nat.reducePow] at hN; omega
  obtain ⟨q0, f0⟩ := part_zero hN (by decide)
  obtain ⟨q1, f1⟩ := part q0 rfl p.isLt (show 32 * 16 = 512 by decide)
  obtain ⟨q2, f2⟩ := part q1 rfl x.isLt (show 512 * 2 = 1024 by decide)
  obtain ⟨q3, f3⟩ := part q2 rfl b.isLt (show 1024 * 32 = 32768 by decide)
  obtain ⟨q4, f4⟩ := part q3 rfl w.isLt (show 32768 * 2 = 65536 by decide)
  obtain ⟨q5, f5⟩ := part q4 rfl a.isLt (show 65536 * 32 = 2097152 by decide)
  obtain ⟨q6, f6⟩ := part q5 rfl d.isLt (show 2097152 * 32 = 67108864 by decide)
  refine ⟨q6, ?_⟩
  refine (if_neg (by omega)).trans <|
    (if_neg (by omega)).trans <|
    (if_neg (by omega)).trans <|
    (if_neg (by omega)).trans <|
    (if_neg (by omega)).trans <|
    (if_neg (by omega)).trans <|
    (if_neg (by omega)).trans <|
    (if_neg (by omega)).trans <|
    (if_neg (by omega)).trans <|
    (if_neg (by omega)).trans <|
    (if_neg (by omega)).trans <|
    (if_neg (by omega)).trans <|
    (if_neg (by omega)).trans <|
    (if_neg (by omega)).trans <|
    (if_neg (by omega)).trans <|
    (if_neg (by omega)).trans <|
    (if_neg (by omega)).trans <|
    (if_neg (by omega)).trans <|
    (if_neg (by omega)).trans <|
    (if_neg (by omega)).trans <|
    (if_neg (by omega)).trans <|
    (if_neg (by omega)).trans <|
    (if_neg (by omega)).trans <|
    (if_neg (by omega)).trans <|
    (if_pos f0).trans ?_
  rw [show fld N 25 21 = d from fld_eq f6 rfl rfl,
    show fld N 20 16 = a from fld_eq f5 rfl rfl,
    show fld N 15 15 = w from fld_eq f4 rfl rfl,
    show fld N 14 10 = b from fld_eq f3 rfl rfl,
    show fld N 9 9 = x from fld_eq f2 rfl rfl,
    show fld N 8 5 = p from fld_eq f1 rfl rfl]

theorem addi (d : BitVec 5) (a : BitVec 5) (w : BitVec 1) (i : BitVec 15) : Statement (.addi d a w i) := by
  refine of_fields (n := 0x08000000 + put d 21 + put a 16 + put w 15 + put i 0) 2 (by decide) rfl fun N hN => ?_
  have hN : N = (((2 * 32 + d.toNat) * 32 + a.toNat) * 2 + w.toNat) * 32768 + i.toNat := by
    simp only [put, Nat.reducePow] at hN; omega
  obtain ⟨q0, f0⟩ := part_zero hN i.isLt
  obtain ⟨q1, f1⟩ := part q0 rfl w.isLt (show 32768 * 2 = 65536 by decide)
  obtain ⟨q2, f2⟩ := part q1 rfl a.isLt (show 65536 * 32 = 2097152 by decide)
  obtain ⟨q3, f3⟩ := part q2 rfl d.isLt (show 2097152 * 32 = 67108864 by decide)
  refine ⟨q3, ?_⟩
  show decode02 N = _
  unfold decode02
  rw [show fld N 25 21 = d from fld_eq f3 rfl rfl,
    show fld N 20 16 = a from fld_eq f2 rfl rfl,
    show fld N 15 15 = w from fld_eq f1 rfl rfl,
    show fld N 14 0 = i from fld_zero f0 rfl]

theorem andi (d : BitVec 5) (a : BitVec 5) (w : BitVec 1) (i : BitVec 15) : Statement (.andi d a w i) := by
  refine of_fields (n := 0x0C000000 + put d 21 + put a 16 + put w 15 + put i 0) 3 (by decide) rfl fun N hN => ?_
  have hN : N = (((3 * 32 + d.toNat) * 32 + a.toNat) * 2 + w.toNat) * 32768 + i.toNat := by
    simp only [put, Nat.reducePow] at hN; omega
  obtain ⟨q0, f0⟩ := part_zero hN i.isLt
  obtain ⟨q1, f1⟩ := part q0 rfl w.isLt (show 32768 * 2 = 65536 by decide)
  obtain ⟨q2, f2⟩ := part q1 rfl a.isLt (show 65536 * 32 = 2097152 by decide)
  obtain ⟨q3, f3⟩ := part q2 rfl d.isLt (show 2097152 * 32 = 67108864 by decide)
  refine ⟨q3, ?_⟩
  show decode03 N = _
  unfold decode03
  rw [show fld N 25 21 = d from fld_eq f3 rfl rfl,
    show fld N 20 16 = a from fld_eq f2 rfl rfl,
    show fld N 15 15 = w from fld_eq f1 rfl rfl,
    show fld N 14 0 = i from fld_zero f0 rfl]

theorem ori (d : BitVec 5) (a : BitVec 5) (w : BitVec 1) (i : BitVec 15) : Statement (.ori d a w i) := by
  refine of_fields (n := 0x10000000 + put d 21 + put a 16 + put w 15 + put i 0) 4 (by decide) rfl fun N hN => ?_
  have hN : N = (((4 * 32 + d.toNat) * 32 + a.toNat) * 2 + w.toNat) * 32768 + i.toNat := by
    simp only [put, Nat.reducePow] at hN; omega
  obtain ⟨q0, f0⟩ := part_zero hN i.isLt
  obtain ⟨q1, f1⟩ := part q0 rfl w.isLt (show 32768 * 2 = 65536 by decide)
  obtain ⟨q2, f2⟩ := part q1 rfl a.isLt (show 65536 * 32 = 2097152 by decide)
  obtain ⟨q3, f3⟩ := part q2 rfl d.isLt (show 2097152 * 32 = 67108864 by decide)
  refine ⟨q3, ?_⟩
  show decode04 N = _
  unfold decode04
  rw [show fld N 25 21 = d from fld_eq f3 rfl rfl,
    show fld N 20 16 = a from fld_eq f2 rfl rfl,
    show fld N 15 15 = w from fld_eq f1 rfl rfl,
    show fld N 14 0 = i from fld_zero f0 rfl]

theorem xori (d : BitVec 5) (a : BitVec 5) (w : BitVec 1) (i : BitVec 15) : Statement (.xori d a w i) := by
  refine of_fields (n := 0x14000000 + put d 21 + put a 16 + put w 15 + put i 0) 5 (by decide) rfl fun N hN => ?_
  have hN : N = (((5 * 32 + d.toNat) * 32 + a.toNat) * 2 + w.toNat) * 32768 + i.toNat := by
    simp only [put, Nat.reducePow] at hN; omega
  obtain ⟨q0, f0⟩ := part_zero hN i.isLt
  obtain ⟨q1, f1⟩ := part q0 rfl w.isLt (show 32768 * 2 = 65536 by decide)
  obtain ⟨q2, f2⟩ := part q1 rfl a.isLt (show 65536 * 32 = 2097152 by decide)
  obtain ⟨q3, f3⟩ := part q2 rfl d.isLt (show 2097152 * 32 = 67108864 by decide)
  refine ⟨q3, ?_⟩
  show decode05 N = _
  unfold decode05
  rw [show fld N 25 21 = d from fld_eq f3 rfl rfl,
    show fld N 20 16 = a from fld_eq f2 rfl rfl,
    show fld N 15 15 = w from fld_eq f1 rfl rfl,
    show fld N 14 0 = i from fld_zero f0 rfl]

theorem shli (d : BitVec 5) (a : BitVec 5) (w : BitVec 1) (n : BitVec 6) : Statement (.shli d a w n) := by
  refine of_fields (n := 0x18000000 + put d 21 + put a 16 + put w 15 + put n 0) 6 (by decide) rfl fun N hN => ?_
  have hN : N = ((((6 * 32 + d.toNat) * 32 + a.toNat) * 2 + w.toNat) * 512 + 0) * 64 + n.toNat := by
    simp only [put, Nat.reducePow] at hN; omega
  obtain ⟨q0, f0⟩ := part_zero hN n.isLt
  obtain ⟨q1, f1⟩ := part q0 rfl (by decide) (show 64 * 512 = 32768 by decide)
  obtain ⟨q2, f2⟩ := part q1 rfl w.isLt (show 32768 * 2 = 65536 by decide)
  obtain ⟨q3, f3⟩ := part q2 rfl a.isLt (show 65536 * 32 = 2097152 by decide)
  obtain ⟨q4, f4⟩ := part q3 rfl d.isLt (show 2097152 * 32 = 67108864 by decide)
  refine ⟨q4, ?_⟩
  refine (if_pos f1).trans ?_
  rw [show fld N 25 21 = d from fld_eq f4 rfl rfl,
    show fld N 20 16 = a from fld_eq f3 rfl rfl,
    show fld N 15 15 = w from fld_eq f2 rfl rfl,
    show fld N 5 0 = n from fld_zero f0 rfl]

theorem shri (d : BitVec 5) (a : BitVec 5) (w : BitVec 1) (n : BitVec 6) : Statement (.shri d a w n) := by
  refine of_fields (n := 0x18001000 + put d 21 + put a 16 + put w 15 + put n 0) 6 (by decide) rfl fun N hN => ?_
  have hN : N = ((((6 * 32 + d.toNat) * 32 + a.toNat) * 2 + w.toNat) * 512 + 64) * 64 + n.toNat := by
    simp only [put, Nat.reducePow] at hN; omega
  obtain ⟨q0, f0⟩ := part_zero hN n.isLt
  obtain ⟨q1, f1⟩ := part q0 rfl (by decide) (show 64 * 512 = 32768 by decide)
  obtain ⟨q2, f2⟩ := part q1 rfl w.isLt (show 32768 * 2 = 65536 by decide)
  obtain ⟨q3, f3⟩ := part q2 rfl a.isLt (show 65536 * 32 = 2097152 by decide)
  obtain ⟨q4, f4⟩ := part q3 rfl d.isLt (show 2097152 * 32 = 67108864 by decide)
  refine ⟨q4, ?_⟩
  refine (if_neg (fun h => absurd (f1.symm.trans h) (by decide))).trans <|
    (if_pos f1).trans ?_
  rw [show fld N 25 21 = d from fld_eq f4 rfl rfl,
    show fld N 20 16 = a from fld_eq f3 rfl rfl,
    show fld N 15 15 = w from fld_eq f2 rfl rfl,
    show fld N 5 0 = n from fld_zero f0 rfl]

theorem srai (d : BitVec 5) (a : BitVec 5) (w : BitVec 1) (n : BitVec 6) : Statement (.srai d a w n) := by
  refine of_fields (n := 0x18002000 + put d 21 + put a 16 + put w 15 + put n 0) 6 (by decide) rfl fun N hN => ?_
  have hN : N = ((((6 * 32 + d.toNat) * 32 + a.toNat) * 2 + w.toNat) * 512 + 128) * 64 + n.toNat := by
    simp only [put, Nat.reducePow] at hN; omega
  obtain ⟨q0, f0⟩ := part_zero hN n.isLt
  obtain ⟨q1, f1⟩ := part q0 rfl (by decide) (show 64 * 512 = 32768 by decide)
  obtain ⟨q2, f2⟩ := part q1 rfl w.isLt (show 32768 * 2 = 65536 by decide)
  obtain ⟨q3, f3⟩ := part q2 rfl a.isLt (show 65536 * 32 = 2097152 by decide)
  obtain ⟨q4, f4⟩ := part q3 rfl d.isLt (show 2097152 * 32 = 67108864 by decide)
  refine ⟨q4, ?_⟩
  refine (if_neg (fun h => absurd (f1.symm.trans h) (by decide))).trans <|
    (if_neg (fun h => absurd (f1.symm.trans h) (by decide))).trans <|
    (if_pos f1).trans ?_
  rw [show fld N 25 21 = d from fld_eq f4 rfl rfl,
    show fld N 20 16 = a from fld_eq f3 rfl rfl,
    show fld N 15 15 = w from fld_eq f2 rfl rfl,
    show fld N 5 0 = n from fld_zero f0 rfl]

theorem pcmpi (p : BitVec 4) (a : BitVec 5) (w : BitVec 1) (c : BitVec 3) (i : BitVec 12) : Statement (.pcmpi p a w c i) := by
  refine of_fields (n := 0x1C000000 + put p 21 + put a 16 + put w 15 + put c 12 + put i 0) 7 (by decide) rfl fun N hN => ?_
  have hN : N = (((((7 * 2 + 0) * 16 + p.toNat) * 32 + a.toNat) * 2 + w.toNat) * 8 + c.toNat) * 4096 + i.toNat := by
    simp only [put, Nat.reducePow] at hN; omega
  obtain ⟨q0, f0⟩ := part_zero hN i.isLt
  obtain ⟨q1, f1⟩ := part q0 rfl c.isLt (show 4096 * 8 = 32768 by decide)
  obtain ⟨q2, f2⟩ := part q1 rfl w.isLt (show 32768 * 2 = 65536 by decide)
  obtain ⟨q3, f3⟩ := part q2 rfl a.isLt (show 65536 * 32 = 2097152 by decide)
  obtain ⟨q4, f4⟩ := part q3 rfl p.isLt (show 2097152 * 16 = 33554432 by decide)
  obtain ⟨q5, f5⟩ := part q4 rfl (by decide) (show 33554432 * 2 = 67108864 by decide)
  refine ⟨q5, ?_⟩
  refine (if_pos f5).trans ?_
  rw [show fld N 24 21 = p from fld_eq f4 rfl rfl,
    show fld N 20 16 = a from fld_eq f3 rfl rfl,
    show fld N 15 15 = w from fld_eq f2 rfl rfl,
    show fld N 14 12 = c from fld_eq f1 rfl rfl,
    show fld N 11 0 = i from fld_zero f0 rfl]

theorem li (d : BitVec 5) (i : BitVec 21) : Statement (.li d i) := by
  refine of_fields (n := 0x20000000 + put d 21 + put i 0) 8 (by decide) rfl fun N hN => ?_
  have hN : N = (8 * 32 + d.toNat) * 2097152 + i.toNat := by
    simp only [put, Nat.reducePow] at hN; omega
  obtain ⟨q0, f0⟩ := part_zero hN i.isLt
  obtain ⟨q1, f1⟩ := part q0 rfl d.isLt (show 2097152 * 32 = 67108864 by decide)
  refine ⟨q1, ?_⟩
  show decode08 N = _
  unfold decode08
  rw [show fld N 25 21 = d from fld_eq f1 rfl rfl,
    show fld N 20 0 = i from fld_zero f0 rfl]

theorem lih (d : BitVec 5) (i : BitVec 21) : Statement (.lih d i) := by
  refine of_fields (n := 0x24000000 + put d 21 + put i 0) 9 (by decide) rfl fun N hN => ?_
  have hN : N = (9 * 32 + d.toNat) * 2097152 + i.toNat := by
    simp only [put, Nat.reducePow] at hN; omega
  obtain ⟨q0, f0⟩ := part_zero hN i.isLt
  obtain ⟨q1, f1⟩ := part q0 rfl d.isLt (show 2097152 * 32 = 67108864 by decide)
  refine ⟨q1, ?_⟩
  show decode09 N = _
  unfold decode09
  rw [show fld N 25 21 = d from fld_eq f1 rfl rfl,
    show fld N 20 0 = i from fld_zero f0 rfl]

theorem pcmp (p : BitVec 4) (a : BitVec 5) (w : BitVec 1) (b : BitVec 5) (x : BitVec 1) (m : BitVec 2) (c : BitVec 3) : Statement (.pcmp p a w b x m c) := by
  refine of_fields (n := 0x28000000 + put p 21 + put a 16 + put w 15 + put b 10 + put x 9 + put m 3 + put c 0) 10 (by decide) rfl fun N hN => ?_
  have hN : N = ((((((((10 * 2 + 0) * 16 + p.toNat) * 32 + a.toNat) * 2 + w.toNat) * 32 + b.toNat) * 2 + x.toNat) * 16 + 0) * 4 + m.toNat) * 8 + c.toNat := by
    simp only [put, Nat.reducePow] at hN; omega
  obtain ⟨q0, f0⟩ := part_zero hN c.isLt
  obtain ⟨q1, f1⟩ := part q0 rfl m.isLt (show 8 * 4 = 32 by decide)
  obtain ⟨q2, f2⟩ := part q1 rfl (by decide) (show 32 * 16 = 512 by decide)
  obtain ⟨q3, f3⟩ := part q2 rfl x.isLt (show 512 * 2 = 1024 by decide)
  obtain ⟨q4, f4⟩ := part q3 rfl b.isLt (show 1024 * 32 = 32768 by decide)
  obtain ⟨q5, f5⟩ := part q4 rfl w.isLt (show 32768 * 2 = 65536 by decide)
  obtain ⟨q6, f6⟩ := part q5 rfl a.isLt (show 65536 * 32 = 2097152 by decide)
  obtain ⟨q7, f7⟩ := part q6 rfl p.isLt (show 2097152 * 16 = 33554432 by decide)
  obtain ⟨q8, f8⟩ := part q7 rfl (by decide) (show 33554432 * 2 = 67108864 by decide)
  refine ⟨q8, ?_⟩
  refine (if_pos ⟨f2, f8⟩).trans ?_
  rw [show fld N 24 21 = p from fld_eq f7 rfl rfl,
    show fld N 20 16 = a from fld_eq f6 rfl rfl,
    show fld N 15 15 = w from fld_eq f5 rfl rfl,
    show fld N 14 10 = b from fld_eq f4 rfl rfl,
    show fld N 9 9 = x from fld_eq f3 rfl rfl,
    show fld N 4 3 = m from fld_eq f1 rfl rfl,
    show fld N 2 0 = c from fld_zero f0 rfl]

theorem pand (d : BitVec 4) (a : BitVec 4) (b : BitVec 4) : Statement (.pand d a b) := by
  refine of_fields (n := 0x2C000000 + put d 21 + put a 16 + put b 10) 11 (by decide) rfl fun N hN => ?_
  have hN : N = ((((((11 * 2 + 0) * 16 + d.toNat) * 2 + 0) * 16 + a.toNat) * 4 + 0) * 16 + b.toNat) * 1024 + 0 := by
    simp only [put, Nat.reducePow] at hN; omega
  obtain ⟨q0, f0⟩ := part_zero hN (by decide)
  obtain ⟨q1, f1⟩ := part q0 rfl b.isLt (show 1024 * 16 = 16384 by decide)
  obtain ⟨q2, f2⟩ := part q1 rfl (by decide) (show 16384 * 4 = 65536 by decide)
  obtain ⟨q3, f3⟩ := part q2 rfl a.isLt (show 65536 * 16 = 1048576 by decide)
  obtain ⟨q4, f4⟩ := part q3 rfl (by decide) (show 1048576 * 2 = 2097152 by decide)
  obtain ⟨q5, f5⟩ := part q4 rfl d.isLt (show 2097152 * 16 = 33554432 by decide)
  obtain ⟨q6, f6⟩ := part q5 rfl (by decide) (show 33554432 * 2 = 67108864 by decide)
  refine ⟨q6, ?_⟩
  refine (if_pos ⟨f0, f2, f4, f6⟩).trans ?_
  rw [show fld N 24 21 = d from fld_eq f5 rfl rfl,
    show fld N 19 16 = a from fld_eq f3 rfl rfl,
    show fld N 13 10 = b from fld_eq f1 rfl rfl]

theorem por (d : BitVec 4) (a : BitVec 4) (b : BitVec 4) : Statement (.por d a b) := by
  refine of_fields (n := 0x2C000001 + put d 21 + put a 16 + put b 10) 11 (by decide) rfl fun N hN => ?_
  have hN : N = ((((((11 * 2 + 0) * 16 + d.toNat) * 2 + 0) * 16 + a.toNat) * 4 + 0) * 16 + b.toNat) * 1024 + 1 := by
    simp only [put, Nat.reducePow] at hN; omega
  obtain ⟨q0, f0⟩ := part_zero hN (by decide)
  obtain ⟨q1, f1⟩ := part q0 rfl b.isLt (show 1024 * 16 = 16384 by decide)
  obtain ⟨q2, f2⟩ := part q1 rfl (by decide) (show 16384 * 4 = 65536 by decide)
  obtain ⟨q3, f3⟩ := part q2 rfl a.isLt (show 65536 * 16 = 1048576 by decide)
  obtain ⟨q4, f4⟩ := part q3 rfl (by decide) (show 1048576 * 2 = 2097152 by decide)
  obtain ⟨q5, f5⟩ := part q4 rfl d.isLt (show 2097152 * 16 = 33554432 by decide)
  obtain ⟨q6, f6⟩ := part q5 rfl (by decide) (show 33554432 * 2 = 67108864 by decide)
  refine ⟨q6, ?_⟩
  refine (if_neg (fun h => absurd (f0.symm.trans h.1) (by decide))).trans <|
    (if_pos ⟨f0, f2, f4, f6⟩).trans ?_
  rw [show fld N 24 21 = d from fld_eq f5 rfl rfl,
    show fld N 19 16 = a from fld_eq f3 rfl rfl,
    show fld N 13 10 = b from fld_eq f1 rfl rfl]

theorem pxor (d : BitVec 4) (a : BitVec 4) (b : BitVec 4) : Statement (.pxor d a b) := by
  refine of_fields (n := 0x2C000002 + put d 21 + put a 16 + put b 10) 11 (by decide) rfl fun N hN => ?_
  have hN : N = ((((((11 * 2 + 0) * 16 + d.toNat) * 2 + 0) * 16 + a.toNat) * 4 + 0) * 16 + b.toNat) * 1024 + 2 := by
    simp only [put, Nat.reducePow] at hN; omega
  obtain ⟨q0, f0⟩ := part_zero hN (by decide)
  obtain ⟨q1, f1⟩ := part q0 rfl b.isLt (show 1024 * 16 = 16384 by decide)
  obtain ⟨q2, f2⟩ := part q1 rfl (by decide) (show 16384 * 4 = 65536 by decide)
  obtain ⟨q3, f3⟩ := part q2 rfl a.isLt (show 65536 * 16 = 1048576 by decide)
  obtain ⟨q4, f4⟩ := part q3 rfl (by decide) (show 1048576 * 2 = 2097152 by decide)
  obtain ⟨q5, f5⟩ := part q4 rfl d.isLt (show 2097152 * 16 = 33554432 by decide)
  obtain ⟨q6, f6⟩ := part q5 rfl (by decide) (show 33554432 * 2 = 67108864 by decide)
  refine ⟨q6, ?_⟩
  refine (if_neg (fun h => absurd (f0.symm.trans h.1) (by decide))).trans <|
    (if_neg (fun h => absurd (f0.symm.trans h.1) (by decide))).trans <|
    (if_pos ⟨f0, f2, f4, f6⟩).trans ?_
  rw [show fld N 24 21 = d from fld_eq f5 rfl rfl,
    show fld N 19 16 = a from fld_eq f3 rfl rfl,
    show fld N 13 10 = b from fld_eq f1 rfl rfl]

theorem pnot (d : BitVec 4) (a : BitVec 4) : Statement (.pnot d a) := by
  refine of_fields (n := 0x2C000003 + put d 21 + put a 16) 11 (by decide) rfl fun N hN => ?_
  have hN : N = ((((11 * 2 + 0) * 16 + d.toNat) * 2 + 0) * 16 + a.toNat) * 65536 + 3 := by
    simp only [put, Nat.reducePow] at hN; omega
  obtain ⟨q0, f0⟩ := part_zero hN (by decide)
  obtain ⟨q1, f1⟩ := part q0 rfl a.isLt (show 65536 * 16 = 1048576 by decide)
  obtain ⟨q2, f2⟩ := part q1 rfl (by decide) (show 1048576 * 2 = 2097152 by decide)
  obtain ⟨q3, f3⟩ := part q2 rfl d.isLt (show 2097152 * 16 = 33554432 by decide)
  obtain ⟨q4, f4⟩ := part q3 rfl (by decide) (show 33554432 * 2 = 67108864 by decide)
  refine ⟨q4, ?_⟩
  refine (if_neg (by omega)).trans <|
    (if_neg (by omega)).trans <|
    (if_neg (by omega)).trans <|
    (if_pos ⟨f0, f2, f4⟩).trans ?_
  rw [show fld N 24 21 = d from fld_eq f3 rfl rfl,
    show fld N 19 16 = a from fld_eq f1 rfl rfl]

theorem pmovs (d : BitVec 5) : Statement (.pmovs d) := by
  refine of_fields (n := 0x2C000004 + put d 21) 11 (by decide) rfl fun N hN => ?_
  have hN : N = (11 * 32 + d.toNat) * 2097152 + 4 := by
    simp only [put, Nat.reducePow] at hN; omega
  obtain ⟨q0, f0⟩ := part_zero hN (by decide)
  obtain ⟨q1, f1⟩ := part q0 rfl d.isLt (show 2097152 * 32 = 67108864 by decide)
  refine ⟨q1, ?_⟩
  refine (if_neg (by omega)).trans <|
    (if_neg (by omega)).trans <|
    (if_neg (by omega)).trans <|
    (if_neg (by omega)).trans <|
    (if_pos f0).trans ?_
  rw [show fld N 25 21 = d from fld_eq f1 rfl rfl]

theorem smovp (a : BitVec 5) (w : BitVec 1) : Statement (.smovp a w) := by
  refine of_fields (n := 0x2C000005 + put a 16 + put w 15) 11 (by decide) rfl fun N hN => ?_
  have hN : N = (((11 * 32 + 0) * 32 + a.toNat) * 2 + w.toNat) * 32768 + 5 := by
    simp only [put, Nat.reducePow] at hN; omega
  obtain ⟨q0, f0⟩ := part_zero hN (by decide)
  obtain ⟨q1, f1⟩ := part q0 rfl w.isLt (show 32768 * 2 = 65536 by decide)
  obtain ⟨q2, f2⟩ := part q1 rfl a.isLt (show 65536 * 32 = 2097152 by decide)
  obtain ⟨q3, f3⟩ := part q2 rfl (by decide) (show 2097152 * 32 = 67108864 by decide)
  refine ⟨q3, ?_⟩
  refine (if_neg (by omega)).trans <|
    (if_neg (by omega)).trans <|
    (if_neg (by omega)).trans <|
    (if_neg (by omega)).trans <|
    (if_neg (by omega)).trans <|
    (if_pos ⟨f0, f3⟩).trans ?_
  rw [show fld N 20 16 = a from fld_eq f2 rfl rfl,
    show fld N 15 15 = w from fld_eq f1 rfl rfl]

theorem br (p : BitVec 4) (n : BitVec 1) (o : BitVec 21) : Statement (.br p n o) := by
  refine of_fields (n := 0x30000000 + put p 22 + put n 21 + put o 0) 12 (by decide) rfl fun N hN => ?_
  have hN : N = ((12 * 16 + p.toNat) * 2 + n.toNat) * 2097152 + o.toNat := by
    simp only [put, Nat.reducePow] at hN; omega
  obtain ⟨q0, f0⟩ := part_zero hN o.isLt
  obtain ⟨q1, f1⟩ := part q0 rfl n.isLt (show 2097152 * 2 = 4194304 by decide)
  obtain ⟨q2, f2⟩ := part q1 rfl p.isLt (show 4194304 * 16 = 67108864 by decide)
  refine ⟨q2, ?_⟩
  show decode0C N = _
  unfold decode0C
  rw [show fld N 25 22 = p from fld_eq f2 rfl rfl,
    show fld N 21 21 = n from fld_eq f1 rfl rfl,
    show fld N 20 0 = o from fld_zero f0 rfl]

theorem jmp (o : BitVec 26) : Statement (.jmp o) := by
  refine of_fields (n := 0x34000000 + put o 0) 13 (by decide) rfl fun N hN => ?_
  have hN : N = 13 * 67108864 + o.toNat := by
    simp only [put, Nat.reducePow] at hN; omega
  obtain ⟨q0, f0⟩ := part_zero hN o.isLt
  refine ⟨q0, ?_⟩
  show decode0D N = _
  unfold decode0D
  rw [show fld N 25 0 = o from fld_zero f0 rfl]

theorem jal (o : BitVec 26) : Statement (.jal o) := by
  refine of_fields (n := 0x38000000 + put o 0) 14 (by decide) rfl fun N hN => ?_
  have hN : N = 14 * 67108864 + o.toNat := by
    simp only [put, Nat.reducePow] at hN; omega
  obtain ⟨q0, f0⟩ := part_zero hN o.isLt
  refine ⟨q0, ?_⟩
  show decode0E N = _
  unfold decode0E
  rw [show fld N 25 0 = o from fld_zero f0 rfl]

theorem jalr (d : BitVec 5) (a : BitVec 5) (w : BitVec 1) (i : BitVec 15) : Statement (.jalr d a w i) := by
  refine of_fields (n := 0x3C000000 + put d 21 + put a 16 + put w 15 + put i 0) 15 (by decide) rfl fun N hN => ?_
  have hN : N = (((15 * 32 + d.toNat) * 32 + a.toNat) * 2 + w.toNat) * 32768 + i.toNat := by
    simp only [put, Nat.reducePow] at hN; omega
  obtain ⟨q0, f0⟩ := part_zero hN i.isLt
  obtain ⟨q1, f1⟩ := part q0 rfl w.isLt (show 32768 * 2 = 65536 by decide)
  obtain ⟨q2, f2⟩ := part q1 rfl a.isLt (show 65536 * 32 = 2097152 by decide)
  obtain ⟨q3, f3⟩ := part q2 rfl d.isLt (show 2097152 * 32 = 67108864 by decide)
  refine ⟨q3, ?_⟩
  show decode0F N = _
  unfold decode0F
  rw [show fld N 25 21 = d from fld_eq f3 rfl rfl,
    show fld N 20 16 = a from fld_eq f2 rfl rfl,
    show fld N 15 15 = w from fld_eq f1 rfl rfl,
    show fld N 14 0 = i from fld_zero f0 rfl]

theorem ld (d : BitVec 5) (c : BitVec 4) (a : BitVec 5) (w : BitVec 1) (z : BitVec 2) (h : BitVec 1) (o : BitVec 6) : Statement (.ld d c a w z h o) := by
  refine of_fields (n := 0x40000000 + put d 21 + put c 17 + put a 12 + put w 11 + put z 9 + put h 6 + put o 0) 16 (by decide) rfl fun N hN => ?_
  have hN : N = (((((((16 * 32 + d.toNat) * 16 + c.toNat) * 32 + a.toNat) * 2 + w.toNat) * 4 + z.toNat) * 4 + 0) * 2 + h.toNat) * 64 + o.toNat := by
    simp only [put, Nat.reducePow] at hN; omega
  obtain ⟨q0, f0⟩ := part_zero hN o.isLt
  obtain ⟨q1, f1⟩ := part q0 rfl h.isLt (show 64 * 2 = 128 by decide)
  obtain ⟨q2, f2⟩ := part q1 rfl (by decide) (show 128 * 4 = 512 by decide)
  obtain ⟨q3, f3⟩ := part q2 rfl z.isLt (show 512 * 4 = 2048 by decide)
  obtain ⟨q4, f4⟩ := part q3 rfl w.isLt (show 2048 * 2 = 4096 by decide)
  obtain ⟨q5, f5⟩ := part q4 rfl a.isLt (show 4096 * 32 = 131072 by decide)
  obtain ⟨q6, f6⟩ := part q5 rfl c.isLt (show 131072 * 16 = 2097152 by decide)
  obtain ⟨q7, f7⟩ := part q6 rfl d.isLt (show 2097152 * 32 = 67108864 by decide)
  refine ⟨q7, ?_⟩
  refine (if_pos f2).trans ?_
  rw [show fld N 25 21 = d from fld_eq f7 rfl rfl,
    show fld N 20 17 = c from fld_eq f6 rfl rfl,
    show fld N 16 12 = a from fld_eq f5 rfl rfl,
    show fld N 11 11 = w from fld_eq f4 rfl rfl,
    show fld N 10 9 = z from fld_eq f3 rfl rfl,
    show fld N 6 6 = h from fld_eq f1 rfl rfl,
    show fld N 5 0 = o from fld_zero f0 rfl]

theorem ldu (d : BitVec 5) (c : BitVec 4) (a : BitVec 5) (w : BitVec 1) (z : BitVec 2) (h : BitVec 1) (o : BitVec 6) : Statement (.ldu d c a w z h o) := by
  refine of_fields (n := 0x44000000 + put d 21 + put c 17 + put a 12 + put w 11 + put z 9 + put h 6 + put o 0) 17 (by decide) rfl fun N hN => ?_
  have hN : N = (((((((17 * 32 + d.toNat) * 16 + c.toNat) * 32 + a.toNat) * 2 + w.toNat) * 4 + z.toNat) * 4 + 0) * 2 + h.toNat) * 64 + o.toNat := by
    simp only [put, Nat.reducePow] at hN; omega
  obtain ⟨q0, f0⟩ := part_zero hN o.isLt
  obtain ⟨q1, f1⟩ := part q0 rfl h.isLt (show 64 * 2 = 128 by decide)
  obtain ⟨q2, f2⟩ := part q1 rfl (by decide) (show 128 * 4 = 512 by decide)
  obtain ⟨q3, f3⟩ := part q2 rfl z.isLt (show 512 * 4 = 2048 by decide)
  obtain ⟨q4, f4⟩ := part q3 rfl w.isLt (show 2048 * 2 = 4096 by decide)
  obtain ⟨q5, f5⟩ := part q4 rfl a.isLt (show 4096 * 32 = 131072 by decide)
  obtain ⟨q6, f6⟩ := part q5 rfl c.isLt (show 131072 * 16 = 2097152 by decide)
  obtain ⟨q7, f7⟩ := part q6 rfl d.isLt (show 2097152 * 32 = 67108864 by decide)
  refine ⟨q7, ?_⟩
  refine (if_pos f2).trans ?_
  rw [show fld N 25 21 = d from fld_eq f7 rfl rfl,
    show fld N 20 17 = c from fld_eq f6 rfl rfl,
    show fld N 16 12 = a from fld_eq f5 rfl rfl,
    show fld N 11 11 = w from fld_eq f4 rfl rfl,
    show fld N 10 9 = z from fld_eq f3 rfl rfl,
    show fld N 6 6 = h from fld_eq f1 rfl rfl,
    show fld N 5 0 = o from fld_zero f0 rfl]

theorem st (d : BitVec 5) (c : BitVec 4) (a : BitVec 5) (w : BitVec 1) (z : BitVec 2) (o : BitVec 6) : Statement (.st d c a w z o) := by
  refine of_fields (n := 0x48000000 + put d 21 + put c 17 + put a 12 + put w 11 + put z 9 + put o 0) 18 (by decide) rfl fun N hN => ?_
  have hN : N = ((((((18 * 32 + d.toNat) * 16 + c.toNat) * 32 + a.toNat) * 2 + w.toNat) * 4 + z.toNat) * 8 + 0) * 64 + o.toNat := by
    simp only [put, Nat.reducePow] at hN; omega
  obtain ⟨q0, f0⟩ := part_zero hN o.isLt
  obtain ⟨q1, f1⟩ := part q0 rfl (by decide) (show 64 * 8 = 512 by decide)
  obtain ⟨q2, f2⟩ := part q1 rfl z.isLt (show 512 * 4 = 2048 by decide)
  obtain ⟨q3, f3⟩ := part q2 rfl w.isLt (show 2048 * 2 = 4096 by decide)
  obtain ⟨q4, f4⟩ := part q3 rfl a.isLt (show 4096 * 32 = 131072 by decide)
  obtain ⟨q5, f5⟩ := part q4 rfl c.isLt (show 131072 * 16 = 2097152 by decide)
  obtain ⟨q6, f6⟩ := part q5 rfl d.isLt (show 2097152 * 32 = 67108864 by decide)
  refine ⟨q6, ?_⟩
  refine (if_pos f1).trans ?_
  rw [show fld N 25 21 = d from fld_eq f6 rfl rfl,
    show fld N 20 17 = c from fld_eq f5 rfl rfl,
    show fld N 16 12 = a from fld_eq f4 rfl rfl,
    show fld N 11 11 = w from fld_eq f3 rfl rfl,
    show fld N 10 9 = z from fld_eq f2 rfl rfl,
    show fld N 5 0 = o from fld_zero f0 rfl]

theorem ldacq (d : BitVec 5) (c : BitVec 4) (a : BitVec 5) (w : BitVec 1) (z : BitVec 2) (s : BitVec 2) (h : BitVec 1) (o : BitVec 6) : Statement (.ldacq d c a w z s h o) := by
  refine of_fields (n := 0x4C000000 + put d 21 + put c 17 + put a 12 + put w 11 + put z 9 + put s 7 + put h 6 + put o 0) 19 (by decide) rfl fun N hN => ?_
  have hN : N = (((((((19 * 32 + d.toNat) * 16 + c.toNat) * 32 + a.toNat) * 2 + w.toNat) * 4 + z.toNat) * 4 + s.toNat) * 2 + h.toNat) * 64 + o.toNat := by
    simp only [put, Nat.reducePow] at hN; omega
  obtain ⟨q0, f0⟩ := part_zero hN o.isLt
  obtain ⟨q1, f1⟩ := part q0 rfl h.isLt (show 64 * 2 = 128 by decide)
  obtain ⟨q2, f2⟩ := part q1 rfl s.isLt (show 128 * 4 = 512 by decide)
  obtain ⟨q3, f3⟩ := part q2 rfl z.isLt (show 512 * 4 = 2048 by decide)
  obtain ⟨q4, f4⟩ := part q3 rfl w.isLt (show 2048 * 2 = 4096 by decide)
  obtain ⟨q5, f5⟩ := part q4 rfl a.isLt (show 4096 * 32 = 131072 by decide)
  obtain ⟨q6, f6⟩ := part q5 rfl c.isLt (show 131072 * 16 = 2097152 by decide)
  obtain ⟨q7, f7⟩ := part q6 rfl d.isLt (show 2097152 * 32 = 67108864 by decide)
  refine ⟨q7, ?_⟩
  show decode13 N = _
  unfold decode13
  rw [show fld N 25 21 = d from fld_eq f7 rfl rfl,
    show fld N 20 17 = c from fld_eq f6 rfl rfl,
    show fld N 16 12 = a from fld_eq f5 rfl rfl,
    show fld N 11 11 = w from fld_eq f4 rfl rfl,
    show fld N 10 9 = z from fld_eq f3 rfl rfl,
    show fld N 8 7 = s from fld_eq f2 rfl rfl,
    show fld N 6 6 = h from fld_eq f1 rfl rfl,
    show fld N 5 0 = o from fld_zero f0 rfl]

theorem strel (d : BitVec 5) (c : BitVec 4) (a : BitVec 5) (w : BitVec 1) (z : BitVec 2) (s : BitVec 2) (o : BitVec 6) : Statement (.strel d c a w z s o) := by
  refine of_fields (n := 0x50000000 + put d 21 + put c 17 + put a 12 + put w 11 + put z 9 + put s 7 + put o 0) 20 (by decide) rfl fun N hN => ?_
  have hN : N = (((((((20 * 32 + d.toNat) * 16 + c.toNat) * 32 + a.toNat) * 2 + w.toNat) * 4 + z.toNat) * 4 + s.toNat) * 2 + 0) * 64 + o.toNat := by
    simp only [put, Nat.reducePow] at hN; omega
  obtain ⟨q0, f0⟩ := part_zero hN o.isLt
  obtain ⟨q1, f1⟩ := part q0 rfl (by decide) (show 64 * 2 = 128 by decide)
  obtain ⟨q2, f2⟩ := part q1 rfl s.isLt (show 128 * 4 = 512 by decide)
  obtain ⟨q3, f3⟩ := part q2 rfl z.isLt (show 512 * 4 = 2048 by decide)
  obtain ⟨q4, f4⟩ := part q3 rfl w.isLt (show 2048 * 2 = 4096 by decide)
  obtain ⟨q5, f5⟩ := part q4 rfl a.isLt (show 4096 * 32 = 131072 by decide)
  obtain ⟨q6, f6⟩ := part q5 rfl c.isLt (show 131072 * 16 = 2097152 by decide)
  obtain ⟨q7, f7⟩ := part q6 rfl d.isLt (show 2097152 * 32 = 67108864 by decide)
  refine ⟨q7, ?_⟩
  refine (if_pos f1).trans ?_
  rw [show fld N 25 21 = d from fld_eq f7 rfl rfl,
    show fld N 20 17 = c from fld_eq f6 rfl rfl,
    show fld N 16 12 = a from fld_eq f5 rfl rfl,
    show fld N 11 11 = w from fld_eq f4 rfl rfl,
    show fld N 10 9 = z from fld_eq f3 rfl rfl,
    show fld N 8 7 = s from fld_eq f2 rfl rfl,
    show fld N 5 0 = o from fld_zero f0 rfl]

theorem amoaddW (d : BitVec 5) (c : BitVec 4) (a : BitVec 5) (v : BitVec 5) (s : BitVec 2) (o : BitVec 1) : Statement (.amoaddW d c a v s o) := by
  refine of_fields (n := 0x54000000 + put d 21 + put c 17 + put a 12 + put v 7 + put s 1 + put o 0) 21 (by decide) rfl fun N hN => ?_
  have hN : N = ((((((21 * 32 + d.toNat) * 16 + c.toNat) * 32 + a.toNat) * 32 + v.toNat) * 16 + 0) * 4 + s.toNat) * 2 + o.toNat := by
    simp only [put, Nat.reducePow] at hN; omega
  obtain ⟨q0, f0⟩ := part_zero hN o.isLt
  obtain ⟨q1, f1⟩ := part q0 rfl s.isLt (show 2 * 4 = 8 by decide)
  obtain ⟨q2, f2⟩ := part q1 rfl (by decide) (show 8 * 16 = 128 by decide)
  obtain ⟨q3, f3⟩ := part q2 rfl v.isLt (show 128 * 32 = 4096 by decide)
  obtain ⟨q4, f4⟩ := part q3 rfl a.isLt (show 4096 * 32 = 131072 by decide)
  obtain ⟨q5, f5⟩ := part q4 rfl c.isLt (show 131072 * 16 = 2097152 by decide)
  obtain ⟨q6, f6⟩ := part q5 rfl d.isLt (show 2097152 * 32 = 67108864 by decide)
  refine ⟨q6, ?_⟩
  refine (if_pos f2).trans ?_
  rw [show fld N 25 21 = d from fld_eq f6 rfl rfl,
    show fld N 20 17 = c from fld_eq f5 rfl rfl,
    show fld N 16 12 = a from fld_eq f4 rfl rfl,
    show fld N 11 7 = v from fld_eq f3 rfl rfl,
    show fld N 2 1 = s from fld_eq f1 rfl rfl,
    show fld N 0 0 = o from fld_zero f0 rfl]

theorem amoandW (d : BitVec 5) (c : BitVec 4) (a : BitVec 5) (v : BitVec 5) (s : BitVec 2) (o : BitVec 1) : Statement (.amoandW d c a v s o) := by
  refine of_fields (n := 0x54000008 + put d 21 + put c 17 + put a 12 + put v 7 + put s 1 + put o 0) 21 (by decide) rfl fun N hN => ?_
  have hN : N = ((((((21 * 32 + d.toNat) * 16 + c.toNat) * 32 + a.toNat) * 32 + v.toNat) * 16 + 1) * 4 + s.toNat) * 2 + o.toNat := by
    simp only [put, Nat.reducePow] at hN; omega
  obtain ⟨q0, f0⟩ := part_zero hN o.isLt
  obtain ⟨q1, f1⟩ := part q0 rfl s.isLt (show 2 * 4 = 8 by decide)
  obtain ⟨q2, f2⟩ := part q1 rfl (by decide) (show 8 * 16 = 128 by decide)
  obtain ⟨q3, f3⟩ := part q2 rfl v.isLt (show 128 * 32 = 4096 by decide)
  obtain ⟨q4, f4⟩ := part q3 rfl a.isLt (show 4096 * 32 = 131072 by decide)
  obtain ⟨q5, f5⟩ := part q4 rfl c.isLt (show 131072 * 16 = 2097152 by decide)
  obtain ⟨q6, f6⟩ := part q5 rfl d.isLt (show 2097152 * 32 = 67108864 by decide)
  refine ⟨q6, ?_⟩
  refine (if_neg (fun h => absurd (f2.symm.trans h) (by decide))).trans <|
    (if_pos f2).trans ?_
  rw [show fld N 25 21 = d from fld_eq f6 rfl rfl,
    show fld N 20 17 = c from fld_eq f5 rfl rfl,
    show fld N 16 12 = a from fld_eq f4 rfl rfl,
    show fld N 11 7 = v from fld_eq f3 rfl rfl,
    show fld N 2 1 = s from fld_eq f1 rfl rfl,
    show fld N 0 0 = o from fld_zero f0 rfl]

theorem amoorW (d : BitVec 5) (c : BitVec 4) (a : BitVec 5) (v : BitVec 5) (s : BitVec 2) (o : BitVec 1) : Statement (.amoorW d c a v s o) := by
  refine of_fields (n := 0x54000010 + put d 21 + put c 17 + put a 12 + put v 7 + put s 1 + put o 0) 21 (by decide) rfl fun N hN => ?_
  have hN : N = ((((((21 * 32 + d.toNat) * 16 + c.toNat) * 32 + a.toNat) * 32 + v.toNat) * 16 + 2) * 4 + s.toNat) * 2 + o.toNat := by
    simp only [put, Nat.reducePow] at hN; omega
  obtain ⟨q0, f0⟩ := part_zero hN o.isLt
  obtain ⟨q1, f1⟩ := part q0 rfl s.isLt (show 2 * 4 = 8 by decide)
  obtain ⟨q2, f2⟩ := part q1 rfl (by decide) (show 8 * 16 = 128 by decide)
  obtain ⟨q3, f3⟩ := part q2 rfl v.isLt (show 128 * 32 = 4096 by decide)
  obtain ⟨q4, f4⟩ := part q3 rfl a.isLt (show 4096 * 32 = 131072 by decide)
  obtain ⟨q5, f5⟩ := part q4 rfl c.isLt (show 131072 * 16 = 2097152 by decide)
  obtain ⟨q6, f6⟩ := part q5 rfl d.isLt (show 2097152 * 32 = 67108864 by decide)
  refine ⟨q6, ?_⟩
  refine (if_neg (fun h => absurd (f2.symm.trans h) (by decide))).trans <|
    (if_neg (fun h => absurd (f2.symm.trans h) (by decide))).trans <|
    (if_pos f2).trans ?_
  rw [show fld N 25 21 = d from fld_eq f6 rfl rfl,
    show fld N 20 17 = c from fld_eq f5 rfl rfl,
    show fld N 16 12 = a from fld_eq f4 rfl rfl,
    show fld N 11 7 = v from fld_eq f3 rfl rfl,
    show fld N 2 1 = s from fld_eq f1 rfl rfl,
    show fld N 0 0 = o from fld_zero f0 rfl]

theorem amoxorW (d : BitVec 5) (c : BitVec 4) (a : BitVec 5) (v : BitVec 5) (s : BitVec 2) (o : BitVec 1) : Statement (.amoxorW d c a v s o) := by
  refine of_fields (n := 0x54000018 + put d 21 + put c 17 + put a 12 + put v 7 + put s 1 + put o 0) 21 (by decide) rfl fun N hN => ?_
  have hN : N = ((((((21 * 32 + d.toNat) * 16 + c.toNat) * 32 + a.toNat) * 32 + v.toNat) * 16 + 3) * 4 + s.toNat) * 2 + o.toNat := by
    simp only [put, Nat.reducePow] at hN; omega
  obtain ⟨q0, f0⟩ := part_zero hN o.isLt
  obtain ⟨q1, f1⟩ := part q0 rfl s.isLt (show 2 * 4 = 8 by decide)
  obtain ⟨q2, f2⟩ := part q1 rfl (by decide) (show 8 * 16 = 128 by decide)
  obtain ⟨q3, f3⟩ := part q2 rfl v.isLt (show 128 * 32 = 4096 by decide)
  obtain ⟨q4, f4⟩ := part q3 rfl a.isLt (show 4096 * 32 = 131072 by decide)
  obtain ⟨q5, f5⟩ := part q4 rfl c.isLt (show 131072 * 16 = 2097152 by decide)
  obtain ⟨q6, f6⟩ := part q5 rfl d.isLt (show 2097152 * 32 = 67108864 by decide)
  refine ⟨q6, ?_⟩
  refine (if_neg (fun h => absurd (f2.symm.trans h) (by decide))).trans <|
    (if_neg (fun h => absurd (f2.symm.trans h) (by decide))).trans <|
    (if_neg (fun h => absurd (f2.symm.trans h) (by decide))).trans <|
    (if_pos f2).trans ?_
  rw [show fld N 25 21 = d from fld_eq f6 rfl rfl,
    show fld N 20 17 = c from fld_eq f5 rfl rfl,
    show fld N 16 12 = a from fld_eq f4 rfl rfl,
    show fld N 11 7 = v from fld_eq f3 rfl rfl,
    show fld N 2 1 = s from fld_eq f1 rfl rfl,
    show fld N 0 0 = o from fld_zero f0 rfl]

theorem amominW (d : BitVec 5) (c : BitVec 4) (a : BitVec 5) (v : BitVec 5) (s : BitVec 2) (o : BitVec 1) : Statement (.amominW d c a v s o) := by
  refine of_fields (n := 0x54000020 + put d 21 + put c 17 + put a 12 + put v 7 + put s 1 + put o 0) 21 (by decide) rfl fun N hN => ?_
  have hN : N = ((((((21 * 32 + d.toNat) * 16 + c.toNat) * 32 + a.toNat) * 32 + v.toNat) * 16 + 4) * 4 + s.toNat) * 2 + o.toNat := by
    simp only [put, Nat.reducePow] at hN; omega
  obtain ⟨q0, f0⟩ := part_zero hN o.isLt
  obtain ⟨q1, f1⟩ := part q0 rfl s.isLt (show 2 * 4 = 8 by decide)
  obtain ⟨q2, f2⟩ := part q1 rfl (by decide) (show 8 * 16 = 128 by decide)
  obtain ⟨q3, f3⟩ := part q2 rfl v.isLt (show 128 * 32 = 4096 by decide)
  obtain ⟨q4, f4⟩ := part q3 rfl a.isLt (show 4096 * 32 = 131072 by decide)
  obtain ⟨q5, f5⟩ := part q4 rfl c.isLt (show 131072 * 16 = 2097152 by decide)
  obtain ⟨q6, f6⟩ := part q5 rfl d.isLt (show 2097152 * 32 = 67108864 by decide)
  refine ⟨q6, ?_⟩
  refine (if_neg (fun h => absurd (f2.symm.trans h) (by decide))).trans <|
    (if_neg (fun h => absurd (f2.symm.trans h) (by decide))).trans <|
    (if_neg (fun h => absurd (f2.symm.trans h) (by decide))).trans <|
    (if_neg (fun h => absurd (f2.symm.trans h) (by decide))).trans <|
    (if_pos f2).trans ?_
  rw [show fld N 25 21 = d from fld_eq f6 rfl rfl,
    show fld N 20 17 = c from fld_eq f5 rfl rfl,
    show fld N 16 12 = a from fld_eq f4 rfl rfl,
    show fld N 11 7 = v from fld_eq f3 rfl rfl,
    show fld N 2 1 = s from fld_eq f1 rfl rfl,
    show fld N 0 0 = o from fld_zero f0 rfl]

theorem amomaxW (d : BitVec 5) (c : BitVec 4) (a : BitVec 5) (v : BitVec 5) (s : BitVec 2) (o : BitVec 1) : Statement (.amomaxW d c a v s o) := by
  refine of_fields (n := 0x54000028 + put d 21 + put c 17 + put a 12 + put v 7 + put s 1 + put o 0) 21 (by decide) rfl fun N hN => ?_
  have hN : N = ((((((21 * 32 + d.toNat) * 16 + c.toNat) * 32 + a.toNat) * 32 + v.toNat) * 16 + 5) * 4 + s.toNat) * 2 + o.toNat := by
    simp only [put, Nat.reducePow] at hN; omega
  obtain ⟨q0, f0⟩ := part_zero hN o.isLt
  obtain ⟨q1, f1⟩ := part q0 rfl s.isLt (show 2 * 4 = 8 by decide)
  obtain ⟨q2, f2⟩ := part q1 rfl (by decide) (show 8 * 16 = 128 by decide)
  obtain ⟨q3, f3⟩ := part q2 rfl v.isLt (show 128 * 32 = 4096 by decide)
  obtain ⟨q4, f4⟩ := part q3 rfl a.isLt (show 4096 * 32 = 131072 by decide)
  obtain ⟨q5, f5⟩ := part q4 rfl c.isLt (show 131072 * 16 = 2097152 by decide)
  obtain ⟨q6, f6⟩ := part q5 rfl d.isLt (show 2097152 * 32 = 67108864 by decide)
  refine ⟨q6, ?_⟩
  refine (if_neg (fun h => absurd (f2.symm.trans h) (by decide))).trans <|
    (if_neg (fun h => absurd (f2.symm.trans h) (by decide))).trans <|
    (if_neg (fun h => absurd (f2.symm.trans h) (by decide))).trans <|
    (if_neg (fun h => absurd (f2.symm.trans h) (by decide))).trans <|
    (if_neg (fun h => absurd (f2.symm.trans h) (by decide))).trans <|
    (if_pos f2).trans ?_
  rw [show fld N 25 21 = d from fld_eq f6 rfl rfl,
    show fld N 20 17 = c from fld_eq f5 rfl rfl,
    show fld N 16 12 = a from fld_eq f4 rfl rfl,
    show fld N 11 7 = v from fld_eq f3 rfl rfl,
    show fld N 2 1 = s from fld_eq f1 rfl rfl,
    show fld N 0 0 = o from fld_zero f0 rfl]

theorem amominuW (d : BitVec 5) (c : BitVec 4) (a : BitVec 5) (v : BitVec 5) (s : BitVec 2) (o : BitVec 1) : Statement (.amominuW d c a v s o) := by
  refine of_fields (n := 0x54000030 + put d 21 + put c 17 + put a 12 + put v 7 + put s 1 + put o 0) 21 (by decide) rfl fun N hN => ?_
  have hN : N = ((((((21 * 32 + d.toNat) * 16 + c.toNat) * 32 + a.toNat) * 32 + v.toNat) * 16 + 6) * 4 + s.toNat) * 2 + o.toNat := by
    simp only [put, Nat.reducePow] at hN; omega
  obtain ⟨q0, f0⟩ := part_zero hN o.isLt
  obtain ⟨q1, f1⟩ := part q0 rfl s.isLt (show 2 * 4 = 8 by decide)
  obtain ⟨q2, f2⟩ := part q1 rfl (by decide) (show 8 * 16 = 128 by decide)
  obtain ⟨q3, f3⟩ := part q2 rfl v.isLt (show 128 * 32 = 4096 by decide)
  obtain ⟨q4, f4⟩ := part q3 rfl a.isLt (show 4096 * 32 = 131072 by decide)
  obtain ⟨q5, f5⟩ := part q4 rfl c.isLt (show 131072 * 16 = 2097152 by decide)
  obtain ⟨q6, f6⟩ := part q5 rfl d.isLt (show 2097152 * 32 = 67108864 by decide)
  refine ⟨q6, ?_⟩
  refine (if_neg (fun h => absurd (f2.symm.trans h) (by decide))).trans <|
    (if_neg (fun h => absurd (f2.symm.trans h) (by decide))).trans <|
    (if_neg (fun h => absurd (f2.symm.trans h) (by decide))).trans <|
    (if_neg (fun h => absurd (f2.symm.trans h) (by decide))).trans <|
    (if_neg (fun h => absurd (f2.symm.trans h) (by decide))).trans <|
    (if_neg (fun h => absurd (f2.symm.trans h) (by decide))).trans <|
    (if_pos f2).trans ?_
  rw [show fld N 25 21 = d from fld_eq f6 rfl rfl,
    show fld N 20 17 = c from fld_eq f5 rfl rfl,
    show fld N 16 12 = a from fld_eq f4 rfl rfl,
    show fld N 11 7 = v from fld_eq f3 rfl rfl,
    show fld N 2 1 = s from fld_eq f1 rfl rfl,
    show fld N 0 0 = o from fld_zero f0 rfl]

theorem amomaxuW (d : BitVec 5) (c : BitVec 4) (a : BitVec 5) (v : BitVec 5) (s : BitVec 2) (o : BitVec 1) : Statement (.amomaxuW d c a v s o) := by
  refine of_fields (n := 0x54000038 + put d 21 + put c 17 + put a 12 + put v 7 + put s 1 + put o 0) 21 (by decide) rfl fun N hN => ?_
  have hN : N = ((((((21 * 32 + d.toNat) * 16 + c.toNat) * 32 + a.toNat) * 32 + v.toNat) * 16 + 7) * 4 + s.toNat) * 2 + o.toNat := by
    simp only [put, Nat.reducePow] at hN; omega
  obtain ⟨q0, f0⟩ := part_zero hN o.isLt
  obtain ⟨q1, f1⟩ := part q0 rfl s.isLt (show 2 * 4 = 8 by decide)
  obtain ⟨q2, f2⟩ := part q1 rfl (by decide) (show 8 * 16 = 128 by decide)
  obtain ⟨q3, f3⟩ := part q2 rfl v.isLt (show 128 * 32 = 4096 by decide)
  obtain ⟨q4, f4⟩ := part q3 rfl a.isLt (show 4096 * 32 = 131072 by decide)
  obtain ⟨q5, f5⟩ := part q4 rfl c.isLt (show 131072 * 16 = 2097152 by decide)
  obtain ⟨q6, f6⟩ := part q5 rfl d.isLt (show 2097152 * 32 = 67108864 by decide)
  refine ⟨q6, ?_⟩
  refine (if_neg (fun h => absurd (f2.symm.trans h) (by decide))).trans <|
    (if_neg (fun h => absurd (f2.symm.trans h) (by decide))).trans <|
    (if_neg (fun h => absurd (f2.symm.trans h) (by decide))).trans <|
    (if_neg (fun h => absurd (f2.symm.trans h) (by decide))).trans <|
    (if_neg (fun h => absurd (f2.symm.trans h) (by decide))).trans <|
    (if_neg (fun h => absurd (f2.symm.trans h) (by decide))).trans <|
    (if_neg (fun h => absurd (f2.symm.trans h) (by decide))).trans <|
    (if_pos f2).trans ?_
  rw [show fld N 25 21 = d from fld_eq f6 rfl rfl,
    show fld N 20 17 = c from fld_eq f5 rfl rfl,
    show fld N 16 12 = a from fld_eq f4 rfl rfl,
    show fld N 11 7 = v from fld_eq f3 rfl rfl,
    show fld N 2 1 = s from fld_eq f1 rfl rfl,
    show fld N 0 0 = o from fld_zero f0 rfl]

theorem amoswapW (d : BitVec 5) (c : BitVec 4) (a : BitVec 5) (v : BitVec 5) (s : BitVec 2) (o : BitVec 1) : Statement (.amoswapW d c a v s o) := by
  refine of_fields (n := 0x54000040 + put d 21 + put c 17 + put a 12 + put v 7 + put s 1 + put o 0) 21 (by decide) rfl fun N hN => ?_
  have hN : N = ((((((21 * 32 + d.toNat) * 16 + c.toNat) * 32 + a.toNat) * 32 + v.toNat) * 16 + 8) * 4 + s.toNat) * 2 + o.toNat := by
    simp only [put, Nat.reducePow] at hN; omega
  obtain ⟨q0, f0⟩ := part_zero hN o.isLt
  obtain ⟨q1, f1⟩ := part q0 rfl s.isLt (show 2 * 4 = 8 by decide)
  obtain ⟨q2, f2⟩ := part q1 rfl (by decide) (show 8 * 16 = 128 by decide)
  obtain ⟨q3, f3⟩ := part q2 rfl v.isLt (show 128 * 32 = 4096 by decide)
  obtain ⟨q4, f4⟩ := part q3 rfl a.isLt (show 4096 * 32 = 131072 by decide)
  obtain ⟨q5, f5⟩ := part q4 rfl c.isLt (show 131072 * 16 = 2097152 by decide)
  obtain ⟨q6, f6⟩ := part q5 rfl d.isLt (show 2097152 * 32 = 67108864 by decide)
  refine ⟨q6, ?_⟩
  refine (if_neg (fun h => absurd (f2.symm.trans h) (by decide))).trans <|
    (if_neg (fun h => absurd (f2.symm.trans h) (by decide))).trans <|
    (if_neg (fun h => absurd (f2.symm.trans h) (by decide))).trans <|
    (if_neg (fun h => absurd (f2.symm.trans h) (by decide))).trans <|
    (if_neg (fun h => absurd (f2.symm.trans h) (by decide))).trans <|
    (if_neg (fun h => absurd (f2.symm.trans h) (by decide))).trans <|
    (if_neg (fun h => absurd (f2.symm.trans h) (by decide))).trans <|
    (if_neg (fun h => absurd (f2.symm.trans h) (by decide))).trans <|
    (if_pos f2).trans ?_
  rw [show fld N 25 21 = d from fld_eq f6 rfl rfl,
    show fld N 20 17 = c from fld_eq f5 rfl rfl,
    show fld N 16 12 = a from fld_eq f4 rfl rfl,
    show fld N 11 7 = v from fld_eq f3 rfl rfl,
    show fld N 2 1 = s from fld_eq f1 rfl rfl,
    show fld N 0 0 = o from fld_zero f0 rfl]

theorem amofaddW (d : BitVec 5) (c : BitVec 4) (a : BitVec 5) (v : BitVec 5) (s : BitVec 2) (o : BitVec 1) : Statement (.amofaddW d c a v s o) := by
  refine of_fields (n := 0x54000048 + put d 21 + put c 17 + put a 12 + put v 7 + put s 1 + put o 0) 21 (by decide) rfl fun N hN => ?_
  have hN : N = ((((((21 * 32 + d.toNat) * 16 + c.toNat) * 32 + a.toNat) * 32 + v.toNat) * 16 + 9) * 4 + s.toNat) * 2 + o.toNat := by
    simp only [put, Nat.reducePow] at hN; omega
  obtain ⟨q0, f0⟩ := part_zero hN o.isLt
  obtain ⟨q1, f1⟩ := part q0 rfl s.isLt (show 2 * 4 = 8 by decide)
  obtain ⟨q2, f2⟩ := part q1 rfl (by decide) (show 8 * 16 = 128 by decide)
  obtain ⟨q3, f3⟩ := part q2 rfl v.isLt (show 128 * 32 = 4096 by decide)
  obtain ⟨q4, f4⟩ := part q3 rfl a.isLt (show 4096 * 32 = 131072 by decide)
  obtain ⟨q5, f5⟩ := part q4 rfl c.isLt (show 131072 * 16 = 2097152 by decide)
  obtain ⟨q6, f6⟩ := part q5 rfl d.isLt (show 2097152 * 32 = 67108864 by decide)
  refine ⟨q6, ?_⟩
  refine (if_neg (fun h => absurd (f2.symm.trans h) (by decide))).trans <|
    (if_neg (fun h => absurd (f2.symm.trans h) (by decide))).trans <|
    (if_neg (fun h => absurd (f2.symm.trans h) (by decide))).trans <|
    (if_neg (fun h => absurd (f2.symm.trans h) (by decide))).trans <|
    (if_neg (fun h => absurd (f2.symm.trans h) (by decide))).trans <|
    (if_neg (fun h => absurd (f2.symm.trans h) (by decide))).trans <|
    (if_neg (fun h => absurd (f2.symm.trans h) (by decide))).trans <|
    (if_neg (fun h => absurd (f2.symm.trans h) (by decide))).trans <|
    (if_neg (fun h => absurd (f2.symm.trans h) (by decide))).trans <|
    (if_pos f2).trans ?_
  rw [show fld N 25 21 = d from fld_eq f6 rfl rfl,
    show fld N 20 17 = c from fld_eq f5 rfl rfl,
    show fld N 16 12 = a from fld_eq f4 rfl rfl,
    show fld N 11 7 = v from fld_eq f3 rfl rfl,
    show fld N 2 1 = s from fld_eq f1 rfl rfl,
    show fld N 0 0 = o from fld_zero f0 rfl]

theorem amoaddD (d : BitVec 5) (c : BitVec 4) (a : BitVec 5) (v : BitVec 5) (s : BitVec 2) (o : BitVec 1) : Statement (.amoaddD d c a v s o) := by
  refine of_fields (n := 0x58000000 + put d 21 + put c 17 + put a 12 + put v 7 + put s 1 + put o 0) 22 (by decide) rfl fun N hN => ?_
  have hN : N = ((((((22 * 32 + d.toNat) * 16 + c.toNat) * 32 + a.toNat) * 32 + v.toNat) * 16 + 0) * 4 + s.toNat) * 2 + o.toNat := by
    simp only [put, Nat.reducePow] at hN; omega
  obtain ⟨q0, f0⟩ := part_zero hN o.isLt
  obtain ⟨q1, f1⟩ := part q0 rfl s.isLt (show 2 * 4 = 8 by decide)
  obtain ⟨q2, f2⟩ := part q1 rfl (by decide) (show 8 * 16 = 128 by decide)
  obtain ⟨q3, f3⟩ := part q2 rfl v.isLt (show 128 * 32 = 4096 by decide)
  obtain ⟨q4, f4⟩ := part q3 rfl a.isLt (show 4096 * 32 = 131072 by decide)
  obtain ⟨q5, f5⟩ := part q4 rfl c.isLt (show 131072 * 16 = 2097152 by decide)
  obtain ⟨q6, f6⟩ := part q5 rfl d.isLt (show 2097152 * 32 = 67108864 by decide)
  refine ⟨q6, ?_⟩
  refine (if_pos f2).trans ?_
  rw [show fld N 25 21 = d from fld_eq f6 rfl rfl,
    show fld N 20 17 = c from fld_eq f5 rfl rfl,
    show fld N 16 12 = a from fld_eq f4 rfl rfl,
    show fld N 11 7 = v from fld_eq f3 rfl rfl,
    show fld N 2 1 = s from fld_eq f1 rfl rfl,
    show fld N 0 0 = o from fld_zero f0 rfl]

theorem amoandD (d : BitVec 5) (c : BitVec 4) (a : BitVec 5) (v : BitVec 5) (s : BitVec 2) (o : BitVec 1) : Statement (.amoandD d c a v s o) := by
  refine of_fields (n := 0x58000008 + put d 21 + put c 17 + put a 12 + put v 7 + put s 1 + put o 0) 22 (by decide) rfl fun N hN => ?_
  have hN : N = ((((((22 * 32 + d.toNat) * 16 + c.toNat) * 32 + a.toNat) * 32 + v.toNat) * 16 + 1) * 4 + s.toNat) * 2 + o.toNat := by
    simp only [put, Nat.reducePow] at hN; omega
  obtain ⟨q0, f0⟩ := part_zero hN o.isLt
  obtain ⟨q1, f1⟩ := part q0 rfl s.isLt (show 2 * 4 = 8 by decide)
  obtain ⟨q2, f2⟩ := part q1 rfl (by decide) (show 8 * 16 = 128 by decide)
  obtain ⟨q3, f3⟩ := part q2 rfl v.isLt (show 128 * 32 = 4096 by decide)
  obtain ⟨q4, f4⟩ := part q3 rfl a.isLt (show 4096 * 32 = 131072 by decide)
  obtain ⟨q5, f5⟩ := part q4 rfl c.isLt (show 131072 * 16 = 2097152 by decide)
  obtain ⟨q6, f6⟩ := part q5 rfl d.isLt (show 2097152 * 32 = 67108864 by decide)
  refine ⟨q6, ?_⟩
  refine (if_neg (fun h => absurd (f2.symm.trans h) (by decide))).trans <|
    (if_pos f2).trans ?_
  rw [show fld N 25 21 = d from fld_eq f6 rfl rfl,
    show fld N 20 17 = c from fld_eq f5 rfl rfl,
    show fld N 16 12 = a from fld_eq f4 rfl rfl,
    show fld N 11 7 = v from fld_eq f3 rfl rfl,
    show fld N 2 1 = s from fld_eq f1 rfl rfl,
    show fld N 0 0 = o from fld_zero f0 rfl]

theorem amoorD (d : BitVec 5) (c : BitVec 4) (a : BitVec 5) (v : BitVec 5) (s : BitVec 2) (o : BitVec 1) : Statement (.amoorD d c a v s o) := by
  refine of_fields (n := 0x58000010 + put d 21 + put c 17 + put a 12 + put v 7 + put s 1 + put o 0) 22 (by decide) rfl fun N hN => ?_
  have hN : N = ((((((22 * 32 + d.toNat) * 16 + c.toNat) * 32 + a.toNat) * 32 + v.toNat) * 16 + 2) * 4 + s.toNat) * 2 + o.toNat := by
    simp only [put, Nat.reducePow] at hN; omega
  obtain ⟨q0, f0⟩ := part_zero hN o.isLt
  obtain ⟨q1, f1⟩ := part q0 rfl s.isLt (show 2 * 4 = 8 by decide)
  obtain ⟨q2, f2⟩ := part q1 rfl (by decide) (show 8 * 16 = 128 by decide)
  obtain ⟨q3, f3⟩ := part q2 rfl v.isLt (show 128 * 32 = 4096 by decide)
  obtain ⟨q4, f4⟩ := part q3 rfl a.isLt (show 4096 * 32 = 131072 by decide)
  obtain ⟨q5, f5⟩ := part q4 rfl c.isLt (show 131072 * 16 = 2097152 by decide)
  obtain ⟨q6, f6⟩ := part q5 rfl d.isLt (show 2097152 * 32 = 67108864 by decide)
  refine ⟨q6, ?_⟩
  refine (if_neg (fun h => absurd (f2.symm.trans h) (by decide))).trans <|
    (if_neg (fun h => absurd (f2.symm.trans h) (by decide))).trans <|
    (if_pos f2).trans ?_
  rw [show fld N 25 21 = d from fld_eq f6 rfl rfl,
    show fld N 20 17 = c from fld_eq f5 rfl rfl,
    show fld N 16 12 = a from fld_eq f4 rfl rfl,
    show fld N 11 7 = v from fld_eq f3 rfl rfl,
    show fld N 2 1 = s from fld_eq f1 rfl rfl,
    show fld N 0 0 = o from fld_zero f0 rfl]

theorem amoxorD (d : BitVec 5) (c : BitVec 4) (a : BitVec 5) (v : BitVec 5) (s : BitVec 2) (o : BitVec 1) : Statement (.amoxorD d c a v s o) := by
  refine of_fields (n := 0x58000018 + put d 21 + put c 17 + put a 12 + put v 7 + put s 1 + put o 0) 22 (by decide) rfl fun N hN => ?_
  have hN : N = ((((((22 * 32 + d.toNat) * 16 + c.toNat) * 32 + a.toNat) * 32 + v.toNat) * 16 + 3) * 4 + s.toNat) * 2 + o.toNat := by
    simp only [put, Nat.reducePow] at hN; omega
  obtain ⟨q0, f0⟩ := part_zero hN o.isLt
  obtain ⟨q1, f1⟩ := part q0 rfl s.isLt (show 2 * 4 = 8 by decide)
  obtain ⟨q2, f2⟩ := part q1 rfl (by decide) (show 8 * 16 = 128 by decide)
  obtain ⟨q3, f3⟩ := part q2 rfl v.isLt (show 128 * 32 = 4096 by decide)
  obtain ⟨q4, f4⟩ := part q3 rfl a.isLt (show 4096 * 32 = 131072 by decide)
  obtain ⟨q5, f5⟩ := part q4 rfl c.isLt (show 131072 * 16 = 2097152 by decide)
  obtain ⟨q6, f6⟩ := part q5 rfl d.isLt (show 2097152 * 32 = 67108864 by decide)
  refine ⟨q6, ?_⟩
  refine (if_neg (fun h => absurd (f2.symm.trans h) (by decide))).trans <|
    (if_neg (fun h => absurd (f2.symm.trans h) (by decide))).trans <|
    (if_neg (fun h => absurd (f2.symm.trans h) (by decide))).trans <|
    (if_pos f2).trans ?_
  rw [show fld N 25 21 = d from fld_eq f6 rfl rfl,
    show fld N 20 17 = c from fld_eq f5 rfl rfl,
    show fld N 16 12 = a from fld_eq f4 rfl rfl,
    show fld N 11 7 = v from fld_eq f3 rfl rfl,
    show fld N 2 1 = s from fld_eq f1 rfl rfl,
    show fld N 0 0 = o from fld_zero f0 rfl]

theorem amominD (d : BitVec 5) (c : BitVec 4) (a : BitVec 5) (v : BitVec 5) (s : BitVec 2) (o : BitVec 1) : Statement (.amominD d c a v s o) := by
  refine of_fields (n := 0x58000020 + put d 21 + put c 17 + put a 12 + put v 7 + put s 1 + put o 0) 22 (by decide) rfl fun N hN => ?_
  have hN : N = ((((((22 * 32 + d.toNat) * 16 + c.toNat) * 32 + a.toNat) * 32 + v.toNat) * 16 + 4) * 4 + s.toNat) * 2 + o.toNat := by
    simp only [put, Nat.reducePow] at hN; omega
  obtain ⟨q0, f0⟩ := part_zero hN o.isLt
  obtain ⟨q1, f1⟩ := part q0 rfl s.isLt (show 2 * 4 = 8 by decide)
  obtain ⟨q2, f2⟩ := part q1 rfl (by decide) (show 8 * 16 = 128 by decide)
  obtain ⟨q3, f3⟩ := part q2 rfl v.isLt (show 128 * 32 = 4096 by decide)
  obtain ⟨q4, f4⟩ := part q3 rfl a.isLt (show 4096 * 32 = 131072 by decide)
  obtain ⟨q5, f5⟩ := part q4 rfl c.isLt (show 131072 * 16 = 2097152 by decide)
  obtain ⟨q6, f6⟩ := part q5 rfl d.isLt (show 2097152 * 32 = 67108864 by decide)
  refine ⟨q6, ?_⟩
  refine (if_neg (fun h => absurd (f2.symm.trans h) (by decide))).trans <|
    (if_neg (fun h => absurd (f2.symm.trans h) (by decide))).trans <|
    (if_neg (fun h => absurd (f2.symm.trans h) (by decide))).trans <|
    (if_neg (fun h => absurd (f2.symm.trans h) (by decide))).trans <|
    (if_pos f2).trans ?_
  rw [show fld N 25 21 = d from fld_eq f6 rfl rfl,
    show fld N 20 17 = c from fld_eq f5 rfl rfl,
    show fld N 16 12 = a from fld_eq f4 rfl rfl,
    show fld N 11 7 = v from fld_eq f3 rfl rfl,
    show fld N 2 1 = s from fld_eq f1 rfl rfl,
    show fld N 0 0 = o from fld_zero f0 rfl]

theorem amomaxD (d : BitVec 5) (c : BitVec 4) (a : BitVec 5) (v : BitVec 5) (s : BitVec 2) (o : BitVec 1) : Statement (.amomaxD d c a v s o) := by
  refine of_fields (n := 0x58000028 + put d 21 + put c 17 + put a 12 + put v 7 + put s 1 + put o 0) 22 (by decide) rfl fun N hN => ?_
  have hN : N = ((((((22 * 32 + d.toNat) * 16 + c.toNat) * 32 + a.toNat) * 32 + v.toNat) * 16 + 5) * 4 + s.toNat) * 2 + o.toNat := by
    simp only [put, Nat.reducePow] at hN; omega
  obtain ⟨q0, f0⟩ := part_zero hN o.isLt
  obtain ⟨q1, f1⟩ := part q0 rfl s.isLt (show 2 * 4 = 8 by decide)
  obtain ⟨q2, f2⟩ := part q1 rfl (by decide) (show 8 * 16 = 128 by decide)
  obtain ⟨q3, f3⟩ := part q2 rfl v.isLt (show 128 * 32 = 4096 by decide)
  obtain ⟨q4, f4⟩ := part q3 rfl a.isLt (show 4096 * 32 = 131072 by decide)
  obtain ⟨q5, f5⟩ := part q4 rfl c.isLt (show 131072 * 16 = 2097152 by decide)
  obtain ⟨q6, f6⟩ := part q5 rfl d.isLt (show 2097152 * 32 = 67108864 by decide)
  refine ⟨q6, ?_⟩
  refine (if_neg (fun h => absurd (f2.symm.trans h) (by decide))).trans <|
    (if_neg (fun h => absurd (f2.symm.trans h) (by decide))).trans <|
    (if_neg (fun h => absurd (f2.symm.trans h) (by decide))).trans <|
    (if_neg (fun h => absurd (f2.symm.trans h) (by decide))).trans <|
    (if_neg (fun h => absurd (f2.symm.trans h) (by decide))).trans <|
    (if_pos f2).trans ?_
  rw [show fld N 25 21 = d from fld_eq f6 rfl rfl,
    show fld N 20 17 = c from fld_eq f5 rfl rfl,
    show fld N 16 12 = a from fld_eq f4 rfl rfl,
    show fld N 11 7 = v from fld_eq f3 rfl rfl,
    show fld N 2 1 = s from fld_eq f1 rfl rfl,
    show fld N 0 0 = o from fld_zero f0 rfl]

theorem amominuD (d : BitVec 5) (c : BitVec 4) (a : BitVec 5) (v : BitVec 5) (s : BitVec 2) (o : BitVec 1) : Statement (.amominuD d c a v s o) := by
  refine of_fields (n := 0x58000030 + put d 21 + put c 17 + put a 12 + put v 7 + put s 1 + put o 0) 22 (by decide) rfl fun N hN => ?_
  have hN : N = ((((((22 * 32 + d.toNat) * 16 + c.toNat) * 32 + a.toNat) * 32 + v.toNat) * 16 + 6) * 4 + s.toNat) * 2 + o.toNat := by
    simp only [put, Nat.reducePow] at hN; omega
  obtain ⟨q0, f0⟩ := part_zero hN o.isLt
  obtain ⟨q1, f1⟩ := part q0 rfl s.isLt (show 2 * 4 = 8 by decide)
  obtain ⟨q2, f2⟩ := part q1 rfl (by decide) (show 8 * 16 = 128 by decide)
  obtain ⟨q3, f3⟩ := part q2 rfl v.isLt (show 128 * 32 = 4096 by decide)
  obtain ⟨q4, f4⟩ := part q3 rfl a.isLt (show 4096 * 32 = 131072 by decide)
  obtain ⟨q5, f5⟩ := part q4 rfl c.isLt (show 131072 * 16 = 2097152 by decide)
  obtain ⟨q6, f6⟩ := part q5 rfl d.isLt (show 2097152 * 32 = 67108864 by decide)
  refine ⟨q6, ?_⟩
  refine (if_neg (fun h => absurd (f2.symm.trans h) (by decide))).trans <|
    (if_neg (fun h => absurd (f2.symm.trans h) (by decide))).trans <|
    (if_neg (fun h => absurd (f2.symm.trans h) (by decide))).trans <|
    (if_neg (fun h => absurd (f2.symm.trans h) (by decide))).trans <|
    (if_neg (fun h => absurd (f2.symm.trans h) (by decide))).trans <|
    (if_neg (fun h => absurd (f2.symm.trans h) (by decide))).trans <|
    (if_pos f2).trans ?_
  rw [show fld N 25 21 = d from fld_eq f6 rfl rfl,
    show fld N 20 17 = c from fld_eq f5 rfl rfl,
    show fld N 16 12 = a from fld_eq f4 rfl rfl,
    show fld N 11 7 = v from fld_eq f3 rfl rfl,
    show fld N 2 1 = s from fld_eq f1 rfl rfl,
    show fld N 0 0 = o from fld_zero f0 rfl]

theorem amomaxuD (d : BitVec 5) (c : BitVec 4) (a : BitVec 5) (v : BitVec 5) (s : BitVec 2) (o : BitVec 1) : Statement (.amomaxuD d c a v s o) := by
  refine of_fields (n := 0x58000038 + put d 21 + put c 17 + put a 12 + put v 7 + put s 1 + put o 0) 22 (by decide) rfl fun N hN => ?_
  have hN : N = ((((((22 * 32 + d.toNat) * 16 + c.toNat) * 32 + a.toNat) * 32 + v.toNat) * 16 + 7) * 4 + s.toNat) * 2 + o.toNat := by
    simp only [put, Nat.reducePow] at hN; omega
  obtain ⟨q0, f0⟩ := part_zero hN o.isLt
  obtain ⟨q1, f1⟩ := part q0 rfl s.isLt (show 2 * 4 = 8 by decide)
  obtain ⟨q2, f2⟩ := part q1 rfl (by decide) (show 8 * 16 = 128 by decide)
  obtain ⟨q3, f3⟩ := part q2 rfl v.isLt (show 128 * 32 = 4096 by decide)
  obtain ⟨q4, f4⟩ := part q3 rfl a.isLt (show 4096 * 32 = 131072 by decide)
  obtain ⟨q5, f5⟩ := part q4 rfl c.isLt (show 131072 * 16 = 2097152 by decide)
  obtain ⟨q6, f6⟩ := part q5 rfl d.isLt (show 2097152 * 32 = 67108864 by decide)
  refine ⟨q6, ?_⟩
  refine (if_neg (fun h => absurd (f2.symm.trans h) (by decide))).trans <|
    (if_neg (fun h => absurd (f2.symm.trans h) (by decide))).trans <|
    (if_neg (fun h => absurd (f2.symm.trans h) (by decide))).trans <|
    (if_neg (fun h => absurd (f2.symm.trans h) (by decide))).trans <|
    (if_neg (fun h => absurd (f2.symm.trans h) (by decide))).trans <|
    (if_neg (fun h => absurd (f2.symm.trans h) (by decide))).trans <|
    (if_neg (fun h => absurd (f2.symm.trans h) (by decide))).trans <|
    (if_pos f2).trans ?_
  rw [show fld N 25 21 = d from fld_eq f6 rfl rfl,
    show fld N 20 17 = c from fld_eq f5 rfl rfl,
    show fld N 16 12 = a from fld_eq f4 rfl rfl,
    show fld N 11 7 = v from fld_eq f3 rfl rfl,
    show fld N 2 1 = s from fld_eq f1 rfl rfl,
    show fld N 0 0 = o from fld_zero f0 rfl]

theorem amoswapD (d : BitVec 5) (c : BitVec 4) (a : BitVec 5) (v : BitVec 5) (s : BitVec 2) (o : BitVec 1) : Statement (.amoswapD d c a v s o) := by
  refine of_fields (n := 0x58000040 + put d 21 + put c 17 + put a 12 + put v 7 + put s 1 + put o 0) 22 (by decide) rfl fun N hN => ?_
  have hN : N = ((((((22 * 32 + d.toNat) * 16 + c.toNat) * 32 + a.toNat) * 32 + v.toNat) * 16 + 8) * 4 + s.toNat) * 2 + o.toNat := by
    simp only [put, Nat.reducePow] at hN; omega
  obtain ⟨q0, f0⟩ := part_zero hN o.isLt
  obtain ⟨q1, f1⟩ := part q0 rfl s.isLt (show 2 * 4 = 8 by decide)
  obtain ⟨q2, f2⟩ := part q1 rfl (by decide) (show 8 * 16 = 128 by decide)
  obtain ⟨q3, f3⟩ := part q2 rfl v.isLt (show 128 * 32 = 4096 by decide)
  obtain ⟨q4, f4⟩ := part q3 rfl a.isLt (show 4096 * 32 = 131072 by decide)
  obtain ⟨q5, f5⟩ := part q4 rfl c.isLt (show 131072 * 16 = 2097152 by decide)
  obtain ⟨q6, f6⟩ := part q5 rfl d.isLt (show 2097152 * 32 = 67108864 by decide)
  refine ⟨q6, ?_⟩
  refine (if_neg (fun h => absurd (f2.symm.trans h) (by decide))).trans <|
    (if_neg (fun h => absurd (f2.symm.trans h) (by decide))).trans <|
    (if_neg (fun h => absurd (f2.symm.trans h) (by decide))).trans <|
    (if_neg (fun h => absurd (f2.symm.trans h) (by decide))).trans <|
    (if_neg (fun h => absurd (f2.symm.trans h) (by decide))).trans <|
    (if_neg (fun h => absurd (f2.symm.trans h) (by decide))).trans <|
    (if_neg (fun h => absurd (f2.symm.trans h) (by decide))).trans <|
    (if_neg (fun h => absurd (f2.symm.trans h) (by decide))).trans <|
    (if_pos f2).trans ?_
  rw [show fld N 25 21 = d from fld_eq f6 rfl rfl,
    show fld N 20 17 = c from fld_eq f5 rfl rfl,
    show fld N 16 12 = a from fld_eq f4 rfl rfl,
    show fld N 11 7 = v from fld_eq f3 rfl rfl,
    show fld N 2 1 = s from fld_eq f1 rfl rfl,
    show fld N 0 0 = o from fld_zero f0 rfl]

theorem cas (d : BitVec 5) (c : BitVec 4) (a : BitVec 5) (v : BitVec 5) (w : BitVec 1) (s : BitVec 2) (o : BitVec 1) : Statement (.cas d c a v w s o) := by
  refine of_fields (n := 0x5C000000 + put d 21 + put c 17 + put a 12 + put v 7 + put w 6 + put s 1 + put o 0) 23 (by decide) rfl fun N hN => ?_
  have hN : N = (((((((23 * 32 + d.toNat) * 16 + c.toNat) * 32 + a.toNat) * 32 + v.toNat) * 2 + w.toNat) * 8 + 0) * 4 + s.toNat) * 2 + o.toNat := by
    simp only [put, Nat.reducePow] at hN; omega
  obtain ⟨q0, f0⟩ := part_zero hN o.isLt
  obtain ⟨q1, f1⟩ := part q0 rfl s.isLt (show 2 * 4 = 8 by decide)
  obtain ⟨q2, f2⟩ := part q1 rfl (by decide) (show 8 * 8 = 64 by decide)
  obtain ⟨q3, f3⟩ := part q2 rfl w.isLt (show 64 * 2 = 128 by decide)
  obtain ⟨q4, f4⟩ := part q3 rfl v.isLt (show 128 * 32 = 4096 by decide)
  obtain ⟨q5, f5⟩ := part q4 rfl a.isLt (show 4096 * 32 = 131072 by decide)
  obtain ⟨q6, f6⟩ := part q5 rfl c.isLt (show 131072 * 16 = 2097152 by decide)
  obtain ⟨q7, f7⟩ := part q6 rfl d.isLt (show 2097152 * 32 = 67108864 by decide)
  refine ⟨q7, ?_⟩
  refine (if_pos f2).trans ?_
  rw [show fld N 25 21 = d from fld_eq f7 rfl rfl,
    show fld N 20 17 = c from fld_eq f6 rfl rfl,
    show fld N 16 12 = a from fld_eq f5 rfl rfl,
    show fld N 11 7 = v from fld_eq f4 rfl rfl,
    show fld N 6 6 = w from fld_eq f3 rfl rfl,
    show fld N 2 1 = s from fld_eq f1 rfl rfl,
    show fld N 0 0 = o from fld_zero f0 rfl]

theorem fenceAcq (s : BitVec 2) : Statement (.fenceAcq s) := by
  refine of_fields (n := 0x60000000 + put s 0) 24 (by decide) rfl fun N hN => ?_
  have hN : N = (24 * 16777216 + 0) * 4 + s.toNat := by
    simp only [put, Nat.reducePow] at hN; omega
  obtain ⟨q0, f0⟩ := part_zero hN s.isLt
  obtain ⟨q1, f1⟩ := part q0 rfl (by decide) (show 4 * 16777216 = 67108864 by decide)
  refine ⟨q1, ?_⟩
  refine (if_pos f1).trans ?_
  rw [show fld N 1 0 = s from fld_zero f0 rfl]

theorem fenceRel (s : BitVec 2) : Statement (.fenceRel s) := by
  refine of_fields (n := 0x60200000 + put s 0) 24 (by decide) rfl fun N hN => ?_
  have hN : N = (24 * 16777216 + 524288) * 4 + s.toNat := by
    simp only [put, Nat.reducePow] at hN; omega
  obtain ⟨q0, f0⟩ := part_zero hN s.isLt
  obtain ⟨q1, f1⟩ := part q0 rfl (by decide) (show 4 * 16777216 = 67108864 by decide)
  refine ⟨q1, ?_⟩
  refine (if_neg (fun h => absurd (f1.symm.trans h) (by decide))).trans <|
    (if_pos f1).trans ?_
  rw [show fld N 1 0 = s from fld_zero f0 rfl]

theorem fenceFull (s : BitVec 2) : Statement (.fenceFull s) := by
  refine of_fields (n := 0x60400000 + put s 0) 24 (by decide) rfl fun N hN => ?_
  have hN : N = (24 * 16777216 + 1048576) * 4 + s.toNat := by
    simp only [put, Nat.reducePow] at hN; omega
  obtain ⟨q0, f0⟩ := part_zero hN s.isLt
  obtain ⟨q1, f1⟩ := part q0 rfl (by decide) (show 4 * 16777216 = 67108864 by decide)
  refine ⟨q1, ?_⟩
  refine (if_neg (fun h => absurd (f1.symm.trans h) (by decide))).trans <|
    (if_neg (fun h => absurd (f1.symm.trans h) (by decide))).trans <|
    (if_pos f1).trans ?_
  rw [show fld N 1 0 = s from fld_zero f0 rfl]

theorem cinv (a : BitVec 5) (b : BitVec 5) (c : BitVec 4) : Statement (.cinv a b c) := by
  refine of_fields (n := 0x64000000 + put a 11 + put b 6 + put c 0) 25 (by decide) rfl fun N hN => ?_
  have hN : N = ((((25 * 1024 + 0) * 32 + a.toNat) * 32 + b.toNat) * 4 + 0) * 16 + c.toNat := by
    simp only [put, Nat.reducePow] at hN; omega
  obtain ⟨q0, f0⟩ := part_zero hN c.isLt
  obtain ⟨q1, f1⟩ := part q0 rfl (by decide) (show 16 * 4 = 64 by decide)
  obtain ⟨q2, f2⟩ := part q1 rfl b.isLt (show 64 * 32 = 2048 by decide)
  obtain ⟨q3, f3⟩ := part q2 rfl a.isLt (show 2048 * 32 = 65536 by decide)
  obtain ⟨q4, f4⟩ := part q3 rfl (by decide) (show 65536 * 1024 = 67108864 by decide)
  refine ⟨q4, ?_⟩
  refine (if_pos ⟨f1, f4⟩).trans ?_
  rw [show fld N 15 11 = a from fld_eq f3 rfl rfl,
    show fld N 10 6 = b from fld_eq f2 rfl rfl,
    show fld N 3 0 = c from fld_zero f0 rfl]

theorem cflush (a : BitVec 5) (b : BitVec 5) (c : BitVec 4) : Statement (.cflush a b c) := by
  refine of_fields (n := 0x64200000 + put a 11 + put b 6 + put c 0) 25 (by decide) rfl fun N hN => ?_
  have hN : N = ((((25 * 1024 + 32) * 32 + a.toNat) * 32 + b.toNat) * 4 + 0) * 16 + c.toNat := by
    simp only [put, Nat.reducePow] at hN; omega
  obtain ⟨q0, f0⟩ := part_zero hN c.isLt
  obtain ⟨q1, f1⟩ := part q0 rfl (by decide) (show 16 * 4 = 64 by decide)
  obtain ⟨q2, f2⟩ := part q1 rfl b.isLt (show 64 * 32 = 2048 by decide)
  obtain ⟨q3, f3⟩ := part q2 rfl a.isLt (show 2048 * 32 = 65536 by decide)
  obtain ⟨q4, f4⟩ := part q3 rfl (by decide) (show 65536 * 1024 = 67108864 by decide)
  refine ⟨q4, ?_⟩
  refine (if_neg (fun h => absurd (f4.symm.trans h.2) (by decide))).trans <|
    (if_pos ⟨f1, f4⟩).trans ?_
  rw [show fld N 15 11 = a from fld_eq f3 rfl rfl,
    show fld N 10 6 = b from fld_eq f2 rfl rfl,
    show fld N 3 0 = c from fld_zero f0 rfl]

theorem cpref (a : BitVec 5) (b : BitVec 5) (c : BitVec 4) : Statement (.cpref a b c) := by
  refine of_fields (n := 0x64400000 + put a 11 + put b 6 + put c 0) 25 (by decide) rfl fun N hN => ?_
  have hN : N = ((((25 * 1024 + 64) * 32 + a.toNat) * 32 + b.toNat) * 4 + 0) * 16 + c.toNat := by
    simp only [put, Nat.reducePow] at hN; omega
  obtain ⟨q0, f0⟩ := part_zero hN c.isLt
  obtain ⟨q1, f1⟩ := part q0 rfl (by decide) (show 16 * 4 = 64 by decide)
  obtain ⟨q2, f2⟩ := part q1 rfl b.isLt (show 64 * 32 = 2048 by decide)
  obtain ⟨q3, f3⟩ := part q2 rfl a.isLt (show 2048 * 32 = 65536 by decide)
  obtain ⟨q4, f4⟩ := part q3 rfl (by decide) (show 65536 * 1024 = 67108864 by decide)
  refine ⟨q4, ?_⟩
  refine (if_neg (fun h => absurd (f4.symm.trans h.2) (by decide))).trans <|
    (if_neg (fun h => absurd (f4.symm.trans h.2) (by decide))).trans <|
    (if_pos ⟨f1, f4⟩).trans ?_
  rw [show fld N 15 11 = a from fld_eq f3 rfl rfl,
    show fld N 10 6 = b from fld_eq f2 rfl rfl,
    show fld N 3 0 = c from fld_zero f0 rfl]

theorem ddhint (a : BitVec 5) (b : BitVec 5) (c : BitVec 4) : Statement (.ddhint a b c) := by
  refine of_fields (n := 0x64600000 + put a 11 + put b 6 + put c 0) 25 (by decide) rfl fun N hN => ?_
  have hN : N = ((((25 * 1024 + 96) * 32 + a.toNat) * 32 + b.toNat) * 4 + 0) * 16 + c.toNat := by
    simp only [put, Nat.reducePow] at hN; omega
  obtain ⟨q0, f0⟩ := part_zero hN c.isLt
  obtain ⟨q1, f1⟩ := part q0 rfl (by decide) (show 16 * 4 = 64 by decide)
  obtain ⟨q2, f2⟩ := part q1 rfl b.isLt (show 64 * 32 = 2048 by decide)
  obtain ⟨q3, f3⟩ := part q2 rfl a.isLt (show 2048 * 32 = 65536 by decide)
  obtain ⟨q4, f4⟩ := part q3 rfl (by decide) (show 65536 * 1024 = 67108864 by decide)
  refine ⟨q4, ?_⟩
  refine (if_neg (fun h => absurd (f4.symm.trans h.2) (by decide))).trans <|
    (if_neg (fun h => absurd (f4.symm.trans h.2) (by decide))).trans <|
    (if_neg (fun h => absurd (f4.symm.trans h.2) (by decide))).trans <|
    (if_pos ⟨f1, f4⟩).trans ?_
  rw [show fld N 15 11 = a from fld_eq f3 rfl rfl,
    show fld N 10 6 = b from fld_eq f2 rfl rfl,
    show fld N 3 0 = c from fld_zero f0 rfl]

theorem ddstat (d : BitVec 5) (a : BitVec 5) (c : BitVec 4) : Statement (.ddstat d a c) := by
  refine of_fields (n := 0x64800000 + put d 16 + put a 11 + put c 0) 25 (by decide) rfl fun N hN => ?_
  have hN : N = ((((25 * 32 + 4) * 32 + d.toNat) * 32 + a.toNat) * 128 + 0) * 16 + c.toNat := by
    simp only [put, Nat.reducePow] at hN; omega
  obtain ⟨q0, f0⟩ := part_zero hN c.isLt
  obtain ⟨q1, f1⟩ := part q0 rfl (by decide) (show 16 * 128 = 2048 by decide)
  obtain ⟨q2, f2⟩ := part q1 rfl a.isLt (show 2048 * 32 = 65536 by decide)
  obtain ⟨q3, f3⟩ := part q2 rfl d.isLt (show 65536 * 32 = 2097152 by decide)
  obtain ⟨q4, f4⟩ := part q3 rfl (by decide) (show 2097152 * 32 = 67108864 by decide)
  refine ⟨q4, ?_⟩
  refine (if_neg (by omega)).trans <|
    (if_neg (by omega)).trans <|
    (if_neg (by omega)).trans <|
    (if_neg (by omega)).trans <|
    (if_pos ⟨f1, f4⟩).trans ?_
  rw [show fld N 20 16 = d from fld_eq f3 rfl rfl,
    show fld N 15 11 = a from fld_eq f2 rfl rfl,
    show fld N 3 0 = c from fld_zero f0 rfl]

theorem mcst (d : BitVec 5) (a : BitVec 5) (b : BitVec 5) (z : BitVec 2) (c : BitVec 4) : Statement (.mcst d a b z c) := by
  refine of_fields (n := 0x64A00000 + put d 16 + put a 11 + put b 6 + put z 4 + put c 0) 25 (by decide) rfl fun N hN => ?_
  have hN : N = (((((25 * 32 + 5) * 32 + d.toNat) * 32 + a.toNat) * 32 + b.toNat) * 4 + z.toNat) * 16 + c.toNat := by
    simp only [put, Nat.reducePow] at hN; omega
  obtain ⟨q0, f0⟩ := part_zero hN c.isLt
  obtain ⟨q1, f1⟩ := part q0 rfl z.isLt (show 16 * 4 = 64 by decide)
  obtain ⟨q2, f2⟩ := part q1 rfl b.isLt (show 64 * 32 = 2048 by decide)
  obtain ⟨q3, f3⟩ := part q2 rfl a.isLt (show 2048 * 32 = 65536 by decide)
  obtain ⟨q4, f4⟩ := part q3 rfl d.isLt (show 65536 * 32 = 2097152 by decide)
  obtain ⟨q5, f5⟩ := part q4 rfl (by decide) (show 2097152 * 32 = 67108864 by decide)
  refine ⟨q5, ?_⟩
  refine (if_neg (by omega)).trans <|
    (if_neg (by omega)).trans <|
    (if_neg (by omega)).trans <|
    (if_neg (by omega)).trans <|
    (if_neg (fun h => absurd (f5.symm.trans h.2) (by decide))).trans <|
    (if_pos f5).trans ?_
  rw [show fld N 20 16 = d from fld_eq f4 rfl rfl,
    show fld N 15 11 = a from fld_eq f3 rfl rfl,
    show fld N 10 6 = b from fld_eq f2 rfl rfl,
    show fld N 5 4 = z from fld_eq f1 rfl rfl,
    show fld N 3 0 = c from fld_zero f0 rfl]

theorem redst (d : BitVec 5) (a : BitVec 5) (b : BitVec 5) (o : BitVec 2) (c : BitVec 4) : Statement (.redst d a b o c) := by
  refine of_fields (n := 0x64C00000 + put d 16 + put a 11 + put b 6 + put o 4 + put c 0) 25 (by decide) rfl fun N hN => ?_
  have hN : N = (((((25 * 32 + 6) * 32 + d.toNat) * 32 + a.toNat) * 32 + b.toNat) * 4 + o.toNat) * 16 + c.toNat := by
    simp only [put, Nat.reducePow] at hN; omega
  obtain ⟨q0, f0⟩ := part_zero hN c.isLt
  obtain ⟨q1, f1⟩ := part q0 rfl o.isLt (show 16 * 4 = 64 by decide)
  obtain ⟨q2, f2⟩ := part q1 rfl b.isLt (show 64 * 32 = 2048 by decide)
  obtain ⟨q3, f3⟩ := part q2 rfl a.isLt (show 2048 * 32 = 65536 by decide)
  obtain ⟨q4, f4⟩ := part q3 rfl d.isLt (show 65536 * 32 = 2097152 by decide)
  obtain ⟨q5, f5⟩ := part q4 rfl (by decide) (show 2097152 * 32 = 67108864 by decide)
  refine ⟨q5, ?_⟩
  refine (if_neg (by omega)).trans <|
    (if_neg (by omega)).trans <|
    (if_neg (by omega)).trans <|
    (if_neg (by omega)).trans <|
    (if_neg (fun h => absurd (f5.symm.trans h.2) (by decide))).trans <|
    (if_neg (fun h => absurd (f5.symm.trans h) (by decide))).trans <|
    (if_pos f5).trans ?_
  rw [show fld N 20 16 = d from fld_eq f4 rfl rfl,
    show fld N 15 11 = a from fld_eq f3 rfl rfl,
    show fld N 10 6 = b from fld_eq f2 rfl rfl,
    show fld N 5 4 = o from fld_eq f1 rfl rfl,
    show fld N 3 0 = c from fld_zero f0 rfl]

theorem cbnd (d : BitVec 4) (c : BitVec 4) (a : BitVec 5) (s : BitVec 5) : Statement (.cbnd d c a s) := by
  refine of_fields (n := 0x68000000 + put d 22 + put c 18 + put a 13 + put s 8) 26 (by decide) rfl fun N hN => ?_
  have hN : N = ((((26 * 16 + d.toNat) * 16 + c.toNat) * 32 + a.toNat) * 32 + s.toNat) * 256 + 0 := by
    simp only [put, Nat.reducePow] at hN; omega
  obtain ⟨q0, f0⟩ := part_zero hN (by decide)
  obtain ⟨q1, f1⟩ := part q0 rfl s.isLt (show 256 * 32 = 8192 by decide)
  obtain ⟨q2, f2⟩ := part q1 rfl a.isLt (show 8192 * 32 = 262144 by decide)
  obtain ⟨q3, f3⟩ := part q2 rfl c.isLt (show 262144 * 16 = 4194304 by decide)
  obtain ⟨q4, f4⟩ := part q3 rfl d.isLt (show 4194304 * 16 = 67108864 by decide)
  refine ⟨q4, ?_⟩
  refine (if_pos f0).trans ?_
  rw [show fld N 25 22 = d from fld_eq f4 rfl rfl,
    show fld N 21 18 = c from fld_eq f3 rfl rfl,
    show fld N 17 13 = a from fld_eq f2 rfl rfl,
    show fld N 12 8 = s from fld_eq f1 rfl rfl]

theorem crestr (d : BitVec 4) (c : BitVec 4) (a : BitVec 5) : Statement (.crestr d c a) := by
  refine of_fields (n := 0x68000001 + put d 22 + put c 18 + put a 13) 26 (by decide) rfl fun N hN => ?_
  have hN : N = (((26 * 16 + d.toNat) * 16 + c.toNat) * 32 + a.toNat) * 8192 + 1 := by
    simp only [put, Nat.reducePow] at hN; omega
  obtain ⟨q0, f0⟩ := part_zero hN (by decide)
  obtain ⟨q1, f1⟩ := part q0 rfl a.isLt (show 8192 * 32 = 262144 by decide)
  obtain ⟨q2, f2⟩ := part q1 rfl c.isLt (show 262144 * 16 = 4194304 by decide)
  obtain ⟨q3, f3⟩ := part q2 rfl d.isLt (show 4194304 * 16 = 67108864 by decide)
  refine ⟨q3, ?_⟩
  refine (if_neg (by omega)).trans <|
    (if_pos f0).trans ?_
  rw [show fld N 25 22 = d from fld_eq f3 rfl rfl,
    show fld N 21 18 = c from fld_eq f2 rfl rfl,
    show fld N 17 13 = a from fld_eq f1 rfl rfl]

theorem cinc (d : BitVec 4) (c : BitVec 4) (a : BitVec 5) : Statement (.cinc d c a) := by
  refine of_fields (n := 0x68000002 + put d 22 + put c 18 + put a 13) 26 (by decide) rfl fun N hN => ?_
  have hN : N = (((26 * 16 + d.toNat) * 16 + c.toNat) * 32 + a.toNat) * 8192 + 2 := by
    simp only [put, Nat.reducePow] at hN; omega
  obtain ⟨q0, f0⟩ := part_zero hN (by decide)
  obtain ⟨q1, f1⟩ := part q0 rfl a.isLt (show 8192 * 32 = 262144 by decide)
  obtain ⟨q2, f2⟩ := part q1 rfl c.isLt (show 262144 * 16 = 4194304 by decide)
  obtain ⟨q3, f3⟩ := part q2 rfl d.isLt (show 4194304 * 16 = 67108864 by decide)
  refine ⟨q3, ?_⟩
  refine (if_neg (by omega)).trans <|
    (if_neg (fun h => absurd (f0.symm.trans h) (by decide))).trans <|
    (if_pos f0).trans ?_
  rw [show fld N 25 22 = d from fld_eq f3 rfl rfl,
    show fld N 21 18 = c from fld_eq f2 rfl rfl,
    show fld N 17 13 = a from fld_eq f1 rfl rfl]

theorem cgetb (c : BitVec 4) (s : BitVec 5) : Statement (.cgetb c s) := by
  refine of_fields (n := 0x68000003 + put c 18 + put s 8) 26 (by decide) rfl fun N hN => ?_
  have hN : N = ((((26 * 16 + 0) * 16 + c.toNat) * 32 + 0) * 32 + s.toNat) * 256 + 3 := by
    simp only [put, Nat.reducePow] at hN; omega
  obtain ⟨q0, f0⟩ := part_zero hN (by decide)
  obtain ⟨q1, f1⟩ := part q0 rfl s.isLt (show 256 * 32 = 8192 by decide)
  obtain ⟨q2, f2⟩ := part q1 rfl (by decide) (show 8192 * 32 = 262144 by decide)
  obtain ⟨q3, f3⟩ := part q2 rfl c.isLt (show 262144 * 16 = 4194304 by decide)
  obtain ⟨q4, f4⟩ := part q3 rfl (by decide) (show 4194304 * 16 = 67108864 by decide)
  refine ⟨q4, ?_⟩
  refine (if_neg (fun h => absurd (f0.symm.trans h) (by decide))).trans <|
    (if_neg (by omega)).trans <|
    (if_neg (by omega)).trans <|
    (if_pos ⟨f0, f2, f4⟩).trans ?_
  rw [show fld N 21 18 = c from fld_eq f3 rfl rfl,
    show fld N 12 8 = s from fld_eq f1 rfl rfl]

theorem cgetl (c : BitVec 4) (s : BitVec 5) : Statement (.cgetl c s) := by
  refine of_fields (n := 0x68000004 + put c 18 + put s 8) 26 (by decide) rfl fun N hN => ?_
  have hN : N = ((((26 * 16 + 0) * 16 + c.toNat) * 32 + 0) * 32 + s.toNat) * 256 + 4 := by
    simp only [put, Nat.reducePow] at hN; omega
  obtain ⟨q0, f0⟩ := part_zero hN (by decide)
  obtain ⟨q1, f1⟩ := part q0 rfl s.isLt (show 256 * 32 = 8192 by decide)
  obtain ⟨q2, f2⟩ := part q1 rfl (by decide) (show 8192 * 32 = 262144 by decide)
  obtain ⟨q3, f3⟩ := part q2 rfl c.isLt (show 262144 * 16 = 4194304 by decide)
  obtain ⟨q4, f4⟩ := part q3 rfl (by decide) (show 4194304 * 16 = 67108864 by decide)
  refine ⟨q4, ?_⟩
  refine (if_neg (fun h => absurd (f0.symm.trans h) (by decide))).trans <|
    (if_neg (by omega)).trans <|
    (if_neg (by omega)).trans <|
    (if_neg (fun h => absurd (f0.symm.trans h.1) (by decide))).trans <|
    (if_pos ⟨f0, f2, f4⟩).trans ?_
  rw [show fld N 21 18 = c from fld_eq f3 rfl rfl,
    show fld N 12 8 = s from fld_eq f1 rfl rfl]

theorem cgetp (c : BitVec 4) (s : BitVec 5) : Statement (.cgetp c s) := by
  refine of_fields (n := 0x68000005 + put c 18 + put s 8) 26 (by decide) rfl fun N hN => ?_
  have hN : N = ((((26 * 16 + 0) * 16 + c.toNat) * 32 + 0) * 32 + s.toNat) * 256 + 5 := by
    simp only [put, Nat.reducePow] at hN; omega
  obtain ⟨q0, f0⟩ := part_zero hN (by decide)
  obtain ⟨q1, f1⟩ := part q0 rfl s.isLt (show 256 * 32 = 8192 by decide)
  obtain ⟨q2, f2⟩ := part q1 rfl (by decide) (show 8192 * 32 = 262144 by decide)
  obtain ⟨q3, f3⟩ := part q2 rfl c.isLt (show 262144 * 16 = 4194304 by decide)
  obtain ⟨q4, f4⟩ := part q3 rfl (by decide) (show 4194304 * 16 = 67108864 by decide)
  refine ⟨q4, ?_⟩
  refine (if_neg (fun h => absurd (f0.symm.trans h) (by decide))).trans <|
    (if_neg (by omega)).trans <|
    (if_neg (by omega)).trans <|
    (if_neg (fun h => absurd (f0.symm.trans h.1) (by decide))).trans <|
    (if_neg (fun h => absurd (f0.symm.trans h.1) (by decide))).trans <|
    (if_pos ⟨f0, f2, f4⟩).trans ?_
  rw [show fld N 21 18 = c from fld_eq f3 rfl rfl,
    show fld N 12 8 = s from fld_eq f1 rfl rfl]

theorem cmov (d : BitVec 4) (c : BitVec 4) : Statement (.cmov d c) := by
  refine of_fields (n := 0x68000006 + put d 22 + put c 18) 26 (by decide) rfl fun N hN => ?_
  have hN : N = ((26 * 16 + d.toNat) * 16 + c.toNat) * 262144 + 6 := by
    simp only [put, Nat.reducePow] at hN; omega
  obtain ⟨q0, f0⟩ := part_zero hN (by decide)
  obtain ⟨q1, f1⟩ := part q0 rfl c.isLt (show 262144 * 16 = 4194304 by decide)
  obtain ⟨q2, f2⟩ := part q1 rfl d.isLt (show 4194304 * 16 = 67108864 by decide)
  refine ⟨q2, ?_⟩
  refine (if_neg (by omega)).trans <|
    (if_neg (by omega)).trans <|
    (if_neg (by omega)).trans <|
    (if_neg (by omega)).trans <|
    (if_neg (by omega)).trans <|
    (if_neg (by omega)).trans <|
    (if_pos f0).trans ?_
  rw [show fld N 25 22 = d from fld_eq f2 rfl rfl,
    show fld N 21 18 = c from fld_eq f1 rfl rfl]

theorem cclr (d : BitVec 4) : Statement (.cclr d) := by
  refine of_fields (n := 0x68000007 + put d 22) 26 (by decide) rfl fun N hN => ?_
  have hN : N = (26 * 16 + d.toNat) * 4194304 + 7 := by
    simp only [put, Nat.reducePow] at hN; omega
  obtain ⟨q0, f0⟩ := part_zero hN (by decide)
  obtain ⟨q1, f1⟩ := part q0 rfl d.isLt (show 4194304 * 16 = 67108864 by decide)
  refine ⟨q1, ?_⟩
  refine (if_neg (by omega)).trans <|
    (if_neg (by omega)).trans <|
    (if_neg (by omega)).trans <|
    (if_neg (by omega)).trans <|
    (if_neg (by omega)).trans <|
    (if_neg (by omega)).trans <|
    (if_neg (by omega)).trans <|
    (if_pos f0).trans ?_
  rw [show fld N 25 22 = d from fld_eq f1 rfl rfl]

theorem ctest (c : BitVec 4) (a : BitVec 5) (s : BitVec 5) : Statement (.ctest c a s) := by
  refine of_fields (n := 0x68000008 + put c 18 + put a 13 + put s 8) 26 (by decide) rfl fun N hN => ?_
  have hN : N = ((((26 * 16 + 0) * 16 + c.toNat) * 32 + a.toNat) * 32 + s.toNat) * 256 + 8 := by
    simp only [put, Nat.reducePow] at hN; omega
  obtain ⟨q0, f0⟩ := part_zero hN (by decide)
  obtain ⟨q1, f1⟩ := part q0 rfl s.isLt (show 256 * 32 = 8192 by decide)
  obtain ⟨q2, f2⟩ := part q1 rfl a.isLt (show 8192 * 32 = 262144 by decide)
  obtain ⟨q3, f3⟩ := part q2 rfl c.isLt (show 262144 * 16 = 4194304 by decide)
  obtain ⟨q4, f4⟩ := part q3 rfl (by decide) (show 4194304 * 16 = 67108864 by decide)
  refine ⟨q4, ?_⟩
  refine (if_neg (fun h => absurd (f0.symm.trans h) (by decide))).trans <|
    (if_neg (by omega)).trans <|
    (if_neg (by omega)).trans <|
    (if_neg (fun h => absurd (f0.symm.trans h.1) (by decide))).trans <|
    (if_neg (fun h => absurd (f0.symm.trans h.1) (by decide))).trans <|
    (if_neg (fun h => absurd (f0.symm.trans h.1) (by decide))).trans <|
    (if_neg (by omega)).trans <|
    (if_neg (by omega)).trans <|
    (if_pos ⟨f0, f4⟩).trans ?_
  rw [show fld N 21 18 = c from fld_eq f3 rfl rfl,
    show fld N 17 13 = a from fld_eq f2 rfl rfl,
    show fld N 12 8 = s from fld_eq f1 rfl rfl]

theorem cld (x : BitVec 4) (c : BitVec 4) (a : BitVec 5) (o : BitVec 13) : Statement (.cld x c a o) := by
  refine of_fields (n := 0x6C000000 + put x 22 + put c 18 + put a 13 + put o 0) 27 (by decide) rfl fun N hN => ?_
  have hN : N = (((27 * 16 + x.toNat) * 16 + c.toNat) * 32 + a.toNat) * 8192 + o.toNat := by
    simp only [put, Nat.reducePow] at hN; omega
  obtain ⟨q0, f0⟩ := part_zero hN o.isLt
  obtain ⟨q1, f1⟩ := part q0 rfl a.isLt (show 8192 * 32 = 262144 by decide)
  obtain ⟨q2, f2⟩ := part q1 rfl c.isLt (show 262144 * 16 = 4194304 by decide)
  obtain ⟨q3, f3⟩ := part q2 rfl x.isLt (show 4194304 * 16 = 67108864 by decide)
  refine ⟨q3, ?_⟩
  show decode1B N = _
  unfold decode1B
  rw [show fld N 25 22 = x from fld_eq f3 rfl rfl,
    show fld N 21 18 = c from fld_eq f2 rfl rfl,
    show fld N 17 13 = a from fld_eq f1 rfl rfl,
    show fld N 12 0 = o from fld_zero f0 rfl]

theorem cst (x : BitVec 4) (c : BitVec 4) (a : BitVec 5) (o : BitVec 13) : Statement (.cst x c a o) := by
  refine of_fields (n := 0x70000000 + put x 22 + put c 18 + put a 13 + put o 0) 28 (by decide) rfl fun N hN => ?_
  have hN : N = (((28 * 16 + x.toNat) * 16 + c.toNat) * 32 + a.toNat) * 8192 + o.toNat := by
    simp only [put, Nat.reducePow] at hN; omega
  obtain ⟨q0, f0⟩ := part_zero hN o.isLt
  obtain ⟨q1, f1⟩ := part q0 rfl a.isLt (show 8192 * 32 = 262144 by decide)
  obtain ⟨q2, f2⟩ := part q1 rfl c.isLt (show 262144 * 16 = 4194304 by decide)
  obtain ⟨q3, f3⟩ := part q2 rfl x.isLt (show 4194304 * 16 = 67108864 by decide)
  refine ⟨q3, ?_⟩
  show decode1C N = _
  unfold decode1C
  rw [show fld N 25 22 = x from fld_eq f3 rfl rfl,
    show fld N 21 18 = c from fld_eq f2 rfl rfl,
    show fld N 17 13 = a from fld_eq f1 rfl rfl,
    show fld N 12 0 = o from fld_zero f0 rfl]

theorem csrr (d : BitVec 5) (r : BitVec 12) : Statement (.csrr d r) := by
  refine of_fields (n := 0x74000000 + put d 21 + put r 0) 29 (by decide) rfl fun N hN => ?_
  have hN : N = ((29 * 32 + d.toNat) * 512 + 0) * 4096 + r.toNat := by
    simp only [put, Nat.reducePow] at hN; omega
  obtain ⟨q0, f0⟩ := part_zero hN r.isLt
  obtain ⟨q1, f1⟩ := part q0 rfl (by decide) (show 4096 * 512 = 2097152 by decide)
  obtain ⟨q2, f2⟩ := part q1 rfl d.isLt (show 2097152 * 32 = 67108864 by decide)
  refine ⟨q2, ?_⟩
  refine (if_pos f1).trans ?_
  rw [show fld N 25 21 = d from fld_eq f2 rfl rfl,
    show fld N 11 0 = r from fld_zero f0 rfl]

theorem csrw (d : BitVec 5) (a : BitVec 5) (r : BitVec 12) : Statement (.csrw d a r) := by
  refine of_fields (n := 0x74004000 + put d 21 + put a 16 + put r 0) 29 (by decide) rfl fun N hN => ?_
  have hN : N = (((29 * 32 + d.toNat) * 32 + a.toNat) * 16 + 4) * 4096 + r.toNat := by
    simp only [put, Nat.reducePow] at hN; omega
  obtain ⟨q0, f0⟩ := part_zero hN r.isLt
  obtain ⟨q1, f1⟩ := part q0 rfl (by decide) (show 4096 * 16 = 65536 by decide)
  obtain ⟨q2, f2⟩ := part q1 rfl a.isLt (show 65536 * 32 = 2097152 by decide)
  obtain ⟨q3, f3⟩ := part q2 rfl d.isLt (show 2097152 * 32 = 67108864 by decide)
  refine ⟨q3, ?_⟩
  refine (if_neg (by omega)).trans <|
    (if_pos f1).trans ?_
  rw [show fld N 25 21 = d from fld_eq f3 rfl rfl,
    show fld N 20 16 = a from fld_eq f2 rfl rfl,
    show fld N 11 0 = r from fld_zero f0 rfl]

theorem csrs (d : BitVec 5) (a : BitVec 5) (r : BitVec 12) : Statement (.csrs d a r) := by
  refine of_fields (n := 0x74008000 + put d 21 + put a 16 + put r 0) 29 (by decide) rfl fun N hN => ?_
  have hN : N = (((29 * 32 + d.toNat) * 32 + a.toNat) * 16 + 8) * 4096 + r.toNat := by
    simp only [put, Nat.reducePow] at hN; omega
  obtain ⟨q0, f0⟩ := part_zero hN r.isLt
  obtain ⟨q1, f1⟩ := part q0 rfl (by decide) (show 4096 * 16 = 65536 by decide)
  obtain ⟨q2, f2⟩ := part q1 rfl a.isLt (show 65536 * 32 = 2097152 by decide)
  obtain ⟨q3, f3⟩ := part q2 rfl d.isLt (show 2097152 * 32 = 67108864 by decide)
  refine ⟨q3, ?_⟩
  refine (if_neg (by omega)).trans <|
    (if_neg (fun h => absurd (f1.symm.trans h) (by decide))).trans <|
    (if_pos f1).trans ?_
  rw [show fld N 25 21 = d from fld_eq f3 rfl rfl,
    show fld N 20 16 = a from fld_eq f2 rfl rfl,
    show fld N 11 0 = r from fld_zero f0 rfl]

theorem csrc (d : BitVec 5) (a : BitVec 5) (r : BitVec 12) : Statement (.csrc d a r) := by
  refine of_fields (n := 0x7400C000 + put d 21 + put a 16 + put r 0) 29 (by decide) rfl fun N hN => ?_
  have hN : N = (((29 * 32 + d.toNat) * 32 + a.toNat) * 16 + 12) * 4096 + r.toNat := by
    simp only [put, Nat.reducePow] at hN; omega
  obtain ⟨q0, f0⟩ := part_zero hN r.isLt
  obtain ⟨q1, f1⟩ := part q0 rfl (by decide) (show 4096 * 16 = 65536 by decide)
  obtain ⟨q2, f2⟩ := part q1 rfl a.isLt (show 65536 * 32 = 2097152 by decide)
  obtain ⟨q3, f3⟩ := part q2 rfl d.isLt (show 2097152 * 32 = 67108864 by decide)
  refine ⟨q3, ?_⟩
  refine (if_neg (by omega)).trans <|
    (if_neg (fun h => absurd (f1.symm.trans h) (by decide))).trans <|
    (if_neg (fun h => absurd (f1.symm.trans h) (by decide))).trans <|
    (if_pos f1).trans ?_
  rw [show fld N 25 21 = d from fld_eq f3 rfl rfl,
    show fld N 20 16 = a from fld_eq f2 rfl rfl,
    show fld N 11 0 = r from fld_zero f0 rfl]

theorem start (d : BitVec 5) (a : BitVec 5) (b : BitVec 5) : Statement (.start d a b) := by
  refine of_fields (n := 0x78000000 + put d 16 + put a 11 + put b 6) 30 (by decide) rfl fun N hN => ?_
  have hN : N = ((((30 * 32 + 0) * 32 + d.toNat) * 32 + a.toNat) * 32 + b.toNat) * 64 + 0 := by
    simp only [put, Nat.reducePow] at hN; omega
  obtain ⟨q0, f0⟩ := part_zero hN (by decide)
  obtain ⟨q1, f1⟩ := part q0 rfl b.isLt (show 64 * 32 = 2048 by decide)
  obtain ⟨q2, f2⟩ := part q1 rfl a.isLt (show 2048 * 32 = 65536 by decide)
  obtain ⟨q3, f3⟩ := part q2 rfl d.isLt (show 65536 * 32 = 2097152 by decide)
  obtain ⟨q4, f4⟩ := part q3 rfl (by decide) (show 2097152 * 32 = 67108864 by decide)
  refine ⟨q4, ?_⟩
  refine (if_pos ⟨f0, f4⟩).trans ?_
  rw [show fld N 20 16 = d from fld_eq f3 rfl rfl,
    show fld N 15 11 = a from fld_eq f2 rfl rfl,
    show fld N 10 6 = b from fld_eq f1 rfl rfl]

theorem thid (d : BitVec 5) : Statement (.thid d) := by
  refine of_fields (n := 0x78600000 + put d 16) 30 (by decide) rfl fun N hN => ?_
  have hN : N = ((30 * 32 + 3) * 32 + d.toNat) * 65536 + 0 := by
    simp only [put, Nat.reducePow] at hN; omega
  obtain ⟨q0, f0⟩ := part_zero hN (by decide)
  obtain ⟨q1, f1⟩ := part q0 rfl d.isLt (show 65536 * 32 = 2097152 by decide)
  obtain ⟨q2, f2⟩ := part q1 rfl (by decide) (show 2097152 * 32 = 67108864 by decide)
  refine ⟨q2, ?_⟩
  refine (if_neg (fun h => absurd (f2.symm.trans h.2) (by decide))).trans <|
    (if_neg (by omega)).trans <|
    (if_neg (by omega)).trans <|
    (if_pos ⟨f0, f2⟩).trans ?_
  rw [show fld N 20 16 = d from fld_eq f1 rfl rfl]

theorem vgrow (n : BitVec 6) : Statement (.vgrow n) := by
  refine of_fields (n := 0x78800000 + put n 0) 30 (by decide) rfl fun N hN => ?_
  have hN : N = (30 * 1048576 + 131072) * 64 + n.toNat := by
    simp only [put, Nat.reducePow] at hN; omega
  obtain ⟨q0, f0⟩ := part_zero hN n.isLt
  obtain ⟨q1, f1⟩ := part q0 rfl (by decide) (show 64 * 1048576 = 67108864 by decide)
  refine ⟨q1, ?_⟩
  refine (if_neg (by omega)).trans <|
    (if_neg (by omega)).trans <|
    (if_neg (by omega)).trans <|
    (if_neg (by omega)).trans <|
    (if_pos f1).trans ?_
  rw [show fld N 5 0 = n from fld_zero f0 rfl]

theorem vshrink (n : BitVec 6) : Statement (.vshrink n) := by
  refine of_fields (n := 0x78A00000 + put n 0) 30 (by decide) rfl fun N hN => ?_
  have hN : N = (30 * 1048576 + 163840) * 64 + n.toNat := by
    simp only [put, Nat.reducePow] at hN; omega
  obtain ⟨q0, f0⟩ := part_zero hN n.isLt
  obtain ⟨q1, f1⟩ := part q0 rfl (by decide) (show 64 * 1048576 = 67108864 by decide)
  refine ⟨q1, ?_⟩
  refine (if_neg (by omega)).trans <|
    (if_neg (by omega)).trans <|
    (if_neg (by omega)).trans <|
    (if_neg (by omega)).trans <|
    (if_neg (fun h => absurd (f1.symm.trans h) (by decide))).trans <|
    (if_pos f1).trans ?_
  rw [show fld N 5 0 = n from fld_zero f0 rfl]

theorem send (a : BitVec 5) (b : BitVec 5) (n : BitVec 4) : Statement (.send a b n) := by
  refine of_fields (n := 0x7C000000 + put a 11 + put b 6 + put n 0) 31 (by decide) rfl fun N hN => ?_
  have hN : N = ((((31 * 1024 + 0) * 32 + a.toNat) * 32 + b.toNat) * 4 + 0) * 16 + n.toNat := by
    simp only [put, Nat.reducePow] at hN; omega
  obtain ⟨q0, f0⟩ := part_zero hN n.isLt
  obtain ⟨q1, f1⟩ := part q0 rfl (by decide) (show 16 * 4 = 64 by decide)
  obtain ⟨q2, f2⟩ := part q1 rfl b.isLt (show 64 * 32 = 2048 by decide)
  obtain ⟨q3, f3⟩ := part q2 rfl a.isLt (show 2048 * 32 = 65536 by decide)
  obtain ⟨q4, f4⟩ := part q3 rfl (by decide) (show 65536 * 1024 = 67108864 by decide)
  refine ⟨q4, ?_⟩
  refine (if_pos ⟨f1, f4⟩).trans ?_
  rw [show fld N 15 11 = a from fld_eq f3 rfl rfl,
    show fld N 10 6 = b from fld_eq f2 rfl rfl,
    show fld N 3 0 = n from fld_zero f0 rfl]

theorem migrate (a : BitVec 5) (c : BitVec 4) : Statement (.migrate a c) := by
  refine of_fields (n := 0x7C200000 + put a 11 + put c 0) 31 (by decide) rfl fun N hN => ?_
  have hN : N = (((31 * 1024 + 32) * 32 + a.toNat) * 128 + 0) * 16 + c.toNat := by
    simp only [put, Nat.reducePow] at hN; omega
  obtain ⟨q0, f0⟩ := part_zero hN c.isLt
  obtain ⟨q1, f1⟩ := part q0 rfl (by decide) (show 16 * 128 = 2048 by decide)
  obtain ⟨q2, f2⟩ := part q1 rfl a.isLt (show 2048 * 32 = 65536 by decide)
  obtain ⟨q3, f3⟩ := part q2 rfl (by decide) (show 65536 * 1024 = 67108864 by decide)
  refine ⟨q3, ?_⟩
  refine (if_neg (fun h => absurd (f3.symm.trans h.2) (by decide))).trans <|
    (if_pos ⟨f1, f3⟩).trans ?_
  rw [show fld N 15 11 = a from fld_eq f2 rfl rfl,
    show fld N 3 0 = c from fld_zero f0 rfl]

theorem reply (a : BitVec 5) (b : BitVec 5) (r : BitVec 5) : Statement (.reply a b r) := by
  refine of_fields (n := 0x7C400000 + put a 11 + put b 6 + put r 0) 31 (by decide) rfl fun N hN => ?_
  have hN : N = ((((31 * 1024 + 64) * 32 + a.toNat) * 32 + b.toNat) * 2 + 0) * 32 + r.toNat := by
    simp only [put, Nat.reducePow] at hN; omega
  obtain ⟨q0, f0⟩ := part_zero hN r.isLt
  obtain ⟨q1, f1⟩ := part q0 rfl (by decide) (show 32 * 2 = 64 by decide)
  obtain ⟨q2, f2⟩ := part q1 rfl b.isLt (show 64 * 32 = 2048 by decide)
  obtain ⟨q3, f3⟩ := part q2 rfl a.isLt (show 2048 * 32 = 65536 by decide)
  obtain ⟨q4, f4⟩ := part q3 rfl (by decide) (show 65536 * 1024 = 67108864 by decide)
  refine ⟨q4, ?_⟩
  refine (if_neg (fun h => absurd (f4.symm.trans h.2) (by decide))).trans <|
    (if_neg (fun h => absurd (f4.symm.trans h.2) (by decide))).trans <|
    (if_pos ⟨f1, f4⟩).trans ?_
  rw [show fld N 15 11 = a from fld_eq f3 rfl rfl,
    show fld N 10 6 = b from fld_eq f2 rfl rfl,
    show fld N 4 0 = r from fld_zero f0 rfl]

theorem qcfg (c : BitVec 4) (a : BitVec 5) (b : BitVec 5) (q : BitVec 5) : Statement (.qcfg c a b q) := by
  refine of_fields (n := 0x80000000 + put c 16 + put a 11 + put b 6 + put q 0) 32 (by decide) rfl fun N hN => ?_
  have hN : N = (((((32 * 64 + 0) * 16 + c.toNat) * 32 + a.toNat) * 32 + b.toNat) * 2 + 0) * 32 + q.toNat := by
    simp only [put, Nat.reducePow] at hN; omega
  obtain ⟨q0, f0⟩ := part_zero hN q.isLt
  obtain ⟨q1, f1⟩ := part q0 rfl (by decide) (show 32 * 2 = 64 by decide)
  obtain ⟨q2, f2⟩ := part q1 rfl b.isLt (show 64 * 32 = 2048 by decide)
  obtain ⟨q3, f3⟩ := part q2 rfl a.isLt (show 2048 * 32 = 65536 by decide)
  obtain ⟨q4, f4⟩ := part q3 rfl c.isLt (show 65536 * 16 = 1048576 by decide)
  obtain ⟨q5, f5⟩ := part q4 rfl (by decide) (show 1048576 * 64 = 67108864 by decide)
  refine ⟨q5, ?_⟩
  refine (if_pos ⟨f1, f5⟩).trans ?_
  rw [show fld N 19 16 = c from fld_eq f4 rfl rfl,
    show fld N 15 11 = a from fld_eq f3 rfl rfl,
    show fld N 10 6 = b from fld_eq f2 rfl rfl,
    show fld N 4 0 = q from fld_zero f0 rfl]

theorem qclaim (d : BitVec 5) (p : BitVec 4) (q : BitVec 5) : Statement (.qclaim d p q) := by
  refine of_fields (n := 0x80200000 + put d 16 + put p 6 + put q 0) 32 (by decide) rfl fun N hN => ?_
  have hN : N = (((((32 * 32 + 1) * 32 + d.toNat) * 64 + 0) * 16 + p.toNat) * 2 + 0) * 32 + q.toNat := by
    simp only [put, Nat.reducePow] at hN; omega
  obtain ⟨q0, f0⟩ := part_zero hN q.isLt
  obtain ⟨q1, f1⟩ := part q0 rfl (by decide) (show 32 * 2 = 64 by decide)
  obtain ⟨q2, f2⟩ := part q1 rfl p.isLt (show 64 * 16 = 1024 by decide)
  obtain ⟨q3, f3⟩ := part q2 rfl (by decide) (show 1024 * 64 = 65536 by decide)
  obtain ⟨q4, f4⟩ := part q3 rfl d.isLt (show 65536 * 32 = 2097152 by decide)
  obtain ⟨q5, f5⟩ := part q4 rfl (by decide) (show 2097152 * 32 = 67108864 by decide)
  refine ⟨q5, ?_⟩
  refine (if_neg (by omega)).trans <|
    (if_pos ⟨f1, f3, f5⟩).trans ?_
  rw [show fld N 20 16 = d from fld_eq f4 rfl rfl,
    show fld N 9 6 = p from fld_eq f2 rfl rfl,
    show fld N 4 0 = q from fld_zero f0 rfl]

theorem qpub (a : BitVec 5) (q : BitVec 5) : Statement (.qpub a q) := by
  refine of_fields (n := 0x80400000 + put a 11 + put q 0) 32 (by decide) rfl fun N hN => ?_
  have hN : N = (((32 * 1024 + 64) * 32 + a.toNat) * 64 + 0) * 32 + q.toNat := by
    simp only [put, Nat.reducePow] at hN; omega
  obtain ⟨q0, f0⟩ := part_zero hN q.isLt
  obtain ⟨q1, f1⟩ := part q0 rfl (by decide) (show 32 * 64 = 2048 by decide)
  obtain ⟨q2, f2⟩ := part q1 rfl a.isLt (show 2048 * 32 = 65536 by decide)
  obtain ⟨q3, f3⟩ := part q2 rfl (by decide) (show 65536 * 1024 = 67108864 by decide)
  refine ⟨q3, ?_⟩
  refine (if_neg (by omega)).trans <|
    (if_neg (by omega)).trans <|
    (if_pos ⟨f1, f3⟩).trans ?_
  rw [show fld N 15 11 = a from fld_eq f2 rfl rfl,
    show fld N 4 0 = q from fld_zero f0 rfl]

theorem qwaitf (d : BitVec 5) (p : BitVec 4) (q : BitVec 5) : Statement (.qwaitf d p q) := by
  refine of_fields (n := 0x80600000 + put d 16 + put p 6 + put q 0) 32 (by decide) rfl fun N hN => ?_
  have hN : N = (((((32 * 32 + 3) * 32 + d.toNat) * 64 + 0) * 16 + p.toNat) * 2 + 0) * 32 + q.toNat := by
    simp only [put, Nat.reducePow] at hN; omega
  obtain ⟨q0, f0⟩ := part_zero hN q.isLt
  obtain ⟨q1, f1⟩ := part q0 rfl (by decide) (show 32 * 2 = 64 by decide)
  obtain ⟨q2, f2⟩ := part q1 rfl p.isLt (show 64 * 16 = 1024 by decide)
  obtain ⟨q3, f3⟩ := part q2 rfl (by decide) (show 1024 * 64 = 65536 by decide)
  obtain ⟨q4, f4⟩ := part q3 rfl d.isLt (show 65536 * 32 = 2097152 by decide)
  obtain ⟨q5, f5⟩ := part q4 rfl (by decide) (show 2097152 * 32 = 67108864 by decide)
  refine ⟨q5, ?_⟩
  refine (if_neg (by omega)).trans <|
    (if_neg (fun h => absurd (f5.symm.trans h.2.2) (by decide))).trans <|
    (if_neg (by omega)).trans <|
    (if_pos ⟨f1, f3, f5⟩).trans ?_
  rw [show fld N 20 16 = d from fld_eq f4 rfl rfl,
    show fld N 9 6 = p from fld_eq f2 rfl rfl,
    show fld N 4 0 = q from fld_zero f0 rfl]

theorem qfree (a : BitVec 5) (q : BitVec 5) : Statement (.qfree a q) := by
  refine of_fields (n := 0x80800000 + put a 11 + put q 0) 32 (by decide) rfl fun N hN => ?_
  have hN : N = (((32 * 1024 + 128) * 32 + a.toNat) * 64 + 0) * 32 + q.toNat := by
    simp only [put, Nat.reducePow] at hN; omega
  obtain ⟨q0, f0⟩ := part_zero hN q.isLt
  obtain ⟨q1, f1⟩ := part q0 rfl (by decide) (show 32 * 64 = 2048 by decide)
  obtain ⟨q2, f2⟩ := part q1 rfl a.isLt (show 2048 * 32 = 65536 by decide)
  obtain ⟨q3, f3⟩ := part q2 rfl (by decide) (show 65536 * 1024 = 67108864 by decide)
  refine ⟨q3, ?_⟩
  refine (if_neg (by omega)).trans <|
    (if_neg (by omega)).trans <|
    (if_neg (fun h => absurd (f3.symm.trans h.2) (by decide))).trans <|
    (if_neg (by omega)).trans <|
    (if_pos ⟨f1, f3⟩).trans ?_
  rw [show fld N 15 11 = a from fld_eq f2 rfl rfl,
    show fld N 4 0 = q from fld_zero f0 rfl]

theorem qwaite (d : BitVec 5) (p : BitVec 4) (q : BitVec 5) : Statement (.qwaite d p q) := by
  refine of_fields (n := 0x80A00000 + put d 16 + put p 6 + put q 0) 32 (by decide) rfl fun N hN => ?_
  have hN : N = (((((32 * 32 + 5) * 32 + d.toNat) * 64 + 0) * 16 + p.toNat) * 2 + 0) * 32 + q.toNat := by
    simp only [put, Nat.reducePow] at hN; omega
  obtain ⟨q0, f0⟩ := part_zero hN q.isLt
  obtain ⟨q1, f1⟩ := part q0 rfl (by decide) (show 32 * 2 = 64 by decide)
  obtain ⟨q2, f2⟩ := part q1 rfl p.isLt (show 64 * 16 = 1024 by decide)
  obtain ⟨q3, f3⟩ := part q2 rfl (by decide) (show 1024 * 64 = 65536 by decide)
  obtain ⟨q4, f4⟩ := part q3 rfl d.isLt (show 65536 * 32 = 2097152 by decide)
  obtain ⟨q5, f5⟩ := part q4 rfl (by decide) (show 2097152 * 32 = 67108864 by decide)
  refine ⟨q5, ?_⟩
  refine (if_neg (by omega)).trans <|
    (if_neg (fun h => absurd (f5.symm.trans h.2.2) (by decide))).trans <|
    (if_neg (by omega)).trans <|
    (if_neg (fun h => absurd (f5.symm.trans h.2.2) (by decide))).trans <|
    (if_neg (by omega)).trans <|
    (if_pos ⟨f1, f3, f5⟩).trans ?_
  rw [show fld N 20 16 = d from fld_eq f4 rfl rfl,
    show fld N 9 6 = p from fld_eq f2 rfl rfl,
    show fld N 4 0 = q from fld_zero f0 rfl]

theorem qerr (d : BitVec 5) (a : BitVec 5) (q : BitVec 5) : Statement (.qerr d a q) := by
  refine of_fields (n := 0x80C00000 + put d 16 + put a 11 + put q 0) 32 (by decide) rfl fun N hN => ?_
  have hN : N = ((((32 * 32 + 6) * 32 + d.toNat) * 32 + a.toNat) * 64 + 0) * 32 + q.toNat := by
    simp only [put, Nat.reducePow] at hN; omega
  obtain ⟨q0, f0⟩ := part_zero hN q.isLt
  obtain ⟨q1, f1⟩ := part q0 rfl (by decide) (show 32 * 64 = 2048 by decide)
  obtain ⟨q2, f2⟩ := part q1 rfl a.isLt (show 2048 * 32 = 65536 by decide)
  obtain ⟨q3, f3⟩ := part q2 rfl d.isLt (show 65536 * 32 = 2097152 by decide)
  obtain ⟨q4, f4⟩ := part q3 rfl (by decide) (show 2097152 * 32 = 67108864 by decide)
  refine ⟨q4, ?_⟩
  refine (if_neg (by omega)).trans <|
    (if_neg (fun h => absurd (f4.symm.trans h.2.2) (by decide))).trans <|
    (if_neg (by omega)).trans <|
    (if_neg (fun h => absurd (f4.symm.trans h.2.2) (by decide))).trans <|
    (if_neg (by omega)).trans <|
    (if_neg (fun h => absurd (f4.symm.trans h.2.2) (by decide))).trans <|
    (if_pos ⟨f1, f4⟩).trans ?_
  rw [show fld N 20 16 = d from fld_eq f3 rfl rfl,
    show fld N 15 11 = a from fld_eq f2 rfl rfl,
    show fld N 4 0 = q from fld_zero f0 rfl]

theorem qsetrd (a : BitVec 5) (q : BitVec 5) : Statement (.qsetrd a q) := by
  refine of_fields (n := 0x80E00000 + put a 11 + put q 0) 32 (by decide) rfl fun N hN => ?_
  have hN : N = (((32 * 1024 + 224) * 32 + a.toNat) * 64 + 0) * 32 + q.toNat := by
    simp only [put, Nat.reducePow] at hN; omega
  obtain ⟨q0, f0⟩ := part_zero hN q.isLt
  obtain ⟨q1, f1⟩ := part q0 rfl (by decide) (show 32 * 64 = 2048 by decide)
  obtain ⟨q2, f2⟩ := part q1 rfl a.isLt (show 2048 * 32 = 65536 by decide)
  obtain ⟨q3, f3⟩ := part q2 rfl (by decide) (show 65536 * 1024 = 67108864 by decide)
  refine ⟨q3, ?_⟩
  refine (if_neg (by omega)).trans <|
    (if_neg (by omega)).trans <|
    (if_neg (fun h => absurd (f3.symm.trans h.2) (by decide))).trans <|
    (if_neg (by omega)).trans <|
    (if_neg (fun h => absurd (f3.symm.trans h.2) (by decide))).trans <|
    (if_neg (by omega)).trans <|
    (if_neg (by omega)).trans <|
    (if_pos ⟨f1, f3⟩).trans ?_
  rw [show fld N 15 11 = a from fld_eq f2 rfl rfl,
    show fld N 4 0 = q from fld_zero f0 rfl]

theorem barinit (c : BitVec 4) (a : BitVec 5) (b : BitVec 5) (n : BitVec 4) : Statement (.barinit c a b n) := by
  refine of_fields (n := 0x84000000 + put c 16 + put a 11 + put b 6 + put n 0) 33 (by decide) rfl fun N hN => ?_
  have hN : N = (((((33 * 64 + 0) * 16 + c.toNat) * 32 + a.toNat) * 32 + b.toNat) * 4 + 0) * 16 + n.toNat := by
    simp only [put, Nat.reducePow] at hN; omega
  obtain ⟨q0, f0⟩ := part_zero hN n.isLt
  obtain ⟨q1, f1⟩ := part q0 rfl (by decide) (show 16 * 4 = 64 by decide)
  obtain ⟨q2, f2⟩ := part q1 rfl b.isLt (show 64 * 32 = 2048 by decide)
  obtain ⟨q3, f3⟩ := part q2 rfl a.isLt (show 2048 * 32 = 65536 by decide)
  obtain ⟨q4, f4⟩ := part q3 rfl c.isLt (show 65536 * 16 = 1048576 by decide)
  obtain ⟨q5, f5⟩ := part q4 rfl (by decide) (show 1048576 * 64 = 67108864 by decide)
  refine ⟨q5, ?_⟩
  refine (if_pos ⟨f1, f5⟩).trans ?_
  rw [show fld N 19 16 = c from fld_eq f4 rfl rfl,
    show fld N 15 11 = a from fld_eq f3 rfl rfl,
    show fld N 10 6 = b from fld_eq f2 rfl rfl,
    show fld N 3 0 = n from fld_zero f0 rfl]

theorem bararr (r : BitVec 1) (n : BitVec 4) : Statement (.bararr r n) := by
  refine of_fields (n := 0x84200000 + put r 4 + put n 0) 33 (by decide) rfl fun N hN => ?_
  have hN : N = ((33 * 2097152 + 65536) * 2 + r.toNat) * 16 + n.toNat := by
    simp only [put, Nat.reducePow] at hN; omega
  obtain ⟨q0, f0⟩ := part_zero hN n.isLt
  obtain ⟨q1, f1⟩ := part q0 rfl r.isLt (show 16 * 2 = 32 by decide)
  obtain ⟨q2, f2⟩ := part q1 rfl (by decide) (show 32 * 2097152 = 67108864 by decide)
  refine ⟨q2, ?_⟩
  refine (if_neg (by omega)).trans <|
    (if_pos f2).trans ?_
  rw [show fld N 4 4 = r from fld_eq f1 rfl rfl,
    show fld N 3 0 = n from fld_zero f0 rfl]

theorem barwait (n : BitVec 4) : Statement (.barwait n) := by
  refine of_fields (n := 0x84400000 + put n 0) 33 (by decide) rfl fun N hN => ?_
  have hN : N = (33 * 4194304 + 262144) * 16 + n.toNat := by
    simp only [put, Nat.reducePow] at hN; omega
  obtain ⟨q0, f0⟩ := part_zero hN n.isLt
  obtain ⟨q1, f1⟩ := part q0 rfl (by decide) (show 16 * 4194304 = 67108864 by decide)
  refine ⟨q1, ?_⟩
  refine (if_neg (by omega)).trans <|
    (if_neg (by omega)).trans <|
    (if_pos f1).trans ?_
  rw [show fld N 3 0 = n from fld_zero f0 rfl]

theorem barsync (r : BitVec 1) (n : BitVec 4) : Statement (.barsync r n) := by
  refine of_fields (n := 0x84600000 + put r 4 + put n 0) 33 (by decide) rfl fun N hN => ?_
  have hN : N = ((33 * 2097152 + 196608) * 2 + r.toNat) * 16 + n.toNat := by
    simp only [put, Nat.reducePow] at hN; omega
  obtain ⟨q0, f0⟩ := part_zero hN n.isLt
  obtain ⟨q1, f1⟩ := part q0 rfl r.isLt (show 16 * 2 = 32 by decide)
  obtain ⟨q2, f2⟩ := part q1 rfl (by decide) (show 32 * 2097152 = 67108864 by decide)
  refine ⟨q2, ?_⟩
  refine (if_neg (by omega)).trans <|
    (if_neg (fun h => absurd (f2.symm.trans h) (by decide))).trans <|
    (if_neg (by omega)).trans <|
    (if_pos f2).trans ?_
  rw [show fld N 4 4 = r from fld_eq f1 rfl rfl,
    show fld N 3 0 = n from fld_zero f0 rfl]

theorem vadd (d : BitVec 5) (a : BitVec 5) (b : BitVec 5) (t : BitVec 3) : Statement (.vadd d a b t) := by
  refine of_fields (n := 0x88000000 + put d 21 + put a 16 + put b 11 + put t 8) 34 (by decide) rfl fun N hN => ?_
  have hN : N = ((((34 * 32 + d.toNat) * 32 + a.toNat) * 32 + b.toNat) * 8 + t.toNat) * 256 + 0 := by
    simp only [put, Nat.reducePow] at hN; omega
  obtain ⟨q0, f0⟩ := part_zero hN (by decide)
  obtain ⟨q1, f1⟩ := part q0 rfl t.isLt (show 256 * 8 = 2048 by decide)
  obtain ⟨q2, f2⟩ := part q1 rfl b.isLt (show 2048 * 32 = 65536 by decide)
  obtain ⟨q3, f3⟩ := part q2 rfl a.isLt (show 65536 * 32 = 2097152 by decide)
  obtain ⟨q4, f4⟩ := part q3 rfl d.isLt (show 2097152 * 32 = 67108864 by decide)
  refine ⟨q4, ?_⟩
  refine (if_pos f0).trans ?_
  rw [show fld N 25 21 = d from fld_eq f4 rfl rfl,
    show fld N 20 16 = a from fld_eq f3 rfl rfl,
    show fld N 15 11 = b from fld_eq f2 rfl rfl,
    show fld N 10 8 = t from fld_eq f1 rfl rfl]

theorem vsub (d : BitVec 5) (a : BitVec 5) (b : BitVec 5) (t : BitVec 3) : Statement (.vsub d a b t) := by
  refine of_fields (n := 0x88000001 + put d 21 + put a 16 + put b 11 + put t 8) 34 (by decide) rfl fun N hN => ?_
  have hN : N = ((((34 * 32 + d.toNat) * 32 + a.toNat) * 32 + b.toNat) * 8 + t.toNat) * 256 + 1 := by
    simp only [put, Nat.reducePow] at hN; omega
  obtain ⟨q0, f0⟩ := part_zero hN (by decide)
  obtain ⟨q1, f1⟩ := part q0 rfl t.isLt (show 256 * 8 = 2048 by decide)
  obtain ⟨q2, f2⟩ := part q1 rfl b.isLt (show 2048 * 32 = 65536 by decide)
  obtain ⟨q3, f3⟩ := part q2 rfl a.isLt (show 65536 * 32 = 2097152 by decide)
  obtain ⟨q4, f4⟩ := part q3 rfl d.isLt (show 2097152 * 32 = 67108864 by decide)
  refine ⟨q4, ?_⟩
  refine (if_neg (fun h => absurd (f0.symm.trans h) (by decide))).trans <|
    (if_pos f0).trans ?_
  rw [show fld N 25 21 = d from fld_eq f4 rfl rfl,
    show fld N 20 16 = a from fld_eq f3 rfl rfl,
    show fld N 15 11 = b from fld_eq f2 rfl rfl,
    show fld N 10 8 = t from fld_eq f1 rfl rfl]

theorem vmul (d : BitVec 5) (a : BitVec 5) (b : BitVec 5) (t : BitVec 3) : Statement (.vmul d a b t) := by
  refine of_fields (n := 0x88000002 + put d 21 + put a 16 + put b 11 + put t 8) 34 (by decide) rfl fun N hN => ?_
  have hN : N = ((((34 * 32 + d.toNat) * 32 + a.toNat) * 32 + b.toNat) * 8 + t.toNat) * 256 + 2 := by
    simp only [put, Nat.reducePow] at hN; omega
  obtain ⟨q0, f0⟩ := part_zero hN (by decide)
  obtain ⟨q1, f1⟩ := part q0 rfl t.isLt (show 256 * 8 = 2048 by decide)
  obtain ⟨q2, f2⟩ := part q1 rfl b.isLt (show 2048 * 32 = 65536 by decide)
  obtain ⟨q3, f3⟩ := part q2 rfl a.isLt (show 65536 * 32 = 2097152 by decide)
  obtain ⟨q4, f4⟩ := part q3 rfl d.isLt (show 2097152 * 32 = 67108864 by decide)
  refine ⟨q4, ?_⟩
  refine (if_neg (fun h => absurd (f0.symm.trans h) (by decide))).trans <|
    (if_neg (fun h => absurd (f0.symm.trans h) (by decide))).trans <|
    (if_pos f0).trans ?_
  rw [show fld N 25 21 = d from fld_eq f4 rfl rfl,
    show fld N 20 16 = a from fld_eq f3 rfl rfl,
    show fld N 15 11 = b from fld_eq f2 rfl rfl,
    show fld N 10 8 = t from fld_eq f1 rfl rfl]

theorem vmulh (d : BitVec 5) (a : BitVec 5) (b : BitVec 5) (t : BitVec 3) : Statement (.vmulh d a b t) := by
  refine of_fields (n := 0x88000003 + put d 21 + put a 16 + put b 11 + put t 8) 34 (by decide) rfl fun N hN => ?_
  have hN : N = ((((34 * 32 + d.toNat) * 32 + a.toNat) * 32 + b.toNat) * 8 + t.toNat) * 256 + 3 := by
    simp only [put, Nat.reducePow] at hN; omega
  obtain ⟨q0, f0⟩ := part_zero hN (by decide)
  obtain ⟨q1, f1⟩ := part q0 rfl t.isLt (show 256 * 8 = 2048 by decide)
  obtain ⟨q2, f2⟩ := part q1 rfl b.isLt (show 2048 * 32 = 65536 by decide)
  obtain ⟨q3, f3⟩ := part q2 rfl a.isLt (show 65536 * 32 = 2097152 by decide)
  obtain ⟨q4, f4⟩ := part q3 rfl d.isLt (show 2097152 * 32 = 67108864 by decide)
  refine ⟨q4, ?_⟩
  refine (if_neg (fun h => absurd (f0.symm.trans h) (by decide))).trans <|
    (if_neg (fun h => absurd (f0.symm.trans h) (by decide))).trans <|
    (if_neg (fun h => absurd (f0.symm.trans h) (by decide))).trans <|
    (if_pos f0).trans ?_
  rw [show fld N 25 21 = d from fld_eq f4 rfl rfl,
    show fld N 20 16 = a from fld_eq f3 rfl rfl,
    show fld N 15 11 = b from fld_eq f2 rfl rfl,
    show fld N 10 8 = t from fld_eq f1 rfl rfl]

theorem vmin (d : BitVec 5) (a : BitVec 5) (b : BitVec 5) (t : BitVec 3) : Statement (.vmin d a b t) := by
  refine of_fields (n := 0x88000004 + put d 21 + put a 16 + put b 11 + put t 8) 34 (by decide) rfl fun N hN => ?_
  have hN : N = ((((34 * 32 + d.toNat) * 32 + a.toNat) * 32 + b.toNat) * 8 + t.toNat) * 256 + 4 := by
    simp only [put, Nat.reducePow] at hN; omega
  obtain ⟨q0, f0⟩ := part_zero hN (by decide)
  obtain ⟨q1, f1⟩ := part q0 rfl t.isLt (show 256 * 8 = 2048 by decide)
  obtain ⟨q2, f2⟩ := part q1 rfl b.isLt (show 2048 * 32 = 65536 by decide)
  obtain ⟨q3, f3⟩ := part q2 rfl a.isLt (show 65536 * 32 = 2097152 by decide)
  obtain ⟨q4, f4⟩ := part q3 rfl d.isLt (show 2097152 * 32 = 67108864 by decide)
  refine ⟨q4, ?_⟩
  refine (if_neg (fun h => absurd (f0.symm.trans h) (by decide))).trans <|
    (if_neg (fun h => absurd (f0.symm.trans h) (by decide))).trans <|
    (if_neg (fun h => absurd (f0.symm.trans h) (by decide))).trans <|
    (if_neg (fun h => absurd (f0.symm.trans h) (by decide))).trans <|
    (if_pos f0).trans ?_
  rw [show fld N 25 21 = d from fld_eq f4 rfl rfl,
    show fld N 20 16 = a from fld_eq f3 rfl rfl,
    show fld N 15 11 = b from fld_eq f2 rfl rfl,
    show fld N 10 8 = t from fld_eq f1 rfl rfl]

theorem vmax (d : BitVec 5) (a : BitVec 5) (b : BitVec 5) (t : BitVec 3) : Statement (.vmax d a b t) := by
  refine of_fields (n := 0x88000005 + put d 21 + put a 16 + put b 11 + put t 8) 34 (by decide) rfl fun N hN => ?_
  have hN : N = ((((34 * 32 + d.toNat) * 32 + a.toNat) * 32 + b.toNat) * 8 + t.toNat) * 256 + 5 := by
    simp only [put, Nat.reducePow] at hN; omega
  obtain ⟨q0, f0⟩ := part_zero hN (by decide)
  obtain ⟨q1, f1⟩ := part q0 rfl t.isLt (show 256 * 8 = 2048 by decide)
  obtain ⟨q2, f2⟩ := part q1 rfl b.isLt (show 2048 * 32 = 65536 by decide)
  obtain ⟨q3, f3⟩ := part q2 rfl a.isLt (show 65536 * 32 = 2097152 by decide)
  obtain ⟨q4, f4⟩ := part q3 rfl d.isLt (show 2097152 * 32 = 67108864 by decide)
  refine ⟨q4, ?_⟩
  refine (if_neg (fun h => absurd (f0.symm.trans h) (by decide))).trans <|
    (if_neg (fun h => absurd (f0.symm.trans h) (by decide))).trans <|
    (if_neg (fun h => absurd (f0.symm.trans h) (by decide))).trans <|
    (if_neg (fun h => absurd (f0.symm.trans h) (by decide))).trans <|
    (if_neg (fun h => absurd (f0.symm.trans h) (by decide))).trans <|
    (if_pos f0).trans ?_
  rw [show fld N 25 21 = d from fld_eq f4 rfl rfl,
    show fld N 20 16 = a from fld_eq f3 rfl rfl,
    show fld N 15 11 = b from fld_eq f2 rfl rfl,
    show fld N 10 8 = t from fld_eq f1 rfl rfl]

theorem vminu (d : BitVec 5) (a : BitVec 5) (b : BitVec 5) (t : BitVec 3) : Statement (.vminu d a b t) := by
  refine of_fields (n := 0x88000006 + put d 21 + put a 16 + put b 11 + put t 8) 34 (by decide) rfl fun N hN => ?_
  have hN : N = ((((34 * 32 + d.toNat) * 32 + a.toNat) * 32 + b.toNat) * 8 + t.toNat) * 256 + 6 := by
    simp only [put, Nat.reducePow] at hN; omega
  obtain ⟨q0, f0⟩ := part_zero hN (by decide)
  obtain ⟨q1, f1⟩ := part q0 rfl t.isLt (show 256 * 8 = 2048 by decide)
  obtain ⟨q2, f2⟩ := part q1 rfl b.isLt (show 2048 * 32 = 65536 by decide)
  obtain ⟨q3, f3⟩ := part q2 rfl a.isLt (show 65536 * 32 = 2097152 by decide)
  obtain ⟨q4, f4⟩ := part q3 rfl d.isLt (show 2097152 * 32 = 67108864 by decide)
  refine ⟨q4, ?_⟩
  refine (if_neg (fun h => absurd (f0.symm.trans h) (by decide))).trans <|
    (if_neg (fun h => absurd (f0.symm.trans h) (by decide))).trans <|
    (if_neg (fun h => absurd (f0.symm.trans h) (by decide))).trans <|
    (if_neg (fun h => absurd (f0.symm.trans h) (by decide))).trans <|
    (if_neg (fun h => absurd (f0.symm.trans h) (by decide))).trans <|
    (if_neg (fun h => absurd (f0.symm.trans h) (by decide))).trans <|
    (if_pos f0).trans ?_
  rw [show fld N 25 21 = d from fld_eq f4 rfl rfl,
    show fld N 20 16 = a from fld_eq f3 rfl rfl,
    show fld N 15 11 = b from fld_eq f2 rfl rfl,
    show fld N 10 8 = t from fld_eq f1 rfl rfl]

theorem vmaxu (d : BitVec 5) (a : BitVec 5) (b : BitVec 5) (t : BitVec 3) : Statement (.vmaxu d a b t) := by
  refine of_fields (n := 0x88000007 + put d 21 + put a 16 + put b 11 + put t 8) 34 (by decide) rfl fun N hN => ?_
  have hN : N = ((((34 * 32 + d.toNat) * 32 + a.toNat) * 32 + b.toNat) * 8 + t.toNat) * 256 + 7 := by
    simp only [put, Nat.reducePow] at hN; omega
  obtain ⟨q0, f0⟩ := part_zero hN (by decide)
  obtain ⟨q1, f1⟩ := part q0 rfl t.isLt (show 256 * 8 = 2048 by decide)
  obtain ⟨q2, f2⟩ := part q1 rfl b.isLt (show 2048 * 32 = 65536 by decide)
  obtain ⟨q3, f3⟩ := part q2 rfl a.isLt (show 65536 * 32 = 2097152 by decide)
  obtain ⟨q4, f4⟩ := part q3 rfl d.isLt (show 2097152 * 32 = 67108864 by decide)
  refine ⟨q4, ?_⟩
  refine (if_neg (fun h => absurd (f0.symm.trans h) (by decide))).trans <|
    (if_neg (fun h => absurd (f0.symm.trans h) (by decide))).trans <|
    (if_neg (fun h => absurd (f0.symm.trans h) (by decide))).trans <|
    (if_neg (fun h => absurd (f0.symm.trans h) (by decide))).trans <|
    (if_neg (fun h => absurd (f0.symm.trans h) (by decide))).trans <|
    (if_neg (fun h => absurd (f0.symm.trans h) (by decide))).trans <|
    (if_neg (fun h => absurd (f0.symm.trans h) (by decide))).trans <|
    (if_pos f0).trans ?_
  rw [show fld N 25 21 = d from fld_eq f4 rfl rfl,
    show fld N 20 16 = a from fld_eq f3 rfl rfl,
    show fld N 15 11 = b from fld_eq f2 rfl rfl,
    show fld N 10 8 = t from fld_eq f1 rfl rfl]

theorem vand (d : BitVec 5) (a : BitVec 5) (b : BitVec 5) (t : BitVec 3) : Statement (.vand d a b t) := by
  refine of_fields (n := 0x88000008 + put d 21 + put a 16 + put b 11 + put t 8) 34 (by decide) rfl fun N hN => ?_
  have hN : N = ((((34 * 32 + d.toNat) * 32 + a.toNat) * 32 + b.toNat) * 8 + t.toNat) * 256 + 8 := by
    simp only [put, Nat.reducePow] at hN; omega
  obtain ⟨q0, f0⟩ := part_zero hN (by decide)
  obtain ⟨q1, f1⟩ := part q0 rfl t.isLt (show 256 * 8 = 2048 by decide)
  obtain ⟨q2, f2⟩ := part q1 rfl b.isLt (show 2048 * 32 = 65536 by decide)
  obtain ⟨q3, f3⟩ := part q2 rfl a.isLt (show 65536 * 32 = 2097152 by decide)
  obtain ⟨q4, f4⟩ := part q3 rfl d.isLt (show 2097152 * 32 = 67108864 by decide)
  refine ⟨q4, ?_⟩
  refine (if_neg (fun h => absurd (f0.symm.trans h) (by decide))).trans <|
    (if_neg (fun h => absurd (f0.symm.trans h) (by decide))).trans <|
    (if_neg (fun h => absurd (f0.symm.trans h) (by decide))).trans <|
    (if_neg (fun h => absurd (f0.symm.trans h) (by decide))).trans <|
    (if_neg (fun h => absurd (f0.symm.trans h) (by decide))).trans <|
    (if_neg (fun h => absurd (f0.symm.trans h) (by decide))).trans <|
    (if_neg (fun h => absurd (f0.symm.trans h) (by decide))).trans <|
    (if_neg (fun h => absurd (f0.symm.trans h) (by decide))).trans <|
    (if_pos f0).trans ?_
  rw [show fld N 25 21 = d from fld_eq f4 rfl rfl,
    show fld N 20 16 = a from fld_eq f3 rfl rfl,
    show fld N 15 11 = b from fld_eq f2 rfl rfl,
    show fld N 10 8 = t from fld_eq f1 rfl rfl]

theorem vor (d : BitVec 5) (a : BitVec 5) (b : BitVec 5) (t : BitVec 3) : Statement (.vor d a b t) := by
  refine of_fields (n := 0x88000009 + put d 21 + put a 16 + put b 11 + put t 8) 34 (by decide) rfl fun N hN => ?_
  have hN : N = ((((34 * 32 + d.toNat) * 32 + a.toNat) * 32 + b.toNat) * 8 + t.toNat) * 256 + 9 := by
    simp only [put, Nat.reducePow] at hN; omega
  obtain ⟨q0, f0⟩ := part_zero hN (by decide)
  obtain ⟨q1, f1⟩ := part q0 rfl t.isLt (show 256 * 8 = 2048 by decide)
  obtain ⟨q2, f2⟩ := part q1 rfl b.isLt (show 2048 * 32 = 65536 by decide)
  obtain ⟨q3, f3⟩ := part q2 rfl a.isLt (show 65536 * 32 = 2097152 by decide)
  obtain ⟨q4, f4⟩ := part q3 rfl d.isLt (show 2097152 * 32 = 67108864 by decide)
  refine ⟨q4, ?_⟩
  refine (if_neg (fun h => absurd (f0.symm.trans h) (by decide))).trans <|
    (if_neg (fun h => absurd (f0.symm.trans h) (by decide))).trans <|
    (if_neg (fun h => absurd (f0.symm.trans h) (by decide))).trans <|
    (if_neg (fun h => absurd (f0.symm.trans h) (by decide))).trans <|
    (if_neg (fun h => absurd (f0.symm.trans h) (by decide))).trans <|
    (if_neg (fun h => absurd (f0.symm.trans h) (by decide))).trans <|
    (if_neg (fun h => absurd (f0.symm.trans h) (by decide))).trans <|
    (if_neg (fun h => absurd (f0.symm.trans h) (by decide))).trans <|
    (if_neg (fun h => absurd (f0.symm.trans h) (by decide))).trans <|
    (if_pos f0).trans ?_
  rw [show fld N 25 21 = d from fld_eq f4 rfl rfl,
    show fld N 20 16 = a from fld_eq f3 rfl rfl,
    show fld N 15 11 = b from fld_eq f2 rfl rfl,
    show fld N 10 8 = t from fld_eq f1 rfl rfl]

theorem vxor (d : BitVec 5) (a : BitVec 5) (b : BitVec 5) (t : BitVec 3) : Statement (.vxor d a b t) := by
  refine of_fields (n := 0x8800000A + put d 21 + put a 16 + put b 11 + put t 8) 34 (by decide) rfl fun N hN => ?_
  have hN : N = ((((34 * 32 + d.toNat) * 32 + a.toNat) * 32 + b.toNat) * 8 + t.toNat) * 256 + 10 := by
    simp only [put, Nat.reducePow] at hN; omega
  obtain ⟨q0, f0⟩ := part_zero hN (by decide)
  obtain ⟨q1, f1⟩ := part q0 rfl t.isLt (show 256 * 8 = 2048 by decide)
  obtain ⟨q2, f2⟩ := part q1 rfl b.isLt (show 2048 * 32 = 65536 by decide)
  obtain ⟨q3, f3⟩ := part q2 rfl a.isLt (show 65536 * 32 = 2097152 by decide)
  obtain ⟨q4, f4⟩ := part q3 rfl d.isLt (show 2097152 * 32 = 67108864 by decide)
  refine ⟨q4, ?_⟩
  refine (if_neg (fun h => absurd (f0.symm.trans h) (by decide))).trans <|
    (if_neg (fun h => absurd (f0.symm.trans h) (by decide))).trans <|
    (if_neg (fun h => absurd (f0.symm.trans h) (by decide))).trans <|
    (if_neg (fun h => absurd (f0.symm.trans h) (by decide))).trans <|
    (if_neg (fun h => absurd (f0.symm.trans h) (by decide))).trans <|
    (if_neg (fun h => absurd (f0.symm.trans h) (by decide))).trans <|
    (if_neg (fun h => absurd (f0.symm.trans h) (by decide))).trans <|
    (if_neg (fun h => absurd (f0.symm.trans h) (by decide))).trans <|
    (if_neg (fun h => absurd (f0.symm.trans h) (by decide))).trans <|
    (if_neg (fun h => absurd (f0.symm.trans h) (by decide))).trans <|
    (if_pos f0).trans ?_
  rw [show fld N 25 21 = d from fld_eq f4 rfl rfl,
    show fld N 20 16 = a from fld_eq f3 rfl rfl,
    show fld N 15 11 = b from fld_eq f2 rfl rfl,
    show fld N 10 8 = t from fld_eq f1 rfl rfl]

theorem vshl (d : BitVec 5) (a : BitVec 5) (b : BitVec 5) (t : BitVec 3) : Statement (.vshl d a b t) := by
  refine of_fields (n := 0x8800000B + put d 21 + put a 16 + put b 11 + put t 8) 34 (by decide) rfl fun N hN => ?_
  have hN : N = ((((34 * 32 + d.toNat) * 32 + a.toNat) * 32 + b.toNat) * 8 + t.toNat) * 256 + 11 := by
    simp only [put, Nat.reducePow] at hN; omega
  obtain ⟨q0, f0⟩ := part_zero hN (by decide)
  obtain ⟨q1, f1⟩ := part q0 rfl t.isLt (show 256 * 8 = 2048 by decide)
  obtain ⟨q2, f2⟩ := part q1 rfl b.isLt (show 2048 * 32 = 65536 by decide)
  obtain ⟨q3, f3⟩ := part q2 rfl a.isLt (show 65536 * 32 = 2097152 by decide)
  obtain ⟨q4, f4⟩ := part q3 rfl d.isLt (show 2097152 * 32 = 67108864 by decide)
  refine ⟨q4, ?_⟩
  refine (if_neg (fun h => absurd (f0.symm.trans h) (by decide))).trans <|
    (if_neg (fun h => absurd (f0.symm.trans h) (by decide))).trans <|
    (if_neg (fun h => absurd (f0.symm.trans h) (by decide))).trans <|
    (if_neg (fun h => absurd (f0.symm.trans h) (by decide))).trans <|
    (if_neg (fun h => absurd (f0.symm.trans h) (by decide))).trans <|
    (if_neg (fun h => absurd (f0.symm.trans h) (by decide))).trans <|
    (if_neg (fun h => absurd (f0.symm.trans h) (by decide))).trans <|
    (if_neg (fun h => absurd (f0.symm.trans h) (by decide))).trans <|
    (if_neg (fun h => absurd (f0.symm.trans h) (by decide))).trans <|
    (if_neg (fun h => absurd (f0.symm.trans h) (by decide))).trans <|
    (if_neg (fun h => absurd (f0.symm.trans h) (by decide))).trans <|
    (if_pos f0).trans ?_
  rw [show fld N 25 21 = d from fld_eq f4 rfl rfl,
    show fld N 20 16 = a from fld_eq f3 rfl rfl,
    show fld N 15 11 = b from fld_eq f2 rfl rfl,
    show fld N 10 8 = t from fld_eq f1 rfl rfl]

theorem vshr (d : BitVec 5) (a : BitVec 5) (b : BitVec 5) (t : BitVec 3) : Statement (.vshr d a b t) := by
  refine of_fields (n := 0x8800000C + put d 21 + put a 16 + put b 11 + put t 8) 34 (by decide) rfl fun N hN => ?_
  have hN : N = ((((34 * 32 + d.toNat) * 32 + a.toNat) * 32 + b.toNat) * 8 + t.toNat) * 256 + 12 := by
    simp only [put, Nat.reducePow] at hN; omega
  obtain ⟨q0, f0⟩ := part_zero hN (by decide)
  obtain ⟨q1, f1⟩ := part q0 rfl t.isLt (show 256 * 8 = 2048 by decide)
  obtain ⟨q2, f2⟩ := part q1 rfl b.isLt (show 2048 * 32 = 65536 by decide)
  obtain ⟨q3, f3⟩ := part q2 rfl a.isLt (show 65536 * 32 = 2097152 by decide)
  obtain ⟨q4, f4⟩ := part q3 rfl d.isLt (show 2097152 * 32 = 67108864 by decide)
  refine ⟨q4, ?_⟩
  refine (if_neg (fun h => absurd (f0.symm.trans h) (by decide))).trans <|
    (if_neg (fun h => absurd (f0.symm.trans h) (by decide))).trans <|
    (if_neg (fun h => absurd (f0.symm.trans h) (by decide))).trans <|
    (if_neg (fun h => absurd (f0.symm.trans h) (by decide))).trans <|
    (if_neg (fun h => absurd (f0.symm.trans h) (by decide))).trans <|
    (if_neg (fun h => absurd (f0.symm.trans h) (by decide))).trans <|
    (if_neg (fun h => absurd (f0.symm.trans h) (by decide))).trans <|
    (if_neg (fun h => absurd (f0.symm.trans h) (by decide))).trans <|
    (if_neg (fun h => absurd (f0.symm.trans h) (by decide))).trans <|
    (if_neg (fun h => absurd (f0.symm.trans h) (by decide))).trans <|
    (if_neg (fun h => absurd (f0.symm.trans h) (by decide))).trans <|
    (if_neg (fun h => absurd (f0.symm.trans h) (by decide))).trans <|
    (if_pos f0).trans ?_
  rw [show fld N 25 21 = d from fld_eq f4 rfl rfl,
    show fld N 20 16 = a from fld_eq f3 rfl rfl,
    show fld N 15 11 = b from fld_eq f2 rfl rfl,
    show fld N 10 8 = t from fld_eq f1 rfl rfl]

theorem vsra (d : BitVec 5) (a : BitVec 5) (b : BitVec 5) (t : BitVec 3) : Statement (.vsra d a b t) := by
  refine of_fields (n := 0x8800000D + put d 21 + put a 16 + put b 11 + put t 8) 34 (by decide) rfl fun N hN => ?_
  have hN : N = ((((34 * 32 + d.toNat) * 32 + a.toNat) * 32 + b.toNat) * 8 + t.toNat) * 256 + 13 := by
    simp only [put, Nat.reducePow] at hN; omega
  obtain ⟨q0, f0⟩ := part_zero hN (by decide)
  obtain ⟨q1, f1⟩ := part q0 rfl t.isLt (show 256 * 8 = 2048 by decide)
  obtain ⟨q2, f2⟩ := part q1 rfl b.isLt (show 2048 * 32 = 65536 by decide)
  obtain ⟨q3, f3⟩ := part q2 rfl a.isLt (show 65536 * 32 = 2097152 by decide)
  obtain ⟨q4, f4⟩ := part q3 rfl d.isLt (show 2097152 * 32 = 67108864 by decide)
  refine ⟨q4, ?_⟩
  refine (if_neg (fun h => absurd (f0.symm.trans h) (by decide))).trans <|
    (if_neg (fun h => absurd (f0.symm.trans h) (by decide))).trans <|
    (if_neg (fun h => absurd (f0.symm.trans h) (by decide))).trans <|
    (if_neg (fun h => absurd (f0.symm.trans h) (by decide))).trans <|
    (if_neg (fun h => absurd (f0.symm.trans h) (by decide))).trans <|
    (if_neg (fun h => absurd (f0.symm.trans h) (by decide))).trans <|
    (if_neg (fun h => absurd (f0.symm.trans h) (by decide))).trans <|
    (if_neg (fun h => absurd (f0.symm.trans h) (by decide))).trans <|
    (if_neg (fun h => absurd (f0.symm.trans h) (by decide))).trans <|
    (if_neg (fun h => absurd (f0.symm.trans h) (by decide))).trans <|
    (if_neg (fun h => absurd (f0.symm.trans h) (by decide))).trans <|
    (if_neg (fun h => absurd (f0.symm.trans h) (by decide))).trans <|
    (if_neg (fun h => absurd (f0.symm.trans h) (by decide))).trans <|
    (if_pos f0).trans ?_
  rw [show fld N 25 21 = d from fld_eq f4 rfl rfl,
    show fld N 20 16 = a from fld_eq f3 rfl rfl,
    show fld N 15 11 = b from fld_eq f2 rfl rfl,
    show fld N 10 8 = t from fld_eq f1 rfl rfl]

theorem vfma (d : BitVec 5) (a : BitVec 5) (b : BitVec 5) (t : BitVec 3) : Statement (.vfma d a b t) := by
  refine of_fields (n := 0x8800000E + put d 21 + put a 16 + put b 11 + put t 8) 34 (by decide) rfl fun N hN => ?_
  have hN : N = ((((34 * 32 + d.toNat) * 32 + a.toNat) * 32 + b.toNat) * 8 + t.toNat) * 256 + 14 := by
    simp only [put, Nat.reducePow] at hN; omega
  obtain ⟨q0, f0⟩ := part_zero hN (by decide)
  obtain ⟨q1, f1⟩ := part q0 rfl t.isLt (show 256 * 8 = 2048 by decide)
  obtain ⟨q2, f2⟩ := part q1 rfl b.isLt (show 2048 * 32 = 65536 by decide)
  obtain ⟨q3, f3⟩ := part q2 rfl a.isLt (show 65536 * 32 = 2097152 by decide)
  obtain ⟨q4, f4⟩ := part q3 rfl d.isLt (show 2097152 * 32 = 67108864 by decide)
  refine ⟨q4, ?_⟩
  refine (if_neg (fun h => absurd (f0.symm.trans h) (by decide))).trans <|
    (if_neg (fun h => absurd (f0.symm.trans h) (by decide))).trans <|
    (if_neg (fun h => absurd (f0.symm.trans h) (by decide))).trans <|
    (if_neg (fun h => absurd (f0.symm.trans h) (by decide))).trans <|
    (if_neg (fun h => absurd (f0.symm.trans h) (by decide))).trans <|
    (if_neg (fun h => absurd (f0.symm.trans h) (by decide))).trans <|
    (if_neg (fun h => absurd (f0.symm.trans h) (by decide))).trans <|
    (if_neg (fun h => absurd (f0.symm.trans h) (by decide))).trans <|
    (if_neg (fun h => absurd (f0.symm.trans h) (by decide))).trans <|
    (if_neg (fun h => absurd (f0.symm.trans h) (by decide))).trans <|
    (if_neg (fun h => absurd (f0.symm.trans h) (by decide))).trans <|
    (if_neg (fun h => absurd (f0.symm.trans h) (by decide))).trans <|
    (if_neg (fun h => absurd (f0.symm.trans h) (by decide))).trans <|
    (if_neg (fun h => absurd (f0.symm.trans h) (by decide))).trans <|
    (if_pos f0).trans ?_
  rw [show fld N 25 21 = d from fld_eq f4 rfl rfl,
    show fld N 20 16 = a from fld_eq f3 rfl rfl,
    show fld N 15 11 = b from fld_eq f2 rfl rfl,
    show fld N 10 8 = t from fld_eq f1 rfl rfl]

theorem vabs (d : BitVec 5) (a : BitVec 5) (t : BitVec 3) : Statement (.vabs d a t) := by
  refine of_fields (n := 0x8800000F + put d 21 + put a 16 + put t 8) 34 (by decide) rfl fun N hN => ?_
  have hN : N = ((((34 * 32 + d.toNat) * 32 + a.toNat) * 32 + 0) * 8 + t.toNat) * 256 + 15 := by
    simp only [put, Nat.reducePow] at hN; omega
  obtain ⟨q0, f0⟩ := part_zero hN (by decide)
  obtain ⟨q1, f1⟩ := part q0 rfl t.isLt (show 256 * 8 = 2048 by decide)
  obtain ⟨q2, f2⟩ := part q1 rfl (by decide) (show 2048 * 32 = 65536 by decide)
  obtain ⟨q3, f3⟩ := part q2 rfl a.isLt (show 65536 * 32 = 2097152 by decide)
  obtain ⟨q4, f4⟩ := part q3 rfl d.isLt (show 2097152 * 32 = 67108864 by decide)
  refine ⟨q4, ?_⟩
  refine (if_neg (fun h => absurd (f0.symm.trans h) (by decide))).trans <|
    (if_neg (fun h => absurd (f0.symm.trans h) (by decide))).trans <|
    (if_neg (fun h => absurd (f0.symm.trans h) (by decide))).trans <|
    (if_neg (fun h => absurd (f0.symm.trans h) (by decide))).trans <|
    (if_neg (fun h => absurd (f0.symm.trans h) (by decide))).trans <|
    (if_neg (fun h => absurd (f0.symm.trans h) (by decide))).trans <|
    (if_neg (fun h => absurd (f0.symm.trans h) (by decide))).trans <|
    (if_neg (fun h => absurd (f0.symm.trans h) (by decide))).trans <|
    (if_neg (fun h => absurd (f0.symm.trans h) (by decide))).trans <|
    (if_neg (fun h => absurd (f0.symm.trans h) (by decide))).trans <|
    (if_neg (fun h => absurd (f0.symm.trans h) (by decide))).trans <|
    (if_neg (fun h => absurd (f0.symm.trans h) (by decide))).trans <|
    (if_neg (fun h => absurd (f0.symm.trans h) (by decide))).trans <|
    (if_neg (fun h => absurd (f0.symm.trans h) (by decide))).trans <|
    (if_neg (fun h => absurd (f0.symm.trans h) (by decide))).trans <|
    (if_pos ⟨f0, f2⟩).trans ?_
  rw [show fld N 25 21 = d from fld_eq f4 rfl rfl,
    show fld N 20 16 = a from fld_eq f3 rfl rfl,
    show fld N 10 8 = t from fld_eq f1 rfl rfl]

theorem vneg (d : BitVec 5) (a : BitVec 5) (t : BitVec 3) : Statement (.vneg d a t) := by
  refine of_fields (n := 0x88000010 + put d 21 + put a 16 + put t 8) 34 (by decide) rfl fun N hN => ?_
  have hN : N = ((((34 * 32 + d.toNat) * 32 + a.toNat) * 32 + 0) * 8 + t.toNat) * 256 + 16 := by
    simp only [put, Nat.reducePow] at hN; omega
  obtain ⟨q0, f0⟩ := part_zero hN (by decide)
  obtain ⟨q1, f1⟩ := part q0 rfl t.isLt (show 256 * 8 = 2048 by decide)
  obtain ⟨q2, f2⟩ := part q1 rfl (by decide) (show 2048 * 32 = 65536 by decide)
  obtain ⟨q3, f3⟩ := part q2 rfl a.isLt (show 65536 * 32 = 2097152 by decide)
  obtain ⟨q4, f4⟩ := part q3 rfl d.isLt (show 2097152 * 32 = 67108864 by decide)
  refine ⟨q4, ?_⟩
  refine (if_neg (fun h => absurd (f0.symm.trans h) (by decide))).trans <|
    (if_neg (fun h => absurd (f0.symm.trans h) (by decide))).trans <|
    (if_neg (fun h => absurd (f0.symm.trans h) (by decide))).trans <|
    (if_neg (fun h => absurd (f0.symm.trans h) (by decide))).trans <|
    (if_neg (fun h => absurd (f0.symm.trans h) (by decide))).trans <|
    (if_neg (fun h => absurd (f0.symm.trans h) (by decide))).trans <|
    (if_neg (fun h => absurd (f0.symm.trans h) (by decide))).trans <|
    (if_neg (fun h => absurd (f0.symm.trans h) (by decide))).trans <|
    (if_neg (fun h => absurd (f0.symm.trans h) (by decide))).trans <|
    (if_neg (fun h => absurd (f0.symm.trans h) (by decide))).trans <|
    (if_neg (fun h => absurd (f0.symm.trans h) (by decide))).trans <|
    (if_neg (fun h => absurd (f0.symm.trans h) (by decide))).trans <|
    (if_neg (fun h => absurd (f0.symm.trans h) (by decide))).trans <|
    (if_neg (fun h => absurd (f0.symm.trans h) (by decide))).trans <|
    (if_neg (fun h => absurd (f0.symm.trans h) (by decide))).trans <|
    (if_neg (fun h => absurd (f0.symm.trans h.1) (by decide))).trans <|
    (if_pos ⟨f0, f2⟩).trans ?_
  rw [show fld N 25 21 = d from fld_eq f4 rfl rfl,
    show fld N 20 16 = a from fld_eq f3 rfl rfl,
    show fld N 10 8 = t from fld_eq f1 rfl rfl]

theorem vminn (d : BitVec 5) (a : BitVec 5) (b : BitVec 5) (t : BitVec 3) : Statement (.vminn d a b t) := by
  refine of_fields (n := 0x88000011 + put d 21 + put a 16 + put b 11 + put t 8) 34 (by decide) rfl fun N hN => ?_
  have hN : N = ((((34 * 32 + d.toNat) * 32 + a.toNat) * 32 + b.toNat) * 8 + t.toNat) * 256 + 17 := by
    simp only [put, Nat.reducePow] at hN; omega
  obtain ⟨q0, f0⟩ := part_zero hN (by decide)
  obtain ⟨q1, f1⟩ := part q0 rfl t.isLt (show 256 * 8 = 2048 by decide)
  obtain ⟨q2, f2⟩ := part q1 rfl b.isLt (show 2048 * 32 = 65536 by decide)
  obtain ⟨q3, f3⟩ := part q2 rfl a.isLt (show 65536 * 32 = 2097152 by decide)
  obtain ⟨q4, f4⟩ := part q3 rfl d.isLt (show 2097152 * 32 = 67108864 by decide)
  refine ⟨q4, ?_⟩
  refine (if_neg (fun h => absurd (f0.symm.trans h) (by decide))).trans <|
    (if_neg (fun h => absurd (f0.symm.trans h) (by decide))).trans <|
    (if_neg (fun h => absurd (f0.symm.trans h) (by decide))).trans <|
    (if_neg (fun h => absurd (f0.symm.trans h) (by decide))).trans <|
    (if_neg (fun h => absurd (f0.symm.trans h) (by decide))).trans <|
    (if_neg (fun h => absurd (f0.symm.trans h) (by decide))).trans <|
    (if_neg (fun h => absurd (f0.symm.trans h) (by decide))).trans <|
    (if_neg (fun h => absurd (f0.symm.trans h) (by decide))).trans <|
    (if_neg (fun h => absurd (f0.symm.trans h) (by decide))).trans <|
    (if_neg (fun h => absurd (f0.symm.trans h) (by decide))).trans <|
    (if_neg (fun h => absurd (f0.symm.trans h) (by decide))).trans <|
    (if_neg (fun h => absurd (f0.symm.trans h) (by decide))).trans <|
    (if_neg (fun h => absurd (f0.symm.trans h) (by decide))).trans <|
    (if_neg (fun h => absurd (f0.symm.trans h) (by decide))).trans <|
    (if_neg (fun h => absurd (f0.symm.trans h) (by decide))).trans <|
    (if_neg (fun h => absurd (f0.symm.trans h.1) (by decide))).trans <|
    (if_neg (fun h => absurd (f0.symm.trans h.1) (by decide))).trans <|
    (if_pos f0).trans ?_
  rw [show fld N 25 21 = d from fld_eq f4 rfl rfl,
    show fld N 20 16 = a from fld_eq f3 rfl rfl,
    show fld N 15 11 = b from fld_eq f2 rfl rfl,
    show fld N 10 8 = t from fld_eq f1 rfl rfl]

theorem vmaxn (d : BitVec 5) (a : BitVec 5) (b : BitVec 5) (t : BitVec 3) : Statement (.vmaxn d a b t) := by
  refine of_fields (n := 0x88000012 + put d 21 + put a 16 + put b 11 + put t 8) 34 (by decide) rfl fun N hN => ?_
  have hN : N = ((((34 * 32 + d.toNat) * 32 + a.toNat) * 32 + b.toNat) * 8 + t.toNat) * 256 + 18 := by
    simp only [put, Nat.reducePow] at hN; omega
  obtain ⟨q0, f0⟩ := part_zero hN (by decide)
  obtain ⟨q1, f1⟩ := part q0 rfl t.isLt (show 256 * 8 = 2048 by decide)
  obtain ⟨q2, f2⟩ := part q1 rfl b.isLt (show 2048 * 32 = 65536 by decide)
  obtain ⟨q3, f3⟩ := part q2 rfl a.isLt (show 65536 * 32 = 2097152 by decide)
  obtain ⟨q4, f4⟩ := part q3 rfl d.isLt (show 2097152 * 32 = 67108864 by decide)
  refine ⟨q4, ?_⟩
  refine (if_neg (fun h => absurd (f0.symm.trans h) (by decide))).trans <|
    (if_neg (fun h => absurd (f0.symm.trans h) (by decide))).trans <|
    (if_neg (fun h => absurd (f0.symm.trans h) (by decide))).trans <|
    (if_neg (fun h => absurd (f0.symm.trans h) (by decide))).trans <|
    (if_neg (fun h => absurd (f0.symm.trans h) (by decide))).trans <|
    (if_neg (fun h => absurd (f0.symm.trans h) (by decide))).trans <|
    (if_neg (fun h => absurd (f0.symm.trans h) (by decide))).trans <|
    (if_neg (fun h => absurd (f0.symm.trans h) (by decide))).trans <|
    (if_neg (fun h => absurd (f0.symm.trans h) (by decide))).trans <|
    (if_neg (fun h => absurd (f0.symm.trans h) (by decide))).trans <|
    (if_neg (fun h => absurd (f0.symm.trans h) (by decide))).trans <|
    (if_neg (fun h => absurd (f0.symm.trans h) (by decide))).trans <|
    (if_neg (fun h => absurd (f0.symm.trans h) (by decide))).trans <|
    (if_neg (fun h => absurd (f0.symm.trans h) (by decide))).trans <|
    (if_neg (fun h => absurd (f0.symm.trans h) (by decide))).trans <|
    (if_neg (fun h => absurd (f0.symm.trans h.1) (by decide))).trans <|
    (if_neg (fun h => absurd (f0.symm.trans h.1) (by decide))).trans <|
    (if_neg (fun h => absurd (f0.symm.trans h) (by decide))).trans <|
    (if_pos f0).trans ?_
  rw [show fld N 25 21 = d from fld_eq f4 rfl rfl,
    show fld N 20 16 = a from fld_eq f3 rfl rfl,
    show fld N 15 11 = b from fld_eq f2 rfl rfl,
    show fld N 10 8 = t from fld_eq f1 rfl rfl]

theorem vaddScalar (d : BitVec 5) (a : BitVec 5) (b : BitVec 5) (t : BitVec 3) : Statement (.vaddScalar d a b t) := by
  refine of_fields (n := 0x8C000000 + put d 21 + put a 16 + put b 11 + put t 8) 35 (by decide) rfl fun N hN => ?_
  have hN : N = ((((35 * 32 + d.toNat) * 32 + a.toNat) * 32 + b.toNat) * 8 + t.toNat) * 256 + 0 := by
    simp only [put, Nat.reducePow] at hN; omega
  obtain ⟨q0, f0⟩ := part_zero hN (by decide)
  obtain ⟨q1, f1⟩ := part q0 rfl t.isLt (show 256 * 8 = 2048 by decide)
  obtain ⟨q2, f2⟩ := part q1 rfl b.isLt (show 2048 * 32 = 65536 by decide)
  obtain ⟨q3, f3⟩ := part q2 rfl a.isLt (show 65536 * 32 = 2097152 by decide)
  obtain ⟨q4, f4⟩ := part q3 rfl d.isLt (show 2097152 * 32 = 67108864 by decide)
  refine ⟨q4, ?_⟩
  refine (if_pos f0).trans ?_
  rw [show fld N 25 21 = d from fld_eq f4 rfl rfl,
    show fld N 20 16 = a from fld_eq f3 rfl rfl,
    show fld N 15 11 = b from fld_eq f2 rfl rfl,
    show fld N 10 8 = t from fld_eq f1 rfl rfl]

theorem vsubScalar (d : BitVec 5) (a : BitVec 5) (b : BitVec 5) (t : BitVec 3) : Statement (.vsubScalar d a b t) := by
  refine of_fields (n := 0x8C000001 + put d 21 + put a 16 + put b 11 + put t 8) 35 (by decide) rfl fun N hN => ?_
  have hN : N = ((((35 * 32 + d.toNat) * 32 + a.toNat) * 32 + b.toNat) * 8 + t.toNat) * 256 + 1 := by
    simp only [put, Nat.reducePow] at hN; omega
  obtain ⟨q0, f0⟩ := part_zero hN (by decide)
  obtain ⟨q1, f1⟩ := part q0 rfl t.isLt (show 256 * 8 = 2048 by decide)
  obtain ⟨q2, f2⟩ := part q1 rfl b.isLt (show 2048 * 32 = 65536 by decide)
  obtain ⟨q3, f3⟩ := part q2 rfl a.isLt (show 65536 * 32 = 2097152 by decide)
  obtain ⟨q4, f4⟩ := part q3 rfl d.isLt (show 2097152 * 32 = 67108864 by decide)
  refine ⟨q4, ?_⟩
  refine (if_neg (fun h => absurd (f0.symm.trans h) (by decide))).trans <|
    (if_pos f0).trans ?_
  rw [show fld N 25 21 = d from fld_eq f4 rfl rfl,
    show fld N 20 16 = a from fld_eq f3 rfl rfl,
    show fld N 15 11 = b from fld_eq f2 rfl rfl,
    show fld N 10 8 = t from fld_eq f1 rfl rfl]

theorem vmulScalar (d : BitVec 5) (a : BitVec 5) (b : BitVec 5) (t : BitVec 3) : Statement (.vmulScalar d a b t) := by
  refine of_fields (n := 0x8C000002 + put d 21 + put a 16 + put b 11 + put t 8) 35 (by decide) rfl fun N hN => ?_
  have hN : N = ((((35 * 32 + d.toNat) * 32 + a.toNat) * 32 + b.toNat) * 8 + t.toNat) * 256 + 2 := by
    simp only [put, Nat.reducePow] at hN; omega
  obtain ⟨q0, f0⟩ := part_zero hN (by decide)
  obtain ⟨q1, f1⟩ := part q0 rfl t.isLt (show 256 * 8 = 2048 by decide)
  obtain ⟨q2, f2⟩ := part q1 rfl b.isLt (show 2048 * 32 = 65536 by decide)
  obtain ⟨q3, f3⟩ := part q2 rfl a.isLt (show 65536 * 32 = 2097152 by decide)
  obtain ⟨q4, f4⟩ := part q3 rfl d.isLt (show 2097152 * 32 = 67108864 by decide)
  refine ⟨q4, ?_⟩
  refine (if_neg (fun h => absurd (f0.symm.trans h) (by decide))).trans <|
    (if_neg (fun h => absurd (f0.symm.trans h) (by decide))).trans <|
    (if_pos f0).trans ?_
  rw [show fld N 25 21 = d from fld_eq f4 rfl rfl,
    show fld N 20 16 = a from fld_eq f3 rfl rfl,
    show fld N 15 11 = b from fld_eq f2 rfl rfl,
    show fld N 10 8 = t from fld_eq f1 rfl rfl]

theorem vmulhScalar (d : BitVec 5) (a : BitVec 5) (b : BitVec 5) (t : BitVec 3) : Statement (.vmulhScalar d a b t) := by
  refine of_fields (n := 0x8C000003 + put d 21 + put a 16 + put b 11 + put t 8) 35 (by decide) rfl fun N hN => ?_
  have hN : N = ((((35 * 32 + d.toNat) * 32 + a.toNat) * 32 + b.toNat) * 8 + t.toNat) * 256 + 3 := by
    simp only [put, Nat.reducePow] at hN; omega
  obtain ⟨q0, f0⟩ := part_zero hN (by decide)
  obtain ⟨q1, f1⟩ := part q0 rfl t.isLt (show 256 * 8 = 2048 by decide)
  obtain ⟨q2, f2⟩ := part q1 rfl b.isLt (show 2048 * 32 = 65536 by decide)
  obtain ⟨q3, f3⟩ := part q2 rfl a.isLt (show 65536 * 32 = 2097152 by decide)
  obtain ⟨q4, f4⟩ := part q3 rfl d.isLt (show 2097152 * 32 = 67108864 by decide)
  refine ⟨q4, ?_⟩
  refine (if_neg (fun h => absurd (f0.symm.trans h) (by decide))).trans <|
    (if_neg (fun h => absurd (f0.symm.trans h) (by decide))).trans <|
    (if_neg (fun h => absurd (f0.symm.trans h) (by decide))).trans <|
    (if_pos f0).trans ?_
  rw [show fld N 25 21 = d from fld_eq f4 rfl rfl,
    show fld N 20 16 = a from fld_eq f3 rfl rfl,
    show fld N 15 11 = b from fld_eq f2 rfl rfl,
    show fld N 10 8 = t from fld_eq f1 rfl rfl]

theorem vminScalar (d : BitVec 5) (a : BitVec 5) (b : BitVec 5) (t : BitVec 3) : Statement (.vminScalar d a b t) := by
  refine of_fields (n := 0x8C000004 + put d 21 + put a 16 + put b 11 + put t 8) 35 (by decide) rfl fun N hN => ?_
  have hN : N = ((((35 * 32 + d.toNat) * 32 + a.toNat) * 32 + b.toNat) * 8 + t.toNat) * 256 + 4 := by
    simp only [put, Nat.reducePow] at hN; omega
  obtain ⟨q0, f0⟩ := part_zero hN (by decide)
  obtain ⟨q1, f1⟩ := part q0 rfl t.isLt (show 256 * 8 = 2048 by decide)
  obtain ⟨q2, f2⟩ := part q1 rfl b.isLt (show 2048 * 32 = 65536 by decide)
  obtain ⟨q3, f3⟩ := part q2 rfl a.isLt (show 65536 * 32 = 2097152 by decide)
  obtain ⟨q4, f4⟩ := part q3 rfl d.isLt (show 2097152 * 32 = 67108864 by decide)
  refine ⟨q4, ?_⟩
  refine (if_neg (fun h => absurd (f0.symm.trans h) (by decide))).trans <|
    (if_neg (fun h => absurd (f0.symm.trans h) (by decide))).trans <|
    (if_neg (fun h => absurd (f0.symm.trans h) (by decide))).trans <|
    (if_neg (fun h => absurd (f0.symm.trans h) (by decide))).trans <|
    (if_pos f0).trans ?_
  rw [show fld N 25 21 = d from fld_eq f4 rfl rfl,
    show fld N 20 16 = a from fld_eq f3 rfl rfl,
    show fld N 15 11 = b from fld_eq f2 rfl rfl,
    show fld N 10 8 = t from fld_eq f1 rfl rfl]

theorem vmaxScalar (d : BitVec 5) (a : BitVec 5) (b : BitVec 5) (t : BitVec 3) : Statement (.vmaxScalar d a b t) := by
  refine of_fields (n := 0x8C000005 + put d 21 + put a 16 + put b 11 + put t 8) 35 (by decide) rfl fun N hN => ?_
  have hN : N = ((((35 * 32 + d.toNat) * 32 + a.toNat) * 32 + b.toNat) * 8 + t.toNat) * 256 + 5 := by
    simp only [put, Nat.reducePow] at hN; omega
  obtain ⟨q0, f0⟩ := part_zero hN (by decide)
  obtain ⟨q1, f1⟩ := part q0 rfl t.isLt (show 256 * 8 = 2048 by decide)
  obtain ⟨q2, f2⟩ := part q1 rfl b.isLt (show 2048 * 32 = 65536 by decide)
  obtain ⟨q3, f3⟩ := part q2 rfl a.isLt (show 65536 * 32 = 2097152 by decide)
  obtain ⟨q4, f4⟩ := part q3 rfl d.isLt (show 2097152 * 32 = 67108864 by decide)
  refine ⟨q4, ?_⟩
  refine (if_neg (fun h => absurd (f0.symm.trans h) (by decide))).trans <|
    (if_neg (fun h => absurd (f0.symm.trans h) (by decide))).trans <|
    (if_neg (fun h => absurd (f0.symm.trans h) (by decide))).trans <|
    (if_neg (fun h => absurd (f0.symm.trans h) (by decide))).trans <|
    (if_neg (fun h => absurd (f0.symm.trans h) (by decide))).trans <|
    (if_pos f0).trans ?_
  rw [show fld N 25 21 = d from fld_eq f4 rfl rfl,
    show fld N 20 16 = a from fld_eq f3 rfl rfl,
    show fld N 15 11 = b from fld_eq f2 rfl rfl,
    show fld N 10 8 = t from fld_eq f1 rfl rfl]

theorem vminuScalar (d : BitVec 5) (a : BitVec 5) (b : BitVec 5) (t : BitVec 3) : Statement (.vminuScalar d a b t) := by
  refine of_fields (n := 0x8C000006 + put d 21 + put a 16 + put b 11 + put t 8) 35 (by decide) rfl fun N hN => ?_
  have hN : N = ((((35 * 32 + d.toNat) * 32 + a.toNat) * 32 + b.toNat) * 8 + t.toNat) * 256 + 6 := by
    simp only [put, Nat.reducePow] at hN; omega
  obtain ⟨q0, f0⟩ := part_zero hN (by decide)
  obtain ⟨q1, f1⟩ := part q0 rfl t.isLt (show 256 * 8 = 2048 by decide)
  obtain ⟨q2, f2⟩ := part q1 rfl b.isLt (show 2048 * 32 = 65536 by decide)
  obtain ⟨q3, f3⟩ := part q2 rfl a.isLt (show 65536 * 32 = 2097152 by decide)
  obtain ⟨q4, f4⟩ := part q3 rfl d.isLt (show 2097152 * 32 = 67108864 by decide)
  refine ⟨q4, ?_⟩
  refine (if_neg (fun h => absurd (f0.symm.trans h) (by decide))).trans <|
    (if_neg (fun h => absurd (f0.symm.trans h) (by decide))).trans <|
    (if_neg (fun h => absurd (f0.symm.trans h) (by decide))).trans <|
    (if_neg (fun h => absurd (f0.symm.trans h) (by decide))).trans <|
    (if_neg (fun h => absurd (f0.symm.trans h) (by decide))).trans <|
    (if_neg (fun h => absurd (f0.symm.trans h) (by decide))).trans <|
    (if_pos f0).trans ?_
  rw [show fld N 25 21 = d from fld_eq f4 rfl rfl,
    show fld N 20 16 = a from fld_eq f3 rfl rfl,
    show fld N 15 11 = b from fld_eq f2 rfl rfl,
    show fld N 10 8 = t from fld_eq f1 rfl rfl]

theorem vmaxuScalar (d : BitVec 5) (a : BitVec 5) (b : BitVec 5) (t : BitVec 3) : Statement (.vmaxuScalar d a b t) := by
  refine of_fields (n := 0x8C000007 + put d 21 + put a 16 + put b 11 + put t 8) 35 (by decide) rfl fun N hN => ?_
  have hN : N = ((((35 * 32 + d.toNat) * 32 + a.toNat) * 32 + b.toNat) * 8 + t.toNat) * 256 + 7 := by
    simp only [put, Nat.reducePow] at hN; omega
  obtain ⟨q0, f0⟩ := part_zero hN (by decide)
  obtain ⟨q1, f1⟩ := part q0 rfl t.isLt (show 256 * 8 = 2048 by decide)
  obtain ⟨q2, f2⟩ := part q1 rfl b.isLt (show 2048 * 32 = 65536 by decide)
  obtain ⟨q3, f3⟩ := part q2 rfl a.isLt (show 65536 * 32 = 2097152 by decide)
  obtain ⟨q4, f4⟩ := part q3 rfl d.isLt (show 2097152 * 32 = 67108864 by decide)
  refine ⟨q4, ?_⟩
  refine (if_neg (fun h => absurd (f0.symm.trans h) (by decide))).trans <|
    (if_neg (fun h => absurd (f0.symm.trans h) (by decide))).trans <|
    (if_neg (fun h => absurd (f0.symm.trans h) (by decide))).trans <|
    (if_neg (fun h => absurd (f0.symm.trans h) (by decide))).trans <|
    (if_neg (fun h => absurd (f0.symm.trans h) (by decide))).trans <|
    (if_neg (fun h => absurd (f0.symm.trans h) (by decide))).trans <|
    (if_neg (fun h => absurd (f0.symm.trans h) (by decide))).trans <|
    (if_pos f0).trans ?_
  rw [show fld N 25 21 = d from fld_eq f4 rfl rfl,
    show fld N 20 16 = a from fld_eq f3 rfl rfl,
    show fld N 15 11 = b from fld_eq f2 rfl rfl,
    show fld N 10 8 = t from fld_eq f1 rfl rfl]

theorem vandScalar (d : BitVec 5) (a : BitVec 5) (b : BitVec 5) (t : BitVec 3) : Statement (.vandScalar d a b t) := by
  refine of_fields (n := 0x8C000008 + put d 21 + put a 16 + put b 11 + put t 8) 35 (by decide) rfl fun N hN => ?_
  have hN : N = ((((35 * 32 + d.toNat) * 32 + a.toNat) * 32 + b.toNat) * 8 + t.toNat) * 256 + 8 := by
    simp only [put, Nat.reducePow] at hN; omega
  obtain ⟨q0, f0⟩ := part_zero hN (by decide)
  obtain ⟨q1, f1⟩ := part q0 rfl t.isLt (show 256 * 8 = 2048 by decide)
  obtain ⟨q2, f2⟩ := part q1 rfl b.isLt (show 2048 * 32 = 65536 by decide)
  obtain ⟨q3, f3⟩ := part q2 rfl a.isLt (show 65536 * 32 = 2097152 by decide)
  obtain ⟨q4, f4⟩ := part q3 rfl d.isLt (show 2097152 * 32 = 67108864 by decide)
  refine ⟨q4, ?_⟩
  refine (if_neg (fun h => absurd (f0.symm.trans h) (by decide))).trans <|
    (if_neg (fun h => absurd (f0.symm.trans h) (by decide))).trans <|
    (if_neg (fun h => absurd (f0.symm.trans h) (by decide))).trans <|
    (if_neg (fun h => absurd (f0.symm.trans h) (by decide))).trans <|
    (if_neg (fun h => absurd (f0.symm.trans h) (by decide))).trans <|
    (if_neg (fun h => absurd (f0.symm.trans h) (by decide))).trans <|
    (if_neg (fun h => absurd (f0.symm.trans h) (by decide))).trans <|
    (if_neg (fun h => absurd (f0.symm.trans h) (by decide))).trans <|
    (if_pos f0).trans ?_
  rw [show fld N 25 21 = d from fld_eq f4 rfl rfl,
    show fld N 20 16 = a from fld_eq f3 rfl rfl,
    show fld N 15 11 = b from fld_eq f2 rfl rfl,
    show fld N 10 8 = t from fld_eq f1 rfl rfl]

theorem vorScalar (d : BitVec 5) (a : BitVec 5) (b : BitVec 5) (t : BitVec 3) : Statement (.vorScalar d a b t) := by
  refine of_fields (n := 0x8C000009 + put d 21 + put a 16 + put b 11 + put t 8) 35 (by decide) rfl fun N hN => ?_
  have hN : N = ((((35 * 32 + d.toNat) * 32 + a.toNat) * 32 + b.toNat) * 8 + t.toNat) * 256 + 9 := by
    simp only [put, Nat.reducePow] at hN; omega
  obtain ⟨q0, f0⟩ := part_zero hN (by decide)
  obtain ⟨q1, f1⟩ := part q0 rfl t.isLt (show 256 * 8 = 2048 by decide)
  obtain ⟨q2, f2⟩ := part q1 rfl b.isLt (show 2048 * 32 = 65536 by decide)
  obtain ⟨q3, f3⟩ := part q2 rfl a.isLt (show 65536 * 32 = 2097152 by decide)
  obtain ⟨q4, f4⟩ := part q3 rfl d.isLt (show 2097152 * 32 = 67108864 by decide)
  refine ⟨q4, ?_⟩
  refine (if_neg (fun h => absurd (f0.symm.trans h) (by decide))).trans <|
    (if_neg (fun h => absurd (f0.symm.trans h) (by decide))).trans <|
    (if_neg (fun h => absurd (f0.symm.trans h) (by decide))).trans <|
    (if_neg (fun h => absurd (f0.symm.trans h) (by decide))).trans <|
    (if_neg (fun h => absurd (f0.symm.trans h) (by decide))).trans <|
    (if_neg (fun h => absurd (f0.symm.trans h) (by decide))).trans <|
    (if_neg (fun h => absurd (f0.symm.trans h) (by decide))).trans <|
    (if_neg (fun h => absurd (f0.symm.trans h) (by decide))).trans <|
    (if_neg (fun h => absurd (f0.symm.trans h) (by decide))).trans <|
    (if_pos f0).trans ?_
  rw [show fld N 25 21 = d from fld_eq f4 rfl rfl,
    show fld N 20 16 = a from fld_eq f3 rfl rfl,
    show fld N 15 11 = b from fld_eq f2 rfl rfl,
    show fld N 10 8 = t from fld_eq f1 rfl rfl]

theorem vxorScalar (d : BitVec 5) (a : BitVec 5) (b : BitVec 5) (t : BitVec 3) : Statement (.vxorScalar d a b t) := by
  refine of_fields (n := 0x8C00000A + put d 21 + put a 16 + put b 11 + put t 8) 35 (by decide) rfl fun N hN => ?_
  have hN : N = ((((35 * 32 + d.toNat) * 32 + a.toNat) * 32 + b.toNat) * 8 + t.toNat) * 256 + 10 := by
    simp only [put, Nat.reducePow] at hN; omega
  obtain ⟨q0, f0⟩ := part_zero hN (by decide)
  obtain ⟨q1, f1⟩ := part q0 rfl t.isLt (show 256 * 8 = 2048 by decide)
  obtain ⟨q2, f2⟩ := part q1 rfl b.isLt (show 2048 * 32 = 65536 by decide)
  obtain ⟨q3, f3⟩ := part q2 rfl a.isLt (show 65536 * 32 = 2097152 by decide)
  obtain ⟨q4, f4⟩ := part q3 rfl d.isLt (show 2097152 * 32 = 67108864 by decide)
  refine ⟨q4, ?_⟩
  refine (if_neg (fun h => absurd (f0.symm.trans h) (by decide))).trans <|
    (if_neg (fun h => absurd (f0.symm.trans h) (by decide))).trans <|
    (if_neg (fun h => absurd (f0.symm.trans h) (by decide))).trans <|
    (if_neg (fun h => absurd (f0.symm.trans h) (by decide))).trans <|
    (if_neg (fun h => absurd (f0.symm.trans h) (by decide))).trans <|
    (if_neg (fun h => absurd (f0.symm.trans h) (by decide))).trans <|
    (if_neg (fun h => absurd (f0.symm.trans h) (by decide))).trans <|
    (if_neg (fun h => absurd (f0.symm.trans h) (by decide))).trans <|
    (if_neg (fun h => absurd (f0.symm.trans h) (by decide))).trans <|
    (if_neg (fun h => absurd (f0.symm.trans h) (by decide))).trans <|
    (if_pos f0).trans ?_
  rw [show fld N 25 21 = d from fld_eq f4 rfl rfl,
    show fld N 20 16 = a from fld_eq f3 rfl rfl,
    show fld N 15 11 = b from fld_eq f2 rfl rfl,
    show fld N 10 8 = t from fld_eq f1 rfl rfl]

theorem vshlScalar (d : BitVec 5) (a : BitVec 5) (b : BitVec 5) (t : BitVec 3) : Statement (.vshlScalar d a b t) := by
  refine of_fields (n := 0x8C00000B + put d 21 + put a 16 + put b 11 + put t 8) 35 (by decide) rfl fun N hN => ?_
  have hN : N = ((((35 * 32 + d.toNat) * 32 + a.toNat) * 32 + b.toNat) * 8 + t.toNat) * 256 + 11 := by
    simp only [put, Nat.reducePow] at hN; omega
  obtain ⟨q0, f0⟩ := part_zero hN (by decide)
  obtain ⟨q1, f1⟩ := part q0 rfl t.isLt (show 256 * 8 = 2048 by decide)
  obtain ⟨q2, f2⟩ := part q1 rfl b.isLt (show 2048 * 32 = 65536 by decide)
  obtain ⟨q3, f3⟩ := part q2 rfl a.isLt (show 65536 * 32 = 2097152 by decide)
  obtain ⟨q4, f4⟩ := part q3 rfl d.isLt (show 2097152 * 32 = 67108864 by decide)
  refine ⟨q4, ?_⟩
  refine (if_neg (fun h => absurd (f0.symm.trans h) (by decide))).trans <|
    (if_neg (fun h => absurd (f0.symm.trans h) (by decide))).trans <|
    (if_neg (fun h => absurd (f0.symm.trans h) (by decide))).trans <|
    (if_neg (fun h => absurd (f0.symm.trans h) (by decide))).trans <|
    (if_neg (fun h => absurd (f0.symm.trans h) (by decide))).trans <|
    (if_neg (fun h => absurd (f0.symm.trans h) (by decide))).trans <|
    (if_neg (fun h => absurd (f0.symm.trans h) (by decide))).trans <|
    (if_neg (fun h => absurd (f0.symm.trans h) (by decide))).trans <|
    (if_neg (fun h => absurd (f0.symm.trans h) (by decide))).trans <|
    (if_neg (fun h => absurd (f0.symm.trans h) (by decide))).trans <|
    (if_neg (fun h => absurd (f0.symm.trans h) (by decide))).trans <|
    (if_pos f0).trans ?_
  rw [show fld N 25 21 = d from fld_eq f4 rfl rfl,
    show fld N 20 16 = a from fld_eq f3 rfl rfl,
    show fld N 15 11 = b from fld_eq f2 rfl rfl,
    show fld N 10 8 = t from fld_eq f1 rfl rfl]

theorem vshrScalar (d : BitVec 5) (a : BitVec 5) (b : BitVec 5) (t : BitVec 3) : Statement (.vshrScalar d a b t) := by
  refine of_fields (n := 0x8C00000C + put d 21 + put a 16 + put b 11 + put t 8) 35 (by decide) rfl fun N hN => ?_
  have hN : N = ((((35 * 32 + d.toNat) * 32 + a.toNat) * 32 + b.toNat) * 8 + t.toNat) * 256 + 12 := by
    simp only [put, Nat.reducePow] at hN; omega
  obtain ⟨q0, f0⟩ := part_zero hN (by decide)
  obtain ⟨q1, f1⟩ := part q0 rfl t.isLt (show 256 * 8 = 2048 by decide)
  obtain ⟨q2, f2⟩ := part q1 rfl b.isLt (show 2048 * 32 = 65536 by decide)
  obtain ⟨q3, f3⟩ := part q2 rfl a.isLt (show 65536 * 32 = 2097152 by decide)
  obtain ⟨q4, f4⟩ := part q3 rfl d.isLt (show 2097152 * 32 = 67108864 by decide)
  refine ⟨q4, ?_⟩
  refine (if_neg (fun h => absurd (f0.symm.trans h) (by decide))).trans <|
    (if_neg (fun h => absurd (f0.symm.trans h) (by decide))).trans <|
    (if_neg (fun h => absurd (f0.symm.trans h) (by decide))).trans <|
    (if_neg (fun h => absurd (f0.symm.trans h) (by decide))).trans <|
    (if_neg (fun h => absurd (f0.symm.trans h) (by decide))).trans <|
    (if_neg (fun h => absurd (f0.symm.trans h) (by decide))).trans <|
    (if_neg (fun h => absurd (f0.symm.trans h) (by decide))).trans <|
    (if_neg (fun h => absurd (f0.symm.trans h) (by decide))).trans <|
    (if_neg (fun h => absurd (f0.symm.trans h) (by decide))).trans <|
    (if_neg (fun h => absurd (f0.symm.trans h) (by decide))).trans <|
    (if_neg (fun h => absurd (f0.symm.trans h) (by decide))).trans <|
    (if_neg (fun h => absurd (f0.symm.trans h) (by decide))).trans <|
    (if_pos f0).trans ?_
  rw [show fld N 25 21 = d from fld_eq f4 rfl rfl,
    show fld N 20 16 = a from fld_eq f3 rfl rfl,
    show fld N 15 11 = b from fld_eq f2 rfl rfl,
    show fld N 10 8 = t from fld_eq f1 rfl rfl]

theorem vsraScalar (d : BitVec 5) (a : BitVec 5) (b : BitVec 5) (t : BitVec 3) : Statement (.vsraScalar d a b t) := by
  refine of_fields (n := 0x8C00000D + put d 21 + put a 16 + put b 11 + put t 8) 35 (by decide) rfl fun N hN => ?_
  have hN : N = ((((35 * 32 + d.toNat) * 32 + a.toNat) * 32 + b.toNat) * 8 + t.toNat) * 256 + 13 := by
    simp only [put, Nat.reducePow] at hN; omega
  obtain ⟨q0, f0⟩ := part_zero hN (by decide)
  obtain ⟨q1, f1⟩ := part q0 rfl t.isLt (show 256 * 8 = 2048 by decide)
  obtain ⟨q2, f2⟩ := part q1 rfl b.isLt (show 2048 * 32 = 65536 by decide)
  obtain ⟨q3, f3⟩ := part q2 rfl a.isLt (show 65536 * 32 = 2097152 by decide)
  obtain ⟨q4, f4⟩ := part q3 rfl d.isLt (show 2097152 * 32 = 67108864 by decide)
  refine ⟨q4, ?_⟩
  refine (if_neg (fun h => absurd (f0.symm.trans h) (by decide))).trans <|
    (if_neg (fun h => absurd (f0.symm.trans h) (by decide))).trans <|
    (if_neg (fun h => absurd (f0.symm.trans h) (by decide))).trans <|
    (if_neg (fun h => absurd (f0.symm.trans h) (by decide))).trans <|
    (if_neg (fun h => absurd (f0.symm.trans h) (by decide))).trans <|
    (if_neg (fun h => absurd (f0.symm.trans h) (by decide))).trans <|
    (if_neg (fun h => absurd (f0.symm.trans h) (by decide))).trans <|
    (if_neg (fun h => absurd (f0.symm.trans h) (by decide))).trans <|
    (if_neg (fun h => absurd (f0.symm.trans h) (by decide))).trans <|
    (if_neg (fun h => absurd (f0.symm.trans h) (by decide))).trans <|
    (if_neg (fun h => absurd (f0.symm.trans h) (by decide))).trans <|
    (if_neg (fun h => absurd (f0.symm.trans h) (by decide))).trans <|
    (if_neg (fun h => absurd (f0.symm.trans h) (by decide))).trans <|
    (if_pos f0).trans ?_
  rw [show fld N 25 21 = d from fld_eq f4 rfl rfl,
    show fld N 20 16 = a from fld_eq f3 rfl rfl,
    show fld N 15 11 = b from fld_eq f2 rfl rfl,
    show fld N 10 8 = t from fld_eq f1 rfl rfl]

theorem vfmaScalar (d : BitVec 5) (a : BitVec 5) (b : BitVec 5) (t : BitVec 3) : Statement (.vfmaScalar d a b t) := by
  refine of_fields (n := 0x8C00000E + put d 21 + put a 16 + put b 11 + put t 8) 35 (by decide) rfl fun N hN => ?_
  have hN : N = ((((35 * 32 + d.toNat) * 32 + a.toNat) * 32 + b.toNat) * 8 + t.toNat) * 256 + 14 := by
    simp only [put, Nat.reducePow] at hN; omega
  obtain ⟨q0, f0⟩ := part_zero hN (by decide)
  obtain ⟨q1, f1⟩ := part q0 rfl t.isLt (show 256 * 8 = 2048 by decide)
  obtain ⟨q2, f2⟩ := part q1 rfl b.isLt (show 2048 * 32 = 65536 by decide)
  obtain ⟨q3, f3⟩ := part q2 rfl a.isLt (show 65536 * 32 = 2097152 by decide)
  obtain ⟨q4, f4⟩ := part q3 rfl d.isLt (show 2097152 * 32 = 67108864 by decide)
  refine ⟨q4, ?_⟩
  refine (if_neg (fun h => absurd (f0.symm.trans h) (by decide))).trans <|
    (if_neg (fun h => absurd (f0.symm.trans h) (by decide))).trans <|
    (if_neg (fun h => absurd (f0.symm.trans h) (by decide))).trans <|
    (if_neg (fun h => absurd (f0.symm.trans h) (by decide))).trans <|
    (if_neg (fun h => absurd (f0.symm.trans h) (by decide))).trans <|
    (if_neg (fun h => absurd (f0.symm.trans h) (by decide))).trans <|
    (if_neg (fun h => absurd (f0.symm.trans h) (by decide))).trans <|
    (if_neg (fun h => absurd (f0.symm.trans h) (by decide))).trans <|
    (if_neg (fun h => absurd (f0.symm.trans h) (by decide))).trans <|
    (if_neg (fun h => absurd (f0.symm.trans h) (by decide))).trans <|
    (if_neg (fun h => absurd (f0.symm.trans h) (by decide))).trans <|
    (if_neg (fun h => absurd (f0.symm.trans h) (by decide))).trans <|
    (if_neg (fun h => absurd (f0.symm.trans h) (by decide))).trans <|
    (if_neg (fun h => absurd (f0.symm.trans h) (by decide))).trans <|
    (if_pos f0).trans ?_
  rw [show fld N 25 21 = d from fld_eq f4 rfl rfl,
    show fld N 20 16 = a from fld_eq f3 rfl rfl,
    show fld N 15 11 = b from fld_eq f2 rfl rfl,
    show fld N 10 8 = t from fld_eq f1 rfl rfl]

theorem vminnScalar (d : BitVec 5) (a : BitVec 5) (b : BitVec 5) (t : BitVec 3) : Statement (.vminnScalar d a b t) := by
  refine of_fields (n := 0x8C000011 + put d 21 + put a 16 + put b 11 + put t 8) 35 (by decide) rfl fun N hN => ?_
  have hN : N = ((((35 * 32 + d.toNat) * 32 + a.toNat) * 32 + b.toNat) * 8 + t.toNat) * 256 + 17 := by
    simp only [put, Nat.reducePow] at hN; omega
  obtain ⟨q0, f0⟩ := part_zero hN (by decide)
  obtain ⟨q1, f1⟩ := part q0 rfl t.isLt (show 256 * 8 = 2048 by decide)
  obtain ⟨q2, f2⟩ := part q1 rfl b.isLt (show 2048 * 32 = 65536 by decide)
  obtain ⟨q3, f3⟩ := part q2 rfl a.isLt (show 65536 * 32 = 2097152 by decide)
  obtain ⟨q4, f4⟩ := part q3 rfl d.isLt (show 2097152 * 32 = 67108864 by decide)
  refine ⟨q4, ?_⟩
  refine (if_neg (fun h => absurd (f0.symm.trans h) (by decide))).trans <|
    (if_neg (fun h => absurd (f0.symm.trans h) (by decide))).trans <|
    (if_neg (fun h => absurd (f0.symm.trans h) (by decide))).trans <|
    (if_neg (fun h => absurd (f0.symm.trans h) (by decide))).trans <|
    (if_neg (fun h => absurd (f0.symm.trans h) (by decide))).trans <|
    (if_neg (fun h => absurd (f0.symm.trans h) (by decide))).trans <|
    (if_neg (fun h => absurd (f0.symm.trans h) (by decide))).trans <|
    (if_neg (fun h => absurd (f0.symm.trans h) (by decide))).trans <|
    (if_neg (fun h => absurd (f0.symm.trans h) (by decide))).trans <|
    (if_neg (fun h => absurd (f0.symm.trans h) (by decide))).trans <|
    (if_neg (fun h => absurd (f0.symm.trans h) (by decide))).trans <|
    (if_neg (fun h => absurd (f0.symm.trans h) (by decide))).trans <|
    (if_neg (fun h => absurd (f0.symm.trans h) (by decide))).trans <|
    (if_neg (fun h => absurd (f0.symm.trans h) (by decide))).trans <|
    (if_neg (fun h => absurd (f0.symm.trans h) (by decide))).trans <|
    (if_pos f0).trans ?_
  rw [show fld N 25 21 = d from fld_eq f4 rfl rfl,
    show fld N 20 16 = a from fld_eq f3 rfl rfl,
    show fld N 15 11 = b from fld_eq f2 rfl rfl,
    show fld N 10 8 = t from fld_eq f1 rfl rfl]

theorem vmaxnScalar (d : BitVec 5) (a : BitVec 5) (b : BitVec 5) (t : BitVec 3) : Statement (.vmaxnScalar d a b t) := by
  refine of_fields (n := 0x8C000012 + put d 21 + put a 16 + put b 11 + put t 8) 35 (by decide) rfl fun N hN => ?_
  have hN : N = ((((35 * 32 + d.toNat) * 32 + a.toNat) * 32 + b.toNat) * 8 + t.toNat) * 256 + 18 := by
    simp only [put, Nat.reducePow] at hN; omega
  obtain ⟨q0, f0⟩ := part_zero hN (by decide)
  obtain ⟨q1, f1⟩ := part q0 rfl t.isLt (show 256 * 8 = 2048 by decide)
  obtain ⟨q2, f2⟩ := part q1 rfl b.isLt (show 2048 * 32 = 65536 by decide)
  obtain ⟨q3, f3⟩ := part q2 rfl a.isLt (show 65536 * 32 = 2097152 by decide)
  obtain ⟨q4, f4⟩ := part q3 rfl d.isLt (show 2097152 * 32 = 67108864 by decide)
  refine ⟨q4, ?_⟩
  refine (if_neg (fun h => absurd (f0.symm.trans h) (by decide))).trans <|
    (if_neg (fun h => absurd (f0.symm.trans h) (by decide))).trans <|
    (if_neg (fun h => absurd (f0.symm.trans h) (by decide))).trans <|
    (if_neg (fun h => absurd (f0.symm.trans h) (by decide))).trans <|
    (if_neg (fun h => absurd (f0.symm.trans h) (by decide))).trans <|
    (if_neg (fun h => absurd (f0.symm.trans h) (by decide))).trans <|
    (if_neg (fun h => absurd (f0.symm.trans h) (by decide))).trans <|
    (if_neg (fun h => absurd (f0.symm.trans h) (by decide))).trans <|
    (if_neg (fun h => absurd (f0.symm.trans h) (by decide))).trans <|
    (if_neg (fun h => absurd (f0.symm.trans h) (by decide))).trans <|
    (if_neg (fun h => absurd (f0.symm.trans h) (by decide))).trans <|
    (if_neg (fun h => absurd (f0.symm.trans h) (by decide))).trans <|
    (if_neg (fun h => absurd (f0.symm.trans h) (by decide))).trans <|
    (if_neg (fun h => absurd (f0.symm.trans h) (by decide))).trans <|
    (if_neg (fun h => absurd (f0.symm.trans h) (by decide))).trans <|
    (if_neg (fun h => absurd (f0.symm.trans h) (by decide))).trans <|
    (if_pos f0).trans ?_
  rw [show fld N 25 21 = d from fld_eq f4 rfl rfl,
    show fld N 20 16 = a from fld_eq f3 rfl rfl,
    show fld N 15 11 = b from fld_eq f2 rfl rfl,
    show fld N 10 8 = t from fld_eq f1 rfl rfl]

theorem vcmp (k : BitVec 3) (a : BitVec 5) (b : BitVec 5) (t : BitVec 3) (n : BitVec 1) (c : BitVec 5) : Statement (.vcmp k a b t n c) := by
  refine of_fields (n := 0x90000000 + put k 21 + put a 16 + put b 11 + put t 8 + put n 5 + put c 0) 36 (by decide) rfl fun N hN => ?_
  have hN : N = (((((((36 * 4 + 0) * 8 + k.toNat) * 32 + a.toNat) * 32 + b.toNat) * 8 + t.toNat) * 4 + 0) * 2 + n.toNat) * 32 + c.toNat := by
    simp only [put, Nat.reducePow] at hN; omega
  obtain ⟨q0, f0⟩ := part_zero hN c.isLt
  obtain ⟨q1, f1⟩ := part q0 rfl n.isLt (show 32 * 2 = 64 by decide)
  obtain ⟨q2, f2⟩ := part q1 rfl (by decide) (show 64 * 4 = 256 by decide)
  obtain ⟨q3, f3⟩ := part q2 rfl t.isLt (show 256 * 8 = 2048 by decide)
  obtain ⟨q4, f4⟩ := part q3 rfl b.isLt (show 2048 * 32 = 65536 by decide)
  obtain ⟨q5, f5⟩ := part q4 rfl a.isLt (show 65536 * 32 = 2097152 by decide)
  obtain ⟨q6, f6⟩ := part q5 rfl k.isLt (show 2097152 * 8 = 16777216 by decide)
  obtain ⟨q7, f7⟩ := part q6 rfl (by decide) (show 16777216 * 4 = 67108864 by decide)
  refine ⟨q7, ?_⟩
  refine (if_pos ⟨f2, f7⟩).trans ?_
  rw [show fld N 23 21 = k from fld_eq f6 rfl rfl,
    show fld N 20 16 = a from fld_eq f5 rfl rfl,
    show fld N 15 11 = b from fld_eq f4 rfl rfl,
    show fld N 10 8 = t from fld_eq f3 rfl rfl,
    show fld N 5 5 = n from fld_eq f1 rfl rfl,
    show fld N 4 0 = c from fld_zero f0 rfl]

theorem vpermb (d : BitVec 5) (a : BitVec 5) (b : BitVec 5) : Statement (.vpermb d a b) := by
  refine of_fields (n := 0x94000000 + put d 21 + put a 16 + put b 11) 37 (by decide) rfl fun N hN => ?_
  have hN : N = (((37 * 32 + d.toNat) * 32 + a.toNat) * 32 + b.toNat) * 2048 + 0 := by
    simp only [put, Nat.reducePow] at hN; omega
  obtain ⟨q0, f0⟩ := part_zero hN (by decide)
  obtain ⟨q1, f1⟩ := part q0 rfl b.isLt (show 2048 * 32 = 65536 by decide)
  obtain ⟨q2, f2⟩ := part q1 rfl a.isLt (show 65536 * 32 = 2097152 by decide)
  obtain ⟨q3, f3⟩ := part q2 rfl d.isLt (show 2097152 * 32 = 67108864 by decide)
  refine ⟨q3, ?_⟩
  refine (if_pos f0).trans ?_
  rw [show fld N 25 21 = d from fld_eq f3 rfl rfl,
    show fld N 20 16 = a from fld_eq f2 rfl rfl,
    show fld N 15 11 = b from fld_eq f1 rfl rfl]

theorem vshuf (d : BitVec 5) (a : BitVec 5) (b : BitVec 5) (t : BitVec 3) : Statement (.vshuf d a b t) := by
  refine of_fields (n := 0x94000001 + put d 21 + put a 16 + put b 11 + put t 8) 37 (by decide) rfl fun N hN => ?_
  have hN : N = ((((37 * 32 + d.toNat) * 32 + a.toNat) * 32 + b.toNat) * 8 + t.toNat) * 256 + 1 := by
    simp only [put, Nat.reducePow] at hN; omega
  obtain ⟨q0, f0⟩ := part_zero hN (by decide)
  obtain ⟨q1, f1⟩ := part q0 rfl t.isLt (show 256 * 8 = 2048 by decide)
  obtain ⟨q2, f2⟩ := part q1 rfl b.isLt (show 2048 * 32 = 65536 by decide)
  obtain ⟨q3, f3⟩ := part q2 rfl a.isLt (show 65536 * 32 = 2097152 by decide)
  obtain ⟨q4, f4⟩ := part q3 rfl d.isLt (show 2097152 * 32 = 67108864 by decide)
  refine ⟨q4, ?_⟩
  refine (if_neg (by omega)).trans <|
    (if_pos f0).trans ?_
  rw [show fld N 25 21 = d from fld_eq f4 rfl rfl,
    show fld N 20 16 = a from fld_eq f3 rfl rfl,
    show fld N 15 11 = b from fld_eq f2 rfl rfl,
    show fld N 10 8 = t from fld_eq f1 rfl rfl]

theorem vbcast (d : BitVec 5) (a : BitVec 5) (t : BitVec 3) : Statement (.vbcast d a t) := by
  refine of_fields (n := 0x94000002 + put d 21 + put a 16 + put t 8) 37 (by decide) rfl fun N hN => ?_
  have hN : N = ((((37 * 32 + d.toNat) * 32 + a.toNat) * 32 + 0) * 8 + t.toNat) * 256 + 2 := by
    simp only [put, Nat.reducePow] at hN; omega
  obtain ⟨q0, f0⟩ := part_zero hN (by decide)
  obtain ⟨q1, f1⟩ := part q0 rfl t.isLt (show 256 * 8 = 2048 by decide)
  obtain ⟨q2, f2⟩ := part q1 rfl (by decide) (show 2048 * 32 = 65536 by decide)
  obtain ⟨q3, f3⟩ := part q2 rfl a.isLt (show 65536 * 32 = 2097152 by decide)
  obtain ⟨q4, f4⟩ := part q3 rfl d.isLt (show 2097152 * 32 = 67108864 by decide)
  refine ⟨q4, ?_⟩
  refine (if_neg (by omega)).trans <|
    (if_neg (fun h => absurd (f0.symm.trans h) (by decide))).trans <|
    (if_pos ⟨f0, f2⟩).trans ?_
  rw [show fld N 25 21 = d from fld_eq f4 rfl rfl,
    show fld N 20 16 = a from fld_eq f3 rfl rfl,
    show fld N 10 8 = t from fld_eq f1 rfl rfl]

theorem vslide (d : BitVec 5) (a : BitVec 5) (b : BitVec 5) (t : BitVec 3) : Statement (.vslide d a b t) := by
  refine of_fields (n := 0x94000003 + put d 21 + put a 16 + put b 11 + put t 8) 37 (by decide) rfl fun N hN => ?_
  have hN : N = ((((37 * 32 + d.toNat) * 32 + a.toNat) * 32 + b.toNat) * 8 + t.toNat) * 256 + 3 := by
    simp only [put, Nat.reducePow] at hN; omega
  obtain ⟨q0, f0⟩ := part_zero hN (by decide)
  obtain ⟨q1, f1⟩ := part q0 rfl t.isLt (show 256 * 8 = 2048 by decide)
  obtain ⟨q2, f2⟩ := part q1 rfl b.isLt (show 2048 * 32 = 65536 by decide)
  obtain ⟨q3, f3⟩ := part q2 rfl a.isLt (show 65536 * 32 = 2097152 by decide)
  obtain ⟨q4, f4⟩ := part q3 rfl d.isLt (show 2097152 * 32 = 67108864 by decide)
  refine ⟨q4, ?_⟩
  refine (if_neg (by omega)).trans <|
    (if_neg (fun h => absurd (f0.symm.trans h) (by decide))).trans <|
    (if_neg (fun h => absurd (f0.symm.trans h.1) (by decide))).trans <|
    (if_pos f0).trans ?_
  rw [show fld N 25 21 = d from fld_eq f4 rfl rfl,
    show fld N 20 16 = a from fld_eq f3 rfl rfl,
    show fld N 15 11 = b from fld_eq f2 rfl rfl,
    show fld N 10 8 = t from fld_eq f1 rfl rfl]

theorem vextr (d : BitVec 5) (a : BitVec 5) (b : BitVec 5) (t : BitVec 3) : Statement (.vextr d a b t) := by
  refine of_fields (n := 0x94000004 + put d 21 + put a 16 + put b 11 + put t 8) 37 (by decide) rfl fun N hN => ?_
  have hN : N = ((((37 * 32 + d.toNat) * 32 + a.toNat) * 32 + b.toNat) * 8 + t.toNat) * 256 + 4 := by
    simp only [put, Nat.reducePow] at hN; omega
  obtain ⟨q0, f0⟩ := part_zero hN (by decide)
  obtain ⟨q1, f1⟩ := part q0 rfl t.isLt (show 256 * 8 = 2048 by decide)
  obtain ⟨q2, f2⟩ := part q1 rfl b.isLt (show 2048 * 32 = 65536 by decide)
  obtain ⟨q3, f3⟩ := part q2 rfl a.isLt (show 65536 * 32 = 2097152 by decide)
  obtain ⟨q4, f4⟩ := part q3 rfl d.isLt (show 2097152 * 32 = 67108864 by decide)
  refine ⟨q4, ?_⟩
  refine (if_neg (by omega)).trans <|
    (if_neg (fun h => absurd (f0.symm.trans h) (by decide))).trans <|
    (if_neg (fun h => absurd (f0.symm.trans h.1) (by decide))).trans <|
    (if_neg (fun h => absurd (f0.symm.trans h) (by decide))).trans <|
    (if_pos f0).trans ?_
  rw [show fld N 25 21 = d from fld_eq f4 rfl rfl,
    show fld N 20 16 = a from fld_eq f3 rfl rfl,
    show fld N 15 11 = b from fld_eq f2 rfl rfl,
    show fld N 10 8 = t from fld_eq f1 rfl rfl]

theorem vins (d : BitVec 5) (a : BitVec 5) (b : BitVec 5) (t : BitVec 3) : Statement (.vins d a b t) := by
  refine of_fields (n := 0x94000005 + put d 21 + put a 16 + put b 11 + put t 8) 37 (by decide) rfl fun N hN => ?_
  have hN : N = ((((37 * 32 + d.toNat) * 32 + a.toNat) * 32 + b.toNat) * 8 + t.toNat) * 256 + 5 := by
    simp only [put, Nat.reducePow] at hN; omega
  obtain ⟨q0, f0⟩ := part_zero hN (by decide)
  obtain ⟨q1, f1⟩ := part q0 rfl t.isLt (show 256 * 8 = 2048 by decide)
  obtain ⟨q2, f2⟩ := part q1 rfl b.isLt (show 2048 * 32 = 65536 by decide)
  obtain ⟨q3, f3⟩ := part q2 rfl a.isLt (show 65536 * 32 = 2097152 by decide)
  obtain ⟨q4, f4⟩ := part q3 rfl d.isLt (show 2097152 * 32 = 67108864 by decide)
  refine ⟨q4, ?_⟩
  refine (if_neg (by omega)).trans <|
    (if_neg (fun h => absurd (f0.symm.trans h) (by decide))).trans <|
    (if_neg (fun h => absurd (f0.symm.trans h.1) (by decide))).trans <|
    (if_neg (fun h => absurd (f0.symm.trans h) (by decide))).trans <|
    (if_neg (fun h => absurd (f0.symm.trans h) (by decide))).trans <|
    (if_pos f0).trans ?_
  rw [show fld N 25 21 = d from fld_eq f4 rfl rfl,
    show fld N 20 16 = a from fld_eq f3 rfl rfl,
    show fld N 15 11 = b from fld_eq f2 rfl rfl,
    show fld N 10 8 = t from fld_eq f1 rfl rfl]

theorem vredsum (d : BitVec 5) (a : BitVec 5) (t : BitVec 3) : Statement (.vredsum d a t) := by
  refine of_fields (n := 0x98000000 + put d 21 + put a 16 + put t 8) 38 (by decide) rfl fun N hN => ?_
  have hN : N = ((((38 * 32 + d.toNat) * 32 + a.toNat) * 32 + 0) * 8 + t.toNat) * 256 + 0 := by
    simp only [put, Nat.reducePow] at hN; omega
  obtain ⟨q0, f0⟩ := part_zero hN (by decide)
  obtain ⟨q1, f1⟩ := part q0 rfl t.isLt (show 256 * 8 = 2048 by decide)
  obtain ⟨q2, f2⟩ := part q1 rfl (by decide) (show 2048 * 32 = 65536 by decide)
  obtain ⟨q3, f3⟩ := part q2 rfl a.isLt (show 65536 * 32 = 2097152 by decide)
  obtain ⟨q4, f4⟩ := part q3 rfl d.isLt (show 2097152 * 32 = 67108864 by decide)
  refine ⟨q4, ?_⟩
  refine (if_pos ⟨f0, f2⟩).trans ?_
  rw [show fld N 25 21 = d from fld_eq f4 rfl rfl,
    show fld N 20 16 = a from fld_eq f3 rfl rfl,
    show fld N 10 8 = t from fld_eq f1 rfl rfl]

theorem vredmax (d : BitVec 5) (a : BitVec 5) (t : BitVec 3) : Statement (.vredmax d a t) := by
  refine of_fields (n := 0x98000001 + put d 21 + put a 16 + put t 8) 38 (by decide) rfl fun N hN => ?_
  have hN : N = ((((38 * 32 + d.toNat) * 32 + a.toNat) * 32 + 0) * 8 + t.toNat) * 256 + 1 := by
    simp only [put, Nat.reducePow] at hN; omega
  obtain ⟨q0, f0⟩ := part_zero hN (by decide)
  obtain ⟨q1, f1⟩ := part q0 rfl t.isLt (show 256 * 8 = 2048 by decide)
  obtain ⟨q2, f2⟩ := part q1 rfl (by decide) (show 2048 * 32 = 65536 by decide)
  obtain ⟨q3, f3⟩ := part q2 rfl a.isLt (show 65536 * 32 = 2097152 by decide)
  obtain ⟨q4, f4⟩ := part q3 rfl d.isLt (show 2097152 * 32 = 67108864 by decide)
  refine ⟨q4, ?_⟩
  refine (if_neg (fun h => absurd (f0.symm.trans h.1) (by decide))).trans <|
    (if_pos ⟨f0, f2⟩).trans ?_
  rw [show fld N 25 21 = d from fld_eq f4 rfl rfl,
    show fld N 20 16 = a from fld_eq f3 rfl rfl,
    show fld N 10 8 = t from fld_eq f1 rfl rfl]

theorem vredmin (d : BitVec 5) (a : BitVec 5) (t : BitVec 3) : Statement (.vredmin d a t) := by
  refine of_fields (n := 0x98000002 + put d 21 + put a 16 + put t 8) 38 (by decide) rfl fun N hN => ?_
  have hN : N = ((((38 * 32 + d.toNat) * 32 + a.toNat) * 32 + 0) * 8 + t.toNat) * 256 + 2 := by
    simp only [put, Nat.reducePow] at hN; omega
  obtain ⟨q0, f0⟩ := part_zero hN (by decide)
  obtain ⟨q1, f1⟩ := part q0 rfl t.isLt (show 256 * 8 = 2048 by decide)
  obtain ⟨q2, f2⟩ := part q1 rfl (by decide) (show 2048 * 32 = 65536 by decide)
  obtain ⟨q3, f3⟩ := part q2 rfl a.isLt (show 65536 * 32 = 2097152 by decide)
  obtain ⟨q4, f4⟩ := part q3 rfl d.isLt (show 2097152 * 32 = 67108864 by decide)
  refine ⟨q4, ?_⟩
  refine (if_neg (fun h => absurd (f0.symm.trans h.1) (by decide))).trans <|
    (if_neg (fun h => absurd (f0.symm.trans h.1) (by decide))).trans <|
    (if_pos ⟨f0, f2⟩).trans ?_
  rw [show fld N 25 21 = d from fld_eq f4 rfl rfl,
    show fld N 20 16 = a from fld_eq f3 rfl rfl,
    show fld N 10 8 = t from fld_eq f1 rfl rfl]

theorem vredmaxi (d : BitVec 5) (a : BitVec 5) (b : BitVec 5) (t : BitVec 3) : Statement (.vredmaxi d a b t) := by
  refine of_fields (n := 0x98000003 + put d 21 + put a 16 + put b 11 + put t 8) 38 (by decide) rfl fun N hN => ?_
  have hN : N = ((((38 * 32 + d.toNat) * 32 + a.toNat) * 32 + b.toNat) * 8 + t.toNat) * 256 + 3 := by
    simp only [put, Nat.reducePow] at hN; omega
  obtain ⟨q0, f0⟩ := part_zero hN (by decide)
  obtain ⟨q1, f1⟩ := part q0 rfl t.isLt (show 256 * 8 = 2048 by decide)
  obtain ⟨q2, f2⟩ := part q1 rfl b.isLt (show 2048 * 32 = 65536 by decide)
  obtain ⟨q3, f3⟩ := part q2 rfl a.isLt (show 65536 * 32 = 2097152 by decide)
  obtain ⟨q4, f4⟩ := part q3 rfl d.isLt (show 2097152 * 32 = 67108864 by decide)
  refine ⟨q4, ?_⟩
  refine (if_neg (fun h => absurd (f0.symm.trans h.1) (by decide))).trans <|
    (if_neg (fun h => absurd (f0.symm.trans h.1) (by decide))).trans <|
    (if_neg (fun h => absurd (f0.symm.trans h.1) (by decide))).trans <|
    (if_pos f0).trans ?_
  rw [show fld N 25 21 = d from fld_eq f4 rfl rfl,
    show fld N 20 16 = a from fld_eq f3 rfl rfl,
    show fld N 15 11 = b from fld_eq f2 rfl rfl,
    show fld N 10 8 = t from fld_eq f1 rfl rfl]

theorem vredmini (d : BitVec 5) (a : BitVec 5) (b : BitVec 5) (t : BitVec 3) : Statement (.vredmini d a b t) := by
  refine of_fields (n := 0x98000004 + put d 21 + put a 16 + put b 11 + put t 8) 38 (by decide) rfl fun N hN => ?_
  have hN : N = ((((38 * 32 + d.toNat) * 32 + a.toNat) * 32 + b.toNat) * 8 + t.toNat) * 256 + 4 := by
    simp only [put, Nat.reducePow] at hN; omega
  obtain ⟨q0, f0⟩ := part_zero hN (by decide)
  obtain ⟨q1, f1⟩ := part q0 rfl t.isLt (show 256 * 8 = 2048 by decide)
  obtain ⟨q2, f2⟩ := part q1 rfl b.isLt (show 2048 * 32 = 65536 by decide)
  obtain ⟨q3, f3⟩ := part q2 rfl a.isLt (show 65536 * 32 = 2097152 by decide)
  obtain ⟨q4, f4⟩ := part q3 rfl d.isLt (show 2097152 * 32 = 67108864 by decide)
  refine ⟨q4, ?_⟩
  refine (if_neg (fun h => absurd (f0.symm.trans h.1) (by decide))).trans <|
    (if_neg (fun h => absurd (f0.symm.trans h.1) (by decide))).trans <|
    (if_neg (fun h => absurd (f0.symm.trans h.1) (by decide))).trans <|
    (if_neg (fun h => absurd (f0.symm.trans h) (by decide))).trans <|
    (if_pos f0).trans ?_
  rw [show fld N 25 21 = d from fld_eq f4 rfl rfl,
    show fld N 20 16 = a from fld_eq f3 rfl rfl,
    show fld N 15 11 = b from fld_eq f2 rfl rfl,
    show fld N 10 8 = t from fld_eq f1 rfl rfl]

theorem vscan (d : BitVec 5) (a : BitVec 5) (t : BitVec 3) : Statement (.vscan d a t) := by
  refine of_fields (n := 0x98000005 + put d 21 + put a 16 + put t 8) 38 (by decide) rfl fun N hN => ?_
  have hN : N = ((((38 * 32 + d.toNat) * 32 + a.toNat) * 32 + 0) * 8 + t.toNat) * 256 + 5 := by
    simp only [put, Nat.reducePow] at hN; omega
  obtain ⟨q0, f0⟩ := part_zero hN (by decide)
  obtain ⟨q1, f1⟩ := part q0 rfl t.isLt (show 256 * 8 = 2048 by decide)
  obtain ⟨q2, f2⟩ := part q1 rfl (by decide) (show 2048 * 32 = 65536 by decide)
  obtain ⟨q3, f3⟩ := part q2 rfl a.isLt (show 65536 * 32 = 2097152 by decide)
  obtain ⟨q4, f4⟩ := part q3 rfl d.isLt (show 2097152 * 32 = 67108864 by decide)
  refine ⟨q4, ?_⟩
  refine (if_neg (fun h => absurd (f0.symm.trans h.1) (by decide))).trans <|
    (if_neg (fun h => absurd (f0.symm.trans h.1) (by decide))).trans <|
    (if_neg (fun h => absurd (f0.symm.trans h.1) (by decide))).trans <|
    (if_neg (fun h => absurd (f0.symm.trans h) (by decide))).trans <|
    (if_neg (fun h => absurd (f0.symm.trans h) (by decide))).trans <|
    (if_pos ⟨f0, f2⟩).trans ?_
  rw [show fld N 25 21 = d from fld_eq f4 rfl rfl,
    show fld N 20 16 = a from fld_eq f3 rfl rfl,
    show fld N 10 8 = t from fld_eq f1 rfl rfl]

theorem vcvt (d : BitVec 5) (a : BitVec 5) (s : BitVec 3) (u : BitVec 3) : Statement (.vcvt d a s u) := by
  refine of_fields (n := 0x9C000000 + put d 21 + put a 16 + put s 8 + put u 5) 39 (by decide) rfl fun N hN => ?_
  have hN : N = (((((39 * 32 + d.toNat) * 32 + a.toNat) * 32 + 0) * 8 + s.toNat) * 8 + u.toNat) * 32 + 0 := by
    simp only [put, Nat.reducePow] at hN; omega
  obtain ⟨q0, f0⟩ := part_zero hN (by decide)
  obtain ⟨q1, f1⟩ := part q0 rfl u.isLt (show 32 * 8 = 256 by decide)
  obtain ⟨q2, f2⟩ := part q1 rfl s.isLt (show 256 * 8 = 2048 by decide)
  obtain ⟨q3, f3⟩ := part q2 rfl (by decide) (show 2048 * 32 = 65536 by decide)
  obtain ⟨q4, f4⟩ := part q3 rfl a.isLt (show 65536 * 32 = 2097152 by decide)
  obtain ⟨q5, f5⟩ := part q4 rfl d.isLt (show 2097152 * 32 = 67108864 by decide)
  refine ⟨q5, ?_⟩
  refine (if_pos ⟨f0, f3⟩).trans ?_
  rw [show fld N 25 21 = d from fld_eq f5 rfl rfl,
    show fld N 20 16 = a from fld_eq f4 rfl rfl,
    show fld N 10 8 = s from fld_eq f2 rfl rfl,
    show fld N 7 5 = u from fld_eq f1 rfl rfl]

theorem vpack (d : BitVec 5) (a : BitVec 5) (p : BitVec 5) (s : BitVec 3) (u : BitVec 3) : Statement (.vpack d a p s u) := by
  refine of_fields (n := 0x9C000001 + put d 21 + put a 16 + put p 11 + put s 8 + put u 5) 39 (by decide) rfl fun N hN => ?_
  have hN : N = (((((39 * 32 + d.toNat) * 32 + a.toNat) * 32 + p.toNat) * 8 + s.toNat) * 8 + u.toNat) * 32 + 1 := by
    simp only [put, Nat.reducePow] at hN; omega
  obtain ⟨q0, f0⟩ := part_zero hN (by decide)
  obtain ⟨q1, f1⟩ := part q0 rfl u.isLt (show 32 * 8 = 256 by decide)
  obtain ⟨q2, f2⟩ := part q1 rfl s.isLt (show 256 * 8 = 2048 by decide)
  obtain ⟨q3, f3⟩ := part q2 rfl p.isLt (show 2048 * 32 = 65536 by decide)
  obtain ⟨q4, f4⟩ := part q3 rfl a.isLt (show 65536 * 32 = 2097152 by decide)
  obtain ⟨q5, f5⟩ := part q4 rfl d.isLt (show 2097152 * 32 = 67108864 by decide)
  refine ⟨q5, ?_⟩
  refine (if_neg (fun h => absurd (f0.symm.trans h.1) (by decide))).trans <|
    (if_pos f0).trans ?_
  rw [show fld N 25 21 = d from fld_eq f5 rfl rfl,
    show fld N 20 16 = a from fld_eq f4 rfl rfl,
    show fld N 15 11 = p from fld_eq f3 rfl rfl,
    show fld N 10 8 = s from fld_eq f2 rfl rfl,
    show fld N 7 5 = u from fld_eq f1 rfl rfl]

theorem vunpk (d : BitVec 5) (a : BitVec 5) (p : BitVec 5) (s : BitVec 3) (u : BitVec 3) : Statement (.vunpk d a p s u) := by
  refine of_fields (n := 0x9C000002 + put d 21 + put a 16 + put p 11 + put s 8 + put u 5) 39 (by decide) rfl fun N hN => ?_
  have hN : N = (((((39 * 32 + d.toNat) * 32 + a.toNat) * 32 + p.toNat) * 8 + s.toNat) * 8 + u.toNat) * 32 + 2 := by
    simp only [put, Nat.reducePow] at hN; omega
  obtain ⟨q0, f0⟩ := part_zero hN (by decide)
  obtain ⟨q1, f1⟩ := part q0 rfl u.isLt (show 32 * 8 = 256 by decide)
  obtain ⟨q2, f2⟩ := part q1 rfl s.isLt (show 256 * 8 = 2048 by decide)
  obtain ⟨q3, f3⟩ := part q2 rfl p.isLt (show 2048 * 32 = 65536 by decide)
  obtain ⟨q4, f4⟩ := part q3 rfl a.isLt (show 65536 * 32 = 2097152 by decide)
  obtain ⟨q5, f5⟩ := part q4 rfl d.isLt (show 2097152 * 32 = 67108864 by decide)
  refine ⟨q5, ?_⟩
  refine (if_neg (fun h => absurd (f0.symm.trans h.1) (by decide))).trans <|
    (if_neg (fun h => absurd (f0.symm.trans h) (by decide))).trans <|
    (if_pos f0).trans ?_
  rw [show fld N 25 21 = d from fld_eq f5 rfl rfl,
    show fld N 20 16 = a from fld_eq f4 rfl rfl,
    show fld N 15 11 = p from fld_eq f3 rfl rfl,
    show fld N 10 8 = s from fld_eq f2 rfl rfl,
    show fld N 7 5 = u from fld_eq f1 rfl rfl]

theorem vld (d : BitVec 5) (c : BitVec 4) (a : BitVec 5) (w : BitVec 1) (t : BitVec 3) (h : BitVec 1) (o : BitVec 6) : Statement (.vld d c a w t h o) := by
  refine of_fields (n := 0xA0000000 + put d 21 + put c 17 + put a 12 + put w 11 + put t 8 + put h 7 + put o 1) 40 (by decide) rfl fun N hN => ?_
  have hN : N = (((((((40 * 32 + d.toNat) * 16 + c.toNat) * 32 + a.toNat) * 2 + w.toNat) * 8 + t.toNat) * 2 + h.toNat) * 64 + o.toNat) * 2 + 0 := by
    simp only [put, Nat.reducePow] at hN; omega
  obtain ⟨q0, f0⟩ := part_zero hN (by decide)
  obtain ⟨q1, f1⟩ := part q0 rfl o.isLt (show 2 * 64 = 128 by decide)
  obtain ⟨q2, f2⟩ := part q1 rfl h.isLt (show 128 * 2 = 256 by decide)
  obtain ⟨q3, f3⟩ := part q2 rfl t.isLt (show 256 * 8 = 2048 by decide)
  obtain ⟨q4, f4⟩ := part q3 rfl w.isLt (show 2048 * 2 = 4096 by decide)
  obtain ⟨q5, f5⟩ := part q4 rfl a.isLt (show 4096 * 32 = 131072 by decide)
  obtain ⟨q6, f6⟩ := part q5 rfl c.isLt (show 131072 * 16 = 2097152 by decide)
  obtain ⟨q7, f7⟩ := part q6 rfl d.isLt (show 2097152 * 32 = 67108864 by decide)
  refine ⟨q7, ?_⟩
  refine (if_pos f0).trans ?_
  rw [show fld N 25 21 = d from fld_eq f7 rfl rfl,
    show fld N 20 17 = c from fld_eq f6 rfl rfl,
    show fld N 16 12 = a from fld_eq f5 rfl rfl,
    show fld N 11 11 = w from fld_eq f4 rfl rfl,
    show fld N 10 8 = t from fld_eq f3 rfl rfl,
    show fld N 7 7 = h from fld_eq f2 rfl rfl,
    show fld N 6 1 = o from fld_eq f1 rfl rfl]

theorem vlds (d : BitVec 5) (c : BitVec 4) (a : BitVec 5) (w : BitVec 1) (t : BitVec 3) (h : BitVec 1) (s : BitVec 5) : Statement (.vlds d c a w t h s) := by
  refine of_fields (n := 0xA0000001 + put d 21 + put c 17 + put a 12 + put w 11 + put t 8 + put h 7 + put s 2) 40 (by decide) rfl fun N hN => ?_
  have hN : N = (((((((40 * 32 + d.toNat) * 16 + c.toNat) * 32 + a.toNat) * 2 + w.toNat) * 8 + t.toNat) * 2 + h.toNat) * 32 + s.toNat) * 4 + 1 := by
    simp only [put, Nat.reducePow] at hN; omega
  obtain ⟨q0, f0⟩ := part_zero hN (by decide)
  obtain ⟨q1, f1⟩ := part q0 rfl s.isLt (show 4 * 32 = 128 by decide)
  obtain ⟨q2, f2⟩ := part q1 rfl h.isLt (show 128 * 2 = 256 by decide)
  obtain ⟨q3, f3⟩ := part q2 rfl t.isLt (show 256 * 8 = 2048 by decide)
  obtain ⟨q4, f4⟩ := part q3 rfl w.isLt (show 2048 * 2 = 4096 by decide)
  obtain ⟨q5, f5⟩ := part q4 rfl a.isLt (show 4096 * 32 = 131072 by decide)
  obtain ⟨q6, f6⟩ := part q5 rfl c.isLt (show 131072 * 16 = 2097152 by decide)
  obtain ⟨q7, f7⟩ := part q6 rfl d.isLt (show 2097152 * 32 = 67108864 by decide)
  refine ⟨q7, ?_⟩
  refine (if_neg (by omega)).trans <|
    (if_pos f0).trans ?_
  rw [show fld N 25 21 = d from fld_eq f7 rfl rfl,
    show fld N 20 17 = c from fld_eq f6 rfl rfl,
    show fld N 16 12 = a from fld_eq f5 rfl rfl,
    show fld N 11 11 = w from fld_eq f4 rfl rfl,
    show fld N 10 8 = t from fld_eq f3 rfl rfl,
    show fld N 7 7 = h from fld_eq f2 rfl rfl,
    show fld N 6 2 = s from fld_eq f1 rfl rfl]

theorem vst (d : BitVec 5) (c : BitVec 4) (a : BitVec 5) (w : BitVec 1) (t : BitVec 3) (o : BitVec 6) : Statement (.vst d c a w t o) := by
  refine of_fields (n := 0xA4000000 + put d 21 + put c 17 + put a 12 + put w 11 + put t 8 + put o 1) 41 (by decide) rfl fun N hN => ?_
  have hN : N = (((((((41 * 32 + d.toNat) * 16 + c.toNat) * 32 + a.toNat) * 2 + w.toNat) * 8 + t.toNat) * 2 + 0) * 64 + o.toNat) * 2 + 0 := by
    simp only [put, Nat.reducePow] at hN; omega
  obtain ⟨q0, f0⟩ := part_zero hN (by decide)
  obtain ⟨q1, f1⟩ := part q0 rfl o.isLt (show 2 * 64 = 128 by decide)
  obtain ⟨q2, f2⟩ := part q1 rfl (by decide) (show 128 * 2 = 256 by decide)
  obtain ⟨q3, f3⟩ := part q2 rfl t.isLt (show 256 * 8 = 2048 by decide)
  obtain ⟨q4, f4⟩ := part q3 rfl w.isLt (show 2048 * 2 = 4096 by decide)
  obtain ⟨q5, f5⟩ := part q4 rfl a.isLt (show 4096 * 32 = 131072 by decide)
  obtain ⟨q6, f6⟩ := part q5 rfl c.isLt (show 131072 * 16 = 2097152 by decide)
  obtain ⟨q7, f7⟩ := part q6 rfl d.isLt (show 2097152 * 32 = 67108864 by decide)
  refine ⟨q7, ?_⟩
  refine (if_pos ⟨f0, f2⟩).trans ?_
  rw [show fld N 25 21 = d from fld_eq f7 rfl rfl,
    show fld N 20 17 = c from fld_eq f6 rfl rfl,
    show fld N 16 12 = a from fld_eq f5 rfl rfl,
    show fld N 11 11 = w from fld_eq f4 rfl rfl,
    show fld N 10 8 = t from fld_eq f3 rfl rfl,
    show fld N 6 1 = o from fld_eq f1 rfl rfl]

theorem vsts (d : BitVec 5) (c : BitVec 4) (a : BitVec 5) (w : BitVec 1) (t : BitVec 3) (s : BitVec 5) : Statement (.vsts d c a w t s) := by
  refine of_fields (n := 0xA4000001 + put d 21 + put c 17 + put a 12 + put w 11 + put t 8 + put s 2) 41 (by decide) rfl fun N hN => ?_
  have hN : N = (((((((41 * 32 + d.toNat) * 16 + c.toNat) * 32 + a.toNat) * 2 + w.toNat) * 8 + t.toNat) * 2 + 0) * 32 + s.toNat) * 4 + 1 := by
    simp only [put, Nat.reducePow] at hN; omega
  obtain ⟨q0, f0⟩ := part_zero hN (by decide)
  obtain ⟨q1, f1⟩ := part q0 rfl s.isLt (show 4 * 32 = 128 by decide)
  obtain ⟨q2, f2⟩ := part q1 rfl (by decide) (show 128 * 2 = 256 by decide)
  obtain ⟨q3, f3⟩ := part q2 rfl t.isLt (show 256 * 8 = 2048 by decide)
  obtain ⟨q4, f4⟩ := part q3 rfl w.isLt (show 2048 * 2 = 4096 by decide)
  obtain ⟨q5, f5⟩ := part q4 rfl a.isLt (show 4096 * 32 = 131072 by decide)
  obtain ⟨q6, f6⟩ := part q5 rfl c.isLt (show 131072 * 16 = 2097152 by decide)
  obtain ⟨q7, f7⟩ := part q6 rfl d.isLt (show 2097152 * 32 = 67108864 by decide)
  refine ⟨q7, ?_⟩
  refine (if_neg (by omega)).trans <|
    (if_pos ⟨f0, f2⟩).trans ?_
  rw [show fld N 25 21 = d from fld_eq f7 rfl rfl,
    show fld N 20 17 = c from fld_eq f6 rfl rfl,
    show fld N 16 12 = a from fld_eq f5 rfl rfl,
    show fld N 11 11 = w from fld_eq f4 rfl rfl,
    show fld N 10 8 = t from fld_eq f3 rfl rfl,
    show fld N 6 2 = s from fld_eq f1 rfl rfl]

theorem vgather (d : BitVec 5) (a : BitVec 5) (c : BitVec 4) (t : BitVec 3) : Statement (.vgather d a c t) := by
  refine of_fields (n := 0xA8000000 + put d 21 + put a 16 + put c 11 + put t 8) 42 (by decide) rfl fun N hN => ?_
  have hN : N = (((((42 * 32 + d.toNat) * 32 + a.toNat) * 2 + 0) * 16 + c.toNat) * 8 + t.toNat) * 256 + 0 := by
    simp only [put, Nat.reducePow] at hN; omega
  obtain ⟨q0, f0⟩ := part_zero hN (by decide)
  obtain ⟨q1, f1⟩ := part q0 rfl t.isLt (show 256 * 8 = 2048 by decide)
  obtain ⟨q2, f2⟩ := part q1 rfl c.isLt (show 2048 * 16 = 32768 by decide)
  obtain ⟨q3, f3⟩ := part q2 rfl (by decide) (show 32768 * 2 = 65536 by decide)
  obtain ⟨q4, f4⟩ := part q3 rfl a.isLt (show 65536 * 32 = 2097152 by decide)
  obtain ⟨q5, f5⟩ := part q4 rfl d.isLt (show 2097152 * 32 = 67108864 by decide)
  refine ⟨q5, ?_⟩
  refine (if_pos ⟨f0, f3⟩).trans ?_
  rw [show fld N 25 21 = d from fld_eq f5 rfl rfl,
    show fld N 20 16 = a from fld_eq f4 rfl rfl,
    show fld N 14 11 = c from fld_eq f2 rfl rfl,
    show fld N 10 8 = t from fld_eq f1 rfl rfl]

theorem vscatter (d : BitVec 5) (a : BitVec 5) (c : BitVec 4) (t : BitVec 3) : Statement (.vscatter d a c t) := by
  refine of_fields (n := 0xA8000001 + put d 21 + put a 16 + put c 11 + put t 8) 42 (by decide) rfl fun N hN => ?_
  have hN : N = (((((42 * 32 + d.toNat) * 32 + a.toNat) * 2 + 0) * 16 + c.toNat) * 8 + t.toNat) * 256 + 1 := by
    simp only [put, Nat.reducePow] at hN; omega
  obtain ⟨q0, f0⟩ := part_zero hN (by decide)
  obtain ⟨q1, f1⟩ := part q0 rfl t.isLt (show 256 * 8 = 2048 by decide)
  obtain ⟨q2, f2⟩ := part q1 rfl c.isLt (show 2048 * 16 = 32768 by decide)
  obtain ⟨q3, f3⟩ := part q2 rfl (by decide) (show 32768 * 2 = 65536 by decide)
  obtain ⟨q4, f4⟩ := part q3 rfl a.isLt (show 65536 * 32 = 2097152 by decide)
  obtain ⟨q5, f5⟩ := part q4 rfl d.isLt (show 2097152 * 32 = 67108864 by decide)
  refine ⟨q5, ?_⟩
  refine (if_neg (fun h => absurd (f0.symm.trans h.1) (by decide))).trans <|
    (if_pos ⟨f0, f3⟩).trans ?_
  rw [show fld N 25 21 = d from fld_eq f5 rfl rfl,
    show fld N 20 16 = a from fld_eq f4 rfl rfl,
    show fld N 14 11 = c from fld_eq f2 rfl rfl,
    show fld N 10 8 = t from fld_eq f1 rfl rfl]

theorem fexp2 (d : BitVec 5) (a : BitVec 5) (t : BitVec 3) : Statement (.fexp2 d a t) := by
  refine of_fields (n := 0xAC000000 + put d 21 + put a 16 + put t 8) 43 (by decide) rfl fun N hN => ?_
  have hN : N = ((((43 * 32 + d.toNat) * 32 + a.toNat) * 32 + 0) * 8 + t.toNat) * 256 + 0 := by
    simp only [put, Nat.reducePow] at hN; omega
  obtain ⟨q0, f0⟩ := part_zero hN (by decide)
  obtain ⟨q1, f1⟩ := part q0 rfl t.isLt (show 256 * 8 = 2048 by decide)
  obtain ⟨q2, f2⟩ := part q1 rfl (by decide) (show 2048 * 32 = 65536 by decide)
  obtain ⟨q3, f3⟩ := part q2 rfl a.isLt (show 65536 * 32 = 2097152 by decide)
  obtain ⟨q4, f4⟩ := part q3 rfl d.isLt (show 2097152 * 32 = 67108864 by decide)
  refine ⟨q4, ?_⟩
  refine (if_pos ⟨f0, f2⟩).trans ?_
  rw [show fld N 25 21 = d from fld_eq f4 rfl rfl,
    show fld N 20 16 = a from fld_eq f3 rfl rfl,
    show fld N 10 8 = t from fld_eq f1 rfl rfl]

theorem flog2 (d : BitVec 5) (a : BitVec 5) (t : BitVec 3) : Statement (.flog2 d a t) := by
  refine of_fields (n := 0xAC000001 + put d 21 + put a 16 + put t 8) 43 (by decide) rfl fun N hN => ?_
  have hN : N = ((((43 * 32 + d.toNat) * 32 + a.toNat) * 32 + 0) * 8 + t.toNat) * 256 + 1 := by
    simp only [put, Nat.reducePow] at hN; omega
  obtain ⟨q0, f0⟩ := part_zero hN (by decide)
  obtain ⟨q1, f1⟩ := part q0 rfl t.isLt (show 256 * 8 = 2048 by decide)
  obtain ⟨q2, f2⟩ := part q1 rfl (by decide) (show 2048 * 32 = 65536 by decide)
  obtain ⟨q3, f3⟩ := part q2 rfl a.isLt (show 65536 * 32 = 2097152 by decide)
  obtain ⟨q4, f4⟩ := part q3 rfl d.isLt (show 2097152 * 32 = 67108864 by decide)
  refine ⟨q4, ?_⟩
  refine (if_neg (fun h => absurd (f0.symm.trans h.1) (by decide))).trans <|
    (if_pos ⟨f0, f2⟩).trans ?_
  rw [show fld N 25 21 = d from fld_eq f4 rfl rfl,
    show fld N 20 16 = a from fld_eq f3 rfl rfl,
    show fld N 10 8 = t from fld_eq f1 rfl rfl]

theorem frcp (d : BitVec 5) (a : BitVec 5) (t : BitVec 3) : Statement (.frcp d a t) := by
  refine of_fields (n := 0xAC000002 + put d 21 + put a 16 + put t 8) 43 (by decide) rfl fun N hN => ?_
  have hN : N = ((((43 * 32 + d.toNat) * 32 + a.toNat) * 32 + 0) * 8 + t.toNat) * 256 + 2 := by
    simp only [put, Nat.reducePow] at hN; omega
  obtain ⟨q0, f0⟩ := part_zero hN (by decide)
  obtain ⟨q1, f1⟩ := part q0 rfl t.isLt (show 256 * 8 = 2048 by decide)
  obtain ⟨q2, f2⟩ := part q1 rfl (by decide) (show 2048 * 32 = 65536 by decide)
  obtain ⟨q3, f3⟩ := part q2 rfl a.isLt (show 65536 * 32 = 2097152 by decide)
  obtain ⟨q4, f4⟩ := part q3 rfl d.isLt (show 2097152 * 32 = 67108864 by decide)
  refine ⟨q4, ?_⟩
  refine (if_neg (fun h => absurd (f0.symm.trans h.1) (by decide))).trans <|
    (if_neg (fun h => absurd (f0.symm.trans h.1) (by decide))).trans <|
    (if_pos ⟨f0, f2⟩).trans ?_
  rw [show fld N 25 21 = d from fld_eq f4 rfl rfl,
    show fld N 20 16 = a from fld_eq f3 rfl rfl,
    show fld N 10 8 = t from fld_eq f1 rfl rfl]

theorem frsq (d : BitVec 5) (a : BitVec 5) (t : BitVec 3) : Statement (.frsq d a t) := by
  refine of_fields (n := 0xAC000003 + put d 21 + put a 16 + put t 8) 43 (by decide) rfl fun N hN => ?_
  have hN : N = ((((43 * 32 + d.toNat) * 32 + a.toNat) * 32 + 0) * 8 + t.toNat) * 256 + 3 := by
    simp only [put, Nat.reducePow] at hN; omega
  obtain ⟨q0, f0⟩ := part_zero hN (by decide)
  obtain ⟨q1, f1⟩ := part q0 rfl t.isLt (show 256 * 8 = 2048 by decide)
  obtain ⟨q2, f2⟩ := part q1 rfl (by decide) (show 2048 * 32 = 65536 by decide)
  obtain ⟨q3, f3⟩ := part q2 rfl a.isLt (show 65536 * 32 = 2097152 by decide)
  obtain ⟨q4, f4⟩ := part q3 rfl d.isLt (show 2097152 * 32 = 67108864 by decide)
  refine ⟨q4, ?_⟩
  refine (if_neg (fun h => absurd (f0.symm.trans h.1) (by decide))).trans <|
    (if_neg (fun h => absurd (f0.symm.trans h.1) (by decide))).trans <|
    (if_neg (fun h => absurd (f0.symm.trans h.1) (by decide))).trans <|
    (if_pos ⟨f0, f2⟩).trans ?_
  rw [show fld N 25 21 = d from fld_eq f4 rfl rfl,
    show fld N 20 16 = a from fld_eq f3 rfl rfl,
    show fld N 10 8 = t from fld_eq f1 rfl rfl]

theorem ftanh (d : BitVec 5) (a : BitVec 5) (t : BitVec 3) : Statement (.ftanh d a t) := by
  refine of_fields (n := 0xAC000004 + put d 21 + put a 16 + put t 8) 43 (by decide) rfl fun N hN => ?_
  have hN : N = ((((43 * 32 + d.toNat) * 32 + a.toNat) * 32 + 0) * 8 + t.toNat) * 256 + 4 := by
    simp only [put, Nat.reducePow] at hN; omega
  obtain ⟨q0, f0⟩ := part_zero hN (by decide)
  obtain ⟨q1, f1⟩ := part q0 rfl t.isLt (show 256 * 8 = 2048 by decide)
  obtain ⟨q2, f2⟩ := part q1 rfl (by decide) (show 2048 * 32 = 65536 by decide)
  obtain ⟨q3, f3⟩ := part q2 rfl a.isLt (show 65536 * 32 = 2097152 by decide)
  obtain ⟨q4, f4⟩ := part q3 rfl d.isLt (show 2097152 * 32 = 67108864 by decide)
  refine ⟨q4, ?_⟩
  refine (if_neg (fun h => absurd (f0.symm.trans h.1) (by decide))).trans <|
    (if_neg (fun h => absurd (f0.symm.trans h.1) (by decide))).trans <|
    (if_neg (fun h => absurd (f0.symm.trans h.1) (by decide))).trans <|
    (if_neg (fun h => absurd (f0.symm.trans h.1) (by decide))).trans <|
    (if_pos ⟨f0, f2⟩).trans ?_
  rw [show fld N 25 21 = d from fld_eq f4 rfl rfl,
    show fld N 20 16 = a from fld_eq f3 rfl rfl,
    show fld N 10 8 = t from fld_eq f1 rfl rfl]

theorem fsin (d : BitVec 5) (a : BitVec 5) (t : BitVec 3) : Statement (.fsin d a t) := by
  refine of_fields (n := 0xAC000005 + put d 21 + put a 16 + put t 8) 43 (by decide) rfl fun N hN => ?_
  have hN : N = ((((43 * 32 + d.toNat) * 32 + a.toNat) * 32 + 0) * 8 + t.toNat) * 256 + 5 := by
    simp only [put, Nat.reducePow] at hN; omega
  obtain ⟨q0, f0⟩ := part_zero hN (by decide)
  obtain ⟨q1, f1⟩ := part q0 rfl t.isLt (show 256 * 8 = 2048 by decide)
  obtain ⟨q2, f2⟩ := part q1 rfl (by decide) (show 2048 * 32 = 65536 by decide)
  obtain ⟨q3, f3⟩ := part q2 rfl a.isLt (show 65536 * 32 = 2097152 by decide)
  obtain ⟨q4, f4⟩ := part q3 rfl d.isLt (show 2097152 * 32 = 67108864 by decide)
  refine ⟨q4, ?_⟩
  refine (if_neg (fun h => absurd (f0.symm.trans h.1) (by decide))).trans <|
    (if_neg (fun h => absurd (f0.symm.trans h.1) (by decide))).trans <|
    (if_neg (fun h => absurd (f0.symm.trans h.1) (by decide))).trans <|
    (if_neg (fun h => absurd (f0.symm.trans h.1) (by decide))).trans <|
    (if_neg (fun h => absurd (f0.symm.trans h.1) (by decide))).trans <|
    (if_pos ⟨f0, f2⟩).trans ?_
  rw [show fld N 25 21 = d from fld_eq f4 rfl rfl,
    show fld N 20 16 = a from fld_eq f3 rfl rfl,
    show fld N 10 8 = t from fld_eq f1 rfl rfl]

theorem fcos (d : BitVec 5) (a : BitVec 5) (t : BitVec 3) : Statement (.fcos d a t) := by
  refine of_fields (n := 0xAC000006 + put d 21 + put a 16 + put t 8) 43 (by decide) rfl fun N hN => ?_
  have hN : N = ((((43 * 32 + d.toNat) * 32 + a.toNat) * 32 + 0) * 8 + t.toNat) * 256 + 6 := by
    simp only [put, Nat.reducePow] at hN; omega
  obtain ⟨q0, f0⟩ := part_zero hN (by decide)
  obtain ⟨q1, f1⟩ := part q0 rfl t.isLt (show 256 * 8 = 2048 by decide)
  obtain ⟨q2, f2⟩ := part q1 rfl (by decide) (show 2048 * 32 = 65536 by decide)
  obtain ⟨q3, f3⟩ := part q2 rfl a.isLt (show 65536 * 32 = 2097152 by decide)
  obtain ⟨q4, f4⟩ := part q3 rfl d.isLt (show 2097152 * 32 = 67108864 by decide)
  refine ⟨q4, ?_⟩
  refine (if_neg (fun h => absurd (f0.symm.trans h.1) (by decide))).trans <|
    (if_neg (fun h => absurd (f0.symm.trans h.1) (by decide))).trans <|
    (if_neg (fun h => absurd (f0.symm.trans h.1) (by decide))).trans <|
    (if_neg (fun h => absurd (f0.symm.trans h.1) (by decide))).trans <|
    (if_neg (fun h => absurd (f0.symm.trans h.1) (by decide))).trans <|
    (if_neg (fun h => absurd (f0.symm.trans h.1) (by decide))).trans <|
    (if_pos ⟨f0, f2⟩).trans ?_
  rw [show fld N 25 21 = d from fld_eq f4 rfl rfl,
    show fld N 20 16 = a from fld_eq f3 rfl rfl,
    show fld N 10 8 = t from fld_eq f1 rfl rfl]

theorem vmov (d : BitVec 5) (a : BitVec 5) (t : BitVec 3) : Statement (.vmov d a t) := by
  refine of_fields (n := 0xB0000000 + put d 21 + put a 16 + put t 8) 44 (by decide) rfl fun N hN => ?_
  have hN : N = ((((44 * 32 + d.toNat) * 32 + a.toNat) * 32 + 0) * 8 + t.toNat) * 256 + 0 := by
    simp only [put, Nat.reducePow] at hN; omega
  obtain ⟨q0, f0⟩ := part_zero hN (by decide)
  obtain ⟨q1, f1⟩ := part q0 rfl t.isLt (show 256 * 8 = 2048 by decide)
  obtain ⟨q2, f2⟩ := part q1 rfl (by decide) (show 2048 * 32 = 65536 by decide)
  obtain ⟨q3, f3⟩ := part q2 rfl a.isLt (show 65536 * 32 = 2097152 by decide)
  obtain ⟨q4, f4⟩ := part q3 rfl d.isLt (show 2097152 * 32 = 67108864 by decide)
  refine ⟨q4, ?_⟩
  refine (if_pos ⟨f0, f2⟩).trans ?_
  rw [show fld N 25 21 = d from fld_eq f4 rfl rfl,
    show fld N 20 16 = a from fld_eq f3 rfl rfl,
    show fld N 10 8 = t from fld_eq f1 rfl rfl]

theorem vsel (d : BitVec 5) (a : BitVec 5) (b : BitVec 5) (t : BitVec 3) : Statement (.vsel d a b t) := by
  refine of_fields (n := 0xB0000001 + put d 21 + put a 16 + put b 11 + put t 8) 44 (by decide) rfl fun N hN => ?_
  have hN : N = ((((44 * 32 + d.toNat) * 32 + a.toNat) * 32 + b.toNat) * 8 + t.toNat) * 256 + 1 := by
    simp only [put, Nat.reducePow] at hN; omega
  obtain ⟨q0, f0⟩ := part_zero hN (by decide)
  obtain ⟨q1, f1⟩ := part q0 rfl t.isLt (show 256 * 8 = 2048 by decide)
  obtain ⟨q2, f2⟩ := part q1 rfl b.isLt (show 2048 * 32 = 65536 by decide)
  obtain ⟨q3, f3⟩ := part q2 rfl a.isLt (show 65536 * 32 = 2097152 by decide)
  obtain ⟨q4, f4⟩ := part q3 rfl d.isLt (show 2097152 * 32 = 67108864 by decide)
  refine ⟨q4, ?_⟩
  refine (if_neg (fun h => absurd (f0.symm.trans h.1) (by decide))).trans <|
    (if_pos f0).trans ?_
  rw [show fld N 25 21 = d from fld_eq f4 rfl rfl,
    show fld N 20 16 = a from fld_eq f3 rfl rfl,
    show fld N 15 11 = b from fld_eq f2 rfl rfl,
    show fld N 10 8 = t from fld_eq f1 rfl rfl]

theorem viota (d : BitVec 5) (a : BitVec 5) (t : BitVec 3) : Statement (.viota d a t) := by
  refine of_fields (n := 0xB0000002 + put d 21 + put a 16 + put t 8) 44 (by decide) rfl fun N hN => ?_
  have hN : N = ((((44 * 32 + d.toNat) * 32 + a.toNat) * 32 + 0) * 8 + t.toNat) * 256 + 2 := by
    simp only [put, Nat.reducePow] at hN; omega
  obtain ⟨q0, f0⟩ := part_zero hN (by decide)
  obtain ⟨q1, f1⟩ := part q0 rfl t.isLt (show 256 * 8 = 2048 by decide)
  obtain ⟨q2, f2⟩ := part q1 rfl (by decide) (show 2048 * 32 = 65536 by decide)
  obtain ⟨q3, f3⟩ := part q2 rfl a.isLt (show 65536 * 32 = 2097152 by decide)
  obtain ⟨q4, f4⟩ := part q3 rfl d.isLt (show 2097152 * 32 = 67108864 by decide)
  refine ⟨q4, ?_⟩
  refine (if_neg (fun h => absurd (f0.symm.trans h.1) (by decide))).trans <|
    (if_neg (fun h => absurd (f0.symm.trans h) (by decide))).trans <|
    (if_pos ⟨f0, f2⟩).trans ?_
  rw [show fld N 25 21 = d from fld_eq f4 rfl rfl,
    show fld N 20 16 = a from fld_eq f3 rfl rfl,
    show fld N 10 8 = t from fld_eq f1 rfl rfl]

theorem kand (d : BitVec 3) (a : BitVec 3) (b : BitVec 3) : Statement (.kand d a b) := by
  refine of_fields (n := 0xB0000003 + put d 21 + put a 16 + put b 11) 44 (by decide) rfl fun N hN => ?_
  have hN : N = ((((((44 * 4 + 0) * 8 + d.toNat) * 4 + 0) * 8 + a.toNat) * 4 + 0) * 8 + b.toNat) * 2048 + 3 := by
    simp only [put, Nat.reducePow] at hN; omega
  obtain ⟨q0, f0⟩ := part_zero hN (by decide)
  obtain ⟨q1, f1⟩ := part q0 rfl b.isLt (show 2048 * 8 = 16384 by decide)
  obtain ⟨q2, f2⟩ := part q1 rfl (by decide) (show 16384 * 4 = 65536 by decide)
  obtain ⟨q3, f3⟩ := part q2 rfl a.isLt (show 65536 * 8 = 524288 by decide)
  obtain ⟨q4, f4⟩ := part q3 rfl (by decide) (show 524288 * 4 = 2097152 by decide)
  obtain ⟨q5, f5⟩ := part q4 rfl d.isLt (show 2097152 * 8 = 16777216 by decide)
  obtain ⟨q6, f6⟩ := part q5 rfl (by decide) (show 16777216 * 4 = 67108864 by decide)
  refine ⟨q6, ?_⟩
  refine (if_neg (by omega)).trans <|
    (if_neg (by omega)).trans <|
    (if_neg (by omega)).trans <|
    (if_pos ⟨f0, f2, f4, f6⟩).trans ?_
  rw [show fld N 23 21 = d from fld_eq f5 rfl rfl,
    show fld N 18 16 = a from fld_eq f3 rfl rfl,
    show fld N 13 11 = b from fld_eq f1 rfl rfl]

theorem kor (d : BitVec 3) (a : BitVec 3) (b : BitVec 3) : Statement (.kor d a b) := by
  refine of_fields (n := 0xB0000004 + put d 21 + put a 16 + put b 11) 44 (by decide) rfl fun N hN => ?_
  have hN : N = ((((((44 * 4 + 0) * 8 + d.toNat) * 4 + 0) * 8 + a.toNat) * 4 + 0) * 8 + b.toNat) * 2048 + 4 := by
    simp only [put, Nat.reducePow] at hN; omega
  obtain ⟨q0, f0⟩ := part_zero hN (by decide)
  obtain ⟨q1, f1⟩ := part q0 rfl b.isLt (show 2048 * 8 = 16384 by decide)
  obtain ⟨q2, f2⟩ := part q1 rfl (by decide) (show 16384 * 4 = 65536 by decide)
  obtain ⟨q3, f3⟩ := part q2 rfl a.isLt (show 65536 * 8 = 524288 by decide)
  obtain ⟨q4, f4⟩ := part q3 rfl (by decide) (show 524288 * 4 = 2097152 by decide)
  obtain ⟨q5, f5⟩ := part q4 rfl d.isLt (show 2097152 * 8 = 16777216 by decide)
  obtain ⟨q6, f6⟩ := part q5 rfl (by decide) (show 16777216 * 4 = 67108864 by decide)
  refine ⟨q6, ?_⟩
  refine (if_neg (by omega)).trans <|
    (if_neg (by omega)).trans <|
    (if_neg (by omega)).trans <|
    (if_neg (fun h => absurd (f0.symm.trans h.1) (by decide))).trans <|
    (if_pos ⟨f0, f2, f4, f6⟩).trans ?_
  rw [show fld N 23 21 = d from fld_eq f5 rfl rfl,
    show fld N 18 16 = a from fld_eq f3 rfl rfl,
    show fld N 13 11 = b from fld_eq f1 rfl rfl]

theorem knot (d : BitVec 3) (a : BitVec 3) : Statement (.knot d a) := by
  refine of_fields (n := 0xB0000005 + put d 21 + put a 16) 44 (by decide) rfl fun N hN => ?_
  have hN : N = ((((44 * 4 + 0) * 8 + d.toNat) * 4 + 0) * 8 + a.toNat) * 65536 + 5 := by
    simp only [put, Nat.reducePow] at hN; omega
  obtain ⟨q0, f0⟩ := part_zero hN (by decide)
  obtain ⟨q1, f1⟩ := part q0 rfl a.isLt (show 65536 * 8 = 524288 by decide)
  obtain ⟨q2, f2⟩ := part q1 rfl (by decide) (show 524288 * 4 = 2097152 by decide)
  obtain ⟨q3, f3⟩ := part q2 rfl d.isLt (show 2097152 * 8 = 16777216 by decide)
  obtain ⟨q4, f4⟩ := part q3 rfl (by decide) (show 16777216 * 4 = 67108864 by decide)
  refine ⟨q4, ?_⟩
  refine (if_neg (by omega)).trans <|
    (if_neg (by omega)).trans <|
    (if_neg (by omega)).trans <|
    (if_neg (by omega)).trans <|
    (if_neg (by omega)).trans <|
    (if_pos ⟨f0, f2, f4⟩).trans ?_
  rw [show fld N 23 21 = d from fld_eq f3 rfl rfl,
    show fld N 18 16 = a from fld_eq f1 rfl rfl]

theorem kpopc (d : BitVec 5) (a : BitVec 3) : Statement (.kpopc d a) := by
  refine of_fields (n := 0xB0000006 + put d 21 + put a 16) 44 (by decide) rfl fun N hN => ?_
  have hN : N = (((44 * 32 + d.toNat) * 4 + 0) * 8 + a.toNat) * 65536 + 6 := by
    simp only [put, Nat.reducePow] at hN; omega
  obtain ⟨q0, f0⟩ := part_zero hN (by decide)
  obtain ⟨q1, f1⟩ := part q0 rfl a.isLt (show 65536 * 8 = 524288 by decide)
  obtain ⟨q2, f2⟩ := part q1 rfl (by decide) (show 524288 * 4 = 2097152 by decide)
  obtain ⟨q3, f3⟩ := part q2 rfl d.isLt (show 2097152 * 32 = 67108864 by decide)
  refine ⟨q3, ?_⟩
  refine (if_neg (by omega)).trans <|
    (if_neg (by omega)).trans <|
    (if_neg (by omega)).trans <|
    (if_neg (by omega)).trans <|
    (if_neg (by omega)).trans <|
    (if_neg (fun h => absurd (f0.symm.trans h.1) (by decide))).trans <|
    (if_pos ⟨f0, f2⟩).trans ?_
  rw [show fld N 25 21 = d from fld_eq f3 rfl rfl,
    show fld N 18 16 = a from fld_eq f1 rfl rfl]

theorem tld (t : BitVec 3) (c : BitVec 4) (a : BitVec 5) (b : BitVec 5) (h : BitVec 1) : Statement (.tld t c a b h) := by
  refine of_fields (n := 0xB4000000 + put t 19 + put c 15 + put a 10 + put b 5 + put h 4) 45 (by decide) rfl fun N hN => ?_
  have hN : N = ((((((45 * 16 + 0) * 8 + t.toNat) * 16 + c.toNat) * 32 + a.toNat) * 32 + b.toNat) * 2 + h.toNat) * 16 + 0 := by
    simp only [put, Nat.reducePow] at hN; omega
  obtain ⟨q0, f0⟩ := part_zero hN (by decide)
  obtain ⟨q1, f1⟩ := part q0 rfl h.isLt (show 16 * 2 = 32 by decide)
  obtain ⟨q2, f2⟩ := part q1 rfl b.isLt (show 32 * 32 = 1024 by decide)
  obtain ⟨q3, f3⟩ := part q2 rfl a.isLt (show 1024 * 32 = 32768 by decide)
  obtain ⟨q4, f4⟩ := part q3 rfl c.isLt (show 32768 * 16 = 524288 by decide)
  obtain ⟨q5, f5⟩ := part q4 rfl t.isLt (show 524288 * 8 = 4194304 by decide)
  obtain ⟨q6, f6⟩ := part q5 rfl (by decide) (show 4194304 * 16 = 67108864 by decide)
  refine ⟨q6, ?_⟩
  refine (if_pos ⟨f0, f6⟩).trans ?_
  rw [show fld N 21 19 = t from fld_eq f5 rfl rfl,
    show fld N 18 15 = c from fld_eq f4 rfl rfl,
    show fld N 14 10 = a from fld_eq f3 rfl rfl,
    show fld N 9 5 = b from fld_eq f2 rfl rfl,
    show fld N 4 4 = h from fld_eq f1 rfl rfl]

theorem tst (t : BitVec 3) (c : BitVec 4) (a : BitVec 5) (b : BitVec 5) : Statement (.tst t c a b) := by
  refine of_fields (n := 0xB4400000 + put t 19 + put c 15 + put a 10 + put b 5) 45 (by decide) rfl fun N hN => ?_
  have hN : N = (((((45 * 16 + 1) * 8 + t.toNat) * 16 + c.toNat) * 32 + a.toNat) * 32 + b.toNat) * 32 + 0 := by
    simp only [put, Nat.reducePow] at hN; omega
  obtain ⟨q0, f0⟩ := part_zero hN (by decide)
  obtain ⟨q1, f1⟩ := part q0 rfl b.isLt (show 32 * 32 = 1024 by decide)
  obtain ⟨q2, f2⟩ := part q1 rfl a.isLt (show 1024 * 32 = 32768 by decide)
  obtain ⟨q3, f3⟩ := part q2 rfl c.isLt (show 32768 * 16 = 524288 by decide)
  obtain ⟨q4, f4⟩ := part q3 rfl t.isLt (show 524288 * 8 = 4194304 by decide)
  obtain ⟨q5, f5⟩ := part q4 rfl (by decide) (show 4194304 * 16 = 67108864 by decide)
  refine ⟨q5, ?_⟩
  refine (if_neg (fun h => absurd (f5.symm.trans h.2) (by decide))).trans <|
    (if_pos ⟨f0, f5⟩).trans ?_
  rw [show fld N 21 19 = t from fld_eq f4 rfl rfl,
    show fld N 18 15 = c from fld_eq f3 rfl rfl,
    show fld N 14 10 = a from fld_eq f2 rfl rfl,
    show fld N 9 5 = b from fld_eq f1 rfl rfl]

theorem tzero (t : BitVec 3) (s : BitVec 3) : Statement (.tzero t s) := by
  refine of_fields (n := 0xB8000000 + put t 19 + put s 16) 46 (by decide) rfl fun N hN => ?_
  have hN : N = (((46 * 16 + 0) * 8 + t.toNat) * 8 + s.toNat) * 65536 + 0 := by
    simp only [put, Nat.reducePow] at hN; omega
  obtain ⟨q0, f0⟩ := part_zero hN (by decide)
  obtain ⟨q1, f1⟩ := part q0 rfl s.isLt (show 65536 * 8 = 524288 by decide)
  obtain ⟨q2, f2⟩ := part q1 rfl t.isLt (show 524288 * 8 = 4194304 by decide)
  obtain ⟨q3, f3⟩ := part q2 rfl (by decide) (show 4194304 * 16 = 67108864 by decide)
  refine ⟨q3, ?_⟩
  refine (if_pos ⟨f0, f3⟩).trans ?_
  rw [show fld N 21 19 = t from fld_eq f2 rfl rfl,
    show fld N 18 16 = s from fld_eq f1 rfl rfl]

theorem ttrans (t : BitVec 3) (s : BitVec 3) : Statement (.ttrans t s) := by
  refine of_fields (n := 0xB8400000 + put t 19 + put s 16) 46 (by decide) rfl fun N hN => ?_
  have hN : N = (((46 * 16 + 1) * 8 + t.toNat) * 8 + s.toNat) * 65536 + 0 := by
    simp only [put, Nat.reducePow] at hN; omega
  obtain ⟨q0, f0⟩ := part_zero hN (by decide)
  obtain ⟨q1, f1⟩ := part q0 rfl s.isLt (show 65536 * 8 = 524288 by decide)
  obtain ⟨q2, f2⟩ := part q1 rfl t.isLt (show 524288 * 8 = 4194304 by decide)
  obtain ⟨q3, f3⟩ := part q2 rfl (by decide) (show 4194304 * 16 = 67108864 by decide)
  refine ⟨q3, ?_⟩
  refine (if_neg (fun h => absurd (f3.symm.trans h.2) (by decide))).trans <|
    (if_pos ⟨f0, f3⟩).trans ?_
  rw [show fld N 21 19 = t from fld_eq f2 rfl rfl,
    show fld N 18 16 = s from fld_eq f1 rfl rfl]

theorem trdv (t : BitVec 3) (v : BitVec 5) (a : BitVec 5) : Statement (.trdv t v a) := by
  refine of_fields (n := 0xB8800000 + put t 19 + put v 11 + put a 6) 46 (by decide) rfl fun N hN => ?_
  have hN : N = (((((46 * 16 + 2) * 8 + t.toNat) * 8 + 0) * 32 + v.toNat) * 32 + a.toNat) * 64 + 0 := by
    simp only [put, Nat.reducePow] at hN; omega
  obtain ⟨q0, f0⟩ := part_zero hN (by decide)
  obtain ⟨q1, f1⟩ := part q0 rfl a.isLt (show 64 * 32 = 2048 by decide)
  obtain ⟨q2, f2⟩ := part q1 rfl v.isLt (show 2048 * 32 = 65536 by decide)
  obtain ⟨q3, f3⟩ := part q2 rfl (by decide) (show 65536 * 8 = 524288 by decide)
  obtain ⟨q4, f4⟩ := part q3 rfl t.isLt (show 524288 * 8 = 4194304 by decide)
  obtain ⟨q5, f5⟩ := part q4 rfl (by decide) (show 4194304 * 16 = 67108864 by decide)
  refine ⟨q5, ?_⟩
  refine (if_neg (fun h => absurd (f5.symm.trans h.2) (by decide))).trans <|
    (if_neg (fun h => absurd (f5.symm.trans h.2) (by decide))).trans <|
    (if_pos ⟨f0, f3, f5⟩).trans ?_
  rw [show fld N 21 19 = t from fld_eq f4 rfl rfl,
    show fld N 15 11 = v from fld_eq f2 rfl rfl,
    show fld N 10 6 = a from fld_eq f1 rfl rfl]

theorem twrv (t : BitVec 3) (v : BitVec 5) (a : BitVec 5) : Statement (.twrv t v a) := by
  refine of_fields (n := 0xB8C00000 + put t 19 + put v 11 + put a 6) 46 (by decide) rfl fun N hN => ?_
  have hN : N = (((((46 * 16 + 3) * 8 + t.toNat) * 8 + 0) * 32 + v.toNat) * 32 + a.toNat) * 64 + 0 := by
    simp only [put, Nat.reducePow] at hN; omega
  obtain ⟨q0, f0⟩ := part_zero hN (by decide)
  obtain ⟨q1, f1⟩ := part q0 rfl a.isLt (show 64 * 32 = 2048 by decide)
  obtain ⟨q2, f2⟩ := part q1 rfl v.isLt (show 2048 * 32 = 65536 by decide)
  obtain ⟨q3, f3⟩ := part q2 rfl (by decide) (show 65536 * 8 = 524288 by decide)
  obtain ⟨q4, f4⟩ := part q3 rfl t.isLt (show 524288 * 8 = 4194304 by decide)
  obtain ⟨q5, f5⟩ := part q4 rfl (by decide) (show 4194304 * 16 = 67108864 by decide)
  refine ⟨q5, ?_⟩
  refine (if_neg (fun h => absurd (f5.symm.trans h.2) (by decide))).trans <|
    (if_neg (fun h => absurd (f5.symm.trans h.2) (by decide))).trans <|
    (if_neg (fun h => absurd (f5.symm.trans h.2.2) (by decide))).trans <|
    (if_pos ⟨f0, f3, f5⟩).trans ?_
  rw [show fld N 21 19 = t from fld_eq f4 rfl rfl,
    show fld N 15 11 = v from fld_eq f2 rfl rfl,
    show fld N 10 6 = a from fld_eq f1 rfl rfl]

theorem mma (n : BitVec 1) (a : BitVec 3) (b : BitVec 3) (c : BitVec 1) : Statement (.mma n a b c) := by
  refine of_fields (n := 0xBC000000 + put n 21 + put a 18 + put b 15 + put c 8) 47 (by decide) rfl fun N hN => ?_
  have hN : N = ((((((47 * 16 + 0) * 2 + n.toNat) * 8 + a.toNat) * 8 + b.toNat) * 64 + 0) * 2 + c.toNat) * 256 + 0 := by
    simp only [put, Nat.reducePow] at hN; omega
  obtain ⟨q0, f0⟩ := part_zero hN (by decide)
  obtain ⟨q1, f1⟩ := part q0 rfl c.isLt (show 256 * 2 = 512 by decide)
  obtain ⟨q2, f2⟩ := part q1 rfl (by decide) (show 512 * 64 = 32768 by decide)
  obtain ⟨q3, f3⟩ := part q2 rfl b.isLt (show 32768 * 8 = 262144 by decide)
  obtain ⟨q4, f4⟩ := part q3 rfl a.isLt (show 262144 * 8 = 2097152 by decide)
  obtain ⟨q5, f5⟩ := part q4 rfl n.isLt (show 2097152 * 2 = 4194304 by decide)
  obtain ⟨q6, f6⟩ := part q5 rfl (by decide) (show 4194304 * 16 = 67108864 by decide)
  refine ⟨q6, ?_⟩
  refine (if_pos ⟨f0, f2, f6⟩).trans ?_
  rw [show fld N 21 21 = n from fld_eq f5 rfl rfl,
    show fld N 20 18 = a from fld_eq f4 rfl rfl,
    show fld N 17 15 = b from fld_eq f3 rfl rfl,
    show fld N 8 8 = c from fld_eq f1 rfl rfl]

theorem mmas (n : BitVec 1) (a : BitVec 3) (b : BitVec 3) (s : BitVec 3) (u : BitVec 3) (c : BitVec 1) : Statement (.mmas n a b s u c) := by
  refine of_fields (n := 0xBC400000 + put n 21 + put a 18 + put b 15 + put s 12 + put u 9 + put c 8) 47 (by decide) rfl fun N hN => ?_
  have hN : N = (((((((47 * 16 + 1) * 2 + n.toNat) * 8 + a.toNat) * 8 + b.toNat) * 8 + s.toNat) * 8 + u.toNat) * 2 + c.toNat) * 256 + 0 := by
    simp only [put, Nat.reducePow] at hN; omega
  obtain ⟨q0, f0⟩ := part_zero hN (by decide)
  obtain ⟨q1, f1⟩ := part q0 rfl c.isLt (show 256 * 2 = 512 by decide)
  obtain ⟨q2, f2⟩ := part q1 rfl u.isLt (show 512 * 8 = 4096 by decide)
  obtain ⟨q3, f3⟩ := part q2 rfl s.isLt (show 4096 * 8 = 32768 by decide)
  obtain ⟨q4, f4⟩ := part q3 rfl b.isLt (show 32768 * 8 = 262144 by decide)
  obtain ⟨q5, f5⟩ := part q4 rfl a.isLt (show 262144 * 8 = 2097152 by decide)
  obtain ⟨q6, f6⟩ := part q5 rfl n.isLt (show 2097152 * 2 = 4194304 by decide)
  obtain ⟨q7, f7⟩ := part q6 rfl (by decide) (show 4194304 * 16 = 67108864 by decide)
  refine ⟨q7, ?_⟩
  refine (if_neg (fun h => absurd (f7.symm.trans h.2.2) (by decide))).trans <|
    (if_pos ⟨f0, f7⟩).trans ?_
  rw [show fld N 21 21 = n from fld_eq f6 rfl rfl,
    show fld N 20 18 = a from fld_eq f5 rfl rfl,
    show fld N 17 15 = b from fld_eq f4 rfl rfl,
    show fld N 14 12 = s from fld_eq f3 rfl rfl,
    show fld N 11 9 = u from fld_eq f2 rfl rfl,
    show fld N 8 8 = c from fld_eq f1 rfl rfl]

theorem mmai (n : BitVec 1) (a : BitVec 3) (b : BitVec 3) (c : BitVec 1) : Statement (.mmai n a b c) := by
  refine of_fields (n := 0xBC800000 + put n 21 + put a 18 + put b 15 + put c 8) 47 (by decide) rfl fun N hN => ?_
  have hN : N = ((((((47 * 16 + 2) * 2 + n.toNat) * 8 + a.toNat) * 8 + b.toNat) * 64 + 0) * 2 + c.toNat) * 256 + 0 := by
    simp only [put, Nat.reducePow] at hN; omega
  obtain ⟨q0, f0⟩ := part_zero hN (by decide)
  obtain ⟨q1, f1⟩ := part q0 rfl c.isLt (show 256 * 2 = 512 by decide)
  obtain ⟨q2, f2⟩ := part q1 rfl (by decide) (show 512 * 64 = 32768 by decide)
  obtain ⟨q3, f3⟩ := part q2 rfl b.isLt (show 32768 * 8 = 262144 by decide)
  obtain ⟨q4, f4⟩ := part q3 rfl a.isLt (show 262144 * 8 = 2097152 by decide)
  obtain ⟨q5, f5⟩ := part q4 rfl n.isLt (show 2097152 * 2 = 4194304 by decide)
  obtain ⟨q6, f6⟩ := part q5 rfl (by decide) (show 4194304 * 16 = 67108864 by decide)
  refine ⟨q6, ?_⟩
  refine (if_neg (fun h => absurd (f6.symm.trans h.2.2) (by decide))).trans <|
    (if_neg (fun h => absurd (f6.symm.trans h.2) (by decide))).trans <|
    (if_pos ⟨f0, f2, f6⟩).trans ?_
  rw [show fld N 21 21 = n from fld_eq f5 rfl rfl,
    show fld N 20 18 = a from fld_eq f4 rfl rfl,
    show fld N 17 15 = b from fld_eq f3 rfl rfl,
    show fld N 8 8 = c from fld_eq f1 rfl rfl]

theorem aczero (n : BitVec 1) : Statement (.aczero n) := by
  refine of_fields (n := 0xC0000000 + put n 21) 48 (by decide) rfl fun N hN => ?_
  have hN : N = ((48 * 16 + 0) * 2 + n.toNat) * 2097152 + 0 := by
    simp only [put, Nat.reducePow] at hN; omega
  obtain ⟨q0, f0⟩ := part_zero hN (by decide)
  obtain ⟨q1, f1⟩ := part q0 rfl n.isLt (show 2097152 * 2 = 4194304 by decide)
  obtain ⟨q2, f2⟩ := part q1 rfl (by decide) (show 4194304 * 16 = 67108864 by decide)
  refine ⟨q2, ?_⟩
  refine (if_pos ⟨f0, f2⟩).trans ?_
  rw [show fld N 21 21 = n from fld_eq f1 rfl rfl]

theorem acld (n : BitVec 1) (c : BitVec 4) (a : BitVec 5) : Statement (.acld n c a) := by
  refine of_fields (n := 0xC0400000 + put n 21 + put c 17 + put a 12) 48 (by decide) rfl fun N hN => ?_
  have hN : N = ((((48 * 16 + 1) * 2 + n.toNat) * 16 + c.toNat) * 32 + a.toNat) * 4096 + 0 := by
    simp only [put, Nat.reducePow] at hN; omega
  obtain ⟨q0, f0⟩ := part_zero hN (by decide)
  obtain ⟨q1, f1⟩ := part q0 rfl a.isLt (show 4096 * 32 = 131072 by decide)
  obtain ⟨q2, f2⟩ := part q1 rfl c.isLt (show 131072 * 16 = 2097152 by decide)
  obtain ⟨q3, f3⟩ := part q2 rfl n.isLt (show 2097152 * 2 = 4194304 by decide)
  obtain ⟨q4, f4⟩ := part q3 rfl (by decide) (show 4194304 * 16 = 67108864 by decide)
  refine ⟨q4, ?_⟩
  refine (if_neg (fun h => absurd (f4.symm.trans h.2) (by decide))).trans <|
    (if_pos ⟨f0, f4⟩).trans ?_
  rw [show fld N 21 21 = n from fld_eq f3 rfl rfl,
    show fld N 20 17 = c from fld_eq f2 rfl rfl,
    show fld N 16 12 = a from fld_eq f1 rfl rfl]

theorem acst (n : BitVec 1) (c : BitVec 4) (a : BitVec 5) : Statement (.acst n c a) := by
  refine of_fields (n := 0xC0800000 + put n 21 + put c 17 + put a 12) 48 (by decide) rfl fun N hN => ?_
  have hN : N = ((((48 * 16 + 2) * 2 + n.toNat) * 16 + c.toNat) * 32 + a.toNat) * 4096 + 0 := by
    simp only [put, Nat.reducePow] at hN; omega
  obtain ⟨q0, f0⟩ := part_zero hN (by decide)
  obtain ⟨q1, f1⟩ := part q0 rfl a.isLt (show 4096 * 32 = 131072 by decide)
  obtain ⟨q2, f2⟩ := part q1 rfl c.isLt (show 131072 * 16 = 2097152 by decide)
  obtain ⟨q3, f3⟩ := part q2 rfl n.isLt (show 2097152 * 2 = 4194304 by decide)
  obtain ⟨q4, f4⟩ := part q3 rfl (by decide) (show 4194304 * 16 = 67108864 by decide)
  refine ⟨q4, ?_⟩
  refine (if_neg (fun h => absurd (f4.symm.trans h.2) (by decide))).trans <|
    (if_neg (fun h => absurd (f4.symm.trans h.2) (by decide))).trans <|
    (if_pos ⟨f0, f4⟩).trans ?_
  rw [show fld N 21 21 = n from fld_eq f3 rfl rfl,
    show fld N 20 17 = c from fld_eq f2 rfl rfl,
    show fld N 16 12 = a from fld_eq f1 rfl rfl]

theorem accvt (n : BitVec 1) (t : BitVec 3) (i : BitVec 1) : Statement (.accvt n t i) := by
  refine of_fields (n := 0xC0C00000 + put n 21 + put t 9 + put i 8) 48 (by decide) rfl fun N hN => ?_
  have hN : N = (((((48 * 16 + 3) * 2 + n.toNat) * 512 + 0) * 8 + t.toNat) * 2 + i.toNat) * 256 + 0 := by
    simp only [put, Nat.reducePow] at hN; omega
  obtain ⟨q0, f0⟩ := part_zero hN (by decide)
  obtain ⟨q1, f1⟩ := part q0 rfl i.isLt (show 256 * 2 = 512 by decide)
  obtain ⟨q2, f2⟩ := part q1 rfl t.isLt (show 512 * 8 = 4096 by decide)
  obtain ⟨q3, f3⟩ := part q2 rfl (by decide) (show 4096 * 512 = 2097152 by decide)
  obtain ⟨q4, f4⟩ := part q3 rfl n.isLt (show 2097152 * 2 = 4194304 by decide)
  obtain ⟨q5, f5⟩ := part q4 rfl (by decide) (show 4194304 * 16 = 67108864 by decide)
  refine ⟨q5, ?_⟩
  refine (if_neg (fun h => absurd (f5.symm.trans h.2) (by decide))).trans <|
    (if_neg (fun h => absurd (f5.symm.trans h.2) (by decide))).trans <|
    (if_neg (fun h => absurd (f5.symm.trans h.2) (by decide))).trans <|
    (if_pos ⟨f0, f3, f5⟩).trans ?_
  rw [show fld N 21 21 = n from fld_eq f4 rfl rfl,
    show fld N 11 9 = t from fld_eq f2 rfl rfl,
    show fld N 8 8 = i from fld_eq f1 rfl rfl]

theorem acadd (n : BitVec 1) (i : BitVec 1) (b : BitVec 1) : Statement (.acadd n i b) := by
  refine of_fields (n := 0xC1000000 + put n 21 + put i 9 + put b 8) 48 (by decide) rfl fun N hN => ?_
  have hN : N = (((((48 * 16 + 4) * 2 + n.toNat) * 2048 + 0) * 2 + i.toNat) * 2 + b.toNat) * 256 + 0 := by
    simp only [put, Nat.reducePow] at hN; omega
  obtain ⟨q0, f0⟩ := part_zero hN (by decide)
  obtain ⟨q1, f1⟩ := part q0 rfl b.isLt (show 256 * 2 = 512 by decide)
  obtain ⟨q2, f2⟩ := part q1 rfl i.isLt (show 512 * 2 = 1024 by decide)
  obtain ⟨q3, f3⟩ := part q2 rfl (by decide) (show 1024 * 2048 = 2097152 by decide)
  obtain ⟨q4, f4⟩ := part q3 rfl n.isLt (show 2097152 * 2 = 4194304 by decide)
  obtain ⟨q5, f5⟩ := part q4 rfl (by decide) (show 4194304 * 16 = 67108864 by decide)
  refine ⟨q5, ?_⟩
  refine (if_neg (fun h => absurd (f5.symm.trans h.2) (by decide))).trans <|
    (if_neg (fun h => absurd (f5.symm.trans h.2) (by decide))).trans <|
    (if_neg (fun h => absurd (f5.symm.trans h.2) (by decide))).trans <|
    (if_neg (fun h => absurd (f5.symm.trans h.2.2) (by decide))).trans <|
    (if_pos ⟨f0, f3, f5⟩).trans ?_
  rw [show fld N 21 21 = n from fld_eq f4 rfl rfl,
    show fld N 9 9 = i from fld_eq f2 rfl rfl,
    show fld N 8 8 = b from fld_eq f1 rfl rfl]

theorem sbind (v : BitVec 5) (n : BitVec 3) : Statement (.sbind v n) := by
  refine of_fields (n := 0xC4000000 + put v 16 + put n 0) 49 (by decide) rfl fun N hN => ?_
  have hN : N = (((49 * 32 + 0) * 32 + v.toNat) * 8192 + 0) * 8 + n.toNat := by
    simp only [put, Nat.reducePow] at hN; omega
  obtain ⟨q0, f0⟩ := part_zero hN n.isLt
  obtain ⟨q1, f1⟩ := part q0 rfl (by decide) (show 8 * 8192 = 65536 by decide)
  obtain ⟨q2, f2⟩ := part q1 rfl v.isLt (show 65536 * 32 = 2097152 by decide)
  obtain ⟨q3, f3⟩ := part q2 rfl (by decide) (show 2097152 * 32 = 67108864 by decide)
  refine ⟨q3, ?_⟩
  refine (if_pos ⟨f1, f3⟩).trans ?_
  rw [show fld N 20 16 = v from fld_eq f2 rfl rfl,
    show fld N 2 0 = n from fld_zero f0 rfl]

theorem sunbind (n : BitVec 3) : Statement (.sunbind n) := by
  refine of_fields (n := 0xC4200000 + put n 0) 49 (by decide) rfl fun N hN => ?_
  have hN : N = (49 * 8388608 + 262144) * 8 + n.toNat := by
    simp only [put, Nat.reducePow] at hN; omega
  obtain ⟨q0, f0⟩ := part_zero hN n.isLt
  obtain ⟨q1, f1⟩ := part q0 rfl (by decide) (show 8 * 8388608 = 67108864 by decide)
  refine ⟨q1, ?_⟩
  refine (if_neg (by omega)).trans <|
    (if_pos f1).trans ?_
  rw [show fld N 2 0 = n from fld_zero f0 rfl]

theorem scfg (c : BitVec 4) (a : BitVec 5) (b : BitVec 5) (n : BitVec 3) : Statement (.scfg c a b n) := by
  refine of_fields (n := 0xC4400000 + put c 16 + put a 11 + put b 6 + put n 0) 49 (by decide) rfl fun N hN => ?_
  have hN : N = (((((49 * 64 + 4) * 16 + c.toNat) * 32 + a.toNat) * 32 + b.toNat) * 8 + 0) * 8 + n.toNat := by
    simp only [put, Nat.reducePow] at hN; omega
  obtain ⟨q0, f0⟩ := part_zero hN n.isLt
  obtain ⟨q1, f1⟩ := part q0 rfl (by decide) (show 8 * 8 = 64 by decide)
  obtain ⟨q2, f2⟩ := part q1 rfl b.isLt (show 64 * 32 = 2048 by decide)
  obtain ⟨q3, f3⟩ := part q2 rfl a.isLt (show 2048 * 32 = 65536 by decide)
  obtain ⟨q4, f4⟩ := part q3 rfl c.isLt (show 65536 * 16 = 1048576 by decide)
  obtain ⟨q5, f5⟩ := part q4 rfl (by decide) (show 1048576 * 64 = 67108864 by decide)
  refine ⟨q5, ?_⟩
  refine (if_neg (by omega)).trans <|
    (if_neg (by omega)).trans <|
    (if_pos ⟨f1, f5⟩).trans ?_
  rw [show fld N 19 16 = c from fld_eq f4 rfl rfl,
    show fld N 15 11 = a from fld_eq f3 rfl rfl,
    show fld N 10 6 = b from fld_eq f2 rfl rfl,
    show fld N 2 0 = n from fld_zero f0 rfl]

theorem sgo (n : BitVec 3) : Statement (.sgo n) := by
  refine of_fields (n := 0xC4600000 + put n 0) 49 (by decide) rfl fun N hN => ?_
  have hN : N = (49 * 8388608 + 786432) * 8 + n.toNat := by
    simp only [put, Nat.reducePow] at hN; omega
  obtain ⟨q0, f0⟩ := part_zero hN n.isLt
  obtain ⟨q1, f1⟩ := part q0 rfl (by decide) (show 8 * 8388608 = 67108864 by decide)
  refine ⟨q1, ?_⟩
  refine (if_neg (by omega)).trans <|
    (if_neg (fun h => absurd (f1.symm.trans h) (by decide))).trans <|
    (if_neg (by omega)).trans <|
    (if_pos f1).trans ?_
  rw [show fld N 2 0 = n from fld_zero f0 rfl]

theorem sstop (n : BitVec 3) : Statement (.sstop n) := by
  refine of_fields (n := 0xC4800000 + put n 0) 49 (by decide) rfl fun N hN => ?_
  have hN : N = (49 * 8388608 + 1048576) * 8 + n.toNat := by
    simp only [put, Nat.reducePow] at hN; omega
  obtain ⟨q0, f0⟩ := part_zero hN n.isLt
  obtain ⟨q1, f1⟩ := part q0 rfl (by decide) (show 8 * 8388608 = 67108864 by decide)
  refine ⟨q1, ?_⟩
  refine (if_neg (by omega)).trans <|
    (if_neg (fun h => absurd (f1.symm.trans h) (by decide))).trans <|
    (if_neg (by omega)).trans <|
    (if_neg (fun h => absurd (f1.symm.trans h) (by decide))).trans <|
    (if_pos f1).trans ?_
  rw [show fld N 2 0 = n from fld_zero f0 rfl]

theorem ssync (n : BitVec 3) : Statement (.ssync n) := by
  refine of_fields (n := 0xC4A00000 + put n 0) 49 (by decide) rfl fun N hN => ?_
  have hN : N = (49 * 8388608 + 1310720) * 8 + n.toNat := by
    simp only [put, Nat.reducePow] at hN; omega
  obtain ⟨q0, f0⟩ := part_zero hN n.isLt
  obtain ⟨q1, f1⟩ := part q0 rfl (by decide) (show 8 * 8388608 = 67108864 by decide)
  refine ⟨q1, ?_⟩
  refine (if_neg (by omega)).trans <|
    (if_neg (fun h => absurd (f1.symm.trans h) (by decide))).trans <|
    (if_neg (by omega)).trans <|
    (if_neg (fun h => absurd (f1.symm.trans h) (by decide))).trans <|
    (if_neg (fun h => absurd (f1.symm.trans h) (by decide))).trans <|
    (if_pos f1).trans ?_
  rw [show fld N 2 0 = n from fld_zero f0 rfl]

theorem cpy (d : BitVec 5) (e : BitVec 4) (f : BitVec 5) (g : BitVec 4) (h : BitVec 5) : Statement (.cpy d e f g h) := by
  refine of_fields (n := 0xC8000000 + put d 21 + put e 17 + put f 12 + put g 8 + put h 3) 50 (by decide) rfl fun N hN => ?_
  have hN : N = (((((50 * 32 + d.toNat) * 16 + e.toNat) * 32 + f.toNat) * 16 + g.toNat) * 32 + h.toNat) * 8 + 0 := by
    simp only [put, Nat.reducePow] at hN; omega
  obtain ⟨q0, f0⟩ := part_zero hN (by decide)
  obtain ⟨q1, f1⟩ := part q0 rfl h.isLt (show 8 * 32 = 256 by decide)
  obtain ⟨q2, f2⟩ := part q1 rfl g.isLt (show 256 * 16 = 4096 by decide)
  obtain ⟨q3, f3⟩ := part q2 rfl f.isLt (show 4096 * 32 = 131072 by decide)
  obtain ⟨q4, f4⟩ := part q3 rfl e.isLt (show 131072 * 16 = 2097152 by decide)
  obtain ⟨q5, f5⟩ := part q4 rfl d.isLt (show 2097152 * 32 = 67108864 by decide)
  refine ⟨q5, ?_⟩
  refine (if_pos f0).trans ?_
  rw [show fld N 25 21 = d from fld_eq f5 rfl rfl,
    show fld N 20 17 = e from fld_eq f4 rfl rfl,
    show fld N 16 12 = f from fld_eq f3 rfl rfl,
    show fld N 11 8 = g from fld_eq f2 rfl rfl,
    show fld N 7 3 = h from fld_eq f1 rfl rfl]

theorem cpycv (d : BitVec 5) (e : BitVec 4) (f : BitVec 5) (g : BitVec 4) (h : BitVec 5) : Statement (.cpycv d e f g h) := by
  refine of_fields (n := 0xC8000001 + put d 21 + put e 17 + put f 12 + put g 8 + put h 3) 50 (by decide) rfl fun N hN => ?_
  have hN : N = (((((50 * 32 + d.toNat) * 16 + e.toNat) * 32 + f.toNat) * 16 + g.toNat) * 32 + h.toNat) * 8 + 1 := by
    simp only [put, Nat.reducePow] at hN; omega
  obtain ⟨q0, f0⟩ := part_zero hN (by decide)
  obtain ⟨q1, f1⟩ := part q0 rfl h.isLt (show 8 * 32 = 256 by decide)
  obtain ⟨q2, f2⟩ := part q1 rfl g.isLt (show 256 * 16 = 4096 by decide)
  obtain ⟨q3, f3⟩ := part q2 rfl f.isLt (show 4096 * 32 = 131072 by decide)
  obtain ⟨q4, f4⟩ := part q3 rfl e.isLt (show 131072 * 16 = 2097152 by decide)
  obtain ⟨q5, f5⟩ := part q4 rfl d.isLt (show 2097152 * 32 = 67108864 by decide)
  refine ⟨q5, ?_⟩
  refine (if_neg (fun h => absurd (f0.symm.trans h) (by decide))).trans <|
    (if_pos f0).trans ?_
  rw [show fld N 25 21 = d from fld_eq f5 rfl rfl,
    show fld N 20 17 = e from fld_eq f4 rfl rfl,
    show fld N 16 12 = f from fld_eq f3 rfl rfl,
    show fld N 11 8 = g from fld_eq f2 rfl rfl,
    show fld N 7 3 = h from fld_eq f1 rfl rfl]

theorem cpymc (d : BitVec 5) (e : BitVec 4) (f : BitVec 5) (g : BitVec 4) (h : BitVec 5) : Statement (.cpymc d e f g h) := by
  refine of_fields (n := 0xC8000002 + put d 21 + put e 17 + put f 12 + put g 8 + put h 3) 50 (by decide) rfl fun N hN => ?_
  have hN : N = (((((50 * 32 + d.toNat) * 16 + e.toNat) * 32 + f.toNat) * 16 + g.toNat) * 32 + h.toNat) * 8 + 2 := by
    simp only [put, Nat.reducePow] at hN; omega
  obtain ⟨q0, f0⟩ := part_zero hN (by decide)
  obtain ⟨q1, f1⟩ := part q0 rfl h.isLt (show 8 * 32 = 256 by decide)
  obtain ⟨q2, f2⟩ := part q1 rfl g.isLt (show 256 * 16 = 4096 by decide)
  obtain ⟨q3, f3⟩ := part q2 rfl f.isLt (show 4096 * 32 = 131072 by decide)
  obtain ⟨q4, f4⟩ := part q3 rfl e.isLt (show 131072 * 16 = 2097152 by decide)
  obtain ⟨q5, f5⟩ := part q4 rfl d.isLt (show 2097152 * 32 = 67108864 by decide)
  refine ⟨q5, ?_⟩
  refine (if_neg (fun h => absurd (f0.symm.trans h) (by decide))).trans <|
    (if_neg (fun h => absurd (f0.symm.trans h) (by decide))).trans <|
    (if_pos f0).trans ?_
  rw [show fld N 25 21 = d from fld_eq f5 rfl rfl,
    show fld N 20 17 = e from fld_eq f4 rfl rfl,
    show fld N 16 12 = f from fld_eq f3 rfl rfl,
    show fld N 11 8 = g from fld_eq f2 rfl rfl,
    show fld N 7 3 = h from fld_eq f1 rfl rfl]

theorem cpyred (d : BitVec 5) (e : BitVec 4) (f : BitVec 5) (g : BitVec 4) (h : BitVec 5) : Statement (.cpyred d e f g h) := by
  refine of_fields (n := 0xC8000003 + put d 21 + put e 17 + put f 12 + put g 8 + put h 3) 50 (by decide) rfl fun N hN => ?_
  have hN : N = (((((50 * 32 + d.toNat) * 16 + e.toNat) * 32 + f.toNat) * 16 + g.toNat) * 32 + h.toNat) * 8 + 3 := by
    simp only [put, Nat.reducePow] at hN; omega
  obtain ⟨q0, f0⟩ := part_zero hN (by decide)
  obtain ⟨q1, f1⟩ := part q0 rfl h.isLt (show 8 * 32 = 256 by decide)
  obtain ⟨q2, f2⟩ := part q1 rfl g.isLt (show 256 * 16 = 4096 by decide)
  obtain ⟨q3, f3⟩ := part q2 rfl f.isLt (show 4096 * 32 = 131072 by decide)
  obtain ⟨q4, f4⟩ := part q3 rfl e.isLt (show 131072 * 16 = 2097152 by decide)
  obtain ⟨q5, f5⟩ := part q4 rfl d.isLt (show 2097152 * 32 = 67108864 by decide)
  refine ⟨q5, ?_⟩
  refine (if_neg (fun h => absurd (f0.symm.trans h) (by decide))).trans <|
    (if_neg (fun h => absurd (f0.symm.trans h) (by decide))).trans <|
    (if_neg (fun h => absurd (f0.symm.trans h) (by decide))).trans <|
    (if_pos f0).trans ?_
  rw [show fld N 25 21 = d from fld_eq f5 rfl rfl,
    show fld N 20 17 = e from fld_eq f4 rfl rfl,
    show fld N 16 12 = f from fld_eq f3 rfl rfl,
    show fld N 11 8 = g from fld_eq f2 rfl rfl,
    show fld N 7 3 = h from fld_eq f1 rfl rfl]

theorem tkcommit (d : BitVec 5) (a : BitVec 5) (f : BitVec 1) (c : BitVec 4) : Statement (.tkcommit d a f c) := by
  refine of_fields (n := 0xCC000000 + put d 16 + put a 11 + put f 4 + put c 0) 51 (by decide) rfl fun N hN => ?_
  have hN : N = (((((51 * 32 + 0) * 32 + d.toNat) * 32 + a.toNat) * 64 + 0) * 2 + f.toNat) * 16 + c.toNat := by
    simp only [put, Nat.reducePow] at hN; omega
  obtain ⟨q0, f0⟩ := part_zero hN c.isLt
  obtain ⟨q1, f1⟩ := part q0 rfl f.isLt (show 16 * 2 = 32 by decide)
  obtain ⟨q2, f2⟩ := part q1 rfl (by decide) (show 32 * 64 = 2048 by decide)
  obtain ⟨q3, f3⟩ := part q2 rfl a.isLt (show 2048 * 32 = 65536 by decide)
  obtain ⟨q4, f4⟩ := part q3 rfl d.isLt (show 65536 * 32 = 2097152 by decide)
  obtain ⟨q5, f5⟩ := part q4 rfl (by decide) (show 2097152 * 32 = 67108864 by decide)
  refine ⟨q5, ?_⟩
  refine (if_pos ⟨f2, f5⟩).trans ?_
  rw [show fld N 20 16 = d from fld_eq f4 rfl rfl,
    show fld N 15 11 = a from fld_eq f3 rfl rfl,
    show fld N 4 4 = f from fld_eq f1 rfl rfl,
    show fld N 3 0 = c from fld_zero f0 rfl]

theorem tkforce (d : BitVec 5) (c : BitVec 4) : Statement (.tkforce d c) := by
  refine of_fields (n := 0xCC200000 + put d 16 + put c 0) 51 (by decide) rfl fun N hN => ?_
  have hN : N = (((51 * 32 + 1) * 32 + d.toNat) * 4096 + 0) * 16 + c.toNat := by
    simp only [put, Nat.reducePow] at hN; omega
  obtain ⟨q0, f0⟩ := part_zero hN c.isLt
  obtain ⟨q1, f1⟩ := part q0 rfl (by decide) (show 16 * 4096 = 65536 by decide)
  obtain ⟨q2, f2⟩ := part q1 rfl d.isLt (show 65536 * 32 = 2097152 by decide)
  obtain ⟨q3, f3⟩ := part q2 rfl (by decide) (show 2097152 * 32 = 67108864 by decide)
  refine ⟨q3, ?_⟩
  refine (if_neg (fun h => absurd (f3.symm.trans h.2) (by decide))).trans <|
    (if_pos ⟨f1, f3⟩).trans ?_
  rw [show fld N 20 16 = d from fld_eq f2 rfl rfl,
    show fld N 3 0 = c from fld_zero f0 rfl]

theorem tkmask (v : BitVec 5) (a : BitVec 5) (c : BitVec 4) : Statement (.tkmask v a c) := by
  refine of_fields (n := 0xCC400000 + put v 16 + put a 11 + put c 0) 51 (by decide) rfl fun N hN => ?_
  have hN : N = ((((51 * 32 + 2) * 32 + v.toNat) * 32 + a.toNat) * 128 + 0) * 16 + c.toNat := by
    simp only [put, Nat.reducePow] at hN; omega
  obtain ⟨q0, f0⟩ := part_zero hN c.isLt
  obtain ⟨q1, f1⟩ := part q0 rfl (by decide) (show 16 * 128 = 2048 by decide)
  obtain ⟨q2, f2⟩ := part q1 rfl a.isLt (show 2048 * 32 = 65536 by decide)
  obtain ⟨q3, f3⟩ := part q2 rfl v.isLt (show 65536 * 32 = 2097152 by decide)
  obtain ⟨q4, f4⟩ := part q3 rfl (by decide) (show 2097152 * 32 = 67108864 by decide)
  refine ⟨q4, ?_⟩
  refine (if_neg (fun h => absurd (f4.symm.trans h.2) (by decide))).trans <|
    (if_neg (fun h => absurd (f4.symm.trans h.2) (by decide))).trans <|
    (if_pos ⟨f1, f4⟩).trans ?_
  rw [show fld N 20 16 = v from fld_eq f3 rfl rfl,
    show fld N 15 11 = a from fld_eq f2 rfl rfl,
    show fld N 3 0 = c from fld_zero f0 rfl]

theorem tkstat (d : BitVec 5) (a : BitVec 5) (c : BitVec 4) : Statement (.tkstat d a c) := by
  refine of_fields (n := 0xCC600000 + put d 16 + put a 11 + put c 0) 51 (by decide) rfl fun N hN => ?_
  have hN : N = ((((51 * 32 + 3) * 32 + d.toNat) * 32 + a.toNat) * 128 + 0) * 16 + c.toNat := by
    simp only [put, Nat.reducePow] at hN; omega
  obtain ⟨q0, f0⟩ := part_zero hN c.isLt
  obtain ⟨q1, f1⟩ := part q0 rfl (by decide) (show 16 * 128 = 2048 by decide)
  obtain ⟨q2, f2⟩ := part q1 rfl a.isLt (show 2048 * 32 = 65536 by decide)
  obtain ⟨q3, f3⟩ := part q2 rfl d.isLt (show 65536 * 32 = 2097152 by decide)
  obtain ⟨q4, f4⟩ := part q3 rfl (by decide) (show 2097152 * 32 = 67108864 by decide)
  refine ⟨q4, ?_⟩
  refine (if_neg (fun h => absurd (f4.symm.trans h.2) (by decide))).trans <|
    (if_neg (fun h => absurd (f4.symm.trans h.2) (by decide))).trans <|
    (if_neg (fun h => absurd (f4.symm.trans h.2) (by decide))).trans <|
    (if_pos ⟨f1, f4⟩).trans ?_
  rw [show fld N 20 16 = d from fld_eq f3 rfl rfl,
    show fld N 15 11 = a from fld_eq f2 rfl rfl,
    show fld N 3 0 = c from fld_zero f0 rfl]

theorem tkfork (d : BitVec 5) (b : BitVec 4) (c : BitVec 4) : Statement (.tkfork d b c) := by
  refine of_fields (n := 0xCC800000 + put d 16 + put b 6 + put c 0) 51 (by decide) rfl fun N hN => ?_
  have hN : N = (((((51 * 32 + 4) * 32 + d.toNat) * 64 + 0) * 16 + b.toNat) * 4 + 0) * 16 + c.toNat := by
    simp only [put, Nat.reducePow] at hN; omega
  obtain ⟨q0, f0⟩ := part_zero hN c.isLt
  obtain ⟨q1, f1⟩ := part q0 rfl (by decide) (show 16 * 4 = 64 by decide)
  obtain ⟨q2, f2⟩ := part q1 rfl b.isLt (show 64 * 16 = 1024 by decide)
  obtain ⟨q3, f3⟩ := part q2 rfl (by decide) (show 1024 * 64 = 65536 by decide)
  obtain ⟨q4, f4⟩ := part q3 rfl d.isLt (show 65536 * 32 = 2097152 by decide)
  obtain ⟨q5, f5⟩ := part q4 rfl (by decide) (show 2097152 * 32 = 67108864 by decide)
  refine ⟨q5, ?_⟩
  refine (if_neg (fun h => absurd (f5.symm.trans h.2) (by decide))).trans <|
    (if_neg (fun h => absurd (f5.symm.trans h.2) (by decide))).trans <|
    (if_neg (fun h => absurd (f5.symm.trans h.2) (by decide))).trans <|
    (if_neg (fun h => absurd (f5.symm.trans h.2) (by decide))).trans <|
    (if_pos ⟨f1, f3, f5⟩).trans ?_
  rw [show fld N 20 16 = d from fld_eq f4 rfl rfl,
    show fld N 9 6 = b from fld_eq f2 rfl rfl,
    show fld N 3 0 = c from fld_zero f0 rfl]

theorem tktrunc (d : BitVec 5) (a : BitVec 5) (c : BitVec 4) : Statement (.tktrunc d a c) := by
  refine of_fields (n := 0xCCA00000 + put d 16 + put a 11 + put c 0) 51 (by decide) rfl fun N hN => ?_
  have hN : N = ((((51 * 32 + 5) * 32 + d.toNat) * 32 + a.toNat) * 128 + 0) * 16 + c.toNat := by
    simp only [put, Nat.reducePow] at hN; omega
  obtain ⟨q0, f0⟩ := part_zero hN c.isLt
  obtain ⟨q1, f1⟩ := part q0 rfl (by decide) (show 16 * 128 = 2048 by decide)
  obtain ⟨q2, f2⟩ := part q1 rfl a.isLt (show 2048 * 32 = 65536 by decide)
  obtain ⟨q3, f3⟩ := part q2 rfl d.isLt (show 65536 * 32 = 2097152 by decide)
  obtain ⟨q4, f4⟩ := part q3 rfl (by decide) (show 2097152 * 32 = 67108864 by decide)
  refine ⟨q4, ?_⟩
  refine (if_neg (fun h => absurd (f4.symm.trans h.2) (by decide))).trans <|
    (if_neg (fun h => absurd (f4.symm.trans h.2) (by decide))).trans <|
    (if_neg (fun h => absurd (f4.symm.trans h.2) (by decide))).trans <|
    (if_neg (fun h => absurd (f4.symm.trans h.2) (by decide))).trans <|
    (if_neg (fun h => absurd (f4.symm.trans h.2.2) (by decide))).trans <|
    (if_pos ⟨f1, f4⟩).trans ?_
  rw [show fld N 20 16 = d from fld_eq f3 rfl rfl,
    show fld N 15 11 = a from fld_eq f2 rfl rfl,
    show fld N 3 0 = c from fld_zero f0 rfl]

theorem tkckpt (c : BitVec 4) : Statement (.tkckpt c) := by
  refine of_fields (n := 0xCCC00000 + put c 0) 51 (by decide) rfl fun N hN => ?_
  have hN : N = (51 * 4194304 + 786432) * 16 + c.toNat := by
    simp only [put, Nat.reducePow] at hN; omega
  obtain ⟨q0, f0⟩ := part_zero hN c.isLt
  obtain ⟨q1, f1⟩ := part q0 rfl (by decide) (show 16 * 4194304 = 67108864 by decide)
  refine ⟨q1, ?_⟩
  refine (if_neg (by omega)).trans <|
    (if_neg (by omega)).trans <|
    (if_neg (by omega)).trans <|
    (if_neg (by omega)).trans <|
    (if_neg (by omega)).trans <|
    (if_neg (by omega)).trans <|
    (if_pos f1).trans ?_
  rw [show fld N 3 0 = c from fld_zero f0 rfl]

theorem tkdraw (d : BitVec 5) (a : BitVec 5) (c : BitVec 4) : Statement (.tkdraw d a c) := by
  refine of_fields (n := 0xCCE00000 + put d 16 + put a 11 + put c 0) 51 (by decide) rfl fun N hN => ?_
  have hN : N = ((((51 * 32 + 7) * 32 + d.toNat) * 32 + a.toNat) * 128 + 0) * 16 + c.toNat := by
    simp only [put, Nat.reducePow] at hN; omega
  obtain ⟨q0, f0⟩ := part_zero hN c.isLt
  obtain ⟨q1, f1⟩ := part q0 rfl (by decide) (show 16 * 128 = 2048 by decide)
  obtain ⟨q2, f2⟩ := part q1 rfl a.isLt (show 2048 * 32 = 65536 by decide)
  obtain ⟨q3, f3⟩ := part q2 rfl d.isLt (show 65536 * 32 = 2097152 by decide)
  obtain ⟨q4, f4⟩ := part q3 rfl (by decide) (show 2097152 * 32 = 67108864 by decide)
  refine ⟨q4, ?_⟩
  refine (if_neg (fun h => absurd (f4.symm.trans h.2) (by decide))).trans <|
    (if_neg (fun h => absurd (f4.symm.trans h.2) (by decide))).trans <|
    (if_neg (fun h => absurd (f4.symm.trans h.2) (by decide))).trans <|
    (if_neg (fun h => absurd (f4.symm.trans h.2) (by decide))).trans <|
    (if_neg (fun h => absurd (f4.symm.trans h.2.2) (by decide))).trans <|
    (if_neg (fun h => absurd (f4.symm.trans h.2) (by decide))).trans <|
    (if_neg (by omega)).trans <|
    (if_pos ⟨f1, f4⟩).trans ?_
  rw [show fld N 20 16 = d from fld_eq f3 rfl rfl,
    show fld N 15 11 = a from fld_eq f2 rfl rfl,
    show fld N 3 0 = c from fld_zero f0 rfl]

theorem rndu (d : BitVec 5) (a : BitVec 5) (c : BitVec 4) : Statement (.rndu d a c) := by
  refine of_fields (n := 0xD0000000 + put d 16 + put a 11 + put c 0) 52 (by decide) rfl fun N hN => ?_
  have hN : N = ((((52 * 32 + 0) * 32 + d.toNat) * 32 + a.toNat) * 128 + 0) * 16 + c.toNat := by
    simp only [put, Nat.reducePow] at hN; omega
  obtain ⟨q0, f0⟩ := part_zero hN c.isLt
  obtain ⟨q1, f1⟩ := part q0 rfl (by decide) (show 16 * 128 = 2048 by decide)
  obtain ⟨q2, f2⟩ := part q1 rfl a.isLt (show 2048 * 32 = 65536 by decide)
  obtain ⟨q3, f3⟩ := part q2 rfl d.isLt (show 65536 * 32 = 2097152 by decide)
  obtain ⟨q4, f4⟩ := part q3 rfl (by decide) (show 2097152 * 32 = 67108864 by decide)
  refine ⟨q4, ?_⟩
  refine (if_pos ⟨f1, f4⟩).trans ?_
  rw [show fld N 20 16 = d from fld_eq f3 rfl rfl,
    show fld N 15 11 = a from fld_eq f2 rfl rfl,
    show fld N 3 0 = c from fld_zero f0 rfl]

theorem rndv (v : BitVec 5) (a : BitVec 5) (c : BitVec 4) : Statement (.rndv v a c) := by
  refine of_fields (n := 0xD0200000 + put v 16 + put a 11 + put c 0) 52 (by decide) rfl fun N hN => ?_
  have hN : N = ((((52 * 32 + 1) * 32 + v.toNat) * 32 + a.toNat) * 128 + 0) * 16 + c.toNat := by
    simp only [put, Nat.reducePow] at hN; omega
  obtain ⟨q0, f0⟩ := part_zero hN c.isLt
  obtain ⟨q1, f1⟩ := part q0 rfl (by decide) (show 16 * 128 = 2048 by decide)
  obtain ⟨q2, f2⟩ := part q1 rfl a.isLt (show 2048 * 32 = 65536 by decide)
  obtain ⟨q3, f3⟩ := part q2 rfl v.isLt (show 65536 * 32 = 2097152 by decide)
  obtain ⟨q4, f4⟩ := part q3 rfl (by decide) (show 2097152 * 32 = 67108864 by decide)
  refine ⟨q4, ?_⟩
  refine (if_neg (fun h => absurd (f4.symm.trans h.2) (by decide))).trans <|
    (if_pos ⟨f1, f4⟩).trans ?_
  rw [show fld N 20 16 = v from fld_eq f3 rfl rfl,
    show fld N 15 11 = a from fld_eq f2 rfl rfl,
    show fld N 3 0 = c from fld_zero f0 rfl]

theorem rndg (v : BitVec 5) (a : BitVec 5) (c : BitVec 4) : Statement (.rndg v a c) := by
  refine of_fields (n := 0xD0400000 + put v 16 + put a 11 + put c 0) 52 (by decide) rfl fun N hN => ?_
  have hN : N = ((((52 * 32 + 2) * 32 + v.toNat) * 32 + a.toNat) * 128 + 0) * 16 + c.toNat := by
    simp only [put, Nat.reducePow] at hN; omega
  obtain ⟨q0, f0⟩ := part_zero hN c.isLt
  obtain ⟨q1, f1⟩ := part q0 rfl (by decide) (show 16 * 128 = 2048 by decide)
  obtain ⟨q2, f2⟩ := part q1 rfl a.isLt (show 2048 * 32 = 65536 by decide)
  obtain ⟨q3, f3⟩ := part q2 rfl v.isLt (show 65536 * 32 = 2097152 by decide)
  obtain ⟨q4, f4⟩ := part q3 rfl (by decide) (show 2097152 * 32 = 67108864 by decide)
  refine ⟨q4, ?_⟩
  refine (if_neg (fun h => absurd (f4.symm.trans h.2) (by decide))).trans <|
    (if_neg (fun h => absurd (f4.symm.trans h.2) (by decide))).trans <|
    (if_pos ⟨f1, f4⟩).trans ?_
  rw [show fld N 20 16 = v from fld_eq f3 rfl rfl,
    show fld N 15 11 = a from fld_eq f2 rfl rfl,
    show fld N 3 0 = c from fld_zero f0 rfl]

theorem nmaxi (d : BitVec 5) (a : BitVec 5) (i : BitVec 1) (g : BitVec 4) : Statement (.nmaxi d a i g) := by
  refine of_fields (n := 0xD4000000 + put d 16 + put a 11 + put i 4 + put g 0) 53 (by decide) rfl fun N hN => ?_
  have hN : N = (((((53 * 32 + 0) * 32 + d.toNat) * 32 + a.toNat) * 64 + 0) * 2 + i.toNat) * 16 + g.toNat := by
    simp only [put, Nat.reducePow] at hN; omega
  obtain ⟨q0, f0⟩ := part_zero hN g.isLt
  obtain ⟨q1, f1⟩ := part q0 rfl i.isLt (show 16 * 2 = 32 by decide)
  obtain ⟨q2, f2⟩ := part q1 rfl (by decide) (show 32 * 64 = 2048 by decide)
  obtain ⟨q3, f3⟩ := part q2 rfl a.isLt (show 2048 * 32 = 65536 by decide)
  obtain ⟨q4, f4⟩ := part q3 rfl d.isLt (show 65536 * 32 = 2097152 by decide)
  obtain ⟨q5, f5⟩ := part q4 rfl (by decide) (show 2097152 * 32 = 67108864 by decide)
  refine ⟨q5, ?_⟩
  refine (if_pos ⟨f2, f5⟩).trans ?_
  rw [show fld N 20 16 = d from fld_eq f4 rfl rfl,
    show fld N 15 11 = a from fld_eq f3 rfl rfl,
    show fld N 4 4 = i from fld_eq f1 rfl rfl,
    show fld N 3 0 = g from fld_zero f0 rfl]

theorem nmini (d : BitVec 5) (a : BitVec 5) (i : BitVec 1) (g : BitVec 4) : Statement (.nmini d a i g) := by
  refine of_fields (n := 0xD4200000 + put d 16 + put a 11 + put i 4 + put g 0) 53 (by decide) rfl fun N hN => ?_
  have hN : N = (((((53 * 32 + 1) * 32 + d.toNat) * 32 + a.toNat) * 64 + 0) * 2 + i.toNat) * 16 + g.toNat := by
    simp only [put, Nat.reducePow] at hN; omega
  obtain ⟨q0, f0⟩ := part_zero hN g.isLt
  obtain ⟨q1, f1⟩ := part q0 rfl i.isLt (show 16 * 2 = 32 by decide)
  obtain ⟨q2, f2⟩ := part q1 rfl (by decide) (show 32 * 64 = 2048 by decide)
  obtain ⟨q3, f3⟩ := part q2 rfl a.isLt (show 2048 * 32 = 65536 by decide)
  obtain ⟨q4, f4⟩ := part q3 rfl d.isLt (show 65536 * 32 = 2097152 by decide)
  obtain ⟨q5, f5⟩ := part q4 rfl (by decide) (show 2097152 * 32 = 67108864 by decide)
  refine ⟨q5, ?_⟩
  refine (if_neg (fun h => absurd (f5.symm.trans h.2) (by decide))).trans <|
    (if_pos ⟨f2, f5⟩).trans ?_
  rw [show fld N 20 16 = d from fld_eq f4 rfl rfl,
    show fld N 15 11 = a from fld_eq f3 rfl rfl,
    show fld N 4 4 = i from fld_eq f1 rfl rfl,
    show fld N 3 0 = g from fld_zero f0 rfl]

theorem nadd (d : BitVec 5) (a : BitVec 5) (g : BitVec 4) : Statement (.nadd d a g) := by
  refine of_fields (n := 0xD4400000 + put d 16 + put a 11 + put g 0) 53 (by decide) rfl fun N hN => ?_
  have hN : N = ((((53 * 32 + 2) * 32 + d.toNat) * 32 + a.toNat) * 128 + 0) * 16 + g.toNat := by
    simp only [put, Nat.reducePow] at hN; omega
  obtain ⟨q0, f0⟩ := part_zero hN g.isLt
  obtain ⟨q1, f1⟩ := part q0 rfl (by decide) (show 16 * 128 = 2048 by decide)
  obtain ⟨q2, f2⟩ := part q1 rfl a.isLt (show 2048 * 32 = 65536 by decide)
  obtain ⟨q3, f3⟩ := part q2 rfl d.isLt (show 65536 * 32 = 2097152 by decide)
  obtain ⟨q4, f4⟩ := part q3 rfl (by decide) (show 2097152 * 32 = 67108864 by decide)
  refine ⟨q4, ?_⟩
  refine (if_neg (fun h => absurd (f4.symm.trans h.2) (by decide))).trans <|
    (if_neg (fun h => absurd (f4.symm.trans h.2) (by decide))).trans <|
    (if_pos ⟨f1, f4⟩).trans ?_
  rw [show fld N 20 16 = d from fld_eq f3 rfl rfl,
    show fld N 15 11 = a from fld_eq f2 rfl rfl,
    show fld N 3 0 = g from fld_zero f0 rfl]

theorem eqinit (d : BitVec 5) (f : BitVec 4) : Statement (.eqinit d f) := by
  refine of_fields (n := 0xD8000000 + put d 16 + put f 0) 54 (by decide) rfl fun N hN => ?_
  have hN : N = (((54 * 32 + 0) * 32 + d.toNat) * 4096 + 0) * 16 + f.toNat := by
    simp only [put, Nat.reducePow] at hN; omega
  obtain ⟨q0, f0⟩ := part_zero hN f.isLt
  obtain ⟨q1, f1⟩ := part q0 rfl (by decide) (show 16 * 4096 = 65536 by decide)
  obtain ⟨q2, f2⟩ := part q1 rfl d.isLt (show 65536 * 32 = 2097152 by decide)
  obtain ⟨q3, f3⟩ := part q2 rfl (by decide) (show 2097152 * 32 = 67108864 by decide)
  refine ⟨q3, ?_⟩
  refine (if_pos ⟨f1, f3⟩).trans ?_
  rw [show fld N 20 16 = d from fld_eq f2 rfl rfl,
    show fld N 3 0 = f from fld_zero f0 rfl]

theorem equnite (d : BitVec 5) (a : BitVec 5) (b : BitVec 5) (f : BitVec 4) : Statement (.equnite d a b f) := by
  refine of_fields (n := 0xD8200000 + put d 16 + put a 11 + put b 6 + put f 0) 54 (by decide) rfl fun N hN => ?_
  have hN : N = (((((54 * 32 + 1) * 32 + d.toNat) * 32 + a.toNat) * 32 + b.toNat) * 4 + 0) * 16 + f.toNat := by
    simp only [put, Nat.reducePow] at hN; omega
  obtain ⟨q0, f0⟩ := part_zero hN f.isLt
  obtain ⟨q1, f1⟩ := part q0 rfl (by decide) (show 16 * 4 = 64 by decide)
  obtain ⟨q2, f2⟩ := part q1 rfl b.isLt (show 64 * 32 = 2048 by decide)
  obtain ⟨q3, f3⟩ := part q2 rfl a.isLt (show 2048 * 32 = 65536 by decide)
  obtain ⟨q4, f4⟩ := part q3 rfl d.isLt (show 65536 * 32 = 2097152 by decide)
  obtain ⟨q5, f5⟩ := part q4 rfl (by decide) (show 2097152 * 32 = 67108864 by decide)
  refine ⟨q5, ?_⟩
  refine (if_neg (fun h => absurd (f5.symm.trans h.2) (by decide))).trans <|
    (if_pos ⟨f1, f5⟩).trans ?_
  rw [show fld N 20 16 = d from fld_eq f4 rfl rfl,
    show fld N 15 11 = a from fld_eq f3 rfl rfl,
    show fld N 10 6 = b from fld_eq f2 rfl rfl,
    show fld N 3 0 = f from fld_zero f0 rfl]

theorem eqfind (d : BitVec 5) (a : BitVec 5) (f : BitVec 4) : Statement (.eqfind d a f) := by
  refine of_fields (n := 0xD8400000 + put d 16 + put a 11 + put f 0) 54 (by decide) rfl fun N hN => ?_
  have hN : N = ((((54 * 32 + 2) * 32 + d.toNat) * 32 + a.toNat) * 128 + 0) * 16 + f.toNat := by
    simp only [put, Nat.reducePow] at hN; omega
  obtain ⟨q0, f0⟩ := part_zero hN f.isLt
  obtain ⟨q1, f1⟩ := part q0 rfl (by decide) (show 16 * 128 = 2048 by decide)
  obtain ⟨q2, f2⟩ := part q1 rfl a.isLt (show 2048 * 32 = 65536 by decide)
  obtain ⟨q3, f3⟩ := part q2 rfl d.isLt (show 65536 * 32 = 2097152 by decide)
  obtain ⟨q4, f4⟩ := part q3 rfl (by decide) (show 2097152 * 32 = 67108864 by decide)
  refine ⟨q4, ?_⟩
  refine (if_neg (fun h => absurd (f4.symm.trans h.2) (by decide))).trans <|
    (if_neg (fun h => absurd (f4.symm.trans h.2) (by decide))).trans <|
    (if_pos ⟨f1, f4⟩).trans ?_
  rw [show fld N 20 16 = d from fld_eq f3 rfl rfl,
    show fld N 15 11 = a from fld_eq f2 rfl rfl,
    show fld N 3 0 = f from fld_zero f0 rfl]

theorem eqsize (d : BitVec 5) (a : BitVec 5) (f : BitVec 4) : Statement (.eqsize d a f) := by
  refine of_fields (n := 0xD8600000 + put d 16 + put a 11 + put f 0) 54 (by decide) rfl fun N hN => ?_
  have hN : N = ((((54 * 32 + 3) * 32 + d.toNat) * 32 + a.toNat) * 128 + 0) * 16 + f.toNat := by
    simp only [put, Nat.reducePow] at hN; omega
  obtain ⟨q0, f0⟩ := part_zero hN f.isLt
  obtain ⟨q1, f1⟩ := part q0 rfl (by decide) (show 16 * 128 = 2048 by decide)
  obtain ⟨q2, f2⟩ := part q1 rfl a.isLt (show 2048 * 32 = 65536 by decide)
  obtain ⟨q3, f3⟩ := part q2 rfl d.isLt (show 65536 * 32 = 2097152 by decide)
  obtain ⟨q4, f4⟩ := part q3 rfl (by decide) (show 2097152 * 32 = 67108864 by decide)
  refine ⟨q4, ?_⟩
  refine (if_neg (fun h => absurd (f4.symm.trans h.2) (by decide))).trans <|
    (if_neg (fun h => absurd (f4.symm.trans h.2) (by decide))).trans <|
    (if_neg (fun h => absurd (f4.symm.trans h.2) (by decide))).trans <|
    (if_pos ⟨f1, f4⟩).trans ?_
  rw [show fld N 20 16 = d from fld_eq f3 rfl rfl,
    show fld N 15 11 = a from fld_eq f2 rfl rfl,
    show fld N 3 0 = f from fld_zero f0 rfl]

theorem eqreduce (d : BitVec 5) (a : BitVec 4) (b : BitVec 4) (f : BitVec 4) : Statement (.eqreduce d a b f) := by
  refine of_fields (n := 0xD8800000 + put d 16 + put a 11 + put b 6 + put f 0) 54 (by decide) rfl fun N hN => ?_
  have hN : N = (((((((54 * 32 + 4) * 32 + d.toNat) * 2 + 0) * 16 + a.toNat) * 2 + 0) * 16 + b.toNat) * 4 + 0) * 16 + f.toNat := by
    simp only [put, Nat.reducePow] at hN; omega
  obtain ⟨q0, f0⟩ := part_zero hN f.isLt
  obtain ⟨q1, f1⟩ := part q0 rfl (by decide) (show 16 * 4 = 64 by decide)
  obtain ⟨q2, f2⟩ := part q1 rfl b.isLt (show 64 * 16 = 1024 by decide)
  obtain ⟨q3, f3⟩ := part q2 rfl (by decide) (show 1024 * 2 = 2048 by decide)
  obtain ⟨q4, f4⟩ := part q3 rfl a.isLt (show 2048 * 16 = 32768 by decide)
  obtain ⟨q5, f5⟩ := part q4 rfl (by decide) (show 32768 * 2 = 65536 by decide)
  obtain ⟨q6, f6⟩ := part q5 rfl d.isLt (show 65536 * 32 = 2097152 by decide)
  obtain ⟨q7, f7⟩ := part q6 rfl (by decide) (show 2097152 * 32 = 67108864 by decide)
  refine ⟨q7, ?_⟩
  refine (if_neg (fun h => absurd (f7.symm.trans h.2) (by decide))).trans <|
    (if_neg (fun h => absurd (f7.symm.trans h.2) (by decide))).trans <|
    (if_neg (fun h => absurd (f7.symm.trans h.2) (by decide))).trans <|
    (if_neg (fun h => absurd (f7.symm.trans h.2) (by decide))).trans <|
    (if_pos ⟨f1, f3, f5, f7⟩).trans ?_
  rw [show fld N 20 16 = d from fld_eq f6 rfl rfl,
    show fld N 14 11 = a from fld_eq f4 rfl rfl,
    show fld N 9 6 = b from fld_eq f2 rfl rfl,
    show fld N 3 0 = f from fld_zero f0 rfl]

theorem eqsnap (d : BitVec 5) (a : BitVec 5) (f : BitVec 4) : Statement (.eqsnap d a f) := by
  refine of_fields (n := 0xD8A00000 + put d 16 + put a 11 + put f 0) 54 (by decide) rfl fun N hN => ?_
  have hN : N = ((((54 * 32 + 5) * 32 + d.toNat) * 32 + a.toNat) * 128 + 0) * 16 + f.toNat := by
    simp only [put, Nat.reducePow] at hN; omega
  obtain ⟨q0, f0⟩ := part_zero hN f.isLt
  obtain ⟨q1, f1⟩ := part q0 rfl (by decide) (show 16 * 128 = 2048 by decide)
  obtain ⟨q2, f2⟩ := part q1 rfl a.isLt (show 2048 * 32 = 65536 by decide)
  obtain ⟨q3, f3⟩ := part q2 rfl d.isLt (show 65536 * 32 = 2097152 by decide)
  obtain ⟨q4, f4⟩ := part q3 rfl (by decide) (show 2097152 * 32 = 67108864 by decide)
  refine ⟨q4, ?_⟩
  refine (if_neg (fun h => absurd (f4.symm.trans h.2) (by decide))).trans <|
    (if_neg (fun h => absurd (f4.symm.trans h.2) (by decide))).trans <|
    (if_neg (fun h => absurd (f4.symm.trans h.2) (by decide))).trans <|
    (if_neg (fun h => absurd (f4.symm.trans h.2) (by decide))).trans <|
    (if_neg (fun h => absurd (f4.symm.trans h.2.2.2) (by decide))).trans <|
    (if_pos ⟨f1, f4⟩).trans ?_
  rw [show fld N 20 16 = d from fld_eq f3 rfl rfl,
    show fld N 15 11 = a from fld_eq f2 rfl rfl,
    show fld N 3 0 = f from fld_zero f0 rfl]

theorem equndo (d : BitVec 5) (a : BitVec 5) (f : BitVec 4) : Statement (.equndo d a f) := by
  refine of_fields (n := 0xD8C00000 + put d 16 + put a 11 + put f 0) 54 (by decide) rfl fun N hN => ?_
  have hN : N = ((((54 * 32 + 6) * 32 + d.toNat) * 32 + a.toNat) * 128 + 0) * 16 + f.toNat := by
    simp only [put, Nat.reducePow] at hN; omega
  obtain ⟨q0, f0⟩ := part_zero hN f.isLt
  obtain ⟨q1, f1⟩ := part q0 rfl (by decide) (show 16 * 128 = 2048 by decide)
  obtain ⟨q2, f2⟩ := part q1 rfl a.isLt (show 2048 * 32 = 65536 by decide)
  obtain ⟨q3, f3⟩ := part q2 rfl d.isLt (show 65536 * 32 = 2097152 by decide)
  obtain ⟨q4, f4⟩ := part q3 rfl (by decide) (show 2097152 * 32 = 67108864 by decide)
  refine ⟨q4, ?_⟩
  refine (if_neg (fun h => absurd (f4.symm.trans h.2) (by decide))).trans <|
    (if_neg (fun h => absurd (f4.symm.trans h.2) (by decide))).trans <|
    (if_neg (fun h => absurd (f4.symm.trans h.2) (by decide))).trans <|
    (if_neg (fun h => absurd (f4.symm.trans h.2) (by decide))).trans <|
    (if_neg (fun h => absurd (f4.symm.trans h.2.2.2) (by decide))).trans <|
    (if_neg (fun h => absurd (f4.symm.trans h.2) (by decide))).trans <|
    (if_pos ⟨f1, f4⟩).trans ?_
  rw [show fld N 20 16 = d from fld_eq f3 rfl rfl,
    show fld N 15 11 = a from fld_eq f2 rfl rfl,
    show fld N 3 0 = f from fld_zero f0 rfl]

theorem eqstat (d : BitVec 5) (a : BitVec 5) (f : BitVec 4) : Statement (.eqstat d a f) := by
  refine of_fields (n := 0xD8E00000 + put d 16 + put a 11 + put f 0) 54 (by decide) rfl fun N hN => ?_
  have hN : N = ((((54 * 32 + 7) * 32 + d.toNat) * 32 + a.toNat) * 128 + 0) * 16 + f.toNat := by
    simp only [put, Nat.reducePow] at hN; omega
  obtain ⟨q0, f0⟩ := part_zero hN f.isLt
  obtain ⟨q1, f1⟩ := part q0 rfl (by decide) (show 16 * 128 = 2048 by decide)
  obtain ⟨q2, f2⟩ := part q1 rfl a.isLt (show 2048 * 32 = 65536 by decide)
  obtain ⟨q3, f3⟩ := part q2 rfl d.isLt (show 65536 * 32 = 2097152 by decide)
  obtain ⟨q4, f4⟩ := part q3 rfl (by decide) (show 2097152 * 32 = 67108864 by decide)
  refine ⟨q4, ?_⟩
  refine (if_neg (fun h => absurd (f4.symm.trans h.2) (by decide))).trans <|
    (if_neg (fun h => absurd (f4.symm.trans h.2) (by decide))).trans <|
    (if_neg (fun h => absurd (f4.symm.trans h.2) (by decide))).trans <|
    (if_neg (fun h => absurd (f4.symm.trans h.2) (by decide))).trans <|
    (if_neg (fun h => absurd (f4.symm.trans h.2.2.2) (by decide))).trans <|
    (if_neg (fun h => absurd (f4.symm.trans h.2) (by decide))).trans <|
    (if_neg (fun h => absurd (f4.symm.trans h.2) (by decide))).trans <|
    (if_pos ⟨f1, f4⟩).trans ?_
  rw [show fld N 20 16 = d from fld_eq f3 rfl rfl,
    show fld N 15 11 = a from fld_eq f2 rfl rfl,
    show fld N 3 0 = f from fld_zero f0 rfl]

theorem tkenc (d : BitVec 5) (a : BitVec 4) (b : BitVec 4) (s : BitVec 4) : Statement (.tkenc d a b s) := by
  refine of_fields (n := 0xDC000000 + put d 16 + put a 11 + put b 6 + put s 0) 55 (by decide) rfl fun N hN => ?_
  have hN : N = (((((((55 * 32 + 0) * 32 + d.toNat) * 2 + 0) * 16 + a.toNat) * 2 + 0) * 16 + b.toNat) * 4 + 0) * 16 + s.toNat := by
    simp only [put, Nat.reducePow] at hN; omega
  obtain ⟨q0, f0⟩ := part_zero hN s.isLt
  obtain ⟨q1, f1⟩ := part q0 rfl (by decide) (show 16 * 4 = 64 by decide)
  obtain ⟨q2, f2⟩ := part q1 rfl b.isLt (show 64 * 16 = 1024 by decide)
  obtain ⟨q3, f3⟩ := part q2 rfl (by decide) (show 1024 * 2 = 2048 by decide)
  obtain ⟨q4, f4⟩ := part q3 rfl a.isLt (show 2048 * 16 = 32768 by decide)
  obtain ⟨q5, f5⟩ := part q4 rfl (by decide) (show 32768 * 2 = 65536 by decide)
  obtain ⟨q6, f6⟩ := part q5 rfl d.isLt (show 65536 * 32 = 2097152 by decide)
  obtain ⟨q7, f7⟩ := part q6 rfl (by decide) (show 2097152 * 32 = 67108864 by decide)
  refine ⟨q7, ?_⟩
  refine (if_pos ⟨f1, f3, f5, f7⟩).trans ?_
  rw [show fld N 20 16 = d from fld_eq f6 rfl rfl,
    show fld N 14 11 = a from fld_eq f4 rfl rfl,
    show fld N 9 6 = b from fld_eq f2 rfl rfl,
    show fld N 3 0 = s from fld_zero f0 rfl]

theorem tkdec (d : BitVec 5) (a : BitVec 4) (b : BitVec 4) (x : BitVec 1) (s : BitVec 4) : Statement (.tkdec d a b x s) := by
  refine of_fields (n := 0xDC200000 + put d 16 + put a 11 + put b 6 + put x 4 + put s 0) 55 (by decide) rfl fun N hN => ?_
  have hN : N = ((((((((55 * 32 + 1) * 32 + d.toNat) * 2 + 0) * 16 + a.toNat) * 2 + 0) * 16 + b.toNat) * 2 + 0) * 2 + x.toNat) * 16 + s.toNat := by
    simp only [put, Nat.reducePow] at hN; omega
  obtain ⟨q0, f0⟩ := part_zero hN s.isLt
  obtain ⟨q1, f1⟩ := part q0 rfl x.isLt (show 16 * 2 = 32 by decide)
  obtain ⟨q2, f2⟩ := part q1 rfl (by decide) (show 32 * 2 = 64 by decide)
  obtain ⟨q3, f3⟩ := part q2 rfl b.isLt (show 64 * 16 = 1024 by decide)
  obtain ⟨q4, f4⟩ := part q3 rfl (by decide) (show 1024 * 2 = 2048 by decide)
  obtain ⟨q5, f5⟩ := part q4 rfl a.isLt (show 2048 * 16 = 32768 by decide)
  obtain ⟨q6, f6⟩ := part q5 rfl (by decide) (show 32768 * 2 = 65536 by decide)
  obtain ⟨q7, f7⟩ := part q6 rfl d.isLt (show 65536 * 32 = 2097152 by decide)
  obtain ⟨q8, f8⟩ := part q7 rfl (by decide) (show 2097152 * 32 = 67108864 by decide)
  refine ⟨q8, ?_⟩
  refine (if_neg (fun h => absurd (f8.symm.trans h.2.2.2) (by decide))).trans <|
    (if_pos ⟨f2, f4, f6, f8⟩).trans ?_
  rw [show fld N 20 16 = d from fld_eq f7 rfl rfl,
    show fld N 14 11 = a from fld_eq f5 rfl rfl,
    show fld N 9 6 = b from fld_eq f3 rfl rfl,
    show fld N 4 4 = x from fld_eq f1 rfl rfl,
    show fld N 3 0 = s from fld_zero f0 rfl]

theorem syscall (d : BitVec 5) (a : BitVec 5) (b : BitVec 5) (n : BitVec 6) : Statement (.syscall d a b n) := by
  refine of_fields (n := 0xE0000000 + put d 16 + put a 11 + put b 6 + put n 0) 56 (by decide) rfl fun N hN => ?_
  have hN : N = ((((56 * 32 + 0) * 32 + d.toNat) * 32 + a.toNat) * 32 + b.toNat) * 64 + n.toNat := by
    simp only [put, Nat.reducePow] at hN; omega
  obtain ⟨q0, f0⟩ := part_zero hN n.isLt
  obtain ⟨q1, f1⟩ := part q0 rfl b.isLt (show 64 * 32 = 2048 by decide)
  obtain ⟨q2, f2⟩ := part q1 rfl a.isLt (show 2048 * 32 = 65536 by decide)
  obtain ⟨q3, f3⟩ := part q2 rfl d.isLt (show 65536 * 32 = 2097152 by decide)
  obtain ⟨q4, f4⟩ := part q3 rfl (by decide) (show 2097152 * 32 = 67108864 by decide)
  refine ⟨q4, ?_⟩
  refine (if_pos f4).trans ?_
  rw [show fld N 20 16 = d from fld_eq f3 rfl rfl,
    show fld N 15 11 = a from fld_eq f2 rfl rfl,
    show fld N 10 6 = b from fld_eq f1 rfl rfl,
    show fld N 5 0 = n from fld_zero f0 rfl]

theorem halt (d : BitVec 5) (a : BitVec 5) (m : BitVec 2) : Statement (.halt d a m) := by
  refine of_fields (n := 0xE0600000 + put d 16 + put a 11 + put m 0) 56 (by decide) rfl fun N hN => ?_
  have hN : N = ((((56 * 32 + 3) * 32 + d.toNat) * 32 + a.toNat) * 512 + 0) * 4 + m.toNat := by
    simp only [put, Nat.reducePow] at hN; omega
  obtain ⟨q0, f0⟩ := part_zero hN m.isLt
  obtain ⟨q1, f1⟩ := part q0 rfl (by decide) (show 4 * 512 = 2048 by decide)
  obtain ⟨q2, f2⟩ := part q1 rfl a.isLt (show 2048 * 32 = 65536 by decide)
  obtain ⟨q3, f3⟩ := part q2 rfl d.isLt (show 65536 * 32 = 2097152 by decide)
  obtain ⟨q4, f4⟩ := part q3 rfl (by decide) (show 2097152 * 32 = 67108864 by decide)
  refine ⟨q4, ?_⟩
  refine (if_neg (fun h => absurd (f4.symm.trans h) (by decide))).trans <|
    (if_neg (by omega)).trans <|
    (if_neg (by omega)).trans <|
    (if_pos ⟨f1, f4⟩).trans ?_
  rw [show fld N 20 16 = d from fld_eq f3 rfl rfl,
    show fld N 15 11 = a from fld_eq f2 rfl rfl,
    show fld N 1 0 = m from fld_zero f0 rfl]

theorem wake (a : BitVec 5) : Statement (.wake a) := by
  refine of_fields (n := 0xE0800000 + put a 11) 56 (by decide) rfl fun N hN => ?_
  have hN : N = ((56 * 1024 + 128) * 32 + a.toNat) * 2048 + 0 := by
    simp only [put, Nat.reducePow] at hN; omega
  obtain ⟨q0, f0⟩ := part_zero hN (by decide)
  obtain ⟨q1, f1⟩ := part q0 rfl a.isLt (show 2048 * 32 = 65536 by decide)
  obtain ⟨q2, f2⟩ := part q1 rfl (by decide) (show 65536 * 1024 = 67108864 by decide)
  refine ⟨q2, ?_⟩
  refine (if_neg (by omega)).trans <|
    (if_neg (by omega)).trans <|
    (if_neg (by omega)).trans <|
    (if_neg (by omega)).trans <|
    (if_pos ⟨f0, f2⟩).trans ?_
  rw [show fld N 15 11 = a from fld_eq f1 rfl rfl]

theorem wakePg (a : BitVec 5) : Statement (.wakePg a) := by
  refine of_fields (n := 0xE0800001 + put a 11) 56 (by decide) rfl fun N hN => ?_
  have hN : N = ((56 * 1024 + 128) * 32 + a.toNat) * 2048 + 1 := by
    simp only [put, Nat.reducePow] at hN; omega
  obtain ⟨q0, f0⟩ := part_zero hN (by decide)
  obtain ⟨q1, f1⟩ := part q0 rfl a.isLt (show 2048 * 32 = 65536 by decide)
  obtain ⟨q2, f2⟩ := part q1 rfl (by decide) (show 65536 * 1024 = 67108864 by decide)
  refine ⟨q2, ?_⟩
  refine (if_neg (by omega)).trans <|
    (if_neg (by omega)).trans <|
    (if_neg (by omega)).trans <|
    (if_neg (by omega)).trans <|
    (if_neg (fun h => absurd (f0.symm.trans h.1) (by decide))).trans <|
    (if_pos ⟨f0, f2⟩).trans ?_
  rw [show fld N 15 11 = a from fld_eq f1 rfl rfl]

theorem harvest (d : BitVec 5) (a : BitVec 5) (b : BitVec 5) : Statement (.harvest d a b) := by
  refine of_fields (n := 0xE0A00000 + put d 16 + put a 11 + put b 6) 56 (by decide) rfl fun N hN => ?_
  have hN : N = ((((56 * 32 + 5) * 32 + d.toNat) * 32 + a.toNat) * 32 + b.toNat) * 64 + 0 := by
    simp only [put, Nat.reducePow] at hN; omega
  obtain ⟨q0, f0⟩ := part_zero hN (by decide)
  obtain ⟨q1, f1⟩ := part q0 rfl b.isLt (show 64 * 32 = 2048 by decide)
  obtain ⟨q2, f2⟩ := part q1 rfl a.isLt (show 2048 * 32 = 65536 by decide)
  obtain ⟨q3, f3⟩ := part q2 rfl d.isLt (show 65536 * 32 = 2097152 by decide)
  obtain ⟨q4, f4⟩ := part q3 rfl (by decide) (show 2097152 * 32 = 67108864 by decide)
  refine ⟨q4, ?_⟩
  refine (if_neg (fun h => absurd (f4.symm.trans h) (by decide))).trans <|
    (if_neg (by omega)).trans <|
    (if_neg (by omega)).trans <|
    (if_neg (fun h => absurd (f4.symm.trans h.2) (by decide))).trans <|
    (if_neg (by omega)).trans <|
    (if_neg (by omega)).trans <|
    (if_pos ⟨f0, f4⟩).trans ?_
  rw [show fld N 20 16 = d from fld_eq f3 rfl rfl,
    show fld N 15 11 = a from fld_eq f2 rfl rfl,
    show fld N 10 6 = b from fld_eq f1 rfl rfl]

theorem xinv (d : BitVec 5) (a : BitVec 5) (b : BitVec 5) (m : BitVec 2) : Statement (.xinv d a b m) := by
  refine of_fields (n := 0xE0C00000 + put d 16 + put a 11 + put b 6 + put m 0) 56 (by decide) rfl fun N hN => ?_
  have hN : N = (((((56 * 32 + 6) * 32 + d.toNat) * 32 + a.toNat) * 32 + b.toNat) * 16 + 0) * 4 + m.toNat := by
    simp only [put, Nat.reducePow] at hN; omega
  obtain ⟨q0, f0⟩ := part_zero hN m.isLt
  obtain ⟨q1, f1⟩ := part q0 rfl (by decide) (show 4 * 16 = 64 by decide)
  obtain ⟨q2, f2⟩ := part q1 rfl b.isLt (show 64 * 32 = 2048 by decide)
  obtain ⟨q3, f3⟩ := part q2 rfl a.isLt (show 2048 * 32 = 65536 by decide)
  obtain ⟨q4, f4⟩ := part q3 rfl d.isLt (show 65536 * 32 = 2097152 by decide)
  obtain ⟨q5, f5⟩ := part q4 rfl (by decide) (show 2097152 * 32 = 67108864 by decide)
  refine ⟨q5, ?_⟩
  refine (if_neg (fun h => absurd (f5.symm.trans h) (by decide))).trans <|
    (if_neg (by omega)).trans <|
    (if_neg (by omega)).trans <|
    (if_neg (fun h => absurd (f5.symm.trans h.2) (by decide))).trans <|
    (if_neg (by omega)).trans <|
    (if_neg (by omega)).trans <|
    (if_neg (fun h => absurd (f5.symm.trans h.2) (by decide))).trans <|
    (if_pos ⟨f1, f5⟩).trans ?_
  rw [show fld N 20 16 = d from fld_eq f4 rfl rfl,
    show fld N 15 11 = a from fld_eq f3 rfl rfl,
    show fld N 10 6 = b from fld_eq f2 rfl rfl,
    show fld N 1 0 = m from fld_zero f0 rfl]

theorem keyset (d : BitVec 5) (a : BitVec 5) (c : BitVec 4) : Statement (.keyset d a c) := by
  refine of_fields (n := 0xE0E00000 + put d 16 + put a 11 + put c 0) 56 (by decide) rfl fun N hN => ?_
  have hN : N = ((((56 * 32 + 7) * 32 + d.toNat) * 32 + a.toNat) * 128 + 0) * 16 + c.toNat := by
    simp only [put, Nat.reducePow] at hN; omega
  obtain ⟨q0, f0⟩ := part_zero hN c.isLt
  obtain ⟨q1, f1⟩ := part q0 rfl (by decide) (show 16 * 128 = 2048 by decide)
  obtain ⟨q2, f2⟩ := part q1 rfl a.isLt (show 2048 * 32 = 65536 by decide)
  obtain ⟨q3, f3⟩ := part q2 rfl d.isLt (show 65536 * 32 = 2097152 by decide)
  obtain ⟨q4, f4⟩ := part q3 rfl (by decide) (show 2097152 * 32 = 67108864 by decide)
  refine ⟨q4, ?_⟩
  refine (if_neg (fun h => absurd (f4.symm.trans h) (by decide))).trans <|
    (if_neg (by omega)).trans <|
    (if_neg (by omega)).trans <|
    (if_neg (fun h => absurd (f4.symm.trans h.2) (by decide))).trans <|
    (if_neg (by omega)).trans <|
    (if_neg (by omega)).trans <|
    (if_neg (fun h => absurd (f4.symm.trans h.2) (by decide))).trans <|
    (if_neg (fun h => absurd (f4.symm.trans h.2) (by decide))).trans <|
    (if_pos ⟨f1, f4⟩).trans ?_
  rw [show fld N 20 16 = d from fld_eq f3 rfl rfl,
    show fld N 15 11 = a from fld_eq f2 rfl rfl,
    show fld N 3 0 = c from fld_zero f0 rfl]

theorem keyclr (d : BitVec 5) (a : BitVec 5) : Statement (.keyclr d a) := by
  refine of_fields (n := 0xE1000000 + put d 16 + put a 11) 56 (by decide) rfl fun N hN => ?_
  have hN : N = (((56 * 32 + 8) * 32 + d.toNat) * 32 + a.toNat) * 2048 + 0 := by
    simp only [put, Nat.reducePow] at hN; omega
  obtain ⟨q0, f0⟩ := part_zero hN (by decide)
  obtain ⟨q1, f1⟩ := part q0 rfl a.isLt (show 2048 * 32 = 65536 by decide)
  obtain ⟨q2, f2⟩ := part q1 rfl d.isLt (show 65536 * 32 = 2097152 by decide)
  obtain ⟨q3, f3⟩ := part q2 rfl (by decide) (show 2097152 * 32 = 67108864 by decide)
  refine ⟨q3, ?_⟩
  refine (if_neg (fun h => absurd (f3.symm.trans h) (by decide))).trans <|
    (if_neg (by omega)).trans <|
    (if_neg (by omega)).trans <|
    (if_neg (fun h => absurd (f3.symm.trans h.2) (by decide))).trans <|
    (if_neg (by omega)).trans <|
    (if_neg (fun h => absurd (f0.symm.trans h.1) (by decide))).trans <|
    (if_neg (fun h => absurd (f3.symm.trans h.2) (by decide))).trans <|
    (if_neg (fun h => absurd (f3.symm.trans h.2) (by decide))).trans <|
    (if_neg (fun h => absurd (f3.symm.trans h.2) (by decide))).trans <|
    (if_pos ⟨f0, f3⟩).trans ?_
  rw [show fld N 20 16 = d from fld_eq f2 rfl rfl,
    show fld N 15 11 = a from fld_eq f1 rfl rfl]

theorem spillrpl (d : BitVec 5) (a : BitVec 5) (b : BitVec 5) : Statement (.spillrpl d a b) := by
  refine of_fields (n := 0xE1200000 + put d 16 + put a 11 + put b 6) 56 (by decide) rfl fun N hN => ?_
  have hN : N = ((((56 * 32 + 9) * 32 + d.toNat) * 32 + a.toNat) * 32 + b.toNat) * 64 + 0 := by
    simp only [put, Nat.reducePow] at hN; omega
  obtain ⟨q0, f0⟩ := part_zero hN (by decide)
  obtain ⟨q1, f1⟩ := part q0 rfl b.isLt (show 64 * 32 = 2048 by decide)
  obtain ⟨q2, f2⟩ := part q1 rfl a.isLt (show 2048 * 32 = 65536 by decide)
  obtain ⟨q3, f3⟩ := part q2 rfl d.isLt (show 65536 * 32 = 2097152 by decide)
  obtain ⟨q4, f4⟩ := part q3 rfl (by decide) (show 2097152 * 32 = 67108864 by decide)
  refine ⟨q4, ?_⟩
  refine (if_neg (fun h => absurd (f4.symm.trans h) (by decide))).trans <|
    (if_neg (by omega)).trans <|
    (if_neg (by omega)).trans <|
    (if_neg (fun h => absurd (f4.symm.trans h.2) (by decide))).trans <|
    (if_neg (by omega)).trans <|
    (if_neg (by omega)).trans <|
    (if_neg (fun h => absurd (f4.symm.trans h.2) (by decide))).trans <|
    (if_neg (fun h => absurd (f4.symm.trans h.2) (by decide))).trans <|
    (if_neg (fun h => absurd (f4.symm.trans h.2) (by decide))).trans <|
    (if_neg (fun h => absurd (f4.symm.trans h.2) (by decide))).trans <|
    (if_pos ⟨f0, f4⟩).trans ?_
  rw [show fld N 20 16 = d from fld_eq f3 rfl rfl,
    show fld N 15 11 = a from fld_eq f2 rfl rfl,
    show fld N 10 6 = b from fld_eq f1 rfl rfl]

theorem retire : Statement .retire := fun _ _ => by decide

theorem yield : Statement .yield := fun _ _ => by decide

theorem park : Statement .park := fun _ _ => by decide

theorem eret : Statement .eret := fun _ _ => by decide

theorem wfi : Statement .wfi := fun _ _ => by decide

theorem illegalInstruction : Statement (.illegalInstruction) := fun _ h => absurd h (by decide)

theorem modeSwitch : Statement (.modeSwitch) := fun _ h => absurd h (by decide)

theorem headerPublish : Statement (.headerPublish) := fun _ h => absurd h (by decide)

theorem barrierPacket : Statement (.barrierPacket) := fun _ h => absurd h (by decide)

theorem sfuReturn : Statement (.sfuReturn) := fun _ h => absurd h (by decide)

theorem matrixCompletion : Statement (.matrixCompletion) := fun _ h => absurd h (by decide)

theorem streamRunaheadFetch : Statement (.streamRunaheadFetch) := fun _ h => absurd h (by decide)

theorem copyCompletion : Statement (.copyCompletion) := fun _ h => absurd h (by decide)

theorem kick : Statement (.kick) := fun _ h => absurd h (by decide)

theorem nredPacket : Statement (.nredPacket) := fun _ h => absurd h (by decide)

theorem eqinitCompletion : Statement (.eqinitCompletion) := fun _ h => absurd h (by decide)

theorem eqreduceCompletion : Statement (.eqreduceCompletion) := fun _ h => absurd h (by decide)

theorem haltCompletion : Statement (.haltCompletion) := fun _ h => absurd h (by decide)

theorem harvestCompletion : Statement (.harvestCompletion) := fun _ h => absurd h (by decide)

theorem xinvCompletion : Statement (.xinvCompletion) := fun _ h => absurd h (by decide)

theorem keyclrCompletion : Statement (.keyclrCompletion) := fun _ h => absurd h (by decide)

theorem spillrplCompletion : Statement (.spillrplCompletion) := fun _ h => absurd h (by decide)

theorem scalarResultWrite : Statement (.scalarResultWrite) := fun _ h => absurd h (by decide)

theorem loadDataReturn : Statement (.loadDataReturn) := fun _ h => absurd h (by decide)

theorem multicastCompletion : Statement (.multicastCompletion) := fun _ h => absurd h (by decide)

theorem messageArrival : Statement (.messageArrival) := fun _ h => absurd h (by decide)

theorem migratedThreadArrival : Statement (.migratedThreadArrival) := fun _ h => absurd h (by decide)

theorem heldArrivalPlaced : Statement (.heldArrivalPlaced) := fun _ h => absurd h (by decide)

theorem helperPlaced : Statement (.helperPlaced) := fun _ h => absurd h (by decide)

theorem vgrowSatisfied : Statement (.vgrowSatisfied) := fun _ h => absurd h (by decide)

theorem helperTokenDelivery : Statement (.helperTokenDelivery) := fun _ h => absurd h (by decide)

theorem replyDelivery : Statement (.replyDelivery) := fun _ h => absurd h (by decide)

theorem wakeDelivery : Statement (.wakeDelivery) := fun _ h => absurd h (by decide)

theorem watchdogExpiry : Statement (.watchdogExpiry) := fun _ h => absurd h (by decide)

theorem syscallEvent : Statement (.syscallEvent) := fun _ h => absurd h (by decide)

theorem pageEvent : Statement (.pageEvent) := fun _ h => absurd h (by decide)

theorem faultEvent : Statement (.faultEvent) := fun _ h => absurd h (by decide)

theorem preemptRequest : Statement (.preemptRequest) := fun _ h => absurd h (by decide)

theorem killRequest : Statement (.killRequest) := fun _ h => absurd h (by decide)

theorem resumeRequest : Statement (.resumeRequest) := fun _ h => absurd h (by decide)

theorem coreSave : Statement (.coreSave) := fun _ h => absurd h (by decide)

theorem crewResumption : Statement (.crewResumption) := fun _ h => absurd h (by decide)

theorem queueRecordTaken : Statement (.queueRecordTaken) := fun _ h => absurd h (by decide)

theorem launchCandidate : Statement (.launchCandidate) := fun _ h => absurd h (by decide)

theorem placementDecision : Statement (.placementDecision) := fun _ h => absurd h (by decide)

theorem slotBoundary : Statement (.slotBoundary) := fun _ h => absurd h (by decide)

theorem deferredFiring : Statement (.deferredFiring) := fun _ h => absurd h (by decide)

theorem windowOverrun : Statement (.windowOverrun) := fun _ h => absurd h (by decide)

theorem heartbeatTick : Statement (.heartbeatTick) := fun _ h => absurd h (by decide)

theorem takeover : Statement (.takeover) := fun _ h => absurd h (by decide)

theorem powerOn : Statement (.powerOn) := fun _ h => absurd h (by decide)

theorem bundleUpload : Statement (.bundleUpload) := fun _ h => absurd h (by decide)

theorem bundleInstall : Statement (.bundleInstall) := fun _ h => absurd h (by decide)

theorem verifierAcknowledgement : Statement (.verifierAcknowledgement) := fun _ h => absurd h (by decide)

theorem trialWatchdogExpiry : Statement (.trialWatchdogExpiry) := fun _ h => absurd h (by decide)

theorem quoteRequest : Statement (.quoteRequest) := fun _ h => absurd h (by decide)

theorem debugRequest : Statement (.debugRequest) := fun _ h => absurd h (by decide)

theorem debugHalt : Statement (.debugHalt) := fun _ h => absurd h (by decide)

theorem debugObserve : Statement (.debugObserve) := fun _ h => absurd h (by decide)

theorem debugOff : Statement (.debugOff) := fun _ h => absurd h (by decide)

theorem clusterGate : Statement (.clusterGate) := fun _ h => absurd h (by decide)

theorem dieSleep : Statement (.dieSleep) := fun _ h => absurd h (by decide)

theorem dieWake : Statement (.dieWake) := fun _ h => absurd h (by decide)

theorem moduleOff : Statement (.moduleOff) := fun _ h => absurd h (by decide)

theorem fabricPacket : Statement (.fabricPacket) := fun _ h => absurd h (by decide)

theorem portOutOfService : Statement (.portOutOfService) := fun _ h => absurd h (by decide)

theorem linkLoss : Statement (.linkLoss) := fun _ h => absurd h (by decide)

theorem keyRenewal : Statement (.keyRenewal) := fun _ h => absurd h (by decide)

theorem noRouteTimeout : Statement (.noRouteTimeout) := fun _ h => absurd h (by decide)

theorem systemWindowRequest : Statement (.systemWindowRequest) := fun _ h => absurd h (by decide)

theorem hostCxlAccess : Statement (.hostCxlAccess) := fun _ h => absurd h (by decide)

theorem lineRead : Statement (.lineRead) := fun _ h => absurd h (by decide)

theorem ownershipRequest : Statement (.ownershipRequest) := fun _ h => absurd h (by decide)

theorem upgradeNotice : Statement (.upgradeNotice) := fun _ h => absurd h (by decide)

theorem registerWrite : Statement (.registerWrite) := fun _ h => absurd h (by decide)

theorem vectorPrefix : Statement (.vectorPrefix) := fun _ h => absurd h (by decide)

theorem reservedEncoding : Statement (.reservedEncoding) := fun _ h => absurd h (by decide)

theorem storePerformed : Statement (.storePerformed) := fun _ h => absurd h (by decide)

theorem routeReturns : Statement (.routeReturns) := fun _ h => absurd h (by decide)

theorem orderingAgentFailure : Statement (.orderingAgentFailure) := fun _ h => absurd h (by decide)

theorem hartRestart : Statement (.hartRestart) := fun _ h => absurd h (by decide)

theorem ptpDiscipline : Statement (.ptpDiscipline) := fun _ h => absurd h (by decide)

theorem spdmMessage : Statement (.spdmMessage) := fun _ h => absurd h (by decide)

end Sys2Proof.Laws.RoundTrip
end

