-- ==== Sys2Proof/Laws/Trust.lean ====
section
/-!
SUPPORT. What signing, sealing and a bundle's layout undo: a signature verifies under its own key, a sealed copy opens under the monitor
that sealed it, and the ROM reads of a bundle what was laid out in it.
-/

namespace Sys2Proof.Machine

/-- The holder's own signature verifies. -/
theorem verifies_own (pk : BitVec 14344) (m : List Byte) : verifies pk m (Config.falconSignature pk m) = true := by simp [verifies]

/-- A sealed record opens to itself under the key and nonce that it was sealed with. -/
theorem gcmOpen_gcmSeal (key : BitVec 256) (nonce : BitVec 96) (r : BitVec 1024) :
    gcmOpen key nonce (gcmSeal key nonce r).1 (gcmSeal key nonce r).2 = some r := by
  simp [gcmOpen, gcmSeal]

/-- A monitor of the same measurement unseals the copy of a record (R394). -/
theorem unsealRecord_sealRecord {s u : State} (h : u.monitorDigest = s.monitorDigest) (r : BitVec 1024) :
    unsealRecord u (sealRecord s r) = some r := by
  simp [unsealRecord, sealRecord, h, gcmOpen_gcmSeal]

/-- A quote's signature is not among the bytes that it covers. -/
theorem quoteBytes_sig (q : Quote) (x : BitVec 10240) : quoteBytes { q with sig := x } = quoteBytes q := rfl

/-- A quote's signature is that of the identity key over its bytes (R398). -/
theorem quoteFor_verifies (s : State) (seed : BitVec 384) (nonce : BitVec 256) :
    verifies (Config.falconPublic seed) (quoteBytes (quoteFor s seed nonce)) (quoteFor s seed nonce).sig = true := by
  unfold quoteFor
  extract_lets b q
  rw [quoteBytes_sig]
  simp only [identitySign, verifies_own]

/-- A record's signature is not among the bytes that it covers. -/
theorem configBytes_sig (r : ConfigRecord) (x : BitVec 10240) : configBytes { r with sig := x } = configBytes r := rfl

/-- A record signed by a root's holder carries its signature (R411). -/
theorem configRecord_signed (r : ConfigRecord) :
    verifies r.rootPk (configBytes { r with sig := Config.falconSignature r.rootPk (configBytes r) })
      (Config.falconSignature r.rootPk (configBytes r)) = true := by
  rw [configBytes_sig]
  exact verifies_own _ _

/-- The record that flash holds at reset carries its root's signature (R411). -/
theorem factoryRecord_signed : verifies factoryRecord.rootPk (configBytes factoryRecord) factoryRecord.sig = true := by
  unfold factoryRecord
  extract_lets r
  exact configRecord_signed r

/-- It names the module's own identity (R410, R411). -/
theorem factoryRecord_identity : identityMatches identitySeed factoryRecord = true := by
  unfold factoryRecord
  extract_lets r
  unfold identityMatches
  exact beq_self_eq_true _

/-! ### Fields of a bundle -/

@[simp] theorem length_leBytes (n v : Nat) : (leBytes n v).length = n := by simp [leBytes]

theorem leBytes_succ (n v : Nat) : leBytes (n + 1) v = BitVec.ofNat 8 v :: leBytes n (v / 256) := by
  simp [leBytes, List.range_succ_eq_map, Function.comp_def, Nat.pow_succ', Nat.div_div_eq_div_mul]

theorem numberOf_cons (b : Byte) (bs : List Byte) : numberOf (b :: bs) = b.toNat + 256 * numberOf bs := rfl

/-- A number is read back from its bytes. -/
theorem numberOf_leBytes (n v : Nat) : numberOf (leBytes n v) = v % 256 ^ n := by
  induction n generalizing v with
  | zero => simp [leBytes, numberOf, Nat.mod_one]
  | succ n ih =>
    rw [leBytes_succ, numberOf_cons, ih, BitVec.toNat_ofNat, Nat.pow_succ' (n := n), Nat.mod_mul]

theorem numberOf_zeros (n : Nat) : numberOf (List.replicate n 0#8) = 0 := by
  induction n with
  | zero => rfl
  | succ n ih => rw [List.replicate_succ, numberOf_cons, ih]; rfl

/-- A field that stands after the bytes of `a` in an image. -/
theorem bundleField_after (a b : List Byte) (off n v : Nat) (h : a.length = off) :
    bundleField { image := a ++ (leBytes n v ++ b) } off n = v % 256 ^ n := by
  subst h
  simp [bundleField, bundleSlice, numberOf_leBytes]

theorem ofNat_fit {w : Nat} (x : BitVec w) (n : Nat) (h : w = 8 * n) : BitVec.ofNat w (x.toNat % 256 ^ n) = x := by
  have hx := x.isLt
  rw [show 2 ^ w = 256 ^ n by rw [h, Nat.pow_mul]] at hx
  rw [Nat.mod_eq_of_lt hx, BitVec.ofNat_toNat, BitVec.setWidth_eq]

/-- What the ROM reads of a bundle without content, before its signature (R395). -/
theorem emptyHead_length (v : Nat) : (emptyHead v).length = 0x900 := by
  simp [-List.reduceReplicate, emptyHead]

theorem bundleHead_empty (v : Nat) (tail : List Byte) : bundleHead { image := emptyHead v ++ tail } = emptyHead v := by
  simp [bundleHead, bundleSlice, emptyHead_length]

theorem bundleSig_empty (v : Nat) (x : BitVec 10240) (tail : List Byte) :
    bundleSig { image := emptyHead v ++ (leBytes 1280 x.toNat ++ tail) } = x := by
  rw [bundleSig, bundleField_after _ _ _ _ _ (emptyHead_length v), ofNat_fit x 1280 rfl]

theorem bundleRootPk_empty (v : Nat) (tail : List Byte) : bundleRootPk { image := emptyHead v ++ tail } = 0 := by
  simp [-List.reduceReplicate, bundleRootPk, bundleField, bundleSlice, emptyHead, List.drop_append, List.take_append,
    List.drop_of_length_le, numberOf_zeros]

/-- An entry of `COMP` that stands after the bytes of `a`. -/
theorem bundleCompAt_after (a b : List Byte) (off k o : Nat) (d : BitVec 384) (h : a.length = off) (hk : k < 256) (ho : o < 2 ^ 32) :
    bundleCompAt { image := a ++ (leBytes 4 k ++ (leBytes 4 o ++ (leBytes 8 0 ++ (leBytes 48 d.toNat ++ b)))) } off =
      { kind := k, offset := o, length := 0, digest := d } := by
  unfold bundleCompAt
  congr 1
  · rw [bundleField_after _ _ _ _ _ h, Nat.mod_eq_of_lt (by omega)]
  · rw [← List.append_assoc, bundleField_after _ _ _ _ _ (by simp [h]), Nat.mod_eq_of_lt (show o < 256 ^ 4 from ho)]
  · rw [← List.append_assoc, ← List.append_assoc, bundleField_after _ _ _ _ _ (by simp [h])]; rfl
  · rw [← List.append_assoc, ← List.append_assoc, ← List.append_assoc, bundleField_after _ _ _ _ _ (by simp [h]), ofNat_fit d 48 rfl]

theorem bundleComps_eq (b : Bundle) : bundleComps b = [bundleCompAt b 0x10, bundleCompAt b 0x50, bundleCompAt b 0x90] := rfl

theorem bundleComps_empty (v : Nat) (tail : List Byte) : bundleComps { image := emptyHead v ++ tail } =
    [1, 2, 3].map fun k => { kind := k, offset := 0x1000, length := 0, digest := digest48 [] } := by
  rw [bundleComps_eq]
  have h (a b x : List Byte) (off k : Nat) (e : emptyHead v ++ tail = a ++ (x ++ b))
      (hx : x = leBytes 4 k ++ leBytes 4 0x1000 ++ leBytes 8 0 ++ leBytes 48 (digest48 []).toNat) (ha : a.length = off) (hk : k < 256) :
      bundleCompAt { image := emptyHead v ++ tail } off = { kind := k, offset := 0x1000, length := 0, digest := digest48 [] } := by
    rw [e, hx]
    simp only [List.append_assoc]
    exact bundleCompAt_after a b off k 0x1000 _ ha hk (by decide)
  let p := leBytes 4 0x4D485842 ++ leBytes 4 1 ++ leBytes 4 v ++ leBytes 4 3
  let c (k : Nat) := leBytes 4 k ++ leBytes 4 0x1000 ++ leBytes 8 0 ++ leBytes 48 (digest48 []).toNat
  let z := List.replicate 0x830 (0 : Byte)
  have e : emptyHead v = p ++ c 1 ++ c 2 ++ c 3 ++ z := rfl
  have hp : p.length = 16 := by simp [p]
  have hc (k : Nat) : (c k).length = 64 := by simp [c]
  clear_value z
  rw [h p (c 2 ++ (c 3 ++ (z ++ tail))) (c 1) 0x10 1 (by simp only [e, List.append_assoc]) rfl hp (by decide),
    h (p ++ c 1) (c 3 ++ (z ++ tail)) (c 2) 0x50 2 (by simp only [e, List.append_assoc]) rfl (by simp [hp, hc]) (by decide),
    h (p ++ c 1 ++ c 2) (z ++ tail) (c 3) 0x90 3 (by simp only [e, List.append_assoc]) rfl (by simp [hp, hc]) (by decide)]
  rfl

theorem digestsOk_empty (v : Nat) (tail : List Byte) (h : tail.length = 0x700) : digestsOk { image := emptyHead v ++ tail } = true := by
  have hl : (emptyHead v ++ tail).length = 0x1000 := by rw [List.length_append, emptyHead_length, h]
  simp only [digestsOk, componentPlaced, componentBytes, bundleSlice, bundleComps_empty, hl, List.map_cons, List.map_nil,
    List.all_cons, List.all_nil, List.take_zero]
  simp

/-- The ROM accepts a signed bundle without content whose root key's hash it holds, at no minimum version (R396). -/
theorem bundleOk_empty (h : BitVec 256) (v : Nat) (tail : List Byte) (ht : tail.length = 0x200) (hr : rootKeyOk h 0 = true) :
    bundleOk h 0 { image := emptyHead v ++ (leBytes 1280 (Config.falconSignature 0 (emptyHead v)).toNat ++ tail) } = true := by
  have hd := digestsOk_empty v (leBytes 1280 (Config.falconSignature 0 (emptyHead v)).toNat ++ tail)
    (by rw [List.length_append, length_leBytes, ht])
  have hm : BitVec.toNat (0 : BitVec 32) = 0 := rfl
  rw [bundleOk, hd, bundleRootPk_empty, bundleHead_empty, bundleSig_empty, hr, verifies_own, hm]
  simp only [Bool.and_self, Nat.zero_le, decide_true]

/-- The factory firmware is such a bundle. -/
theorem factoryBundle_ok (h : BitVec 256) (hr : rootKeyOk h 0 = true) : bundleOk h 0 factoryBundle = true := by
  have hl : (List.replicate 512 (0 : Byte)).length = 0x200 := List.length_replicate ..
  unfold factoryBundle
  extract_lets head
  rw [List.append_assoc]
  exact bundleOk_empty h 0 _ hl hr

end Sys2Proof.Machine
end

