-- ==== Sys2Proof/Tests/Slice0.lean ====
section
/-! SUPPORT. Tests: every encoded row of the opcode table decodes; words printed in the specification; ill-formed terms refused; and, for
each statement with hypotheses, a machine and operands that meet them all. -/

namespace Sys2Proof.Tests
open Sys2Proof Sys2Proof.Machine

/-! ### Decoding: a word of every encoded row, composed from the fixed bits and the fields that the opcode table gives it -/

theorem test_decode_01 :
    decodeWord 0x07812C00 = .add 28 1 0 11 0 ∧
    decodeWord 0x0426C201 = .sub 1 6 1 16 1 ∧
    decodeWord 0x04CB5402 = .and 6 11 0 21 0 ∧
    decodeWord 0x0570EA03 = .or 11 16 1 26 1 ∧
    decodeWord 0x06157C04 = .xor 16 21 0 31 0 ∧
    decodeWord 0x06BA9205 = .andn 21 26 1 4 1 ∧
    decodeWord 0x075F2406 = .shl 26 31 0 9 0 ∧
    decodeWord 0x07E4BA07 = .shr 31 4 1 14 1 ∧
    decodeWord 0x04894C08 = .sra 4 9 0 19 0 ∧
    decodeWord 0x052EE209 = .mul 9 14 1 24 1 ∧
    decodeWord 0x05D3740A = .mulh 14 19 0 29 0 ∧
    decodeWord 0x06788A0B = .mulhu 19 24 1 2 1 ∧
    decodeWord 0x071D1C0C = .div 24 29 0 7 0 ∧
    decodeWord 0x07A2B20D = .divu 29 2 1 12 1 ∧
    decodeWord 0x0447440E = .rem 2 7 0 17 0 ∧
    decodeWord 0x04ECDA0F = .remu 7 12 1 22 1 ∧
    decodeWord 0x05916C10 = .min 12 17 0 27 0 ∧
    decodeWord 0x0636FE11 = .max 17 22 1 31 1 ∧
    decodeWord 0x06DB1412 = .minu 22 27 0 5 0 ∧
    decodeWord 0x077FAA13 = .maxu 27 31 1 10 1 ∧
    decodeWord 0x07E50014 = .clz 31 5 0 ∧
    decodeWord 0x04AA8015 = .ctz 5 10 1 ∧
    decodeWord 0x054F0016 = .popc 10 15 0 ∧
    decodeWord 0x05F4F817 = .sext 15 20 1 30 ∧
    decodeWord 0x06990C58 = .selp 20 25 0 3 0 2 :=
  ⟨rfl, rfl, rfl, rfl, rfl, rfl, rfl, rfl, rfl, rfl, rfl, rfl, rfl, rfl, rfl, rfl, rfl, rfl, rfl, rfl, rfl, rfl, rfl, rfl, rfl⟩

theorem test_decode_02 :
    decodeWord 0x0B3E81B6 = .addi 25 30 1 438 :=
  rfl

theorem test_decode_03 :
    decodeWord 0x0FC301BB = .andi 30 3 0 443 :=
  rfl

theorem test_decode_04 :
    decodeWord 0x106881C0 = .ori 3 8 1 448 :=
  rfl

theorem test_decode_05 :
    decodeWord 0x150D01C5 = .xori 8 13 0 453 :=
  rfl

theorem test_decode_06 :
    decodeWord 0x19B28027 = .shli 13 18 1 39 ∧
    decodeWord 0x1A57102C = .shri 18 23 0 44 ∧
    decodeWord 0x1AFCA031 = .srai 23 28 1 49 :=
  ⟨rfl, rfl, rfl⟩

theorem test_decode_07 :
    decodeWord 0x1C2151DD = .pcmpi 1 1 0 5 477 :=
  rfl

theorem test_decode_08 :
    decodeWord 0x202001D6 = .li 1 470 :=
  rfl

theorem test_decode_09 :
    decodeWord 0x24C001DB = .lih 6 475 :=
  rfl

theorem test_decode_0a :
    decodeWord 0x29F0EA1B = .pcmp 15 16 1 26 1 3 3 :=
  rfl

theorem test_decode_0b :
    decodeWord 0x2CAA3C00 = .pand 5 10 15 ∧
    decodeWord 0x2D4F1001 = .por 10 15 4 ∧
    decodeWord 0x2DE42402 = .pxor 15 4 9 ∧
    decodeWord 0x2C890003 = .pnot 4 9 ∧
    decodeWord 0x2C800004 = .pmovs 4 ∧
    decodeWord 0x2C090005 = .smovp 9 0 :=
  ⟨rfl, rfl, rfl, rfl, rfl, rfl⟩

theorem test_decode_0c :
    decodeWord 0x30E00228 = .br 3 1 552 :=
  rfl

theorem test_decode_0d :
    decodeWord 0x3400021A = .jmp 538 :=
  rfl

theorem test_decode_0e :
    decodeWord 0x3800021F = .jal 543 :=
  rfl

theorem test_decode_0f :
    decodeWord 0x3FA2821A = .jalr 29 2 1 538 :=
  rfl

theorem test_decode_10 :
    decodeWord 0x4058CA6B = .ld 2 12 12 1 1 1 43 :=
  rfl

theorem test_decode_11 :
    decodeWord 0x44E31430 = .ldu 7 1 17 0 2 0 48 :=
  rfl

theorem test_decode_12 :
    decodeWord 0x498D6E10 = .st 12 6 22 1 3 16 :=
  rfl

theorem test_decode_13 :
    decodeWord 0x4E37B6DF = .ldacq 17 11 27 0 3 1 1 31 :=
  rfl

theorem test_decode_14 :
    decodeWord 0x52DFFB3F = .strel 22 15 31 1 1 2 63 :=
  rfl

theorem test_decode_15 :
    decodeWord 0x576A5504 = .amoaddW 27 5 5 10 2 0 ∧
    decodeWord 0x57F4A78F = .amoandW 31 10 10 15 3 1 ∧
    decodeWord 0x54BEFA16 = .amoorW 5 15 15 20 3 0 ∧
    decodeWord 0x55494C9B = .amoxorW 10 4 20 25 1 1 ∧
    decodeWord 0x55F39F24 = .amominW 15 9 25 30 2 0 ∧
    decodeWord 0x569DE1AF = .amomaxW 20 14 30 3 3 1 ∧
    decodeWord 0x57263436 = .amominuW 25 3 3 8 3 0 ∧
    decodeWord 0x57D086BB = .amomaxuW 30 8 8 13 1 1 ∧
    decodeWord 0x547AD944 = .amoswapW 3 13 13 18 2 0 ∧
    decodeWord 0x55052BCF = .amofaddW 8 2 18 23 3 1 :=
  ⟨rfl, rfl, rfl, rfl, rfl, rfl, rfl, rfl, rfl, rfl⟩

theorem test_decode_16 :
    decodeWord 0x59AF7E06 = .amoaddD 13 7 23 28 3 0 ∧
    decodeWord 0x5A59C08B = .amoandD 18 12 28 1 1 1 ∧
    decodeWord 0x5AE21314 = .amoorD 23 1 1 6 2 0 ∧
    decodeWord 0x5B8C659F = .amoxorD 28 6 6 11 3 1 ∧
    decodeWord 0x5836B826 = .amominD 1 11 11 16 3 0 ∧
    decodeWord 0x58DF0AAB = .amomaxD 6 15 16 21 1 1 ∧
    decodeWord 0x596B5D34 = .amominuD 11 5 21 26 2 0 ∧
    decodeWord 0x5A15AFBF = .amomaxuD 16 10 26 31 3 1 ∧
    decodeWord 0x5ABFF246 = .amoswapD 21 15 31 4 3 0 :=
  ⟨rfl, rfl, rfl, rfl, rfl, rfl, rfl, rfl, rfl⟩

theorem test_decode_17 :
    decodeWord 0x5F484484 = .cas 26 4 4 9 0 2 0 :=
  rfl

theorem test_decode_18 :
    decodeWord 0x60000002 = .fenceAcq 2 ∧
    decodeWord 0x60200003 = .fenceRel 3 ∧
    decodeWord 0x60400003 = .fenceFull 3 :=
  ⟨rfl, rfl, rfl⟩

theorem test_decode_19 :
    decodeWord 0x640074CD = .cinv 14 19 13 ∧
    decodeWord 0x64209E02 = .cflush 19 24 2 ∧
    decodeWord 0x6440C747 = .cpref 24 29 7 ∧
    decodeWord 0x6460E88C = .ddhint 29 2 12 ∧
    decodeWord 0x64823801 = .ddstat 2 7 1 ∧
    decodeWord 0x64A7645F = .mcst 7 12 17 1 15 ∧
    decodeWord 0x64CC8DA5 = .redst 12 17 22 2 5 :=
  ⟨rfl, rfl, rfl, rfl, rfl, rfl, rfl⟩

theorem test_decode_1a :
    decodeWord 0x69AF7F00 = .cbnd 6 11 27 31 ∧
    decodeWord 0x6AFFE001 = .crestr 11 15 31 ∧
    decodeWord 0x6BD4A002 = .cinc 15 5 5 ∧
    decodeWord 0x68140503 = .cgetb 5 5 ∧
    decodeWord 0x68280A04 = .cgetl 10 10 ∧
    decodeWord 0x683C0F05 = .cgetp 15 15 ∧
    decodeWord 0x69240006 = .cmov 4 9 ∧
    decodeWord 0x6A400007 = .cclr 9 ∧
    decodeWord 0x683BC308 = .ctest 14 30 3 :=
  ⟨rfl, rfl, rfl, rfl, rfl, rfl, rfl, rfl, rfl⟩

theorem test_decode_1b :
    decodeWord 0x6CE102E5 = .cld 3 8 8 741 :=
  rfl

theorem test_decode_1c :
    decodeWord 0x7235A2EA = .cst 8 13 13 746 :=
  rfl

theorem test_decode_1d :
    decodeWord 0x7500029A = .csrr 8 666 ∧
    decodeWord 0x75B242C4 = .csrw 13 18 708 ∧
    decodeWord 0x765782C9 = .csrs 18 23 713 ∧
    decodeWord 0x76FCC2CE = .csrc 23 28 718 :=
  ⟨rfl, rfl, rfl, rfl⟩

theorem test_decode_1e :
    decodeWord 0x781C0980 = .start 28 1 6 ∧
    decodeWord 0x78610000 = .thid 1 ∧
    decodeWord 0x78800011 = .vgrow 17 ∧
    decodeWord 0x78A00016 = .vshrink 22 ∧
    decodeWord 0x78200000 = .retire ∧
    decodeWord 0x78400000 = .yield ∧
    decodeWord 0x78C00000 = .park :=
  ⟨rfl, rfl, rfl, rfl, rfl, rfl, rfl⟩

theorem test_decode_1f :
    decodeWord 0x7C00854F = .send 16 21 15 ∧
    decodeWord 0x7C20A80F = .migrate 21 15 ∧
    decodeWord 0x7C40D7C4 = .reply 26 31 4 :=
  ⟨rfl, rfl, rfl⟩

theorem test_decode_20 :
    decodeWord 0x8004224E = .qcfg 4 4 9 14 ∧
    decodeWord 0x8024038E = .qclaim 4 14 14 ∧
    decodeWord 0x8040480E = .qpub 9 14 ∧
    decodeWord 0x806E0218 = .qwaitf 14 8 24 ∧
    decodeWord 0x80809818 = .qfree 19 24 ∧
    decodeWord 0x80B80082 = .qwaite 24 2 2 ∧
    decodeWord 0x80DD1007 = .qerr 29 2 7 ∧
    decodeWord 0x80E01007 = .qsetrd 2 7 :=
  ⟨rfl, rfl, rfl, rfl, rfl, rfl, rfl, rfl⟩

theorem test_decode_21 :
    decodeWord 0x840C644B = .barinit 12 12 17 11 ∧
    decodeWord 0x84200006 = .bararr 0 6 ∧
    decodeWord 0x84400006 = .barwait 6 ∧
    decodeWord 0x8460000F = .barsync 0 15 :=
  ⟨rfl, rfl, rfl, rfl⟩

theorem test_decode_22 :
    decodeWord 0x8B7F2C00 = .vadd 27 31 5 4 ∧
    decodeWord 0x8BE55101 = .vsub 31 5 10 1 ∧
    decodeWord 0x88AA7E02 = .vmul 5 10 15 6 ∧
    decodeWord 0x894FA303 = .vmulh 10 15 20 3 ∧
    decodeWord 0x89F4CF04 = .vmin 15 20 25 7 ∧
    decodeWord 0x8A99F505 = .vmax 20 25 30 5 ∧
    decodeWord 0x8B3E1A06 = .vminu 25 30 3 2 ∧
    decodeWord 0x8BC34707 = .vmaxu 30 3 8 7 ∧
    decodeWord 0x88686C08 = .vand 3 8 13 4 ∧
    decodeWord 0x890D9109 = .vor 8 13 18 1 ∧
    decodeWord 0x89B2BE0A = .vxor 13 18 23 6 ∧
    decodeWord 0x8A57E30B = .vshl 18 23 28 3 ∧
    decodeWord 0x8AFC0F0C = .vshr 23 28 1 7 ∧
    decodeWord 0x8B81350D = .vsra 28 1 6 5 ∧
    decodeWord 0x88265A0E = .vfma 1 6 11 2 ∧
    decodeWord 0x88CB020F = .vabs 6 11 2 ∧
    decodeWord 0x89700710 = .vneg 11 16 7 ∧
    decodeWord 0x8A15D111 = .vminn 16 21 26 1 ∧
    decodeWord 0x8ABAFE12 = .vmaxn 21 26 31 6 :=
  ⟨rfl, rfl, rfl, rfl, rfl, rfl, rfl, rfl, rfl, rfl, rfl, rfl, rfl, rfl, rfl, rfl, rfl, rfl, rfl⟩

theorem test_decode_23 :
    decodeWord 0x8F5F2300 = .vaddScalar 26 31 4 3 ∧
    decodeWord 0x8FE44F01 = .vsubScalar 31 4 9 7 ∧
    decodeWord 0x8C897502 = .vmulScalar 4 9 14 5 ∧
    decodeWord 0x8D2E9A03 = .vmulhScalar 9 14 19 2 ∧
    decodeWord 0x8DD3C704 = .vminScalar 14 19 24 7 ∧
    decodeWord 0x8E78EC05 = .vmaxScalar 19 24 29 4 ∧
    decodeWord 0x8F1D1106 = .vminuScalar 24 29 2 1 ∧
    decodeWord 0x8FA23E07 = .vmaxuScalar 29 2 7 6 ∧
    decodeWord 0x8C476308 = .vandScalar 2 7 12 3 ∧
    decodeWord 0x8CEC8F09 = .vorScalar 7 12 17 7 ∧
    decodeWord 0x8D91B50A = .vxorScalar 12 17 22 5 ∧
    decodeWord 0x8E36DA0B = .vshlScalar 17 22 27 2 ∧
    decodeWord 0x8EDBFF0C = .vshrScalar 22 27 31 7 ∧
    decodeWord 0x8F7F2C0D = .vsraScalar 27 31 5 4 ∧
    decodeWord 0x8FE5510E = .vfmaScalar 31 5 10 1 ∧
    decodeWord 0x8CAA7E11 = .vminnScalar 5 10 15 6 ∧
    decodeWord 0x8D4FA312 = .vmaxnScalar 10 15 20 3 :=
  ⟨rfl, rfl, rfl, rfl, rfl, rfl, rfl, rfl, rfl, rfl, rfl, rfl, rfl, rfl, rfl, rfl, rfl⟩

theorem test_decode_24 :
    decodeWord 0x9034CF28 = .vcmp 1 20 25 7 1 8 :=
  rfl

theorem test_decode_25 :
    decodeWord 0x9699F000 = .vpermb 20 25 30 ∧
    decodeWord 0x973E1A01 = .vshuf 25 30 3 2 ∧
    decodeWord 0x97C30202 = .vbcast 30 3 2 ∧
    decodeWord 0x94686C03 = .vslide 3 8 13 4 ∧
    decodeWord 0x950D9104 = .vextr 8 13 18 1 ∧
    decodeWord 0x95B2BE05 = .vins 13 18 23 6 :=
  ⟨rfl, rfl, rfl, rfl, rfl, rfl⟩

theorem test_decode_26 :
    decodeWord 0x9A570600 = .vredsum 18 23 6 ∧
    decodeWord 0x9AFC0301 = .vredmax 23 28 3 ∧
    decodeWord 0x9B810702 = .vredmin 28 1 7 ∧
    decodeWord 0x98265A03 = .vredmaxi 1 6 11 2 ∧
    decodeWord 0x98CB8704 = .vredmini 6 11 16 7 ∧
    decodeWord 0x99700705 = .vscan 11 16 7 :=
  ⟨rfl, rfl, rfl, rfl, rfl, rfl⟩

theorem test_decode_27 :
    decodeWord 0x9E150420 = .vcvt 16 21 4 1 ∧
    decodeWord 0x9EBAFE61 = .vpack 21 26 31 6 3 ∧
    decodeWord 0x9F5F23E2 = .vunpk 26 31 4 3 7 :=
  ⟨rfl, rfl, rfl⟩

theorem test_decode_28 :
    decodeWord 0xA3F29510 = .vld 31 9 9 0 5 0 8 ∧
    decodeWord 0xA09CEA89 = .vlds 4 14 14 1 2 1 2 :=
  ⟨rfl, rfl⟩

theorem test_decode_29 :
    decodeWord 0xA527375A = .vst 9 3 19 0 7 45 ∧
    decodeWord 0xA5D18C1D = .vsts 14 8 24 1 4 7 :=
  ⟨rfl, rfl⟩

theorem test_decode_2a :
    decodeWord 0xAA781400 = .vgather 19 24 2 4 ∧
    decodeWord 0xAB1D3901 = .vscatter 24 29 7 1 :=
  ⟨rfl, rfl⟩

theorem test_decode_2b :
    decodeWord 0xAFA20100 = .fexp2 29 2 1 ∧
    decodeWord 0xAC470601 = .flog2 2 7 6 ∧
    decodeWord 0xACEC0302 = .frcp 7 12 3 ∧
    decodeWord 0xAD910703 = .frsq 12 17 7 ∧
    decodeWord 0xAE360504 = .ftanh 17 22 5 ∧
    decodeWord 0xAEDB0205 = .fsin 22 27 2 ∧
    decodeWord 0xAF7F0706 = .fcos 27 31 7 :=
  ⟨rfl, rfl, rfl, rfl, rfl, rfl, rfl⟩

theorem test_decode_2c :
    decodeWord 0xB3E50400 = .vmov 31 5 4 ∧
    decodeWord 0xB0AA7E01 = .vsel 5 10 15 6 ∧
    decodeWord 0xB14F0602 = .viota 10 15 6 ∧
    decodeWord 0xB0261803 = .kand 1 6 3 ∧
    decodeWord 0xB0C33804 = .kor 6 3 7 ∧
    decodeWord 0xB0670005 = .knot 3 7 ∧
    decodeWord 0xB3C50006 = .kpopc 30 5 :=
  ⟨rfl, rfl, rfl, rfl, rfl, rfl, rfl⟩

theorem test_decode_2d :
    decodeWord 0xB42EB650 = .tld 5 13 13 18 1 ∧
    decodeWord 0xB4514AE0 = .tst 2 2 18 23 :=
  ⟨rfl, rfl⟩

theorem test_decode_2e :
    decodeWord 0xB83C0000 = .tzero 7 4 ∧
    decodeWord 0xB8610000 = .ttrans 4 1 ∧
    decodeWord 0xB888E040 = .trdv 1 28 1 ∧
    decodeWord 0xB8F00980 = .twrv 6 1 6 :=
  ⟨rfl, rfl, rfl, rfl⟩

theorem test_decode_2f :
    decodeWord 0xBC3E8000 = .mma 1 7 5 0 ∧
    decodeWord 0xBC557900 = .mmas 0 5 2 7 4 1 ∧
    decodeWord 0xBCAB8000 = .mmai 1 2 7 0 :=
  ⟨rfl, rfl, rfl⟩

theorem test_decode_30 :
    decodeWord 0xC0000000 = .aczero 0 ∧
    decodeWord 0xC07FF000 = .acld 1 15 31 ∧
    decodeWord 0xC0884000 = .acst 0 4 4 ∧
    decodeWord 0xC0E00D00 = .accvt 1 6 1 ∧
    decodeWord 0xC1000200 = .acadd 0 1 0 :=
  ⟨rfl, rfl, rfl, rfl, rfl⟩

theorem test_decode_31 :
    decodeWord 0xC4090007 = .sbind 9 7 ∧
    decodeWord 0xC4200007 = .sunbind 7 ∧
    decodeWord 0xC448C744 = .scfg 8 24 29 4 ∧
    decodeWord 0xC4600002 = .sgo 2 ∧
    decodeWord 0xC4800007 = .sstop 7 ∧
    decodeWord 0xC4A00004 = .ssync 4 :=
  ⟨rfl, rfl, rfl, rfl, rfl, rfl⟩

theorem test_decode_32 :
    decodeWord 0xC8E31BD8 = .cpy 7 1 17 11 27 ∧
    decodeWord 0xC98D6FF9 = .cpycv 12 6 22 15 31 ∧
    decodeWord 0xCA37B52A = .cpymc 17 11 27 5 5 ∧
    decodeWord 0xCADFFA53 = .cpyred 22 15 31 10 10 :=
  ⟨rfl, rfl, rfl, rfl⟩

theorem test_decode_33 :
    decodeWord 0xCC1BF81F = .tkcommit 27 31 1 15 ∧
    decodeWord 0xCC3F000A = .tkforce 31 10 ∧
    decodeWord 0xCC455004 = .tkmask 5 10 4 ∧
    decodeWord 0xCC6A7809 = .tkstat 10 15 9 ∧
    decodeWord 0xCC8F024E = .tkfork 15 9 14 ∧
    decodeWord 0xCCB4C803 = .tktrunc 20 25 3 ∧
    decodeWord 0xCCC0000E = .tkckpt 14 ∧
    decodeWord 0xCCFE180D = .tkdraw 30 3 13 :=
  ⟨rfl, rfl, rfl, rfl, rfl, rfl, rfl, rfl⟩

theorem test_decode_34 :
    decodeWord 0xD0034002 = .rndu 3 8 2 ∧
    decodeWord 0xD0286807 = .rndv 8 13 7 ∧
    decodeWord 0xD04D900C = .rndg 13 18 12 :=
  ⟨rfl, rfl, rfl⟩

theorem test_decode_35 :
    decodeWord 0xD412B806 = .nmaxi 18 23 0 6 ∧
    decodeWord 0xD437E01B = .nmini 23 28 1 11 ∧
    decodeWord 0xD45C080B = .nadd 28 1 11 :=
  ⟨rfl, rfl, rfl⟩

theorem test_decode_36 :
    decodeWord 0xD801000B = .eqinit 1 11 ∧
    decodeWord 0xD8265C0A = .equnite 6 11 16 10 ∧
    decodeWord 0xD84B800A = .eqfind 11 16 10 ∧
    decodeWord 0xD870A80F = .eqsize 16 21 15 ∧
    decodeWord 0xD8957909 = .eqreduce 21 15 4 9 ∧
    decodeWord 0xD8BAF809 = .eqsnap 26 31 9 ∧
    decodeWord 0xD8DF200E = .equndo 31 4 14 ∧
    decodeWord 0xD8E44803 = .eqstat 4 9 3 :=
  ⟨rfl, rfl, rfl, rfl, rfl, rfl, rfl, rfl⟩

theorem test_decode_37 :
    decodeWord 0xDC091A0D = .tkenc 9 3 8 13 ∧
    decodeWord 0xDC2E4357 = .tkdec 14 8 13 1 7 :=
  ⟨rfl, rfl⟩

theorem test_decode_38 :
    decodeWord 0xE013C76D = .syscall 19 24 29 45 ∧
    decodeWord 0xE078E801 = .halt 24 29 1 ∧
    decodeWord 0xE080E800 = .wake 29 ∧
    decodeWord 0xE0801001 = .wakePg 2 ∧
    decodeWord 0xE0A76440 = .harvest 7 12 17 ∧
    decodeWord 0xE0CC8D82 = .xinv 12 17 22 2 ∧
    decodeWord 0xE0F1B00F = .keyset 17 22 15 ∧
    decodeWord 0xE116D800 = .keyclr 22 27 ∧
    decodeWord 0xE13BF940 = .spillrpl 27 31 5 ∧
    decodeWord 0xE0200000 = .eret ∧
    decodeWord 0xE0400000 = .wfi :=
  ⟨rfl, rfl, rfl, rfl, rfl, rfl, rfl, rfl, rfl, rfl, rfl⟩


/-! ### Decoding: the words that the manual prints beside their assembly (chapters 05 to 20) -/

theorem test_printed_scalar :
    decodeWord 0x04610800 = .add 3 1 0 2 0 ∧ decodeWord 0x04851878 = .selp 4 5 0 6 0 3 ∧ decodeWord 0x09898000 = .addi 12 9 1 0 ∧
    decodeWord 0x20A048D1 = .li 5 0x48D1 ∧ decodeWord 0x24AB3C4D = .lih 5 0x0B3C4D ∧
    decodeWord 0x1C472FFF = .pcmpi 2 7 0 2 (-1) ∧ decodeWord 0x28451801 = .pcmp 2 5 0 6 0 0 1 ∧
    decodeWord 0x305FFFFE = .br 1 0 (-2) ∧ decodeWord 0x3C1F0000 = .jalr 0 31 0 0 ∧
    decodeWord 0x690D0900 = .cbnd 4 3 8 9 ∧ decodeWord 0x6D780002 = .cld 5 14 0 2 ∧
    decodeWord 0x74A00100 = .csrr 5 0x100 ∧ decodeWord 0x7406C032 = .csrc 0 6 0x032 := by decide

theorem test_printed_memory :
    decodeWord 0x48A40600 = .st 5 2 0 0 3 0 ∧ decodeWord 0x40C4343F = .ld 6 2 3 0 2 0 (-1) ∧
    decodeWord 0x4CE60680 = .ldacq 7 3 0 0 3 1 0 0 ∧ decodeWord 0x50C60700 = .strel 6 3 0 0 3 2 0 ∧
    decodeWord 0x58A43203 = .amoaddD 5 2 3 4 1 1 ∧ decodeWord 0x5CEA8481 = .cas 7 5 8 9 0 0 1 ∧
    decodeWord 0x60400001 = .fenceFull 1 := by decide

theorem test_printed_threads :
    decodeWord 0x780831C0 = .start 8 6 7 ∧ decodeWord 0x78610000 = .thid 1 ∧ decodeWord 0x78800008 = .vgrow 8 ∧
    decodeWord 0x78A00008 = .vshrink 8 ∧ decodeWord 0x7C002141 = .send 4 5 1 ∧ decodeWord 0x7C202803 = .migrate 5 3 ∧
    decodeWord 0x7C400886 = .reply 1 2 6 ∧ decodeWord 0x80022143 = .qcfg 2 4 5 3 ∧ decodeWord 0x80250043 = .qclaim 5 1 3 ∧
    decodeWord 0x80402803 = .qpub 5 3 ∧ decodeWord 0x80660083 = .qwaitf 6 2 3 ∧ decodeWord 0x80803003 = .qfree 6 3 ∧
    decodeWord 0x80A50043 = .qwaite 5 1 3 ∧ decodeWord 0x80C94003 = .qerr 9 8 3 ∧ decodeWord 0x80E03803 = .qsetrd 7 3 ∧
    decodeWord 0x84022141 = .barinit 2 4 5 1 ∧ decodeWord 0x84200012 = .bararr 1 2 ∧ decodeWord 0x84400002 = .barwait 2 ∧
    decodeWord 0x84600002 = .barsync 0 2 := by decide

theorem test_printed_vectors :
    decodeWord 0xF9480000 = .vectorPrefix ∧ decodeWord 0x88611600 = .vadd 3 1 2 6 ∧ decodeWord 0x8885360E = .vfma 4 5 6 6 ∧
    decodeWord 0x8C424A00 = .vaddScalar 2 2 9 2 ∧ decodeWord 0x8C614808 = .vandScalar 3 1 9 0 ∧
    decodeWord 0x90221E02 = .vcmp 1 2 3 6 0 2 ∧ decodeWord 0x94414800 = .vpermb 2 1 9 ∧ decodeWord 0x94C70202 = .vbcast 6 7 2 ∧
    decodeWord 0x94093605 = .vins 0 9 6 6 ∧ decodeWord 0x98A03603 = .vredmaxi 5 0 6 6 ∧ decodeWord 0x9CA208C2 = .vunpk 5 2 1 0 6 ∧
    decodeWord 0xA0056600 = .vld 0 2 22 0 6 0 0 ∧ decodeWord 0xA0843602 = .vld 4 2 3 0 6 0 1 ∧
    decodeWord 0xA0443211 = .vlds 2 2 3 0 2 0 4 ∧ decodeWord 0xA4862600 = .vst 4 3 2 0 6 0 ∧
    decodeWord 0xA9091E00 = .vgather 8 9 3 6 ∧ decodeWord 0xAC410600 = .fexp2 2 1 6 ∧ decodeWord 0xB0A10006 = .kpopc 5 1 ∧
    decodeWord 0xB0853601 = .vsel 4 5 6 6 := by decide

theorem test_printed_matrix :
    decodeWord 0xB41190A0 = .tld 2 3 4 5 0 ∧ decodeWord 0xB45310A0 = .tst 2 6 4 5 ∧ decodeWord 0xB8190000 = .tzero 3 1 ∧
    decodeWord 0xB86C0000 = .ttrans 5 4 ∧ decodeWord 0xB89021C0 = .trdv 2 4 7 ∧ decodeWord 0xB8D021C0 = .twrv 2 4 7 ∧
    decodeWord 0xBC008100 = .mma 0 0 1 1 ∧ decodeWord 0xBC69CB00 = .mmas 1 2 3 4 5 1 ∧ decodeWord 0xBCA90000 = .mmai 1 2 2 0 ∧
    decodeWord 0xC0200000 = .aczero 1 ∧ decodeWord 0xC0486000 = .acld 0 4 6 ∧ decodeWord 0xC0A86000 = .acst 1 4 6 ∧
    decodeWord 0xC0E00600 = .accvt 1 3 0 ∧ decodeWord 0xC1000100 = .acadd 0 0 1 ∧ decodeWord 0xC4050002 = .sbind 5 2 ∧
    decodeWord 0xC4200002 = .sunbind 2 ∧ decodeWord 0xC4445502 = .scfg 4 10 20 2 ∧ decodeWord 0xC4600002 = .sgo 2 ∧
    decodeWord 0xC4800002 = .sstop 2 ∧ decodeWord 0xC4A00002 = .ssync 2 ∧ decodeWord 0xC928A258 = .cpy 9 4 10 2 11 ∧
    decodeWord 0xC928A25B = .cpyred 9 4 10 2 11 := by decide

theorem test_printed_sequences :
    decodeWord 0xCC062807 = .tkcommit 6 5 0 7 ∧ decodeWord 0xCC062817 = .tkcommit 6 5 1 7 ∧ decodeWord 0xCC250007 = .tkforce 5 7 ∧
    decodeWord 0xCC432007 = .tkmask 3 4 7 ∧ decodeWord 0xCC684807 = .tkstat 8 9 7 ∧ decodeWord 0xCC8A0207 = .tkfork 10 8 7 ∧
    decodeWord 0xCCAB6007 = .tktrunc 11 12 7 ∧ decodeWord 0xCCC00007 = .tkckpt 7 ∧ decodeWord 0xCCED7007 = .tkdraw 13 14 7 ∧
    decodeWord 0xD0053007 = .rndu 5 6 7 ∧ decodeWord 0xD0223007 = .rndv 2 6 7 ∧ decodeWord 0xD0423007 = .rndg 2 6 7 ∧
    decodeWord 0xD4053803 = .nmaxi 5 7 0 3 ∧ decodeWord 0xD4253813 = .nmini 5 7 1 3 ∧ decodeWord 0xD4453803 = .nadd 5 7 3 ∧
    decodeWord 0xD82531C4 = .equnite 5 6 7 4 ∧ decodeWord 0xD8090004 = .eqinit 9 4 ∧ decodeWord 0xD88910C4 = .eqreduce 9 2 3 4 ∧
    decodeWord 0xDC0910C7 = .tkenc 9 2 3 7 ∧ decodeWord 0xDC291887 = .tkdec 9 3 2 0 7 := by decide

theorem test_printed_system :
    decodeWord 0xE0062143 = .syscall 6 4 5 3 ∧ decodeWord 0xE0672002 = .halt 7 4 2 ∧ decodeWord 0xE0802801 = .wakePg 5 ∧
    decodeWord 0xE0A82140 = .harvest 8 4 5 ∧ decodeWord 0xE0C92140 = .xinv 9 4 5 0 ∧ decodeWord 0xE0EA2006 = .keyset 10 4 6 ∧
    decodeWord 0xE10A2000 = .keyclr 10 4 ∧ decodeWord 0xE12B2140 = .spillrpl 11 4 5 ∧ decodeWord 0xE0200000 = .eret ∧
    decodeWord 0xE0400000 = .wfi := by decide

/-- Words that name no instruction (the table that closes chapter 05): majors 0x00 and 0x3F are illegal, 0x39 is reserved, and so is a member
number that its family does not use. -/
theorem test_no_member :
    decodeWord 0 = .illegalInstruction ∧ decodeWord 0xFFFFFFFF = .illegalInstruction ∧ decodeWord 0xE4000000 = .reservedEncoding ∧
    decodeWord 0x04000019 = .reservedEncoding ∧ decodeWord 0x04000200 = .add 0 0 0 0 1 := by decide

/-! ### Well-formedness: an ill-formed term for each check -/

theorem test_wf_scalar :
    (Instr.sext 1 2 0 2).wf = true ∧ (Instr.sext 1 2 0 3).wf = false ∧ (Instr.pcmpi 1 2 0 6 0).wf = false ∧
    (Instr.pcmp 1 2 0 3 0 3 0).wf = false ∧ (Instr.pcmp 1 2 0 3 0 0 7).wf = false ∧ (Instr.ldacq 1 2 3 0 0 3 0 0).wf = false ∧
    (Instr.strel 1 2 3 0 0 3 0).wf = false ∧ (Instr.amoaddW 1 2 3 4 3 0).wf = false ∧ (Instr.cas 1 2 3 4 0 3 0).wf = false ∧
    (Instr.fenceAcq 3).wf = false ∧ (Instr.start 0 1 2).wf = false ∧ (Instr.vgrow 33).wf = false ∧ (Instr.vshrink 33).wf = false ∧
    (Instr.vgrow 32).wf = true ∧ (Instr.send 1 2 11).wf = false ∧ (Instr.reply 1 2 0).wf = false := by decide

theorem test_wf_vector :
    (Instr.vadd 1 2 3 3).wf = false ∧ (Instr.vmulh 1 2 3 4).wf = false ∧ (Instr.vminn 1 2 3 2).wf = false ∧
    (Instr.vcmp 1 2 3 6 0 4).wf = false ∧ (Instr.vcmp 1 2 3 2 0 6).wf = false ∧ (Instr.vcmp 1 2 3 2 0 7).wf = false ∧
    (Instr.vgather 1 2 3 7).wf = false ∧ (Instr.fexp2 1 2 7).wf = false ∧ (Instr.vcvt 1 2 3 6).wf = false ∧
    (Instr.tzero 1 3).wf = false ∧ (Instr.scfg 1 2 29 0).wf = false ∧ (Instr.cpy 0 1 2 3 4).wf = false ∧
    (Instr.eqinit 0 4).wf = false ∧ (Instr.xinv 1 2 3 3).wf = false ∧ (Instr.xinv 1 2 0 2).wf = false ∧
    (Instr.xinv 1 0 0 2).wf = true := by decide


/-! ### Small machines -/

/-- A thread with capabilities over code (`c0`), device memory (`c2`) and scratchpad (`c3`), whole and of every permission, a table
of device memory (`c4`), and a system window onto module 5 (`c5`). -/
def tThread (regs : Tab (BitVec 64)) : Thread :=
  { pc := 0x1200000, regs, fresh := false, vallot := 32
    caps := [(0, Cap.mk' 0x1200000 0x1000 0x05 0 0 true), (2, Cap.mk' 0 0x40000000 0xFF 0 0 true),
      (3, Cap.mk' 0 0x100000 0xFF 0 1 true), (4, Cap.mk' 0x2000000 0x10000 0xFF 0 0 true)] }

/-- A machine whose one thread is in a slot, a compute core's cluster with a crew, its memory the tables of a placed word. -/
def tStateAt (l : Loc) (t : Thread) : State :=
  let s := placeWord State.reset 0
  let s1 := s.setCore l.core { s.core l.core with slots := [(l.slot, { thread := some t })] }
  let k := clusterOf l.core
  let s2 := if isCompute l.core then s1.setCluster k { s1.cluster k with crew := some {} } else s1
  { s2 with cur := l }

/-- The same in slot 1 of an agent. -/
def tState (id : Nat) (t : Thread) : State := tStateAt { core := id, slot := 1 } t

/-- An instruction issues, as a check that evaluates. -/
def issuesB (s : State) (t : Thread) (i : Instr) (px : Px := {}) : Bool :=
  s.thread? s.cur == some t && decodeCheck s t i px == none && ready t (usesOf i) px == .go

theorem issues_of {s : State} {t : Thread} {i : Instr} {px : Px} (h : issuesB s t i px = true) : Issues s t i px := by
  simp only [issuesB, Bool.and_eq_true, beq_iff_eq] at h
  exact ⟨h.1.1, h.1.2, h.2⟩

/-- A thread of the first kind, its registers 0 to 7 holding 0 to 7. -/
def tA : Thread := tThread [(1, 1), (2, 2), (3, 3), (4, 4), (5, 5), (6, 6), (7, 7)]

/-- Its machine, a core. -/
def sA : State := tState 0 tA

/-- A service pair with a thread of supervisor level. -/
def tP : Thread := { tA with kind := .pair, priv := 1 }
def sP : State := tState 2048 tP

/-- The same thread in the monitor. -/
def tM : Thread := { tA with kind := .pair, priv := 2, inmon := true }
def sM : State := tState 2048 tM

/-! ### Witnesses: for each statement with hypotheses, a machine and operands that meet them all -/

theorem witness_ScalarResults : Issues sA tA (.add 3 1 0 2 0) ∧ scalarSpec tA sA.pred (.add 3 1 0 2 0) = some (3, 3) :=
  ⟨issues_of (by decide), by decide⟩

theorem witness_ScalarResults_counts : Issues sA tA (.clz 3 1 0) ∧ Issues sA tA (.ctz 3 1 0) ∧ Issues sA tA (.popc 3 1 0) :=
  ⟨issues_of (by decide), issues_of (by decide), issues_of (by decide)⟩

theorem witness_TimedResults : Issues sA tA (.mul 3 6 0 7 0) ∧ timedSpec tA (.mul 3 6 0 7 0) = some (3, 8, 42) :=
  ⟨issues_of (by decide), by decide⟩

theorem witness_TimedResults_landing :
    let t : Thread := { tA with holds := [{ reg := 3, value := 42, due := some 0 }] }
    (tState 0 t).thread? { core := 0, slot := 1 } = some t ∧ t.holds = [{ reg := 3, value := 42, due := some 0 }] := ⟨rfl, rfl⟩

theorem witness_PredicateResults : Issues sA tA (.pcmpi 2 5 0 1 7) ∧ Issues sA tA (.pcmp 2 5 0 6 0 2 1) ∧ Issues sA tA (.pand 1 2 3) ∧
    Issues sA tA (.por 1 2 3) ∧ Issues sA tA (.pxor 1 2 3) ∧ Issues sA tA (.pnot 0 3) ∧ Issues sA tA (.pmovs 3) ∧ Issues sA tA (.smovp 3 0) :=
  ⟨issues_of (by decide), issues_of (by decide), issues_of (by decide), issues_of (by decide), issues_of (by decide), issues_of (by decide),
    issues_of (by decide), issues_of (by decide)⟩

theorem witness_Transfers : Issues sA tA (.jal 1) ∧ jumpSpec tA sA.pred (.jal 1) = some (0x1200004, some 31) ∧
    transferCheck (opened sA tA (.jal 1)) (consume tA (usesOf (.jal 1))) 0x1200004 = none :=
  ⟨issues_of (by decide), by decide, by decide⟩

theorem witness_Transfers_notTaken : Issues sA tA (.br 1 0 3) ∧ jumpSpec tA sA.pred (.br 1 0 3) = none :=
  ⟨issues_of (by decide), by decide⟩

theorem witness_Transfers_unaligned : Issues sA tA (.jalr 1 2 0 0) ∧ jumpSpec tA sA.pred (.jalr 1 2 0 0) = some (2, some 1) ∧
    (2 : Word).toNat % 4 ≠ 0 :=
  ⟨issues_of (by decide), by decide, by decide⟩

theorem witness_Loads : Issues sA tA (.ld 6 2 0 0 3 0 1) ∧ Room tA 6 ∧ tA.loadsStall = false ∧
    memCheck (opened sA tA (.ld 6 2 0 0 3 0 1)) sA.cur (consume tA (usesOf (.ld 6 2 0 0 3 0 1))) (tA.c 2)
      ((tA.c 2).base + (tA.s 0).toNat + 8) 8 8 permR { r := true } = .ok (.device 0 8 8 0 0x21F) :=
  ⟨issues_of (by decide), .inr (by decide), by decide, by decide⟩

/-- A pending store of eight bytes, and the place of four of them. -/
theorem witness_Loads_forward : let p : PStore := { space := .scratch 0, addr := 8, size := 8 }
    let s := { sA with stores := [(0, [p])] }
    ((s.path 0).reverse.find? fun q => q.readable && q.touches (.scratch 0 12) 4) = some p ∧ p.addr ≤ (Place.scratch 0 12).key.2 ∧
      (Place.scratch 0 12).key.2 + 4 ≤ p.addr + p.size ∧ ∀ q ∈ s.path 0, q.touches (.scratch 0 16) 8 = false := by decide +kernel

theorem witness_Stores : Issues sA tA (.st 6 3 0 0 3 1) ∧
    memCheck (opened sA tA (.st 6 3 0 0 3 1)) sA.cur (consume tA (usesOf (.st 6 3 0 0 3 1))) (tA.c 3)
      ((tA.c 3).base + (tA.s 0).toNat + 8) 8 8 permW { w := true } = .ok (.scratch 0 8) :=
  ⟨issues_of (by decide), by decide⟩

theorem witness_Stores_forward : (128 : Nat) ≤ 128 ∧ (Place.scratch 0 0).key.2 + 128 ≤ (Place.scratch 0 128).key.2 := by decide

theorem witness_Atomics : Issues sA tA (.amoaddD 6 2 0 5 1 0) ∧ Room tA 6 ∧ tA.loadsStall = false ∧
    memCheck (opened sA tA (.amoaddD 6 2 0 5 1 0)) sA.cur (consume tA (usesOf (.amoaddD 6 2 0 5 1 0))) (tA.c 2)
      ((tA.c 2).base + (tA.s 0).toNat) 8 8 permAtomic { r := true, w := true } = .ok (.device 0 0 0 0 0x21F) :=
  ⟨issues_of (by decide), .inr (by decide), by decide, by decide⟩

theorem witness_FencesAndHints : Issues sA tA (.fenceFull 1) ∧ Issues sA tA (.cflush 0 7 2) ∧
    hintCheck (tA.c 2) ((tA.c 2).base + (tA.s 0).toNat) (tA.s 7).toNat = none ∧
    Issues sA tA (.ddstat 6 0 2) ∧ Room tA 6 ∧ (tA.c 2).tag = true :=
  ⟨issues_of (by decide), issues_of (by decide), by decide, issues_of (by decide), .inr (by decide), by decide⟩

theorem witness_Multicasts : Issues sA tA (.mcst 6 0 5 3 2) ∧
    memCheck (opened sA tA (.mcst 6 0 5 3 2)) sA.cur (consume tA (usesOf (.mcst 6 0 5 3 2))) (tA.c 2)
      ((tA.c 2).base + (tA.s 0).toNat) 8 8 permW { w := true, late := true } = .ok (.device 0 0 0 0 0x21F) ∧
    (castRun (sendCast (claimMe (drain ((opened sA tA (.mcst 6 0 5 3 2)).reachAt (.device 0 0 0 0 0x21F)) sA.myPath) 6) (.device 0 0 0 0 0x21F)
      (storeAt sA.cur (consume tA (usesOf (.mcst 6 0 5 3 2))) (.device 0 0 0 0 0x21F) 8 5 false) none) (consume tA (usesOf (.mcst 6 0 5 3 2)))
      (.device 0 0 0 0 0x21F) ⟨6, 0, 5, 2, 8, none, fun _ v => v⟩ 5).stopped = false :=
  ⟨issues_of (by decide), by decide, by decide +kernel⟩

theorem witness_Multicasts_reducing : (castSpec (.redst 6 0 5 1 2)).map CastForm.op = some (some 4) ∧ (3 : Nat) < 2 ^ (8 * 8) := by decide

theorem witness_CapabilityResults : Issues sA tA (.cbnd 6 2 4 5) ∧ (capSpec tA (.cbnd 6 2 4 5)).isSome = true ∧
    Issues sA tA (.cgetl 2 6) ∧ capReadSpec tA (.cgetl 2 6) = some (6, 0x40000000) :=
  ⟨issues_of (by decide), by decide, issues_of (by decide), by decide⟩

/-- A member answers a next state, as a check that evaluates. -/
def nextB (i : Instr) (s : State) : Bool :=
  match exec i s with
  | .next _ => true
  | _ => false

theorem next_of {s : State} {i : Instr} (h : nextB i s = true) : ∃ u, exec i s = .next u := by
  unfold nextB at h
  split at h
  · exact ⟨_, by assumption⟩
  · cases h

theorem witness_CapabilitiesNarrow : Issues sA tA (.cbnd 6 2 4 5) ∧ (∃ u, exec (.cbnd 6 2 4 5) sA = .next u) ∧
    capSpec tA (.cbnd 6 2 4 5) = some (6, Cap.mk' 4 5 0xFF 0 0 true) ∧ (tA.c 2).base + (tA.c 2).len < 2 ^ 56 :=
  ⟨issues_of (by decide), next_of (by decide), by decide, by decide⟩

/-- A source without a tag, and `c15` at kernel privilege. -/
theorem witness_CapabilitiesNarrow_fails : Issues sA tA (.cinc 6 8 4) ∧ (∃ u, exec (.cinc 6 8 4) sA = .next u) ∧ capSpec tA (.cinc 6 8 4) = none ∧
    Issues sA tA (.crestr 15 2 4) ∧ (∃ u, exec (.crestr 15 2 4) sA = .next u) ∧ tA.priv = 0 :=
  ⟨issues_of (by decide), next_of (by decide), by decide, issues_of (by decide), next_of (by decide), rfl⟩

theorem witness_CapabilityMemory : Issues sA tA (.cld 6 2 0 1) ∧ tA.loadsStall = false ∧ (tA.c 2).space ≠ 2 ∧
    capCheck (tA.c 2) 16 16 (permR ||| permLoadCap) = none ∧
    memCheck (opened sA tA (.cld 6 2 0 1)) sA.cur (consume tA (usesOf (.cld 6 2 0 1))) (tA.c 2) 16 16 16 permR { r := true } =
      .ok (.device 0 16 16 0 0x21F) ∧
    Issues sA tA (.cst 6 2 0 1) ∧ capCheck (tA.c 2) 16 16 permW = none ∧ (tA.c 6).tag = false ∧
    memCheck (opened sA tA (.cst 6 2 0 1)) sA.cur (consume tA (usesOf (.cst 6 2 0 1))) (tA.c 2) 16 16 16 permW { w := true } =
      .ok (.device 0 16 16 0 0x21F) :=
  ⟨issues_of (by decide), by decide, by decide, by decide, by decide, issues_of (by decide), by decide, by decide, by decide⟩

theorem witness_CsrMembers : Issues sA tA (.csrr 5 0x100) ∧ csrLevel 0x100 ≤ tA.priv ∧ csrPresent sA.cur.core 0x100 ∧
    Issues sA tA (.csrs 5 0 0x031) ∧ tA.s 0 = 0 ∧ csrPresent sA.cur.core 0x031 ∧ Issues sA tA (.csrr 5 0x800) ∧ tA.priv < csrLevel 0x800 ∧
    Issues sA tA (.csrr 5 0x7FF) ∧ csrLevel 0x7FF ≤ tA.priv ∧ ¬csrPresent sA.cur.core 0x7FF :=
  ⟨issues_of (by decide), by decide, by unfold csrPresent; decide, issues_of (by decide), rfl, by unfold csrPresent; decide, issues_of (by decide), by decide,
    issues_of (by decide), by decide, by unfold csrPresent; decide⟩

theorem witness_CsrMembers_writes : Issues sA tA (.csrw 5 2 0x031) ∧ csrSpec tA 0 (.csrw 5 2 0x031) = some (5, 0x031, some 2) ∧ ¬csrLate 0x031 ∧
    Issues sA tA (.csrw 5 2 0x050) ∧ isVisitor (opened sA tA (.csrw 5 2 0x050)) sA.cur (consume tA (usesOf (.csrw 5 2 0x050))) = false ∧
    ((opened sA tA (.csrw 5 2 0x050)).cluster 0).mode 0 ≠ 2 ∧ ((opened sA tA (.csrw 5 2 0x050)).cluster 0).switch = none ∧
    Issues sA tA (.csrw 5 3 0x050) ∧ 3 ≤ (tA.s 3).toNat :=
  ⟨issues_of (by decide), rfl, by unfold csrLate; decide, issues_of (by decide), by decide, by decide, by decide, issues_of (by decide), by decide⟩

theorem witness_CsrMembers_monitor : Issues sM tM (.csrw 5 1 0xC01) ∧ csrPresent sM.cur.core 0xC01 ∧ (tM.s 1).toNat < 3 ∧ sM.dbgctl ≠ (tM.s 1).toNat ∧
    sM.dbgReq = none ∧ Issues sM tM (.csrw 5 0 0xC01) ∧ sM.dbgctl = (tM.s 0).toNat ∧ Issues sM tM (.csrw 5 1 0xC02) ∧ (tM.s 1).toNat < 2 ^ 34 ∧
    powerValue (opened sM tM (.csrw 5 1 0xC02)) 0 (tM.s 1) ≠ pwrctl ((opened sM tM (.csrw 5 1 0xC02)).die 0) ∧
    ((opened sM tM (.csrw 5 1 0xC02)).die 0).power = none ∧
    powerValue (opened sM tM (.csrw 5 0 0xC02)) 0 (tM.s 0) = pwrctl ((opened sM tM (.csrw 5 0 0xC02)).die 0) :=
  ⟨issues_of (by decide), by unfold csrPresent; decide, by decide, by decide, by decide, issues_of (by decide), by decide, issues_of (by decide), by decide,
    by decide, by decide, by decide⟩


theorem witness_Start : Issues sA tA (.start 6 4 5) ∧ (BitVec.ofNat 64 (tA.c 0).base + tA.s 4).toNat % 4 = 0 ∧
    (sA.core 0).startq = [] ∧ helperRoom sA 0 = some 2 :=
  ⟨issues_of (by decide), by decide, by decide, by decide⟩

theorem witness_Start_waits : let s := sA.setCore 0 { sA.core 0 with startq := [2] }
    Issues s tA (.start 6 4 5) ∧ (s.core 0).startq ≠ [] :=
  ⟨issues_of (by decide), by decide⟩

theorem witness_ThreadFaults : Issues sA tA (.start 6 1 5) ∧ (BitVec.ofNat 64 (tA.c 0).base + tA.s 1).toNat % 4 ≠ 0 ∧
    Issues sA tA (.vgrow 1) ∧ 32 < tA.vallot + (1 : BitVec 6).toNat ∧
    (let t : Thread := { tA with vallot := 0 }; Issues (tState 0 t) t (.vshrink 1) ∧ t.vallot < (1 : BitVec 6).toNat) ∧
    (let s := tStateAt { core := 0, slot := 0 } tA; Issues s tA (.migrate 0 2) ∧ s.cur.slot = 0) :=
  ⟨issues_of (by decide), by decide, issues_of (by decide), by decide, ⟨issues_of (by decide), by decide⟩,
    ⟨issues_of (by decide), rfl⟩⟩

theorem witness_ThreadFaults_visitor : let t : Thread := { tA with rid := 1 }
    let s := tState 0 t
    Issues s t (.qpub 1 3) ∧ isCompute s.cur.core = true ∧ isVisitor (opened s t (.qpub 1 3)) s.cur (consume t (usesOf (.qpub 1 3))) = true :=
  ⟨issues_of (by decide), by decide, by decide⟩

theorem witness_Allotment : let t : Thread := { tA with vallot := 8 }
    let s := tState 0 t
    Issues s t (.vgrow 0) ∧ Issues s t (.vgrow 24) ∧ t.vallot + (24 : BitVec 6).toNat ≤ 32 ∧ (s.core 0).vgrowq = [] ∧
      (24 : BitVec 6).toNat ≤ freeVectors s 0 ∧ Issues s t (.vshrink 8) ∧ (8 : BitVec 6).toNat ≤ t.vallot ∧ t.holds = [] ∧
      Issues s t (.vshrink 0) :=
  ⟨issues_of (by decide), issues_of (by decide), by decide, by decide, by decide, issues_of (by decide), by decide, rfl,
    issues_of (by decide)⟩

theorem witness_Allotment_waits : let t : Thread := { tA with vallot := 8 }
    let s := (tState 0 t).setCore 0 { (tState 0 t).core 0 with vgrowq := [2] }
    Issues s t (.vgrow 1) ∧ t.vallot + (1 : BitVec 6).toNat ≤ 32 ∧ (s.core 0).vgrowq ≠ [] :=
  ⟨issues_of (by decide), by decide, by decide⟩

theorem witness_Leaving : Issues sA tA .retire ∧ tA.settled = true ∧ Issues sA tA (.migrate 0 2) ∧ sA.cur.slot ≠ 0 ∧
    capCheck (tA.c 2) ((tA.c 2).base + (tA.s 0).toNat) 1 0 = none ∧ (tA.c 2).space = 0 ∧
    Issues sA tA (.migrate 0 3) ∧ capCheck (tA.c 3) ((tA.c 3).base + (tA.s 0).toNat) 1 0 = none ∧ (tA.c 3).space = 1 ∧
    isVisitor (opened sA tA (.migrate 0 3)) sA.cur (consume tA (usesOf (.migrate 0 3))) = false ∧
    (tA.c 3).base + (tA.s 0).toNat < ((opened sA tA (.migrate 0 3)).cluster 0).padSize :=
  ⟨issues_of (by decide), by decide, issues_of (by decide), by decide, by decide, by decide, issues_of (by decide), by decide,
    by decide, by decide, by decide⟩

theorem witness_Parking : Issues sA tA (.thid 6) ∧ Issues sA tA .yield ∧ Issues sA tA .park ∧ tA.wake = false ∧
    Issues sP tP .wfi ∧ (let t : Thread := { tA with wake := true }; Issues (tState 0 t) t .park ∧ t.wake = true) :=
  ⟨issues_of (by decide), issues_of (by decide), issues_of (by decide), rfl, issues_of (by decide), issues_of (by decide), rfl⟩

theorem witness_Messages : Issues sA tA (.send 0 5 10) ∧
    reachable (opened sA tA (.send 0 5 10)) (tA.s 0) tA.launch = some 0 ∧ outbound (opened sA tA (.send 0 5 10)) 0 < 8 ∧
    Issues sA tA (.reply 1 2 6) ∧ (let t : Thread := tThread [(2, 0x400000)]; let s := tState 0 t
      Issues s t (.send 2 5 0) ∧ reachable (opened s t (.send 2 5 0)) (t.s 2) t.launch = none) :=
  ⟨issues_of (by decide), by decide, by decide, issues_of (by decide), issues_of (by decide), by decide⟩

/-- The core's cluster with a ring of 16 slots of 16 bytes. -/
def sRing (state clm pub rd fre : Nat) : State :=
  sA.setRing 0 3 { state, buf := Cap.mk' 0x1000 0x100 0xFF 0 1 true, logn := 4, logs := 4, clm := BitVec.ofNat 32 clm
                   pub := BitVec.ofNat 32 pub, rd := BitVec.ofNat 32 rd, fre := BitVec.ofNat 32 fre }

theorem witness_RingMembers : let t : Thread := tThread [(4, 0x44)]
    let s := tState 0 t
    Issues sA tA (.qcfg 3 0 5 3) ∧ isVisitor (opened sA tA (.qcfg 3 0 5 3)) sA.cur (consume tA (usesOf (.qcfg 3 0 5 3))) = false ∧ tA.s 0 = 0 ∧
      Issues s t (.qcfg 3 4 5 3) ∧ qcfgCheck (ownRing (ringOpened s t (.qcfg 3 4 5 3)) s.cur 3) (t.c 3) (t.s 4) = none :=
  ⟨issues_of (by decide), by decide, rfl, issues_of (by decide), by decide⟩

theorem witness_RingMembers_answers :
    Issues (sRing 1 0 0 0 0) tA (.qclaim 6 1 3) ∧ (ringAnswerSpec (ownRing (ringOpened (sRing 1 0 0 0 0) tA (.qclaim 6 1 3)) (sRing 1 0 0 0 0).cur 3) (.qclaim 6 1 3)).isSome = true ∧
    Issues (sRing 1 16 1 0 0) tA (.qwaitf 6 1 3) ∧ (ringAnswerSpec (ownRing (ringOpened (sRing 1 16 1 0 0) tA (.qwaitf 6 1 3)) (sRing 1 16 1 0 0).cur 3) (.qwaitf 6 1 3)).isSome = true ∧
    Issues (sRing 2 16 1 0 0) tA (.qwaite 6 1 3) ∧ (ringAnswerSpec (ownRing (ringOpened (sRing 2 16 1 0 0) tA (.qwaite 6 1 3)) (sRing 2 16 1 0 0).cur 3) (.qwaite 6 1 3)).isSome = true ∧
    Issues (sRing 1 16 0 0 0) tA (.qwaitf 6 1 3) ∧ ringParkSpec (ownRing (ringOpened (sRing 1 16 0 0 0) tA (.qwaitf 6 1 3)) (sRing 1 16 0 0 0).cur 3) (.qwaitf 6 1 3) = some (3, .qwaitf 3 6 1) ∧
    Issues (sRing 1 16 0 0 0) tA (.qwaite 6 1 3) ∧ ringParkSpec (ownRing (ringOpened (sRing 1 16 0 0 0) tA (.qwaite 6 1 3)) (sRing 1 16 0 0 0).cur 3) (.qwaite 6 1 3) = some (3, .qwaite 3 6 1) :=
  ⟨issues_of (by decide), by decide, issues_of (by decide), by decide, issues_of (by decide), by decide, issues_of (by decide), by decide,
    issues_of (by decide), by decide⟩

theorem witness_RingMembers_changes :
    Issues (sRing 1 2 0 0 0) tA (.qpub 1 3) ∧ (ringChangeSpec tA (ownRing (ringOpened (sRing 1 2 0 0 0) tA (.qpub 1 3)) (sRing 1 2 0 0 0).cur 3) (.qpub 1 3)).isSome = true ∧
    Issues (sRing 1 2 2 2 0) tA (.qfree 1 3) ∧ (ringChangeSpec tA (ownRing (ringOpened (sRing 1 2 2 2 0) tA (.qfree 1 3)) (sRing 1 2 2 2 0).cur 3) (.qfree 1 3)).isSome = true ∧
    Issues (sRing 2 2 2 2 0) tA (.qsetrd 2 3) ∧ (ringChangeSpec tA (ownRing (ringOpened (sRing 2 2 2 2 0) tA (.qsetrd 2 3)) (sRing 2 2 2 2 0).cur 3) (.qsetrd 2 3)).isSome = true ∧
    Issues (sRing 1 2 2 2 0) tA (.qerr 6 5 3) ∧ (tA.s 5).setWidth 16 ≠ (0 : BitVec 16) ∧ (ownRing (ringOpened (sRing 1 2 2 2 0) tA (.qerr 6 5 3)) (sRing 1 2 2 2 0).cur 3).state = 1 ∧
    Issues (sRing 2 2 2 2 0) tA (.qerr 6 5 3) ∧ 2 ≤ (ownRing (ringOpened (sRing 2 2 2 2 0) tA (.qerr 6 5 3)) (sRing 2 2 2 2 0).cur 3).state :=
  ⟨issues_of (by decide), by decide, issues_of (by decide), by decide, issues_of (by decide), by decide, issues_of (by decide), by decide,
    by decide, issues_of (by decide), by decide⟩

theorem witness_Barriers : let t : Thread := tThread [(4, 1), (5, 0)]
    let s := tState 0 t
    let i : Instr := .barinit 4 4 5 1
    Issues s t i ∧ isVisitor (opened s t i) s.cur (consume t (usesOf i)) = false ∧ (t.s 5).toNat < bitsOf (t.s 4) 15 0 ∧
      bitsOf (t.s 4) 17 16 ≠ 3 ∧ bitsOf (t.s 4) 63 18 = 0 ∧
      readRanks (settleRanks (opened s t i) (consume t (usesOf i)) ((consume t (usesOf i)).c 4) [0, 0]) (consume t (usesOf i)) ((consume t (usesOf i)).c 4) 0 0 [0, 0] = .ok [(0, 0), (0, 0)] :=
  ⟨issues_of (by decide), by decide, by decide, by decide, by decide, by decide⟩

theorem witness_Barriers_arrival : Issues sA tA (.bararr 0 1) ∧ (arrive (opened sA tA (.bararr 0 1)) 1 false).toBool = true ∧
    Issues sA tA (.barwait 1) ∧ Issues sA tA (.barsync 0 1) ∧
    (match arrive (opened sA tA (.barsync 0 1)) 1 false with | .ok u => u.cur == sA.cur | .error _ => false) = true ∧
    isVisitor (opened sA tA (.barwait 1)) sA.cur (consume tA (usesOf (.barwait 1))) = false :=
  ⟨issues_of (by decide), by decide, issues_of (by decide), issues_of (by decide), by decide, by decide⟩


/-- The registers can be read, and the destination can be written with zero afterwards, as a check that evaluates. -/
def vectorsOk (s : State) (reads : List Nat) (d : Nat) : Bool :=
  match readVectors s reads with
  | .ok (s1, _) => (writeVector s1 d 0).toBool
  | .error _ => false

theorem witness_VectorResults : Issues sA tA (.vadd 3 1 2 6) ∧ (vecSpec {} (.vadd 3 1 2 6)).isSome = true ∧
    isLoadBound (opened sA tA (.vadd 3 1 2 6)) 3 = false ∧ vectorsOk (opened sA tA (.vadd 3 1 2 6)) [1, 2] 3 = true :=
  ⟨issues_of (by decide), rfl, by decide, by decide⟩

theorem witness_VectorResults_prefix : let px : Px := { k := 2, z := 1, rm := 1, len := 8 }
    Issues sA tA (.vsra 31 1 2 2) px ∧ vectorsOk (opened sA tA (.vsra 31 1 2 2)) [1, 2] 31 = true :=
  ⟨issues_of (by decide), by decide⟩

theorem witness_LanesByElement : (32 : Nat) ∈ [4, 8, 16, 32] ∧ 63 < 2048 / 32 ∧ 511 < 2048 / 4 := by decide

theorem witness_MinMax : (fmF32.value 0x7F800001).isNan = true ∧ (fmF32.value 0x7F800001).sig = true ∧ (fmF32.value 0).isNan = false ∧
    fmF32.value 0 = .fin false 0 (-149) ∧ fmF32.value 0x80000000 = .fin true 0 (-149) ∧ (16 : Nat) ∈ [8, 16, 32] ∧
    6 < (7 : BitVec 5).toNat ∧ (2 : BitVec 3).toNat < 3 ∧ 3 < (4 : BitVec 3).toNat ∧ sA.thread? sA.cur = some tA := by
  decide

theorem witness_Masks : Issues sA tA (.vcmp 1 2 3 6 0 2) ∧ (readVectors (opened sA tA (.vcmp 1 2 3 6 0 2)) [2, 3]).toBool = true ∧
    Issues sA tA (.kor 1 2 3) ∧ (maskSpec tA (.kor 1 2 3)).isSome = true ∧ Issues sA tA (.kpopc 5 1) ∧ Issues sA tA (.vsel 4 5 6 6) ∧
    isLoadBound (opened sA tA (.vsel 4 5 6 6)) 4 = false ∧ vectorsOk (opened sA tA (.vsel 4 5 6 6)) [5, 6] 4 = true :=
  ⟨issues_of (by decide), by decide, issues_of (by decide), rfl, issues_of (by decide), issues_of (by decide), by decide, by decide⟩

theorem witness_Reductions : Issues sA tA (.vredsum 5 1 6) ∧ (redSpec {} (.vredsum 5 1 6)).isSome = true ∧
    (readVectors (opened sA tA (.vredsum 5 1 6)) [1]).toBool = true ∧ Issues sA tA (.vextr 5 1 2 6) ∧ Issues sA tA (.vscan 3 1 2) ∧
    isLoadBound (opened sA tA (.vscan 3 1 2)) 3 = false ∧
    (match readVectors (opened sA tA (.vscan 3 1 2)) [1] with
      | .ok (s1, _) => (writeHeldVector s1 3 0 (some 8)).toBool
      | .error _ => false) = true :=
  ⟨issues_of (by decide), rfl, by decide, issues_of (by decide), issues_of (by decide), by decide, by decide⟩

theorem witness_Conversions : Issues sA tA (.vcvt 3 1 6 2) ∧ (∃ x, convSpec (.vcvt 3 1 6 2) = some x ∧
      (x.part (tyOf sA tA x.src) (tyOf sA tA x.dst) 0).isSome = true) ∧
    isLoadBound (opened sA tA (.vcvt 3 1 6 2)) 3 = false ∧ vectorsOk (opened sA tA (.vcvt 3 1 6 2)) [1] 3 = true :=
  ⟨issues_of (by decide), ⟨_, rfl, by decide⟩, by decide, by decide⟩

/-- The masks of a thread whose `k1` names the first word lane alone. -/
def tK : Thread := { tA with masks := [(1, 1)] }
def pK : Px := { k := 1, len := 8 }

theorem witness_VectorMemory : Issues (tState 0 tK) tK (.vld 4 2 0 0 6 0 1) pK ∧
    isLoadBound (opened (tState 0 tK) tK (.vld 4 2 0 0 6 0 1)) 4 = false ∧ tK.dataHolds < 8 ∧
    ((List.range 64).filter (active pK tK 32)) = [0] ∧
    (unitPlaces (opened (tState 0 tK) tK (.vld 4 2 0 0 6 0 1)) tK (tK.c 2) 4 permR { r := true } [(0, 256)]).toBool = true ∧
    Issues (tState 0 tK) tK (.vst 4 2 0 0 6 1) pK ∧
    (unitPlaces (opened (tState 0 tK) tK (.vst 4 2 0 0 6 1)) tK (tK.c 2) 4 permW { w := true } [(0, 256)]).toBool = true :=
  ⟨issues_of (by decide), by decide, by decide, by decide, by decide, issues_of (by decide), by decide⟩

theorem witness_SpecialFunctions : Issues sA tA (.fexp2 2 1 6) ∧ isLoadBound (opened sA tA (.fexp2 2 1 6)) 2 = false ∧
    ((opened sA tA (.fexp2 2 1 6)).cluster 0).sfu.length < 32 ∧ (readVectors (opened sA tA (.fexp2 2 1 6)) [1]).toBool = true :=
  ⟨issues_of (by decide), by decide, by decide, by decide⟩

/-- A request whose source a running load stream has given, and which cannot be written. -/
theorem witness_SpecialFunctions_fails : let st : Stream := { bound := some (1, 1), state := .running, pos := 64 }
    let s := sA.setCore 0 { sA.core 0 with streams := [(2, st)] }
    let q : SfuReq := { loc := { core := 0, slot := 1 }, dest := 1, popped := poppedOf s 1 }
    let e : Stop := streamFault 0 0
    writeVectorAt (s.setCluster 0 { s.cluster 0 with sfu := [] }) q.loc q.dest (sfuResult q (vectorAt s q.loc q.dest)).1 = .error e ∧
      e.fault? = some (0x0B, 0, 0) ∧ q.popped = some (2, 64) := ⟨rfl, rfl, rfl⟩

/-- The printed pair of R110, a prefix that masks and zeroes with its `vadd.f32`, and the same prefix before the printed `st.d`. -/
theorem witness_PrefixAndNoMember : sA.thread? sA.cur = some tA ∧ majorOf 0x88611600 = 0x22 ∧ prefixReserved 0xF9480000 = false ∧
    prefixIgnored (prefixOf 0xF9480000) (memberOf 0x88611600) = false ∧ majorOf 0x48A40600 < 0x22 ∧ prefixReserved 0xFB480001 = true := by
  decide

/-- The word of VABS with its `vB` not zero decodes to no member; a prefix that names a third vector is one that VABS ignores. -/
theorem witness_PrefixAndNoMember_ignored : let w := encodeWord (.vabs 3 1 6)
    let x := (List.range 32).map (fun n => w ||| (1#32 <<< n)) |>.find? fun x =>
      decodeWord x == .reservedEncoding && memberOf x != .reservedEncoding && majorOf x == majorOf w
    x.isSome = true ∧ prefixIgnored { vc := 6, uc := 1, len := 8 } (memberOf w) = true ∧ memberOf w ≠ .reservedEncoding ∧
      x.all (fun x => prefixIgnored {} (memberOf x) == false) = true := by
  decide

/-- A core whose tile 2 has one row of eight bytes. -/
def sT : State := sA.setCore 0 { sA.core 0 with tshape := [(2, shapeWord 1 8 0)] }

theorem witness_TileMemory : Issues sT tA (.tld 2 2 0 7 0) ∧ ((opened sT tA (.tld 2 2 0 7 0)).core 0).busy 2 = false ∧
    (tileRows (opened sT tA (.tld 2 2 0 7 0)) tA 2 0 7 (((opened sT tA (.tld 2 2 0 7 0)).core 0).shape 2) permR { r := true } false).toBool = true ∧
    Issues sT tA (.tst 2 2 0 0) ∧ ((opened sT tA (.tst 2 2 0 0)).core 0).toWrite 2 = false ∧
    (tileRows (opened sT tA (.tst 2 2 0 0)) tA 2 0 0 (((opened sT tA (.tst 2 2 0 0)).core 0).shape 2) permW { w := true } true).toBool = true :=
  ⟨issues_of (by decide), by decide, by decide, issues_of (by decide), by decide, by decide⟩

/-- A core with two tiles of one row of eight bytes, on format class 0 of default format 0. -/
theorem witness_TileMembers : Issues sA tA (.tzero 3 1) ∧ MatRoom (opened sA tA (.tzero 3 1)) ∧ Issues sA tA (.ttrans 5 4) ∧
    MatRoom (opened sA tA (.ttrans 5 4)) ∧ (tileAt (opened sA tA (.ttrans 5 4)) tA 4).cols ≤ 128 ∧
    (tileAt (opened sA tA (.ttrans 5 4)) tA 4).rows * (tileAt (opened sA tA (.ttrans 5 4)) tA 4).ty.w % 8 = 0 ∧
    (tileAt (opened sA tA (.ttrans 5 4)) tA 4).rows * (tileAt (opened sA tA (.ttrans 5 4)) tA 4).ty.w / 8 ≤ 128 ∧
    Issues sA tA (.twrv 2 4 7) ∧ (readVectors (opened sA tA (.twrv 2 4 7)) [4]).toBool = true ∧
    Issues sA tA (.trdv 2 4 7) ∧ ((opened sA tA (.trdv 2 4 7)).core 0).toWrite 2 = false ∧
    (writeVector (opened sA tA (.trdv 2 4 7)) 4 0).toBool = true :=
  ⟨issues_of (by decide), (by decide : (_ : Nat) < 4), issues_of (by decide), (by decide : (_ : Nat) < 4), by decide, by decide, by decide,
    issues_of (by decide), by decide, issues_of (by decide), by decide, by decide⟩

theorem witness_Multiplies : let i : Instr := .mma 0 0 1 1
    Issues sA tA i ∧ MatRoom (opened sA tA i) ∧ mmaOk (tileAt (opened sA tA i) tA 0) (tileAt (opened sA tA i) tA 1) = true :=
  ⟨issues_of (by decide), (by decide : (_ : Nat) < 4), by decide⟩

theorem witness_Multiplies_fails : let s := sA.setCore 0 { sA.core 0 with tclass := [(0, 1)] }
    Issues s tA (.mma 0 0 1 1) ∧ mmaOk (tileAt (opened s tA (.mma 0 0 1 1)) tA 0) (tileAt (opened s tA (.mma 0 0 1 1)) tA 1) = false :=
  ⟨issues_of (by decide), by decide⟩

theorem witness_Accumulators : Issues sA tA (.aczero 1) ∧ MatRoom (opened sA tA (.aczero 1)) ∧ Issues sA tA (.acld 0 3 0) ∧
    Issues sA tA (.acst 1 3 0) ∧ ((opened sA tA (.acst 1 3 0)).core 0).toWrite 9 = false ∧ Issues sA tA (.accvt 1 3 0) ∧
    (tileAt (opened sA tA (.accvt 1 3 0)) tA 3).cols ≤ 128 ∧ Issues sA tA (.acadd 0 0 1) :=
  ⟨issues_of (by decide), (by decide : (_ : Nat) < 4), issues_of (by decide), issues_of (by decide), by decide, issues_of (by decide), by decide,
    issues_of (by decide)⟩

/-- A core with stream 2 in a state. -/
def sStream (st : StreamState) (store : Bool) : State :=
  sA.setCore 0 { sA.core 0 with streams := [(2, { state := st, store, size := 4, dims := 1, counts := [4], strides := [4] })] }

theorem witness_StreamMembers : Issues sA tA (.sbind 5 2) ∧ (((opened sA tA (.sbind 5 2)).core 0).stream 2).bound = none ∧
    (streamSpec tA {} 1 (.sbind 5 2)).isSome = true ∧ streamFor ((opened sA tA (.sbind 5 2)).core 0) 1 5 = none ∧
    Issues (sStream .configured false) tA (.sgo 2) ∧ (streamSpec tA (((sStream .configured false).core 0).stream 2) 1 (.sgo 2)).isSome = true ∧
    Issues sA tA (.sstop 2) ∧ (((opened sA tA (.sstop 2)).core 0).stream 2).state = .unconfigured ∧
    Issues (sStream .running true) tA (.ssync 2) ∧ (((opened (sStream .running true) tA (.ssync 2)).core 0).stream 2).state = .running ∧
    (((opened (sStream .running true) tA (.ssync 2)).core 0).stream 2).store = true :=
  ⟨issues_of (by decide), by decide, by decide, by decide, issues_of (by decide), by decide, issues_of (by decide), by decide,
    issues_of (by decide), by decide, by decide⟩

/-- A core whose stream 2 is bound to register 5 of a slot. -/
def sBound (slot : Nat) : State := sA.setCore 0 { sA.core 0 with streams := [(2, { bound := some (slot, 5) })] }

/-- A stream of another slot, a register that the stream is bound to already, and one that another stream is bound to. -/
theorem witness_StreamMembers_bound : Issues (sBound 2) tA (.sstop 2) ∧ (((opened (sBound 2) tA (.sstop 2)).core 0).stream 2).bound = some (2, 5) ∧
    Issues (sBound 2) tA (.scfg 1 2 3 2) ∧ Issues (sBound 1) tA (.sbind 5 2) ∧
    (((opened (sBound 1) tA (.sbind 5 2)).core 0).stream 2).bound = some (1, 5) ∧
    streamFor ((opened (sBound 1) tA (.sbind 5 2)).core 0) 1 5 = some 2 ∧ Issues (sBound 1) tA (.sbind 5 3) ∧
    streamFor ((opened (sBound 1) tA (.sbind 5 3)).core 0) 1 5 = some 2 ∧ streamFor ((opened (sBound 1) tA (.sbind 6 2)).core 0) 1 6 = none :=
  ⟨issues_of (by decide), by decide, issues_of (by decide), issues_of (by decide), by decide, by decide, issues_of (by decide), by decide, by decide⟩

theorem witness_StreamMembers_advance : ({} : Stream).pos ≤ ({} : Stream).total := by decide

/-- A copy of 128 bytes from the start of device memory to the scratchpad, and one of no bytes. -/
theorem witness_Copies : let t : Thread := tThread [(9, 128)]
    let s := tState 0 t
    let i : Instr := .cpy 9 3 0 2 0
    Issues s t i ∧ (match decodeCopy (opened s t i) (consume t (usesOf i)) 0 128 with
      | some q => copyCheck (opened s t i) (consume t (usesOf i)) { q with
          loc := s.cur, handle := s.handleOf s.cur, launch := t.launch, rcb := t.rcb, reg := 9, src := t.c 2, dst := t.c 3
          srcAddr := 0, dstAddr := 0, banks := bankDescs (s.cluster 0), asid := t.asid, crewId := t.crewId } == none && q.count == 128
      | none => false) = true ∧ ((opened s t i).cluster 0).copies.length < 16 :=
  ⟨issues_of (by decide), by decide, by decide⟩

theorem witness_Copies_empty : let i : Instr := .cpy 9 3 0 2 0
    Issues sA tA i ∧ (decodeCopy (opened sA tA i) (consume tA (usesOf i)) 0 (tA.s 9)).map CopyCmd.count = some 0 :=
  ⟨issues_of (by decide), by decide⟩


/-- The pieces of a span lie in it. -/
theorem cuts_bound (addr cut fuel off n m : Nat) (h : off + n ≤ m) : ∀ p ∈ cutsFrom addr cut fuel off n, p.1 + p.2 ≤ m := by
  induction fuel generalizing off n with
  | zero => intro p hp; simp [cutsFrom] at hp
  | succ fuel ih =>
    intro p hp
    unfold cutsFrom at hp
    split at hp
    · simp at hp
    · rw [List.mem_cons] at hp
      obtain rfl | hp := hp
      · exact Nat.le_trans (Nat.add_le_add_left (Nat.min_le_left _ _) _) h
      · exact ih _ _ (by omega) p hp

/-- Every byte of the first 64 KiB of the scratchpad can be reached through `c3`. -/
theorem pad_ok (s : State) (hs : s.cluster 0 = sA.cluster 0) (perm : BitVec 8) (need : Need) (hp : (tA.c 3).can perm = true) (off n : Nat)
    (h : off + n ≤ 65536) : memCheck s { core := 0, slot := 1 } tA (tA.c 3) ((0 + off : Nat) : Int) n 1 perm need = .ok (.scratch 0 (0 + off)) := by
  have h1 : capCheck (tA.c 3) ((0 + off : Nat) : Int) n perm = none := by
    have hb : (tA.c 3).base = 0 := by decide
    have hl : (tA.c 3).len = 0x100000 := by decide
    have ht : (tA.c 3).tag = true := by decide
    simp only [capCheck, hb, hl, ht, hp, Bool.not_true, Bool.false_eq_true, if_false]
    rw [if_neg]
    simp only [Bool.or_eq_true, decide_eq_true_eq, not_or]
    omega
  have h2 : (tA.c 3).space = 1 := by decide
  have h3 : isVisitor s { core := 0, slot := 1 } tA = false := by
    rw [show isVisitor s { core := 0, slot := 1 } tA = isVisitor sA { core := 0, slot := 1 } tA by simp only [isVisitor]; rw [show clusterOf 0 = 0 from rfl, hs]]
    decide
  have h4 : (s.cluster 0).padSize = 1048576 := by rw [hs]; decide
  have h5 : clusterOf 0 = 0 := rfl
  simp only [memCheck, h1, h2, h3, h4, h5]
  rw [if_neg (by decide), if_neg (by simp [Nat.mod_one]), if_pos (by decide), if_neg (by decide), if_neg (by omega)]
  rfl

/-- Pieces that can all be reached can be reached together. -/
theorem pieces_ok {s : State} {l : Loc} {t : Thread} {c : Cap} {addr : Nat} {perm : BitVec 8} {need : Need} (ps : List (Nat × Nat))
    (h : ∀ p ∈ ps, ∃ pl, memCheck s l t c (addr + p.1 : Nat) p.2 1 perm need = .ok pl) :
    ∃ qs, piecePlaces s l t c addr perm need ps = .ok qs := by
  have hn : ((ps.map fun p => (p, memCheck s l t c (addr + p.1 : Nat) p.2 1 perm need)).filterMap fun r => Machine.failure r.2) = [] := by
    rw [List.filterMap_eq_nil_iff]
    intro r hr
    obtain ⟨p, hp, rfl⟩ := List.mem_map.mp hr
    obtain ⟨pl, hpl⟩ := h p hp
    simp only [hpl, Machine.failure]
  simp only [piecePlaces, hn, firstStop, List.foldl_nil]
  exact ⟨_, rfl⟩

/-- An accumulator's span in the scratchpad can be reached. -/
theorem accSpan_ok (s : State) (hl : s.cur = { core := 0, slot := 1 }) (hs : s.cluster 0 = sA.cluster 0) (perm : BitVec 8) (need : Need)
    (hp : (tA.c 3).can perm = true) (g : Bool) : ∃ ps, accSpan s tA 3 0 perm need g = .ok ps := by
  have ha : memAddr tA 3 0 0 = 0 := by decide
  have hb : (tA.c 3).base = 0 := by decide
  have hn : (tA.c 3).len = 0x100000 := by decide
  have ht : (tA.c 3).tag = true := by decide
  have hc : capCheck (tA.c 3) 0 65536 perm = none := by
    simp [capCheck, hb, hn, ht, hp]
  have h4 : (s.cluster 0).padSize = 1048576 := by rw [hs]; decide
  have h5 : clusterOf 0 = 0 := rfl
  unfold accSpan
  simp only [ha, spanCheck, show ((3 : BitVec 4).toNat) = 3 from rfl, hc, hl, h4, h5]
  rw [if_neg (by decide), if_neg (by simp)]
  exact pieces_ok _ fun p hp' => ⟨_, pad_ok s hs perm need hp p.1 p.2 (by
    have := cuts_bound _ _ _ 0 65536 65536 (by omega) p hp'; exact this)⟩

theorem witness_Accumulators_span :
    (∃ ps, accSpan (opened sA tA (.acld 0 3 0)) tA 3 0 permR { r := true } false = .ok ps) ∧
    ∃ ps, accSpan (opened sA tA (.acst 1 3 0)) tA 3 0 permW { w := true } true = .ok ps :=
  ⟨accSpan_ok _ rfl (by decide) _ _ (by decide) _, accSpan_ok _ rfl (by decide) _ _ (by decide) _⟩


/-- A machine with some numbers written to its memory: address, bytes, value. -/
def withMem (s : State) (xs : List (Nat × Nat × Nat)) : State := { s with mem := xs.foldl (fun m x => storeBytes m x.1 x.2.1 x.2.2) s.mem }

/-- A token block at 0x2000000 without side tables, of pages of 16 tokens, with a checkpoint, and a vocabulary of 300 tokens, of which
the control range is 290 to 299, at 0x3000000 (R220, R224). -/
def sSeq : State :=
  { withMem sA [(0x2000005, 1, 2), (0x2000502, 2, 16), (0x2000500, 1, 0xFF), (0x2000501, 1, 0xFF), (0x2000508, 1, 0xFF), (0x20001CC, 1, 0xFF),
      (0x3000000, 4, 300), (0x3000004, 4, 1), (0x3000028, 4, 290), (0x300002C, 4, 299)] with svocab := 0x3000000 }

/-- What a fit block holds that the witnesses need. -/
def blockFacts (o : Opened) : Bool :=
  flagF o.b 1 && !flagF o.b 2 && o.v.valid && o.v.ntok == 300 && posF o.b == 0 && stateF o.b == 0 && getF o.b 0x500 1 == 0xFF &&
    getF o.b 0x501 1 == 0xFF && getF o.b 0x508 1 == 0xFF && getF o.b 0x1CC 1 == 0xFF && getF o.b 0x504 4 == 0 && getF o.b 0x06 2 == 0 &&
    getF o.b 0x14 4 == 0

/-- The block of `sSeq` is fit, for a member that refuses every state that any member refuses. -/
theorem sSeq_block : (match openBlock (settled sSeq tA (.tkforce 5 4)) tA (.tkforce 5 4) 4 { stopped := true, faulted := true } with
    | .ok o => blockFacts o
    | .error _ => false) = true := by decide +kernel

/-- A member that refuses fewer states finds the block as well. -/
theorem openBlock_of {s : State} {t : Thread} {i : Instr} {c : BitVec 4} {o : Opened}
    (h : openBlock s t i c { stopped := true, faulted := true } = .ok o) (j : Instr) (r : Refuses) : openBlock s t j c r = .ok o := by
  unfold openBlock at h ⊢
  split at h
  · cases h
  · simp only [Option.bind_none] at h ⊢
    split at h
    · cases h
    · next hb =>
      rw [if_neg]
      · exact h
      · simp only [Bool.or_eq_true, Bool.and_eq_true, Bool.not_eq_true', not_or, not_and, true_and] at hb ⊢
        exact ⟨⟨hb.1.1, fun _ => hb.1.2⟩, fun _ => hb.2⟩

/-- A member without sync sources finds the block of `sSeq` fit. -/
theorem sSeq_opens (i : Instr) (hi : consume tA (usesOf i) = tA) (r : Refuses) :
    ∃ o, openBlock (settled sSeq tA i) tA i 4 r = .ok o ∧ blockFacts o = true := by
  have h := sSeq_block
  have hs : settled sSeq tA i = settled sSeq tA (.tkforce 5 4) := by
    unfold settled opened; rw [hi]; rfl
  rw [hs]
  split at h
  · next o ho => exact ⟨o, openBlock_of ho i r, h⟩
  · cases h

theorem witness_SequenceBlock_reads : Issues sSeq tA (.tkforce 5 4) ∧ Room tA 5 ∧
    (∃ o, openBlock (settled sSeq tA (.tkforce 5 4)) tA (.tkforce 5 4) 4 {} = .ok o ∧ (seqReadSpec tA o.b (.tkforce 5 4)).isSome = true) :=
  ⟨issues_of (by decide), .inr (by decide), (sSeq_opens (.tkforce 5 4) (by decide) _).imp fun _ h => ⟨h.1, rfl⟩⟩

theorem witness_SequenceBlock_writes : Issues sSeq tA (.tkdraw 5 0 4) ∧
    (∃ o, openBlock (settled sSeq tA (.tkdraw 5 0 4)) tA (.tkdraw 5 0 4) 4 { faulted := true } = .ok o ∧
      getF o.b (if flagF o.b 0 then 0x2C4 else 0x14) 4 < 0xFFFFFFFD ∨ (tA.s 0).toNat % 4 = 0) :=
  ⟨issues_of (by decide), (sSeq_opens (.tkdraw 5 0 4) (by decide) { faulted := true }).imp fun _ _ => .inr rfl⟩

theorem witness_SequenceBlock_draws : Issues sSeq tA (.rndv 5 0 4) ∧ (drawSpec (.rndv 5 0 4)).isSome = true ∧
    (∃ o, openBlock (settled sSeq tA (.rndv 5 0 4)) tA (.rndv 5 0 4) 4 { faulted := true } = .ok o) ∧
    (writeVector (settled sSeq tA (.rndv 5 0 4)) 5 0).toBool = true :=
  ⟨issues_of (by decide), rfl, (sSeq_opens (.rndv 5 0 4) (by decide) _).imp fun _ h => h.1, by decide⟩

theorem witness_SequenceBlock_mask : Issues sSeq tA (.tkmask 5 0 4) ∧ isLoadBound (settled sSeq tA (.tkmask 5 0 4)) 5 = false ∧
    (∃ o, openBlock (settled sSeq tA (.tkmask 5 0 4)) tA (.tkmask 5 0 4) 4 { faulted := true } = .ok o ∧ flagF o.b 2 = false) ∧
    vectorsOk (settled sSeq tA (.tkmask 5 0 4)) [5] 5 = true :=
  ⟨issues_of (by decide), by decide, (sSeq_opens (.tkmask 5 0 4) (by decide) _).imp fun _ h => ⟨h.1, by simp_all [blockFacts]⟩, by decide⟩

theorem witness_SequenceTokens_commit : Issues sSeq tA (.tkcommit 5 6 0 4) ∧ Room tA 5 ∧
    (∃ o, openBlock (settled sSeq tA (.tkcommit 5 6 0 4)) tA (.tkcommit 5 6 0 4) 4 { stopped := true, faulted := true } = .ok o ∧
      6 < o.v.ntok ∧ posF o.b ≠ 0xFFFFFFFF ∧ stateF o.b ≠ 2 ∧ getF o.b 0x508 1 = 0xFF ∧ getF o.b 0x1CC 1 = 0xFF) :=
  ⟨issues_of (by decide), .inr (by decide), (sSeq_opens (.tkcommit 5 6 0 4) (by decide) _).imp fun _ h => ⟨h.1, by simp_all [blockFacts]⟩⟩

theorem witness_SequenceTokens_truncate : Issues sSeq tA (.tktrunc 5 6 4) ∧
    (∃ o, openBlock (settled sSeq tA (.tktrunc 5 6 4)) tA (.tktrunc 5 6 4) 4 {} = .ok o ∧
      flagF o.b 1 = true ∧ getF o.b 0x501 1 = 0xFF ∧ getF o.b 0x508 1 = 0xFF) ∧ (tA.s 6).toNat % 2 ^ 32 ≤ 0xFFFFFFFD :=
  ⟨issues_of (by decide), (sSeq_opens (.tktrunc 5 6 4) (by decide) _).imp fun _ h => ⟨h.1, by simp_all [blockFacts]⟩, by decide⟩

/-- The child's block of a fork, which nothing has written. -/
theorem witness_SequenceTokens_fork : Issues sSeq tA (.tkfork 5 2 4) ∧
    (∃ o, openBlock (settled sSeq tA (.tkfork 5 2 4)) tA (.tkfork 5 2 4) 4 { faulted := true } = .ok o ∧
      getF o.b 0x504 4 = 0 ∧ posF o.b = 0 ∧ getF o.b 0x1CC 1 = 0xFF ∧ getF o.b 0x06 2 ≠ 0xFFFF) ∧
    (blockPlaces (settled sSeq tA (.tkfork 5 2 4)) tA (tA.c 2)).toBool = true ∧ (tA.c 2).base ≠ (tA.c 4).base :=
  ⟨issues_of (by decide), (sSeq_opens (.tkfork 5 2 4) (by decide) _).imp fun _ h => ⟨h.1, by simp_all [blockFacts]⟩, by decide +kernel, by decide⟩

theorem witness_TextMembers : let i : Instr := .tkenc 0 2 2 4
    let j : Instr := .tkdec 0 2 2 0 4
    Issues sSeq tA i ∧ Room tA 0 ∧ bitsOf (tA.s 0) 31 0 ≤ 65536 ∧
    (∃ o, openBlock (settled sSeq tA i) tA i 4 {} = .ok o ∧ o.v.valid = true) ∧
    (textSpan (settled sSeq tA i) tA (tA.c 2) 0 1 permR { r := true }).toBool = true ∧
    (textSpan (settled sSeq tA i) tA (tA.c 2) 0 4 permW { w := true }).toBool = true ∧ Issues sSeq tA j :=
  ⟨issues_of (by decide), .inl rfl, by decide, (sSeq_opens (.tkenc 0 2 2 4) (by decide) _).imp fun _ h => ⟨h.1, by simp_all [blockFacts]⟩, by decide, by decide,
    issues_of (by decide)⟩

theorem witness_NetworkReductions : Issues sA tA (.nadd 5 6 3) ∧ (nredSpec (.nadd 5 6 3)).isSome = true ∧
    ((sA.core 0).bar 3).unfilled.length < 2 ∧ ((sA.core 0).bar 3).rank = 0 ∧
    (let s := sA.setCore 0 { sA.core 0 with bars := [(3, { p := 2, rank := 1 })] };
      Issues s tA (.nadd 5 6 3) ∧ ((s.core 0).bar 3).unfilled.length < 2 ∧ ((s.core 0).bar 3).rank ≠ 0) :=
  ⟨issues_of (by decide), by decide, by decide, by decide, issues_of (by decide), by decide, by decide⟩

/-- A forest of two elements with no log, its descriptor at 0x2000000, its arrays named by entries 0 and 1 of the table at
0x2100000. -/
def tForest : Thread := { tA with caps := tA.caps ++ [(15, Cap.mk' 0x2100000 0x100 0xFF 0 0 true)] }
def sForest : State :=
  { withMem (tState 0 tForest) [(0x2000000, 4, 0xFF0100), (0x2000004, 4, 2), (0x2000010, 4, 2), (0x2100000, 16, (Cap.mk' 0x2200000 0x100 0xFF 0 0 true).bits.toNat),
      (0x2100010, 16, (Cap.mk' 0x2200100 0x100 0xFF 0 0 true).bits.toNat), (0x2200004, 4, 1), (0x2200100, 4, 1), (0x2200104, 4, 1)] with
    memTags := [(0x210000, true), (0x210001, true)] }

/-- A member of the Lichen unit finds its forest fit. -/
def forestB (i : Instr) (p : Forest → Bool) : Bool :=
  match openForest (settled sForest tForest i) (consume tForest (usesOf i)) i 4 (fun _ => false) with
  | .ok f => p f
  | .error _ => false

theorem witness_ForestMembers : let i : Instr := .eqfind 5 1 4
    Issues sForest tForest i ∧ Room tForest 5 ∧ forestB i (fun f => f.n == 2 && !notOwner (settled sForest tForest i) f &&
      (forestSpec (settled sForest tForest i) (consume tForest (usesOf i)) f i).isSome) = true :=
  ⟨issues_of (by decide), .inr (by decide), by decide +kernel⟩

theorem witness_ForestMembers_unite : let i : Instr := .equnite 5 0 1 4
    Issues sForest tForest i ∧ forestB i (fun f => (forestSpec (settled sForest tForest i) (consume tForest (usesOf i)) f i).isSome) = true :=
  ⟨issues_of (by decide), by decide +kernel⟩

theorem witness_ForestMembers_init : let i : Instr := .eqinit 1 4
    Issues sForest tForest i ∧ (tForest.s 1).toNat < 2 ∧ forestB i (fun _ => true) = true :=
  ⟨issues_of (by decide), by decide, by decide +kernel⟩

theorem witness_ForestMembers_reduce : let i : Instr := .eqreduce 1 2 2 4
    Issues sForest tForest i ∧ reduceBad (tForest.s 1) = false ∧ forestB i (fun f =>
      arrayCheck (settled sForest tForest i) tForest (tForest.c 2) (4 * f.n) 4 permR { r := true } == none &&
      arrayCheck (settled sForest tForest i) tForest (tForest.c 2) (4 * f.n) 4 permW { w := true } == none && !bitOf (tForest.s 1) 4) = true :=
  ⟨issues_of (by decide), by decide, by decide +kernel⟩

theorem witness_Levels : Issues sA tA (.syscall 6 4 5 3) ∧ isPair sA.cur.core = false ∧ outbound (opened sA tA (.syscall 6 4 5 3)) 0 < 8 ∧
    Issues sP tP (.syscall 0 4 5 3) ∧ isPair sP.cur.core = true ∧ tP.priv ≠ 2 ∧
    Issues sP tP .eret ∧ transferCheck (opened sP tP .eret) tP tP.sepc = none ∧
    Issues sM tM .eret ∧ transferCheck (opened sM tM .eret) tM tM.mepc = none :=
  ⟨issues_of (by decide), by decide, by decide, issues_of (by decide), by decide, by decide, issues_of (by decide), by decide,
    issues_of (by decide), by decide⟩

theorem witness_SystemMembers : Issues sP tP (.halt 5 0 1) ∧ (sysSpec (opened sP tP (.halt 5 0 1)) (consume tP (usesOf (.halt 5 0 1))) (.halt 5 0 1)).isSome = true ∧
    Issues sP tP (.halt 5 0 0) ∧ Issues sP tP (.harvest 5 0 0) ∧
    (sysSpec (opened sP tP (.harvest 5 0 0)) (consume tP (usesOf (.harvest 5 0 0))) (.harvest 5 0 0)).isSome = true ∧
    Issues sP tP (.xinv 5 0 0 2) ∧ (sysSpec (opened sP tP (.xinv 5 0 0 2)) (consume tP (usesOf (.xinv 5 0 0 2))) (.xinv 5 0 0 2)).isSome = true ∧
    Issues sM tM (.keyclr 5 0) ∧ (sysSpec (opened sM tM (.keyclr 5 0)) (consume tM (usesOf (.keyclr 5 0))) (.keyclr 5 0)).isSome = true ∧
    Issues sP tP (.spillrpl 5 0 0) ∧ (sysSpec (opened sP tP (.spillrpl 5 0 0)) (consume tP (usesOf (.spillrpl 5 0 0))) (.spillrpl 5 0 0)).isSome = true ∧
    Issues sP tP (.wake 5) ∧ Issues sP tP (.wakePg 5) :=
  ⟨issues_of (by decide), by decide, issues_of (by decide), issues_of (by decide), by decide, issues_of (by decide), by decide,
    issues_of (by decide), by decide, issues_of (by decide), by decide, issues_of (by decide), issues_of (by decide)⟩

theorem witness_SystemMembers_keyset : let i : Instr := .keyset 5 0 4
    Issues sM tM i ∧ bitsOf (tM.s 0) 63 7 = 0 ∧ bitOf (tM.s 0) 6 = false ∧ capCheck (tM.c 4) (tM.c 4).base 128 permR = none ∧
    (tM.c 4).space = 0 ∧ (memCheck (opened sM tM i) sM.cur tM (tM.c 4) (tM.c 4).base 128 128 permR { r := true }) =
      .ok (.device 0 0x2000000 0x2000000 0 0x21F) ∧
    (opened sM tM i).loadNat sM.myPath (.device 0 0x2000000 0x2000000 0 0x21F) 128 < 2 ^ 896 :=
  ⟨issues_of (by decide), by decide, by decide, by decide, by decide, by decide, by decide +kernel⟩


/-- A helper's token under way to register 5 of the thread of `sA`, and the step about it. -/
def sNet (b : Body) : State := { sA with net := [{ dest := 0, src := {}, launch := 0, body := b }] }

theorem witness_Deliveries : (netSpec .helperTokenDelivery).isSome = true ∧ (sNet (.token 1 5 7)).net[(sNet (.token 1 5 7)).cue.a]?.isSome = true ∧
    inOrder (sNet (.token 1 5 7)) 0 { dest := 0, src := {}, launch := 0, body := .token 1 5 7 } = true ∧
    (netSpec .messageArrival).isSome = true ∧ inOrder (sNet (.message 0 [])) 0 { dest := 0, src := {}, launch := 0, body := .message 0 [] } = true := by
  decide

theorem witness_Deliveries_routed : routeHandle (tState 4096 tA) 0x80010000 0 = .thread { core := 4096, slot := 1 } ∧
    replaying (tState 4096 tA) 4096 = false ∧ ((tState 4096 tA).thread { core := 4096, slot := 1 }).isClaimed 5 = false :=
  ⟨rfl, by decide, by decide⟩

theorem witness_Deliveries_held :
    (placeArrival ((sA.setCore 0 { sA.core 0 with held := [] }).setCluster 0 (sA.cluster 0)) 0
      { dest := 0, src := {}, launch := 0, body := .message 0 [1] }).isSome = true ∧
    (let t : Thread := { tA with wait := some (.start 0x1200000 3 5) }
      let s := (tState 0 t).setCore 0 { (tState 0 t).core 0 with startq := [1] };
      (s.core s.cue.a).startq = [1] ∧ (s.thread { core := s.cue.a, slot := 1 }).wait = some (.start 0x1200000 3 5) ∧
        helperRoom s s.cue.a = some 2) ∧
    (let t : Thread := { tA with vallot := 0, wait := some (.vgrow 32) }
      let s := (tState 0 t).setCore 0 { (tState 0 t).core 0 with vgrowq := [1] };
      (s.core s.cue.a).vgrowq = [1] ∧ (s.thread { core := s.cue.a, slot := 1 }).wait = some (.vgrow 32) ∧ 32 ≤ freeVectors s s.cue.a) :=
  ⟨by decide, ⟨rfl, rfl, by decide⟩, ⟨rfl, rfl, by decide⟩⟩

theorem witness_Completions :
    (let t : Thread := { tA with holds := [{ reg := 3, value := 42 }] }
      let s := { tState 0 t with cue := { b := 1 } };
      ((s.thread { core := s.cue.a, slot := s.cue.b }).holds.filter fun h => h.due.isNone)[s.cue.c]? = some { reg := 3, value := 42 }) ∧
    (let m : Multicast := { handle := 0, reg := 5, loc := {}, launch := 0, rcb := 0, status := 0x10000, crewId := 0, epc := 0 };
      ({ sA with multis := [m] } : State).multis[sA.cue.a]? = some m ∧ bitsOf m.status 15 8 = 0) :=
  ⟨rfl, rfl, rfl⟩

theorem witness_Completions_sfu : let t : Thread := { tA with wait := some .sfu }
    let q : SfuReq := { loc := { core := 0, slot := 1 } }
    let s := (tState 0 t).setCluster 0 { (tState 0 t).cluster 0 with sfu := [q] }
    (s.cluster s.cue.a).sfu = [q] ∧ q.wait = none ∧ (s.thread q.loc).wait = some .sfu ∧ (s.slot q.loc).gen = q.gen :=
  ⟨rfl, rfl, rfl, rfl⟩

theorem witness_Completions_matrix : let o : MatOp := { loc := { core := 0, slot := 1 }, writes := [.acc 0 1] }
    let s := sA.setCore 0 { sA.core 0 with matq := [o] }
    (s.core s.cue.a).matq[s.cue.b]? = some o ∧ canComplete (s.core s.cue.a) s.cue.b = true :=
  ⟨rfl, by decide⟩

theorem witness_Completions_units :
    (let q : CopyCmd := { loc := { core := 0, slot := 1 } }
      let s := sA.setCluster 0 { sA.cluster 0 with copies := [q] };
      (s.cluster s.cue.a).copies[s.cue.b]? = some q ∧ q.wait = none ∧ (s.core (4096 + s.cue.a)).hart.stopped = false) ∧
    (let q : LichenCmd := { loc := { core := 0, slot := 1 } }
      let s := sA.setCluster 0 { sA.cluster 0 with lichen := [q] };
      (s.cluster s.cue.a).lichen[s.cue.b]? = some q ∧ q.wait = none ∧ q.opened = true ∧ q.reduce = false ∧ { q with reduce := true }.reduce = true) :=
  ⟨⟨rfl, rfl, by decide⟩, ⟨rfl, rfl, rfl, rfl, rfl⟩⟩

theorem witness_Completions_system : let p (op : SysOp) : Pending := { handle := 0, reg := 5, op }
    (∀ op, ({ sA with pending := [p op] } : State).pending[sA.cue.a]? = some (p op)) ∧
    (sysEndSpec sA (.halt [4]) .haltCompletion).isSome = true ∧ (sysEndSpec sA (.harvest 0 0 1) .harvestCompletion).isSome = true ∧
    (sysEndSpec sA (.xinv { mode := 2 }) .xinvCompletion).isSome = true ∧ (sysEndSpec sA (.keyclr 0) .keyclrCompletion).isSome = true ∧
    ringFor sA 0 4 = none ∧ (let s := sA.setCore 0 { sA.core 0 with spills := [{}] }; (ringFor s 0 4).isSome ∨ ringFor s 0 4 = none) :=
  ⟨fun _ => rfl, by decide, by decide, by decide, by decide, by decide, by decide⟩

theorem witness_UnitSteps :
    (let s := sA.setCluster 0 { sA.cluster 0 with switch := some {} };
      (s.cluster s.cue.a).switch = some {} ∧ (s.cluster s.cue.a).copies.any CopyCmd.onPad = false ∧
        (s.path s.cue.a).any (fun p => p.space == .scratch s.cue.a) = false) ∧
    (let t : Thread := { tA with wait := some (.route 3 64 0 false) }
      let s := { tState 0 t with cue := { b := 1 }, now := 10000000 };
      (s.thread { core := s.cue.a, slot := s.cue.b }).wait = some (.route 3 64 0 false) ∧ 0 + 10000000 ≤ s.now) ∧
    (isCopyHart 4096 = true ∧ sA.mappedOut 4096 = false ∧ (sA.core 4096).hart.running = false) :=
  ⟨⟨rfl, by decide, by decide⟩, ⟨rfl, by decide⟩, by decide, by decide, by decide⟩

/-- A region whose watchdog limit (R336), in microseconds, is 1. -/
theorem witness_UnitSteps_watchdog :
    let t : Thread := { tA with rcb := 0x2000000 }
    let s := { withMem (tState 0 t) [(0x2000000 + 0x3C, 4, 1)] with sroot := 0x2000000, now := 1000, cue := { b := 1 } }
    s.thread? { core := s.cue.a, slot := s.cue.b } = some t ∧ isPair s.cue.a = false ∧ eff s t.rcb 9 0x3C 4 = 1 ∧ t.retired + 1000 ≤ s.now :=
  ⟨rfl, by decide, by decide, by decide⟩

theorem witness_UnitSteps_stores : let x : PStore := { space := .scratch 0, addr := 0, size := 8, value := 7 }
    let s := { sA with stores := [(0, [x])] }
    (storeStepSpec s .storePerformed).isSome = true ∧ (s.path s.cue.a)[s.cue.b]? = some x ∧ canPerform s s.cue.a s.cue.b = true ∧
      x.group = none ∧ x.whole = false :=
  ⟨rfl, rfl, by decide, rfl, rfl⟩

theorem witness_RegionSteps_request : let s := { withMem sA [(0x200001F, 1, 2)] with sroot := 0x2000000, cue := { a := 0x2000000 } }
    (requestSpec s.cue.a .killRequest).isSome = true ∧ isRegion s s.cue.a = true ∧ s.rcb s.cue.a 0x1F 1 = 2 :=
  ⟨rfl, by decide +kernel, by decide⟩

theorem witness_RegionSteps_save : let c : Crew := { preempt := true }
    let s := sA.setCluster 0 { sA.cluster 0 with crew := some c }
    isCompute s.cue.a = true ∧ (s.cluster (clusterOf s.cue.a)).crew = some c ∧ c.saved.contains (sideOf s.cue.a) = false ∧
      (s.core s.cue.a).intr = false ∧
      (let u := s.setCore 0 { s.core 0 with intr := true };
        (u.core u.cue.a).intr = true ∧ drained u u.cue.a (c.saved.length = 3) = true) :=
  ⟨by decide, rfl, by decide, by decide, rfl, by decide⟩

theorem witness_ScheduleSteps_record : let s := withMem sA [(0x80008, 1, 1), (0x80010, 4, 1)]
    dispatchOn s = true ∧ queueOk s s.cue.a = true ∧ queueField s s.cue.a 0x0C 4 ≠ queueField s s.cue.a 0x10 4 ∧
      s.phys (queueField s s.cue.a 0 8 + 64 * (queueField s s.cue.a 0x0C 4 % 2 ^ queueField s s.cue.a 0x08 1) + 0x20) 4 = queueField s s.cue.a 0x0C 4 := by
  decide +kernel

theorem witness_ScheduleSteps_candidate : let l : Launch := {}
    let s := { sA with launches := [l] }
    s.launches[s.cue.a]? = some l ∧ l.state = .waiting ∧ l.killed = false ∧ l.timed = false ∧ l.started = false ∧ dependence s l.depa = some true ∧ dependence s l.depb = some true ∧
      s.rcb l.rcb 0x1E 1 ∈ [0, 5, 6] ∧ firstOfRegion s s.cue.a l.rcb = true ∧
      (let u := withMem s [(0x2000000, 8, 4)]; dependence u 0x2000000 = some false) :=
  ⟨rfl, rfl, rfl, by decide, rfl, by decide, by decide, by decide, by decide, by decide⟩

theorem witness_ScheduleSteps_slot : let s := { withMem sA [(0x81008, 4, 10000)] with tbase := 0, tticks := 10000 }
    tticksOk s.tticks = true ∧ s.tbase + s.tslot * s.tticks ≤ s.ptp ∧ (latchHeader s).tbase = s.tbase ∧ (latchHeader s).tticks = s.tticks := by decide

theorem witness_ScheduleSteps_deferred : let d : Deferred := { entry := 0, slot := 0, window := 5 }
    let s := { sA with deferred := [d], tslot := 3, tlen := 4, tticks := 10000 }
    (s.deferred.find? fun d => d.entry == s.cue.a) = some d ∧ s.tslot ≤ d.window ∧ s.launches.any (extending s) = false ∧
      s.tlen ≠ 0 ∧ tticksOk s.tticks = true ∧ d.window < ({ s with tslot := 6 } : State).tslot ∧
    (let l : Launch := { queue := .inr 0, window := some 2 }
      let u := { sA with launches := [l], tslot := 3 }
      u.launches[u.cue.a]? = some l ∧ l.queue = .inr 0 ∧ l.window = some 2 ∧ 2 < u.tslot) :=
  ⟨rfl, by decide, by decide, by decide, by decide, by decide, rfl, rfl, rfl, by decide⟩

/-- The module once its links are up. -/
def sUp : State := { sA with bringup := 7 }

theorem witness_LinkSteps_lines : (mappedAt sUp 0 0x2000000).isSome = true ∧ mayHold sUp 0 0 = true ∧ (sUp.key 0).active = true ∧
    bitOf (0x21F : Word) 6 = false ∧ bitOf (0x21F : Word) 2 = true ∧
    (let l : Line := { dir := .exclusive 0, frame := 0x2000000 }
      let s := { sUp with lines := [(lineKey 0 0x2000000, l)], cue := { c := 0x40000 } };
      s.lines.find (lineKey s.cue.b (s.cue.c * 128)) = some l ∧ (mappedAt s s.cue.b (s.cue.c * 128)).isSome = true ∧ l.dir = .exclusive s.cue.a) :=
  ⟨by decide, by decide, by decide, by decide, by decide, rfl, by decide, rfl⟩

theorem witness_LinkSteps_hosts : let s := { sUp with cxls := [(0, { host := true, key := some 0 })], cue := { host := .load 0x2000000 8 } }
    hostPort s s.cue.a = true ∧ plainAccess 0x2000000 8 = true ∧ hostPage s 0x2000000 false = some (0x2000000, 0) ∧
      s.poisoned 0 0x2000000 0x2000000 0 = false ∧ hostPage s 0x2000000 true = some (0x2000000, 0) := by decide

theorem witness_LinkSteps_ports : linksUp sUp = true ∧ (portSpec sUp 71 (sUp.port 71) .fabricPacket).isSome = true ∧ (sUp.port 71).down = false ∧
    (let s := { sUp with unreach := [3], cue := { a := 3 } }; s.unreach.contains s.cue.a = true) := by decide

/-- One port with both its keys, which carries traffic. -/
def sFab : State := let x : Link := { keys := [some 0, none] }
  { sUp with ports := [(0, { links := [(0, x), (1, x)] })] }

/-- An address space 1 with the same tables: the system window's accesses reach it. Without a key nothing does. -/
theorem witness_LinkSteps_window : let s := { withMem sFab [(8, 8, 0x1000000)] with cue := { window := .load 0x2000000 8 0 } }
    fabricUp s = true ∧ (pageCheck s 1 0x2000000 0 { r := true }).toBool = true ∧ fabricUp sUp = false := by decide

theorem witness_LinkSteps_pairs : let s := (({ sUp with ptp := 6000000 } : State).setCore 2048 { sUp.core 2048 with started := true }).setCore 2049 { started := true }
    pairRuns s 0 = true ∧ (s.core (pairOf 0)).tick < s.ptp / 1000000 ∧ s.fenced = false ∧
      (let u := withMem s [(0x88012, 2, 2)];
        let v := u.setCore 2049 { started := true, overdue := true };
        pairRuns v 1 = true ∧ (v.fenced = false ∨ v.leader ≠ 1) ∧ online v 1 = true ∧ (v.core (pairOf 1)).overdue = true) ∧
      (let u := { s with fenced := true }; u.fenced = true ∧ u.leader = 0 ∧ (runningCores u).all (quiet u) = true) := by
  decide +kernel

theorem witness_TrustSteps : State.reset.powered = false ∧ healthyDies 0xFFF = [0, 1, 2, 3, 4, 5, 6, 7, 8, 9, 10, 11] ∧
    ({ sA with bringup := 4 } : State).bringup = 4 ∧ sA.powered = true ∧ monitorUp sUp = true ∧
    ({ sUp with identity := some 0 } : State).identity = some 0 ∧
    sUp.dbgctl = 0 ∧ (let s := { clearKey sUp 0 with dbgctl := 1, cue := { debug := .readMem 0 0x2000000 } };
      debugPlace s 0 0x2000000 = some (0x2000000, 0) ∧ s.poisoned 0 0x2000000 0x2000000 0 = false ∧ hiddenByte s 0x2000000 = false) := by
  decide +kernel

/-- A bundle that names the key of zeros as its owner's. -/
def trialBundle : Bundle := { image := List.replicate 0xD0 0 ++ (leBytes 48 (digest48 (keyBytes 0)).toNat ++ []) }

/-- A trial of that bundle, whose monitor has signed a quote for the nonce 7, and the owner's signature. -/
def sTrial : State :=
  { sUp with
    trialEnd := some 5, attest := some 7, banks := [(0, { bundle := trialBundle, trial := true })]
    cue := { key := 0, sig := Config.falconSignature 0 (leBytes 32 (7 : BitVec 256).toNat ++ leBytes 48 (bundleMeasure trialBundle).toNat) } }

theorem witness_TrustSteps_trial : sTrial.trialEnd = some 5 ∧ sTrial.attest = some 7 ∧ sTrial.now < 5 ∧
    digest48 (keyBytes sTrial.cue.key) = bundleVkeyh sTrial.bank.bundle ∧
    verifies sTrial.cue.key (leBytes 32 (7 : BitVec 256).toNat ++ leBytes 48 (bundleMeasure sTrial.bank.bundle).toNat) sTrial.cue.sig = true ∧
    5 ≤ ({ sTrial with now := 5 } : State).now := by
  refine ⟨rfl, rfl, by decide, ?_, verifies_own _ _, by decide⟩
  have h : bundleVkeyh trialBundle = digest48 (keyBytes 0) := by
    rw [bundleVkeyh, trialBundle, bundleField_after _ _ _ _ _ List.length_replicate, ofNat_fit _ 48 rfl]
  exact h.symm

theorem witness_TrustSteps_debug : let s (m : Nat) := { sUp with dbgReq := some (m, ({} : Loc)) }
    (s 1).dbgReq = some (1, {}) ∧ (s 0).dbgReq = some (0, {}) ∧ (s 2).dbgReq = some (2, {}) ∧
    (let u := State.setCluster (s 2) 0 { sUp.cluster 0 with crew := none }; toKill u = [] ∧ u.killing = []) ∧
    toKill { s 2 with sroot := 0x2000000 } ≠ [] := by decide

theorem witness_TrustSteps_power : let s (n : Nat) (w : Word) := sUp.setDie 0 { sUp.die 0 with dstate := n, power := some (w, {}) }
    ((s 0 0xF).die (s 0 0xF).cue.a).power = some (0xF, {}) ∧ ((s 0 0xF).die 0).dstate = bitsOf (0xF : Word) 33 32 ∧
      bitsOf (0x200000000 : Word) 33 32 = 2 ∧ ((s 0 0x200000000).die 0).dstate ≠ 2 ∧ ((s 2 0).die 0).dstate = 2 ∧ bitsOf (0 : Word) 33 32 = 0 ∧
      bitsOf (0x300000000 : Word) 33 32 = 3 := by decide

/-! The machine as a whole -/

theorem witness_StepRuns : let s := State.reset.withFetchWord 32 0x04610800
    (nextTurn s).1 = .core 0 ∧ agentOn (nextTurn s).2 0 = true ∧ ((nextTurn s).2.core 0).halted = false ∧
      pickSlot (marked (nextTurn s).2 0) 0 (readySlots (nextTurn s).2 0) = some 0 ∧
      (match (marked (nextTurn s).2 0).thread? { core := 0, slot := 0 } with
        | some t => match fetchWord { marked (nextTurn s).2 0 with cur := { core := 0, slot := 0 }, stalled := false } t t.pc with
          | .ok w => w == 0x04610800
          | .error _ => false
        | none => false) = true := by decide

theorem witness_StepRuns_pair : let s := State.reset.withFetchWord 64 0x88611600F9480000
    (match (marked (nextTurn s).2 0).thread? { core := 0, slot := 0 } with
      | some t => match fetchWord { marked (nextTurn s).2 0 with cur := { core := 0, slot := 0 }, stalled := false } t (t.pc + 4) with
        | .ok w => w == 0x88611600
        | .error _ => false
      | none => false) = true := by decide +kernel

theorem witness_StepRuns_fetchFails : let s := tStateAt { core := 0, slot := 0 } { tA with pc := 0x1300000 }
    (fetchWord s { tA with pc := 0x1300000 } 0x1300000).toBool = false := by decide +kernel

theorem witness_StepRuns_event : let s := { sA with turns := [.event .dieWake {}] };
    (nextTurn s).1 = .event .dieWake {} ∧ hasWord .dieWake = false := by decide +kernel

theorem witness_Fairness : (pickSlot sA 0 [1]).isSome = true ∧ ([1] : List Nat).Pairwise (· < ·) := by decide

theorem witness_MemoryKept : MemoryInv sA ∧ (match step (State.reset.withFetchWord 32 0x04610800) with | .next _ => true | _ => false) = true :=
  ⟨by unfold MemoryInv; decide, by decide⟩

theorem witness_PerformedStores_held : let s := { sA with lines := [(lineKey 0 0x2000000, { frame := 0x2000000 })] }
    (s.heldFor 0 0x2000000 0x2000000 0).isSome = true := by decide

theorem witness_PerformedStores : sA.line? 0 0x2000000 = none ∧ backed sA 0x2000000 = true ∧
    (sA.grants.filter fun x => x.1 == homeSlice 0x2000000).length < 4096 ∧ drupsUsed sA (keyHome (lineKey 0 0x2000000)) < 49152 ∧
    0x2000000 % 128 + 128 ≤ 128 := by decide

theorem witness_Exceptions : isPair sP.cur.core = true ∧ sP.me.priv ≠ 2 ∧ sP.me.intrap = false ∧ sM.me.priv = 2 ∧
    (tState 2048 { tP with intrap := true }).me.intrap = true ∧ sA.thread? sA.cur = some tA ∧ isPair sA.cur.core = false := by decide


/-- A region whose save area begins at 0x2100000 (R343), every die in its mask, its crew maximum 8; a launch of it. -/
def sRegion (l : Launch) : State :=
  { withMem sA [(0x2000030, 2, 0xFFF), (0x2000024, 4, 8), (0x2000060, 16, (Cap.mk' 0x2100000 0x400000 0xFF 0 0 true).bits.toNat),
      (0x2100000, 4, 1), (0x2200000, 4, 1), (0x2300000, 4, 1), (0x2400000, 4, 1), (0x80008, 1, 1)] with
    sroot := 0x2000000, launches := [l] }

theorem witness_RegionSteps_resumption : let l : Launch := { rcb := 0x2000000, savedOn := [(0, 0)], resuming := true }
    let s := { sRegion l with cue := { c := 1 } };
    s.launches[s.cue.a]? = some l ∧ (l.savedOn.find? fun x => x.1 == s.cue.b) = some (0, 0) ∧ l.resuming = true ∧ s.fenced = false ∧
      1 < 384 ∧ clusterFree s l 1 = true ∧ recordsValid s (effCap s l.rcb 13 0x60) 0 = true ∧ timedWaits s 1 = false :=
  ⟨rfl, rfl, rfl, by decide, by decide, by decide +kernel, by decide +kernel, by decide +kernel⟩

theorem witness_ScheduleSteps_placement : let s := sRegion { rcb := 0x2000000, state := .candidate, crews := 1, level := some 7 }
    dispatchOn s = true ∧ s.fenced = false ∧ placeableAt (clearCredits s) 7 = [0] := by decide +kernel

/-- The module at reset, its ROM holding the hash of the root key of zeros, with what power-on finds. -/
def sOff : State :=
  { State.reset with
    rootHash := (shake256 (keyBytes 0)).setWidth 256
    cue := { boot := { healthy := 0xFFF, pufOk := true, hostPorts := 0 } } }

theorem sOff_root : rootKeyOk sOff.rootHash 0 = true := by
  unfold rootKeyOk
  exact beq_self_eq_true _

theorem witness_TrustSteps_powerOn :
    let s1 := (List.range 12).foldl (fun s d => s.setDie d { s.die d with selftest := (0xFFF : BitVec 12).getLsbD d }) { sOff with powered := true }
    let s2 := mapOut { s1 with identity := some identitySeed }
    sOff.powered = false ∧ healthyDies sOff.cue.boot.healthy = [0, 1, 2, 3, 4, 5, 6, 7, 8, 9, 10, 11] ∧ sOff.cue.boot.pufOk = true ∧
      recordSigned sOff.rootHash sOff.record = true ∧ identityMatches identitySeed sOff.record = true ∧ bankToBoot s2 = some 0 ∧
      (s2.banks.find 0).isSome = true := by
  refine ⟨rfl, by decide, rfl, ?_, ?_, ?_, rfl⟩
  · exact (Bool.and_eq_true _ _).mpr ⟨sOff_root, factoryRecord_signed⟩
  · exact factoryRecord_identity
  have h (s : State) (hb : s.banks = [(0, { bundle := factoryBundle })]) (hr : s.rootHash = sOff.rootHash) (ha : s.active = 0)
      (hm : s.minver = 0) : bankToBoot s = some 0 := by
    have : bankOk s 0 = true := by
      rw [bankOk, hb, hr, hm]
      simp only [Tab.find, if_true, Bool.not_false, Bool.true_and, factoryBundle_ok _ sOff_root]
    simp [bankToBoot, ha, this]
  exact h _ rfl rfl rfl rfl


/-- A thread at the second word of a pair at its code's start, and the machine of it. -/
def sPair : State := withMem sA [(0x1200000, 4, 0xF9480000)]

theorem witness_Transfers_insidePair : Issues sPair tA (.jal 1) ∧ jumpSpec tA sPair.pred (.jal 1) = some (0x1200004, some 31) ∧
    (0x1200004 : Word).toNat % 4 = 0 ∧ insidePair (opened sPair tA (.jal 1)) (consume tA (usesOf (.jal 1))) 0x1200004 = true :=
  ⟨issues_of (by decide), by decide, by decide, by decide⟩

theorem witness_Levels_faults : let t : Thread := { tP with sepc := 0x1200004 }
    let s := withMem (tState 2048 t) [(0x1200000, 4, 0xF9480000)]
    let x : Thread := { tP with sepc := 2 }
    Issues s t .eret ∧ t.priv ≠ 2 ∧ t.sepc.toNat % 4 = 0 ∧ insidePair (opened s t .eret) t t.sepc = true ∧
      Issues (tState 2048 x) x .eret ∧ x.sepc.toNat % 4 ≠ 0 ∧ sA.thread? sA.cur = some tA ∧ tA.priv = 0 :=
  ⟨issues_of (by decide), by decide, by decide, by decide, issues_of (by decide), by decide, rfl, rfl⟩

/-- The crew's thread of `sA`. -/
theorem witness_InCrew : InCrew sA tA (.nadd 5 6 3) ∧ InCrew sT tA (.tld 2 2 0 7 0) ∧ InCrew sT tA (.tst 2 2 0 0) ∧ InCrew sA tA (.tzero 3 1) ∧
    InCrew sA tA (.ttrans 5 4) ∧ InCrew sA tA (.twrv 2 4 7) ∧ InCrew sA tA (.trdv 2 4 7) ∧ InCrew sA tA (.mma 0 0 1 1) ∧ InCrew sA tA (.aczero 1) ∧
    InCrew sA tA (.acld 0 3 0) ∧ InCrew sA tA (.acst 1 3 0) ∧ InCrew sA tA (.accvt 1 3 0) ∧ InCrew sA tA (.acadd 0 0 1) ∧
    tA.loadsStall = false ∧ tK.loadsStall = false := by
  unfold InCrew
  decide

/-- A conversion from FP32 to a scaled format under a prefix that names `v6` for its scales (R184). -/
def tNf : Thread := { tA with vnf := 2 }
def sNf : State := tState 0 tNf

theorem witness_Conversions_scaled : let px : Px := { vc := 6, uc := 1, len := 8 }
    let i : Instr := .vpack 3 1 0 6 7
    bsfOf (nfDesc sNf tNf) ≠ 0 ∧ Issues sNf tNf i px ∧ (∃ x, convSpec i = some x ∧
      (x.part (tyOf sNf tNf x.src) (tyOf sNf tNf x.dst) (bszOf (nfDesc sNf tNf))).isSome = true) ∧
    isLoadBound (opened sNf tNf i) 3 = false ∧ isLoadBound (opened sNf tNf i) 6 = false ∧ vectorsOk (opened sNf tNf i) [1, 3, 6] 6 = true ∧
    vectorsOk (opened sNf tNf i) [1, 3, 6] 3 = true :=
  ⟨by decide, issues_of (by decide), ⟨_, rfl, by decide⟩, by decide, by decide, by decide, by decide⟩

/-- The printed pair of R110 at its issue: the member under its prefix. -/
theorem witness_PrefixAndNoMember_pair : let t : Thread := { tA with masks := [(2, 5)] }
    let s := { tState 0 t with word := 0xF9480000, next := 0x88611600 }
    let px := prefixOf s.word
    let i := decodeWord s.next
    s.thread? s.cur = some t ∧ (vecSpec px i).isSome = true ∧ issuesB s t i px = true ∧ isLoadBound (opened s t i) 3 = false ∧
      vectorsOk (opened s t i) [1, 2, 3] 3 = true := by decide

/-- A command of the Lichen unit on a forest whose descriptor's page is absent. -/
theorem witness_ForestMembers_absent : let t : Thread := { tA with caps := [(4, Cap.mk' 0x40000000 0x1000 0xFF 0 0 true)] }
    let s := tState 0 t
    let i : Instr := .eqinit 1 4
    Issues s t i ∧ commandSpec t i ≠ none ∧
      (match readForest (settled s t i) t i 4 (fun _ => false) with
        | .error (.page _ _) => true
        | _ => false) = true :=
  ⟨issues_of (by decide), by decide, by decide +kernel⟩

theorem witness_ForestMembers_reached : let i : Instr := .equnite 5 0 1 4
    forestB i (fun f => (forestSpec (reachForest (settled sForest tForest i) (consume tForest (usesOf i)) f) (consume tForest (usesOf i)) f i).isSome) =
      true := by decide +kernel

/-- The block of `sSeq` as its members reach it. -/
theorem witness_Sequence_reached : (match openBlock (settled sSeq tA (.tkmask 5 0 4)) tA (.tkmask 5 0 4) 4 { faulted := true } with
    | .ok o =>
      let s := reachBlock (settled sSeq tA (.tkmask 5 0 4)) o.places
      vectorsOk s [5] 5 && !isLoadBound s 5 && (blockPlaces s tA (tA.c 2)).toBool &&
        (textSpan s tA (tA.c 2) 0 1 permR { r := true }).toBool && (textSpan s tA (tA.c 2) 0 4 permW { w := true }).toBool
    | .error _ => false) = true := by decide +kernel

theorem witness_SequenceTokens_child : (openBlock (settled sSeq tA (.tkfork 5 2 4)) tA (.tkfork 5 2 4) 4 { faulted := true } (some 2)).toBool = true := by
  decide +kernel

theorem witness_ScheduleSteps_untimed : let s := sRegion { rcb := 0x2000000, queue := .inl 0, state := .candidate, crews := 1, level := some 3 }
    placeableAt s 7 = [] ∧ placeableAt s 3 = [0] ∧ ([6, 5, 4, 3, 2, 1, 0].find? fun v => !(placeableAt s v).isEmpty) = some 3 ∧
      (pickQueue s 3).2 = some 0 ∧ ((placeableAt s 3).find? fun i => (s.launches[i]?).any fun l => l.queueNo == some 0) = some 0 := by decide +kernel

theorem witness_ScheduleSteps_changed : let s := { withMem sA [(0x81000, 8, 5), (0x81008, 4, 10000)] with tbase := 0, tticks := 10000, ptp := 20000 }
    tticksOk s.tticks = true ∧ s.tbase + s.tslot * s.tticks ≤ s.ptp ∧ (latchHeader s).tbase ≠ s.tbase := by decide

theorem witness_TrustSteps_restore : let s : State := { sUp with sealedRecords := [(5, {})], toRestore := [5], cue := { b := 5 } }
    (s.die s.cue.a).power = none ∧ (s.die s.cue.a).dstate = 0 ∧ s.toRestore.contains 5 = true := by decide

/-- A line of a STREAM page. -/
theorem witness_LinkSteps_stream : bitOf (0x25F : Word) 6 = true ∧ bitOf (0x25F : Word) 1 = true ∧
    (let s := withMem sUp [(0x10000E0, 8, 0x25F)]; (mappedAt s 0 0x2000000).isSome = true) := by decide

/-- A pair whose second word lies on an absent page. -/
theorem witness_StepRuns_secondFails : let t : Thread := { tA with pc := 0x1200FFC, caps := [(0, Cap.mk' 0x1200000 0x1000 0x05 0 0 true)] }
    let s := withMem (tStateAt { core := 0, slot := 0 } t) [(0x1200FFC, 4, 0xF9480000)]
    (match fetchWord s t t.pc with
      | .ok w => majorOf w == 0x3E
      | .error _ => false) = true ∧ (fetchWord s t (t.pc + 4)).toBool = false := by decide +kernel

/-- A thread at the second word of a pair, before its first fetch. -/
theorem witness_StepRuns_insidePair : let t : Thread := { tA with pc := 0x1200004, fresh := true }
    let s := withMem (tStateAt { core := 0, slot := 0 } t) [(0x1200000, 4, 0xF9480000)]
    (fetchWord s t t.pc).toBool = true ∧ t.kind ≠ .migrated ∧ insidePair s t t.pc = true := by decide +kernel

/-- A scaled conversion whose `vC` is its destination. -/
theorem witness_Conversions_same : let px : Px := { vc := 3, uc := 1, len := 8 }
    let i : Instr := .vpack 3 1 0 6 7
    px.vc = 3 ∧ Issues sNf tNf i px ∧ vectorsOk (opened sNf tNf i) [1, 3, 3] 3 = true :=
  ⟨rfl, issues_of (by decide), by decide⟩

end Sys2Proof.Tests
end

section
/-!
PROOF. The execution model (chapter 01): threads and their slots, the members of the matrix unit and of the network reductions, system
members, deliveries, the barrel's choice and the step. Facts that several statements use come first.
-/

namespace Sys2Proof.Machine

/-! ### What the emptied sync sources leave alone -/

@[simp] theorem consume_counted (t : Thread) (u : Uses) : (consume t u).counted = t.counted := by rw [consume_eq]

/-- A field that emptying the sync sources leaves alone is that of the thread before. -/
theorem map_thread?_opened {α : Type} {s : State} {t : Thread} {i : Instr} (f : Thread → α) (h : s.thread? s.cur = some t)
    (hf : f (consume t (usesOf i)) = f t) (l : Loc) : ((opened s t i).thread? l).map f = (s.thread? l).map f := by
  unfold opened State.setMe
  rw [State.thread?_setThread]
  split
  · subst_vars
    simp [h, hf]
  · rfl

theorem isNone_thread?_opened {s : State} {t : Thread} {i : Instr} (h : s.thread? s.cur = some t) (l : Loc) :
    ((opened s t i).thread? l).isNone = (s.thread? l).isNone := by
  have := congrArg Option.isNone (map_thread?_opened (i := i) (fun _ => ()) h rfl l)
  simpa using this

theorem vallot_opened {s : State} {t : Thread} {i : Instr} (h : s.thread? s.cur = some t) (l : Loc) :
    ((opened s t i).thread l).vallot = (s.thread l).vallot := by
  have e := map_thread?_opened (i := i) Thread.vallot h (by simp) l
  unfold State.thread
  rw [← Option.getD_map Thread.vallot, e, Option.getD_map]

theorem counted_opened {s : State} {t : Thread} {i : Instr} (h : s.thread? s.cur = some t) (l : Loc) :
    (((opened s t i).thread? l).any fun t => t.counted) = (s.thread? l).any fun t => t.counted := by
  have e := map_thread?_opened (i := i) Thread.counted h (by simp) l
  simpa only [Option.any_map, Function.comp_def, id] using congrArg (Option.any id) e

theorem freeVectors_opened {s : State} {t : Thread} {i : Instr} (h : s.thread? s.cur = some t) (id : Nat) :
    freeVectors (opened s t i) id = freeVectors s id := by
  simp only [freeVectors, vallot_opened h]

theorem freePool_opened {s : State} {t : Thread} {i : Instr} (h : s.thread? s.cur = some t) (id : Nat) :
    freePool (opened s t i) id = freePool s id := by
  simp only [freePool, isNone_thread?_opened h]

theorem liveHelpers_opened {s : State} {t : Thread} {i : Instr} (h : s.thread? s.cur = some t) (id : Nat) :
    liveHelpers (opened s t i) id = liveHelpers s id := by
  simp only [liveHelpers, counted_opened h]

@[simp] theorem held_opened (s : State) (t : Thread) (i : Instr) (id : Nat) :
    ((opened s t i).core id).held = (s.core id).held := by rw [core_opened]

theorem slotWanted_opened {s : State} {t : Thread} {i : Instr} (h : s.thread? s.cur = some t) (id : Nat) :
    slotWanted (opened s t i) id = slotWanted s id := by
  simp only [slotWanted, held_opened, freeVectors_opened h]

theorem helperRoom_opened {s : State} {t : Thread} {i : Instr} (h : s.thread? s.cur = some t) (id : Nat) :
    helperRoom (opened s t i) id = helperRoom s id := by
  simp only [helperRoom, liveHelpers_opened h, slotWanted_opened h, freePool_opened h]

/-- A helper as START makes it: entry, argument, capabilities, its starter's token, and that it counts. -/
theorem helperOf_spec (t : Thread) (h entry arg : Word) (r : Nat) (x : Thread) (hx : x = helperOf t h entry arg r) :
    x.pc = entry ∧ x.s 1 = arg ∧ (∀ n, n ≠ 1 → x.s n = 0) ∧ (∀ n, x.c n = t.c n) ∧ x.token = some (h, r) ∧ x.counted = true := by
  subst hx
  refine ⟨rfl, rfl, fun n hn => ?_, fun n => rfl, rfl, rfl⟩
  simp [helperOf, Thread.s, Tab.get, Ne.symm hn]

/-- A core with room for a helper has fewer than ten live. -/
theorem liveHelpers_lt_of_helperRoom {s : State} {id : Nat} (h : (helperRoom s id).isSome = true) : liveHelpers s id < 10 := by
  unfold helperRoom at h
  split at h
  · next hc => exact of_decide_eq_true (Bool.and_eq_true_iff.mp hc).1
  · cases h

/-- START with room and nobody before it places the helper. -/
theorem exec_start_places {s : State} {t : Thread} {d a b : BitVec 5} {n : Nat} (h : Issues s t (.start d a b))
    (he : (BitVec.ofNat 64 (t.c 0).base + t.s a.toNat).toNat % 4 = 0) (hq : (s.core s.cur.core).startq = [])
    (hr : helperRoom s s.cur.core = some n) :
    exec (.start d a b) s = .next (retired (placeIn (claimMe (opened s t (.start d a b)) d) { core := s.cur.core, slot := n }
      (helperOf (consume t (usesOf (.start d a b))) (s.handleOf s.cur) (BitVec.ofNat 64 (t.c 0).base + t.s a.toNat)
        (t.s b.toNat) d.toNat))) := by
  refine issue_retires h ?_
  dsimp only
  rw [consume_c, consume_s, consume_s, opened_cur, startq_opened, hq, handleOf_opened, helperRoom_opened h.thread, hr]
  exact if_neg (by simp only [he]; decide)

/-- START without room, or behind another, parks the starter in the queue of its core. -/
theorem exec_start_waits {s : State} {t : Thread} {d a b : BitVec 5} (h : Issues s t (.start d a b))
    (he : (BitVec.ofNat 64 (t.c 0).base + t.s a.toNat).toNat % 4 = 0)
    (hq : (s.core s.cur.core).startq ≠ [] ∨ helperRoom s s.cur.core = none) :
    let s1 := claimMe (opened s t (.start d a b)) d
    exec (.start d a b) s = .next (stays (waitFor (s1.setCore s.cur.core
      { s1.core s.cur.core with startq := (s1.core s.cur.core).startq ++ [s.cur.slot] })
      (.start (BitVec.ofNat 64 (t.c 0).base + t.s a.toNat) (t.s b.toNat) d.toNat))) := by
  refine issue_ok (a := .stay) h ?_
  have hw : (if (s.core s.cur.core).startq.isEmpty = true then helperRoom s s.cur.core else none) = none := by
    rcases hq with hq | hq
    · simp [hq]
    · simp [hq]
  dsimp only
  rw [consume_c, consume_s, consume_s, opened_cur, startq_opened, helperRoom_opened h.thread]
  refine (if_neg (by simp only [he]; decide)).trans ?_
  rw [hw]

/-- Settles O14: a START is placed where the queue is empty and there is room, and waits otherwise. -/
theorem start : Obligations.Start :=
  ⟨fun t h entry arg r => helperOf_spec t h entry arg r _ rfl, fun _ _ h => liveHelpers_lt_of_helperRoom h,
    fun _ _ _ _ _ h he => ⟨fun _ => exec_start_places h he, exec_start_waits h he⟩⟩

/-! ### The faults of the thread members (R17, R101, R152, R155, R159, R161) -/

/-- A visitor's ring member raises cause 0x06 (R161). -/
theorem ringMember_visitor {s : State} {t : Thread} {i : Instr} {q : BitVec 5}
    {body : Thread → State → Nat → Ring → Except Stop (State × Act)} (h : Issues s t i)
    (hv : isVisitor (opened s t i) s.cur (consume t (usesOf i)) = true) :
    ringMember i q s body = .next (faults s 0x06 ((encodeWord i).setWidth 64)) := by
  refine issue_faults h ?_
  change (if isVisitor (opened s t i) s.cur (consume t (usesOf i)) = true then _ else _) = _
  rw [if_pos hv]
  rfl

/-- A member that acts on what belongs to the crew raises cause 0x06 in a visitor: each is a ring member or a member of the crew's
other units. -/
theorem exec_ofCrew_visitor {s : State} {t : Thread} {i : Instr} (hi : ofCrew i = true) (h : Issues s t i)
    (hv : isVisitor (opened s t i) s.cur (consume t (usesOf i)) = true) :
    exec i s = .next (faults s 0x06 ((encodeWord i).setWidth 64)) := by
  unfold ofCrew at hi
  split at hi
  case h_1 => exact show execQcfg _ _ _ _ _ = _ from ringMember_visitor h hv
  case h_2 => exact show execQclaim _ _ _ _ = _ from ringMember_visitor h hv
  case h_3 => exact show execQpub _ _ _ = _ from ringMember_visitor h hv
  case h_4 => exact show execQwaitf _ _ _ _ = _ from ringMember_visitor h hv
  case h_5 => exact show execQfree _ _ _ = _ from ringMember_visitor h hv
  case h_6 => exact show execQwaite _ _ _ _ = _ from ringMember_visitor h hv
  case h_7 => exact show execQerr _ _ _ _ = _ from ringMember_visitor h hv
  case h_8 => exact show execQsetrd _ _ _ = _ from ringMember_visitor h hv
  case h_30 => cases hi
  all_goals exact crewMember_visitor h hv

/-- START at an entry that is no multiple of 4 (R101, R152). -/
theorem exec_start_misaligned {s : State} {t : Thread} {d a b : BitVec 5} (h : Issues s t (.start d a b))
    (he : (BitVec.ofNat 64 (t.c 0).base + t.s a.toNat).toNat % 4 ≠ 0) :
    exec (.start d a b) s = .next (faults s 0x07 (BitVec.ofNat 64 (t.c 0).base + t.s a.toNat)) := by
  refine issue_faults h ?_
  rw [consume_c, consume_s]
  exact if_pos (bne_iff_ne.mpr he)

/-- VGROW beyond 32 registers (R155). -/
theorem exec_vgrow_beyond {s : State} {t : Thread} {n : BitVec 6} (h : Issues s t (.vgrow n)) (hn : n ≠ 0)
    (hb : 32 < t.vallot + n.toNat) : exec (.vgrow n) s = .next (faults s 0x03 ((encodeWord (.vgrow n)).setWidth 64)) := by
  refine issue_faults h ?_
  exact (if_neg (mt (reg_zero n).mp hn)).trans (if_pos (by simpa using hb))

/-- VSHRINK beyond the allotment (R155). -/
theorem exec_vshrink_beyond {s : State} {t : Thread} {n : BitVec 6} (h : Issues s t (.vshrink n)) (hn : n ≠ 0)
    (hb : t.vallot < n.toNat) : exec (.vshrink n) s = .next (faults s 0x03 ((encodeWord (.vshrink n)).setWidth 64)) := by
  refine issue_faults h ?_
  exact (if_neg (mt (reg_zero n).mp hn)).trans (if_pos (by simpa using hb))

/-- MIGRATE from slot 0 (R159). -/
theorem exec_migrate_control {s : State} {t : Thread} {a : BitVec 5} {c : BitVec 4} (h : Issues s t (.migrate a c))
    (hs : s.cur.slot = 0) : exec (.migrate a c) s = .next (faults s 0x01 ((encodeWord (.migrate a c)).setWidth 64)) := by
  refine issue_faults h ?_
  simp [hs]

/-- Settles O15: each fault by the member's own lemma. -/
theorem threadFaults : Obligations.ThreadFaults := fun _ _ =>
  ⟨fun _ _ _ h he => exec_start_misaligned h he, fun _ h hn hb => exec_vgrow_beyond h hn hb,
    fun _ h hn hb => exec_vshrink_beyond h hn hb, fun _ _ h hs => exec_migrate_control h hs,
    fun _ hi h hv => exec_ofCrew_visitor hi h hv⟩

/-! ### The allotment of vector registers (R27, R155) -/

/-- A member without sources leaves its thread as it is. -/
theorem opened_of_no_sources {s : State} {t : Thread} {i : Instr} (h : (usesOf i).srcs = []) : opened s t i = s.setMe t := by
  rw [opened, consume_none h]

/-- VGROW or VSHRINK of no register retires. -/
theorem exec_vgrow_zero {s : State} {t : Thread} {n : BitVec 6} (h : Issues s t (.vgrow n)) (hn : n = 0) :
    exec (.vgrow n) s = .next (retired (opened s t (.vgrow n))) := by
  refine issue_retires h ?_
  simp [hn]

theorem exec_vshrink_zero {s : State} {t : Thread} {n : BitVec 6} (h : Issues s t (.vshrink n)) (hn : n = 0) :
    exec (.vshrink n) s = .next (retired (opened s t (.vshrink n))) := by
  refine issue_retires h ?_
  simp [hn]

/-- VGROW with registers free and nobody before it enlarges the allotment. -/
theorem exec_vgrow_grows {s : State} {t : Thread} {n : BitVec 6} (h : Issues s t (.vgrow n)) (hb : t.vallot + n.toNat ≤ 32)
    (hn : n ≠ 0) (hq : (s.core s.cur.core).vgrowq = []) (hf : n.toNat ≤ freeVectors s s.cur.core) :
    exec (.vgrow n) s = .next (retired (s.setMe { t with vallot := t.vallot + n.toNat })) := by
  refine issue_retires h ?_
  dsimp only
  rw [opened_cur, vgrowq_opened, freeVectors_opened h.thread, opened_of_no_sources rfl, consume_none rfl, State.setMe_setMe]
  refine (if_neg (mt (reg_zero n).mp hn)).trans ((if_neg (Nat.not_lt.mpr hb)).trans (if_pos ?_))
  simp [hq, hf]

/-- VGROW without registers, or behind another, parks in the queue of its core. -/
theorem exec_vgrow_waits {s : State} {t : Thread} {n : BitVec 6} (h : Issues s t (.vgrow n)) (hb : t.vallot + n.toNat ≤ 32)
    (hn : n ≠ 0) (hq : (s.core s.cur.core).vgrowq ≠ [] ∨ freeVectors s s.cur.core < n.toNat) :
    let s1 := opened s t (.vgrow n)
    exec (.vgrow n) s = .next (stays (waitFor (s1.setCore s.cur.core
      { s1.core s.cur.core with vgrowq := (s.core s.cur.core).vgrowq ++ [s.cur.slot] }) (.vgrow n.toNat))) := by
  refine issue_ok (a := .stay) h ?_
  have hw : ¬((s.core s.cur.core).vgrowq = [] ∧ n.toNat ≤ freeVectors s s.cur.core) := by
    rintro ⟨h1, h2⟩
    rcases hq with hq | hq
    · exact hq h1
    · exact absurd h2 (Nat.not_le.mpr hq)
  dsimp only
  rw [opened_cur, vgrowq_opened, freeVectors_opened h.thread, consume_none rfl]
  refine (if_neg (mt (reg_zero n).mp hn)).trans ((if_neg (Nat.not_lt.mpr hb)).trans (if_neg ?_))
  simpa using hw

/-- VSHRINK within the allotment gives up the highest registers, their contents and their streams. -/
theorem exec_vshrink_shrinks {s : State} {t : Thread} {n : BitVec 6} (h : Issues s t (.vshrink n)) (hb : n.toNat ≤ t.vallot)
    (hh : ∀ x ∈ t.holds, x.vector = true → x.reg < t.vallot - n.toNat) (hn : n ≠ 0) :
    let s1 := s.setMe { t with
      vallot := t.vallot - n.toNat, vregs := t.vregs.filter fun e => e.1 < t.vallot - n.toNat }
    exec (.vshrink n) s = .next (retired (s1.setCore s.cur.core
      ((s1.core s.cur.core).unbind s.cur.slot fun r => t.vallot - n.toNat ≤ r))) := by
  refine issue_retires h ?_
  have hs : (t.holds.any fun x => x.vector && decide (t.vallot - n.toNat ≤ x.reg)) = false := by
    simp only [List.any_eq_false, Bool.and_eq_true, decide_eq_true_eq, not_and, Nat.not_le]
    exact hh
  dsimp only
  rw [opened_cur, opened_of_no_sources rfl, consume_none rfl, State.setMe_setMe]
  exact (if_neg (mt (reg_zero n).mp hn)).trans ((if_neg (Nat.not_lt.mpr hb)).trans (if_neg (by simp only [hs]; decide)))

/-- Settles O16: an allotment of no register, one that fits, and one that waits. -/
theorem allotment : Obligations.Allotment := fun _ _ _ =>
  ⟨fun h hb => ⟨exec_vgrow_zero h, exec_vgrow_grows h hb, exec_vgrow_waits h hb⟩,
    fun h hb hh => ⟨exec_vshrink_zero h, exec_vshrink_shrinks h hb hh⟩⟩

/-! ### The issuing slot stays the issuing slot while stores are performed -/

/-- A fold of steps that leave the issuing slot alone leaves it alone. -/
theorem foldl_cur {α : Type} {f : State → α → State} (hf : ∀ s a, (f s a).cur = s.cur) (l : List α) (s : State) :
    (l.foldl f s).cur = s.cur := by
  induction l generalizing s with
  | nil => rfl
  | cons a l ih => rw [List.foldl_cons, ih, hf]

@[simp] theorem State.onThread_cur_eq (s : State) (l : Loc) (f : Thread → Thread) : (s.onThread l f).cur = s.cur := by
  unfold State.onThread
  split <;> rfl

@[simp] theorem dropRef_cur (s : State) (id : Nat) : (dropRef s id).cur = s.cur := by unfold dropRef; dsimp only; split <;> rfl

@[simp] theorem freeTag_cur (s : State) (key : Nat) (l : Line) : (freeTag s key l).cur = s.cur := by
  unfold freeTag
  split <;> simp

@[simp] theorem uncache_cur (s : State) (key : Nat) : (uncache s key).cur = s.cur := rfl

@[simp] theorem touch_cur (s : State) (key : Nat) : (touch s key).cur = s.cur := rfl

@[simp] theorem dropLine_cur (s : State) (key : Nat) : (dropLine s key).cur = s.cur := by
  unfold dropLine
  split <;> simp

@[simp] theorem writeMem_cur (s : State) (pa dom off size : Nat) (v : BitVec 1024) (tag clears : Bool) :
    (writeMem s pa dom off size v tag clears).cur = s.cur := by
  unfold writeMem
  split <;> rfl

@[simp] theorem writeBack_cur (s : State) (l : Line) : (writeBack s l).cur = s.cur := by
  unfold writeBack
  split <;> rfl

@[simp] theorem evict_cur (s : State) (key : Nat) : (evict s key).cur = s.cur := by
  unfold evict
  split
  · rfl
  · dsimp only
    rw [dropLine_cur]
    split <;> simp

@[simp] theorem needTag_cur (s : State) (key : Nat) : (needTag s key).cur = s.cur := by
  unfold needTag
  dsimp only
  repeat' split
  all_goals simp

@[simp] theorem needDrup_cur (s : State) (key : Nat) : (needDrup s key).cur = s.cur := by
  unfold needDrup
  dsimp only
  repeat' split
  all_goals simp [foldl_cur]

@[simp] theorem unshare_cur (s : State) (key : Nat) : (unshare s key).cur = s.cur := by
  unfold unshare
  split
  · rfl
  · next l0 _ =>
    dsimp only
    generalize hu : (if l0.drup == .own || (l0.drup != .zero && decide (refsOf s l0 ≤ 1)) then s else needDrup s key) = u
    have h : u.cur = s.cur := by
      rw [← hu]
      split <;> simp
    repeat' split
    all_goals simp [h]

@[simp] theorem putLine_cur (s : State) (key : Nat) (l : Line) : (putLine s key l).cur = s.cur := by
  unfold putLine
  split <;> rfl

@[simp] theorem writeHeld_cur (s : State) (key off size : Nat) (v : BitVec 1024) (tag clears : Bool) :
    (writeHeld s key off size v tag clears).cur = s.cur := by
  unfold writeHeld
  dsimp only
  split <;> simp

@[simp] theorem writeAt_cur (s : State) (asid va pa dom size : Nat) (v : BitVec 1024) (tag clears : Bool) :
    (writeAt s asid va pa dom size v tag clears).cur = s.cur := by
  unfold writeAt
  dsimp only
  split <;> simp

@[simp] theorem holdLine_cur (s : State) (asid va pa dom : Nat) : (holdLine s asid va pa dom).cur = s.cur := by
  unfold holdLine
  dsimp only
  split <;> simp

@[simp] theorem holdEntry_cur (s : State) (a : Nat) : (holdEntry s a).cur = s.cur := by
  unfold holdEntry
  split <;> simp

@[simp] theorem orBits_cur (s : State) (a : Nat) (mask : Word) : (orBits s a mask).cur = s.cur := by
  unfold orBits
  simp

@[simp] theorem recordIn_cur (n : Nat) (s : State) (asid va : Nat) : (recordIn n s asid va).cur = s.cur := by
  induction n generalizing s asid va with
  | zero => rfl
  | succ n ih =>
    unfold recordIn
    dsimp only
    repeat' split
    all_goals simp [ih, foldl_cur]

@[simp] theorem writeLine_cur (s : State) (asid va pa dom size : Nat) (v : BitVec 1024) (tag clears : Bool) :
    (writeLine s asid va pa dom size v tag clears).cur = s.cur := by
  rw [writeLine, recordGrant, recordIn_cur, writeAt_cur]

@[simp] theorem State.reach_cur (s : State) (asid va : Nat) : (s.reach asid va).cur = s.cur := rfl

@[simp] theorem reachStop_cur (s : State) (e : Stop) : (s.reachStop e).cur = s.cur := by
  unfold State.reachStop
  split <;> rfl

@[simp] theorem capWrite_cur (s : State) (c : Cap) (va size v : Nat) (tag : Bool) : (capWrite s c va size v tag).cur = s.cur := by
  unfold capWrite
  extract_lets piece fit
  have hp (s : State) (va size v : Nat) : (piece s va size v).cur = s.cur := by
    simp only [piece]
    split
    · exact writeLine_cur ..
    · rfl
    · exact reachStop_cur ..
  split <;> simp only [hp]

@[simp] theorem rootPut_cur (s : State) (va size v : Nat) : (s.rootPut va size v).cur = s.cur := by
  unfold State.rootPut
  split
  · rw [State.reach_cur, writeLine_cur, holdLine_cur]
  · rfl

@[simp] theorem logEntry_cur (s : State) (r : Nat) (e : LogEntry) : (logEntry s r e).cur = s.cur := by
  unfold logEntry
  extract_lets lr len head c s1
  rw [State.rcbPut, rootPut_cur]
  simp only [s1]
  split
  · rfl
  · exact capWrite_cur ..

@[simp] theorem ringAnswer_cur (s : State) (l : Loc) (reg pred : Nat) (v : BitVec 32) (b : Bool) :
    (ringAnswer s l reg pred v b).cur = s.cur := by
  simp [ringAnswer, completeAt]

@[simp] theorem setRing_cur (s : State) (k q : Nat) (r : Ring) : (s.setRing k q r).cur = s.cur := rfl

@[simp] theorem ringServe_cur (k q : Nat) (ls : List Loc) (s : State) : (ringServe s k q ls).cur = s.cur := by
  induction ls generalizing s with
  | nil => rfl
  | cons l ls ih =>
    unfold ringServe
    dsimp only
    repeat' split
    all_goals simp [ih]

@[simp] theorem ringWake_cur (s : State) (k q : Nat) : (ringWake s k q).cur = s.cur := by simp [ringWake]

@[simp] theorem publishAll_cur (s : State) (k : Nat) (ps : List (Nat × BitVec 32)) : (publishAll s k ps).cur = s.cur :=
  foldl_cur (fun _ _ => by simp) ps s

@[simp] theorem applyWake_cur (s : State) (l : Loc) : (applyWake s l).cur = s.cur := by
  unfold applyWake
  split <;> simp [completeAt]

@[simp] theorem kickAll_cur (s : State) (hs : List Nat) : (kickAll s hs).cur = s.cur := foldl_cur (fun _ _ => by simp) hs s

@[simp] theorem endBringup_cur (s : State) (p : PStore) : (endBringup s p).cur = s.cur := by
  unfold endBringup
  split <;> rfl

@[simp] theorem performStore_cur (s : State) (p : PStore) : (performStore s p).cur = s.cur := by
  unfold performStore
  split
  · split <;> simp [logDropped]
  · simp [writeSram]
  · split <;> simp [logDropped]

/-- Some stores performed. -/
theorem performWhere_cur (s : State) (path : Nat) (want : PStore → Bool) : (performWhere s path want).cur = s.cur := by
  unfold performWhere
  dsimp only
  split
  · rfl
  · exact foldl_cur (fun _ _ => by simp [performNow]) _ _

/-- A release point leaves the issuing slot as it was. -/
@[simp] theorem drain_cur (s : State) (path : Nat) : (drain s path).cur = s.cur := performWhere_cur s path _

/-! ### RETIRE and MIGRATE (R15, R153, R159) -/

@[simp] theorem consume_settled (t : Thread) (u : Uses) : (consume t u).settled = t.settled := by rw [consume_eq]; rfl

@[simp] theorem consume_number (t : Thread) (u : Uses) : (consume t u).number = t.number := by rw [consume_eq]

/-- Leaving the queues changes no slot. -/
theorem slots_unqueue (s : State) (l : Loc) (id : Nat) : ((unqueue s l).core id).slots = (s.core id).slots := by
  unfold unqueue
  extract_lets c s1 k cl
  have h : (s1.core id).slots = (s.core id).slots := by
    simp only [s1, State.core_setCore]
    split
    · subst_vars
      rfl
    · rfl
  split
  · exact h
  · exact h

/-- A slot that its thread has left is free. -/
theorem thread?_leaveSlot (s : State) (l : Loc) : (leaveSlot s l).thread? l = none := by
  unfold leaveSlot
  extract_lets s1 c sl from'
  rw [State.thread?, State.slot, slots_unqueue, State.core_setCore_self, Tab.get_set_self]

/-- The end of a thread: its token leaves, its slot is freed, and what waited for it settles. -/
theorem endThread_some {s : State} {l : Loc} {t : Thread} (v : Word) (h : s.thread? l = some t) :
    endThread s l v = settle (leaveSlot (match t.token with
      | some (h, r) => send s
          { dest := handleCore h, src := l, launch := t.launch, rcb := t.rcb, body := .token h r v, sender := t.number, crew := t.crewId }
      | none => s) l) l.core := by
  simp only [endThread, h]
  rfl

/-- RETIRE with no claim and no hold. -/
theorem exec_retire_settled {s : State} {t : Thread} (h : Issues s t .retire) (ht : t.settled = true) :
    exec .retire s = .next (left (endThread (drain (opened s t .retire) s.myPath) s.cur (t.s 1))) := by
  refine issue_ok (a := .gone) h ?_
  rw [consume_settled, consume_s]
  exact if_neg (by simp [ht])

/-- MIGRATE from a pool slot through a capability that reaches its address. -/
theorem exec_migrate_leaves {s : State} {t : Thread} {a : BitVec 5} {c : BitVec 4} (h : Issues s t (.migrate a c)) :
    let addr : Int := (t.c c.toNat).base + (t.s a.toNat).toNat
    let s1 := opened s t (.migrate a c)
    let t1 := consume t (usesOf (.migrate a c))
    s.cur.slot ≠ 0 → t.settled = true → capCheck (t.c c.toNat) addr 1 0 = none →
    ((t.c c.toNat).space = 0 ∨ (t.c c.toNat).space = 1 ∧ isVisitor s1 s.cur t1 = false ∧
      addr < (s1.cluster (clusterOf s.cur.core)).padSize) →
    let s2 := drain s1 s.myPath
    let core := (s2.core s2.cur.core).unbind s2.cur.slot fun _ => true
    let s3 := send s2
      { dest := ownerCore s1 s.cur.core (t.c c.toNat).space addr.toNat, src := s.cur, launch := t.launch, rcb := t.rcb
        body := .thread (travelling t1 (predWord core s.cur.slot t1)) false, sender := t.number, crew := t.crewId }
    exec (.migrate a c) s = .next (left (settle (leaveSlot s3 s.cur) s.cur.core)) := by
  intro addr s1 t1 hs ht hc hsp s2 core s3
  refine issue_ok (a := .gone) h ?_
  have hcur : s2.cur = s.cur := drain_cur s1 s.myPath
  have h2 : ¬2 ≤ (t.c c.toNat).space := by rcases hsp with h | ⟨h, -⟩ <;> omega
  have hv : ((t.c c.toNat).space = 1 && isVisitor s1 s.cur t1) = false := by
    rcases hsp with h | ⟨-, h, -⟩ <;> simp [h]
  have hp : ((t.c c.toNat).space = 1 && (s1.cluster (clusterOf s.cur.core)).padSize ≤ addr.toNat) = false := by
    rcases hsp with h | ⟨-, -, h⟩
    · simp [h]
    · have : ¬(s1.cluster (clusterOf s.cur.core)).padSize ≤ addr.toNat := by omega
      simp [this]
  dsimp only
  rw [consume_c, consume_s, consume_settled, consume_number, consume_launch, consume_rcb, consume_crewId, opened_cur]
  refine (if_neg hs).trans ?_
  rw [hc]
  refine (if_neg h2).trans ((if_neg ?_).trans ((if_neg ?_).trans ((if_neg ?_).trans ?_)))
  · exact Bool.eq_false_iff.mp hv
  · exact Bool.eq_false_iff.mp hp
  · simp [ht]
  · simp only [core, s3, hcur]
    rfl

/-- Settles O17: the end of a thread, the freed slot, RETIRE and MIGRATE. -/
theorem leaving : Obligations.Leaving :=
  ⟨fun _ _ _ v h => endThread_some v h, thread?_leaveSlot, fun _ _ =>
    ⟨exec_retire_settled, fun _ _ h => exec_migrate_leaves h⟩⟩

/-! ### THID, YIELD, PARK and WFI (R18, R154, R156, R321) -/

/-- THID writes the handle of the thread's own slot. -/
theorem exec_thid {s : State} {t : Thread} {d : BitVec 5} (h : Issues s t (.thid d)) :
    exec (.thid d) s = .next (retired ((opened s t (.thid d)).wr d.toNat (s.handleOf s.cur))) := by
  refine issue_retires h ?_
  rw [opened_cur, handleOf_opened, write1]

/-- YIELD retires, its slot not eligible in the next 16 cycles. -/
theorem exec_yield {s : State} {t : Thread} (h : Issues s t .yield) :
    exec .yield s = .next (retired (s.setMe { t with nextIssue := s.cycle + 17 })) := by
  refine issue_retires h ?_
  rw [opened_cycle, opened_of_no_sources rfl, consume_none rfl, State.setMe_setMe]

/-- PARK and WFI consume a pending wake, and park without one. -/
theorem sleep_awake {s : State} {t : Thread} {i : Instr} {w : Wait} (h : Issues s t i) (hu : (usesOf i).srcs = [])
    (hw : t.wake = true) : sleep i w s = .next (retired (s.setMe { t with wake := false })) := by
  refine issue_retires h ?_
  rw [opened_of_no_sources hu, consume_none hu, State.setMe_setMe]
  exact if_pos hw

theorem sleep_parks {s : State} {t : Thread} {i : Instr} {w : Wait} (h : Issues s t i) (hw : t.wake = false) :
    sleep i w s = .next (stays (waitFor (opened s t i) w)) := by
  refine issue_ok (a := .stay) h ?_
  rw [consume_wake]
  exact if_neg (by simp [hw])

/-- Settles O18: THID and YIELD by what a retirement leaves, PARK and WFI by what they share. -/
theorem parking : Obligations.Parking := by
  intro s t
  refine ⟨fun d h => ⟨_, exec_thid h, setsScalar_wr d _⟩, fun h => ⟨_, exec_yield h, ?_⟩, ?_⟩
  · rw [retired_setMe]
    refine ⟨onlyMe_setMe s _, ?_, ?_⟩
    · rw [State.me_bump, State.me_setMe]
      rfl
    · rw [State.me_bump, State.me_setMe]
      show s.cycle + 16 < max (s.cycle + 17) (s.cycle + 4)
      omega
  · rintro i w (⟨rfl, rfl⟩ | ⟨rfl, rfl⟩) h
    · exact ⟨sleep_awake h rfl, sleep_parks h⟩
    · exact ⟨sleep_awake h rfl, sleep_parks h⟩

/-! ### Tiles and accumulators (R17, R194–R205) -/

@[simp] theorem consume_loadsStall (t : Thread) (u : Uses) : (consume t u).loadsStall = t.loadsStall := by
  rw [Thread.loadsStall, consume_holds]
  rfl

/-- A member of the crew's thread retires where its effect does. -/
theorem crewMember_retires {s s1 : State} {t : Thread} {i : Instr} {body : Thread → State → Except Stop (State × Act)}
    (h : Issues s t i) (hc : InCrew s t i) (hb : body (consume t (usesOf i)) (opened s t i) = .ok (s1, .next)) :
    crewMember i s body = .next (retired s1) := crewMember_ok h hc hb

/-- TLD fills its tile from its rows (R197). -/
theorem exec_tld_fills {s : State} {t : Thread} {n : BitVec 3} {c : BitVec 4} {a b : BitVec 5} {h : BitVec 1}
    {rows : List (Nat × List (Nat × Nat × Place))} :
    let i : Instr := .tld n c a b h
    let s0 := opened s t i
    let t1 := consume t (usesOf i)
    let w := (s0.core s.cur.core).shape n.toNat
    let cap := t.c c.toNat
    Issues s t i → InCrew s t i → (s0.core s.cur.core).busy n.toNat = false → t.loadsStall = false →
    tileRows s0 t1 c a b w permR { r := true } false = .ok rows →
      let all := rows.flatMap fun r => r.2
      let s1 := spanLoads s0 t1 cap all
      let v : BitVec 131072 := BitVec.ofNat 131072 (rows.foldl (fun a r => a + spanNat s1 (h == 1) r.2 * 2 ^ (1024 * r.1)) 0)
      let s2 := if h = 1 then all.foldl (fun s p => leaveReplica s t1 cap p.2.2) s1 else s1
      let s3 := s2.setCore s.cur.core { s2.core s.cur.core with tiles := (s2.core s.cur.core).tiles.set n.toNat v }
      let cl := s0.cluster (clusterOf s.cur.core)
      let bank := cl.bankFormat (cl.bankOf (rowAt t1 c a b 0).toNat)
      exec i s = .next (retired (if cap.space = 1 ∧ bitOf bank 4 = false then
        setTileKind s3 n.toNat 0 (shapeWord (rowsOf w) (rowBytesOf w) (bitsOf bank 3 0)) else s3)) := by
  intro i s0 t1 w cap hi hc hb hl hr all s1 v s2 s3 cl bank
  dsimp only [i, s0, t1, w] at hb hr
  refine crewMember_retires hi hc ?_
  dsimp only
  rw [opened_cur, consume_c, consume_loadsStall, hb, hl, hr]
  simp only [Bool.and_eq_true, decide_eq_true_eq, Bool.not_eq_true']
  rfl

/-- TST stores its rows through the path (R197). -/
theorem exec_tst_stores {s : State} {t : Thread} {n : BitVec 3} {c : BitVec 4} {a b : BitVec 5}
    {rows : List (Nat × List (Nat × Nat × Place))} :
    let i : Instr := .tst n c a b
    let s0 := opened s t i
    let t1 := consume t (usesOf i)
    Issues s t i → InCrew s t i → (s0.core s.cur.core).toWrite n.toNat = false →
    tileRows s0 t1 c a b ((s0.core s.cur.core).shape n.toNat) permW { w := true } true = .ok rows →
      let s1 := spanOrder s0 t1 (t.c c.toNat) (rows.flatMap fun r => r.2)
      exec i s = .next (retired (pushRows s1 s1.myPath (rows.map fun r =>
        spanStores s1 t1 r.2 (tileRow ((s0.core s.cur.core).tile n.toNat) r.1)))) := by
  intro i s0 t1 hi hc hw hr s1
  dsimp only [i, s0, t1] at hw hr
  refine crewMember_retires hi hc ?_
  dsimp only
  rw [opened_cur, consume_c, hw, hr]
  rfl

/-- Settles O31: TLD fills its tile, TST stores one. -/
theorem tileMemory : Obligations.TileMemory := fun _ _ _ _ _ _ _ => ⟨fun _ => exec_tld_fills, exec_tst_stores⟩

/-! ### TZERO, TTRANS, TWRV and TRDV (R195, R198, R199) -/

/-- TZERO queues the zero tile and sets the tile's class. -/
theorem exec_tzero_queues {s : State} {t : Thread} {n r : BitVec 3} :
    let i : Instr := .tzero n r
    let s0 := opened s t i
    Issues s t i → InCrew s t i → MatRoom s0 →
      exec i s = .next (retired (setTileKind (queued s0 [] [.tile n.toNat 0] 0) n.toNat r.toNat ((s0.core s0.cur.core).shape n.toNat))) := by
  intro i s0 hi hc hm
  dsimp only [i, s0] at hm
  refine crewMember_retires hi hc ?_
  dsimp only
  rw [enqueue_ok hm]

/-- TTRANS queues the transposed tile and sets its class and shape. -/
theorem exec_ttrans_queues {s : State} {t : Thread} {n r : BitVec 3} :
    let i : Instr := .ttrans n r
    let s0 := opened s t i
    let x := tileAt s0 (consume t (usesOf i)) r.toNat
    Issues s t i → InCrew s t i → MatRoom s0 → x.cols ≤ 128 → x.rows * x.ty.w % 8 = 0 → x.rows * x.ty.w / 8 ≤ 128 →
      let s1 := queued s0 [r.toNat] [.tile n.toNat (tileOf x.cols fun j => packRow x.ty.w x.rows fun i => tileElem x.bytes x.ty.w i j)] 0
      exec i s = .next (retired (setTileKind s1 n.toNat x.cls
        (shapeWord x.cols (x.rows * x.ty.w / 8) (formatIndex ((s1.core s1.cur.core).shape r.toNat))))) := by
  intro i s0 x hi hc hm h1 h2 h3 s1
  dsimp only [i, s0, x] at hm h1 h2 h3
  refine crewMember_retires hi hc ?_
  dsimp only
  rw [enqueue_ok hm, if_neg]
  simp only [Bool.or_eq_true, decide_eq_true_eq, bne_iff_ne, not_or, Nat.not_lt, not_not]
  exact ⟨⟨h1, h2⟩, h3⟩

/-- TWRV queues the tile with one row replaced. -/
theorem exec_twrv_queues {s s1 : State} {t : Thread} {n : BitVec 3} {v a : BitVec 5} {vs : Tab (BitVec 2048)} :
    let i : Instr := .twrv n v a
    Issues s t i → InCrew s t i → readVectors (opened s t i) [v.toNat] = .ok (s1, vs) → MatRoom s1 →
      exec i s = .next (retired (queued s1 [n.toNat] [.tile n.toNat (tileOf 128 fun k =>
        if k = (t.s a.toNat).toNat % 128 then (vs.get 0 v.toNat).toNat % 2 ^ 1024
        else tileRow ((s1.core s1.cur.core).tile n.toNat) k)] 0)) := by
  intro i hi hc hv hm
  dsimp only [i] at hv
  refine crewMember_retires hi hc ?_
  dsimp only
  rw [hv, consume_s]
  exact enqueue_ok hm

/-- A register that takes a write is not bound to a load stream. -/
theorem isLoadBound_of_writeVector {s u : State} {r : Nat} {v : BitVec 2048} (h : writeVector s r v = .ok u) :
    isLoadBound s r = false := by
  unfold writeVector writeVectorAt at h
  unfold isLoadBound
  dsimp only at h ⊢
  split at h
  · next hn => rw [hn]
  · next m hm =>
    rw [hm]
    split at h
    · cases h
    · next hs => exact Bool.eq_false_iff.mpr hs

/-- TRDV writes a row to its vector register. -/
theorem exec_trdv_reads {s u : State} {t : Thread} {n : BitVec 3} {v a : BitVec 5} :
    let i : Instr := .trdv n v a
    let c := (opened s t i).core (opened s t i).cur.core
    Issues s t i → InCrew s t i → c.toWrite n.toNat = false → c.matq.length < 4 →
    writeVector (opened s t i) v.toNat (BitVec.ofNat 2048 (tileRow (c.tile n.toNat) ((t.s a.toNat).toNat % 128))) = .ok u →
      exec i s = .next (retired u) := by
  intro i c hi hc hw hq hv
  dsimp only [i, c] at hw hq hv
  refine crewMember_retires hi hc ?_
  dsimp only
  rw [consume_s, hw, isLoadBound_of_writeVector hv, hv, decide_eq_false (Nat.not_le.mpr hq)]
  rfl

/-- Settles O32: three members that queue, and TRDV. -/
theorem tileMembers : Obligations.TileMembers := fun _ _ _ =>
  ⟨fun _ => exec_tzero_queues, fun _ => exec_ttrans_queues, fun _ _ _ _ => exec_twrv_queues, fun _ _ _ => exec_trdv_reads⟩

/-! ### Multiplies (R200–R203) -/

/-- A multiply whose operands fail the checks raises cause 0x02 (R201). -/
theorem mmaMember_refuses {s : State} {t : Thread} {i : Instr} {n : BitVec 1} {a b : BitVec 3} {extra : List Nat}
    {ok : Thread → State → Tile → Tile → Bool} {f : Thread → State → Tile → Tile → Nat → Nat → Nat → Nat × Nat} :
    let s0 := opened s t i
    let t1 := consume t (usesOf i)
    let p := tileAt s0 t1 a.toNat
    let q := tileAt s0 t1 b.toNat
    Issues s t i → InCrew s t i → mmaOk p q = false ∨ ok t1 s0 p q = false →
      mmaMember i n a b extra s ok f = .next (faults s 0x02 ((encodeWord i).setWidth 64)) := by
  intro s0 t1 p q hi hc hk
  refine issue_faults hi ?_
  refine (if_neg (Bool.eq_false_iff.mp hc)).trans (if_pos ?_)
  show (!(mmaOk p q && ok t1 s0 p q)) = true
  rcases hk with hk | hk <;> simp [hk]

/-- A multiply whose operands pass the checks, with the feature of 4-bit ones, joins the queue with its accumulator (R202). -/
theorem mmaMember_queues {s : State} {t : Thread} {i : Instr} {n : BitVec 1} {a b : BitVec 3} {extra : List Nat}
    {ok : Thread → State → Tile → Tile → Bool} {f : Thread → State → Tile → Tile → Nat → Nat → Nat → Nat × Nat} :
    let s0 := opened s t i
    let t1 := consume t (usesOf i)
    let p := tileAt s0 t1 a.toNat
    let q := tileAt s0 t1 b.toNat
    Issues s t i → InCrew s t i → MatRoom s0 → mmaOk p q = true → ok t1 s0 p q = true →
    (p.ty.w = 4 → (s0.die (dieOf s0.cur.core)).features.getLsbD 6 = true) →
      let old := (s0.core s0.cur.core).acc n.toNat
      let r := accOf fun r c => if r < p.rows && c < q.rows then f t1 s0 p q r c (accElem old r c) else (accElem old r c, 0)
      mmaMember i n a b extra s ok f =
        .next (retired (queued s0 ([a.toNat, b.toNat, 8 + n.toNat] ++ extra) [.acc n.toNat r.1] r.2)) := by
  intro s0 t1 p q hi hc hm hp ho hf old r
  refine crewMember_retires hi hc ?_
  refine (if_neg ?_).trans ((if_neg ?_).trans (enqueue_ok hm))
  · show ¬(!(mmaOk p q && ok t1 s0 p q)) = true
    simp [hp, ho]
  · show ¬(decide (p.ty.w = 4) && !(s0.die (dieOf s0.cur.core)).features.getLsbD 6) = true
    simpa using hf

/-- A multiply as its table gives it: its conditions and its element on the operands that it finds at issue. -/
theorem exec_of_mmaSpec {s : State} {t : Thread} {i : Instr} {x : MmaForm} (hx : mmaSpec s t i = some x) :
    ∃ ok f, (∀ u, exec i u = mmaMember i x.n x.a x.b x.extra u ok f) ∧
      ok t s (tileAt s t x.a.toNat) (tileAt s t x.b.toNat) = x.ok ∧
      f t s (tileAt s t x.a.toNat) (tileAt s t x.b.toNat) = x.f := by
  unfold mmaSpec at hx
  split at hx
  case h_1 =>
    cases hx
    exact ⟨_, _, fun _ => show execMma _ _ _ _ _ = _ from rfl, rfl, rfl⟩
  case h_2 =>
    cases hx
    exact ⟨_, _, fun _ => show execMmas _ _ _ _ _ _ _ = _ from rfl, by simp [Bool.and_assoc, Bool.beq_eq_decide_eq], rfl⟩
  case h_3 =>
    cases hx
    exact ⟨_, _, fun _ => show execMmai _ _ _ _ _ = _ from rfl, by simp [Bool.and_assoc, Bool.beq_eq_decide_eq], rfl⟩
  case h_4 => cases hx

/-- Settles O33: every multiply is one form, with its own conditions and element. -/
theorem multiplies : Obligations.Multiplies := by
  intro s t i x s0 t1 p q hx hi hc
  obtain ⟨ok, f, he, hok, hf⟩ := exec_of_mmaSpec hx
  rw [he s, ← hok, ← hf]
  exact ⟨mmaMember_refuses hi hc, mmaMember_queues hi hc⟩

/-! ### Accumulator members (R204, R205) -/

/-- ACZERO queues zero. -/
theorem exec_aczero_queues {s : State} {t : Thread} {n : BitVec 1} :
    let i : Instr := .aczero n
    Issues s t i → InCrew s t i → MatRoom (opened s t i) →
      exec i s = .next (retired (queued (opened s t i) [] [.acc n.toNat 0] 0)) := fun hi hc hm =>
  crewMember_retires hi hc (enqueue_ok hm)

/-- ACLD queues the words that it loads. -/
theorem exec_acld_queues {s : State} {t : Thread} {n : BitVec 1} {c : BitVec 4} {a : BitVec 5} {ps : List (Nat × Nat × Place)} :
    let i : Instr := .acld n c a
    Issues s t i → InCrew s t i → t.loadsStall = false → accSpan (opened s t i) (consume t (usesOf i)) c a permR { r := true } false = .ok ps →
      let s1 := spanLoads (opened s t i) (consume t (usesOf i)) (t.c c.toNat) ps
      MatRoom s1 → exec i s = .next (retired (queued s1 [] [.acc n.toNat (BitVec.ofNat 524288 (spanNat s1 false ps))] 0)) := by
  intro i hi hc hl hp s1 hm
  dsimp only [i] at hp
  refine crewMember_retires hi hc ?_
  rw [consume_loadsStall, hl, hp, consume_c]
  exact enqueue_ok hm

/-- ACST stores its accumulator through the path. -/
theorem exec_acst_stores {s : State} {t : Thread} {n : BitVec 1} {c : BitVec 4} {a : BitVec 5} {ps : List (Nat × Nat × Place)} :
    let i : Instr := .acst n c a
    let core := (opened s t i).core (opened s t i).cur.core
    Issues s t i → InCrew s t i → core.toWrite (8 + n.toNat) = false → core.matq.length < 4 →
    accSpan (opened s t i) (consume t (usesOf i)) c a permW { w := true } true = .ok ps →
      let s1 := spanOrder (opened s t i) (consume t (usesOf i)) (t.c c.toNat) ps
      exec i s = .next (retired (pushWide s1 s1.myPath (spanStores s1 (consume t (usesOf i)) ps (core.acc n.toNat).toNat))) := by
  intro i core hi hc hw hq hp s1
  dsimp only [i, core] at hw hq hp
  refine crewMember_retires hi hc ?_
  dsimp only
  rw [hw, decide_eq_false (Nat.not_le.mpr hq), hp, consume_c]
  rfl

/-- ACCVT queues the tile that its accumulator converts to, with the flags of the conversions. -/
theorem exec_accvt_queues {s : State} {t : Thread} {n : BitVec 1} {u : BitVec 3} {b : BitVec 1} :
    let i : Instr := .accvt n u b
    let x := tileAt (opened s t i) (consume t (usesOf i)) u.toNat
    let v := ((opened s t i).core (opened s t i).cur.core).acc n.toNat
    let one (r j : Nat) : Nat × Nat :=
      let q := sourceValue (if b = 1 then { w := 32 } else { w := 32, fm := some fmF32 }) (.fin false 1 0) false (accElem v r j)
      convert x.ty 0 0 q.1.exact q.2
    Issues s t i → InCrew s t i → MatRoom (opened s t i) → x.cols ≤ 128 →
      exec i s = .next (retired (queued (opened s t i) [8 + n.toNat]
        [.tile u.toNat (tileOf x.rows fun r => packRow x.ty.w x.cols fun j => (one r j).1)]
        ((List.range x.rows).foldl (fun f r => (List.range x.cols).foldl (fun f j => f ||| (one r j).2) f) 0))) := by
  intro i x v one hi hc hm hx
  refine crewMember_retires hi hc ?_
  exact (if_neg (Nat.not_lt.mpr hx)).trans (enqueue_ok hm)

/-- ACADD queues the sum of two accumulators. -/
theorem exec_acadd_queues {s : State} {t : Thread} {n m b : BitVec 1} :
    let i : Instr := .acadd n m b
    let c := (opened s t i).core (opened s t i).cur.core
    let r := accOf fun r j =>
      if m = 1 then (saturate 32 (sgn 32 (accElem (c.acc n.toNat) r j) + sgn 32 (accElem (c.acc b.toNat) r j)), 0)
      else roundFm fmF32 0 0 (exactSum [fmF32.value (accElem (c.acc n.toNat) r j), fmF32.value (accElem (c.acc b.toNat) r j)])
    Issues s t i → InCrew s t i → MatRoom (opened s t i) →
      exec i s = .next (retired (queued (opened s t i) [8 + n.toNat, 8 + b.toNat] [.acc n.toNat r.1] r.2)) := fun hi hc hm =>
  crewMember_retires hi hc (enqueue_ok hm)

/-- Settles O34: each accumulator member by its own lemma. -/
theorem accumulators : Obligations.Accumulators := fun _ _ _ =>
  ⟨exec_aczero_queues, fun _ _ _ => exec_acld_queues, fun _ _ _ => exec_acst_stores, fun _ _ => exec_accvt_queues,
    fun _ _ => exec_acadd_queues⟩

/-! ### Network reductions (R247, R248) -/

/-- A word is its index and its value. -/
theorem eq_of_nredIndex_nredValue {a b : Word} (hi : nredIndex a = nredIndex b) (hv : nredValue a = nredValue b) : a = b := by
  apply BitVec.eq_of_toNat_eq
  have ha := a.isLt
  have hb := b.isLt
  simp only [nredIndex, nredValue, bitsOf] at hi hv
  omega

/-- The word with the lower index, or of equal indices the lower value, does not depend on the order. -/
theorem lowerWord_comm (a b : Word) : lowerWord a b = lowerWord b a := by
  by_cases h : nredIndex a = nredIndex b ∧ nredValue a = nredValue b
  · rw [eq_of_nredIndex_nredValue h.1 h.2]
  · simp only [lowerWord, Bool.or_eq_true, Bool.and_eq_true, decide_eq_true_eq]
    split <;> split
    · omega
    · rfl
    · rfl
    · omega

/-- Of two values at most one is less than the other. -/
theorem FVal.lt_asymm : ∀ {a b : FVal}, a.lt b = true → b.lt a = false
  | .inf n, .inf n', h => by
    cases n
    · cases h
    · simp [FVal.lt]
  | .inf n, .fin _ _ _, h => congrArg not h
  | .fin _ _ _, .inf n, h => Bool.not_eq_true' n ▸ h
  | .fin n m e, .fin n' m' e', h => by
    simp only [FVal.lt, decide_eq_true_eq] at h ⊢
    rw [min_comm e' e]
    exact decide_eq_false (not_lt_of_gt h)
  | .nan _, b, h => by cases b <;> cases h
  | .inf _, .nan _, h => by cases h
  | .fin _ _ _, .nan _, h => by cases h

/-- At most one is below the other, −0 ordered below +0. -/
theorem FVal.below_asymm {a b : FVal} (h : a.below b = true) : b.below a = false := by
  cases hba : b.below a
  · rfl
  · simp only [FVal.below, Bool.or_eq_true, Bool.and_eq_true, Bool.not_eq_true'] at h hba
    rcases h with h | ⟨⟨h1, h2⟩, h3⟩ <;> rcases hba with h' | ⟨⟨h1', h2'⟩, h3'⟩
    · rw [FVal.lt_asymm h] at h'
      cases h'
    · rw [h] at h1'
      cases h1'
    · rw [h'] at h1
      cases h1
    · rw [h2] at h3'
      cases h3'

/-- The winner of two FP32 contributions does not depend on their order: of two NaNs the lower word, of one the number, of two
numbers the one that is above (or below) the other. -/
theorem nredFloat_comm (isMax : Bool) (a b : Word) : nredFloat isMax a b = nredFloat isMax b a := by
  unfold nredFloat
  extract_lets x y
  rw [lowerWord_comm b a, Bool.and_comm y.isNan]
  have asymm {u v : FVal} (h : u.below v = true) : ¬v.below u = true := Bool.eq_false_iff.mp (FVal.below_asymm h)
  by_cases hx : x.isNan = true
  · by_cases hy : y.isNan = true
    · simp only [hx, hy, Bool.and_self, if_true]
    · simp only [hx, Bool.eq_false_iff.mpr hy, Bool.and_false, Bool.false_eq_true, if_false, if_true]
  · by_cases hy : y.isNan = true
    · simp only [Bool.eq_false_iff.mpr hx, hy, Bool.false_and, Bool.false_eq_true, if_false, if_true]
    · simp only [Bool.eq_false_iff.mpr hx, Bool.eq_false_iff.mpr hy, Bool.and_false, Bool.false_eq_true, if_false]
      cases isMax
      · apply ite_ite_comm
        exact asymm
      · apply ite_ite_comm
        exact asymm

/-- The winner of two INT32 contributions does not depend on their order. -/
theorem nredInt_comm (isMax : Bool) (a b : Word) : nredInt isMax a b = nredInt isMax b a := by
  unfold nredInt
  extract_lets x y
  rcases lt_trichotomy x y with h | h | h
  · cases isMax <;> simp [h.ne, h.ne', h, h.not_gt]
  · simp [h, lowerWord_comm]
  · cases isMax <;> simp [h.ne, h.ne', h, h.not_gt]

/-- Two contributions combine to the same word in either order (R248). -/
theorem combine_comm (op : Nat) (a b : Word) : combine op a b = combine op b a := by
  unfold combine
  split
  · exact nredFloat_comm true a b
  · exact nredInt_comm true a b
  · exact nredFloat_comm false a b
  · exact nredInt_comm false a b
  · exact BitVec.add_comm a b

/-- An NRED member of the crew's thread contributes (R247, R248). -/
theorem nredMember_contributes {s : State} {t : Thread} {i : Instr} {op : Nat} {d a : BitVec 5} {g : BitVec 4}
    (h : Issues s t i) :
    let id := s.cur.core
    let b := (s.core id).bar g.toNat
    let s0 := opened s t i
    let s1 := claimMe (if b.scope ≠ 0 then drain s0 s.myPath else s0) d
    let own : Nat × Nat × Word × Nat := (b.issued, op, s1.handleOf s1.cur, d.toNat)
    let put (s : State) (b : Bar) : State := s.setCore id { s.core id with bars := (s.core id).bars.set g.toNat b }
    let gone := s1.noRoute (entryModule b.root) && entryModule b.root != s1.modno
    InCrew s t i → b.unfilled.length < 2 →
      (b.rank = 0 → nredMember i op d a g s = .next (retired (nredArrive
        (put s1 { b with issued := b.issued + 1, unfilled := b.unfilled ++ [own] }) id g.toNat op (b.issued % 2) (t.s a.toNat)))) ∧
      (b.rank ≠ 0 →
        let s2 := put s1 { b with issued := b.issued + 1, unfilled := if gone then b.unfilled ++ [own] else b.unfilled }
        let w := packetOwner s1 id
        let s3 := sendPacket s2 id b.root (.nred b.root g.toNat op (b.issued % 2) (t.s a.toNat))
          (.nred g.toNat op (b.issued % 2) (t.s a.toNat)) w.1 w.2.1 w.2.2
        nredMember i op d a g s = .next (retired (if gone then s3 else filled s3 d 0))) := by
  intro id b s0 s1 own put gone hc hu
  have hb : ((opened s t i).core id).bar g.toNat = b := bar_opened s t i id g.toNat
  have hr : ¬2 ≤ b.unfilled.length := Nat.not_le.mpr hu
  have hs : (if (b.scope != 0) = true then drain (opened s t i) (opened s t i).myPath else opened s t i) =
      if b.scope ≠ 0 then drain s0 s.myPath else s0 := by
    simp only [bne_iff_ne]
    rfl
  constructor
  · intro h0
    refine crewMember_retires h hc ?_
    dsimp only
    rw [opened_cur, hb, hs, consume_s]
    exact (if_neg hr).trans (if_pos h0)
  · intro h0 s2 w s3
    refine crewMember_retires h hc ?_
    dsimp only
    rw [opened_cur, hb, hs, consume_s]
    exact (if_neg hr).trans (if_neg h0)

/-- NMAXI, NMINI and NADD are this form, with the operation of their table. -/
theorem exec_of_nredSpec {i : Instr} {d a : BitVec 5} {g : BitVec 4} {op : Nat} (h : nredSpec i = some (d, a, g, op)) (s : State) :
    exec i s = nredMember i op d a g s := by
  unfold nredSpec at h
  split at h
  case h_1 =>
    cases h
    rfl
  case h_2 =>
    cases h
    rfl
  case h_3 =>
    cases h
    rfl
  case h_4 => cases h

/-- Settles O40: every NRED member is one form, and contributions combine in either order. -/
theorem networkReductions : Obligations.NetworkReductions := by
  refine ⟨fun s t i d a g op hn h => ?_, combine_comm⟩
  rw [exec_of_nredSpec hn s]
  exact nredMember_contributes h

/-! ### System members (R318, R322–R328) -/

/-- What a system member does with its token: filled at once, or claimed and owed to a later step (R318). -/
def tokenEffect (u : State) (t : Thread) (d : BitVec 5) : Word ⊕ SysOp → State
  | .inl v => filled u d v
  | .inr op => owes u t d op

theorem fillNow_eq (u : State) (t : Thread) (d : BitVec 5) (v : Word) :
    fillNow u d v = .ok (tokenEffect u t d (.inl v), .next) := rfl

theorem fillLater_eq (u : State) (t : Thread) (d : BitVec 5) (op : SysOp) :
    fillLater u t d op = .ok (tokenEffect u t d (.inr op), .next) := rfl

section
variable {s u : State} {t : Thread} {r : Word ⊕ SysOp}

/-- HALT (R322). -/
theorem exec_halt_token {d d' a : BitVec 5} {m : BitVec 2} (h : Issues s t (.halt d a m))
    (hs : sysSpec (opened s t (.halt d a m)) (consume t (usesOf (.halt d a m))) (.halt d a m) = some (d', u, r)) :
    exec (.halt d a m) s = .next (retired (tokenEffect u (consume t (usesOf (.halt d a m))) d' r)) := by
  refine issue_retires h ?_
  dsimp only [sysSpec] at hs ⊢
  generalize haltTargets (opened s t (.halt d a m)) ((consume t (usesOf (.halt d a m))).s a.toNat) m = ids at hs ⊢
  cases ids with
  | none =>
    cases hs
    rfl
  | some ids =>
    dsimp only at hs ⊢
    split at hs
    · next hm =>
      cases hs
      exact if_pos hm
    · next hm =>
      cases hs
      exact if_neg hm

/-- HARVEST (R324). -/
theorem exec_harvest_token {d d' a b : BitVec 5} (h : Issues s t (.harvest d a b))
    (hs : sysSpec (opened s t (.harvest d a b)) (consume t (usesOf (.harvest d a b))) (.harvest d a b) = some (d', u, r)) :
    exec (.harvest d a b) s = .next (retired (tokenEffect u (consume t (usesOf (.harvest d a b))) d' r)) := by
  refine issue_retires h ?_
  dsimp only [sysSpec] at hs ⊢
  split at hs
  · cases hs
  · next hb =>
    rw [Option.not_isSome_iff_eq_none.mp hb]
    split at hs
    · next hn =>
      cases hs
      exact if_pos hn
    · next hn =>
      cases hs
      exact if_neg hn

/-- XINV (R325). -/
theorem exec_xinv_token {d d' a b : BitVec 5} {m : BitVec 2} (h : Issues s t (.xinv d a b m))
    (hs : sysSpec (opened s t (.xinv d a b m)) (consume t (usesOf (.xinv d a b m))) (.xinv d a b m) = some (d', u, r)) :
    exec (.xinv d a b m) s = .next (retired (tokenEffect u (consume t (usesOf (.xinv d a b m))) d' r)) := by
  refine issue_retires h ?_
  dsimp only [sysSpec] at hs ⊢
  split at hs
  · cases hs
  · next hb =>
    cases hs
    by_cases h0 : m = 0
    · have hr := Option.not_isSome_iff_eq_none.mp fun h => hb ⟨h0, h⟩
      rw [hr]
      subst h0
      rfl
    · refine (if_neg (mt (reg_zero m).mp h0)).trans ?_
      by_cases h1 : m = 1
      · subst h1
        rfl
      · have h1' : m.toNat ≠ 1 := fun h => h1 (BitVec.eq_of_toNat_eq h)
        rw [if_neg h1', if_neg h0, if_neg h1]
        rfl

/-- The bits above a key slot's number are clear in a word up to 63. -/
theorem bitsOf_63_6_ne_zero (w : Word) : (bitsOf w 63 6 != 0) = decide (63 < w.toNat) := by
  have hw := w.isLt
  rw [Bool.eq_iff_iff, bne_iff_ne, decide_eq_true_eq, bitsOf]
  omega

/-- KEYCLR (R327). -/
theorem exec_keyclr_token {d d' a : BitVec 5} (h : Issues s t (.keyclr d a))
    (hs : sysSpec (opened s t (.keyclr d a)) (consume t (usesOf (.keyclr d a))) (.keyclr d a) = some (d', u, r)) :
    exec (.keyclr d a) s = .next (retired (tokenEffect u (consume t (usesOf (.keyclr d a))) d' r)) := by
  refine issue_retires h ?_
  dsimp only [sysSpec] at hs ⊢
  rw [bitsOf_63_6_ne_zero]
  split at hs
  · cases hs
  · next hw =>
    refine (if_neg (by simpa using hw)).trans ?_
    split at hs
    · next hk =>
      cases hs
      exact if_neg (by simpa using hk)
    · next hk =>
      cases hs
      exact if_pos (by simpa using hk)

/-- SPILLRPL (R328). -/
theorem exec_spillrpl_token {d d' a b : BitVec 5} (h : Issues s t (.spillrpl d a b))
    (hs : sysSpec (opened s t (.spillrpl d a b)) (consume t (usesOf (.spillrpl d a b))) (.spillrpl d a b) = some (d', u, r)) :
    exec (.spillrpl d a b) s = .next (retired (tokenEffect u (consume t (usesOf (.spillrpl d a b))) d' r)) := by
  refine issue_retires h ?_
  dsimp only [sysSpec] at hs ⊢
  generalize namedCore ((consume t (usesOf (.spillrpl d a b))).s a.toNat) = src at hs ⊢
  generalize namedCore ((consume t (usesOf (.spillrpl d a b))).s b.toNat) = dst at hs ⊢
  cases src with
  | none =>
    cases hs
    rfl
  | some src =>
    cases dst with
    | none =>
      cases hs
      rfl
    | some dst =>
      cases hs
      rfl

/-- A system member with a token has the effect that its table gives. -/
theorem exec_of_sysSpec {i : Instr} {d : BitVec 5} (h : Issues s t i)
    (hs : sysSpec (opened s t i) (consume t (usesOf i)) i = some (d, u, r)) :
    exec i s = .next (retired (tokenEffect u (consume t (usesOf i)) d r)) := by
  cases i
  case halt => exact exec_halt_token h hs
  case harvest => exact exec_harvest_token h hs
  case xinv => exact exec_xinv_token h hs
  case keyclr => exact exec_keyclr_token h hs
  case spillrpl => exact exec_spillrpl_token h hs
  all_goals cases hs

end

/-- WAKE and WAKE.PG perform the path's stores and send the wake (R25, R323). -/
theorem wakeMember_sends {s : State} {t : Thread} {i : Instr} {a : BitVec 5} {page : Bool} (h : Issues s t i) :
    wakeMember i a page s = .next (retired (send (drain (opened s t i) s.myPath)
      { dest := handleCore (t.s a.toNat), src := s.cur, launch := t.launch, rcb := senderRcb (opened s t i) (consume t (usesOf i))
        body := .wake (t.s a.toNat) page, sender := t.number, crew := t.crewId })) := by
  refine issue_retires h ?_
  dsimp only
  rw [consume_s, consume_launch, consume_number, consume_crewId]
  rfl

/-- A record whose bits from 896 on are clear. -/
theorem extractLsb'_896_eq_zero {r : BitVec 1024} (h : r.toNat < 2 ^ 896) : r.extractLsb' 896 128 = 0 := by
  apply BitVec.eq_of_toNat_eq
  rw [BitVec.extractLsb'_toNat, Nat.shiftRight_eq_zero _ _ h]
  rfl

/-- KEYSET of a request and a record in range loads the record, or reports that no slot is free (R326). -/
theorem exec_keyset {s : State} {t : Thread} {d a : BitVec 5} {c : BitVec 4} {pl : Place} (h : Issues s t (.keyset d a c)) :
    let s1 := opened s t (.keyset d a c)
    let t1 := consume t (usesOf (.keyset d a c))
    Room t d →
    let w := t.s a.toNat
    let cap := t.c c.toNat
    bitsOf w 63 7 = 0 → (bitOf w 6 = true → bitsOf w 5 0 = 0) → capCheck cap cap.base 128 permR = none → cap.space = 0 →
    memCheck s1 s.cur t1 cap cap.base 128 128 permR { r := true } = .ok pl →
    let s2 := (settleWide s1 s1.myPath false pl 128).reachAt pl
    let record := BitVec.ofNat 1024 (s2.loadNat s2.myPath pl 128)
    record.toNat < 2 ^ 896 →
      exec (.keyset d a c) s = .next (retired (match keySlotFor s2 w with
        | some n => awaiting (loadKey s2 n record) d (BitVec.ofNat 64 (n * 2 ^ 8))
        | none => awaiting s2 d (BitVec.ofNat 64 (0x12 + bitsOf w 5 0 * 2 ^ 8)))) := by
  intro s1 t1 hd w cap h7 h5 hc hsp hm s2 record hr
  dsimp only [s1, t1, w, cap] at h7 h5 hc hsp hm
  refine issue_retires h ?_
  dsimp only
  rw [noRoom_consume, noRoom_of_room hd, consume_s, consume_c, opened_cur, hc, hsp, hm]
  refine (if_neg Bool.false_ne_true).trans ((if_neg ?_).trans ?_)
  · simp only [h7, bne_self_eq_false, Bool.false_or, Bool.and_eq_true, bne_iff_ne, not_and, not_not]
    exact h5
  · refine (if_neg Bool.false_ne_true).trans ((if_neg ?_).trans ?_)
    · exact Bool.eq_false_iff.mp (by rw [bne_eq_false_iff_eq]; exact extractLsb'_896_eq_zero hr)
    · simp only [returns_eq]
      dsimp only [s1, s2, record, w]
      generalize keySlotFor _ _ = k
      cases k with
      | none => rfl
      | some n => rfl

/-- Settles O43: the members with a token by their table, the wakes, and KEYSET. -/
theorem systemMembers : Obligations.SystemMembers := by
  intro s t i h
  refine ⟨fun d u v hs => (exec_of_sysSpec h hs :), fun d u op hs => (exec_of_sysSpec h hs :), ?_, ?_⟩
  · rintro a page (⟨rfl, rfl⟩ | ⟨rfl, rfl⟩)
    · exact (show exec (.wake a) s = wakeMember (.wake a) a false s from rfl).trans (wakeMember_sends h)
    · exact (show exec (.wakePg a) s = wakeMember (.wakePg a) a true s from rfl).trans (wakeMember_sends h)
  · rintro d a c pl rfl
    exact exec_keyset h

/-! ### Deliveries (R11–R15, R25, R155, R160, R169, R248, R314, R335) -/

/-- A step about deliveries of a kind is the network's step for that kind. -/
theorem exec_of_netSpec {i : Instr} {p : Body → Bool} (h : netSpec i = some p) (s : State) : exec i s = netEvent s p := by
  unfold netSpec at h
  split at h
  case h_11 => cases h
  all_goals
    cases h
    rfl

/-- The delivery that the step is about leaves the network and reaches its interface, in the order of R13. -/
theorem netEvent_delivers {s : State} {p : Body → Bool} {d : Delivery} (hd : s.net[s.cue.a]? = some d) (hp : p d.body = true)
    (ho : inOrder s s.cue.a d = true) :
    netEvent s p = .next ((deliver { s with net := s.net.eraseIdx s.cue.a } d).getD s).bump := by
  simp only [netEvent, hd, hp, ho]
  rfl

/-- A fill by handle reaches its live thread (R12). -/
theorem deliver_token {s : State} {d : Delivery} {h v : Word} {r : Nat} {l : Loc} (hb : d.body = .token h r v)
    (hl : routeHandle s h d.launch = .thread l) (hr : replaying s l.core = false) :
    deliver s d = some (s.onThread l fun t => (t.fill r v).unsync r) := by
  simp only [deliver, hb, Body.handle, hl, hr, takeEffect]
  rfl

/-- A reply reaches its live thread, unless it meets a claimed token (R160). -/
theorem deliver_reply {s : State} {d : Delivery} {h v : Word} {r : Nat} {l : Loc} (hb : d.body = .reply h r v)
    (hl : routeHandle s h d.launch = .thread l) (hr : replaying s l.core = false)
    (hc : (s.thread l).isClaimed r = false ∨ (s.thread l).isFull r = true) :
    deliver s d = some (s.onThread l fun t => (t.setS r v).unsync r) := by
  have hn : ((s.thread l).isClaimed r && !(s.thread l).isFull r) = false := by
    rcases hc with hc | hc <;> simp [hc]
  simp only [deliver, hb, Body.handle, hl, hr, takeEffect, replyTo, hn]
  rfl

/-- The first held arrival of a core is placed once it can be (R13). -/
theorem exec_heldArrivalPlaced {s u : State} {d : Delivery} {ds : List Delivery} (hh : (s.core s.cue.a).held = d :: ds)
    (hp : placeArrival (s.setCore s.cue.a { s.core s.cue.a with held := ds }) s.cue.a d = some u) :
    exec .heldArrivalPlaced s = .next u.bump := by
  show execHeldArrivalPlaced s = _
  simp only [execHeldArrivalPlaced, hh, hp]
  rfl

/-- The first waiting START of a core places its helper once there is room (R11). -/
theorem exec_helperPlaced {s : State} {n k r : Nat} {ns : List Nat} {e v : Word} (hq : (s.core s.cue.a).startq = n :: ns)
    (hw : (s.thread { core := s.cue.a, slot := n }).wait = some (.start e v r)) (hr : helperRoom s s.cue.a = some k) :
    let l : Loc := { core := s.cue.a, slot := n }
    exec .helperPlaced s = .next (completeAt (placeIn (s.setCore s.cue.a { s.core s.cue.a with startq := ns })
      { core := s.cue.a, slot := k } (helperOf (s.thread l) (s.handleOf l) e v r)) l fun t => t).bump := by
  show execHelperPlaced s = _
  simp only [execHelperPlaced, hq, hw, hr]
  rfl

/-- The first waiting VGROW of a core gets its registers once they are free (R155). -/
theorem exec_vgrowSatisfied {s : State} {n k : Nat} {ns : List Nat} (hq : (s.core s.cue.a).vgrowq = n :: ns)
    (hw : (s.thread { core := s.cue.a, slot := n }).wait = some (.vgrow k)) (hf : k ≤ freeVectors s s.cue.a) :
    exec .vgrowSatisfied s = .next (completeAt (s.setCore s.cue.a { s.core s.cue.a with vgrowq := ns })
      { core := s.cue.a, slot := n } fun t => { t with vallot := t.vallot + k }).bump := by
  show execVgrowSatisfied s = _
  simp only [execVgrowSatisfied, hq, hw, if_neg (Nat.not_lt.mpr hf)]
  rfl

/-- Settles O44: the network's step, what it does at a thread, and the three queues of a core. -/
theorem deliveries : Obligations.Deliveries := by
  refine ⟨⟨fun s i p d hi hd hp ho => ?_, fun s d h v r l hl hr => ⟨fun hb => deliver_token hb hl hr, fun hb => deliver_reply hb hl hr⟩⟩,
    fun s => ⟨fun _ _ _ => exec_heldArrivalPlaced, fun _ _ _ _ _ _ => exec_helperPlaced, fun _ _ _ => exec_vgrowSatisfied⟩⟩
  rw [exec_of_netSpec hi s]
  exact netEvent_delivers hd hp ho

/-! ### The slot that issues (R22, R154) -/

/-- The cycle from which the wait of a slot of an agent counts. -/
def waitFrom (s : State) (id k : Nat) : Nat := (s.thread { core := id, slot := k }).readyFrom.getD (s.core id).cycle

/-- Neither the slot nor its thread has issued in the last cycles that R22 and R154 name. -/
def maySlot (s : State) (id k : Nat) : Prop :=
  (s.slot { core := id, slot := k }).nextIssue ≤ (s.core id).cycle ∧
    (s.thread { core := id, slot := k }).nextIssue ≤ (s.core id).cycle

/-- The choice between the best slot so far and the next one. -/
def betterSlot (s : State) (id : Nat) (best : Option Nat) (n : Nat) : Option Nat :=
  if (s.core id).cycle < issuesFrom s { core := id, slot := n } then best
  else match best with
    | none => some n
    | some b => if waitFrom s id n < waitFrom s id b then some n else best

/-- The barrel's choice takes the ready slots one by one. -/
theorem pickSlot_eq (s : State) (id : Nat) (ready : List Nat) : pickSlot s id ready = ready.foldl (betterSlot s id) none := rfl

/-- What is best of the slots seen so far: the eligible one that has waited longest, of equal ones the lowest; none where none is
eligible. -/
def IsBest (s : State) (id : Nat) (seen : List Nat) : Option Nat → Prop
  | none => ∀ k ∈ seen, ¬maySlot s id k
  | some n => n ∈ seen ∧ maySlot s id n ∧ ∀ k ∈ seen, maySlot s id k →
      waitFrom s id n ≤ waitFrom s id k ∧ (waitFrom s id n = waitFrom s id k → n ≤ k)

/-- A slot that may not issue is not chosen. -/
theorem betterSlot_of_not_maySlot {s : State} {id n : Nat} (best : Option Nat) (h : ¬maySlot s id n) :
    betterSlot s id best n = best :=
  if_pos (Nat.lt_of_not_le fun hle => h (max_le_iff.mp hle))

/-- A slot that may issue is compared with the best so far. -/
theorem betterSlot_of_maySlot {s : State} {id n : Nat} (best : Option Nat) (h : maySlot s id n) :
    betterSlot s id best n = match best with
      | none => some n
      | some b => if waitFrom s id n < waitFrom s id b then some n else best :=
  if_neg (Nat.not_lt.mpr (max_le_iff.mpr h))

/-- A slot above those seen, compared with the best of them, leaves the best of all. -/
theorem IsBest.better {s : State} {id n : Nat} {seen : List Nat} {best : Option Nat} (h : IsBest s id seen best)
    (hn : ∀ k ∈ seen, k < n) : IsBest s id (seen ++ [n]) (betterSlot s id best n) := by
  by_cases hm : maySlot s id n
  · rw [betterSlot_of_maySlot best hm]
    cases best with
    | none =>
      refine ⟨by simp, hm, fun k hk hkm => ?_⟩
      rcases List.mem_append.mp hk with hk | hk
      · exact absurd hkm (h k hk)
      · rw [List.mem_singleton.mp hk]
        exact ⟨le_refl _, fun _ => le_refl _⟩
    | some b =>
      obtain ⟨hb, hbm, hmin⟩ := h
      dsimp only
      split
      · next hlt =>
        refine ⟨by simp, hm, fun k hk hkm => ?_⟩
        rcases List.mem_append.mp hk with hk | hk
        · have := (hmin k hk hkm).1
          omega
        · rw [List.mem_singleton.mp hk]
          exact ⟨le_refl _, fun _ => le_refl _⟩
      · next hle =>
        refine ⟨List.mem_append_left _ hb, hbm, fun k hk hkm => ?_⟩
        rcases List.mem_append.mp hk with hk | hk
        · exact hmin k hk hkm
        · rw [List.mem_singleton.mp hk]
          exact ⟨Nat.not_lt.mp hle, fun _ => (hn b hb).le⟩
  · rw [betterSlot_of_not_maySlot best hm]
    cases best with
    | none =>
      intro k hk
      rcases List.mem_append.mp hk with hk | hk
      · exact h k hk
      · rwa [List.mem_singleton.mp hk]
    | some b =>
      obtain ⟨hb, hbm, hmin⟩ := h
      refine ⟨List.mem_append_left _ hb, hbm, fun k hk hkm => ?_⟩
      rcases List.mem_append.mp hk with hk | hk
      · exact hmin k hk hkm
      · rw [List.mem_singleton.mp hk] at hkm
        exact absurd hkm hm

/-- The slots taken in rising order, from the best of those before them. -/
theorem IsBest.foldl {s : State} {id : Nat} (rest : List Nat) {seen : List Nat} {best : Option Nat} (h : IsBest s id seen best)
    (hs : (seen ++ rest).Pairwise (· < ·)) : IsBest s id (seen ++ rest) (rest.foldl (betterSlot s id) best) := by
  induction rest generalizing seen best with
  | nil => simpa using h
  | cons n rest ih =>
    have hn : ∀ k ∈ seen, k < n := fun k hk => (List.pairwise_append.mp hs).2.2 k hk n (by simp)
    rw [List.append_cons] at hs ⊢
    exact ih (h.better hn) hs

/-- Settles O54: the chosen slot is the best of the ready ones. -/
theorem fairness : Obligations.Fairness := by
  intro s id n ready hs hp
  have h : IsBest s id ready (pickSlot s id ready) := by
    rw [pickSlot_eq]
    exact IsBest.foldl (seen := []) ready (fun _ hk => absurd hk List.not_mem_nil) hs
  rw [hp] at h
  exact h

/-! ### What an instruction does with its own thread (R22, R109, R138) -/

/-- The slot that issues takes a new content of the same generation. -/
def Reslots (s u : State) : Prop := ∃ x : Slot, x.gen = (s.slot s.cur).gen ∧ u = s.setSlot s.cur x

/-- A state that differs in the slot that issues alone, if at all. -/
def OwnSlot (s u : State) : Prop := u = s ∨ Reslots s u

theorem State.setSlot_setSlot (s : State) (l : Loc) (x y : Slot) : (s.setSlot l x).setSlot l y = s.setSlot l y := by
  simp only [State.setSlot, State.setCore, State.core, Tab.get_set_self, Tab.set_set]

theorem Reslots.trans {s u v : State} (h : Reslots s u) (h' : Reslots u v) : Reslots s v := by
  obtain ⟨x, hx, rfl⟩ := h
  obtain ⟨y, hy, rfl⟩ := h'
  have hc : (s.setSlot s.cur x).cur = s.cur := rfl
  rw [hc, State.slot_setSlot, if_pos rfl] at hy
  exact ⟨y, hy.trans hx, by rw [hc, State.setSlot_setSlot]⟩

theorem OwnSlot.reslots {s u v : State} (h : OwnSlot s u) (h' : Reslots u v) : Reslots s v := by
  rcases h with rfl | h
  · exact h'
  · exact h.trans h'

theorem OwnSlot.trans {s u v : State} (h : OwnSlot s u) (h' : OwnSlot u v) : OwnSlot s v := by
  rcases h' with rfl | h'
  · exact h
  · exact .inr (h.reslots h')

theorem ownSlot_setMe (s : State) (t : Thread) : OwnSlot s (s.setMe t) := .inr ⟨{ s.slot s.cur with thread := some t }, rfl, rfl⟩

theorem ownSlot_onThread (s : State) (f : Thread → Thread) : OwnSlot s (s.onThread s.cur f) := by
  unfold State.onThread
  split
  · exact ownSlot_setMe s _
  · exact .inl rfl

theorem ownSlot_holding (s : State) (d : BitVec 5) (v : Word) (n : Nat) : OwnSlot s (holding s d v n) := by
  unfold holding
  split
  · exact .inl rfl
  · exact ownSlot_setMe s _

theorem ownSlot_awaiting (s : State) (d : BitVec 5) (v : Word) : OwnSlot s (awaiting s d v) := by
  unfold awaiting
  split
  · exact .inl rfl
  · exact ownSlot_setMe s _

/-- An issue notes its cycle in the slot, whether or not it holds a thread. -/
theorem reslots_issued (s : State) : Reslots s (issued s) := by
  unfold issued
  split
  · next t _ => exact ⟨{ s.slot s.cur with
      thread := some { t with nextIssue := max t.nextIssue (s.cycle + 4), readyFrom := some s.cycle } }, rfl, rfl⟩
  · exact ⟨{ s.slot s.cur with nextIssue := max (s.slot s.cur).nextIssue (s.cycle + 4) }, rfl, rfl⟩

/-- A change of the slot that issues is all that `OnlyMe` allows. -/
theorem Reslots.onlyMe {s u : State} (h : Reslots s u) : OnlyMe s u.bump := by
  obtain ⟨x, hx, rfl⟩ := h
  refine ⟨rfl, fun id => ?_, fun l hl => ?_, ?_, fun _ _ _ => rfl, fun _ _ _ => rfl⟩
  · rw [State.core_bump, State.core_setSlot]
    split
    · rfl
    · rfl
  · rw [State.slot_bump, State.slot_setSlot, if_neg hl]
  · rw [State.slot_bump, State.slot_setSlot, if_pos rfl, hx]

/-- An instruction that ends by an issue, after effects on its own slot. -/
theorem OwnSlot.onlyMe_issued {s u : State} (h : OwnSlot s u) : OnlyMe s (issued u).bump :=
  (h.reslots (reslots_issued u)).onlyMe

theorem OwnSlot.onlyMe_retired {s u : State} (h : OwnSlot s u) (px : Px) : OnlyMe s (retired u px) :=
  (h.trans (ownSlot_onThread u _)).onlyMe_issued

theorem OwnSlot.onlyMe_jumped {s u : State} (h : OwnSlot s u) (pc : Word) : OnlyMe s (jumped u pc) :=
  (h.trans (ownSlot_onThread u _)).onlyMe_issued

/-- The other paths when a store joins one. -/
theorem path_pushStore_ne (s : State) {p q : Nat} (x : PStore) (h : q ≠ p) : (pushStore s p x).path q = s.path q :=
  Tab.get_set_ne _ _ _ h

/-- Settles O56: every ending issues after effects on the own slot, and a store joins its own path. -/
theorem frames : Obligations.Frames := by
  intro s
  have hs : OwnSlot s s := .inl rfl
  exact ⟨hs.onlyMe_retired, hs.onlyMe_jumped, hs.onlyMe_issued,
    fun d v n => ⟨(ownSlot_holding s d v n).onlyMe_retired _, (ownSlot_awaiting s d v).onlyMe_retired _,
      (ownSlot_setMe s _).onlyMe_retired _⟩,
    fun t i px _ => (ownSlot_setMe s (consume t (usesOf i))).onlyMe_retired px,
    fun p x asid va pa => ⟨rfl, rfl, fun q h => path_pushStore_ne s x h⟩⟩

/-! ### The step (R22, R101, R105) -/

/-- The cycle of an agent that runs, by the terms in which the claims are stated. -/
theorem coreTurn_some {s : State} {id n : Nat} (ha : agentOn s id = true) (hh : (s.core id).halted = false)
    (hi : (s.core id).intr = false) (hs : (s.core id).stopped = false)
    (hp : pickSlot (marked s id) id (readySlots s id) = some n) :
    coreTurn s id = runSlot (marked s id) { core := id, slot := n } := by
  unfold coreTurn
  rw [if_neg (by simp [ha])]
  extract_lets c s1 ready s2
  have hmarked : s2 = marked s id := rfl
  have hready : ready = readySlots s id := rfl
  rw [if_neg (by simp [c, hh, hi, hs]), hmarked, hready, hp]

/-- In the turn of an agent that runs, the slot that issues runs its instruction (R22). -/
theorem step_of_core {s : State} {id n : Nat} (h : (nextTurn s).1 = .core id) (ha : agentOn (nextTurn s).2 id = true)
    (hh : ((nextTurn s).2.core id).halted = false) (hi : ((nextTurn s).2.core id).intr = false)
    (hs : ((nextTurn s).2.core id).stopped = false)
    (hp : pickSlot (marked (nextTurn s).2 id) id (readySlots (nextTurn s).2 id) = some n) :
    step s = ended (runSlot (marked (nextTurn s).2 id) { core := id, slot := n }) := by
  rw [step, h, ← coreTurn_some ha hh hi hs hp]
  rfl

/-- The entry of a thread passes the check of R105. -/
theorem entry_ok {v : State} {t : Thread} (h : t.fresh = true → t.kind ≠ .migrated → insidePair v t t.pc = false) :
    (t.fresh && t.kind != .migrated && insidePair v t t.pc) = false := by
  cases hf : t.fresh
  · rfl
  · by_cases hk : t.kind = .migrated
    · simp [hk]
    · simp [h hf hk]

section
variable {u : State} {l : Loc} {t : Thread} (ht : u.thread? l = some t)
include ht

/-- A fetch that fails, fails the instruction (R101). -/
theorem runSlot_fetch_fails {e : Stop} (hw : fetchWord { u with cur := l, stalled := false } t t.pc = .error e) :
    runSlot u l = .next (fail { u with cur := l, stalled := false } e).bump := by
  have ht' : State.thread? { u with cur := l, stalled := false } l = some t := ht
  simp only [runSlot, ht', hw]

/-- An entry inside a pair faults (R105). -/
theorem runSlot_inside_pair {w : BitVec 32} (hw : fetchWord { u with cur := l, stalled := false } t t.pc = .ok w)
    (hf : t.fresh = true) (hk : t.kind ≠ .migrated) (hi : insidePair { u with cur := l, stalled := false } t t.pc = true) :
    runSlot u l = .next (fail (fetched { u with cur := l, stalled := false } t) (.cause 0x10 t.pc)).bump := by
  have ht' : State.thread? { u with cur := l, stalled := false } l = some t := ht
  have hk' : (t.kind != .migrated) = true := bne_iff_ne.mpr hk
  simp only [runSlot, ht', hw, hf, hk', hi]
  rfl

/-- A word that is no prefix runs the instruction that it decodes to (R101). -/
theorem runSlot_word {w : BitVec 32} (hw : fetchWord { u with cur := l, stalled := false } t t.pc = .ok w)
    (he : t.fresh = true → t.kind ≠ .migrated → insidePair { u with cur := l, stalled := false } t t.pc = false)
    (hm : majorOf w ≠ 0x3E) :
    runSlot u l = exec (decodeWord w) { fetched { u with cur := l, stalled := false } t with word := w, next := 0 } := by
  have ht' : State.thread? { u with cur := l, stalled := false } l = some t := ht
  simp only [runSlot, ht', hw, entry_ok he, if_neg hm]
  rfl

/-- A prefix runs with the word after it (R105). -/
theorem runSlot_pair {w x : BitVec 32} (hw : fetchWord { u with cur := l, stalled := false } t t.pc = .ok w)
    (he : t.fresh = true → t.kind ≠ .migrated → insidePair { u with cur := l, stalled := false } t t.pc = false)
    (hm : majorOf w = 0x3E) (hx : fetchWord { u with cur := l, stalled := false } t (t.pc + 4) = .ok x) :
    runSlot u l = exec .vectorPrefix
      { (fetched { u with cur := l, stalled := false } t).reach t.asid (t.pc + 4).toNat with word := w, next := x } := by
  have ht' : State.thread? { u with cur := l, stalled := false } l = some t := ht
  simp only [runSlot, ht', hw, entry_ok he, if_pos hm, hx]
  rfl

/-- The fetch of a pair's second word that fails, fails the pair (R105). -/
theorem runSlot_pair_fails {w : BitVec 32} {e : Stop} (hw : fetchWord { u with cur := l, stalled := false } t t.pc = .ok w)
    (he : t.fresh = true → t.kind ≠ .migrated → insidePair { u with cur := l, stalled := false } t t.pc = false)
    (hm : majorOf w = 0x3E) (hx : fetchWord { u with cur := l, stalled := false } t (t.pc + 4) = .error e) :
    runSlot u l = .next (fail (fetched { u with cur := l, stalled := false } t) e).bump := by
  have ht' : State.thread? { u with cur := l, stalled := false } l = some t := ht
  simp only [runSlot, ht', hw, entry_ok he, if_pos hm, hx]
  rfl

end

/-- A step outside the barrels runs its row of the opcode table. -/
theorem step_of_event {s : State} {i : Instr} {cue : Cue} (h : (nextTurn s).1 = .event i cue) (hw : hasWord i = false)
    (h1 : i ≠ .illegalInstruction) (h2 : i ≠ .reservedEncoding) (h3 : i ≠ .vectorPrefix) :
    step s = ended (exec i { (nextTurn s).2 with cue }) := by
  rw [step, h]
  refine congrArg ended (if_neg ?_)
  simp [hw, h1, h2, h3]

/-- Settles O53: the turn of an agent by what its slot fetches, a step outside, and what every turn ends with. -/
theorem stepRuns : Obligations.StepRuns := by
  intro s
  refine ⟨?_, fun i cue h => step_of_event h, fun u => rfl⟩
  intro id n t h s0 u l ha hh hi hs hp ht v v1 v2
  have hstep := step_of_core h ha hh hi hs hp
  refine ⟨fun w hw he => ⟨fun hm => ?_, fun x hm hx => ?_, fun e hm hx => ?_⟩, fun e hw => ?_, fun w hw hf hk hin => ?_⟩
  · rw [hstep, runSlot_word ht hw he hm]
  · rw [hstep, runSlot_pair ht hw he hm hx]
  · rw [hstep, runSlot_pair_fails ht hw he hm hx]
  · rw [hstep, runSlot_fetch_fails ht hw]
  · rw [hstep, runSlot_inside_pair ht hw hf hk hin]

end Sys2Proof.Machine
end

section
/-!
PROOF. The memory hierarchy (chapter 02): a write performed at its home slice and what reads it, the steps of the units, and those of the
directory, the hosts, the links and the service pairs.
-/

namespace Sys2Proof.Machine

/-! ### Bytes of words and of lines (R2) -/

/-- A number is what its bytes give. -/
theorem leNat_byteOf (v n : Nat) : leNat (byteOf v) n = v % 256 ^ n := by
  induction n with
  | zero => simp [leNat, Nat.mod_one]
  | succ n ih => rw [leNat, ih, byteOf, BitVec.toNat_ofNat, Nat.mod_pow_succ (b := 256), Nat.mul_comm]

/-- Equal bytes make equal numbers. -/
theorem leNat_congr {f g : Nat → Byte} {n : Nat} (h : ∀ i, i < n → f i = g i) : leNat f n = leNat g n := by
  induction n with
  | zero => rfl
  | succ n ih => rw [leNat, leNat, ih fun i hi => h i (by omega), h n (by omega)]

/-- A byte of a line, as a byte of its number. -/
theorem extract_byte (v : BitVec 1024) (i : Nat) : v.extractLsb' (8 * i) 8 = byteOf v.toNat i := by
  apply BitVec.eq_of_toNat_eq
  simp [byteOf, Nat.shiftRight_eq_div_pow, Nat.pow_mul]

/-- The mask of `size` bytes from `off` on. -/
theorem mask_bit {off size : Nat} (h : off + size ≤ 128) (k : Nat) :
    ((BitVec.ofNat 1024 (2 ^ (8 * size) - 1)) <<< (8 * off)).getLsbD k = decide (8 * off ≤ k ∧ k < 8 * (off + size)) := by
  rw [BitVec.getLsbD_shiftLeft, BitVec.getLsbD_ofNat, Nat.testBit_two_pow_sub_one, Bool.eq_iff_iff]
  simp only [Bool.and_eq_true, Bool.not_eq_true', decide_eq_true_eq, decide_eq_false_iff_not]
  omega

/-- A line after some of its bytes are replaced, bit by bit. -/
theorem splice_bit (old v : BitVec 1024) {off size : Nat} (h : off + size ≤ 128) (k : Nat) :
    (splice old off size v).getLsbD k =
      if 8 * off ≤ k ∧ k < 8 * (off + size) then v.getLsbD (k - 8 * off) else old.getLsbD k := by
  simp only [splice, BitVec.getLsbD_or, BitVec.getLsbD_and, BitVec.getLsbD_not, mask_bit h, BitVec.getLsbD_shiftLeft]
  split
  · next hk =>
    have h1 : k < 1024 := by omega
    have h2 : ¬k < 8 * off := by omega
    simp [hk, h1, h2]
  · next hk =>
    by_cases h1 : k < 1024
    · simp [hk, h1]
    · simp [hk, BitVec.getLsbD_of_ge old k (by omega)]

/-- A line after some of its bytes are replaced, byte by byte. -/
theorem splice_byte (old v : BitVec 1024) {off size : Nat} (h : off + size ≤ 128) (j : Nat) :
    (splice old off size v).extractLsb' (8 * j) 8 =
      if off ≤ j ∧ j < off + size then byteOf v.toNat (j - off) else old.extractLsb' (8 * j) 8 := by
  rw [← extract_byte]
  apply BitVec.eq_of_getLsbD_eq
  intro i hi
  rw [BitVec.getLsbD_extractLsb', splice_bit old v h]
  by_cases hj : off ≤ j ∧ j < off + size
  · rw [if_pos hj, if_pos (by omega), BitVec.getLsbD_extractLsb']
    congr 2
    omega
  · rw [if_neg hj, if_neg (by omega), BitVec.getLsbD_extractLsb']

/-! ### Lines and places -/

/-- Bytes of one line have its key. -/
theorem lineKey_add {va i : Nat} (asid : Nat) (h : va % 128 + i < 128) : lineKey asid (va + i) = lineKey asid va := by
  rw [lineKey, lineKey, show (va + i) / 128 = va / 128 by omega]

/-- A byte by the line that its slice holds of it, if it does. -/
theorem State.byte_eq (s : State) (asid va pa : Nat) : s.byte asid va pa =
    match (s.lines.find (lineKey asid va)).filter fun l => l.frame == pa / 128 * 128 with
    | some l => l.data.extractLsb' (8 * (va % 128)) 8
    | none => memGet s.mem pa := rfl

/-- Bytes depend on the lines held and on memory alone. -/
theorem State.byte_congr {s u : State} (hl : u.lines = s.lines) (hm : u.mem = s.mem) (asid va pa : Nat) :
    u.byte asid va pa = s.byte asid va pa := by
  rw [State.byte_eq, State.byte_eq, hl, hm]

/-! ### A write of a held line (R47) -/

/-- The drupelet that a slice finds for a line where its storage has one (R365). -/
theorem needDrup_of_room {s : State} {key : Nat} (h : drupsUsed s (keyHome key) < sliceDrups) : needDrup s key = s := by
  unfold needDrup
  simp only [h, if_true, ite_self]

/-- A state that holds a line of a key anew, and differs in neither another line, nor memory, nor the grants. -/
structure Relines (s u : State) (key : Nat) (l : Line) : Prop where
  lines : ∀ k, u.lines.find k = if k = key then some l else s.lines.find k
  mem : u.mem = s.mem
  grants : u.grants = s.grants

theorem relines_set {s u : State} {key : Nat} {l : Line} (hl : u.lines = s.lines.set key l) (hm : u.mem = s.mem)
    (hg : u.grants = s.grants) : Relines s u key l :=
  ⟨fun k => by rw [hl, Tab.find_set], hm, hg⟩

/-- A line that stays as it is. -/
theorem relines_self {s : State} {key : Nat} {l : Line} (h : s.lines.find key = some l) : Relines s s key l := by
  refine ⟨fun k => ?_, rfl, rfl⟩
  split
  · next hk => rw [hk, h]
  · rfl

theorem Relines.trans {s u v : State} {key : Nat} {l l' : Line} (h : Relines s u key l) (h' : Relines u v key l') :
    Relines s v key l' := by
  refine ⟨fun k => ?_, h'.mem.trans h.mem, h'.grants.trans h.grants⟩
  rw [h'.lines, h.lines]
  split <;> rfl

@[simp] theorem dropRef_lines (s : State) (id : Nat) : (dropRef s id).lines = s.lines := by unfold dropRef; dsimp only; split <;> rfl

@[simp] theorem dropRef_grants (s : State) (id : Nat) : (dropRef s id).grants = s.grants := by
  unfold dropRef; dsimp only; split <;> rfl

/-- A held line is unshared: it keeps all but its drupelet (R47). -/
theorem unshare_relines {s : State} {key : Nat} {l : Line} (h : s.lines.find key = some l)
    (hr : drupsUsed s (keyHome key) < sliceDrups) : ∃ d, Relines s (unshare s key) key { l with drup := d } := by
  simp only [unshare, h, needDrup_of_room hr, ite_self]
  cases hd : l.drup with
  | own => exact ⟨l.drup, relines_self h⟩
  | zero => exact ⟨.own, relines_set rfl rfl rfl⟩
  | shared id =>
    dsimp only
    split
    · exact ⟨l.drup, relines_self h⟩
    · exact ⟨.own, relines_set (by simp) (by simp) (by simp)⟩

/-- A held line takes its new state. -/
theorem putLine_relines (s : State) (key : Nat) (l : Line) : Relines s (putLine s key l) key l := by
  unfold putLine
  split <;> exact relines_set rfl rfl rfl

/-- A write of bytes of a held line: the line with those bytes, in a drupelet of its own where it has shared one. -/
theorem writeHeld_relines {s : State} {key : Nat} {l : Line} (h : s.lines.find key = some l)
    (hr : drupsUsed s (keyHome key) < sliceDrups) (off size : Nat) (v : BitVec 1024) (tag clears : Bool) :
    ∃ d, Relines s (writeHeld s key off size v tag clears) key ({ l with drup := d }.write off size v tag clears) := by
  obtain ⟨d, hu⟩ := unshare_relines h hr
  have hf : (uncache (unshare s key) key).lines.find key = some { l with drup := d } := (hu.lines key).trans (if_pos rfl)
  refine ⟨d, ?_⟩
  simp only [writeHeld, hf]
  have hp := putLine_relines (uncache (unshare s key) key) key ({ l with drup := d }.write off size v tag clears)
  exact hu.trans ⟨hp.lines, hp.mem, hp.grants⟩

/-- The bytes after a write of a held line: those of the write where the frame is the line's, all others as before. -/
theorem Relines.byte_write {s u : State} {key off size : Nat} {l : Line} {d : Drup} {v : BitVec 1024} {tag clears : Bool}
    (hu : Relines s u key ({ l with drup := d }.write off size v tag clears)) (h : s.lines.find key = some l)
    (hs : off + size ≤ 128) (asid va pa : Nat) :
    u.byte asid va pa =
      if lineKey asid va = key ∧ l.frame = pa / 128 * 128 ∧ off ≤ va % 128 ∧ va % 128 < off + size then
        byteOf v.toNat (va % 128 - off)
      else s.byte asid va pa := by
  rw [State.byte_eq, State.byte_eq, hu.lines, hu.mem]
  by_cases hk : lineKey asid va = key
  · rw [if_pos hk, hk, h]
    by_cases hf : l.frame = pa / 128 * 128
    · simp [Option.filter, Line.write, hf, splice_byte _ _ hs]
    · simp [Option.filter, Line.write, hf]
  · simp [hk]

/-! ### A write through to memory (R388) -/

/-- A tag that no line has gives up nothing. -/
theorem evict_of_none {s : State} {key : Nat} (h : s.lines.find key = none) : evict s key = s := by
  simp only [evict, h]

@[simp] theorem writeMem_lines (s : State) (pa dom off size : Nat) (v : BitVec 1024) (tag clears : Bool) :
    (writeMem s pa dom off size v tag clears).lines = s.lines := by
  unfold writeMem
  split <;> rfl

@[simp] theorem writeMem_grants (s : State) (pa dom off size : Nat) (v : BitVec 1024) (tag clears : Bool) :
    (writeMem s pa dom off size v tag clears).grants = s.grants := by
  unfold writeMem
  split <;> rfl

/-- Memory after a write of bytes of a backed frame. -/
theorem memGet_writeMem {s : State} {pa : Nat} (h : backed s pa = true) (dom size : Nat) (v : BitVec 1024) (tag clears : Bool)
    (b : Nat) :
    memGet (writeMem s pa dom (pa % 128) size v tag clears).mem b =
      if pa ≤ b ∧ b < pa + size then byteOf v.toNat (b - pa) else memGet s.mem b := by
  have ha : pa / 128 * 128 + pa % 128 = pa := Nat.div_add_mod' pa 128
  simp only [writeMem, h, Bool.not_true, Bool.false_eq_true, if_false, ha]
  exact memGet_fold (byteOf v.toNat) size s.mem pa b

/-- The bytes after a write through to memory: those of the write where no line is held, all others as before. -/
theorem byte_writeMem {s : State} {pa : Nat} (h : backed s pa = true) (dom size : Nat) (v : BitVec 1024) (tag clears : Bool)
    (asid va b : Nat) :
    (writeMem s pa dom (pa % 128) size v tag clears).byte asid va b =
      if s.lineFor asid va b = none ∧ pa ≤ b ∧ b < pa + size then byteOf v.toNat (b - pa) else s.byte asid va b := by
  have hl : (writeMem s pa dom (pa % 128) size v tag clears).lineFor asid va b = s.lineFor asid va b := by
    simp only [State.lineFor, State.line?, writeMem_lines]
  simp only [State.byte, hl]
  cases s.lineFor asid va b with
  | none => simp [memGet_writeMem h]
  | some l => simp

/-! ### A write performed at its home slice (R44, R47, R356, R388) -/

/-- A grant that is recorded already, or finds room, touches neither lines nor memory (R356). -/
theorem byte_recordGrant {s : State} {asid va : Nat}
    (h : s.grants.contains (homeSlice va, asid, va / 4096) = true ∨ hasRoom s (homeSlice va) = true) (asid' va' pa' : Nat) :
    (recordGrant s asid va).byte asid' va' pa' = s.byte asid' va' pa' := by
  show (recordIn (63 + 1) s asid va).byte asid' va' pa' = _
  rw [recordIn]
  by_cases hc : s.grants.contains (homeSlice va, asid, va / 4096) = true
  · simp only [hc, if_true]
  · simp only [hc, h.resolve_left hc, if_true]
    exact State.byte_congr rfl rfl asid' va' pa'

/-- A write that its line's slice or its backed frame takes: its own bytes are read back, the others are as before. -/
structure Written (s u : State) (asid va pa size : Nat) (v : BitVec 1024) : Prop where
  back : ∀ i, i < size → u.byte asid (va + i) (pa + i) = byteOf v.toNat i
  rest : ∀ asid' va' pa', va' % 128 = pa' % 128 → pa' < pa ∨ pa + size ≤ pa' → u.byte asid' va' pa' = s.byte asid' va' pa'
  grants : u.grants = s.grants

section
variable {s : State} {asid va pa dom size : Nat} (hoff : va % 128 = pa % 128) (hsize : va % 128 + size ≤ 128)
include hoff hsize

/-- A write of a line that its slice holds. -/
theorem writeAt_held (v : BitVec 1024) (tag clears : Bool) (h : (s.heldFor asid va pa dom).isSome = true)
    (hr : drupsUsed s (keyHome (lineKey asid va)) < sliceDrups) :
    Written s (writeAt s asid va pa dom size v tag clears) asid va pa size v := by
  obtain ⟨l, hl, hf⟩ : ∃ l, s.lines.find (lineKey asid va) = some l ∧ l.frame = pa / 128 * 128 := by
    simp only [State.heldFor, State.lineFor, State.line?, Option.isSome_iff_exists, Option.filter_eq_some_iff, beq_iff_eq] at h
    obtain ⟨l, ⟨hl, hf⟩, -⟩ := h
    exact ⟨l, hl, hf⟩
  obtain ⟨d, hu⟩ := writeHeld_relines hl hr (va % 128) size v tag clears
  have hw : writeAt s asid va pa dom size v tag clears = writeHeld s (lineKey asid va) (va % 128) size v tag clears :=
    if_pos h
  rw [hw]
  refine ⟨fun i hi => ?_, fun asid' va' pa' ho hout => ?_, hu.grants⟩
  · have hk := lineKey_add asid (show va % 128 + i < 128 by omega)
    rw [hu.byte_write hl hsize, if_pos ⟨hk, by omega, by omega, by omega⟩]
    congr 1
    omega
  · rw [hu.byte_write hl hsize, if_neg]
    rintro ⟨-, hf', hlo, hhi⟩
    omega

/-- A write of a line that no slice holds, of a backed frame. -/
theorem writeAt_unheld (v : BitVec 1024) (tag clears : Bool) (h : s.line? asid va = none) (hb : backed s pa = true) :
    Written s (writeAt s asid va pa dom size v tag clears) asid va pa size v := by
  have hn : s.heldFor asid va pa dom = none := by simp only [State.heldFor, State.lineFor, h, Option.filter_none]
  have hw : writeAt s asid va pa dom size v tag clears = writeMem s pa dom (pa % 128) size v tag clears := by
    simp only [writeAt, hn, evict_of_none h, hoff]
    rfl
  rw [hw]
  refine ⟨fun i hi => ?_, fun asid' va' pa' _ hout => ?_, writeMem_grants ..⟩
  · have hk : s.lineFor asid (va + i) (pa + i) = none := by
      rw [State.line?] at h
      rw [State.lineFor, State.line?, lineKey_add asid (by omega), h, Option.filter_none]
    rw [byte_writeMem hb, if_pos ⟨hk, by omega, by omega⟩, Nat.add_sub_cancel_left]
  · rw [byte_writeMem hb, if_neg]
    omega

end

/-- Settles O58: the write at the home slice reads back and keeps the rest, and its record touches no byte. -/
theorem performedStores : Obligations.PerformedStores := by
  intro s asid va pa dom size v tag clears hoff hpos hsize hline hgrant hdrup u
  have hw : Written s (writeAt s asid va pa dom size v tag clears) asid va pa size v := by
    rcases hline with h | ⟨h, hb⟩
    · exact writeAt_held hoff hsize v tag clears h hdrup
    · exact writeAt_unheld hoff hsize v tag clears h hb
  have hu : ∀ asid' va' pa', u.byte asid' va' pa' = (writeAt s asid va pa dom size v tag clears).byte asid' va' pa' := by
    refine byte_recordGrant ?_
    rw [hasRoom, hw.grants]
    exact hgrant.imp_right decide_eq_true
  refine ⟨?_, fun asid' va' pa' ho _ hout => (hu ..).trans (hw.rest asid' va' pa' ho hout)⟩
  rw [State.bytes, ← leNat_byteOf]
  exact leNat_congr fun i hi => (hu ..).trans (hw.back i hi)

/-! ### Stores that are performed (R85, R87, R166, R331) -/

/-- A step about pending stores of a kind is the path's step for that kind. -/
theorem exec_of_storeStepSpec {s : State} {i : Instr} {p : PStore → Bool} (h : storeStepSpec s i = some p) :
    exec i s = storeEvent s p := by
  unfold storeStepSpec at h
  split at h
  case h_5 => cases h
  all_goals
    cases h
    rfl

/-- The pending store that the step is about is performed, if it is of the kind asked for and nothing holds it back (R85). -/
theorem storeEvent_performs {s : State} {p : PStore → Bool} {x : PStore} (hx : (s.path s.cue.a)[s.cue.b]? = some x)
    (hp : p x = true) (hc : canPerform s s.cue.a s.cue.b = true) :
    storeEvent s p = .next (performAt s s.cue.a s.cue.b).bump := by
  have hcue : cueStore s = some x := hx
  simp only [storeEvent, hcue, hp, hc]
  rfl

/-- A store that is no piece of a wide access has no other piece in its granule (R78). -/
theorem mates_of_no_group {p : PStore} (h : p.group = none) (q : PStore) : p.mates q = false := by
  simp [PStore.mates, h]

/-- A store that is no piece of a line's access is performed as it stands. -/
theorem performNow_of_not_whole {s : State} {p : PStore} (h : p.whole = false) : performNow s p = performStore s p := by
  have hp : ∀ b, { p with whole := p.whole && b } = p := by
    intro b
    rw [h, Bool.false_and, ← h]
  rw [performNow, hp]

/-- A store that is a piece of no other access leaves its path alone (R85). -/
theorem performAt_single {s : State} {path n : Nat} {x : PStore} (hx : (s.path path)[n]? = some x) (hg : x.group = none)
    (hw : x.whole = false) :
    performAt s path n = performStore { s with stores := s.stores.set path ((s.path path).eraseIdx n) } x := by
  have hm : x.mates = fun _ => false := funext (mates_of_no_group hg)
  simp only [performAt, hx, hm, List.filter_false, Bool.not_false, List.filter_true, List.foldl_cons, List.foldl_nil,
    performNow_of_not_whole hw, List.eraseIdx_eq_take_drop_succ]

/-! ### Mode switches, limits of time, harts (R36, R215, R216, R336, R405) -/

/-- The modes of a cluster switch once no copy and no pending store is on its scratchpad (R36). -/
theorem exec_modeSwitch {s : State} {w : Switch} (hw : (s.cluster s.cue.a).switch = some w)
    (hc : ((s.cluster s.cue.a).copies.any CopyCmd.onPad) = false)
    (hp : ((s.path s.cue.a).any fun p => p.space == .scratch s.cue.a) = false) :
    exec .modeSwitch s = .next (switchMode s s.cue.a w).bump := by
  show execModeSwitch s = _
  simp only [execModeSwitch, hw, hc, hp]
  rfl

/-- A thread past its region's limit stops (R336). -/
theorem exec_watchdogExpiry {s : State} {t : Thread} (ht : s.thread? { core := s.cue.a, slot := s.cue.b } = some t)
    (hp : isPair s.cue.a = false) (hl : eff s t.rcb 9 0x3C 4 ≠ 0) (hn : t.retired + eff s t.rcb 9 0x3C 4 * 1000 ≤ s.now) :
    let l : Loc := { core := s.cue.a, slot := s.cue.b }
    exec .watchdogExpiry s = .next (displaceLate (stopThread s l 0x13 0 0 (t.wait == some .sfu)) l).bump := by
  show execWatchdogExpiry s = _
  simp only [execWatchdogExpiry, ht, hp, hl, Nat.not_lt.mpr hn]
  rfl

/-- An access that has waited 10 ms for a route fails (R405). -/
theorem exec_noRouteTimeout {s : State} {m a since : Nat} {b : Bool}
    (hw : (s.thread { core := s.cue.a, slot := s.cue.b }).wait = some (.route m a since b)) (hn : since + 10000000 ≤ s.now) :
    let l : Loc := { core := s.cue.a, slot := s.cue.b }
    let s1 := { s.onThread l fun t => { t with wait := none } with cur := l }
    exec .noRouteTimeout s = .next (if b then raise s1 0x0B (BitVec.ofNat 64 a) 0x0D
      else raise s1 0x0D (BitVec.ofNat 64 a) 0).bump := by
  show execNoRouteTimeout s = _
  simp only [execNoRouteTimeout, hw, if_neg (Nat.not_lt.mpr hn)]
  rfl

/-- System software starts a hart that does not run (R216). -/
theorem exec_hartRestart {s : State} (hh : (isCopyHart s.cue.a || isEngineHart s.cue.a) = true)
    (hm : s.mappedOut s.cue.a = false) (hr : (s.core s.cue.a).hart.running = false) :
    let id := s.cue.a
    let s1 := s.setCore id { s.core id with hart := { block := s.cue.hart.block, running := true } }
    let t := hartThread s s.cue.hart
    exec .hartRestart s = .next
      (reachTable (reachRegion (placeIn (hartStatus s1 id s.cue.hart.rcb 1) { core := id } t) t.rcb) t.asid (t.caps.get {} 15)).bump := by
  show execHartRestart s = _
  simp only [execHartRestart, hh, hm, hr]
  rfl

/-- Settles O46: each step of a unit under its conditions, and the pending store that a step performs. -/
theorem unitSteps : Obligations.UnitSteps := by
  refine ⟨fun s => ⟨fun w => exec_modeSwitch, fun t => exec_watchdogExpiry, fun m a since b => exec_noRouteTimeout, exec_hartRestart⟩,
    fun s i p x hi hx hp hc => ⟨?_, performAt_single hx⟩⟩
  rw [exec_of_storeStepSpec hi]
  exact storeEvent_performs hx hp hc

/-! ### The directory (R43, R47, R362) -/

/-- An access that the directory serves: the slice accounts for it, and unless its page is STREAM, what the event does to the
line follows, and the line goes into the agent's cache (R43). -/
theorem serveLine_serves {s : State} {w : Bool} {f : State → Nat → State} {e : Word} {pa dom : Nat}
    (hm : mappedAt s s.cue.b (s.cue.c * 128) = some (e, pa, dom)) (ha : 384 ≤ s.cue.a → s.cue.b = 0)
    (hh : mayHold s s.cue.a dom = true) (hk : (s.key dom).active = true)
    (hp : (if w then bitOf e 2 else bitOf e 1 || bitOf e 3) = true) :
    let s1 := serveAccess s s.cue.b (s.cue.c * 128) s.cue.flips
    let key := lineKey s.cue.b (s.cue.c * 128)
    (bitOf e 6 = true → serveLine s w f = .next s1.bump) ∧
      (bitOf e 6 = false →
        serveLine s w f = .next (if s.cue.a < 384 then cacheIn (f s1 key) s.cue.a key else f s1 key).bump) := by
  have hhost : (isHost s.cue.a && s.cue.b != 0) = false := by
    by_cases h : 384 ≤ s.cue.a
    · simp [ha h]
    · simp [isHost, h]
  constructor
  · intro h6
    simp only [serveLine, hm, hhost, hh, hk, hp, h6]
    rfl
  · intro h6
    simp only [serveLine, hm, hhost, hh, hk, hp, h6]
    by_cases h : 384 ≤ s.cue.a
    · simp [outside, isHost, h, Nat.not_lt.mpr h]
    · simp [outside, isHost, h, Nat.not_le.mp h]

/-- LINE_READ is served with a copy to read (R362). -/
theorem exec_lineRead (s : State) :
    exec .lineRead s = serveLine s false fun s1 key => setDir s1 key fun d => d.read s.cue.a := rfl

/-- OWNERSHIP_REQUEST is served with write ownership (R362). -/
theorem exec_ownershipRequest (s : State) :
    exec .ownershipRequest s = serveLine s true fun s1 key => grantLine s1 key s.cue.a := rfl

/-- The owner of an exclusive copy may write it (R362). -/
theorem exec_upgradeNotice {s : State} {l : Line} {e : Word} {pa dom : Nat}
    (hl : s.lines.find (lineKey s.cue.b (s.cue.c * 128)) = some l) (hm : mappedAt s s.cue.b (s.cue.c * 128) = some (e, pa, dom))
    (hd : l.dir = .exclusive s.cue.a) (hw : bitOf e 2 = true) :
    let key := lineKey s.cue.b (s.cue.c * 128)
    exec .upgradeNotice s = .next
      (if isHost s.cue.a then grantLine s key s.cue.a else cacheIn (grantLine s key s.cue.a) s.cue.a key).bump := by
  show execUpgradeNotice s = _
  simp [execUpgradeNotice, outside, hl, hm, hd, hw]

/-! ### Hosts (R389) -/

section
variable {s : State} {va size : Nat} (hp : hostPort s s.cue.a = true) (ha : plainAccess va size = true)
include hp ha

/-- A host's permitted load is answered with its bytes. -/
theorem exec_hostCxlAccess_load {pa dom : Nat} (hc : s.cue.host = .load va size) (hg : hostPage s va false = some (pa, dom))
    (hn : s.poisoned 0 va pa dom = false) :
    exec .hostCxlAccess s = .next (hostAnswer (s.reach 0 va) (some (BitVec.ofNat 64 (s.bytes 0 va pa size)))).bump := by
  show execHostCxlAccess s = _
  simp only [execHostCxlAccess, hp, hc, ha, hg, hn]
  rfl

/-- A host's refused load is answered with the poison indication. -/
theorem exec_hostCxlAccess_refused (hc : s.cue.host = .load va size) (hg : hostPage s va false = none) :
    exec .hostCxlAccess s = .next (hostAnswer (hostRefused (s.walked 0 va) va) none).bump := by
  show execHostCxlAccess s = _
  simp only [execHostCxlAccess, hp, hc, ha, hg]
  rfl

/-- A host's permitted store is performed. -/
theorem exec_hostCxlAccess_store {pa dom : Nat} {v : Word} (hc : s.cue.host = .store va size v)
    (hg : hostPage s va true = some (pa, dom)) :
    exec .hostCxlAccess s = .next (performStore (s.reach 0 va)
      { space := .device 0, addr := va, pa, dom, size, value := v.setWidth 1024, rcb := s.rootRcb }).bump := by
  show execHostCxlAccess s = _
  simp only [execHostCxlAccess, hp, hc, ha, hg]
  rfl

end

/-! ### The ingress port (R392, R403) -/

/-- Another module's permitted load is answered with its bytes (R403). -/
theorem exec_systemWindowRequest_load {s : State} {va size dom : Nat} {pl : Place} (hf : fabricUp s = true)
    (hc : s.cue.window = .load va size dom) (ha : plainAccess va size = true)
    (hg : pageCheck s 1 va dom { r := true } = .ok pl) :
    exec .systemWindowRequest s = .next
      ((windowAnswer s (.ok (BitVec.ofNat 64 (leNat (fun i => s.placeByte pl i) size)))).reachAt pl).bump := by
  show execSystemWindowRequest s = _
  simp only [execSystemWindowRequest, hf, hc, windowServe, ha, hg]
  rfl

/-- Where no port carries traffic no request comes in (R392). -/
theorem exec_systemWindowRequest_down {s : State} (hf : fabricUp s = false) : exec .systemWindowRequest s = .next s.bump := by
  show execSystemWindowRequest s = _
  simp only [execSystemWindowRequest, hf]
  rfl

/-! ### Ports, routes, the clock (R113, R392, R405) -/

/-- A port has failed once eight packets in a row have in one of its directions (R392). -/
theorem Port.failed_iff (x : Port) : x.failed = true ↔ 8 ≤ (x.link 0).fails ∨ 8 ≤ (x.link 1).fails := by
  simp [Port.failed]

/-- An event at a port in service. -/
theorem onPort_in_service {s : State} (hl : linksUp s = true) (hp : s.cue.a < 72) (hd : (s.port s.cue.a).down = false)
    (f : Nat → Port → State) : onPort s f = .next (f s.cue.a (s.port s.cue.a)).bump := by
  simp only [onPort, hl, hd, Nat.not_le.mpr hp]
  rfl

/-- A packet of a direction, as its table gives it (R392). -/
theorem Link.packet_eq (x : Link) (ok : Bool) : x.packet ok =
    if x.key = none then x
    else if ok then { x with fails := 0, sent := x.sent + 1, nonce := x.nonce + 1 } else { x with fails := x.fails + 1 } := by
  simp only [Link.packet, Option.isNone_iff_eq_none]

/-- A key exchange of a direction, as its table gives it (R392). -/
theorem Link.renew_eq (p d : Nat) : Link.renew p d = fun x =>
    let k := if x.key = none then x.keyIdx % 2 else 1 - x.keyIdx % 2
    { x with
      sent := x.sent - 2 ^ 32, nonce := 0, keyIdx := k, made := x.made + 1
      keys := x.keys.set k (some (Config.linkKey p d x.made)) } := by
  funext x
  simp only [Link.renew, Option.isNone_iff_eq_none]

/-- Each event at a port in service, as its table gives it (R392, R405). -/
theorem exec_of_portSpec {s u : State} {i : Instr} (hl : linksUp s = true) (hp : s.cue.a < 72)
    (hd : (s.port s.cue.a).down = false) (h : portSpec s s.cue.a (s.port s.cue.a) i = some u) : exec i s = .next u.bump := by
  unfold portSpec at h
  split at h
  case h_1 =>
    cases h
    show execFabricPacket s = _
    simp only [execFabricPacket, onPort_in_service hl hp hd, Port.failed_iff, Link.packet_eq]
  case h_2 =>
    cases h
    show execPortOutOfService s = _
    simp only [execPortOutOfService, onPort_in_service hl hp hd, Port.failed_iff]
  case h_3 =>
    cases h
    show execLinkLoss s = _
    simp only [execLinkLoss, onPort_in_service hl hp hd]
  case h_4 =>
    cases h
    show execKeyRenewal s = _
    simp only [execKeyRenewal, onPort_in_service hl hp hd, Link.renew_eq, Bool.or_eq_true, Bool.and_eq_true,
      Option.isNone_iff_eq_none, Option.isSome_iff_ne_none, decide_eq_true_eq]
  case h_5 => cases h

/-- The session of a CXL port may establish its protected stream, once (R392). -/
theorem exec_spdmMessage {s : State} (hl : linksUp s = true) (hp : s.cue.a < 8) :
    let x := s.cxls.get {} s.cue.a
    exec .spdmMessage s = .next
      (if x.key = none ∧ s.cue.flag = true
        then State.bump { s with cxls := s.cxls.set s.cue.a { x with key := some (Config.ideKey s.cue.a s.tick) } } else s.bump) := by
  intro x
  show execSpdmMessage s = _
  have hi : x.ide = !decide (x.key = none) := by
    cases hx : x.key <;> simp [Cxl.ide, hx]
  have hn : ¬8 ≤ s.cue.a := Nat.not_le.mpr hp
  simp only [execSpdmMessage, hl, hn]
  show outside (if (x.ide || !s.cue.flag) = true then s else _) = _
  by_cases hk : x.key = none ∧ s.cue.flag = true
  · rw [if_pos hk, hi, decide_eq_true hk.1, hk.2]
    rfl
  · have hf : (x.ide || !s.cue.flag) = true := by
      rw [hi, ← Bool.not_and, Bool.not_eq_true', Bool.eq_false_iff]
      simpa using hk
    rw [if_neg hk, if_pos hf]
    rfl

/-- A route that returns opens what has waited for it (R405). -/
theorem exec_routeReturns {s : State} (h : s.unreach.contains s.cue.a = true) :
    exec .routeReturns s = .next (openRoutes { s with unreach := s.unreach.filter (· != s.cue.a) }).bump := by
  show execRouteReturns s = _
  simp only [execRouteReturns, h]
  rfl

/-- What goes on once a route is open: packets, threads, reductions (R247, R405). -/
theorem openRoutes_eq (s : State) :
    let ids := s.cores.map fun e => e.1
    let opens (m : Nat) : Bool := !s.noRoute m
    openRoutes s = ids.foldl (releaseNred opens) (ids.foldl (endRoute opens)
      { s with outbox := s.outbox ++ s.routeless.filter (fun p => !s.noRoute p.target)
               routeless := s.routeless.filter fun p => s.noRoute p.target }) := by
  simp only [openRoutes, releasePackets, Bool.not_not]

/-- The clock takes the time of the messages, but before the module has firmware (R113, R409). -/
theorem exec_ptpDiscipline (s : State) : exec .ptpDiscipline s =
    .next (if s.powered = true ∧ s.bringup = 4 then s.bump else State.bump { s with ptp := s.cue.a }) := by
  show execPtpDiscipline s = _
  simp only [execPtpDiscipline, bundlesRefused, outside, Bool.and_eq_true, beq_iff_eq, apply_ite State.bump]

/-! ### Leadership (R321, R407, R408) -/

section
variable {s : State} (hr : pairRuns s s.cue.a = true)
include hr

/-- A pair's tick: the beat of one that leads, the watching of any other in service (R407). -/
theorem exec_heartbeatTick (ht : (s.core (pairOf s.cue.a)).tick < s.ptp / 1000000) :
    let d := s.cue.a
    let c := s.core (pairOf d)
    let s1 := s.setCore (pairOf d) { c with tick := s.ptp / 1000000 }
    exec .heartbeatTick s = .next (endWfi (match c.epoch with
      | some e => if s1.block 0x8008 4 = e.toNat then (drain s1 (pathOf (pairOf d))).blockPut 0x8000 8 (s1.ptp % 2 ^ 64)
        else s1.setCore (pairOf d) { s1.core (pairOf d) with epoch := none }
      | none => if online s1 d then watch s1 d else s1) (pairOf d)).bump := by
  intro d c s1
  show execHeartbeatTick s = _
  have hc : (s1.core (pairOf d)).epoch = c.epoch := by rw [State.core_setCore_self]
  simp only [execHeartbeatTick, hr, Nat.not_le.mpr ht]
  show outside (endWfi (tickPair s1 d) (pairOf d)) = _
  rw [tickPair, hc]
  cases c.epoch <;> rfl

/-- A pair of `ONLINE` that has found the leader's beats missing takes the lead where `EPOCH` is as it last read it (R408). -/
theorem exec_takeover_begins (hf : s.fenced = false ∨ s.leader ≠ s.cue.a) (ho : online s s.cue.a = true)
    (hd : (s.core (pairOf s.cue.a)).overdue = true) :
    let d := s.cue.a
    let s1 := drain s (pathOf (pairOf d))
    let s2 := s1.setCore (pairOf d) { s1.core (pairOf d) with overdue := false }
    exec .takeover s = .next (if s2.block 0x8008 4 = (s1.core (pairOf d)).seenEpoch.toNat
      then takeLead s2 d (((s1.core (pairOf d)).seenEpoch.toNat + 1) % 2 ^ 32) else s2).bump := by
  show execTakeover s = _
  have hn : (s.fenced && decide (s.leader = s.cue.a)) = false := by
    rcases hf with hf | hf <;> simp [hf]
  simp only [execTakeover, hr, hn, ho, hd]
  rfl

/-- The pair that fences lets the regions run again once everything issued has completed (R408). -/
theorem exec_takeover_ends (hf : s.fenced = true) (hl : s.leader = s.cue.a)
    (hq : (runningCores s).all (quiet s) = true) :
    exec .takeover s = .next (endFence (replayJournal s) s.cue.a).bump := by
  show execTakeover s = _
  have hn : (s.fenced && decide (s.leader = s.cue.a)) = true := by simp [hf, hl]
  simp only [execTakeover, outside, hr, hn, hq, Bool.not_true, Bool.false_eq_true, if_false, if_true]

end

/-- Settles O49: each step of the directory, of a host, of the ports and of the pairs under its conditions. -/
theorem linkSteps : Obligations.LinkSteps := by
  intro s
  refine ⟨?directory, fun _ _ _ _ => exec_upgradeNotice, ?hosts, fun hf _ _ _ _ => exec_systemWindowRequest_load hf,
    exec_systemWindowRequest_down, ?ports, exec_routeReturns, openRoutes_eq s, exec_ptpDiscipline s,
    fun hr => ⟨exec_heartbeatTick hr, exec_takeover_begins hr, exec_takeover_ends hr⟩⟩
  case directory =>
    intro w e pa dom k asid va key serves hm ha hh hk hp s1
    cases w
    case false =>
      have hs := serveLine_serves (f := fun s1 key => setDir s1 key fun d => d.read s.cue.a) hm ha hh hk hp
      rw [← exec_lineRead] at hs
      exact ⟨hs.1, fun h6 _ => hs.2 h6, fun _ hw => absurd hw Bool.false_ne_true⟩
    case true =>
      have hs := serveLine_serves (f := fun s1 key => grantLine s1 key s.cue.a) hm ha hh hk hp
      rw [← exec_ownershipRequest] at hs
      exact ⟨hs.1, fun _ hw => absurd hw.symm Bool.false_ne_true, fun h6 _ => hs.2 h6⟩
  case hosts =>
    intro va size pa dom hp ha
    exact ⟨exec_hostCxlAccess_load hp ha, exec_hostCxlAccess_refused hp ha, fun v => exec_hostCxlAccess_store hp ha⟩
  case ports =>
    intro hl
    refine ⟨?_, exec_spdmMessage hl⟩
    rintro i p u rfl hp hd hs
    exact exec_of_portSpec hl hp hd hs

end Sys2Proof.Machine
end

section
/-!
PROOF. Number formats (chapter 03): the order of floating-point values, minima and maxima, and the conditions of comparisons.
-/

namespace Sys2Proof.Machine

/-! ### The order of values (R72, R180) -/

/-- One number is at most another where the other is not less; `sumAt` gives a single term its sign and magnitude. -/
theorem FVal.atMost_iff {a b : FVal} : a.atMost b ↔ (a.isNan = false ∧ b.isNan = false) ∧ b.lt a = false := by
  cases a with
  | nan => simp [FVal.atMost, FVal.isNan]
  | inf n =>
    cases b with
    | nan => cases n <;> simp [FVal.atMost, FVal.isNan]
    | inf n' => cases n <;> cases n' <;> simp [FVal.atMost, FVal.isNan, FVal.lt]
    | fin => cases n <;> simp [FVal.atMost, FVal.isNan, FVal.lt]
  | fin n m e =>
    cases b with
    | nan => simp [FVal.atMost, FVal.isNan]
    | inf n' => cases n' <;> simp [FVal.atMost, FVal.isNan, FVal.lt]
    | fin n' m' e' => simp [FVal.atMost, FVal.isNan, FVal.lt, sumAt, min_comm e' e]

/-- No value is less than itself. -/
theorem FVal.lt_irrefl (a : FVal) : a.lt a = false := by
  cases h : a.lt a
  · rfl
  · exact h.symm.trans (FVal.lt_asymm h)

/-- A number is at most itself. -/
theorem FVal.atMost_refl {a : FVal} (ha : a.isNan = false) : a.atMost a := FVal.atMost_iff.mpr ⟨⟨ha, ha⟩, a.lt_irrefl⟩

/-- A number below another, −0 below +0, is at most the other. -/
theorem FVal.atMost_of_below {a b : FVal} (ha : a.isNan = false) (hb : b.isNan = false) (h : a.below b = true) : a.atMost b := by
  refine FVal.atMost_iff.mpr ⟨⟨ha, hb⟩, ?_⟩
  simp only [FVal.below, Bool.or_eq_true, Bool.and_eq_true, Bool.not_eq_true'] at h
  rcases h with h | ⟨⟨h, -⟩, -⟩
  · exact FVal.lt_asymm h
  · exact h

/-- A number that is not below another is at least the other. -/
theorem FVal.atMost_of_not_below {a b : FVal} (ha : a.isNan = false) (hb : b.isNan = false) (h : ¬a.below b = true) : b.atMost a := by
  refine FVal.atMost_iff.mpr ⟨⟨hb, ha⟩, ?_⟩
  simp only [FVal.below, Bool.or_eq_true, not_or, Bool.not_eq_true] at h
  exact h.1

/-- Of two zeros the negative one is below the positive one. -/
theorem FVal.below_zeros (n m : Bool) (e k : Int) : (FVal.fin n 0 e).below (.fin m 0 k) = (n && !m) := by
  simp [FVal.below, FVal.lt, sumAt, FVal.isNeg]

/-- A value is equal to another where each is at most the other. -/
theorem FVal.eq_iff {a b : FVal} : a.eq b = true ↔ a.atMost b ∧ b.atMost a := by
  simp only [FVal.eq, FVal.atMost_iff, Bool.and_eq_true, Bool.not_eq_true']
  tauto

/-- A value that is less than another is a number, as the other is. -/
theorem FVal.numbers_of_lt : ∀ {a b : FVal}, a.lt b = true → a.isNan = false ∧ b.isNan = false
  | .inf _, .inf _, _ => ⟨rfl, rfl⟩
  | .inf _, .fin _ _ _, _ => ⟨rfl, rfl⟩
  | .fin _ _ _, .inf _, _ => ⟨rfl, rfl⟩
  | .fin _ _ _, .fin _ _ _, _ => ⟨rfl, rfl⟩
  | .nan _, b, h => by cases b <;> cases h
  | .inf _, .nan _, h => by cases h
  | .fin _ _ _, .nan _, h => by cases h

/-- A value is less than another where it is at most the other and not conversely. -/
theorem FVal.lt_iff {a b : FVal} : a.lt b = true ↔ a.atMost b ∧ ¬b.atMost a := by
  constructor
  · intro h
    obtain ⟨ha, hb⟩ := FVal.numbers_of_lt h
    refine ⟨FVal.atMost_iff.mpr ⟨⟨ha, hb⟩, FVal.lt_asymm h⟩, fun hn => ?_⟩
    exact absurd h (Bool.eq_false_iff.mp (FVal.atMost_iff.mp hn).2)
  · rintro ⟨h, hn⟩
    obtain ⟨⟨ha, hb⟩, -⟩ := FVal.atMost_iff.mp h
    exact eq_true_of_ne_false fun hl => hn (FVal.atMost_iff.mpr ⟨⟨hb, ha⟩, hl⟩)

/-- A value is less than another or equal to it where it is at most the other. -/
theorem FVal.lt_or_eq_iff {a b : FVal} : (a.lt b || a.eq b) = true ↔ a.atMost b := by
  rw [Bool.or_eq_true, FVal.lt_iff, FVal.eq_iff, ← and_or_left]
  exact and_iff_left (em' _)

/-- A number does not signal. -/
theorem FVal.sig_of_number {a : FVal} (h : a.isNan = false) : a.sig = false := by
  cases a with
  | nan => cases h
  | inf => rfl
  | fin => rfl

/-! ### NaNs of the formats (R57, R61) -/

/-- No NaN of a narrow float signals. -/
theorem Fm.sig_value_narrow {f : Fm} (h : f.ieee = false) (a : Nat) : (f.value a).sig = false := by
  unfold Fm.value
  extract_lets n mag neg
  simp only [h, Bool.false_and, Bool.false_eq_true, if_false]
  split_ifs <;> rfl

/-- The NaN of a narrow float that has one has every bit below the sign set. -/
theorem Fm.nan_narrow {f : Fm} (h : f.ieee = false) (hn : f.nanp = true) (he : f.e ≠ 0) : f.nan.1 = 2 ^ (f.e + f.m) - 1 := by
  simp [Fm.nan, h, hn, he]

/-- Bits above an encoding do not count. -/
@[simp] theorem Fm.value_mod (f : Fm) (a : Nat) : f.value (a % 2 ^ f.width) = f.value a := by
  simp only [Fm.value, Nat.mod_mod]

/-! ### Minima and maxima (R72) -/

/-- The larger or smaller of two numbers. -/
def FVal.extremum (isMax : Bool) (x z : FVal) : FVal :=
  if (if isMax then x.below z else z.below x) then z else x

/-- The larger of two numbers is at least both, the smaller at most both. -/
theorem FVal.extremum_bounds {x z : FVal} (hx : x.isNan = false) (hz : z.isNan = false) (isMax : Bool) :
    if isMax then x.atMost (x.extremum isMax z) ∧ z.atMost (x.extremum isMax z)
    else (x.extremum isMax z).atMost x ∧ (x.extremum isMax z).atMost z := by
  cases isMax
  case true =>
    by_cases h : x.below z = true
    · simpa [FVal.extremum, h] using ⟨FVal.atMost_of_below hx hz h, FVal.atMost_refl hz⟩
    · simpa [FVal.extremum, h] using ⟨FVal.atMost_refl hx, FVal.atMost_of_not_below hx hz h⟩
  case false =>
    by_cases h : z.below x = true
    · simpa [FVal.extremum, h] using ⟨FVal.atMost_of_below hz hx h, FVal.atMost_refl hz⟩
    · simpa [FVal.extremum, h] using ⟨FVal.atMost_refl hx, FVal.atMost_of_not_below hz hx h⟩

/-- The larger of two zeros is negative where both are, the smaller where one is. -/
theorem FVal.isNeg_extremum_zeros (isMax n m : Bool) (e k : Int) :
    (FVal.extremum isMax (.fin n 0 e) (.fin m 0 k)).isNeg = if isMax then n && m else n || m := by
  simp only [FVal.extremum, FVal.below_zeros]
  cases isMax <;> cases n <;> cases m <;> rfl

section
variable {f : Fm} {a b : Nat} (isMax propagate : Bool)

/-- Of two numbers one is given, without a flag. -/
theorem minMaxFm_numbers (ha : (f.value a).isNan = false) (hb : (f.value b).isNan = false) :
    minMaxFm f isMax propagate a b =
      (if (if isMax then (f.value a).below (f.value b) else (f.value b).below (f.value a)) then b % 2 ^ f.width
        else a % 2 ^ f.width, 0) := by
  simp only [minMaxFm, pickMinMax, ha, hb, Bool.and_self, Bool.or_self, Bool.false_eq_true, if_false]
  cases (if isMax then (f.value a).below (f.value b) else (f.value b).below (f.value a)) <;> rfl

/-- What is given of two numbers stands for the larger or smaller. -/
theorem value_minMaxFm_numbers (ha : (f.value a).isNan = false) (hb : (f.value b).isNan = false) :
    f.value (minMaxFm f isMax propagate a b).1 = (f.value a).extremum isMax (f.value b) := by
  rw [minMaxFm_numbers isMax propagate ha hb, apply_ite f.value, Fm.value_mod, Fm.value_mod]
  rfl

/-- Of a NaN and a number the number is given, or under propagation the format's NaN. -/
theorem minMaxFm_nan_number (ha : (f.value a).isNan = true) (hb : (f.value b).isNan = false) :
    minMaxFm f isMax propagate a b =
      (if propagate then f.nan.1 else b % 2 ^ f.width, if (f.value a).sig || (f.value b).sig then 1 else 0) := by
  simp only [minMaxFm, pickMinMax, ha, hb]
  cases propagate <;> rfl

theorem minMaxFm_number_nan (ha : (f.value a).isNan = false) (hb : (f.value b).isNan = true) :
    minMaxFm f isMax propagate a b =
      (if propagate then f.nan.1 else a % 2 ^ f.width, if (f.value a).sig || (f.value b).sig then 1 else 0) := by
  simp only [minMaxFm, pickMinMax, ha, hb]
  cases propagate <;> rfl

/-- Of two NaNs the format's NaN is given. -/
theorem minMaxFm_nans (ha : (f.value a).isNan = true) (hb : (f.value b).isNan = true) :
    minMaxFm f isMax propagate a b = (f.nan.1, if (f.value a).sig || (f.value b).sig then 1 else 0) := by
  simp only [minMaxFm, pickMinMax, ha, hb]
  rfl

/-- With a NaN among the operands, invalid is raised where one signals. -/
theorem minMaxFm_flags (h : ((f.value a).isNan || (f.value b).isNan) = true) :
    (minMaxFm f isMax propagate a b).2 = if (f.value a).sig || (f.value b).sig then 1 else 0 := by
  cases ha : (f.value a).isNan <;> cases hb : (f.value b).isNan
  · rw [ha, hb] at h
    cases h
  · rw [minMaxFm_number_nan isMax propagate ha hb]
  · rw [minMaxFm_nan_number isMax propagate ha hb]
  · rw [minMaxFm_nans isMax propagate ha hb]

/-- What two numbers give: one of them, the larger or smaller, −0 below +0 (R72). -/
theorem minMaxFm_extremum (ha : (f.value a).isNan = false) (hb : (f.value b).isNan = false) :
    let r := minMaxFm f isMax propagate a b
    r.2 = 0 ∧ (r.1 = a % 2 ^ f.width ∨ r.1 = b % 2 ^ f.width) ∧
      (if isMax then (f.value a).atMost (f.value r.1) ∧ (f.value b).atMost (f.value r.1)
        else (f.value r.1).atMost (f.value a) ∧ (f.value r.1).atMost (f.value b)) ∧
      ∀ n m e k, f.value a = .fin n 0 e → f.value b = .fin m 0 k →
        (f.value r.1).isNeg = if isMax then n && m else n || m := by
  intro r
  have hr : r = _ := minMaxFm_numbers isMax propagate ha hb
  have hv : f.value r.1 = _ := value_minMaxFm_numbers isMax propagate ha hb
  rw [hv]
  refine ⟨by rw [hr], ?one, FVal.extremum_bounds ha hb isMax, fun n m e k hx hz => ?zeros⟩
  case one =>
    rw [hr]
    exact (ite_eq_or_eq _ _ _).symm
  case zeros => rw [hx, hz, FVal.isNeg_extremum_zeros]

end

/-! ### Conditions of VCMP (R180) -/

section
variable (f : Fm) (w a b : Nat)

/-- EQ, NE and UNORD raise invalid where an operand signals. -/
theorem vCond_quiet_flags : ∀ c ∈ [0, 1, 6],
    (vCond c { w, fm := some f } a b).2 = if (f.value a).sig || (f.value b).sig then 1 else 0 := by
  simp [vCond]

/-- LT and LE raise invalid where an operand is a NaN, and only there: a value that signals is one. -/
theorem vCond_ordered_flags : ∀ c ∈ [2, 3],
    (vCond c { w, fm := some f } a b).2 = if (f.value a).isNan || (f.value b).isNan then 1 else 0 := by
  intro c hc
  have hc' : (c == 2 || c == 3) = true := by simpa using hc
  simp only [vCond, hc', Bool.and_true]
  by_cases hn : ((f.value a).isNan || (f.value b).isNan) = true
  · rw [hn, Bool.or_true]
  · obtain ⟨ha, hb⟩ := Bool.or_eq_false_iff.mp (Bool.eq_false_iff.mpr hn)
    rw [ha, hb, FVal.sig_of_number ha, FVal.sig_of_number hb]
    rfl

/-- The conditions on floating-point and nf elements. -/
theorem vCond_float :
    let x := f.value a
    let z := f.value b
    let y : Ty := { w, fm := some f }
    ((vCond 0 y a b).1 = true ↔ x.atMost z ∧ z.atMost x) ∧ ((vCond 1 y a b).1 = true ↔ ¬(x.atMost z ∧ z.atMost x)) ∧
      ((vCond 2 y a b).1 = true ↔ x.atMost z ∧ ¬z.atMost x) ∧ ((vCond 3 y a b).1 = true ↔ x.atMost z) ∧
      ((vCond 6 y a b).1 = true ↔ x.isNan = true ∨ z.isNan = true) :=
  ⟨FVal.eq_iff, (Bool.not_eq_true' _ ▸ Bool.eq_false_iff).trans (not_congr FVal.eq_iff), FVal.lt_iff, FVal.lt_or_eq_iff,
    Bool.or_eq_true_iff⟩

end

/-- The conditions on integer elements. -/
theorem vCond_int {w : Nat} (a b : BitVec w) :
    let h (c : Nat) : Bool × Nat := vCond c { w } a.toNat b.toNat
    h 0 = (a == b, 0) ∧ h 1 = (a != b, 0) ∧ h 2 = (a.slt b, 0) ∧ h 3 = (a.sle b, 0) ∧ h 4 = (a.ult b, 0) ∧ h 5 = (a.ule b, 0) := by
  have heq : (a.toNat == b.toNat) = (a == b) := by simp [BitVec.toNat_eq]
  have hsgn (v : BitVec w) : sgn w v.toNat = v.toInt := by rw [sgn, BitVec.ofNat_toNat, BitVec.setWidth_eq]
  simp only [vCond, hsgn, bne, heq]
  exact ⟨trivial, trivial, rfl, rfl, rfl, rfl⟩

/-- A condition that no type has, or that the element type does not have, is ill-formed. -/
theorem wf_vcmp_bad {k : BitVec 3} {a b : BitVec 5} {y : BitVec 3} {n : BitVec 1} {c : BitVec 5}
    (h : 6 < c.toNat ∨ (y.toNat < 3 ∧ c = 6) ∨ (3 < y.toNat ∧ (c = 4 ∨ c = 5))) : (Instr.vcmp k a b y n c).wf = false := by
  simp only [BitVec.toNat_eq, BitVec.reduceToNat] at h
  have h4 : 4 ≤ c.toNat := by omega
  have hi : c.toNat = 4 ∨ c.toNat = 5 → 3 ≤ y.toNat := by omega
  have hf : c.toNat = 6 → y.toNat ≤ 3 := by omega
  simpa [Instr.wf, vcmpOk, typeInt, typeFloat, BitVec.toNat_eq, h4] using fun _ => ⟨hi, hf⟩

/-- An ill-formed instruction raises cause 0x02 (R108). -/
theorem issue_ill_formed {s : State} {t : Thread} {i : Instr} {px : Px} {body : Thread → State → Except Stop (State × Act)}
    (h : s.thread? s.cur = some t) (hw : i.wf = false) :
    issueP px i s body = .next (faults s 0x02 ((encodeWord i).setWidth 64)) := by
  simp only [issueP, h, issueOn, decodeCheck, hw]
  rfl

/-- Settles O24: the rows of R72's table, the NaNs of the formats, and the conditions of R180. -/
theorem minMax : Obligations.MinMax := by
  refine ⟨rfl, rfl, rfl, fun f a h => ⟨Fm.sig_value_narrow h a, Fm.nan_narrow h⟩, ?extrema, ?float, ?int, ?missing⟩
  case extrema =>
    intro f isMax propagate a b
    exact ⟨minMaxFm_extremum isMax propagate, fun ha hb => by rw [minMaxFm_nan_number isMax propagate ha hb],
      fun ha hb => by rw [minMaxFm_number_nan isMax propagate ha hb],
      fun ha hb => by rw [minMaxFm_nans isMax propagate ha hb], minMaxFm_flags isMax propagate⟩
  case float =>
    intro f w a b x z nan y signals
    obtain ⟨h0, h1, h2, h3, h6⟩ := vCond_float f w a b
    refine ⟨h0, h1, h2, h3, h6, vCond_quiet_flags f w a b, fun c hc => ?_⟩
    have hn : (x.isNan || z.isNan) = true ↔ nan := Bool.or_eq_true_iff
    rw [vCond_ordered_flags f w a b c hc]
    exact ⟨fun h => if_pos (hn.mpr h), fun h => if_neg (mt hn.mp h)⟩
  case int =>
    intro w a b h _
    exact vCond_int a b
  case missing =>
    intro s t k a b y n c ht i hc
    exact issue_ill_formed ht (wf_vcmp_bad hc)

end Sys2Proof.Machine
end

section
/-!
PROOF. Ordering (chapter 04): stores and what the loads of their path read, atomics, fences and hints, barriers, and vector memory.
-/

namespace Sys2Proof.Machine

/-! ### What a memory member finds in its thread -/

/-- The address of a member does not depend on the full bits (R137). -/
@[simp] theorem memAddr_consume (t : Thread) (u : Uses) (c : BitVec 4) (a : BitVec 5) (off : Int) :
    memAddr (consume t u) c a off = (t.c c.toNat).base + (t.s a.toNat).toNat + off := by
  simp only [memAddr, consume_c, consume_s]

@[simp] theorem strengthened_consume (t : Thread) (u : Uses) (c : Cap) : strengthened (consume t u) c = strengthened t c := by
  simp only [strengthened, consume_mmrev]

@[simp] theorem storeAt_consume (l : Loc) (t : Thread) (u : Uses) (pl : Place) (size : Nat) (v : BitVec 1024) (tag : Bool) :
    storeAt l (consume t u) pl size v tag = storeAt l t pl size v tag := by
  simp only [storeAt, consume_rcb, consume_crewId, consume_launch]

/-- The size of an element, as the tables write it (R139). -/
theorem elemSize_cast (z : BitVec 2) : ((elemSize z : Nat) : Int) = 2 ^ z.toNat := Nat.cast_pow 2 _

/-! ### Stores (R80, R85, R137, R139) -/

/-- A store whose checks allow it joins its path, after the path's stores where it releases beyond the crew. -/
theorem storeMember_pushes {s : State} {t : Thread} {i : Instr} {d : BitVec 5} {c : BitVec 4} {a : BitVec 5} {z : BitVec 2}
    {o : BitVec 6} {release : Bool} {pl : Place} (h : Issues s t i)
    (hm : memCheck (opened s t i) s.cur (consume t (usesOf i)) (t.c c.toNat)
      ((t.c c.toNat).base + (t.s a.toNat).toNat + o.toInt * elemSize z) (elemSize z) (elemSize z) permW { w := true } = .ok pl) :
    let s1 := (if release || strengthened t (t.c c.toNat) then drain (opened s t i) s.myPath else opened s t i).reachAt pl
    storeMember i d c a z o release s = .next (retired (pushStore s1 s1.myPath
      (storeAt s.cur t pl (elemSize z) ((t.s d.toNat).setWidth 1024) false))) := by
  refine issue_retires h ?_
  dsimp only
  rw [opened_cur, consume_c, memAddr_consume, hm]
  simp only [strengthened_consume, storeAt_consume, consume_s, opened_myPath]

/-- ST and STREL are this form, with the fields of their table. -/
theorem exec_of_storeSpec {i : Instr} {x : StoreForm} (hx : storeSpec i = some x) :
    ∃ z o, x.size = elemSize z ∧ x.off = o.toInt * elemSize z ∧
      ∀ u, exec i u = storeMember i x.d x.c x.a z o x.release u := by
  unfold storeSpec at hx
  split at hx
  case h_1 z o =>
    cases hx
    exact ⟨z, o, rfl, by rw [elemSize_cast], fun _ => rfl⟩
  case h_2 z _ o =>
    cases hx
    exact ⟨z, o, rfl, by rw [elemSize_cast], fun _ => rfl⟩
  case h_3 => cases hx

/-- A checked place is known to the path under its key. -/
theorem storeAt_key (l : Loc) (t : Thread) (pl : Place) (size : Nat) (v : BitVec 1024) (tag : Bool) :
    storeAt l t pl size v tag = { storeAt l t pl size v tag with
      space := pl.key.1, addr := pl.key.2, size, value := v, stream := none } := by
  cases pl <;> rfl

theorem path_pushStore_self (s : State) (path : Nat) (p : PStore) : (pushStore s path p).path path = s.path path ++ [named s p] :=
  Tab.get_set_self [] s.stores path _

/-- A store that waits changes no performed byte. -/
@[simp] theorem placeByte_pushStore (s : State) (path : Nat) (p : PStore) (pl : Place) (i : Nat) :
    (pushStore s path p).placeByte pl i = s.placeByte pl i := by
  cases pl <;> rfl

/-- A byte as the path reads it behind a new store: the store's where it covers it, else as before (R85; log 6). -/
theorem forward_pushStore (s : State) (path : Nat) (l : Loc) (t : Thread) (pl : Place) (size : Nat) (v : BitVec 1024) (sp : Space)
    (a : Nat) (old : Byte) :
    forward ((pushStore s path (storeAt l t pl size v false)).path path) sp a old =
      if pl.key.1 = sp ∧ pl.key.2 ≤ a ∧ a < pl.key.2 + size then byteOf v.toNat (a - pl.key.2)
      else forward (s.path path) sp a old := by
  rw [path_pushStore_self, storeAt_key, ← extract_byte]
  simp only [forward, named, List.foldl_append, List.foldl_cons, List.foldl_nil, PStore.readable, Option.isNone_none,
    Bool.and_eq_true, decide_eq_true_eq, and_assoc, true_and]

section
variable (s : State) (path : Nat) (l : Loc) (t : Thread) (pl : Place) (size : Nat) (v : BitVec 1024)

/-- The path reads the bytes of a store on it. -/
theorem loadNat_pushStore_self :
    (pushStore s path (storeAt l t pl size v false)).loadNat path pl size = v.toNat % 256 ^ size := by
  rw [State.loadNat, ← leNat_byteOf]
  refine leNat_congr fun i hi => ?_
  rw [forward_pushStore, if_pos ⟨rfl, by omega, by omega⟩, Nat.add_sub_cancel_left]

/-- The path reads every byte outside a store on it as before. -/
theorem loadNat_pushStore_outside (q : Place) (n : Nat)
    (hq : q.key.1 ≠ pl.key.1 ∨ q.key.2 + n ≤ pl.key.2 ∨ pl.key.2 + size ≤ q.key.2) :
    (pushStore s path (storeAt l t pl size v false)).loadNat path q n = s.loadNat path q n := by
  refine leNat_congr fun i hi => ?_
  rw [forward_pushStore, placeByte_pushStore, if_neg]
  rintro ⟨hs, hlo, hhi⟩
  rcases hq with hq | hq | hq
  · exact hq hs.symm
  · omega
  · omega

end

/-- Settles O6: a store is one form that joins its path, and the path's loads read it byte by byte. -/
theorem stores : Obligations.Stores := by
  refine ⟨fun s t i x pl hx h hm => ?_, fun s path l t pl size v _ =>
    ⟨loadNat_pushStore_self s path l t pl size v, loadNat_pushStore_outside s path l t pl size v⟩⟩
  obtain ⟨z, o, hsize, hoff, he⟩ := exec_of_storeSpec hx
  rw [hsize, hoff] at hm
  rw [he, hsize]
  exact storeMember_pushes h hm

/-! ### Atomics (R83, R140, R142) -/

/-! The AOPs of the table on elements of a width (R140). -/

theorem amoValue_add (w x y : Nat) : amoValue 0 w x y = (x + y) % 2 ^ w := by simp [amoValue]

theorem amoValue_and {w x y : Nat} (hx : x < 2 ^ w) (hy : y < 2 ^ w) : amoValue 1 w x y = x &&& y := by
  simp [amoValue, Nat.mod_eq_of_lt hx, Nat.mod_eq_of_lt hy]

theorem amoValue_or {w x y : Nat} (hx : x < 2 ^ w) (hy : y < 2 ^ w) : amoValue 2 w x y = x ||| y := by
  simp [amoValue, Nat.mod_eq_of_lt hx, Nat.mod_eq_of_lt hy]

theorem amoValue_xor {w x y : Nat} (hx : x < 2 ^ w) (hy : y < 2 ^ w) : amoValue 3 w x y = x ^^^ y := by
  simp [amoValue, Nat.mod_eq_of_lt hx, Nat.mod_eq_of_lt hy]

/-- An element is the pattern of its signed value. -/
theorem wrapOf_signedOf {w x : Nat} : wrapOf w (signedOf w x) = (BitVec.ofNat w x).toNat := by
  rw [wrapOf, signedOf, BitVec.ofInt_toInt]

theorem amoValue_min (w x y : Nat) : amoValue 4 w x y = wrapOf w (min (signedOf w x) (signedOf w y)) := by
  simp only [amoValue, BitVec.slt_iff_toInt_lt]
  split
  · next h => rw [min_eq_right (by exact h.le), wrapOf_signedOf]
  · next h => rw [min_eq_left (by exact not_lt.mp h), wrapOf_signedOf]

theorem amoValue_max (w x y : Nat) : amoValue 5 w x y = wrapOf w (max (signedOf w x) (signedOf w y)) := by
  simp only [amoValue, BitVec.slt_iff_toInt_lt]
  split
  · next h => rw [max_eq_right (by exact h.le), wrapOf_signedOf]
  · next h => rw [max_eq_left (by exact not_lt.mp h), wrapOf_signedOf]

theorem amoValue_minu {w x y : Nat} (hx : x < 2 ^ w) (hy : y < 2 ^ w) : amoValue 6 w x y = min x y := by
  simp [amoValue, Nat.mod_eq_of_lt hx, Nat.mod_eq_of_lt hy]

theorem amoValue_maxu {w x y : Nat} (hx : x < 2 ^ w) (hy : y < 2 ^ w) : amoValue 7 w x y = max x y := by
  simp [amoValue, Nat.mod_eq_of_lt hx, Nat.mod_eq_of_lt hy]

theorem amoValue_swap {w x y : Nat} (hy : y < 2 ^ w) : amoValue 8 w x y = y := by
  simp [amoValue, Nat.mod_eq_of_lt hy]

theorem amoValue_fadd {w x y : Nat} (hx : x < 2 ^ w) (hy : y < 2 ^ w) : amoValue 9 w x y = f32Sum x y := by
  simp [amoValue, Nat.mod_eq_of_lt hx, Nat.mod_eq_of_lt hy]

/-- An instruction performs the read-modify-write of an atomic's table. -/
def RmwOf (x : AtomicForm) (i : Instr) (run : State → Host.Outcome State Fault Refusal) : Prop :=
  ∃ f, (∀ s, run s = rmwMember i x.d x.c x.a x.size s f) ∧ ∀ t u, x.fits t (f (consume t u))

/-- An AOP performs the read-modify-write of its function on elements of its width (R140). -/
theorem rmwOf_amo {i : Instr} {d : BitVec 5} {c : BitVec 4} {a v : BitVec 5} {sc : BitVec 2} {o : BitVec 1} {size op : Nat}
    {g : Nat → Nat → Nat} (hop : op ≠ 10)
    (hg : ∀ {x y}, x < 2 ^ (8 * size) → y < 2 ^ (8 * size) → amoValue op (8 * size) x y = g x y) :
    RmwOf (aopForm d c a v sc o size g) i (amo i d c a v sc o size op) := by
  refine ⟨_, fun _ => rfl, fun t u => ⟨fun old hold => ?_, rfl, rfl, by rw [consume_c]; rfl⟩⟩
  rw [Rmw.new, consume_s]
  exact (if_neg hop).trans (congrArg some (hg hold (Nat.mod_lt _ (Nat.two_pow_pos _))))

/-- CAS performs the read-modify-write that leaves the location where its comparand differs (R142). -/
theorem rmwOf_cas (d : BitVec 5) (c : BitVec 4) (a v : BitVec 5) (w : BitVec 1) (sc : BitVec 2) (o : BitVec 1) :
    let size := if w = 0 then 4 else 8
    RmwOf ⟨d, c, a, size, fun t old => if old = (t.s d.toNat).toNat % 2 ^ (8 * size)
      then some ((t.s v.toNat).toNat % 2 ^ (8 * size)) else none, sc, o⟩ (.cas d c a v w sc o) (execCas d c a v w sc o) := by
  refine ⟨_, fun _ => rfl, fun t u => ⟨fun old _ => ?_, rfl, rfl, by rw [consume_c]⟩⟩
  rw [Rmw.new, consume_s, consume_s]
  rfl

/-- Every atomic performs the read-modify-write of its table. -/
theorem exec_of_atomicSpec {i : Instr} {x : AtomicForm} (hx : atomicSpec i = some x) : RmwOf x i (exec i) := by
  unfold atomicSpec at hx
  split at hx <;> cases hx
  case h_1 => exact rmwOf_amo (by decide) fun _ _ => amoValue_add 32 _ _
  case h_2 => exact rmwOf_amo (by decide) amoValue_and
  case h_3 => exact rmwOf_amo (by decide) amoValue_or
  case h_4 => exact rmwOf_amo (by decide) amoValue_xor
  case h_5 => exact rmwOf_amo (by decide) fun _ _ => amoValue_min 32 _ _
  case h_6 => exact rmwOf_amo (by decide) fun _ _ => amoValue_max 32 _ _
  case h_7 => exact rmwOf_amo (by decide) amoValue_minu
  case h_8 => exact rmwOf_amo (by decide) amoValue_maxu
  case h_9 => exact rmwOf_amo (by decide) fun _ => amoValue_swap
  case h_10 => exact rmwOf_amo (by decide) amoValue_fadd
  case h_11 => exact rmwOf_amo (by decide) fun _ _ => amoValue_add 64 _ _
  case h_12 => exact rmwOf_amo (by decide) amoValue_and
  case h_13 => exact rmwOf_amo (by decide) amoValue_or
  case h_14 => exact rmwOf_amo (by decide) amoValue_xor
  case h_15 => exact rmwOf_amo (by decide) fun _ _ => amoValue_min 64 _ _
  case h_16 => exact rmwOf_amo (by decide) fun _ _ => amoValue_max 64 _ _
  case h_17 => exact rmwOf_amo (by decide) amoValue_minu
  case h_18 => exact rmwOf_amo (by decide) amoValue_maxu
  case h_19 => exact rmwOf_amo (by decide) fun _ => amoValue_swap
  case h_20 => exact rmwOf_cas ..

/-- A read-modify-write whose checks allow it holds its destination for the old value. -/
theorem rmwMember_returns {s : State} {t : Thread} {i : Instr} {d : BitVec 5} {c : BitVec 4} {a : BitVec 5} {size : Nat} {pl : Place}
    {f : Thread → Rmw} (h : Issues s t i) (hd : Room t d) (hl : t.loadsStall = false)
    (hm : memCheck (opened s t i) s.cur (consume t (usesOf i)) (t.c c.toNat)
      ((t.c c.toNat).base + (t.s a.toNat).toNat) size size permAtomic { r := true, w := true } = .ok pl) :
    let y := rmwAt ((opened s t i).reachAt pl) s.cur (consume t (usesOf i)) pl size (f (consume t (usesOf i)))
    rmwMember i d c a size s f = .next (retired (awaiting y.1 d (BitVec.ofInt 64 (signedOf (8 * size) y.2)))) := by
  refine issue_retires h ?_
  dsimp only
  rw [noRoom_consume, noRoom_of_room hd, consume_loadsStall, hl, opened_cur, consume_c, memAddr_consume, Int.add_zero, hm]
  exact returns_eq _ _ _

/-- The old value of a read-modify-write is the performed one, once the stores that must come before it are (R83; log 56). -/
theorem rmwAt_old (s : State) (l : Loc) (t : Thread) (pl : Place) (size : Nat) (r : Rmw) :
    (rmwAt s l t pl size r).2 =
      leNat (fun i => (settleFor (rmwDrain s l t pl size r) (pathOf l.core) true pl size).placeByte pl i) size := by
  unfold rmwAt
  cases pl with
  | remote => rfl
  | scratch => rfl
  | device =>
    dsimp only
    split <;> rfl

theorem rmwDrain_eq (s : State) (l : Loc) (t : Thread) (pl : Place) (size : Nat) (r : Rmw) :
    rmwDrain s l t pl size r =
      if (r.ord = true ∧ r.sc ≠ 0) ∨ isRelease s (storeAt l t pl size 0 false) = true then drain s (pathOf l.core) else s := by
  simp only [rmwDrain, Bool.or_eq_true, Bool.and_eq_true, bne_iff_ne]

/-- Settles O7: every atomic is a read-modify-write of its table, whose old value is read after the stores of log 56. -/
theorem atomics : Obligations.Atomics := by
  refine ⟨fun s t i x pl hx h hd hl hm => ?_, fun s l t pl size r => ?_⟩
  · obtain ⟨f, he, hf⟩ := exec_of_atomicSpec hx
    refine ⟨f (consume t (usesOf i)), hf t _, ?_⟩
    rw [he]
    exact rmwMember_returns h hd hl hm
  · intro path first s1
    rw [rmwAt_old, rmwDrain_eq]

/-! ### Fences (R84, R143, R144) -/

/-- A fence retires with its thread's part, beyond the crew once the stores of the path have been performed (log 56). -/
theorem fence_retires {s : State} {t : Thread} {i : Instr} {acq rel : Bool} {sc : BitVec 2} (h : Issues s t i) :
    let s1 := if sc = 0 then opened s t i else drain (opened s t i) s.myPath
    fence i acq rel sc s = .next (retired (s1.setMe (s1.me.fence acq rel sc))) := by
  refine issue_retires h ?_
  simp only [wide, bne_iff_ne, ne_eq, ite_not, opened_myPath]

/-- A fence changes the marks of the holds and the scope of the latest release. -/
theorem Thread.fence_eq (t : Thread) (acq rel : Bool) (sc : BitVec 2) : t.fence acq rel sc =
    { t with
      holds := (t.fence acq rel sc).holds, relFence := if rel then max t.relFence (sc.toNat + 1) else t.relFence } := rfl

/-- After an acquire fence later loads wait for every load that is outstanding (R144). -/
theorem Thread.loadsStall_fence (t : Thread) (acq rel : Bool) (sc : BitVec 2) :
    (t.fence acq rel sc).loadsStall = (t.loadsStall || (acq && t.holds.any fun h => h.due.isNone)) := by
  cases acq with
  | false => simp [Thread.loadsStall, Thread.fence]
  | true =>
    simp only [Thread.loadsStall, Thread.fence, if_true, List.any_map, Bool.true_and]
    induction t.holds with
    | nil => rfl
    | cons x xs ih => simp only [List.any_cons, ih, Function.comp_apply, Bool.or_assoc, Bool.or_left_comm]

/-- A fence changes nothing of a hold but its mark. -/
theorem Thread.holds_fence (t : Thread) (acq rel : Bool) (sc : BitVec 2) :
    (t.fence acq rel sc).holds.map (fun h => { h with fenced := false }) = t.holds.map fun h => { h with fenced := false } := by
  cases acq with
  | false => rfl
  | true => simp [Thread.fence, Function.comp_def]

/-! ### Hints and DDSTAT (R145–R147) -/

/-- A hint whose range its capability allows acts on its lines, in device memory. -/
theorem hint_acts {s : State} {t : Thread} {i : Instr} {a b : BitVec 5} {c : BitVec 4} {f : Thread → Cap → State → Nat → State}
    (h : Issues s t i)
    (hk : hintCheck (t.c c.toNat) ((t.c c.toNat).base + (t.s a.toNat).toNat) (t.s b.toNat).toNat = none) :
    hint i a b c s f = .next (retired (if (t.c c.toNat).space = 0 then
        (linesOver ((t.c c.toNat).base + (t.s a.toNat).toNat) (t.s b.toNat).toNat).foldl
          (f (consume t (usesOf i)) (t.c c.toNat)) (opened s t i)
      else opened s t i)) := by
  refine issue_retires h ?_
  dsimp only
  rw [memAddr_consume, consume_c, consume_s, Int.add_zero, hk]
  simp only [bne_iff_ne, ne_eq, ite_not]
  split <;> rfl

/-- The hints are this form, with what their table does to a line. -/
theorem exec_of_hintSpec {s : State} {t : Thread} {i : Instr} {a b : BitVec 5} {c : BitVec 4} {f : State → Nat → State}
    (hx : hintSpec t s.cur.core i = some (a, b, c, f)) :
    ∃ g, exec i s = hint i a b c s g ∧ g t (t.c c.toNat) = f := by
  unfold hintSpec at hx
  split at hx
  case h_1 =>
    cases hx
    refine ⟨_, show execCinv _ _ _ s = _ from rfl, ?_⟩
    rfl
  case h_2 =>
    cases hx
    refine ⟨_, show execCflush _ _ _ s = _ from rfl, ?_⟩
    rfl
  case h_3 =>
    cases hx
    refine ⟨_, show execCpref _ _ _ s = _ from rfl, ?_⟩
    rfl
  case h_4 =>
    cases hx
    refine ⟨_, show execDdhint _ _ _ s = _ from rfl, ?_⟩
    rfl
  case h_5 => cases hx

/-- DDSTAT holds its destination for its domain's counter. -/
theorem exec_ddstat {s : State} {t : Thread} {d a : BitVec 5} {c : BitVec 4} (h : Issues s t (.ddstat d a c)) (hd : Room t d)
    (ht : (t.c c.toNat).tag = true) :
    exec (.ddstat d a c) s = .next (retired (awaiting (opened s t (.ddstat d a c)) d
      (dedupCounter s (t.c c.toNat).dom (t.s a.toNat).toNat))) := by
  refine issue_retires h ?_
  dsimp only
  rw [noRoom_consume, noRoom_of_room hd, consume_c, ht, consume_s]
  exact returns_eq _ _ _

/-- Settles O8: the three fences are one form, and so are the hints. -/
theorem fencesAndHints : Obligations.FencesAndHints := by
  refine fun s t => ⟨fun i sc acq rel hi h => ?_, fun i a b c f hx h hk => ?_, fun _ _ _ => exec_ddstat⟩
  · intro s1
    refine ⟨s1.me.fence acq rel sc, ?_, s1.me.fence_eq acq rel sc, s1.me.loadsStall_fence acq rel sc,
      s1.me.holds_fence acq rel sc⟩
    simp only [List.mem_cons, Prod.mk.injEq, List.not_mem_nil, or_false] at hi
    rcases hi with ⟨rfl, rfl, rfl⟩ | ⟨rfl, rfl, rfl⟩ | ⟨rfl, rfl, rfl⟩
    · exact fence_retires h
    · exact fence_retires h
    · exact fence_retires h
  · obtain ⟨g, he, rfl⟩ := exec_of_hintSpec hx
    rw [he, consume_c]
    exact hint_acts h hk

/-! ### Barriers (R91, R168, R169) -/

/-- BARINIT with a configuration in range sets up its context from its rank table. -/
theorem exec_barinit {s : State} {t : Thread} {c n : BitVec 4} {a b : BitVec 5} {es : List (Nat × BitVec 32)} :
    let i : Instr := .barinit c a b n
    let s1 := opened s t i
    let t1 := consume t (usesOf i)
    let cfg := t.s a.toNat
    let p := bitsOf cfg 15 0
    let r := (t.s b.toNat).toNat
    let ks := List.range (rounds p)
    let entry (x : Nat) : BitVec 32 := ((es.find? fun e => e.1 == x).map fun e => e.2).getD 0
    let ranks := [r, 0] ++ ks.flatMap fun k => [partnerOut p r k, partnerIn p r k]
    Issues s t i → isVisitor s1 s.cur t1 = false → r < p → bitsOf cfg 17 16 ≠ 3 → bitsOf cfg 63 18 = 0 →
    let s2 := settleRanks s1 t1 (t1.c c.toNat) ranks
    let id := s2.cur.core
    readRanks s2 t1 (t1.c c.toNat) (bitsOf cfg 17 16) r ranks = .ok es →
      exec i s = .next (retired (s2.setCore id { s2.core id with
        bars := (s2.core id).bars.set n.toNat { (s2.core id).bar n.toNat with
          p, rank := r, scope := bitsOf cfg 17 16, dests := ks.map fun k => (k, entry (partnerOut p r k)), root := entry 0
          arrived := 0, done := 0, round := 0, sent := false, issued := 0, combined := 0 } })) := by
  intro i s1 t1 cfg p r ks entry ranks h hv hr hs hz s2 id hes
  refine crewMember_retires h hv ?_
  have hbad : ¬(decide (p = 0) || decide (bitsOf cfg 17 16 = 3) || bitsOf cfg 63 18 != 0 || decide (p ≤ r)) = true := by
    simp only [Bool.or_eq_true, decide_eq_true_eq, bne_iff_ne, not_or, Nat.not_le, not_not]
    exact ⟨⟨⟨by omega, hs⟩, hz⟩, hr⟩
  dsimp only
  rw [consume_s, consume_s, if_neg hbad]
  dsimp only [s2, s1, t1, ranks, ks, p, r, cfg] at hes
  rw [hes]

/-- A member of the crew that ends in the wait for a context retires where the phase of its latest arrival is over, and parks where it
is not (R169). -/
theorem crewMember_awaits {s u : State} {t : Thread} {i : Instr} {n : Nat} {body : Thread → State → Except Stop (State × Act)}
    (h : Issues s t i) (hv : isVisitor (opened s t i) s.cur (consume t (usesOf i)) = false)
    (hb : body (consume t (usesOf i)) (opened s t i) = await u n) :
    let b := (u.core u.cur.core).bar n
    crewMember i s body = .next (if b.arrived ≤ b.done then retired u else stays (waitFor u (.barwait n b.arrived))) := by
  intro b
  by_cases hd : b.arrived ≤ b.done
  · rw [if_pos hd]
    exact crewMember_ok h hv (hb.trans (if_pos hd))
  · rw [if_neg hd]
    exact crewMember_ok h hv (hb.trans (if_neg hd))

/-- BARARR arrives. -/
theorem exec_bararr {s u : State} {t : Thread} {r : BitVec 1} {n : BitVec 4} (h : Issues s t (.bararr r n))
    (hv : isVisitor (opened s t (.bararr r n)) s.cur (consume t (usesOf (.bararr r n))) = false)
    (ha : arrive (opened s t (.bararr r n)) n.toNat (r == 1) = .ok u) : exec (.bararr r n) s = .next (retired u) := by
  refine crewMember_retires h hv ?_
  rw [ha]

/-- BARSYNC arrives, then waits. -/
theorem exec_barsync {s u : State} {t : Thread} {r : BitVec 1} {n : BitVec 4} (h : Issues s t (.barsync r n))
    (hv : isVisitor (opened s t (.barsync r n)) s.cur (consume t (usesOf (.barsync r n))) = false)
    (ha : arrive (opened s t (.barsync r n)) n.toNat (r == 1) = .ok u) (hc : u.cur = s.cur) :
    let b := (u.core s.cur.core).bar n.toNat
    exec (.barsync r n) s =
      .next (if b.arrived ≤ b.done then retired u else stays (waitFor u (.barwait n.toNat b.arrived))) := by
  rw [← hc]
  refine crewMember_awaits h hv ?_
  rw [ha]

/-- Settles O21: BARINIT, and arrivals and waits each once. -/
theorem barriers : Obligations.Barriers := fun _ _ _ =>
  ⟨fun _ _ _ _ => exec_barinit, fun _ _ => exec_bararr, fun h hv => crewMember_awaits h hv rfl, fun _ _ => exec_barsync⟩

/-! ### Vector loads and stores (R78, R176, R186, R187) -/

/-- A wide load whose active units are all reachable ends as the write of its held destination does. -/
theorem vectorLoad_retires {s s1 u : State} {t : Thread} {px : Px} {i : Instr} {d : BitVec 5} {c : BitVec 4} {reads : List Nat}
    {hint : Bool} {y : BitVec 3} {limit : Nat} {addr : Thread → Tab (BitVec 2048) → Nat → Int} {vs : Tab (BitVec 2048)}
    {ps : List (Nat × Place)} :
    let s0 := opened s t i
    let t1 := consume t (usesOf i)
    let size := unitBytes (tyOf s0 t1 y)
    Issues s t i px → isLoadBound s0 d.toNat = false → t.dataHolds < 8 → t.loadsStall = false →
    readVectors s0 (reads ++ mergeReads px d) = .ok (s1, vs) →
    unitPlaces s1 t1 (t.c c.toNat) size permR { r := true }
      (((List.range (min limit (256 / size))).filter (active px t1 (8 * size))).map fun j => (j, addr t1 vs j)) = .ok ps →
    let s2 := settleAll s1 (strengthened t1 (t.c c.toNat)) (ps.map fun p => p.2) size
    let got : Tab Nat := ps.map fun p => (p.1, s2.hintNat s2.cur.core hint p.2 size)
    let s3 := if hint then ps.foldl (fun s p => leaveReplica s t1 (t.c c.toNat) p.2) s2 else s2
    writeHeldVector s3 d (BitVec.ofNat 2048 ((List.range (256 / size)).foldl (fun acc j =>
      acc + (if limit ≤ j then 0 else if got.has j then got.get 0 j
        else if px.z = 1 then 0 else elem (8 * size) (regOf vs d) j) * 2 ^ (8 * size * j)) 0)) none = .ok (u, .next) →
      vectorLoad px i d c reads hint y limit s addr = .next (retired u px) := by
  intro s0 t1 size h hb hd hl hv hp s2 got s3 hw
  refine issue_retires h ?_
  dsimp only [s0, t1, size] at hb hv hp
  dsimp only
  rw [hb, consume_dataHolds, consume_loadsStall, hl, decide_eq_false (Nat.not_le.mpr hd), hv, consume_c]
  dsimp only
  rw [hp]
  exact hw

/-- A wide store whose active units are all reachable joins its path, the path's stores first where it is strengthened. -/
theorem vectorStore_retires {s s1 : State} {t : Thread} {px : Px} {i : Instr} {d : BitVec 5} {c : BitVec 4} {reads : List Nat}
    {y : BitVec 3} {limit : Nat} {addr : Thread → Tab (BitVec 2048) → Nat → Int} {vs : Tab (BitVec 2048)}
    {ps : List (Nat × Place)} :
    let s0 := opened s t i
    let t1 := consume t (usesOf i)
    let size := unitBytes (tyOf s0 t1 y)
    Issues s t i px → readVectors s0 (d.toNat :: reads) = .ok (s1, vs) →
    unitPlaces s1 t1 (t.c c.toNat) size permW { w := true }
      (((List.range (min limit (256 / size))).filter (active px t1 (8 * size))).map fun j => (j, addr t1 vs j)) = .ok ps →
    let s2 := (ps.map fun p => p.2).foldl State.reachAt (if strengthened t1 (t.c c.toNat) then drain s1 s1.myPath else s1)
    vectorStore px i d c reads y limit s addr = .next (retired (pushWide s2 s2.myPath (ps.map fun p =>
      storeAt s1.cur t1 p.2 size (BitVec.ofNat 1024 (elem (8 * size) (regOf vs d) p.1)) false)) px) := by
  intro s0 t1 size h hv hp s2
  refine issue_retires h ?_
  dsimp only [s0, t1, size] at hv hp
  dsimp only
  rw [hv, consume_c]
  dsimp only
  rw [hp]

/-- A member whose word alone runs as its pair does with no fields set. -/
theorem runsTo_of_runPair {px : Px} {i : Instr} {s u : State} (he : exec i s = runPair {} i s) (h : runPair px i s = .next u) :
    RunsTo px i s u := by
  refine ⟨h, fun hpx => ?_⟩
  subst hpx
  exact he.trans h

/-- The unit of a type code, and whether a strided access takes it, as the issuing thread finds them (R186). -/
theorem unitOf_of_issues {s : State} {t : Thread} {i : Instr} {px : Px} (h : Issues s t i px) (y : BitVec 3) :
    unitOf s y = unitBytes (tyOf s t y) := by
  rw [unitOf, State.me_of_thread h.thread]

theorem stridedOk_of_issues {s : State} {t : Thread} {i : Instr} {px : Px} (h : Issues s t i px) (y : BitVec 3) :
    stridedOk s y = decide (8 ≤ (tyOf s t y).w) := by
  rw [stridedOk, State.me_of_thread h.thread]

/-- A vector load runs as its table gives it, where its type is one that it takes. -/
theorem runPair_of_vecLoadSpec {s : State} {t : Thread} {i : Instr} {px : Px} {x : VecMemForm} (hx : vecLoadSpec i = some x)
    (h : Issues s t i px) (hok : x.ok (tyOf s t x.y) = true) :
    exec i s = runPair {} i s ∧ runPair px i s =
      vectorLoad px i x.d x.c x.reads x.hint x.y (x.units (unitBytes (tyOf s t x.y))) s
        fun t1 vs => x.addr t1 vs (unitBytes (tyOf s t x.y)) := by
  unfold vecLoadSpec at hx
  split at hx
  case h_1 =>
    cases hx
    refine ⟨rfl, ?_⟩
    simp only [← unitOf_of_issues h]
    rfl
  case h_2 =>
    cases hx
    refine ⟨rfl, ?_⟩
    simp only [← stridedOk_of_issues h] at hok
    simp only [← unitOf_of_issues h]
    exact if_pos hok
  case h_3 =>
    cases hx
    exact ⟨rfl, rfl⟩
  case h_4 => cases hx

/-- A vector store runs as its table gives it, where its type is one that it takes. -/
theorem runPair_of_vecStoreSpec {s : State} {t : Thread} {i : Instr} {px : Px} {x : VecMemForm} (hx : vecStoreSpec i = some x)
    (h : Issues s t i px) (hok : x.ok (tyOf s t x.y) = true) :
    exec i s = runPair {} i s ∧ runPair px i s =
      vectorStore px i x.d x.c x.reads x.y (x.units (unitBytes (tyOf s t x.y))) s
        fun t1 vs => x.addr t1 vs (unitBytes (tyOf s t x.y)) := by
  unfold vecStoreSpec at hx
  split at hx
  case h_1 =>
    cases hx
    refine ⟨rfl, ?_⟩
    simp only [← unitOf_of_issues h]
    rfl
  case h_2 =>
    cases hx
    refine ⟨rfl, ?_⟩
    simp only [← stridedOk_of_issues h] at hok
    simp only [← unitOf_of_issues h]
    exact if_pos hok
  case h_3 =>
    cases hx
    exact ⟨rfl, rfl⟩
  case h_4 => cases hx

/-- Settles O28: the vector loads are one form and the vector stores another, each with the addresses of its table. -/
theorem vectorMemory : Obligations.VectorMemory := by
  constructor
  · intro s t i px x s1 u vs ps s0 t1 size limit hx h hok hb hd hl hv hp s2 got s3 hw
    obtain ⟨he, hr⟩ := runPair_of_vecLoadSpec hx h hok
    exact runsTo_of_runPair he (hr.trans (vectorLoad_retires h hb hd hl hv hp hw))
  · intro s t i px x s1 vs ps s0 t1 size hx h hok hv hp s2
    obtain ⟨he, hr⟩ := runPair_of_vecStoreSpec hx h hok
    exact runsTo_of_runPair he (hr.trans (vectorStore_retires h hv hp))

end Sys2Proof.Machine
end

section
/-!
PROOF. The encoding (chapter 05): words and their instructions, transfers of control, CSR members, special functions, prefixes and the
words of no member, and what a fault or an absent page does.
-/

namespace Sys2Proof.Laws.RoundTrip

/-! ### Words and their instructions (R102, R104, R107) -/

/-- Every instruction has the round trip of its constructor. -/
theorem of_instr : ∀ i : Instr, Statement i
  | .add d a w b x => add d a w b x
  | .sub d a w b x => sub d a w b x
  | .and d a w b x => and d a w b x
  | .or d a w b x => or d a w b x
  | .xor d a w b x => xor d a w b x
  | .andn d a w b x => andn d a w b x
  | .shl d a w b x => shl d a w b x
  | .shr d a w b x => shr d a w b x
  | .sra d a w b x => sra d a w b x
  | .mul d a w b x => mul d a w b x
  | .mulh d a w b x => mulh d a w b x
  | .mulhu d a w b x => mulhu d a w b x
  | .div d a w b x => div d a w b x
  | .divu d a w b x => divu d a w b x
  | .rem d a w b x => rem d a w b x
  | .remu d a w b x => remu d a w b x
  | .min d a w b x => min d a w b x
  | .max d a w b x => max d a w b x
  | .minu d a w b x => minu d a w b x
  | .maxu d a w b x => maxu d a w b x
  | .clz d a w => clz d a w
  | .ctz d a w => ctz d a w
  | .popc d a w => popc d a w
  | .sext d a w n => sext d a w n
  | .selp d a w b x p => selp d a w b x p
  | .addi d a w i => addi d a w i
  | .andi d a w i => andi d a w i
  | .ori d a w i => ori d a w i
  | .xori d a w i => xori d a w i
  | .shli d a w n => shli d a w n
  | .shri d a w n => shri d a w n
  | .srai d a w n => srai d a w n
  | .pcmpi p a w c i => pcmpi p a w c i
  | .li d i => li d i
  | .lih d i => lih d i
  | .pcmp p a w b x m c => pcmp p a w b x m c
  | .pand d a b => pand d a b
  | .por d a b => por d a b
  | .pxor d a b => pxor d a b
  | .pnot d a => pnot d a
  | .pmovs d => pmovs d
  | .smovp a w => smovp a w
  | .br p n o => br p n o
  | .jmp o => jmp o
  | .jal o => jal o
  | .jalr d a w i => jalr d a w i
  | .ld d c a w z h o => ld d c a w z h o
  | .ldu d c a w z h o => ldu d c a w z h o
  | .st d c a w z o => st d c a w z o
  | .ldacq d c a w z s h o => ldacq d c a w z s h o
  | .strel d c a w z s o => strel d c a w z s o
  | .amoaddW d c a v s o => amoaddW d c a v s o
  | .amoandW d c a v s o => amoandW d c a v s o
  | .amoorW d c a v s o => amoorW d c a v s o
  | .amoxorW d c a v s o => amoxorW d c a v s o
  | .amominW d c a v s o => amominW d c a v s o
  | .amomaxW d c a v s o => amomaxW d c a v s o
  | .amominuW d c a v s o => amominuW d c a v s o
  | .amomaxuW d c a v s o => amomaxuW d c a v s o
  | .amoswapW d c a v s o => amoswapW d c a v s o
  | .amofaddW d c a v s o => amofaddW d c a v s o
  | .amoaddD d c a v s o => amoaddD d c a v s o
  | .amoandD d c a v s o => amoandD d c a v s o
  | .amoorD d c a v s o => amoorD d c a v s o
  | .amoxorD d c a v s o => amoxorD d c a v s o
  | .amominD d c a v s o => amominD d c a v s o
  | .amomaxD d c a v s o => amomaxD d c a v s o
  | .amominuD d c a v s o => amominuD d c a v s o
  | .amomaxuD d c a v s o => amomaxuD d c a v s o
  | .amoswapD d c a v s o => amoswapD d c a v s o
  | .cas d c a v w s o => cas d c a v w s o
  | .fenceAcq s => fenceAcq s
  | .fenceRel s => fenceRel s
  | .fenceFull s => fenceFull s
  | .cinv a b c => cinv a b c
  | .cflush a b c => cflush a b c
  | .cpref a b c => cpref a b c
  | .ddhint a b c => ddhint a b c
  | .ddstat d a c => ddstat d a c
  | .mcst d a b z c => mcst d a b z c
  | .redst d a b o c => redst d a b o c
  | .cbnd d c a s => cbnd d c a s
  | .crestr d c a => crestr d c a
  | .cinc d c a => cinc d c a
  | .cgetb c s => cgetb c s
  | .cgetl c s => cgetl c s
  | .cgetp c s => cgetp c s
  | .cmov d c => cmov d c
  | .cclr d => cclr d
  | .ctest c a s => ctest c a s
  | .cld x c a o => cld x c a o
  | .cst x c a o => cst x c a o
  | .csrr d r => csrr d r
  | .csrw d a r => csrw d a r
  | .csrs d a r => csrs d a r
  | .csrc d a r => csrc d a r
  | .start d a b => start d a b
  | .thid d => thid d
  | .vgrow n => vgrow n
  | .vshrink n => vshrink n
  | .send a b n => send a b n
  | .migrate a c => migrate a c
  | .reply a b r => reply a b r
  | .qcfg c a b q => qcfg c a b q
  | .qclaim d p q => qclaim d p q
  | .qpub a q => qpub a q
  | .qwaitf d p q => qwaitf d p q
  | .qfree a q => qfree a q
  | .qwaite d p q => qwaite d p q
  | .qerr d a q => qerr d a q
  | .qsetrd a q => qsetrd a q
  | .barinit c a b n => barinit c a b n
  | .bararr r n => bararr r n
  | .barwait n => barwait n
  | .barsync r n => barsync r n
  | .vadd d a b t => vadd d a b t
  | .vsub d a b t => vsub d a b t
  | .vmul d a b t => vmul d a b t
  | .vmulh d a b t => vmulh d a b t
  | .vmin d a b t => vmin d a b t
  | .vmax d a b t => vmax d a b t
  | .vminu d a b t => vminu d a b t
  | .vmaxu d a b t => vmaxu d a b t
  | .vand d a b t => vand d a b t
  | .vor d a b t => vor d a b t
  | .vxor d a b t => vxor d a b t
  | .vshl d a b t => vshl d a b t
  | .vshr d a b t => vshr d a b t
  | .vsra d a b t => vsra d a b t
  | .vfma d a b t => vfma d a b t
  | .vabs d a t => vabs d a t
  | .vneg d a t => vneg d a t
  | .vminn d a b t => vminn d a b t
  | .vmaxn d a b t => vmaxn d a b t
  | .vaddScalar d a b t => vaddScalar d a b t
  | .vsubScalar d a b t => vsubScalar d a b t
  | .vmulScalar d a b t => vmulScalar d a b t
  | .vmulhScalar d a b t => vmulhScalar d a b t
  | .vminScalar d a b t => vminScalar d a b t
  | .vmaxScalar d a b t => vmaxScalar d a b t
  | .vminuScalar d a b t => vminuScalar d a b t
  | .vmaxuScalar d a b t => vmaxuScalar d a b t
  | .vandScalar d a b t => vandScalar d a b t
  | .vorScalar d a b t => vorScalar d a b t
  | .vxorScalar d a b t => vxorScalar d a b t
  | .vshlScalar d a b t => vshlScalar d a b t
  | .vshrScalar d a b t => vshrScalar d a b t
  | .vsraScalar d a b t => vsraScalar d a b t
  | .vfmaScalar d a b t => vfmaScalar d a b t
  | .vminnScalar d a b t => vminnScalar d a b t
  | .vmaxnScalar d a b t => vmaxnScalar d a b t
  | .vcmp k a b t n c => vcmp k a b t n c
  | .vpermb d a b => vpermb d a b
  | .vshuf d a b t => vshuf d a b t
  | .vbcast d a t => vbcast d a t
  | .vslide d a b t => vslide d a b t
  | .vextr d a b t => vextr d a b t
  | .vins d a b t => vins d a b t
  | .vredsum d a t => vredsum d a t
  | .vredmax d a t => vredmax d a t
  | .vredmin d a t => vredmin d a t
  | .vredmaxi d a b t => vredmaxi d a b t
  | .vredmini d a b t => vredmini d a b t
  | .vscan d a t => vscan d a t
  | .vcvt d a s u => vcvt d a s u
  | .vpack d a p s u => vpack d a p s u
  | .vunpk d a p s u => vunpk d a p s u
  | .vld d c a w t h o => vld d c a w t h o
  | .vlds d c a w t h s => vlds d c a w t h s
  | .vst d c a w t o => vst d c a w t o
  | .vsts d c a w t s => vsts d c a w t s
  | .vgather d a c t => vgather d a c t
  | .vscatter d a c t => vscatter d a c t
  | .fexp2 d a t => fexp2 d a t
  | .flog2 d a t => flog2 d a t
  | .frcp d a t => frcp d a t
  | .frsq d a t => frsq d a t
  | .ftanh d a t => ftanh d a t
  | .fsin d a t => fsin d a t
  | .fcos d a t => fcos d a t
  | .vmov d a t => vmov d a t
  | .vsel d a b t => vsel d a b t
  | .viota d a t => viota d a t
  | .kand d a b => kand d a b
  | .kor d a b => kor d a b
  | .knot d a => knot d a
  | .kpopc d a => kpopc d a
  | .tld t c a b h => tld t c a b h
  | .tst t c a b => tst t c a b
  | .tzero t s => tzero t s
  | .ttrans t s => ttrans t s
  | .trdv t v a => trdv t v a
  | .twrv t v a => twrv t v a
  | .mma n a b c => mma n a b c
  | .mmas n a b s u c => mmas n a b s u c
  | .mmai n a b c => mmai n a b c
  | .aczero n => aczero n
  | .acld n c a => acld n c a
  | .acst n c a => acst n c a
  | .accvt n t i => accvt n t i
  | .acadd n i b => acadd n i b
  | .sbind v n => sbind v n
  | .sunbind n => sunbind n
  | .scfg c a b n => scfg c a b n
  | .sgo n => sgo n
  | .sstop n => sstop n
  | .ssync n => ssync n
  | .cpy d e f g h => cpy d e f g h
  | .cpycv d e f g h => cpycv d e f g h
  | .cpymc d e f g h => cpymc d e f g h
  | .cpyred d e f g h => cpyred d e f g h
  | .tkcommit d a f c => tkcommit d a f c
  | .tkforce d c => tkforce d c
  | .tkmask v a c => tkmask v a c
  | .tkstat d a c => tkstat d a c
  | .tkfork d b c => tkfork d b c
  | .tktrunc d a c => tktrunc d a c
  | .tkckpt c => tkckpt c
  | .tkdraw d a c => tkdraw d a c
  | .rndu d a c => rndu d a c
  | .rndv v a c => rndv v a c
  | .rndg v a c => rndg v a c
  | .nmaxi d a i g => nmaxi d a i g
  | .nmini d a i g => nmini d a i g
  | .nadd d a g => nadd d a g
  | .eqinit d f => eqinit d f
  | .equnite d a b f => equnite d a b f
  | .eqfind d a f => eqfind d a f
  | .eqsize d a f => eqsize d a f
  | .eqreduce d a b f => eqreduce d a b f
  | .eqsnap d a f => eqsnap d a f
  | .equndo d a f => equndo d a f
  | .eqstat d a f => eqstat d a f
  | .tkenc d a b s => tkenc d a b s
  | .tkdec d a b x s => tkdec d a b x s
  | .syscall d a b n => syscall d a b n
  | .halt d a m => halt d a m
  | .wake a => wake a
  | .wakePg a => wakePg a
  | .harvest d a b => harvest d a b
  | .xinv d a b m => xinv d a b m
  | .keyset d a c => keyset d a c
  | .keyclr d a => keyclr d a
  | .spillrpl d a b => spillrpl d a b
  | .retire => retire
  | .yield => yield
  | .park => park
  | .eret => eret
  | .wfi => wfi
  | .illegalInstruction => illegalInstruction
  | .modeSwitch => modeSwitch
  | .headerPublish => headerPublish
  | .barrierPacket => barrierPacket
  | .sfuReturn => sfuReturn
  | .matrixCompletion => matrixCompletion
  | .streamRunaheadFetch => streamRunaheadFetch
  | .copyCompletion => copyCompletion
  | .kick => kick
  | .nredPacket => nredPacket
  | .eqinitCompletion => eqinitCompletion
  | .eqreduceCompletion => eqreduceCompletion
  | .haltCompletion => haltCompletion
  | .harvestCompletion => harvestCompletion
  | .xinvCompletion => xinvCompletion
  | .keyclrCompletion => keyclrCompletion
  | .spillrplCompletion => spillrplCompletion
  | .scalarResultWrite => scalarResultWrite
  | .loadDataReturn => loadDataReturn
  | .multicastCompletion => multicastCompletion
  | .messageArrival => messageArrival
  | .migratedThreadArrival => migratedThreadArrival
  | .heldArrivalPlaced => heldArrivalPlaced
  | .helperPlaced => helperPlaced
  | .vgrowSatisfied => vgrowSatisfied
  | .helperTokenDelivery => helperTokenDelivery
  | .replyDelivery => replyDelivery
  | .wakeDelivery => wakeDelivery
  | .watchdogExpiry => watchdogExpiry
  | .syscallEvent => syscallEvent
  | .pageEvent => pageEvent
  | .faultEvent => faultEvent
  | .preemptRequest => preemptRequest
  | .killRequest => killRequest
  | .resumeRequest => resumeRequest
  | .coreSave => coreSave
  | .crewResumption => crewResumption
  | .queueRecordTaken => queueRecordTaken
  | .launchCandidate => launchCandidate
  | .placementDecision => placementDecision
  | .slotBoundary => slotBoundary
  | .deferredFiring => deferredFiring
  | .windowOverrun => windowOverrun
  | .heartbeatTick => heartbeatTick
  | .takeover => takeover
  | .powerOn => powerOn
  | .bundleUpload => bundleUpload
  | .bundleInstall => bundleInstall
  | .verifierAcknowledgement => verifierAcknowledgement
  | .trialWatchdogExpiry => trialWatchdogExpiry
  | .quoteRequest => quoteRequest
  | .debugRequest => debugRequest
  | .debugHalt => debugHalt
  | .debugObserve => debugObserve
  | .debugOff => debugOff
  | .clusterGate => clusterGate
  | .dieSleep => dieSleep
  | .dieWake => dieWake
  | .moduleOff => moduleOff
  | .fabricPacket => fabricPacket
  | .portOutOfService => portOutOfService
  | .linkLoss => linkLoss
  | .keyRenewal => keyRenewal
  | .noRouteTimeout => noRouteTimeout
  | .systemWindowRequest => systemWindowRequest
  | .hostCxlAccess => hostCxlAccess
  | .lineRead => lineRead
  | .ownershipRequest => ownershipRequest
  | .upgradeNotice => upgradeNotice
  | .registerWrite => registerWrite
  | .vectorPrefix => vectorPrefix
  | .reservedEncoding => reservedEncoding
  | .storePerformed => storePerformed
  | .routeReturns => routeReturns
  | .orderingAgentFailure => orderingAgentFailure
  | .hartRestart => hartRestart
  | .ptpDiscipline => ptpDiscipline
  | .spdmMessage => spdmMessage

end Sys2Proof.Laws.RoundTrip

namespace Sys2Proof.Machine

/-- Settles O52: the round trips of the constructors together. -/
theorem roundTrip : Obligations.RoundTrip := Laws.RoundTrip.of_instr

/-- Settles O51: the decoder reads each word. -/
theorem words : Obligations.Words := by
  unfold Obligations.Words
  decide

/-! ### Transfers of control (R101, R105, R124) -/

/-- A target as the pc and a word offset give it is their sum as numbers (R101). -/
theorem relative_eq (pc : Word) (w : Nat) (o : BitVec w) : relative pc w o = BitVec.ofInt 64 (pc.toInt + 4 * o.toInt) := by
  have hs : sext64 w o = BitVec.ofInt 64 o.toInt := rfl
  rw [relative, hs, Int.add_comm, Int.mul_comm, BitVec.ofInt_add, BitVec.ofInt_mul, BitVec.ofInt_toInt, BitVec.add_comm]
  rfl

/-- A transfer whose target passes its checks links and jumps. -/
theorem goTo_passes {s : State} {t : Thread} {target : Word} {link : Option (BitVec 5)} (h : transferCheck s t target = none) :
    goTo s t target link = .ok ((match link with
      | some d => (reachTarget s t target).wr d.toNat (t.pc + 4)
      | none => reachTarget s t target), .jump target) := by
  simp only [goTo, h]
  cases link <;> rfl

/-- A transfer to a target that is no multiple of 4 raises cause 0x07. -/
theorem goTo_misaligned {s : State} {t : Thread} {target : Word} (link : Option (BitVec 5)) (h : target.toNat % 4 ≠ 0) :
    goTo s t target link = .error (.cause 0x07 target) := by
  have hc : transferCheck s t target = some (.cause 0x07 target) := if_pos (bne_iff_ne.mpr h)
  simp only [goTo, hc]

/-- A transfer into a pair stops there. -/
theorem goTo_inside {s : State} {t : Thread} {target : Word} (link : Option (BitVec 5)) (h : target.toNat % 4 = 0)
    (hi : insidePair s t target = true) : goTo s t target link = .error (.inside t.asid target) := by
  have hc : transferCheck s t target = some (.inside t.asid target) := (if_neg (by simp [h])).trans (if_pos hi)
  simp only [goTo, hc]

/-- A branch taken, a jump and a call end as their transfer does. -/
theorem exec_of_jumpSpec {s : State} {t : Thread} {i : Instr} {target : Word} {link : Option (BitVec 5)} (h : Issues s t i)
    (hj : jumpSpec t s.pred i = some (target, link)) :
    ∃ body, body (consume t (usesOf i)) (opened s t i) = goTo (opened s t i) (consume t (usesOf i)) target link ∧
      exec i s = issue i s body := by
  unfold jumpSpec at hj
  split at hj
  case h_1 p n o =>
    split at hj
    case isTrue hp =>
      cases hj
      refine ⟨_, ?_, rfl⟩
      rw [pred_opened h.thread, if_pos hp, relative_eq, consume_pc]
    case isFalse => cases hj
  case h_2 =>
    cases hj
    exact ⟨_, by rw [relative_eq, consume_pc], rfl⟩
  case h_3 =>
    cases hj
    exact ⟨_, by rw [relative_eq, consume_pc], rfl⟩
  case h_4 =>
    cases hj
    exact ⟨_, by rw [relative_eq, consume_s], rfl⟩
  case h_5 => cases hj

/-- A branch that is not taken goes on. -/
theorem exec_br_not_taken {s : State} {t : Thread} {p : BitVec 4} {n : BitVec 1} {o : BitVec 21} (h : Issues s t (.br p n o))
    (hj : jumpSpec t s.pred (.br p n o) = none) : exec (.br p n o) s = .next (retired (opened s t (.br p n o))) := by
  have hp : ¬(s.pred p.toNat != (n == 1)) = true := fun hp => by simp only [jumpSpec, if_pos hp, reduceCtorEq] at hj
  refine issue_retires h ?_
  rw [pred_opened h.thread]
  exact if_neg hp

/-- Settles O4: every transfer is one form, which jumps, or stops at its target. -/
theorem transfers : Obligations.Transfers := by
  intro s t i h t1
  refine ⟨fun target link hj hc => ?_, ?_, fun target link hj => ⟨fun ha => ?_, fun ha hi => ?_⟩⟩
  · obtain ⟨body, hb, he⟩ := exec_of_jumpSpec h hj
    rw [goTo_passes hc, consume_pc] at hb
    exact he.trans (issue_ok h hb)
  · rintro p n o rfl hj
    exact exec_br_not_taken h hj
  · obtain ⟨body, hb, he⟩ := exec_of_jumpSpec h hj
    exact he.trans (issue_faults h (hb.trans (goTo_misaligned link ha)))
  · obtain ⟨body, hb, he⟩ := exec_of_jumpSpec h hj
    exact he.trans (issue_error h (hb.trans (goTo_inside link ha hi)))

/-! ### CSR members (R112–R114, R134, R135, R315, R316) -/

/-- The CSRs of the manual's lists are those of the two tests; the kinds of agents exclude each other by their numbers. -/
theorem csrPresent_iff (id n : Nat) :
    csrPresent id n ↔ n < 0x800 ∧ kernelCsr id n = true ∨ isPair id = true ∧ systemCsr n = true := by
  unfold csrPresent kernelCsr systemCsr isCompute isPair isCopyHart isEngineHart
  simp only [List.mem_cons, List.not_mem_nil, or_false, Bool.and_eq_true, Bool.or_eq_true, decide_eq_true_eq]
  split_ifs
  all_goals
    simp only [Bool.or_eq_true, Bool.and_eq_true, beq_iff_eq, decide_eq_true_eq]
    omega

/-- The checks of a CSR number: too low a privilege, none of the agent's, or none of these. -/
theorem csrCheck_level {s : State} {t : Thread} {n : Nat} (h : t.priv < csrLevel n) : csrCheck s t n = some 0x11 := if_pos h

theorem csrCheck_absent {s : State} {t : Thread} {n : Nat} (hl : csrLevel n ≤ t.priv) (hp : ¬csrPresent s.cur.core n) :
    csrCheck s t n = some 0x02 := by
  rw [csrPresent_iff, not_or] at hp
  exact (if_neg (Nat.not_lt.mpr hl)).trans ((if_neg (by simpa using hp.1)).trans (if_neg (by simpa using hp.2)))

theorem csrCheck_present {s : State} {t : Thread} {n : Nat} (hl : csrLevel n ≤ t.priv) (hp : csrPresent s.cur.core n) :
    csrCheck s t n = none := by
  refine (if_neg (Nat.not_lt.mpr hl)).trans ?_
  rcases (csrPresent_iff _ _).mp hp with h | h
  · exact if_pos (by simpa using h)
  · exact ite_eq_left_iff.mpr fun _ => if_pos (by simpa using h)

/-- The checks of a CSR number do not depend on the sync sources. -/
theorem csrCheck_opened (s : State) (t : Thread) (i : Instr) (n : Nat) :
    csrCheck (opened s t i) (consume t (usesOf i)) n = csrCheck s t n := by
  rw [csrCheck, csrCheck, consume_priv, opened_cur]

/-- The four members are one form, with the value of their table (R134). -/
theorem csrMember_of_mem {i : Instr} {d a : BitVec 5} {r : BitVec 12}
    (h : i ∈ ([.csrr d r, .csrw d a r, .csrs d a r, .csrc d a r] : List Instr)) :
    ∃ new, (∀ s, exec i s = csrMember i d r s new) ∧ (∀ t old, csrSpec t old i = some (d, r, new t old)) ∧
      ∀ t u old, new (consume t u) old = new t old := by
  simp only [List.mem_cons, List.not_mem_nil, or_false] at h
  rcases h with rfl | rfl | rfl | rfl
  · exact ⟨_, fun _ => rfl, fun _ _ => rfl, fun _ _ _ => rfl⟩
  · exact ⟨_, fun _ => rfl, fun _ _ => rfl, fun _ _ _ => by rw [consume_s]⟩
  · exact ⟨_, fun _ => rfl, fun _ _ => rfl, fun _ _ _ => by rw [consume_s]⟩
  · exact ⟨_, fun _ => rfl, fun _ _ => rfl, fun _ _ _ => by rw [consume_s]⟩

section
variable {s : State} {t : Thread} {i : Instr} {d : BitVec 5} {r : BitVec 12} {new : Thread → Word → Option Word}
  (h : Issues s t i)
include h

/-- A CSR that is out of reach. -/
theorem csrMember_faults {cause : Nat} (hc : csrCheck s t r.toNat = some cause) :
    csrMember i d r s new = .next (faults s cause ((encodeWord i).setWidth 64)) := by
  refine issue_faults h ?_
  simp only [csrCheck_opened, hc]

variable (hc : csrCheck s t r.toNat = none)
include hc

/-- Nothing is written: the CSR goes to the destination. -/
theorem csrMember_reads (hn : new (consume t (usesOf i)) (csrRead (opened s t i) (consume t (usesOf i)) r.toNat) = none) :
    csrMember i d r s new =
      .next (retired ((opened s t i).wr d.toNat (csrRead (opened s t i) (consume t (usesOf i)) r.toNat))) := by
  refine issue_retires h ?_
  simp only [csrCheck_opened, hc, hn, write1]

variable {v : Word} (hn : new (consume t (usesOf i)) (csrRead (opened s t i) (consume t (usesOf i)) r.toNat) = some v)
include hn

/-- A write that takes effect at once: the old value goes to the destination. -/
theorem csrMember_writes {u : State} (hw : csrWrite (opened s t i) (consume t (usesOf i)) r.toNat v = .ok (u, false)) :
    csrMember i d r s new = .next (retired (u.wr d.toNat (csrRead (opened s t i) (consume t (usesOf i)) r.toNat))) := by
  refine issue_retires h ?_
  simp only [csrCheck_opened, hc, hn, hw, write1]

/-- A write that takes effect at a later step: its writer waits. -/
theorem csrMember_waits {u : State} (hw : csrWrite (opened s t i) (consume t (usesOf i)) r.toNat v = .ok (u, true)) :
    csrMember i d r s new =
      .next (stays (waitFor (u.wr d.toNat (csrRead (opened s t i) (consume t (usesOf i)) r.toNat)) .csr)) := by
  refine issue_ok (a := .stay) h ?_
  simp only [csrCheck_opened, hc, hn, hw]

end

/-- A CSR has been written: it reads as `new`, every other as before, and nothing but what CSRs show has changed. -/
structure WritesCsr (s : State) (out : Bool) (n : Nat) (new : Word) (u : State) : Prop where
  frame  : u = { s with cores := u.cores, clusters := u.clusters, sroot := u.sroot, svocab := u.svocab }
  rid    : u.me.rid = s.me.rid
  crew   : ∀ k, (u.cluster k).crew = (s.cluster k).crew
  value  : csrFor u u.me out n = new
  others : ∀ m, m ≠ n → csrFor u u.me out m = csrFor s s.me out m

/-- Who is a visitor, no CSR changes. -/
theorem WritesCsr.isVisitor_eq {s u : State} {out : Bool} {n : Nat} {new : Word} (h : WritesCsr s out n new u) :
    isVisitor u u.cur u.me = isVisitor s s.cur s.me := by
  have hcur : u.cur = s.cur := by rw [h.frame]
  simp only [isVisitor, hcur, h.crew, h.rid]

/-- What the CSRs show does not depend on the slots. -/
theorem csrFor_setMe (s : State) (f t : Thread) (out : Bool) (n : Nat) : csrFor (s.setMe f) t out n = csrFor s t out n := by
  unfold csrFor
  dsimp only
  rw [State.setMe_cur, State.core_setMe]
  rfl

/-- The thread of the issuing slot does not depend on the rest of its agent. -/
theorem State.me_setCore {s : State} {id : Nat} {c : Core} (h : c.slots = (s.core id).slots) : (s.setCore id c).me = s.me := by
  unfold State.me State.thread State.thread? State.slot
  rw [State.core_setCore]
  split
  · next he => rw [h, ← he]; rfl
  · rfl

section
variable {s : State} {t : Thread} {out : Bool} {n : Nat} {v x old new : Word} (ht : s.me = t)
include ht

/-- Where nothing is written, a CSR reads as before. -/
theorem writesCsr_self : WritesCsr s out n (csrFor s t out n) s := ⟨rfl, rfl, fun _ => rfl, by rw [ht], fun _ _ => rfl⟩

/-- The thread, its agent or its cluster, changed so that one CSR reads as `x` and no other reads otherwise. A change of one field of the
thread leaves the other CSRs by their definition. -/
theorem writesCsr_setMe {f : Thread} (hr : f.rid = t.rid) (hv : csrFor s f out n = x)
    (ho : ∀ m, m ≠ n → csrFor s f out m = csrFor s t out m := by intro m hm; simp only [csrFor, if_neg hm, statusWord, statusWrite]) :
    WritesCsr s out n x (s.setMe f) where
  frame := rfl
  rid := by rw [State.me_setMe, hr, ht]
  crew _ := rfl
  value := by rw [State.me_setMe, csrFor_setMe, hv]
  others m hm := by rw [State.me_setMe, csrFor_setMe, ho m hm, ht]

theorem writesCsr_setCore {c : Core} (hs : c.slots = (s.core s.cur.core).slots)
    (hv : csrFor (s.setCore s.cur.core c) t out n = x)
    (ho : ∀ m, m ≠ n → csrFor (s.setCore s.cur.core c) t out m = csrFor s t out m) :
    WritesCsr s out n x (s.setCore s.cur.core c) where
  frame := rfl
  rid := by rw [State.me_setCore hs]
  crew _ := rfl
  value := by rw [State.me_setCore hs, ht, hv]
  others m hm := by rw [State.me_setCore hs, ht, ho m hm]

theorem writesCsr_setCluster {k : Nat} {c : Cluster} (hk : c.crew = (s.cluster k).crew)
    (hv : csrFor (s.setCluster k c) t out n = x)
    (ho : ∀ m, m ≠ n → csrFor (s.setCluster k c) t out m = csrFor s t out m) :
    WritesCsr s out n x (s.setCluster k c) where
  frame := rfl
  rid := rfl
  crew k' := by
    rw [State.cluster_setCluster]
    split
    · next he => rw [he, hk]
    · rfl
  value := by
    subst ht
    exact hv
  others := by
    subst ht
    exact ho

/-- A write that is ignored where its value or its writer is refused. -/
theorem csrPut_checked {bad : Prop} [Decidable bad] {u : State} (ho : csrFor s t out n = old)
    (hp : csrPut s t out n v = if bad then .ok (s, false) else .ok (u, false)) (hw : WritesCsr s out n x u)
    (hv : new = if bad then old else x) : ∃ u, csrPut s t out n v = .ok (u, false) ∧ WritesCsr s out n new u := by
  rw [hp, hv, ← ho]
  split
  · exact ⟨s, rfl, writesCsr_self ht⟩
  · exact ⟨u, rfl, hw⟩

end

/-- The bits from k up are clear in a word below `2^k`. -/
theorem bitsOf_high_ne_zero {k : Nat} (w : Word) (hk : k ≤ 63) : (bitsOf w 63 k != 0) = decide (2 ^ k ≤ w.toNat) := by
  have hlt : w.toNat / 2 ^ k < 2 ^ (63 - k + 1) := by
    rw [Nat.div_lt_iff_lt_mul (Nat.two_pow_pos k), ← pow_add, show 63 - k + 1 + k = 64 by omega]
    exact w.isLt
  rw [bitsOf, Nat.mod_eq_of_lt hlt, Bool.eq_iff_iff, bne_iff_ne, decide_eq_true_eq, Nat.div_ne_zero_iff]
  exact and_iff_right (Nat.two_pow_pos k).ne'

/-- A value with a reserved bit above bit k leaves the old one. -/
theorem ite_lt_two_pow (k : Nat) (hk : k ≤ 63) (w : Word) {α : Type} (a b : α) :
    (if w.toNat < 2 ^ k then a else b) = if (bitsOf w 63 k != 0) = true then b else a := by
  simp only [bitsOf_high_ne_zero w hk, decide_eq_true_eq, ← Nat.not_lt, ite_not]

/-- `SSTATUS` after a write (R315). -/
theorem statusWord_write (s : State) (t : Thread) (v : Word) : statusWord s (statusWrite t v) =
    BitVec.ofNat 64 ((statusWord s t).toNat / 32 * 32 + (if bitOf v 4 then 16 else 0) +
      (if t.priv = 2 then bitsOf v 3 2 else t.ppriv % 4) * 4 + t.priv % 4) := by
  have hb : bitsOf v 3 2 % 4 = bitsOf v 3 2 := Nat.mod_mod _ 4
  have hw : (statusWord s t).toNat = t.priv % 4 + t.ppriv % 4 * 4 + (if t.intrap then 16 else 0) + (if t.inmon then 32 else 0)
      + (if dieOf s.cur.core = s.leader then 64 else 0) := by
    rw [statusWord, BitVec.toNat_ofNat]
    refine Nat.mod_eq_of_lt ?_
    split_ifs <;> omega
  rw [hw, statusWord, statusWrite]
  refine congrArg (BitVec.ofNat 64) ?_
  dsimp only
  have hp : (if t.priv = 2 then bitsOf v 3 2 else t.ppriv) % 4 = if t.priv = 2 then bitsOf v 3 2 else t.ppriv % 4 := by
    split
    · exact hb
    · rfl
  rw [hp]
  split_ifs <;> omega

/-- The CSRs that are the issuing thread's own. -/
def ownCsrs : List Nat :=
  [0x030, 0x031, 0x032, 0x033, 0x034, 0x800, 0x801, 0x802, 0x803, 0x805, 0x807, 0xC10, 0xC11, 0xC12, 0xC14]

section
variable {s : State} {t : Thread} (ht : s.me = t) (out : Bool) (v : Word) {n : Nat} {old : Word} (ho : csrFor s t out n = old)
include ht ho

/-- A write of a CSR that is the thread's own (R58, R113, R315, R316). -/
theorem csrPut_own (hn : n ∈ ownCsrs) :
    ∃ u, csrPut s t out n v = .ok (u, false) ∧ WritesCsr s out n (csrAfter out t n old v) u := by
  simp only [ownCsrs, List.mem_cons, List.not_mem_nil, or_false] at hn
  rcases hn with rfl | rfl | rfl | rfl | rfl | rfl | rfl | rfl | rfl | rfl | rfl | rfl | rfl | rfl | rfl
  · exact csrPut_checked ht ho rfl (writesCsr_setMe ht (f := { t with vnf := v }) rfl rfl) (ite_lt_two_pow 4 (by decide) v _ _)
  · refine csrPut_checked ht ho rfl (writesCsr_setMe ht (f := { t with frm := v }) rfl rfl) ?_
    exact (ite_not _ _ _).symm.trans (if_congr Nat.not_lt rfl rfl)
  · exact csrPut_checked ht ho rfl (writesCsr_setMe ht (f := { t with fflags := v }) rfl rfl) (ite_lt_two_pow 5 (by decide) v _ _)
  · exact csrPut_checked ht ho (bad := False) rfl (writesCsr_setMe ht (f := { t with srkey := v }) rfl rfl) rfl
  · exact csrPut_checked ht ho (bad := False) rfl (writesCsr_setMe ht (f := { t with srctr := v }) rfl rfl) rfl
  · have hnew := statusWord_write s t v
    rw [show statusWord s t = old from ho] at hnew
    exact csrPut_checked ht ho rfl (writesCsr_setMe ht (f := statusWrite t v) rfl hnew) (ite_lt_two_pow 7 (by decide) v _ _)
  · exact csrPut_checked ht ho rfl (writesCsr_setMe ht (f := { t with scause := v }) rfl rfl) (ite_lt_two_pow 8 (by decide) v _ _)
  · exact csrPut_checked ht ho (bad := False) rfl (writesCsr_setMe ht (f := { t with sepc := v }) rfl rfl) rfl
  · exact csrPut_checked ht ho (bad := False) rfl (writesCsr_setMe ht (f := { t with sval := v }) rfl rfl) rfl
  · exact csrPut_checked ht ho (bad := False) rfl (writesCsr_setMe ht (f := { t with srcb := v }) rfl rfl) rfl
  · exact csrPut_checked ht ho (bad := False) rfl (writesCsr_setMe ht (f := { t with sscratch := v }) rfl rfl) rfl
  · exact csrPut_checked ht ho (bad := False) rfl (writesCsr_setMe ht (f := { t with mepc := v }) rfl rfl) rfl
  · exact csrPut_checked ht ho rfl (writesCsr_setMe ht (f := { t with mcause := v }) rfl rfl) (ite_lt_two_pow 17 (by decide) v _ _)
  · exact csrPut_checked ht ho (bad := False) rfl (writesCsr_setMe ht (f := { t with mval := v }) rfl rfl) rfl
  · exact csrPut_checked ht ho (bad := False) rfl (writesCsr_setMe ht (f := { t with mscratch := v }) rfl rfl) rfl

end

/-- `TSHAPEn`, `FMTn` and `BFMTk` are read by their index (R17, R113). -/
theorem csrFor_shape {s : State} {t : Thread} {out : Bool} {n : Nat} (h : 0x010 ≤ n ∧ n ≤ 0x017) :
    csrFor s t out n = if out then 0 else (s.core s.cur.core).shape (n - 0x10) := by
  obtain ⟨hlo, hhi⟩ := h
  interval_cases n <;> rfl

theorem csrFor_format {s : State} {t : Thread} {out : Bool} {n : Nat} (h : 0x020 ≤ n ∧ n ≤ 0x02F) :
    csrFor s t out n = if out then fmtReset (n - 0x20) else (s.cluster (clusterOf s.cur.core)).format (n - 0x20) := by
  obtain ⟨hlo, hhi⟩ := h
  interval_cases n <;> rfl

theorem csrFor_bankFormat {s : State} {t : Thread} {out : Bool} {n : Nat} (h : 0x040 ≤ n ∧ n ≤ 0x04F) :
    csrFor s t out n = if out then 0 else (s.cluster (clusterOf s.cur.core)).bankFormat (n - 0x40) := by
  obtain ⟨hlo, hhi⟩ := h
  interval_cases n <;> rfl

/-- What the CSRs show of an agent: its shapes, its cycle count, its vectors. -/
theorem csrFor_setCore {s : State} {t : Thread} {out : Bool} {m : Nat} {c : Core} (hcycle : c.cycle = (s.core s.cur.core).cycle)
    (hshape : 0x010 ≤ m ∧ m ≤ 0x017 → c.shape (m - 0x10) = (s.core s.cur.core).shape (m - 0x10))
    (hsvec : m = 0x806 → c.svec = (s.core s.cur.core).svec) (hmvec : m = 0xC13 → c.mvec = (s.core s.cur.core).mvec) :
    csrFor (s.setCore s.cur.core c) t out m = csrFor s t out m := by
  by_cases h1 : 0x010 ≤ m ∧ m ≤ 0x017
  · rw [csrFor_shape h1, csrFor_shape h1, ← hshape h1, State.setCore_cur, State.core_setCore_self]
  by_cases h2 : m = 0x806
  · subst h2
    exact (congrArg Core.svec (State.core_setCore_self s _ c)).trans (hsvec rfl)
  by_cases h3 : m = 0xC13
  · subst h3
    exact (congrArg Core.mvec (State.core_setCore_self s _ c)).trans (hmvec rfl)
  have h1' : ¬(decide (0x010 ≤ m) && decide (m ≤ 0x017)) = true := by simpa using h1
  simp only [csrFor, if_neg h1', if_neg h2, if_neg h3, State.setCore_cur, State.core_setCore_self, hcycle]
  rfl

/-- What the CSRs show of a cluster: its formats and modes. -/
theorem csrFor_setCluster {s : State} {t : Thread} {out : Bool} {m : Nat} {c : Cluster}
    (hmode : c.bmode = (s.cluster (clusterOf s.cur.core)).bmode)
    (hfmt : 0x020 ≤ m ∧ m ≤ 0x02F → c.format (m - 0x20) = (s.cluster (clusterOf s.cur.core)).format (m - 0x20))
    (hbfmt : 0x040 ≤ m ∧ m ≤ 0x04F → c.bankFormat (m - 0x40) = (s.cluster (clusterOf s.cur.core)).bankFormat (m - 0x40)) :
    csrFor (s.setCluster (clusterOf s.cur.core) c) t out m = csrFor s t out m := by
  by_cases h1 : 0x020 ≤ m ∧ m ≤ 0x02F
  · rw [csrFor_format h1, csrFor_format h1, ← hfmt h1, State.setCluster_cur, State.cluster_setCluster_self]
  by_cases h2 : 0x040 ≤ m ∧ m ≤ 0x04F
  · rw [csrFor_bankFormat h2, csrFor_bankFormat h2, ← hbfmt h2, State.setCluster_cur, State.cluster_setCluster_self]
  have h1' : ¬(decide (0x020 ≤ m) && decide (m ≤ 0x02F)) = true := by simpa using h1
  have h2' : ¬(decide (0x040 ≤ m) && decide (m ≤ 0x04F)) = true := by simpa using h2
  simp only [csrFor, if_neg h1', if_neg h2', State.setCluster_cur, State.cluster_setCluster_self, Cluster.mode, hmode]
  rfl

section
variable {s : State} {t : Thread} (ht : s.me = t) (out : Bool) (v : Word) {n : Nat} {old : Word} (ho : csrFor s t out n = old)
include ht ho

/-- A write of `TSHAPEn` (R114). -/
theorem csrPut_shape (hn : 0x010 ≤ n ∧ n ≤ 0x017) :
    ∃ u, csrPut s t out n v = .ok (u, false) ∧ WritesCsr s out n (csrAfter out t n old v) u := by
  refine csrPut_checked (x := if out then 0 else v) ht ho (bad := (out || !shapeOk v) = true) (if_pos (by simpa using hn))
    (writesCsr_setCore ht rfl ?_ fun m hm =>
      csrFor_setCore rfl (fun hr => Tab.get_set_ne _ _ _ (by omega)) (fun _ => rfl) fun _ => rfl) ?_
  · rw [csrFor_shape hn, State.setCore_cur, State.core_setCore_self, Core.shape, Tab.get_set_self]
  · refine (if_pos hn).trans ?_
    cases out <;> cases shapeOk v <;> rfl

/-- A write of `FMTn` (R60). -/
theorem csrPut_format (hn : 0x020 ≤ n ∧ n ≤ 0x02F) :
    ∃ u, csrPut s t out n v = .ok (u, false) ∧ WritesCsr s out n (csrAfter out t n old v) u := by
  refine csrPut_checked (x := if out then fmtReset (n - 0x20) else v) ht ho (bad := (out || !formatOk v) = true)
    ((if_neg (by rw [Bool.and_eq_true, decide_eq_true_eq, decide_eq_true_eq]; omega)).trans (if_pos (by simpa using hn)))
    (writesCsr_setCluster ht rfl ?_ fun m hm => csrFor_setCluster rfl (fun hr => Tab.get_set_ne _ _ _ (by omega)) fun _ => rfl) ?_
  · rw [csrFor_format hn, State.setCluster_cur, State.cluster_setCluster_self, Cluster.format, Tab.get_set_self]
  · refine (if_neg (by omega)).trans ((if_pos hn).trans ?_)
    cases out <;> cases formatOk v <;> rfl

/-- A write of `BFMTk` (R34). -/
theorem csrPut_bankFormat (hn : 0x040 ≤ n ∧ n ≤ 0x04F) :
    ∃ u, csrPut s t out n v = .ok (u, false) ∧ WritesCsr s out n (csrAfter out t n old v) u := by
  have hput : csrPut s t out n v = if (out || bitsOf v 63 5 != 0) = true then .ok (s, false)
      else .ok (s.setCluster (clusterOf s.cur.core) { s.cluster (clusterOf s.cur.core) with
        bfmt := (s.cluster (clusterOf s.cur.core)).bfmt.set (n - 0x40) v }, false) := by
    obtain ⟨hlo, hhi⟩ := hn
    clear ho
    interval_cases n <;> rfl
  refine csrPut_checked (x := if out then 0 else v) ht ho hput
    (writesCsr_setCluster ht rfl ?_ fun m hm => csrFor_setCluster rfl (fun _ => rfl) fun hr => Tab.get_set_ne _ _ _ (by omega)) ?_
  · rw [csrFor_bankFormat hn, State.setCluster_cur, State.cluster_setCluster_self, Cluster.bankFormat, Tab.get_set_self]
  · refine (if_neg (by omega)).trans ((if_neg (by omega)).trans ((if_pos hn).trans ?_))
    cases out
    · exact (ite_lt_two_pow 5 (by decide) v _ _).trans rfl
    · rfl

/-- The CSRs of the pair and of the module that take a write at once. -/
def sharedCsrs : List Nat := [0x804, 0x806, 0x808, 0xC13]

theorem csrPut_shared (hn : n ∈ sharedCsrs) :
    ∃ u, csrPut s t out n v = .ok (u, false) ∧ WritesCsr s out n (csrAfter out t n old v) u := by
  simp only [sharedCsrs, List.mem_cons, List.not_mem_nil, or_false] at hn
  rcases hn with rfl | rfl | rfl | rfl
  · refine ⟨{ s with sroot := v &&& ~~~0xFF }, rfl, rfl, rfl, fun _ => rfl, rfl, fun m hm => ?_⟩
    simp only [csrFor, if_neg hm]
    rfl
  · exact ⟨_, rfl, writesCsr_setCore ht rfl (congrArg Core.svec (State.core_setCore_self s _ _)) fun m hm =>
      csrFor_setCore rfl (fun _ => rfl) (fun h => absurd h hm) fun _ => rfl⟩
  · refine ⟨{ s with svocab := v &&& ~~~0x7FF }, rfl, rfl, rfl, fun _ => rfl, rfl, fun m hm => ?_⟩
    simp only [csrFor, if_neg hm]
    rfl
  · exact ⟨_, rfl, writesCsr_setCore ht rfl (congrArg Core.mvec (State.core_setCore_self s _ _)) fun m hm =>
      csrFor_setCore rfl (fun _ => rfl) (fun _ => rfl) fun h => absurd h hm⟩

/-- Every other CSR ignores a write. -/
theorem csrPut_ignored (h1 : ¬(0x010 ≤ n ∧ n ≤ 0x017)) (h2 : ¬(0x020 ≤ n ∧ n ≤ 0x02F)) (h3 : ¬(0x040 ≤ n ∧ n ≤ 0x04F))
    (h4 : n ∉ ownCsrs) (h5 : n ∉ sharedCsrs) (hl : ¬csrLate n) :
    ∃ u, csrPut s t out n v = .ok (u, false) ∧ WritesCsr s out n (csrAfter out t n old v) u := by
  simp only [ownCsrs, sharedCsrs, csrLate, List.mem_cons, List.not_mem_nil, or_false, not_or] at h4 h5 hl
  have hput : csrPut s t out n v = .ok (s, false) := by simp [csrPut, h1, h2, h3, h4, h5, hl]
  have hafter : csrAfter out t n old v = old := by simp [csrAfter, h1, h2, h3, h4, h5]
  exact ⟨s, hput, by rw [hafter, ← ho]; exact writesCsr_self ht⟩

/-- A write that takes effect at once leaves its value in its CSR and every other CSR as it was (R134). -/
theorem csrPut_at_once (hl : ¬csrLate n) :
    ∃ u, csrPut s t out n v = .ok (u, false) ∧ WritesCsr s out n (csrAfter out t n old v) u := by
  by_cases h1 : 0x010 ≤ n ∧ n ≤ 0x017
  · exact csrPut_shape ht out v ho h1
  by_cases h2 : 0x020 ≤ n ∧ n ≤ 0x02F
  · exact csrPut_format ht out v ho h2
  by_cases h3 : 0x040 ≤ n ∧ n ≤ 0x04F
  · exact csrPut_bankFormat ht out v ho h3
  by_cases h4 : n ∈ ownCsrs
  · exact csrPut_own ht out v ho h4
  by_cases h5 : n ∈ sharedCsrs
  · exact csrPut_shared ht out v ho h5
  · exact csrPut_ignored ht out v ho h1 h2 h3 h4 h5 hl

end

section
variable {s : State} {t : Thread} {out : Bool} {v : Word} {n : Nat}

/-- A write of `BMODEk`: ignored, stalled behind another switch of the cluster, or a request for one (R36). -/
theorem csrPut_mode (hlo : 0x050 ≤ n) (hhi : n ≤ 0x05F) :
    let cl := s.cluster (clusterOf s.cur.core)
    csrPut s t out n v = if (out || decide (3 ≤ v.toNat) || decide (cl.mode (n - 0x50) = v.toNat)) = true then .ok (s, false)
      else if cl.switch.isSome = true then .error .stall
      else .ok (s.setCluster (clusterOf s.cur.core) { cl with
        switch := some { index := n - 0x50, mode := v.toNat, loc := s.cur } }, true) := by
  interval_cases n <;> rfl

theorem csrPut_mode_ignored (hlo : 0x050 ≤ n) (hhi : n ≤ 0x05F)
    (h : out = true ∨ 3 ≤ v.toNat ∨ (s.cluster (clusterOf s.cur.core)).mode (n - 0x50) = v.toNat) :
    csrPut s t out n v = .ok (s, false) :=
  (csrPut_mode hlo hhi).trans (if_pos (by simpa [or_assoc] using h))

theorem csrPut_mode_asks (hlo : 0x050 ≤ n) (hhi : n ≤ 0x05F) (ho : out = false) (h3 : v.toNat < 3)
    (hm : (s.cluster (clusterOf s.cur.core)).mode (n - 0x50) ≠ v.toNat) (hs : (s.cluster (clusterOf s.cur.core)).switch = none) :
    csrPut s t out n v = .ok (s.setCluster (clusterOf s.cur.core) { s.cluster (clusterOf s.cur.core) with
      switch := some { index := n - 0x50, mode := v.toNat, loc := s.cur } }, true) :=
  (csrPut_mode hlo hhi).trans ((if_neg (by simpa [ho, h3] using hm)).trans (if_neg (by simp [hs])))

/-- A write of `DBGCTL`, likewise (R400). -/
theorem csrPut_debug (hn : n = 0xC01) :
    csrPut s t out n v = if (decide (3 ≤ v.toNat) || decide (s.dbgctl = v.toNat)) = true then .ok (s, false)
      else if s.dbgReq.isSome = true then .error .stall
      else .ok ({ s with dbgReq := some (v.toNat, s.cur) }, true) := by
  subst hn
  rfl

theorem csrPut_debug_ignored (hn : n = 0xC01) (h : 3 ≤ v.toNat ∨ s.dbgctl = v.toNat) : csrPut s t out n v = .ok (s, false) :=
  (csrPut_debug hn).trans (if_pos (by simpa using h))

theorem csrPut_debug_asks (hn : n = 0xC01) (h3 : v.toNat < 3) (hm : s.dbgctl ≠ v.toNat) (hs : s.dbgReq = none) :
    csrPut s t out n v = .ok ({ s with dbgReq := some (v.toNat, s.cur) }, true) :=
  (csrPut_debug hn).trans ((if_neg (by simpa [h3] using hm)).trans (if_neg (by simp [hs])))

/-- A write of `PWRCTL`, likewise (R413). -/
theorem csrPut_power (hn : n = 0xC02) :
    let x := dieOf s.cur.core
    csrPut s t out n v = if 2 ^ 34 ≤ v.toNat ∨ powerValue s x v = pwrctl (s.die x) then .ok (s, false)
      else if (s.die x).power.isSome = true then .error .stall
      else .ok (s.setDie x { s.die x with power := some (powerValue s x v, s.cur) }, true) := by
  subst hn
  have hbad : (bitsOf v 63 34 != 0 || decide (powerValue s (dieOf s.cur.core) v = pwrctl (s.die (dieOf s.cur.core)))) = true ↔
      2 ^ 34 ≤ v.toNat ∨ powerValue s (dieOf s.cur.core) v = pwrctl (s.die (dieOf s.cur.core)) := by
    rw [bitsOf_high_ne_zero v (by decide), Bool.or_eq_true, decide_eq_true_eq, decide_eq_true_eq]
  exact if_congr hbad rfl rfl

theorem csrPut_power_ignored (hn : n = 0xC02)
    (h : 2 ^ 34 ≤ v.toNat ∨ powerValue s (dieOf s.cur.core) v = pwrctl (s.die (dieOf s.cur.core))) :
    csrPut s t out n v = .ok (s, false) :=
  (csrPut_power hn).trans (if_pos h)

theorem csrPut_power_asks (hn : n = 0xC02) (h34 : v.toNat < 2 ^ 34)
    (hm : powerValue s (dieOf s.cur.core) v ≠ pwrctl (s.die (dieOf s.cur.core))) (hs : (s.die (dieOf s.cur.core)).power = none) :
    csrPut s t out n v = .ok (s.setDie (dieOf s.cur.core) { s.die (dieOf s.cur.core) with
      power := some (powerValue s (dieOf s.cur.core) v, s.cur) }, true) :=
  (csrPut_power hn).trans ((if_neg (not_or.mpr ⟨Nat.not_le.mpr h34, hm⟩)).trans (if_neg (by simp [hs])))

end

/-- What a CSR is after a write does not depend on the sync sources. -/
theorem csrAfter_consume (out : Bool) (t : Thread) (u : Uses) (n : Nat) (old v : Word) :
    csrAfter out (consume t u) n old v = csrAfter out t n old v := by
  rw [consume_eq]
  rfl

/-- What the issuing thread reads of the CSRs after a write. -/
theorem WritesCsr.csrRead_eq {s u : State} {out : Bool} {n : Nat} {new : Word} (h : WritesCsr s out n new u)
    (ho : isVisitor s s.cur s.me = out) : csrRead u u.me n = new ∧ ∀ m, m ≠ n → csrRead u u.me m = csrRead s s.me m := by
  unfold csrRead
  rw [h.isVisitor_eq, ho]
  exact ⟨h.value, h.others⟩

/-- Settles O13: the four members are one form; a write at once by its CSR, a late one by its request. -/
theorem csrMembers : Obligations.CsrMembers := by
  intro s t d a r i hi h n s1 t1 old out
  obtain ⟨new, he, hspec, hnew⟩ := csrMember_of_mem hi
  rw [he s]
  refine ⟨fun hl => csrMember_faults h (csrCheck_level hl), fun hl hp => csrMember_faults h (csrCheck_absent hl hp),
    fun hl hp => ?_⟩
  have hc := csrCheck_present hl hp
  have hnew_eq : csrSpec t old i = some (d, r, new t1 old) := by rw [hspec, hnew]
  refine ⟨fun hr => csrMember_reads h hc ?_, fun h0 hr => csrMember_reads h hc ?_, fun v hv => ?_⟩
  · rw [hr] at hnew_eq
    simpa [csrSpec] using hnew_eq.symm
  · rcases hr with hr | hr
    · rw [hr] at hnew_eq
      simpa [csrSpec, h0] using hnew_eq.symm
    · rw [hr] at hnew_eq
      simpa [csrSpec, h0] using hnew_eq.symm
  have hn : new t1 old = some v := by simpa [hnew_eq] using hv
  have hme : s1.me = t1 := opened_me s t i
  refine ⟨fun hlate => ?_, ?_, ?_, ?_⟩
  · obtain ⟨u, hput, hw⟩ := csrPut_at_once hme out v rfl hlate
    obtain ⟨hval, hoth⟩ := hw.csrRead_eq (by rw [hme]; rfl)
    rw [csrAfter_consume] at hval
    rw [hme] at hoth
    exact ⟨u, csrMember_writes h hc hn hput, hval, hoth, hw.frame⟩
  · exact fun hlo hhi => ⟨fun hk => csrMember_writes h hc hn (csrPut_mode_ignored hlo hhi hk),
      fun ho h3 hm hs => csrMember_waits h hc hn (csrPut_mode_asks hlo hhi ho h3 hm hs)⟩
  · exact fun hr => ⟨fun hk => csrMember_writes h hc hn (csrPut_debug_ignored hr hk),
      fun h3 hm hs => csrMember_waits h hc hn (csrPut_debug_asks hr h3 hm hs)⟩
  · exact fun hr => ⟨fun hk => csrMember_writes h hc hn (csrPut_power_ignored hr hk),
      fun h34 hm hs => csrMember_waits h hc hn (csrPut_power_asks hr h34 hm hs)⟩

/-! ### Special functions (R109, R189, R190) -/

/-- Each member is the request of its function number, alone and under a prefix (R189). -/
theorem runPair_of_sfuSpec {i : Instr} {fn : Nat} {d a : BitVec 5} {y : BitVec 3} (h : sfuSpec i = some (fn, d, a, y)) (s : State)
    (px : Px) : exec i s = runPair {} i s ∧ runPair px i s = sfuMember px fn i d a y s := by
  unfold sfuSpec at h
  split at h
  case h_8 => cases h
  all_goals
    cases h
    exact ⟨rfl, rfl⟩

/-- A member with room in the queue of its cluster leaves its request there and parks. -/
theorem sfuMember_queues {s s1 : State} {t : Thread} {px : Px} {fn : Nat} {i : Instr} {d a : BitVec 5} {y : BitVec 3}
    {vs : Tab (BitVec 2048)} (h : Issues s t i px) (hb : isLoadBound (opened s t i) d.toNat = false)
    (hq : ((opened s t i).cluster (clusterOf s.cur.core)).sfu.length < 32)
    (hr : readVectors (opened s t i) [a.toNat] = .ok (s1, vs)) :
    let k := clusterOf s.cur.core
    let rm := effRm px (consume t (usesOf i))
    sfuMember px fn i d a y s = .next (stays (waitFor (s1.setCluster k { s1.cluster k with sfu := (s1.cluster k).sfu ++
      [{ loc := s1.cur, gen := (s1.slot s1.cur).gen, fn, typ := y, rm := if rm = 5 then 0 else rm, dest := d.toNat
         zero := px.z == 1, active := if px.k = 0 then 0xFFFFFFFFFFFFFFFF else t.k px.k.toNat, src := regOf vs a
         len := px.len, popped := poppedOf (opened s t i) a.toNat }] }) .sfu)) := by
  refine issue_ok (a := .stay) h ?_
  dsimp only
  rw [opened_cur, hb, if_neg Bool.false_ne_true, if_neg (Nat.not_le.mpr hq), hr, consume_k]

/-- A push that fails at the return stops the thread, the register-load given back to its stream (R109). -/
theorem sfuReturn_fails {s : State} {k : Nat} {q : SfuReq} {rest : List SfuReq} {cause held : Nat} {val : Word} {e : Stop}
    (hw : writeVectorAt (s.setCluster k { s.cluster k with sfu := rest }) q.loc q.dest
      (sfuResult q (vectorAt s q.loc q.dest)).1 = .error e) (he : e.fault? = some (cause, val, held)) :
    sfuReturn s k q rest = stopThread (((unpop (s.setCluster k { s.cluster k with sfu := rest }) q).reachStop e).onThread q.loc
      fun t => { t with wait := none }) q.loc cause val held false := by
  simp only [sfuReturn, hw]
  cases e with
  | page => cases he
  | _ => simp only [he]

/-- Settles O29: a request joins its queue, and a push that fails at the return is precise. -/
theorem specialFunctions : Obligations.SpecialFunctions := by
  constructor
  · intro s k q rest n pos cause val held e s1 hw he hp c st s2
    rw [sfuReturn_fails hw he]
    simp only [unpop, hp]
    rfl
  · intro s t i px fn d a y s1 vs k hs h hb hq hr rm
    obtain ⟨he, hrun⟩ := runPair_of_sfuSpec hs s px
    exact runsTo_of_runPair he (hrun.trans (sfuMember_queues h hb hq hr))

/-! ### Prefixes and the words of no member (R105–R108) -/

/-- A word of no member fails with its cause (R108). -/
theorem failWord_faults {s : State} {t : Thread} (h : s.thread? s.cur = some t) (cause : Nat) (w : BitVec 32) :
    failWord s cause w = .next (faults s cause (w.setWidth 64)) := by
  simp only [failWord, h]
  rfl

/-- The majors without a member (R107). -/
theorem decodeWord_illegal {w : BitVec 32} (h : majorOf w = 0x00 ∨ majorOf w = 0x3F) : decodeWord w = .illegalInstruction := by
  rcases h with h | h
  · simp only [decodeWord, h, decodeMajor]
  · simp only [decodeWord, h, decodeMajor]

theorem decodeWord_reserved {w : BitVec 32} (hlo : 0x39 ≤ majorOf w) (hhi : majorOf w ≤ 0x3D) : decodeWord w = .reservedEncoding := by
  unfold decodeWord
  generalize majorOf w = op at hlo hhi
  interval_cases op <;> rfl

theorem decodeWord_prefix {w : BitVec 32} (h : majorOf w = 0x3E) : decodeWord w = .vectorPrefix := by
  simp only [decodeWord, h, decodeMajor]

/-- An elementwise member under a prefix is one form, with the registers and elements of its table (R177, R178, R181, R191). -/
theorem runPair_of_vecSpec {px : Px} {i : Instr} {x : VecForm} (h : vecSpec px i = some x) (s : State) :
    runPair px i s = vectorMember px i x.d x.reads s fun t s vs => .ok (x.f t s vs) := by
  unfold vecSpec at h
  split at h
  case h_44 => cases h
  all_goals
    cases h
    rfl

section
variable {s : State} {t : Thread} (ht : s.thread? s.cur = some t)
include ht

/-- A follower of another major (R105). -/
theorem exec_vectorPrefix_follower (h : majorOf s.next < 0x22 ∨ 0x2C < majorOf s.next) :
    exec .vectorPrefix s = .next (faults s 0x10 (s.next.setWidth 64)) := by
  rw [← failWord_faults ht]
  exact if_pos (by simpa using h)

/-- Reserved values of the prefix, and fields that the member of the follower's selector ignores (R106). -/
theorem exec_vectorPrefix_reserved (hlo : 0x22 ≤ majorOf s.next) (hhi : majorOf s.next ≤ 0x2C)
    (h : prefixReserved s.word = true ∨
      memberOf s.next ≠ .reservedEncoding ∧ prefixIgnored (prefixOf s.word) (memberOf s.next) = true) :
    exec .vectorPrefix s = .next (faults s 0x02 (s.word.setWidth 64)) := by
  rw [← failWord_faults ht]
  exact (if_neg (by simpa using ⟨hlo, hhi⟩)).trans (if_pos (by simpa using h))

omit ht in
/-- A prefix whose fields the member honours runs it under them (R106). -/
theorem exec_vectorPrefix_runs (hlo : 0x22 ≤ majorOf s.next) (hhi : majorOf s.next ≤ 0x2C) (hr : prefixReserved s.word = false)
    (hm : memberOf s.next = .reservedEncoding ∨ prefixIgnored (prefixOf s.word) (memberOf s.next) = false) :
    exec .vectorPrefix s = runPair (prefixOf s.word) (decodeWord s.next) s := by
  refine (if_neg (by simpa using ⟨hlo, hhi⟩)).trans (if_neg ?_)
  rcases hm with hm | hm <;> simp [hr, hm]

end

/-- Settles O30: the prefix by what its fields and its follower are, the words of no member by their major. -/
theorem prefixAndNoMember : Obligations.PrefixAndNoMember := by
  refine ⟨fun w => ⟨decodeWord_illegal, decodeWord_reserved, decodeWord_prefix⟩, ?_⟩
  intro s t ht op i m px
  refine ⟨exec_vectorPrefix_follower ht, fun hlo hhi => ⟨fun h => ?_, fun hm h => ?_, fun hr hm hi => ?_, fun hr hm => ?_⟩, ?_, ?_⟩
  · exact exec_vectorPrefix_reserved ht hlo hhi (.inl h)
  · exact exec_vectorPrefix_reserved ht hlo hhi (.inr ⟨hm, h⟩)
  · rw [exec_vectorPrefix_runs hlo hhi hr hm, ← failWord_faults ht]
    exact congrArg (runPair px · s) hi
  · have he := exec_vectorPrefix_runs hlo hhi hr hm
    refine ⟨he, ?_⟩
    intro x s1 u vs hx h hb hv r hw
    rw [he, runPair_of_vecSpec hx]
    exact vectorMember_ok h hb hv rfl hw
  · exact failWord_faults ht _ _
  · exact failWord_faults ht _ _

/-! ### Faults of service pairs and absent pages (R109, R313, R335) -/

/-- On a service pair a cause is a trap. -/
theorem raise_pair {s : State} (h : isPair s.cur.core = true) (cause : Nat) (val : Word) (held : Nat) (spent : Bool) :
    raise s cause val held spent = trap s cause val := if_pos h

/-- A trap changes no byte of memory. -/
theorem byte_trap (s : State) (cause : Nat) (val : Word) (asid va pa : Nat) :
    (trap s cause val).byte asid va pa = s.byte asid va pa := by
  unfold trap
  dsimp only
  split
  · rfl
  · split <;> rfl

/-- A thread that has parked on an absent page, with the accounts of its slot (R22, R109). -/
def parkedOn (s : State) (t : Thread) (asid va : Nat) : Thread :=
  { t with
    wait := some (.page asid va), since := s.tick, nextIssue := max t.nextIssue (s.cycle + 4), readyFrom := some s.cycle }

/-- Off the pairs an absent page parks the thread and sends its event (R335). -/
theorem fail_page {s : State} {t : Thread} (h : s.thread? s.cur = some t) (hp : isPair s.cur.core = false) (asid va : Nat) :
    fail s (.page asid va) = pageEvent ((s.walked asid va).setMe (parkedOn s t asid va)) s.cur (s.handleOf s.cur) t.pc t.launch
      t.rcb va t.number := by
  have hw : (s.walked asid va).thread? (s.walked asid va).cur = some t := h
  have hme : (s.walked asid va).me = t := State.me_of_thread hw
  have hpark : issued (waitFor (s.walked asid va) (.page asid va)) = (s.walked asid va).setMe (parkedOn s t asid va) := by
    rw [waitFor, State.onThread_cur hw, issued_setMe]
    rfl
  unfold fail
  dsimp only
  rw [hpark, hme]
  exact if_neg (by rw [show (s.walked asid va).cur = s.cur from rfl, hp]; decide)

/-- The pair that serves a die does not depend on the threads. -/
@[simp] theorem servicePair_setMe (s : State) (t : Thread) (d : Nat) : servicePair (s.setMe t) d = servicePair s d := by
  unfold servicePair
  rw [State.core_setMe]
  rfl

/-- Settles O60: a fault on a pair by its level, an absent page by its event. -/
theorem exceptions : Obligations.Exceptions := by
  constructor
  · intro s cause val held h _ t c0
    rw [raise_pair h, trap]
    refine ⟨fun hp hi => ?_, fun hp hi => ?_, fun hp => if_pos hp, byte_trap s cause val⟩
    · rw [if_neg hp, if_neg (Bool.eq_false_iff.mp hi), State.me_setMe]
    · rw [if_neg hp, if_pos hi, monitorTrap, State.me_setMe]
  · intro s t asid va h hp u
    have hu : u = _ := fail_page h hp asid va
    have hme : u.me = parkedOn s t asid va := by
      rw [hu]
      exact State.me_setMe _ _
    have hnet := congrArg State.net hu
    rw [pageEvent, sendEvent, send, servicePair_setMe] at hnet
    rw [hme]
    exact ⟨rfl, rfl, rfl, rfl, rfl, hnet⟩

end Sys2Proof.Machine
end

section
/-!
PROOF. Scalar members, predicates and capabilities (chapter 06).
-/

namespace Sys2Proof.Machine

/-! ### Words as numbers (R116–R120) -/

section
variable (p q : Word)

theorem sub_eq_ofInt : p - q = BitVec.ofInt 64 (p.toInt - q.toInt) := by
  rw [BitVec.sub_eq_add_neg, Int.sub_eq_add_neg, BitVec.ofInt_add, BitVec.ofInt_neg, BitVec.ofInt_toInt, BitVec.ofInt_toInt]

theorem mul_eq_ofInt : p * q = BitVec.ofInt 64 (p.toInt * q.toInt) := by
  rw [BitVec.ofInt_mul, BitVec.ofInt_toInt, BitVec.ofInt_toInt]

theorem shiftLeft_eq_ofNat (n : Nat) : p <<< n = BitVec.ofNat 64 (p.toNat * 2 ^ n) := by
  apply BitVec.eq_of_toNat_eq
  rw [BitVec.toNat_shiftLeft, BitVec.toNat_ofNat, Nat.shiftLeft_eq]

theorem shiftRight_eq_ofNat (n : Nat) : p >>> n = BitVec.ofNat 64 (p.toNat / 2 ^ n) := by
  rw [← Nat.shiftRight_eq_div_pow, ← BitVec.toNat_ushiftRight, BitVec.ofNat_toNat, BitVec.setWidth_eq]

theorem sshiftRight_eq_ofInt (n : Nat) : p.sshiftRight n = BitVec.ofInt 64 (p.toInt / 2 ^ n) := by
  rw [← BitVec.ofInt_toInt (x := p.sshiftRight n), BitVec.toInt_sshiftRight, Int.shiftRight_eq_div_pow]
  norm_cast

theorem ite_slt_eq_min : (if q.slt p then q else p) = BitVec.ofInt 64 (min p.toInt q.toInt) := by
  simp only [BitVec.slt_eq_decide, decide_eq_true_eq, min_comm p.toInt, min_def_lt, apply_ite (BitVec.ofInt 64), BitVec.ofInt_toInt]

theorem ite_slt_eq_max : (if p.slt q then q else p) = BitVec.ofInt 64 (max p.toInt q.toInt) := by
  simp only [BitVec.slt_eq_decide, decide_eq_true_eq, max_def_lt, apply_ite (BitVec.ofInt 64), BitVec.ofInt_toInt]

theorem ite_ult_eq_min : (if q.ult p then q else p) = BitVec.ofNat 64 (min p.toNat q.toNat) := by
  simp only [BitVec.ult_eq_decide, decide_eq_true_eq, min_comm p.toNat, min_def_lt, apply_ite (BitVec.ofNat 64),
    BitVec.ofNat_toNat, BitVec.setWidth_eq]

theorem ite_ult_eq_max : (if p.ult q then q else p) = BitVec.ofNat 64 (max p.toNat q.toNat) := by
  simp only [BitVec.ult_eq_decide, decide_eq_true_eq, max_def_lt, apply_ite (BitVec.ofNat 64), BitVec.ofNat_toNat,
    BitVec.setWidth_eq]

/-- A word extended from its low bits by their sign. -/
theorem signExtend_setWidth_eq_ofInt (n : Nat) :
    (p.setWidth n).signExtend 64 = BitVec.ofInt 64 ((p.toNat : Int).bmod (2 ^ n)) := by
  rw [← BitVec.toInt_setWidth]
  rfl

/-- A sign-extended immediate added. -/
theorem add_sext64_eq_ofInt {w : Nat} (i : BitVec w) : p + sext64 w i = BitVec.ofInt 64 (p.toInt + i.toInt) := by
  rw [BitVec.ofInt_add, BitVec.ofInt_toInt]
  rfl

theorem zext64_eq_ofNat {w : Nat} (i : BitVec w) : zext64 w i = BitVec.ofNat 64 i.toNat := (BitVec.ofNat_toNat 64 i).symm

/-- A constant joined below a word that has moved up by its width (R120). -/
theorem shiftLeft_or_zext64_eq_ofNat (i : BitVec 21) :
    p <<< 21 ||| zext64 21 i = BitVec.ofNat 64 (p.toNat * 2 ^ 21 + i.toNat) := by
  apply BitVec.eq_of_toNat_eq
  rw [← Nat.shiftLeft_eq, Nat.shiftLeft_add_eq_or_of_lt i.isLt, BitVec.toNat_ofNat, Nat.or_mod_two_pow]
  simp [zext64]

end

/-! ### Results available at once (R23, R115, R116, R118–R120) -/

section
variable {s : State} {t : Thread} {i : Instr} {d : BitVec 5} {v : Word}

/-- A member that writes one scalar register sets it and retires. -/
theorem issue_write1 {body : Thread → State → Except Stop (State × Act)} (h : Issues s t i)
    (hb : body (consume t (usesOf i)) (opened s t i) = write1 (opened s t i) d v) :
    ∃ u, issue i s body = .next u ∧ SetsScalar s u t i d v :=
  ⟨_, issue_retires h hb, setsScalar_wr d v⟩

/-- A member of one source writes its function of it. -/
theorem unary_writes {a : BitVec 5} {f : Word → Word} (he : exec i s = unary i d a f s) (h : Issues s t i) :
    ∃ u, exec i s = .next u ∧ SetsScalar s u t i d (f (t.s a.toNat)) := by
  rw [he]
  exact issue_write1 h (by rw [consume_s])

/-- A member whose result is available at once writes the result of its table to its destination. -/
theorem exec_of_scalarSpec (h : Issues s t i) (hv : scalarSpec t s.pred i = some (d, v)) :
    ∃ body, exec i s = issue i s body ∧ body (consume t (usesOf i)) (opened s t i) = write1 (opened s t i) d v := by
  unfold scalarSpec at hv
  split at hv
  all_goals cases hv
  case h_1 => exact ⟨_, rfl, by simp only [consume_s, BitVec.add_def]⟩
  case h_2 => exact ⟨_, rfl, by simp only [consume_s, sub_eq_ofInt]⟩
  case h_3 => exact ⟨_, rfl, by simp only [consume_s]⟩
  case h_4 => exact ⟨_, rfl, by simp only [consume_s]⟩
  case h_5 => exact ⟨_, rfl, by simp only [consume_s]⟩
  case h_6 => exact ⟨_, rfl, by simp only [consume_s]⟩
  case h_7 => exact ⟨_, rfl, by simp only [consume_s, shiftLeft_eq_ofNat, shiftAmount]⟩
  case h_8 => exact ⟨_, rfl, by simp only [consume_s, shiftRight_eq_ofNat, shiftAmount]⟩
  case h_9 => exact ⟨_, rfl, by simp only [consume_s, sshiftRight_eq_ofInt, shiftAmount]⟩
  case h_10 => exact ⟨_, rfl, by simp only [consume_s, ite_slt_eq_min]⟩
  case h_11 => exact ⟨_, rfl, by simp only [consume_s, ite_slt_eq_max]⟩
  case h_12 => exact ⟨_, rfl, by simp only [consume_s, ite_ult_eq_min]⟩
  case h_13 => exact ⟨_, rfl, by simp only [consume_s, ite_ult_eq_max]⟩
  case h_14 => exact ⟨_, rfl, by simp only [consume_s, signExtend_setWidth_eq_ofInt]⟩
  case h_15 => exact ⟨_, rfl, by simp only [consume_s, pred_opened h.thread]⟩
  case h_16 => exact ⟨_, rfl, by simp only [consume_s, add_sext64_eq_ofInt]⟩
  case h_17 => exact ⟨_, rfl, by simp only [consume_s, zext64_eq_ofNat]⟩
  case h_18 => exact ⟨_, rfl, by simp only [consume_s, zext64_eq_ofNat]⟩
  case h_19 => exact ⟨_, rfl, by simp only [consume_s, zext64_eq_ofNat]⟩
  case h_20 => exact ⟨_, rfl, by simp only [consume_s, shiftLeft_eq_ofNat]⟩
  case h_21 => exact ⟨_, rfl, by simp only [consume_s, shiftRight_eq_ofNat]⟩
  case h_22 => exact ⟨_, rfl, by simp only [consume_s, sshiftRight_eq_ofInt]⟩
  case h_23 => exact ⟨_, rfl, rfl⟩
  case h_24 => exact ⟨_, rfl, by simp only [consume_s, shiftLeft_or_zext64_eq_ofNat]⟩

end

/-! ### Counts of bits (R116) -/

/-- The bits above the highest set one are clear (R116). -/
theorem leadingZeros_spec (x : Word) :
    leadingZeros x ≤ 64 ∧ (∀ k, k < leadingZeros x → x.getLsbD (63 - k) = false) ∧
      (leadingZeros x < 64 → x.getLsbD (63 - leadingZeros x) = true) := by
  unfold leadingZeros
  by_cases hx : x = 0
  · simp [hx]
  · have h0 : x.toNat ≠ 0 := mt (reg_zero x).mp hx
    have hlog : x.toNat.log2 < 64 := (Nat.log2_lt h0).mpr x.isLt
    rw [if_neg hx]
    refine ⟨by omega, fun k hk => ?_, fun _ => ?_⟩
    · exact Nat.testBit_lt_two_pow (Nat.lt_log2_self.trans_le (Nat.pow_le_pow_right (by omega) (by omega)))
    · rw [show 63 - (63 - x.toNat.log2) = x.toNat.log2 by omega]
      exact Nat.testBit_log2 h0

/-- From bit `n` upward `k` bits are looked at, up to the first set one. -/
theorem trailingFrom_spec (x : Word) (k n : Nat) :
    n ≤ trailingFrom x k n ∧ trailingFrom x k n ≤ n + k ∧ (∀ j, n ≤ j → j < trailingFrom x k n → x.getLsbD j = false) ∧
      (trailingFrom x k n < n + k → x.getLsbD (trailingFrom x k n) = true) := by
  induction k generalizing n with
  | zero => exact ⟨le_refl n, le_refl n, fun j hj hlt => absurd hlt (Nat.not_lt.mpr hj), fun hlt => absurd hlt (Nat.lt_irrefl n)⟩
  | succ k ih =>
    unfold trailingFrom
    by_cases hb : x.getLsbD n
    · rw [if_pos hb]
      exact ⟨le_refl n, by omega, fun j hj hlt => absurd hlt (Nat.not_lt.mpr hj), fun _ => hb⟩
    · rw [if_neg hb]
      obtain ⟨hlo, hhi, hclear, hset⟩ := ih (n + 1)
      refine ⟨by omega, by omega, fun j hj hlt => ?_, fun hlt => hset (by omega)⟩
      rcases hj.eq_or_lt with rfl | hj
      · exact Bool.eq_false_iff.mpr hb
      · exact hclear j hj hlt

/-- The set bits below `n` are counted one by one. -/
theorem setBits_eq (x : Word) (n : Nat) : setBits x n = ((List.range n).filter fun k => x.getLsbD k).length := by
  induction n with
  | zero => rfl
  | succ n ih =>
    rw [setBits, ih, List.range_succ, List.filter_append, List.length_append]
    cases hb : x.getLsbD n <;> simp [hb]

/-- Settles O1: every member of the table by its form, and the three counts by what they count. -/
theorem scalarResults : Obligations.ScalarResults := by
  refine ⟨fun s t i d v h hv => ?_, fun s t d a w => ⟨fun h => ?_, fun h => ?_, fun h => ?_⟩⟩
  · obtain ⟨body, he, hb⟩ := exec_of_scalarSpec h hv
    rw [he]
    exact issue_write1 h hb
  · obtain ⟨u, he, hu⟩ := unary_writes (f := fun p => BitVec.ofNat 64 (leadingZeros p)) rfl h
    exact ⟨u, _, he, hu, leadingZeros_spec _⟩
  · obtain ⟨u, he, hu⟩ := unary_writes (f := fun p => BitVec.ofNat 64 (trailingFrom p 64 0)) rfl h
    obtain ⟨-, hle, hclear, hset⟩ := trailingFrom_spec (t.s a.toNat) 64 0
    exact ⟨u, _, he, hu, by omega, fun k => hclear k (Nat.zero_le k), fun hn => hset (by omega)⟩
  · rw [← setBits_eq]
    exact unary_writes (f := fun p => BitVec.ofNat 64 (setBits p 64)) rfl h

/-! ### Results held for their cycle (R115–R117) -/

/-- A multiplication or division holds its destination, until its cycle, for the result of its table. -/
theorem exec_of_timedSpec {s : State} {t : Thread} {i : Instr} {d : BitVec 5} {n : Nat} {v : Word}
    (hv : timedSpec t i = some (d, n, v)) :
    ∃ body, exec i s = issue i s body ∧ body (consume t (usesOf i)) (opened s t i) =
      .ok (holdS (opened s t i) d.toNat v (some ((opened s t i).cycle + n)), .next) := by
  unfold timedSpec at hv
  split at hv
  all_goals cases hv
  case h_1 => exact ⟨_, rfl, by simp only [consume_s, mul_eq_ofInt]⟩
  case h_2 => exact ⟨_, rfl, by simp only [consume_s, mulHigh]; rfl⟩
  case h_3 => exact ⟨_, rfl, by simp only [consume_s, mulHighU]⟩
  case h_4 => exact ⟨_, rfl, by simp only [consume_s, divSigned]; rfl⟩
  case h_5 => exact ⟨_, rfl, by simp only [consume_s, divUnsigned]; rfl⟩
  case h_6 => exact ⟨_, rfl, by simp only [consume_s, remSigned]⟩
  case h_7 => exact ⟨_, rfl, by simp only [consume_s, remUnsigned]⟩

/-- The thread of a slot after a change of a thread. -/
theorem State.thread?_onThread (s : State) (l l' : Loc) (f : Thread → Thread) :
    (s.onThread l f).thread? l' = if l' = l then (s.thread? l').map f else s.thread? l' := by
  cases h : s.thread? l with
  | none =>
    have hs : s.onThread l f = s := by simp only [State.onThread, h]
    rw [hs]
    split
    · next hl => rw [hl, h, Option.map_none]
    · rfl
  | some t =>
    rw [State.onThread_some h, State.thread?_setThread]
    split
    · next hl => rw [hl, h, Option.map_some]
    · rfl

/-- A change of the threads of some slots of an agent, one slot after the other. -/
theorem thread?_foldl_onThread (id n : Nat) (f : Thread → Thread) {ns : List Nat} (hns : ns.Nodup) (s : State) :
    (ns.foldl (fun s k => s.onThread { core := id, slot := k } f) s).thread? { core := id, slot := n } =
      if n ∈ ns then (s.thread? { core := id, slot := n }).map f else s.thread? { core := id, slot := n } := by
  induction ns generalizing s with
  | nil => rfl
  | cons k ns ih =>
    obtain ⟨hk, hns⟩ := List.nodup_cons.mp hns
    rw [List.foldl_cons, ih hns, State.thread?_onThread]
    by_cases hn : n = k
    · simp [hn, hk]
    · simp [hn]

/-- A thread whose results due up to a cycle are written, their holds ended (R115, R176). -/
def Thread.landUntil (cycle : Nat) (t : Thread) : Thread :=
  let due (h : Hold) : Bool := h.due.any fun c => c ≤ cycle
  { (t.holds.filter due).foldl Thread.land t with holds := t.holds.filter fun h => !due h }

/-- In each cycle of an agent the results due are written in every slot (R115). -/
theorem thread?_landDue (s : State) (id : Nat) {n : Nat} (hn : n < 16) :
    (landDue s id).thread? { core := id, slot := n } =
      (s.thread? { core := id, slot := n }).map (Thread.landUntil (s.core id).cycle) :=
  (thread?_foldl_onThread id n (Thread.landUntil (s.core id).cycle) List.nodup_range s).trans (if_pos (List.mem_range.mpr hn))

/-- A single held scalar result is written in its cycle, and not before (R115). -/
theorem Thread.landUntil_single {t : Thread} {r c : Nat} {v : BitVec 2048} (h : t.holds = [{ reg := r, value := v, due := some c }])
    (cycle : Nat) : t.landUntil cycle = if c ≤ cycle then { t.setS r (v.setWidth 64) with holds := [] } else t := by
  unfold Thread.landUntil
  rw [h]
  by_cases hc : c ≤ cycle
  · simp [hc, Thread.land]
  · simp only [List.filter_cons, List.filter_nil, Option.any_some, hc, decide_false, Bool.not_false, if_true,
      Bool.false_eq_true, if_false, List.foldl_nil]
    rw [← h]

/-- Settles O2: a multiplication or division is one form, and the step that writes results takes each slot on its own. -/
theorem timedResults : Obligations.TimedResults := by
  refine ⟨fun s t i d n v h hv => ?_, fun s id n t r c v hn ht hh => ?_⟩
  · obtain ⟨body, he, hb⟩ := exec_of_timedSpec hv
    rw [holdS_due, opened_cycle] at hb
    rw [he]
    exact issue_retires h hb
  · rw [State.thread, thread?_landDue s id hn, ht, Option.map_some, Option.getD_some]
    exact Thread.landUntil_single hh _

/-! ### Predicates (R121–R123) -/

theorem not_slt_eq_decide (p q : Word) : (!p.slt q) = decide (q.toInt ≤ p.toInt) := by
  rw [BitVec.slt_eq_decide, ← decide_not]
  exact decide_eq_decide.mpr Int.not_lt

theorem not_ult_eq_decide (p q : Word) : (!p.ult q) = decide (q.toNat ≤ p.toNat) := by
  rw [BitVec.ult_eq_decide, ← decide_not]
  exact decide_eq_decide.mpr Nat.not_lt

theorem bne_eq_decide_toNat (p q : Word) : (p != q) = decide (p.toNat ≠ q.toNat) := by
  rw [decide_not]
  exact congrArg not (decide_eq_decide.mpr BitVec.toNat_inj.symm)

/-- The model's conditions are those of the table, on the numbers that the words stand for (R122). -/
theorem condition_eq_compares (c : BitVec 3) (p q : Word) : condition c p q = compares c p q := by
  unfold condition compares
  generalize c.toNat = n
  match n with
  | 0 => exact decide_eq_decide.mpr BitVec.toNat_inj.symm
  | 1 => exact bne_eq_decide_toNat p q
  | 2 => exact BitVec.slt_eq_decide
  | 3 => exact not_slt_eq_decide p q
  | 4 => exact BitVec.ult_eq_decide
  | _ + 5 => exact not_ult_eq_decide p q

/-- A member that writes one predicate sets it and retires. -/
theorem issue_writePred {s : State} {t : Thread} {i : Instr} {p : BitVec 4} {b : Bool}
    {body : Thread → State → Except Stop (State × Act)} (h : Issues s t i)
    (hb : body (consume t (usesOf i)) (opened s t i) = writePred (opened s t i) p b) :
    ∃ u, issue i s body = .next u ∧ SetsPreds s u t i (only p b) :=
  ⟨_, issue_retires h hb, setsPreds_one h.thread p b⟩

/-- The number whose bits below `m` are those of `f`, summed bit by bit. -/
def bitSum (f : Nat → Bool) (m : Nat) : Nat := (List.range m).foldl (fun a n => a + if f n then 2 ^ n else 0) 0

theorem bitSum_succ (f : Nat → Bool) (m : Nat) : bitSum f (m + 1) = 2 ^ m * (f m).toNat + bitSum f m := by
  rw [bitSum, List.range_succ, List.foldl_append, ← bitSum]
  cases h : f m <;> simp [h, Nat.add_comm]

theorem bitSum_lt (f : Nat → Bool) (m : Nat) : bitSum f m < 2 ^ m := by
  induction m with
  | zero => exact Nat.one_pos
  | succ m ih =>
    rw [bitSum_succ, Nat.pow_succ]
    cases f m <;> simp <;> omega

theorem testBit_bitSum (f : Nat → Bool) {m n : Nat} (hn : n < m) : (bitSum f m).testBit n = f n := by
  induction m with
  | zero => omega
  | succ m ih =>
    rw [bitSum_succ, Nat.testBit_two_pow_mul_add _ (bitSum_lt f m)]
    split
    · next hlt => exact ih hlt
    · next hge =>
      obtain rfl : n = m := by omega
      cases f n <;> simp

/-- The predicate word has the predicates as its bits (R123). -/
theorem getLsbD_predWord (c : Core) (slot : Nat) (t : Thread) {n : Nat} (hn : n < 16) :
    (predWord c slot t).getLsbD n = readP c slot t n := by
  show (BitVec.ofNat 16 (bitSum (readP c slot t) 16)).getLsbD n = _
  rw [BitVec.getLsbD_ofNat, testBit_bitSum _ hn, decide_eq_true hn, Bool.true_and]

/-- A predicate after writes of some others, one after the other. -/
theorem readP_foldl_writeP (c : Core) (slot : Nat) (f : Nat → Bool) (ns : List Nat) (t : Thread) {n : Nat} (hn : n < 16) :
    readP c slot (ns.foldl (fun t k => writeP c slot t k (f k)) t) n =
      if n ∈ ns ∧ n ≠ 0 ∧ ¬(8 ≤ n ∧ (c.boundStream slot (n - 8)).isSome) then f n else readP c slot t n := by
  induction ns generalizing t with
  | nil => simp
  | cons k ns ih =>
    rw [List.foldl_cons, ih, readP_writeP _ _ _ _ _ _ hn]
    by_cases hk : n = k
    · subst hk
      by_cases hw : n ≠ 0 ∧ ¬(8 ≤ n ∧ (c.boundStream slot (n - 8)).isSome)
      · rw [if_pos (And.intro rfl hw), ite_self, if_pos ⟨List.mem_cons_self, hw⟩]
      · rw [if_neg fun h => hw h.2, if_neg fun h => hw h.2, if_neg fun h => hw h.2]
    · simp [hk]

/-- Writes of predicates change the predicates only. -/
theorem foldl_writeP_eq (c : Core) (slot : Nat) (f : Nat → Bool) (ns : List Nat) (t : Thread) :
    ns.foldl (fun t k => writeP c slot t k (f k)) t =
      { t with preds := (ns.foldl (fun t k => writeP c slot t k (f k)) t).preds } := by
  induction ns generalizing t with
  | nil => rfl
  | cons k ns ih =>
    rw [List.foldl_cons, ih, writeP_eq]

/-- Writes of predicates, one after the other, are writes of the issuing thread's. -/
theorem foldl_setPred (s : State) (t : Thread) (f : Nat → Bool) (ns : List Nat) :
    ns.foldl (fun s k => s.setPred k (f k)) (s.setMe t) =
      s.setMe (ns.foldl (fun t k => writeP (s.core s.cur.core) s.cur.slot t k (f k)) t) := by
  induction ns generalizing t with
  | nil => rfl
  | cons k ns ih =>
    rw [List.foldl_cons, List.foldl_cons, ← ih, State.setPred, State.me_setMe, State.setMe_setMe, State.setMe_cur, State.core_setMe]
    rfl

/-- What a thread's predicates read as does not depend on its sync sources. -/
theorem readP_consume {s : State} {t : Thread} (h : s.thread? s.cur = some t) (u : Uses) (n : Nat) :
    readP (s.core s.cur.core) s.cur.slot (consume t u) n = s.pred n := by
  rw [State.pred, State.me_of_thread h, readP, consume_preds]
  rfl

/-- SMOVP sets every predicate to its bit of the register, but those that take no write (R123). -/
theorem exec_smovp {s : State} {t : Thread} {a : BitVec 5} {w : BitVec 1} (h : Issues s t (.smovp a w)) :
    ∃ u, exec (.smovp a w) s = .next u ∧ SetsPreds s u t (.smovp a w) fun n => some ((t.s a.toNat).getLsbD n) := by
  refine ⟨_, issue_retires h rfl, ?_⟩
  rw [consume_s, ← List.foldl_map (f := (· + 1)) (g := fun s k => State.setPred s k ((t.s a.toNat).getLsbD k)), opened,
    foldl_setPred]
  refine setsPreds_setMe (foldl_writeP_eq ..) (fun n b hn hb hw => ?_) fun n hn hk => ?_
  · have hmem : n ∈ (List.range 15).map (· + 1) :=
      List.mem_map.mpr ⟨n - 1, List.mem_range.mpr (by omega), Nat.sub_add_cancel (Nat.pos_of_ne_zero hw.1)⟩
    rw [readP_foldl_writeP _ _ _ _ _ hn, if_pos ⟨hmem, hw⟩]
    exact Option.some.inj hb
  · rw [readP_foldl_writeP _ _ _ _ _ hn, if_neg, readP_consume h.thread]
    rintro ⟨-, hw⟩
    rcases hk with hk | hk
    · cases hk
    · exact hk hw

/-- PMOVS writes the sixteen predicates as a word (R123). -/
theorem exec_pmovs {s : State} {t : Thread} {d : BitVec 5} (h : Issues s t (.pmovs d)) :
    ∃ u v, exec (.pmovs d) s = .next u ∧ SetsScalar s u t (.pmovs d) d v ∧ v.toNat < 2 ^ 16 ∧
      ∀ n, n < 16 → v.getLsbD n = s.pred n := by
  refine ⟨_, _, issue_retires h rfl, setsScalar_wr d _, ?_, fun n hn => ?_⟩
  · rw [BitVec.toNat_setWidth_of_le (by decide)]
    exact BitVec.isLt _
  · rw [BitVec.getLsbD_setWidth, decide_eq_true (by omega), Bool.true_and, getLsbD_predWord _ _ _ hn, opened_cur, core_opened]
    exact readP_consume h.thread _ n

/-- Settles O3: each member that writes one predicate by the same form, PMOVS and SMOVP by the bits. -/
theorem predicateResults : Obligations.PredicateResults := by
  intro s t
  refine ⟨?_, ?_, ?_, ?_, ?_, ?_, fun d => exec_pmovs, fun a w => exec_smovp⟩
  · intro p a w c i x h
    exact issue_writePred h (by rw [consume_s, condition_eq_compares]; rfl)
  · intro p a w b y m c x r h
    exact issue_writePred h (by simp only [consume_s, condition_eq_compares, pred_opened h.thread]; rfl)
  · intro d a b x h
    exact issue_writePred h (by rw [pred_opened h.thread, pred_opened h.thread])
  · intro d a b x h
    exact issue_writePred h (by rw [pred_opened h.thread, pred_opened h.thread])
  · intro d a b x h
    exact issue_writePred h (by rw [pred_opened h.thread, pred_opened h.thread])
  · intro d a x h
    exact issue_writePred h (by rw [pred_opened h.thread])

/-! ### The fields of a capability (R30) -/

section
variable {base len dom space : Nat} {perm : BitVec 8} {tag : Bool}

theorem Cap.base_mk' (h : base < 2 ^ 56) : (Cap.mk' base len perm dom space tag).base = base :=
  (congrArg BitVec.toNat BitVec.extractLsb'_append_eq_right).trans (Nat.mod_eq_of_lt h)

theorem Cap.len_mk' (h : len < 2 ^ 40) : (Cap.mk' base len perm dom space tag).len = len := by
  have e : (Cap.mk' base len perm dom space tag).bits.extractLsb' 56 40 = BitVec.ofNat 40 len :=
    (BitVec.extractLsb'_append_eq_of_le (by decide)).trans BitVec.extractLsb'_append_eq_right
  rw [Cap.len, e, BitVec.toNat_ofNat, Nat.mod_eq_of_lt h]

theorem Cap.perm_mk' : (Cap.mk' base len perm dom space tag).perm = perm :=
  (BitVec.extractLsb'_append_eq_of_le (by decide)).trans <|
    (BitVec.extractLsb'_append_eq_of_le (by decide)).trans BitVec.extractLsb'_append_eq_right

theorem Cap.dom_mk' (h : dom < 2 ^ 6) : (Cap.mk' base len perm dom space tag).dom = dom := by
  have e : (Cap.mk' base len perm dom space tag).bits.extractLsb' 104 6 = BitVec.ofNat 6 dom :=
    (BitVec.extractLsb'_append_eq_of_le (by decide)).trans <|
      (BitVec.extractLsb'_append_eq_of_le (by decide)).trans <|
        (BitVec.extractLsb'_append_eq_of_le (by decide)).trans BitVec.extractLsb'_append_eq_right
  rw [Cap.dom, e, BitVec.toNat_ofNat, Nat.mod_eq_of_lt h]

theorem Cap.space_mk' (h : space < 2 ^ 2) : (Cap.mk' base len perm dom space tag).space = space := by
  have e : (Cap.mk' base len perm dom space tag).bits.extractLsb' 110 2 = BitVec.ofNat 2 space :=
    (BitVec.extractLsb'_append_eq_of_le (by decide)).trans <|
      (BitVec.extractLsb'_append_eq_of_le (by decide)).trans <|
        (BitVec.extractLsb'_append_eq_of_le (by decide)).trans <|
          (BitVec.extractLsb'_append_eq_of_le (by decide)).trans BitVec.extractLsb'_append_eq_right
  rw [Cap.space, e, BitVec.toNat_ofNat, Nat.mod_eq_of_lt h]

end

theorem Cap.len_lt (c : Cap) : c.len < 2 ^ 40 := BitVec.isLt _

/-! ### Members that derive a capability (R126–R128) -/

/-- A capability register after a write. -/
@[simp] theorem Thread.c_setC_self (t : Thread) (n : Nat) (x : Cap) : (t.setC n x).c n = x := by
  unfold Thread.setC Thread.c
  split
  · simp
  · simp

theorem sealedRoot_eq_false {t : Thread} {d : BitVec 4} (h : ¬(d = 15 ∧ t.priv = 0)) : sealedRoot t d = false := by
  simpa [sealedRoot] using h

section
variable {s : State} {t : Thread} {i : Instr} {d c : BitVec 4} {x : Cap}

/-- A capability is derived where `c15` is not the destination at kernel privilege. -/
theorem derive_eq_ok (h : ¬(d = 15 ∧ t.priv = 0)) : derive i s t d x = .ok (s.setCap d.toNat x, .next) := by
  rw [derive, sealedRoot_eq_false h]
  rfl

theorem derive_eq_error (h : d = 15 ∧ t.priv = 0) : derive i s t d x = .error (.cause 0x06 ((encodeWord i).setWidth 64)) := by
  obtain ⟨rfl, hp⟩ := h
  simp [derive, sealedRoot, hp]

/-- The window of a tagged capability from an offset within it, of a length that is left there, is derived (R128). -/
theorem windowOf_eq_derive {off : Word} {len : Nat} (ht : (t.c c.toNat).tag = true) (ho : off.toNat ≤ (t.c c.toNat).len)
    (hl : len ≤ (t.c c.toNat).len - off.toNat) :
    windowOf i s t d c off len =
      derive i s t d (Cap.mk' ((t.c c.toNat).base + off.toNat) len (t.c c.toNat).perm (t.c c.toNat).dom (t.c c.toNat).space true) := by
  unfold windowOf
  dsimp only
  rw [if_neg (by simp [ht]), if_neg (by simp; omega), Cap.window, ht]
  rfl

/-- Any other window raises a cause (R128). -/
theorem windowOf_eq_error {off : Word} {len : Int}
    (h : ¬((t.c c.toNat).tag = true ∧ off.toNat ≤ (t.c c.toNat).len ∧ 0 ≤ len ∧ len ≤ (t.c c.toNat).len - off.toNat)) :
    ∃ cause val, cause ∈ [0x04, 0x05, 0x06] ∧ windowOf i s t d c off len = .error (.cause cause val) := by
  unfold windowOf
  dsimp only
  split
  · exact ⟨0x04, _, by simp, rfl⟩
  · next ht =>
    refine ⟨0x05, off, by simp, if_pos ?_⟩
    have ht : (t.c c.toNat).tag = true := by simpa using ht
    simp only [ht, true_and] at h
    simp only [Bool.or_eq_true, decide_eq_true_eq]
    omega

end

section
variable {s u : State} {t : Thread} {i : Instr}

/-- A member whose capability is in its table derives it. -/
theorem exec_of_capSpec {d : BitVec 4} {x : Cap} (hx : capSpec t i = some (d, x)) :
    ∃ body, exec i s = issue i s body ∧
      body (consume t (usesOf i)) (opened s t i) = derive i (opened s t i) (consume t (usesOf i)) d x := by
  unfold capSpec at hx
  split at hx
  case h_1 d c a r =>
    dsimp only at hx
    split at hx
    case isTrue hc =>
      cases hx
      obtain ⟨ht, ho, hl⟩ := hc
      refine ⟨_, rfl, ?_⟩
      rw [consume_s, consume_s, windowOf_eq_derive (by rwa [consume_c]) (by rwa [consume_c]) (by rwa [consume_c]), consume_c]
    case isFalse => cases hx
  case h_2 d c a =>
    dsimp only at hx
    split at hx
    case isTrue hc =>
      cases hx
      obtain ⟨ht, ho⟩ := hc
      refine ⟨_, rfl, ?_⟩
      rw [consume_s, consume_c, ← Int.ofNat_sub ho, windowOf_eq_derive (by rwa [consume_c]) (by rwa [consume_c])
        (by rw [consume_c]), consume_c]
    case isFalse => cases hx
  case h_3 d c a =>
    dsimp only at hx
    split at hx
    case isTrue ht =>
      cases hx
      refine ⟨_, rfl, ?_⟩
      simp only [consume_s, consume_c, ht]
      rfl
    case isFalse => cases hx
  case h_4 =>
    cases hx
    exact ⟨_, rfl, by rw [consume_c]⟩
  case h_5 =>
    cases hx
    exact ⟨_, rfl, rfl⟩
  case h_6 => cases hx

/-- A member that narrows and whose capability is not in its table raises a cause. -/
theorem exec_of_capSpec_none {d c : BitVec 4} {a r : BitVec 5} (hi : i ∈ [.cbnd d c a r, .cinc d c a, .crestr d c a])
    (hx : capSpec t i = none) :
    ∃ body, exec i s = issue i s body ∧ ∃ cause val, cause ∈ [0x04, 0x05, 0x06] ∧
      body (consume t (usesOf i)) (opened s t i) = .error (.cause cause val) := by
  simp only [List.mem_cons, List.not_mem_nil, or_false] at hi
  rcases hi with rfl | rfl | rfl
  · simp only [capSpec, ite_eq_right_iff, reduceCtorEq, imp_false] at hx
    refine ⟨_, rfl, ?_⟩
    rw [consume_s, consume_s]
    refine windowOf_eq_error ?_
    rw [consume_c]
    exact fun ⟨ht, ho, _, hl⟩ => hx ⟨ht, ho, by omega⟩
  · simp only [capSpec, ite_eq_right_iff, reduceCtorEq, imp_false] at hx
    refine ⟨_, rfl, ?_⟩
    rw [consume_s]
    refine windowOf_eq_error ?_
    rw [consume_c]
    exact fun ⟨ht, ho, _⟩ => hx ⟨ht, ho⟩
  · simp only [capSpec, ite_eq_right_iff, reduceCtorEq, imp_false] at hx
    refine ⟨_, rfl, 0x04, regVal c, by simp, ?_⟩
    rw [consume_c]
    exact if_pos (by simpa using hx)

/-- A capability that lies within another, carries no permission that it lacks, and names the same domain and space (R128). -/
structure Cap.Within (x src : Cap) : Prop where
  base  : src.base ≤ x.base
  bound : x.base + x.len ≤ src.base + src.len
  perm  : ∀ n, x.perm.getLsbD n = true → src.perm.getLsbD n = true
  dom   : x.dom = src.dom
  space : x.space = src.space

/-- A range of a source below the end of the address space, with some of its permissions, lies within it. -/
theorem mk'_within {src : Cap} {base len : Nat} {perm : BitVec 8} (hs : src.base + src.len < 2 ^ 56) (hb : src.base ≤ base)
    (he : base + len ≤ src.base + src.len) (hp : ∀ n, perm.getLsbD n = true → src.perm.getLsbD n = true) :
    (Cap.mk' base len perm src.dom src.space true).Within src := by
  have hlen := src.len_lt
  have hb56 : base < 2 ^ 56 := by omega
  have hl40 : len < 2 ^ 40 := by omega
  refine ⟨?_, ?_, ?_, Cap.dom_mk' (BitVec.isLt _), Cap.space_mk' (BitVec.isLt _)⟩
  · rwa [Cap.base_mk' hb56]
  · rwa [Cap.base_mk' hb56, Cap.len_mk' hl40]
  · rwa [Cap.perm_mk']

/-- A member that narrows derives a capability within its source for the register that it names (R127, R128). -/
theorem capSpec_within {d d' c : BitVec 4} {a r : BitVec 5} {x : Cap} (hi : i ∈ [.cbnd d c a r, .cinc d c a, .crestr d c a])
    (hx : capSpec t i = some (d', x)) :
    d' = d ∧ ((t.c c.toNat).base + (t.c c.toNat).len < 2 ^ 56 → x.Within (t.c c.toNat)) := by
  simp only [List.mem_cons, List.not_mem_nil, or_false] at hi
  rcases hi with rfl | rfl | rfl <;> simp only [capSpec, Option.ite_none_right_eq_some, Option.some.injEq, Prod.mk.injEq] at hx
  · obtain ⟨⟨-, ho, hl⟩, rfl, rfl⟩ := hx
    exact ⟨rfl, fun hs => mk'_within hs (by omega) (by omega) fun _ hn => hn⟩
  · obtain ⟨⟨-, ho⟩, rfl, rfl⟩ := hx
    exact ⟨rfl, fun hs => mk'_within hs (by omega) (by omega) fun _ hn => hn⟩
  · obtain ⟨-, rfl, rfl⟩ := hx
    exact ⟨rfl, fun hs => mk'_within hs (by omega) (by omega) fun n hn => by
      rw [BitVec.getLsbD_and, Bool.and_eq_true] at hn
      exact hn.1⟩

/-- The test word as a number (R129). -/
theorem testWord_eq (x : Cap) (off : Word) : testWord x off = BitVec.ofNat 64 ((if x.tag then 1 else 0) +
    (if x.tag ∧ x.space ≠ 3 ∧ off.toNat < x.len then 2 else 0)) := by
  simp only [testWord, Bool.and_eq_true, bne_iff_ne, decide_eq_true_eq, and_assoc]
  split <;> split <;> rfl

/-- A member that reads a capability writes the word of its table. -/
theorem exec_of_capReadSpec {d : BitVec 5} {v : Word} (hv : capReadSpec t i = some (d, v)) :
    ∃ body, exec i s = issue i s body ∧ body (consume t (usesOf i)) (opened s t i) = write1 (opened s t i) d v := by
  unfold capReadSpec at hv
  split at hv
  all_goals cases hv
  case h_1 => exact ⟨_, rfl, by rw [consume_c]⟩
  case h_2 => exact ⟨_, rfl, by rw [consume_c]⟩
  case h_3 => exact ⟨_, rfl, by rw [consume_c]; rfl⟩
  case h_4 => exact ⟨_, rfl, by rw [consume_c, consume_s, testWord_eq]⟩

end

/-- Settles O10: the members that derive a capability by their table, and those that read one. -/
theorem capabilityResults : Obligations.CapabilityResults := by
  refine fun s t i h => ⟨fun d x hx hd => ?_, fun d v hv => ?_⟩
  · obtain ⟨body, he, hb⟩ := exec_of_capSpec hx
    rw [derive_eq_ok (by rwa [consume_priv])] at hb
    rw [he]
    exact issue_retires h hb
  · obtain ⟨body, he, hb⟩ := exec_of_capReadSpec hv
    rw [he]
    exact ⟨_, issue_retires h hb, setsScalar_wr d v⟩

/-- The thread after a member that has written a capability register. -/
theorem thread?_retired_setCap (s : State) (t : Thread) (i : Instr) (n : Nat) (x : Cap) :
    ∃ w, (retired ((opened s t i).setCap n x)).thread? s.cur = some w ∧ w.c n = x := by
  have e : (opened s t i).setCap n x = s.setMe ((consume t (usesOf i)).setC n x) := by
    rw [State.setCap, opened_me, opened]
    exact State.setMe_setMe s _ _
  rw [e, retired_setMe, State.thread?_bump, State.thread?_setMe]
  exact ⟨_, rfl, Thread.c_setC_self ..⟩

/-- Settles O11: a member that narrows either derives a capability within its source, or raises a cause. -/
theorem capabilitiesNarrow : Obligations.CapabilitiesNarrow := by
  intro s u t i d c a r hi h hu src
  cases hx : capSpec t i with
  | none =>
    obtain ⟨body, he, cause, val, hc, hb⟩ := exec_of_capSpec_none (s := s) hi hx
    refine ⟨fun _ => ⟨cause, val, hc, ?_⟩, fun hn => absurd rfl hn⟩
    rw [he, issue, issue_faults h hb] at hu
    exact (Host.Outcome.next.inj hu).symm
  | some p =>
    obtain ⟨d', x⟩ := p
    obtain ⟨body, he, hb⟩ := exec_of_capSpec (s := s) hx
    obtain ⟨rfl, hw⟩ := capSpec_within hi hx
    refine ⟨fun hn => ⟨0x06, (encodeWord i).setWidth 64, by decide, ?_⟩, fun _ hd hs => ?_⟩
    · rw [derive_eq_error (by rw [consume_priv]; exact hn.resolve_left (by simp))] at hb
      rw [he, issue, issue_faults h hb] at hu
      exact (Host.Outcome.next.inj hu).symm
    · rw [derive_eq_ok (by rwa [consume_priv])] at hb
      rw [he, issue, issue_retires h hb] at hu
      obtain ⟨w, hthread, hreg⟩ := thread?_retired_setCap s t i d'.toNat x
      obtain ⟨hbase, hbound, hperm, hdom, hspace⟩ := hw hs
      refine ⟨w, Host.Outcome.next.inj hu ▸ hthread, ?_⟩
      rw [hreg]
      exact ⟨hbase, hbound, hperm, hdom, hspace⟩

/-! ### Capabilities in memory (R131–R133) -/

/-- A capability cleaned keeps its bits. -/
theorem Cap.clean_bits (c : Cap) : c.clean.bits = c.bits := by
  unfold Cap.clean
  split <;> rfl

/-- The bits above a capability's fields are clear in bits below 2 ^ 112. -/
theorem extractLsb'_112_eq_zero_iff (b : BitVec 128) : b.extractLsb' 112 16 = 0 ↔ b.toNat < 2 ^ 112 := by
  have hb := b.isLt
  rw [← BitVec.toNat_inj, BitVec.extractLsb'_toNat, Nat.shiftRight_eq_div_pow, show (0 : BitVec 16).toNat = 0 from rfl]
  omega

/-- A capability cleaned keeps its tag where its bits are a capability's (R131). -/
theorem Cap.clean_tag (c : Cap) : c.clean.tag = true ↔ c.tag = true ∧ c.bits.toNat < 2 ^ 112 ∧ c.space ≠ 3 := by
  rw [← extractLsb'_112_eq_zero_iff]
  simp only [Cap.clean, Bool.or_eq_true, bne_iff_ne, beq_iff_eq]
  split
  · next h =>
    refine ⟨fun hf => absurd hf Bool.false_ne_true, fun ⟨_, hbits, hspace⟩ => ?_⟩
    exact absurd h (not_or.mpr ⟨not_not.mpr hbits, hspace⟩)
  · next h =>
    obtain ⟨hbits, hspace⟩ := not_or.mp h
    exact ⟨fun htag => ⟨htag, not_not.mp hbits, hspace⟩, And.left⟩

section
variable {s : State} {t : Thread} {x c : BitVec 4} {a : BitVec 5} {o : BitVec 13} {pl : Place}

@[simp] theorem mintedTag_consume (u : Uses) (cap : Cap) (tag : Bool) : mintedTag (consume t u) cap tag = mintedTag t cap tag := by
  rw [mintedTag, consume_priv]
  rfl

/-- CLD under its checks loads a capability, cleaned (R131). -/
theorem exec_cld (h : Issues s t (.cld x c a o)) (hl : t.loadsStall = false) (hx : ¬(x = 15 ∧ t.priv = 0))
    (hsp : (t.c c.toNat).space ≠ 2)
    (hc : capCheck (t.c c.toNat) ((t.c c.toNat).base + (t.s a.toNat).toNat + o.toInt * 16) 16 (permR ||| permLoadCap) = none)
    (hm : memCheck (opened s t (.cld x c a o)) s.cur (consume t (usesOf (.cld x c a o))) (t.c c.toNat)
      ((t.c c.toNat).base + (t.s a.toNat).toNat + o.toInt * 16) 16 16 permR { r := true } = .ok pl) :
    let s1 := (settleFor (opened s t (.cld x c a o)) s.myPath false pl 16).reachAt pl
    let got : Cap := { bits := BitVec.ofNat 128 (s1.loadNat s1.myPath pl 16), tag := mintedTag t (t.c c.toNat) (s1.loadTag s1.myPath pl) }
    exec (.cld x c a o) s = .next (retired (s1.setCap x.toNat got.clean)) := by
  have hroot : sealedRoot (consume t (usesOf (.cld x c a o))) x = false := sealedRoot_eq_false (by rwa [consume_priv])
  refine issue_retires h ?_
  simp only [consume_loadsStall, hl, hroot, consume_c, unitAddr, consume_s, hc, hsp, opened_cur, hm, opened_myPath,
    mintedTag_consume]
  rfl

/-- CST under its checks stores a capability with its tag (R132). -/
theorem exec_cst (h : Issues s t (.cst x c a o)) (hsp : (t.c c.toNat).space ≠ 2)
    (ha : ((t.c c.toNat).base + (t.s a.toNat).toNat + o.toInt * 16 : Int) % 16 = 0)
    (hc : capCheck (t.c c.toNat) ((t.c c.toNat).base + (t.s a.toNat).toNat + o.toInt * 16) 16 permW = none)
    (hst : (t.c x.toNat).tag = true → (t.c c.toNat).can permStoreCap = true ∧
      ((t.c x.toNat).can permGlobal = true ∨ (t.c c.toNat).space = 1))
    (hm : memCheck (opened s t (.cst x c a o)) s.cur (consume t (usesOf (.cst x c a o))) (t.c c.toNat)
      ((t.c c.toNat).base + (t.s a.toNat).toNat + o.toInt * 16) 16 16 permW { w := true } = .ok pl) :
    exec (.cst x c a o) s = .next (retired (pushStore ((opened s t (.cst x c a o)).reachAt pl) s.myPath
      (storeAt s.cur t pl 16 ((t.c x.toNat).bits.setWidth 1024) (t.c x.toNat).tag))) := by
  have hperm : ((t.c x.toNat).tag && !(t.c c.toNat).can permStoreCap) = false := by
    cases htag : (t.c x.toNat).tag with
    | false => rfl
    | true => rw [(hst htag).1]; rfl
  have hglobal : ((t.c x.toNat).tag && !(t.c x.toNat).can permGlobal && (t.c c.toNat).space != 1) = false := by
    cases htag : (t.c x.toNat).tag with
    | false => rfl
    | true => rcases (hst htag).2 with hg | hg <;> simp [hg]
  refine issue_retires h ?_
  simp only [consume_c, unitAddr, consume_s, hc, hsp, ha, hperm, hglobal, opened_cur, hm, storeAt_consume, opened_myPath]
  rfl

end

/-- Settles O12: what cleaning keeps, and CLD and CST under their checks. -/
theorem capabilityMemory : Obligations.CapabilityMemory :=
  ⟨fun c => ⟨c.clean_bits, c.clean_tag⟩, fun _ _ _ _ _ _ _ => ⟨exec_cld, exec_cst⟩⟩

end Sys2Proof.Machine
end

section
/-!
PROOF. What an instruction that has issued comes to (chapter 95).
-/

namespace Sys2Proof.Machine

/-! ### Completions (R115, R138, R148, R190, R195, R212, R257, R260) -/

section
variable {s : State}

/-- The hold that a step is about is the first of its thread's that equals it (R138). -/
theorem landWhere_eq (s : State) (l : Loc) {h : Hold} (hh : h ∈ (s.thread l).holds) :
    landWhere s l (fun x => x == h) = s.onThread l fun t => { t.land h with holds := t.holds.erase h } := by
  unfold landWhere State.onThread
  cases ht : s.thread? l with
  | none => rfl
  | some t =>
    rw [State.thread, ht, Option.getD_some] at hh
    have hf : t.holds.find? (fun x => x == h) = some h := by
      obtain ⟨x, hx⟩ := Option.isSome_iff_exists.mp ((List.find?_isSome (p := fun x => x == h)).mpr ⟨h, hh, beq_self_eq_true h⟩)
      have he : (x == h) = true := List.find?_some (p := fun x => x == h) hx
      rw [hx, eq_of_beq he]
    simp only [hf]

/-- The data of a held destination arrives (R138). -/
theorem exec_loadDataReturn {h : Hold}
    (hh : ((s.thread { core := s.cue.a, slot := s.cue.b }).holds.filter fun h => h.due.isNone)[s.cue.c]? = some h) :
    exec .loadDataReturn s = .next (s.onThread { core := s.cue.a, slot := s.cue.b } fun t =>
      { t.land h with holds := t.holds.erase h }).bump := by
  have hm := List.mem_of_mem_filter (List.mem_of_getElem? hh)
  show execLoadDataReturn s = _
  simp only [execLoadDataReturn, hh, landWhere_eq s _ hm]
  rfl

/-- A multicast that has skipped no destination fills its token, without an entry in the log (R148). -/
theorem exec_multicastCompletion {m : Multicast} (hm : s.multis[s.cue.a]? = some m) (hs : bitsOf m.status 15 8 = 0) :
    exec .multicastCompletion s = .next
      (fillToken { s with multis := s.multis.eraseIdx s.cue.a } m.handle m.reg m.status m.launch m.rcb m.crewId).bump := by
  show execMulticastCompletion s = _
  simp only [execMulticastCompletion, hm, hs]
  rfl

/-- The oldest request of a cluster's SFU returns to the thread that waits for it (R190). -/
theorem exec_sfuReturn {q : SfuReq} {qs : List SfuReq} (hq : (s.cluster s.cue.a).sfu = q :: qs) (hw : q.wait = none)
    (ht : (s.thread q.loc).wait = some .sfu) (hg : (s.slot q.loc).gen = q.gen) :
    exec .sfuReturn s = .next (sfuReturn s s.cue.a q qs).bump := by
  show execSfuReturn s = _
  simp only [execSfuReturn, hq, hw, ht, hg, decide_true, beq_self_eq_true]
  rfl

/-- A queued instruction of the matrix unit that no earlier one meets writes its results and notes its flags (R195). -/
theorem exec_matrixCompletion {o : MatOp} (ho : (s.core s.cue.a).matq[s.cue.b]? = some o)
    (hc : canComplete (s.core s.cue.a) s.cue.b = true) :
    let c := s.core s.cue.a
    let s1 := s.setCore s.cue.a (o.writes.foldl Core.complete { c with matq := c.matq.eraseIdx s.cue.b })
    exec .matrixCompletion s = .next
      (if (s1.slot o.loc).gen = o.gen then s1.onThread o.loc fun t => t.note o.flags false else s1).bump := by
  intro c s1
  show execMatrixCompletion s = _
  simp only [execMatrixCompletion, ho, hc, beq_iff_eq]
  rfl

/-- A copy of a hart that is not stopped, waiting for no page, runs (R212). -/
theorem exec_copyCompletion {q : CopyCmd} (hq : (s.cluster s.cue.a).copies[s.cue.b]? = some q) (hw : q.wait = none)
    (hs : (s.core (4096 + s.cue.a)).hart.stopped = false) :
    exec .copyCompletion s = .next (runCopy s s.cue.a s.cue.b q).bump := by
  show execCopyCompletion s = _
  simp only [execCopyCompletion, hq, hw, hs]
  rfl

/-- A command of a cluster's Lichen unit whose forest is open, waiting for no page, runs. -/
theorem lichenEvent_runs {q : LichenCmd} {run : State → Nat → Nat → LichenCmd → State}
    (hq : (s.cluster s.cue.a).lichen[s.cue.b]? = some q) (hw : q.wait = none) (ho : q.opened = true) {reduce : Bool}
    (hr : q.reduce = reduce) : lichenEvent s reduce run = .next (run s s.cue.a s.cue.b q).bump := by
  simp only [lichenEvent, hq, hw, withForest, ho, hr, bne_self_eq_false]
  rfl

/-! ### Tokens of system members (R318, R322, R324, R325, R327, R328) -/

section
variable {p : Pending} (hp : s.pending[s.cue.a]? = some p)
include hp

/-- HALT's token is filled once its cores are quiet (R322). -/
theorem exec_haltCompletion {ids : List Nat} (ho : p.op = .halt ids) (hq : ids.all (quiet s) = true) :
    exec .haltCompletion s = .next (paid s s.cue.a p 0).bump := by
  show execHaltCompletion s = _
  simp only [execHaltCompletion, hp, ho, hq]
  rfl

/-- HARVEST's token is filled with its word (R324). -/
theorem exec_harvestCompletion {asid page count : Nat} (ho : p.op = .harvest asid page count) :
    exec .harvestCompletion s = .next
      (paid (harvest s asid page count).1 s.cue.a p (BitVec.ofNat 64 (harvest s asid page count).2)).bump := by
  show execHarvestCompletion s = _
  simp only [execHarvestCompletion, hp, ho]
  rfl

/-- XINV's token is filled (R325). -/
theorem exec_xinvCompletion {c : Scope} (ho : p.op = .xinv c) : exec .xinvCompletion s = .next (paid s s.cue.a p 0).bump := by
  show execXinvCompletion s = _
  simp only [execXinvCompletion, hp, ho]
  rfl

/-- KEYCLR's slot is cleared and its token filled (R327). -/
theorem exec_keyclrCompletion {n : Nat} (ho : p.op = .keyclr n) :
    exec .keyclrCompletion s = .next (paid (clearKey s n) s.cue.a p 0).bump := by
  show execKeyclrCompletion s = _
  simp only [execKeyclrCompletion, hp, ho]
  rfl

/-- The step that fills a system member's token does so once its table allows. -/
theorem exec_of_sysEndSpec {i : Instr} {u : State} {v : Word} (hi : sysEndSpec s p.op i = some (u, v)) :
    exec i s = .next (paid u s.cue.a p v).bump := by
  unfold sysEndSpec at hi
  split at hi
  case h_1 =>
    split at hi
    · next ids ho =>
      split at hi
      · next hq =>
        obtain ⟨rfl, rfl⟩ := Prod.mk.inj (Option.some.inj hi)
        exact exec_haltCompletion hp ho hq
      · cases hi
    · cases hi
  case h_2 =>
    split at hi
    · next asid page count ho =>
      obtain ⟨rfl, rfl⟩ := Prod.mk.inj (Option.some.inj hi)
      exact exec_harvestCompletion hp ho
    · cases hi
  case h_3 =>
    split at hi
    · next c ho =>
      obtain ⟨rfl, rfl⟩ := Prod.mk.inj (Option.some.inj hi)
      exact exec_xinvCompletion hp ho
    · cases hi
  case h_4 =>
    split at hi
    · next n ho =>
      obtain ⟨rfl, rfl⟩ := Prod.mk.inj (Option.some.inj hi)
      exact exec_keyclrCompletion hp ho
    · cases hi
  case h_5 => cases hi

end

/-- No ring holds the spilled entries: none is replayed (R328). -/
theorem exec_spillrplCompletion_none {p : Pending} {src dst : Nat} (hp : s.pending[s.cue.a]? = some p)
    (ho : p.op = .spill src dst) (hr : ringFor s src dst = none) :
    exec .spillrplCompletion s = .next (paid s s.cue.a p 0).bump := by
  show execSpillrplCompletion s = _
  simp only [execSpillrplCompletion, hp, ho, hr]
  rfl

/-- The entries of a ring are replayed in order, and counted (R328). -/
theorem exec_spillrplCompletion_some {p : Pending} {src dst n : Nat} (hp : s.pending[s.cue.a]? = some p)
    (ho : p.op = .spill src dst) (hr : ringFor s src dst = some n) :
    let c := s.core src
    let x := c.spills.getD n {}
    let left := if src = dst then c.spills.eraseIdx n
      else c.spills.set n { x with ring := [], draining := false, forward := some dst }
    let u := x.ring.foldl (fun s d => replay s dst d) (s.setCore src { c with spills := left })
    exec .spillrplCompletion s = .next (paid u s.cue.a p (BitVec.ofNat 64 x.ring.length)).bump := by
  show execSpillrplCompletion s = _
  simp only [execSpillrplCompletion, hp, ho, hr]
  rfl

end

/-- Settles O45: each step of a completion under its conditions. -/
theorem completions : Obligations.Completions := by
  refine ⟨fun s => ⟨rfl, fun _ => exec_loadDataReturn, fun _ => exec_multicastCompletion, fun _ _ => exec_sfuReturn,
    fun _ => exec_matrixCompletion, rfl, fun _ => exec_copyCompletion, fun _ hq hw ho =>
      ⟨lichenEvent_runs hq hw ho, lichenEvent_runs hq hw ho⟩⟩,
    fun s p hp => ⟨fun _ _ _ => exec_of_sysEndSpec hp, fun _ _ ho =>
      ⟨exec_spillrplCompletion_none hp ho, fun _ => exec_spillrplCompletion_some hp ho⟩⟩⟩

end Sys2Proof.Machine
end

section
/-!
PROOF. Loads and multicasts (chapter 07): what a load finds under its checks, and the destinations of a multicast in order.
-/

namespace Sys2Proof.Machine

/-! ### Loads (R85, R137, R138, R139) -/

@[simp] theorem leaveReplica_consume (s : State) (t : Thread) (u : Uses) (c : Cap) (pl : Place) :
    leaveReplica s (consume t u) c pl = leaveReplica s t c pl := by
  simp only [leaveReplica, consume_launch]

/-- Only a load with the H hint is served from a replica (R45). -/
theorem hintNat_eq_ite (s : State) (id : Nat) (hint : Bool) (pl : Place) (size : Nat) :
    s.hintNat id hint pl size = if hint then s.hintNat id true pl size else s.loadNat (pathOf id) pl size := by
  cases hint with
  | true => rfl
  | false => rfl

/-- An element's bytes as a register value, as the tables write it (R139). -/
theorem extend_eq (signed : Bool) (size v : Nat) :
    extend signed size v = if signed then BitVec.ofInt 64 (signedOf (8 * size) v) else BitVec.ofNat 64 v := rfl

/-- A load whose checks allow it holds its destination for the value that its path sees. -/
theorem loadMember_returns {s : State} {t : Thread} {i : Instr} {d : BitVec 5} {c : BitVec 4} {a : BitVec 5} {z : BitVec 2}
    {o : BitVec 6} {hint signed acquire : Bool} {pl : Place} (h : Issues s t i) (hd : Room t d) (hl : t.loadsStall = false)
    (hm : memCheck (opened s t i) s.cur (consume t (usesOf i)) (t.c c.toNat)
      ((t.c c.toNat).base + (t.s a.toNat).toNat + o.toInt * elemSize z) (elemSize z) (elemSize z) permR { r := true } = .ok pl) :
    let s1 := (settleFor (opened s t i) s.myPath (acquire || strengthened t (t.c c.toNat)) pl (elemSize z)).reachAt pl
    let s2 := if hint then leaveReplica s1 (consume t (usesOf i)) (t.c c.toNat) pl else s1
    loadMember i d c a z o hint signed acquire s =
      .next (retired (awaiting s2 d (extend signed (elemSize z) (s1.hintNat s1.cur.core hint pl (elemSize z))))) := by
  refine issue_retires h ?_
  dsimp only
  rw [noRoom_consume, noRoom_of_room hd, consume_loadsStall, hl, opened_cur, consume_c, memAddr_consume, hm,
    strengthened_consume, opened_myPath]
  exact returns_eq _ _ _

/-- LD, LDU and LDACQ are this form, with the fields of their table. -/
theorem exec_of_loadSpec {i : Instr} {x : LoadForm} (hx : loadSpec i = some x) :
    ∃ z o, x.size = elemSize z ∧ x.off = o.toInt * elemSize z ∧
      ∀ u, exec i u = loadMember i x.d x.c x.a z o x.hint x.signed x.acquire u := by
  unfold loadSpec at hx
  split at hx
  case h_1 z _ o =>
    cases hx
    exact ⟨z, o, rfl, by rw [elemSize_cast], fun _ => rfl⟩
  case h_2 z _ o =>
    cases hx
    exact ⟨z, o, rfl, by rw [elemSize_cast], fun _ => rfl⟩
  case h_3 z _ _ o =>
    cases hx
    exact ⟨z, o, rfl, by rw [elemSize_cast], fun _ => rfl⟩
  case h_4 => cases hx

/-- A load can take its bytes from its path where the last store that touches its granules gives all of them (R85; log 6). -/
theorem forwards_of_covered {s : State} {path : Nat} {pl : Place} {size : Nat} {p : PStore}
    (hp : ((s.path path).reverse.find? fun q => q.readable && q.touches pl size) = some p)
    (hlo : p.addr ≤ pl.key.2) (hhi : pl.key.2 + size ≤ p.addr + p.size) : forwards s path pl size = true := by
  simp only [forwards, hp, hlo, hhi, decide_true, Bool.and_self]

/-- A plain load that can take its bytes from its path performs no store. -/
theorem settleFor_of_forwards {s : State} {path : Nat} {pl : Place} {size : Nat} (h : forwards s path pl size = true) :
    settleFor s path false pl size = s := by
  simp only [settleFor, h, Bool.not_false, Bool.and_self, if_true]

/-- Where no pending store of a path is wanted, none is performed. -/
theorem performWhere_of_none {s : State} {path : Nat} {want : PStore → Bool} (h : ∀ q ∈ s.path path, want q = false) :
    performWhere s path want = s := by
  have hany : (s.path path).any want = false := by
    rw [List.any_eq_false]
    intro q hq
    rw [h q hq]
    exact Bool.false_ne_true
  simp only [performWhere, hany, Bool.not_false, if_true]

/-- A load whose granules no pending store of its path touches performs none, an acquire neither. -/
theorem settleFor_of_untouched {s : State} {path : Nat} {pl : Place} {size : Nat} (acquire : Bool)
    (h : ∀ q ∈ s.path path, q.touches pl size = false) : settleFor s path acquire pl size = s := by
  unfold settleFor
  split
  · rfl
  · exact performWhere_of_none h

/-- Settles O5: a load is one form, which performs pending stores only where log 56 says. -/
theorem loads : Obligations.Loads := by
  refine ⟨fun s t i x pl hx h hd hl hm => ?_, fun s path pl size =>
    ⟨fun _ hp ⟨hlo, hhi⟩ => settleFor_of_forwards (forwards_of_covered hp hlo hhi), fun hq b => settleFor_of_untouched b hq⟩⟩
  obtain ⟨z, o, hsize, hoff, he⟩ := exec_of_loadSpec hx
  rw [hsize, hoff] at hm
  intro s1 s2 v
  rw [he, loadMember_returns h hd hl hm, extend_eq, hintNat_eq_ite, ← hsize]

/-! ### Multicast and reducing stores (R148, R150) -/

/-- The AOPs of REDST, which its O field names. -/
theorem redstOp_cases (o : BitVec 2) : o = 0 ∨ o = 1 ∨ o = 2 ∨ o = 3 := by
  revert o
  decide

/-- An AOP on operands of its width leaves its value (R140, R148). -/
theorem Rmw.new_aop {op size old v : Nat} (hop : op ≠ 10) (hv : v < 2 ^ (8 * size)) :
    Rmw.new { op, v } size old = some (amoValue op (8 * size) old v) := by
  simp only [Rmw.new, if_neg hop, Nat.mod_eq_of_lt hv]

/-- A destination of a REDST takes the value of its table. -/
theorem castSpec_value {i : Instr} {x : CastForm} {o old v : Nat} (hx : castSpec i = some x) (ho : x.op = some o)
    (hold : old < 2 ^ (8 * x.size)) (hv : v < 2 ^ (8 * x.size)) : Rmw.new { op := o, v } x.size old = some (x.f old v) := by
  unfold castSpec at hx
  split at hx
  case h_1 =>
    cases hx
    cases ho
  case h_2 k _ =>
    rcases redstOp_cases k with rfl | rfl | rfl | rfl
    all_goals
      cases hx
      cases ho
      rw [Rmw.new_aop (by decide) hv]
    · exact congrArg some (amoValue_add 64 old v)
    · exact congrArg some (amoValue_min 64 old v)
    · exact congrArg some (amoValue_max 64 old v)
    · exact congrArg some (amoValue_fadd hold hv)
  case h_3 => cases hx

/-- MCST and REDST are this form, with the fields of their table. -/
theorem exec_of_castSpec {i : Instr} {x : CastForm} (hx : castSpec i = some x) (s : State) :
    exec i s = cast i x.d x.a x.b x.c x.size x.op s := by
  unfold castSpec at hx
  split at hx
  case h_1 =>
    cases hx
    rfl
  case h_2 k _ =>
    rcases redstOp_cases k with rfl | rfl | rfl | rfl
    all_goals
      cases hx
      rfl
  case h_3 => cases hx

@[simp] theorem sendCast_cur (s : State) (pl : Place) (p : PStore) (op : Option Nat) : (sendCast s pl p op).cur = s.cur := by
  cases pl with
  | device => rfl
  | scratch => rfl
  | remote =>
    dsimp only [sendCast]
    split
    · exact logEntry_cur s _ _
    · rfl

/-- The status word of a multicast that no poisoned destination has stopped (R148). -/
theorem status_of_not_stopped {r : CastState} (h : r.stopped = false) : BitVec.ofNat 64 r.status = castStatus r := by
  simp only [CastState.status, h, Bool.false_eq_true, if_false, castStatus]

/-- A multicast whose checks allow it, and that no poisoned destination stops, writes its destinations in turn and leaves its
status under way. -/
theorem cast_retires {s : State} {t : Thread} {i : Instr} {x : CastForm} {pl : Place} (h : Issues s t i)
    (hm : memCheck (opened s t i) s.cur (consume t (usesOf i)) (t.c x.c.toNat)
      ((t.c x.c.toNat).base + (t.s x.a.toNat).toNat) x.size x.size
      (if x.op.isSome then permW ||| permAtomic else permW) { r := x.op.isSome, w := true, late := true } = .ok pl) :
    let v := (t.s x.b.toNat).toNat % 2 ^ (8 * x.size)
    let s1 := claimMe (drain ((opened s t i).reachAt pl) s.myPath) x.d
    let s2 := sendCast s1 pl (storeAt s.cur (consume t (usesOf i)) pl x.size (BitVec.ofNat 1024 v) false) x.op
    let r := castRun s2 (consume t (usesOf i)) pl x v
    r.stopped = false →
      cast i x.d x.a x.b x.c x.size x.op s = .next (retired { r.s with multis := r.s.multis ++
        [{ handle := s.handleOf s.cur, reg := x.d.toNat, loc := s.cur, launch := t.launch
           rcb := t.rcb, status := castStatus r, crewId := t.crewId, epc := t.pc }] }) := by
  intro v s1 s2 r hr
  refine issue_retires h ?_
  dsimp only
  rw [opened_cur, consume_c, memAddr_consume, Int.add_zero, hm, consume_s, opened_myPath, handleOf_opened, consume_launch,
    consume_rcb, consume_crewId, consume_pc]
  have hrun : castAll s2 pl x.op.isSome (fun u frame =>
      destWrite u s1.cur (consume t (usesOf i)) pl x.size (x.op.map fun o => { op := o, v }) frame v) = r := by
    rw [show s1.cur = s2.cur from (sendCast_cur s1 pl _ x.op).symm]
    rfl
  dsimp only
  rw [hrun, hr, status_of_not_stopped hr]
  rfl

/-- Settles O9: REDST's AOPs by their table, and both members by their one form. -/
theorem multicasts : Obligations.Multicasts := by
  refine ⟨fun i x o hx ho old v => castSpec_value hx ho, fun s t i x pl hx h hm => ?_⟩
  rw [exec_of_castSpec hx]
  exact cast_retires h hm

end Sys2Proof.Machine
end

section
/-!
PROOF. Messages and rings (chapter 08): what SEND and REPLY hand over, and what the ring members do to their ring, to its waiters and to
their own thread; and the machine at the moment power is applied.
-/

namespace Sys2Proof.Machine

/-! ### SEND and REPLY (R158, R160) -/

/-- SEND to a core that a message reaches, with room in the outbound queue. -/
theorem exec_send_reaches {s : State} {t : Thread} {a b : BitVec 5} {n : BitVec 4} {id : Nat} (h : Issues s t (.send a b n)) :
    let s1 := opened s t (.send a b n)
    let t1 := consume t (usesOf (.send a b n))
    reachable s1 (t.s a.toNat) t1.launch = some id → outbound s1 s.cur.core < 8 →
      exec (.send a b n) s = .next (retired (send (drain s1 s.myPath)
        { dest := id, src := s.cur, launch := t.launch, rcb := senderRcb s1 t1
          body := .message (t.s b.toNat) ((List.range n.toNat).map fun i => t.s (i + 1)), sender := t.number
          crew := t.crewId })) := by
  intro s1 t1 hr ho
  refine issue_retires h ?_
  dsimp only
  rw [consume_s, hr]
  refine (if_neg (Nat.not_le.mpr ho)).trans ?_
  simp only [consume_s, consume_launch, consume_number, consume_crewId, opened_cur, opened_myPath]
  rfl

/-- SEND to a core that no message reaches, whether or not the outbound queue has room (log 80). -/
theorem exec_send_unreachable {s : State} {t : Thread} {a b : BitVec 5} {n : BitVec 4} (h : Issues s t (.send a b n)) :
    let s1 := opened s t (.send a b n)
    let t1 := consume t (usesOf (.send a b n))
    reachable s1 (t.s a.toNat) t1.launch = none →
      exec (.send a b n) s = .next (retired (undeliverable s1 (senderRcb s1 t1) (t.s a.toNat) 0 t1.launch t.crewId)) := by
  intro s1 t1 hr
  refine issue_retires h ?_
  dsimp only
  rw [consume_s, hr, consume_crewId]

/-- REPLY performs the path's stores and sends its value to the thread of its handle. -/
theorem exec_reply_sends {s : State} {t : Thread} {a b r : BitVec 5} (h : Issues s t (.reply a b r)) :
    let s1 := opened s t (.reply a b r)
    exec (.reply a b r) s = .next (retired (send (drain s1 s.myPath)
      { dest := handleCore (t.s a.toNat), src := s.cur, launch := t.launch, rcb := senderRcb s1 (consume t (usesOf (.reply a b r)))
        body := .reply (t.s a.toNat) r.toNat (t.s b.toNat), sender := t.number, crew := t.crewId })) := by
  intro s1
  refine issue_retires h ?_
  dsimp only
  rw [consume_s, consume_s, consume_launch, consume_number, consume_crewId, opened_cur, opened_myPath]

/-- Settles O19: SEND to a core that is reached and to one that is not, and REPLY. -/
theorem messages : Obligations.Messages := fun _ _ _ _ =>
  ⟨fun _ h => ⟨fun _ => exec_send_reaches h, exec_send_unreachable h⟩, fun _ => exec_reply_sends⟩

/-! ### Rings: the forms of an effect (R161, R164) -/

section
variable {s u : State} {t : Thread} {i : Instr} {q : BitVec 5} {body : Thread → State → Nat → Ring → Except Stop (State × Act)}

/-- A ring member of the crew's thread retires where its effect does, from the state whose pending header stores are performed (log 56). -/
theorem ringMember_retires (h : Issues s t i) (hc : InCrew s t i)
    (hb : body (consume t (usesOf i)) (ringOpened s t i) (clusterOf s.cur.core) (ownRing (ringOpened s t i) s.cur q) = .ok (u, .next)) :
    ringMember i q s body = .next (retired u) := ringMember_ok h hc hb

/-- One that answers writes its value and its predicate. -/
theorem ringMember_returns {d : BitVec 5} {p : BitVec 4} {v : BitVec 32} {b : Bool} (h : Issues s t i) (hc : InCrew s t i)
    (hb : body (consume t (usesOf i)) (ringOpened s t i) (clusterOf s.cur.core) (ownRing (ringOpened s t i) s.cur q) =
      ringReturn u d p v b) :
    ringMember i q s body = .next (retired ((u.setPred p.toNat b).wr d.toNat (v.setWidth 64))) := ringMember_retires h hc hb

/-- One that parks joins the waiters of its ring, behind those that came before. -/
theorem ringMember_parks {w : Wait} (h : Issues s t i) (hc : InCrew s t i) :
    let s1 := ringOpened s t i
    let r := ownRing s1 s.cur q
    body (consume t (usesOf i)) s1 (clusterOf s.cur.core) r = ringPark s1 (clusterOf s.cur.core) q r w →
      ringMember i q s body = .next (stays (waitFor (putRing s1 s.cur q { r with waiters := r.waiters ++ [s1.cur] }) w)) :=
  fun hb => ringMember_ok (a := .stay) h hc hb

end

/-! ### QCFG (R163) -/

section
variable {s : State} {t : Thread} {c : BitVec 4} {a b q : BitVec 5} (h : Issues s t (.qcfg c a b q)) (hc : InCrew s t (.qcfg c a b q))
include h hc

/-- QCFG of zero returns its ring to IDLE. -/
theorem exec_qcfg_zero (hz : t.s a.toNat = 0) :
    let s1 := ringOpened s t (.qcfg c a b q)
    exec (.qcfg c a b q) s =
      .next (retired (reconfigure s1 (clusterOf s.cur.core) q.toNat {} (ownRing s1 s.cur q).waiters)) := by
  intro s1
  refine show execQcfg c a b q s = _ from ringMember_retires h hc ?_
  dsimp only
  rw [consume_s]
  exact if_pos hz

/-- QCFG of a configuration that passes the checks makes its ring ACTIVE and empty at the index of its start register. -/
theorem exec_qcfg_active (hz : t.s a.toNat ≠ 0) :
    let s1 := ringOpened s t (.qcfg c a b q)
    let r := ownRing s1 s.cur q
    let cfg := t.s a.toNat
    qcfgCheck r (t.c c.toNat) cfg = none →
      exec (.qcfg c a b q) s = .next (retired (reconfigure s1 (clusterOf s.cur.core) q.toNat
        { state := 1, buf := t.c c.toNat, logn := bitsOf cfg 3 0, logs := bitsOf cfg 7 4, hdr := bitOf cfg 8
          clm := (t.s b.toNat).setWidth 32, pub := (t.s b.toNat).setWidth 32, rd := (t.s b.toNat).setWidth 32
          fre := (t.s b.toNat).setWidth 32 } r.waiters)) := by
  intro s1 r cfg hk
  refine show execQcfg c a b q s = _ from ringMember_retires h hc ?_
  dsimp only
  rw [consume_s, consume_s, consume_c, if_neg hz, hk]

end

/-! ### Members that answer at once or park (R164) -/

/-- A claim changes its ring. -/
theorem Ring.claimed_ne (r : Ring) : { r with clm := r.clm + 1 } ≠ r := by
  intro h
  have : r.clm + 1 = r.clm := congrArg Ring.clm h
  simp at this

/-- A read changes its ring. -/
theorem Ring.read_ne (r : Ring) : { r with rd := r.rd + 1 } ≠ r := by
  intro h
  have : r.rd + 1 = r.rd := congrArg Ring.rd h
  simp at this

section
variable {s : State} {t : Thread} {i : Instr}

/-- QCLAIM, QWAITF and QWAITE answer as their table gives. -/
theorem exec_of_ringAnswerSpec {d q : BitVec 5} {p : BitVec 4} {v : BitVec 32} {b : Bool} {r : Ring} (h : Issues s t i)
    (hc : InCrew s t i) :
    let s1 := ringOpened s t i
    ringAnswerSpec (ownRing s1 s.cur q) i = some (d, p, q, v, b, r) →
      exec i s = .next (retired
        (((if r = ownRing s1 s.cur q then s1 else putRing s1 s.cur q r).setPred p.toNat b).wr d.toNat (v.setWidth 64))) := by
  intro s1 hx
  unfold ringAnswerSpec at hx
  split at hx
  case h_1 d p q =>
    split_ifs at hx with h0 h1
    · cases hx
      rw [if_neg (Ring.claimed_ne _)]
      exact show execQclaim d p q s = _ from ringMember_returns h hc ((if_neg h0).trans (if_pos (by simpa using h1)))
    · cases hx
      rw [if_pos rfl]
      exact show execQclaim d p q s = _ from ringMember_returns h hc ((if_neg h0).trans (if_neg (by simpa using h1)))
  case h_2 d p q =>
    split_ifs at hx with h0 h2 hr
    · cases hx
      rw [if_pos rfl]
      exact show execQwaitf d p q s = _ from ringMember_returns h hc ((if_neg h0).trans (if_pos h2))
    · cases hx
      rw [if_neg (Ring.read_ne _)]
      exact show execQwaitf d p q s = _ from ringMember_returns h hc ((if_neg h0).trans ((if_neg h2).trans (if_pos (bne_iff_ne.mpr hr))))
  case h_3 d p q =>
    split_ifs at hx with h0 h2 hr
    · cases hx
      rw [if_pos rfl]
      exact show execQwaite d p q s = _ from ringMember_returns h hc ((if_neg h0).trans (if_pos h2))
    · cases hx
      rw [if_neg (Ring.claimed_ne _)]
      exact show execQwaite d p q s = _ from ringMember_returns h hc ((if_neg h0).trans ((if_neg h2).trans (if_pos hr)))
  case h_4 => cases hx

/-- On an ACTIVE ring whose turn has not come, QWAITF and QWAITE take the last branch of their table. -/
theorem ite_of_active {α : Type} {n : Nat} {b : Bool} {idle error answer park : α} (h : n = 1) (hb : b = false) :
    (if n = 0 then idle else if n = 2 then error else if b then answer else park) = park := by
  subst h hb
  rfl

/-- QWAITF of a ring with nothing to read, and QWAITE of one without room, park. -/
theorem exec_of_ringParkSpec {q : BitVec 5} {w : Wait} (h : Issues s t i) (hc : InCrew s t i) :
    let s1 := ringOpened s t i
    let r := ownRing s1 s.cur q
    ringParkSpec r i = some (q, w) →
      exec i s = .next (stays (waitFor (putRing s1 s.cur q { r with waiters := r.waiters ++ [s1.cur] }) w)) := by
  intro s1 r hx
  unfold ringParkSpec at hx
  split at hx
  case h_1 d p q =>
    split_ifs at hx with hp
    cases hx
    obtain ⟨h1, hr⟩ := hp
    exact show execQwaitf d p q s = _ from ringMember_parks h hc (ite_of_active h1 (by simpa using hr))
  case h_2 d p q =>
    split_ifs at hx with hp
    cases hx
    obtain ⟨h1, hr⟩ := hp
    exact show execQwaite d p q s = _ from ringMember_parks h hc (ite_of_active h1 hr)
  case h_3 => cases hx

/-! ### Members that change a ring and serve its waiters (R163, R164) -/

/-- QPUB, QFREE and QSETRD (whose cleared slots are log 59) leave their ring as their table gives it, and serve its waiters. -/
theorem exec_of_ringChangeSpec {q : BitVec 5} {r : Ring} (h : Issues s t i) (hc : InCrew s t i) :
    let s1 := ringOpened s t i
    ringChangeSpec t (ownRing s1 s.cur q) i = some (q, r) →
      exec i s = .next (retired (wakeRing (putRing s1 s.cur q r) s.cur q)) := by
  intro s1 hx
  unfold ringChangeSpec at hx
  split at hx
  case h_1 a q =>
    dsimp only at hx
    split_ifs at hx with hp
    cases hx
    refine show execQpub a q s = _ from ringMember_retires h hc ?_
    dsimp only
    rw [consume_s]
    exact if_pos (by simpa [Ring.canPublish, inRange, and_assoc] using hp)
  case h_2 a q =>
    dsimp only at hx
    split_ifs at hx with hp
    cases hx
    refine show execQfree a q s = _ from ringMember_retires h hc ?_
    dsimp only
    rw [consume_s]
    exact if_pos (by simpa [inRange, and_assoc] using hp)
  case h_3 a q =>
    dsimp only at hx
    split_ifs at hx with hp
    cases hx
    refine show execQsetrd a q s = _ from ringMember_retires h hc ?_
    dsimp only
    rw [consume_s]
    exact if_neg (by simpa using hp)
  case h_4 => cases hx

end

/-! ### QERR (R164, R165) -/

section
variable {s : State} {t : Thread} {d a q : BitVec 5} (h : Issues s t (.qerr d a q)) (hc : InCrew s t (.qerr d a q))
include h hc

/-- QERR of zero, and QERR on a ring in ERROR, read the status only. -/
theorem exec_qerr_reads :
    let s1 := ringOpened s t (.qerr d a q)
    let r := ownRing s1 s.cur q
    ((t.s a.toNat).setWidth 16 : BitVec 16) = 0 ∨ 2 ≤ r.state →
      exec (.qerr d a q) s = .next (retired (s1.wr d.toNat (ringStatus r))) := by
  intro s1 r hr
  refine show execQerr d a q s = _ from ringMember_retires h hc ?_
  dsimp only
  rw [consume_s]
  by_cases hz : ((t.s a.toNat).setWidth 16 : BitVec 16) = 0
  · exact if_pos hz
  · have h2 : 2 ≤ r.state := hr.resolve_left hz
    exact (if_neg hz).trans ((if_neg (show ¬r.state = 0 by omega)).trans (if_neg (show ¬r.state = 1 by omega)))

/-- QERR of a code puts an ACTIVE ring into ERROR, and reads the status as it was. -/
theorem exec_qerr_sets :
    let s1 := ringOpened s t (.qerr d a q)
    let r := ownRing s1 s.cur q
    let code : BitVec 16 := (t.s a.toNat).setWidth 16
    code ≠ 0 → r.state = 1 → exec (.qerr d a q) s = .next (retired
      ((wakeRing (putRing s1 s.cur q { r with state := 2, code }) s.cur q).wr d.toNat (ringStatus r))) := by
  intro s1 r code hz h1
  refine show execQerr d a q s = _ from ringMember_retires h hc ?_
  dsimp only
  rw [consume_s]
  exact (if_neg hz).trans ((if_neg (show ¬r.state = 0 by omega)).trans (if_pos h1))

end

/-- Settles O20: QCFG by its configuration, the members that answer, park or change their ring by their tables, and QERR by its code. -/
theorem ringMembers : Obligations.RingMembers := by
  intro s t i s1 t1 h hc
  refine ⟨fun c a b q hi => ?_, fun _ _ _ _ _ _ => exec_of_ringAnswerSpec h hc, fun _ _ => exec_of_ringParkSpec h hc,
    fun _ _ => exec_of_ringChangeSpec h hc, fun d a q hi => ?_⟩
  · subst hi
    exact ⟨exec_qcfg_zero h hc, exec_qcfg_active h hc⟩
  · subst hi
    exact ⟨exec_qerr_reads h hc, exec_qerr_sets h hc⟩

/-! ### The machine at the moment power is applied (R161, R168, R208, R377, R400, R409) -/

@[simp] theorem core_reset (id : Nat) : State.reset.core id = {} := rfl

@[simp] theorem cluster_reset (k : Nat) : State.reset.cluster k = {} := rfl

/-- No slot holds a thread. -/
theorem thread?_reset (l : Loc) : State.reset.thread? l = none := by
  simp only [State.thread?, State.slot, core_reset, Tab.get_nil]

/-- Every barrier context has one participant, of rank 0. -/
theorem bar_reset (id n : Nat) : ((State.reset.core id).bar n).p = 1 ∧ ((State.reset.core id).bar n).rank = 0 := by
  rw [core_reset]
  exact ⟨rfl, rfl⟩

/-- Every stream is unconfigured. -/
theorem stream_reset (id n : Nat) : ((State.reset.core id).stream n).state = .unconfigured := by
  rw [core_reset]
  rfl

/-- Every ring is IDLE. -/
theorem ring_reset (k q : Nat) : (State.reset.ring k q).state = 0 := by
  rw [State.ring, cluster_reset]
  rfl

/-- Settles O59: memory lists nothing, and so does every table of the state, so each entry is its default. -/
theorem reset : Obligations.Reset :=
  ⟨Memory.wf_nil, rfl, rfl, rfl, fun _ => rfl, rfl, thread?_reset, fun _ => rfl, bar_reset, stream_reset, ring_reset, memGet_nil⟩

end Sys2Proof.Machine
end

section
/-!
PROOF. Vectors (chapter 09): elementwise members, masks, reductions and conversions.
-/

namespace Sys2Proof.Machine

/-! ### Elementwise members (R174, R177, R178, R181, R191) -/

/-- An elementwise member alone runs as its pair does with no fields set (R106). -/
theorem exec_eq_runPair_of_vecSpec {px : Px} {i : Instr} {x : VecForm} (h : vecSpec px i = some x) (s : State) :
    exec i s = runPair {} i s := by
  unfold vecSpec at h
  split at h
  case h_44 => cases h
  all_goals rfl

/-- Settles O22: the elementwise members are one form, which writes the elements of its table. -/
theorem vectorResults : Obligations.VectorResults := by
  intro s t i px x s1 u vs hx h hb hv r hw
  exact runsTo_of_runPair (exec_eq_runPair_of_vecSpec hx s) ((runPair_of_vecSpec hx s).trans (vectorMember_ok h hb hv rfl hw))

/-! ### A register from its elements (R173, R174) -/

/-- The number whose digits to the base 2^w are those of `g`, below the `n`th. -/
def elemSum (w : Nat) (g : Nat → Nat) (n : Nat) : Nat := (List.range n).foldl (fun acc j => acc + g j * 2 ^ (w * j)) 0

theorem elemSum_succ (w : Nat) (g : Nat → Nat) (n : Nat) : elemSum w g (n + 1) = elemSum w g n + 2 ^ (w * n) * g n := by
  rw [elemSum, List.range_succ, List.foldl_append, ← elemSum, Nat.mul_comm]
  rfl

section
variable {w : Nat} {g : Nat → Nat} (hg : ∀ j, g j < 2 ^ w)
include hg

theorem elemSum_lt (n : Nat) : elemSum w g n < 2 ^ (w * n) := by
  induction n with
  | zero => exact Nat.two_pow_pos _
  | succ n ih =>
    rw [elemSum_succ]
    calc elemSum w g n + 2 ^ (w * n) * g n
      _ < 2 ^ (w * n) * (g n + 1) := by rw [Nat.mul_succ]; omega
      _ ≤ 2 ^ (w * n) * 2 ^ w := Nat.mul_le_mul_left _ (hg n)
      _ = 2 ^ (w * (n + 1)) := by rw [← Nat.pow_add, Nat.mul_succ]

/-- Each digit is found in its place. -/
theorem elemSum_digit {j n : Nat} (hj : j < n) : elemSum w g n / 2 ^ (w * j) % 2 ^ w = g j := by
  induction n with
  | zero => omega
  | succ n ih =>
    rw [elemSum_succ]
    rcases Nat.lt_succ_iff_lt_or_eq.mp hj with hlt | rfl
    · obtain ⟨k, rfl⟩ := Nat.exists_eq_add_of_lt hlt
      have hsplit : 2 ^ (w * (j + k + 1)) = 2 ^ (w * j) * (2 ^ w * 2 ^ (w * k)) := by ring
      rw [hsplit, Nat.mul_assoc, Nat.add_mul_div_left _ _ (Nat.two_pow_pos _), Nat.mul_assoc, Nat.add_mul_mod_self_left]
      exact ih hlt
    · rw [Nat.add_mul_div_left _ _ (Nat.two_pow_pos _), Nat.div_eq_of_lt (elemSum_lt hg _), Nat.zero_add,
        Nat.mod_eq_of_lt (hg _)]

/-- Digits that fill a word are its value. -/
theorem toNat_ofNat_elemSum {n v : Nat} (hv : w * n = v) : (BitVec.ofNat v (elemSum w g n)).toNat = elemSum w g n := by
  subst hv
  rw [BitVec.toNat_ofNat, Nat.mod_eq_of_lt (elemSum_lt hg n)]

/-- A register made of its elements has them (R173): the widths divide a register. -/
theorem elem_elemSum {j : Nat} (hw : w ∣ 2048) (hj : j < 2048 / w) :
    elem w (BitVec.ofNat 2048 (elemSum w g (2048 / w))) j = g j := by
  rw [elem, toNat_ofNat_elemSum hg (Nat.mul_div_cancel' hw), elemSum_digit hg hj]

end

theorem elem_lt (w : Nat) (v : BitVec 2048) (j : Nat) : elem w v j < 2 ^ w := Nat.mod_lt _ (Nat.two_pow_pos w)

/-- Element `j` of an elementwise result (R174). -/
def laneAt (px : Px) (t : Thread) (w : Nat) (old : BitVec 2048) (f : Nat → Nat × Nat) (j : Nat) : Nat :=
  if active px t w j then (f j).1 % 2 ^ w else if px.z = 1 then 0 else elem w old j

theorem laneAt_lt (px : Px) (t : Thread) (w : Nat) (old : BitVec 2048) (f : Nat → Nat × Nat) (j : Nat) :
    laneAt px t w old f j < 2 ^ w := by
  unfold laneAt
  split
  · exact Nat.mod_lt _ (Nat.two_pow_pos w)
  · split
    · exact Nat.two_pow_pos w
    · exact elem_lt w old j

/-- The register of an elementwise result is made of its elements. -/
theorem lanes_val (px : Px) (t : Thread) (w : Nat) (old : BitVec 2048) (sr : Bool) (f : Nat → Nat × Nat) :
    (lanes px t w old sr f).val = BitVec.ofNat 2048 (elemSum w (laneAt px t w old f) (2048 / w)) := by
  refine congrArg (BitVec.ofNat 2048) (List.foldl_hom Prod.fst fun acc j => ?_).symm
  unfold laneAt
  split <;> rfl

theorem elem_lanes {w j : Nat} (px : Px) (t : Thread) (old : BitVec 2048) (sr : Bool) (f : Nat → Nat × Nat) (hw : w ∣ 2048)
    (hj : j < 2048 / w) : elem w (lanes px t w old sr f).val j = laneAt px t w old f j := by
  rw [lanes_val, elem_elemSum (laneAt_lt px t w old f) hw hj]

/-! ### Integer elements (R178) -/

section
variable {w : Nat} (a b c : BitVec w)

theorem sgn_toNat : sgn w a.toNat = a.toInt := by rw [sgn, BitVec.ofNat_toNat, BitVec.setWidth_eq]

theorem ofNat_wrapTo (x : Int) : BitVec.ofNat w (wrapTo w x) = BitVec.ofInt w x := by
  rw [wrapTo, BitVec.ofNat_toNat, BitVec.setWidth_eq]

/-- The sums, products and signs wrap as the operations on words do. -/
theorem intOp_arith :
    let n (k : VKind) : BitVec w := BitVec.ofNat w (intOp k w a.toNat b.toNat c.toNat)
    n .add = a + b ∧ n .sub = a - b ∧ n .mul = a * b ∧ n .fma = a * b + c ∧ n .neg = -a ∧
      n .abs = (if a.slt 0 then -a else a) ∧ n .mulh = BitVec.ofInt w (a.toInt * b.toInt / 2 ^ w) := by
  simp only [intOp, ofNat_wrapTo, sgn_toNat]
  refine ⟨?_, ?_, ?_, ?_, ?_, ?_, trivial⟩
  · rw [BitVec.ofInt_add, BitVec.ofInt_toInt, BitVec.ofInt_toInt]
  · rw [Int.sub_eq_add_neg, BitVec.ofInt_add, BitVec.ofInt_neg, BitVec.ofInt_toInt, BitVec.ofInt_toInt, BitVec.sub_eq_add_neg]
  · rw [BitVec.ofInt_mul, BitVec.ofInt_toInt, BitVec.ofInt_toInt]
  · rw [BitVec.ofInt_add, BitVec.ofInt_mul, BitVec.ofInt_toInt, BitVec.ofInt_toInt, BitVec.ofInt_toInt]
  · rw [BitVec.ofInt_neg, BitVec.ofInt_toInt]
  · simp only [BitVec.slt_eq_decide, decide_eq_true_eq, BitVec.ofNat_eq_ofNat, BitVec.toInt_zero, apply_ite (BitVec.ofInt w),
      BitVec.ofInt_neg, BitVec.ofInt_toInt]

/-- The bitwise members are the operations on words. -/
theorem intOp_bits :
    let n (k : VKind) : BitVec w := BitVec.ofNat w (intOp k w a.toNat b.toNat c.toNat)
    n .and = a &&& b ∧ n .or = a ||| b ∧ n .xor = a ^^^ b := by
  simp only [intOp, ← BitVec.toNat_and, ← BitVec.toNat_or, ← BitVec.toNat_xor, BitVec.ofNat_toNat, BitVec.setWidth_eq, and_self]

/-- The smaller and the larger, as signed and as unsigned words. -/
theorem intOp_order :
    let n (k : VKind) : BitVec w := BitVec.ofNat w (intOp k w a.toNat b.toNat c.toNat)
    n .min = (if b.slt a then b else a) ∧ n .max = (if a.slt b then b else a) ∧
      n .minu = (if b.ult a then b else a) ∧ n .maxu = (if a.ult b then b else a) := by
  have hmin : Nat.min a.toNat b.toNat = if b.toNat < a.toNat then b.toNat else a.toNat := (min_comm _ _).trans (min_def_lt _ _)
  have hmax : Nat.max a.toNat b.toNat = if a.toNat < b.toNat then b.toNat else a.toNat := max_def_lt _ _
  simp only [intOp, sgn_toNat, hmin, hmax, apply_ite (BitVec.ofNat w), BitVec.ofNat_toNat, BitVec.setWidth_eq,
    BitVec.slt_eq_decide, BitVec.ult_eq_decide, decide_eq_true_eq, and_self]

/-- The shifts, by an amount modulo the width. -/
theorem intOp_shifts :
    let n (k : VKind) : BitVec w := BitVec.ofNat w (intOp k w a.toNat b.toNat c.toNat)
    n .shl = a <<< (b.toNat % w) ∧ n .shr = a >>> (b.toNat % w) ∧ n .sra = a.sshiftRight (b.toNat % w) := by
  simp only [intOp, ofNat_wrapTo, sgn_toNat]
  refine ⟨?_, ?_, ?_⟩
  · rw [← Nat.shiftLeft_eq, ← BitVec.toNat_shiftLeft, BitVec.ofNat_toNat, BitVec.setWidth_eq]
  · rw [← Nat.shiftRight_eq_div_pow, ← BitVec.toNat_ushiftRight, BitVec.ofNat_toNat, BitVec.setWidth_eq]
  · rw [← BitVec.ofInt_toInt (x := a.sshiftRight _), BitVec.toInt_sshiftRight, Int.shiftRight_eq_div_pow]
    norm_cast

end

/-- Settles O23: a result is made of its lanes, and an integer element is that of its group of members. -/
theorem lanesByElement : Obligations.LanesByElement := by
  refine ⟨fun px t w old sr f j hw hj => elem_lanes px t old sr f ?_ hj, fun w a b c _ => ?_⟩
  · have h : ∀ w ∈ [4, 8, 16, 32], w ∣ 2048 := by decide
    exact h w hw
  · obtain ⟨hadd, hsub, hmul, hfma, hneg, habs, hmulh⟩ := intOp_arith a b c
    obtain ⟨hand, hor, hxor⟩ := intOp_bits a b c
    obtain ⟨hmin, hmax, hminu, hmaxu⟩ := intOp_order a b c
    obtain ⟨hshl, hshr, hsra⟩ := intOp_shifts a b c
    exact ⟨hadd, hsub, hmul, hfma, hand, hor, hxor, hneg, habs, hmin, hmax, hminu, hmaxu, hshl, hshr, hsra, hmulh⟩

/-! ### Comparisons, mask members and selection (R179, R180, R191) -/

@[simp] theorem active_consume (px : Px) (t : Thread) (u : Uses) (w j : Nat) : active px (consume t u) w j = active px t w j := by
  rw [active, consume_k, active]

@[simp] theorem lanes_consume (px : Px) (t : Thread) (u : Uses) (w : Nat) (old : BitVec 2048) (sr : Bool) (f : Nat → Nat × Nat) :
    lanes px (consume t u) w old sr f = lanes px t w old sr f := by
  simp only [lanes, active_consume]

/-- The bits and flags of a mask computed one word lane after the other: `hit` and `flag` where a lane is on, the bit of `keep`
elsewhere. -/
theorem foldl_maskBits (on hit keep : Nat → Bool) (flag : Nat → Nat → Nat) (n : Nat) :
    (List.range n).foldl (fun (acc : Nat × Nat) j =>
      if on j then (acc.1 + (if hit j then 2 ^ j else 0), flag acc.2 j) else (acc.1 + (if keep j then 2 ^ j else 0), acc.2)) (0, 0)
    = (bitSum (fun j => if on j then hit j else keep j) n, ((List.range n).filter on).foldl flag 0) := by
  refine Prod.ext (List.foldl_hom Prod.fst fun acc j => ?_).symm ?_
  · cases h : on j <;> simp [h]
  · rw [List.foldl_filter]
    refine (List.foldl_hom Prod.snd fun acc j => ?_).symm
    cases on j <;> rfl

/-- VCMP, whose registers can be read, writes its mask and retires with the flags of the active lanes noted. -/
theorem vcmp_retires {s s1 : State} {t : Thread} {px : Px} {i : Instr} {k : BitVec 3} {a b : BitVec 5} {y : BitVec 3}
    {n : BitVec 1} {c : BitVec 5} {vs : Tab (BitVec 2048)} :
    let ty := tyOf s1 (consume t (usesOf i)) y
    let at' (j e : Nat) : Bool × Nat := vCond c.toNat ty (elem ty.w (regOf vs a) (j * (32 / ty.w) + e))
      (elem ty.w (regOf vs b) (j * (32 / ty.w) + e))
    let lanes := List.range (32 / ty.w)
    let on (j : Nat) : Bool := px.k == 0 || (t.k px.k.toNat).getLsbD j
    let hit (j : Nat) : Bool := if n = 1 then lanes.any fun e => (at' j e).1 else lanes.all fun e => (at' j e).1
    let flags := ((List.range 64).filter on).foldl (fun f j => lanes.foldl (fun f e => f ||| (at' j e).2) f) 0
    let bits := bitSum (fun j => if on j then hit j else px.z = 0 && (t.k k.toNat).getLsbD j) 64
    Issues s t i px → readVectors (opened s t i) [a.toNat, b.toNat] = .ok (s1, vs) →
      vcmp px i k a b y n c s = .next (retired (s1.setMe ((s1.me.note flags false).setK k.toNat (BitVec.ofNat 64 bits))) px) := by
  intro ty at' lanes on hit flags bits h hv
  refine issue_retires h ?_
  have hfold := foldl_maskBits on hit (fun j => px.z = 0 && (t.k k.toNat).getLsbD j)
    (fun f j => lanes.foldl (fun f e => f ||| (at' j e).2) f) 64
  simp only [hv, consume_k, List.any_map, List.all_map, List.foldl_map, Function.comp_def]
  dsimp only [on, hit, at', lanes, ty] at hfold
  rw [hfold]

/-- KAND, KOR and KNOT write the mask of their table (R191). -/
theorem exec_of_maskSpec {s : State} {t : Thread} {i : Instr} {d : BitVec 3} {v : Word} (hx : maskSpec t i = some (d, v))
    (h : Issues s t i) : exec i s = .next (retired ((opened s t i).setMe ((opened s t i).me.setK d.toNat v))) := by
  unfold maskSpec at hx
  split at hx
  case h_4 => cases hx
  all_goals
    cases hx
    refine issue_retires h ?_
    simp only [consume_k]

/-- KPOPC counts the bits of a mask (R191). -/
theorem exec_kpopc {s : State} {t : Thread} {d : BitVec 5} {a : BitVec 3} (h : Issues s t (.kpopc d a)) :
    ∃ u, exec (.kpopc d a) s = .next u ∧
      SetsScalar s u t (.kpopc d a) d (BitVec.ofNat 64 ((List.range 64).filter fun j => (t.k a.toNat).getLsbD j).length) :=
  issue_write1 h (by rw [consume_k])

/-- VSEL, whose registers can be read and whose destination can be written, retires with each element from the register that its
mask picks (R191). -/
theorem runVsel_retires {s s1 u : State} {t : Thread} {px : Px} {d a b : BitVec 5} {y : BitVec 3} {vs : Tab (BitVec 2048)} :
    let i : Instr := .vsel d a b y
    let ty := tyOf s1 (consume t (usesOf i)) y
    Issues s t i px → isLoadBound (opened s t i) d.toNat = false →
    readVectors (opened s t i) [a.toNat, b.toNat] = .ok (s1, vs) →
    writeVector s1 d.toNat (lanes {} t ty.w 0 false fun j =>
      (elem ty.w (if active px t ty.w j then regOf vs a else regOf vs b) j, 0)).val = .ok u →
      runVsel px d a b y s = .next (retired u px) := by
  intro i ty h hb hv hw
  refine issue_retires h ?_
  dsimp only [i, ty] at hb hv hw
  simp only [hb, Bool.false_eq_true, if_false, hv, lanes_consume, active_consume, hw]

/-- Settles O25: VCMP by the bits of its mask, the mask members by their table, VSEL by its elements. -/
theorem masks : Obligations.Masks := by
  refine fun s t i => ⟨?_, fun d v hx h => exec_of_maskSpec hx h, ?_, ?_⟩
  · rintro px k a b y n c s1 vs rfl h hv ty at' lanes on flags
    refine ⟨_, runsTo_of_runPair rfl (vcmp_retires h hv), fun j hj => ?_⟩
    rw [BitVec.getLsbD_ofNat, testBit_bitSum _ hj, decide_eq_true hj, Bool.true_and]
  · rintro d a rfl h
    exact exec_kpopc h
  · rintro px d a b y s1 vs u rfl h hb hv ty hw
    exact runsTo_of_runPair rfl (runVsel_retires h hb hv hw)

/-! ### Reductions, element reads and prefix sums (R176, R181–R183) -/

/-- A reduction whose source can be read holds its destination eight cycles. -/
theorem vred_retires {s s1 : State} {t : Thread} {px : Px} {i : Instr} {d a : BitVec 5} {y : BitVec 3} {vs : Tab (BitVec 2048)}
    {f : Thread → Ty → List (Nat × Nat) → Word × Nat × Bool} :
    let t1 := consume t (usesOf i)
    let ty := tyOf s1 t1 y
    let r := f t1 ty (activeElems px t1 ty.w (regOf vs a))
    Issues s t i px → readVectors (opened s t i) [a.toNat] = .ok (s1, vs) →
      vred px i d a y s f = .next (retired (holding (s1.setMe (s1.me.note r.2.1 r.2.2)) d r.1 (s1.cycle + 8)) px) := by
  intro t1 ty r h hv
  refine issue_retires h ?_
  simp only [hv, holdS_due]
  rfl

/-- Each reduction is one form, with the result of its table, alone and under a prefix. -/
theorem runPair_of_redSpec {px : Px} {i : Instr} {d a : BitVec 5} {y : BitVec 3}
    {f : Thread → Ty → List (Nat × Nat) → Word × Nat × Bool} (hx : redSpec px i = some (d, a, y, f)) (s : State) :
    exec i s = runPair {} i s ∧ runPair px i s = vred px i d a y s f := by
  unfold redSpec at hx
  split at hx
  case h_6 => cases hx
  all_goals
    cases hx
    exact ⟨rfl, rfl⟩

/-- VEXTR holds its destination eight cycles for its element. -/
theorem runVextr_retires {s s1 : State} {t : Thread} {px : Px} {d a b : BitVec 5} {y : BitVec 3} {vs : Tab (BitVec 2048)} :
    let i : Instr := .vextr d a b y
    let ty := tyOf s1 (consume t (usesOf i)) y
    let n := (t.s b.toNat).toNat
    let x := elem ty.w (regOf vs a) n
    Issues s t i px → readVectors (opened s t i) [a.toNat] = .ok (s1, vs) →
      runVextr px d a b y s = .next (retired (holding s1 d
        (if ty.count ≤ n then 0 else if ty.fm.isNone then BitVec.ofInt 64 (sgn ty.w x) else BitVec.ofNat 64 x)
        (s1.cycle + 8)) px) := by
  intro i ty n x h hv
  refine issue_retires h ?_
  dsimp only [i] at hv
  simp only [hv, holdS_due, consume_s]
  rfl

/-- VSCAN, whose registers can be read, ends as the write of its held destination does. -/
theorem vscan_retires {s s1 u : State} {t : Thread} {px : Px} {i : Instr} {d a : BitVec 5} {y : BitVec 3}
    {vs : Tab (BitVec 2048)} :
    let t1 := consume t (usesOf i)
    let ty := tyOf s1 t1 y
    let r := lanes px t1 ty.w (regOf vs d) (ty.fm.isSome && effRm px t1 == 5)
      (scanElem ty t1 (effRm px t1) (activeElems px t1 ty.w (regOf vs a)))
    Issues s t i px → isLoadBound (opened s t i) d.toNat = false →
    readVectors (opened s t i) (a.toNat :: mergeReads px d) = .ok (s1, vs) →
    writeHeldVector (s1.setMe (s1.me.note r.flags r.sr)) d r.val (some (s1.cycle + 8)) = .ok (u, .next) →
      vscan px i d a y s = .next (retired u px) := by
  intro t1 ty r h hb hv hw
  refine issue_retires h ?_
  simp only [hb, Bool.false_eq_true, if_false, hv]
  exact hw

/-- Settles O26: the reductions are one form; VEXTR and VSCAN each end as their held destination does. -/
theorem reductions : Obligations.Reductions := by
  refine fun s t i px s1 vs h => ⟨?_, ?_, ?_⟩
  · intro d a y f hx hv t1 ty r
    obtain ⟨he, hr⟩ := runPair_of_redSpec hx s
    exact runsTo_of_runPair he (hr.trans (vred_retires h hv))
  · rintro d a b y rfl hv ty n x
    exact runsTo_of_runPair rfl (runVextr_retires h hv)
  · rintro d a y u rfl hb hv t1 ty r hw
    exact runsTo_of_runPair rfl (vscan_retires h hb hv hw)

/-! ### Conversions (R184, R185) -/

/-- A conversion between types that its member takes, whose registers can be read and written, retires with the new scales and then
the elements written. -/
theorem vconv_retires {s s1 s2 u : State} {t : Thread} {px : Px} {m : Conv} {i : Instr} {d a : BitVec 5} {src dst : BitVec 3}
    {part : Ty → Ty → Nat → Option (Nat × Nat × (Nat → Nat))} {vs : Tab (BitVec 2048)} {lo n : Nat} {g : Nat → Nat} :
    let s0 := opened s t i
    let t1 := consume t (usesOf i)
    let desc := nfDesc s0 t1
    let scaled := bsfOf desc ≠ 0 ∧ px.uc = 1
    let readsVc := scaled ∧ ((src = 7 ∧ m ≠ .pack) ∨ (dst = 7 ∧ m ≠ .unpk))
    let writesVc := scaled ∧ dst = 7 ∧ m ≠ .unpk
    Issues s t i px → part (tyOf s0 t1 src) (tyOf s0 t1 dst) (if writesVc then bszOf desc else 0) = some (lo, n, g) →
    isLoadBound s0 d.toNat = false → (writesVc → isLoadBound s0 px.vc.toNat = false) →
    readVectors s0 ([a.toNat] ++ (if m = .pack then [d.toNat] else mergeReads px d) ++ (if readsVc then [px.vc.toNat] else []))
      = .ok (s1, vs) →
    let r := convertAll px t1 m desc (tyOf s0 t1 src) (tyOf s0 t1 dst) (isNf src) (isNf dst) (regOf vs a) (regOf vs d)
      (regOf vs px.vc) (effRm px t1) lo n g
    (if writesVc ∧ px.vc ≠ d then writeVector (s1.setMe (s1.me.note r.1.flags r.1.sr)) px.vc.toNat r.2
      else .ok (s1.setMe (s1.me.note r.1.flags r.1.sr))) = .ok s2 →
    writeVector s2 d.toNat r.1.val = .ok u →
      vconv px m i d a src dst s part = .next (retired u px) := by
  intro s0 t1 desc scaled readsVc writesVc h hp hb hbc hv r hs hw
  refine issue_retires h ?_
  have hfree : ¬(isLoadBound s0 d.toNat = true ∨ (writesVc ∧ isLoadBound s0 px.vc.toNat = true)) := by
    rintro (hl | ⟨hwr, hl⟩)
    · exact Bool.false_ne_true (hb.symm.trans hl)
    · exact Bool.false_ne_true ((hbc hwr).symm.trans hl)
  dsimp only [s0, t1, desc, scaled, readsVc, writesVc, r] at hp hfree hv hs hw
  simp only [isNf, Conv.scalesSrc, Conv.scalesDst, Bool.and_eq_true, Bool.or_eq_true, bne_iff_ne, beq_iff_eq, and_assoc]
    at hp hfree hv hs hw ⊢
  simp only [hp, if_neg hfree, hv, hs, hw]

/-- Each conversion is one form, with the part of its table, alone and under a prefix. -/
theorem runPair_of_convSpec {i : Instr} {x : ConvForm} (hx : convSpec i = some x) (px : Px) (s : State) :
    exec i s = runPair {} i s ∧ runPair px i s = vconv px x.m i x.d x.a x.src x.dst s x.part := by
  unfold convSpec at hx
  split at hx
  case h_4 => cases hx
  all_goals
    cases hx
    exact ⟨rfl, rfl⟩

/-- Settles O27: the conversions are one form, which writes its scales and then its elements. -/
theorem conversions : Obligations.Conversions := by
  intro s t i px x s1 s2 u vs lo n g s0 t1 desc scaled readsVc writesVc hx h hp hb hbc hv r hs hw
  obtain ⟨he, hr⟩ := runPair_of_convSpec hx px s
  exact runsTo_of_runPair he (hr.trans (vconv_retires h hp hb hbc hv hs hw))

end Sys2Proof.Machine
end

section
/-!
PROOF. Streams and copies (chapter 10).
-/

namespace Sys2Proof.Machine

/-! ### Streams (R52, R207, R208) -/

/-- A register-load that does not reach the end of the pattern moves the position and nothing else. -/
theorem Stream.advance_of_lt {st : Stream} (h : st.pos + st.per < st.total) : st.advance = { st with pos := st.pos + st.per } := by
  simp only [Stream.advance, Nat.min_eq_left h.le, if_neg h.ne]

/-- The register-load that reaches the end of the pattern ends the stream. -/
theorem Stream.advance_of_le {st : Stream} (h : st.total ≤ st.pos + st.per) :
    st.advance = { st with pos := st.total, state := .ended } := by
  simp only [Stream.advance, Nat.min_eq_right h, if_true]

/-- A stream advances within its pattern, never back, and the end of the pattern ends it. -/
theorem Stream.advance_spec {st : Stream} (h : st.pos ≤ st.total) :
    st.advance.pos ≤ st.total ∧ st.pos ≤ st.advance.pos ∧
      (st.pos + st.per < st.total → st.advance.pos = st.pos + st.per ∧ st.advance.state = st.state) ∧
      (st.total ≤ st.pos + st.per → st.advance.pos = st.total ∧ st.advance.state = .ended) :=
  ⟨Nat.min_le_right _ _, Nat.le_min.mpr ⟨Nat.le_add_right _ _, h⟩, fun hlt => by simp only [advance_of_lt hlt, and_self],
    fun hle => by simp only [advance_of_le hle, and_self]⟩

/-- A stream that another slot holds, as its members ask for it. -/
theorem Stream.foreign_of_bound {st : Stream} {slot : Nat} {b : Nat × Nat} (hb : st.bound = some b) (hs : b.1 ≠ slot) :
    (st.bound.any fun b => b.1 != slot) = true := by
  rw [hb]
  exact bne_iff_ne.mpr hs

/-- A stream that no other slot holds. -/
theorem Stream.not_foreign_of_own {st : Stream} {slot : Nat} (h : ∀ b, st.bound = some b → b.1 = slot) :
    ¬(st.bound.any fun b => b.1 != slot) = true := by
  rw [Option.any_eq_true]
  rintro ⟨b, hb, hne⟩
  exact bne_iff_ne.mp hne (h b hb)

/-- A stream that runs or has ended, as SSTOP and SSYNC ask for it. -/
theorem Stream.runs_of_state {st : Stream} (h : st.state = .running ∨ st.state = .ended) :
    (decide (st.state = .running) || decide (st.state = .ended)) = true := by simpa using h

/-- A stream that is unconfigured or configured does not run. -/
theorem Stream.not_runs_of_state {st : Stream} (h : st.state = .unconfigured ∨ st.state = .configured) :
    ¬(decide (st.state = .running) || decide (st.state = .ended)) = true := by
  obtain h | h := h <;> simp [h]

section
variable {s : State} {t : Thread} {i : Instr} {n : BitVec 3}

/-- A member of a stream that another slot holds raises cause 0x0B (R208). -/
theorem strm_foreign {body : Thread → State → Core → Stream → Except Stop (State × Act)} {b : Nat × Nat} (h : Issues s t i)
    (hb : (((opened s t i).core (opened s t i).cur.core).stream n.toNat).bound = some b) (hs : b.1 ≠ s.cur.slot) :
    strm i n s body = .next (faults s 0x0B ((encodeWord i).setWidth 64)) :=
  issue_faults h (if_pos (Stream.foreign_of_bound hb hs))

/-- A member of a stream that no other slot holds retires as its own effect does. -/
theorem strm_retires {s1 : State} {body : Thread → State → Core → Stream → Except Stop (State × Act)} (h : Issues s t i)
    (ho : ∀ b, (((opened s t i).core (opened s t i).cur.core).stream n.toNat).bound = some b → b.1 = s.cur.slot)
    (hb : body (consume t (usesOf i)) (opened s t i) ((opened s t i).core (opened s t i).cur.core)
      (((opened s t i).core (opened s t i).cur.core).stream n.toNat) = .ok (s1, .next)) :
    strm i n s body = .next (retired s1) :=
  issue_retires h ((if_neg (Stream.not_foreign_of_own ho)).trans hb)

/-- Every member that names a stream is of the form that checks who holds it (R208). -/
theorem exec_eq_strm (h : i ∈ [.sunbind n, .sgo n, .sstop n, .ssync n] ∨ (∃ v, i = .sbind v n) ∨ ∃ a b c, i = .scfg a b c n) :
    ∃ body, exec i s = strm i n s body := by
  obtain h | ⟨v, rfl⟩ | ⟨a, b, c, rfl⟩ := h
  · simp only [List.mem_cons, List.not_mem_nil, or_false] at h
    obtain rfl | rfl | rfl | rfl := h
    · exact ⟨_, show execSunbind n s = _ from rfl⟩
    · exact ⟨_, show execSgo n s = _ from rfl⟩
    · exact ⟨_, show execSstop n s = _ from rfl⟩
    · exact ⟨_, show execSsync n s = _ from rfl⟩
  · exact ⟨_, show execSbind v n s = _ from rfl⟩
  · exact ⟨_, show execScfg a b c n s = _ from rfl⟩

/-- A pattern is read from registers that emptying sync sources leaves alone. -/
@[simp] theorem streamSpec_consume (t : Thread) (u : Uses) (st : Stream) (slot : Nat) (i : Instr) :
    streamSpec (consume t u) st slot i = streamSpec t st slot i := by
  unfold streamSpec
  simp only [consume_c, consume_s]

/-- A member of the table other than SBIND puts the stream of its table in the place of its stream. -/
theorem exec_of_streamSpec {st x : Stream} {slot : Nat} (hi : ∀ v m, i ≠ .sbind v m) (hx : streamSpec t st slot i = some (n, x)) :
    ∃ body, exec i s = strm i n s body ∧ ∀ u c, body t u c st = putStream u c n x := by
  unfold streamSpec at hx
  split at hx
  case h_1 =>
    cases hx
    exact ⟨_, show execSunbind n s = _ from rfl, fun _ _ => rfl⟩
  case h_2 c a b m =>
    obtain ⟨y, hy, he⟩ := Option.map_eq_some_iff.mp hx
    cases he
    exact ⟨_, show execScfg c a b n s = _ from rfl, fun _ _ => by simp only [hy]⟩
  case h_3 =>
    split at hx
    · cases hx
    · next hc =>
      cases hx
      exact ⟨_, show execSgo n s = _ from rfl, fun _ _ => if_neg hc⟩
  case h_4 =>
    split at hx
    · next hc =>
      cases hx
      exact ⟨_, show execSstop n s = _ from rfl, fun _ _ => if_pos (Stream.runs_of_state hc)⟩
    · cases hx
  case h_5 =>
    split at hx
    · next hc =>
      cases hx
      exact ⟨_, show execSsync n s = _ from rfl, fun _ _ => (if_pos (Stream.runs_of_state hc.1)).trans (if_neg (by simp [hc.2]))⟩
    · cases hx
  case h_6 v m => exact absurd rfl (hi v m)
  case h_7 => cases hx

end

/-! ### The members of a stream that no other slot holds (R208) -/

section
variable {s : State} {t : Thread} {n : BitVec 3}

/-- A member of the table other than SBIND leaves the stream of its table. -/
theorem exec_streamSpec {i : Instr} {x : Stream} :
    let s0 := opened s t i
    let c := s0.core s0.cur.core
    Issues s t i → (∀ b, (c.stream n.toNat).bound = some b → b.1 = s.cur.slot) → (∀ v m, i ≠ .sbind v m) →
      streamSpec t (c.stream n.toNat) s.cur.slot i = some (n, x) →
        exec i s = .next (retired (s0.setCore s0.cur.core { c with streams := c.streams.set n.toNat x })) := by
  intro s0 c h ho hi hx
  obtain ⟨body, he, hb⟩ := exec_of_streamSpec (s := s) hi ((streamSpec_consume t (usesOf i) _ _ i).trans hx)
  exact he.trans (strm_retires h ho (hb _ _))

/-- SBIND of a register that no stream of the slot has binds it and clears the predicate of the stream. -/
theorem exec_sbind_binds {v : BitVec 5} :
    let s0 := opened s t (.sbind v n)
    let c := s0.core s0.cur.core
    let s1 := s0.setMe { t with preds := t.preds &&& ~~~(1#16 <<< (8 + n.toNat)) }
    Issues s t (.sbind v n) → (∀ b, (c.stream n.toNat).bound = some b → b.1 = s.cur.slot) →
      streamFor c s.cur.slot v.toNat = none →
        exec (.sbind v n) s = .next (retired (s1.setCore s1.cur.core { s1.core s1.cur.core with
          streams := (s1.core s1.cur.core).streams.set n.toNat { c.stream n.toNat with bound := some (s.cur.slot, v.toNat) } })) := by
  intro s0 c s1 h ho hf
  show execSbind v n s = _
  refine strm_retires h ho ?_
  dsimp only [c, s0, opened_cur] at hf ⊢
  simp only [hf]
  rfl

/-- SBIND of a register that a stream of the slot has changes nothing where it is this stream, and raises cause 0x0B where it is
another. -/
theorem exec_sbind_bound {v : BitVec 5} {m : Nat} :
    let s0 := opened s t (.sbind v n)
    let c := s0.core s0.cur.core
    Issues s t (.sbind v n) → (∀ b, (c.stream n.toNat).bound = some b → b.1 = s.cur.slot) →
      streamFor c s.cur.slot v.toNat = some m →
        exec (.sbind v n) s = if m = n.toNat then .next (retired s0)
          else .next (faults s 0x0B ((encodeWord (.sbind v n)).setWidth 64)) := by
  intro s0 c h ho hf
  dsimp only [c, s0, opened_cur] at hf
  show execSbind v n s = _
  split
  · next hm =>
    refine strm_retires h ho ?_
    dsimp only [opened_cur]
    simp only [hf, if_pos hm]
    rfl
  · next hm =>
    refine issue_faults h ((if_neg (Stream.not_foreign_of_own ho)).trans ?_)
    dsimp only [opened_cur]
    simp only [hf, if_neg hm]
    rfl

/-- SSTOP and SSYNC of a stream that does not run change nothing. -/
theorem exec_sstop_ssync_idle {i : Instr} :
    let s0 := opened s t i
    let st := (s0.core s0.cur.core).stream n.toNat
    Issues s t i → (∀ b, st.bound = some b → b.1 = s.cur.slot) → i = .sstop n ∨ i = .ssync n →
      st.state = .unconfigured ∨ st.state = .configured → exec i s = .next (retired s0) := by
  rintro s0 st h ho (rfl | rfl) hst
  · show execSstop n s = _
    exact strm_retires h ho (if_neg (Stream.not_runs_of_state hst))
  · show execSsync n s = _
    exact strm_retires h ho (if_neg (Stream.not_runs_of_state hst))

/-- SSYNC of a store stream performs the elements that it has pushed. -/
theorem exec_ssync_performs :
    let s0 := opened s t (.ssync n)
    let st := (s0.core s0.cur.core).stream n.toNat
    Issues s t (.ssync n) → (∀ b, st.bound = some b → b.1 = s.cur.slot) → st.state = .running ∨ st.state = .ended → st.store = true →
      exec (.ssync n) s =
        .next (retired (performWhere s0 s0.myPath fun p => p.stream == some n.toNat && p.loc.core == s0.cur.core)) := by
  intro s0 st h ho hst hs
  show execSsync n s = _
  exact strm_retires h ho ((if_pos (Stream.runs_of_state hst)).trans (if_pos hs))

end

/-- Settles O35: the advance of a stream, the check that all members share, and each kind of member by its own lemma. -/
theorem streamMembers : Obligations.StreamMembers := by
  refine ⟨fun _ => Stream.advance_spec, fun s t i n => ⟨?_, fun h ho =>
    ⟨fun x => exec_streamSpec h ho, ?_, ?_, exec_sstop_ssync_idle h ho, ?_⟩⟩⟩
  · rintro h hi ⟨b, hb, hs⟩
    obtain ⟨body, he⟩ := exec_eq_strm (s := s) hi
    exact he.trans (strm_foreign h hb hs)
  · rintro v x rfl hx hf
    cases hx
    exact exec_sbind_binds h ho hf
  · rintro v m rfl hf
    exact exec_sbind_bound h ho hf
  · rintro rfl hst hs
    exact exec_ssync_performs h ho hst hs

/-! ### Copies (R211, R212) -/

/-- Each copy member is one form, with the number and the fields of its table. -/
theorem exec_of_copySpec {i : Instr} {op : Nat} {d da sa : BitVec 5} {cd cs : BitVec 4} (h : copySpec i = some (op, d, cd, da, cs, sa))
    (s : State) : exec i s = copyMember i op d cd da cs sa s := by
  unfold copySpec at h
  split at h
  case h_5 => cases h
  all_goals
    cases h
    rfl

/-- The complete command of a copy member, with everything that it reads at issue (R212). -/
def copyCommand (s : State) (t : Thread) (q0 : CopyCmd) (d da sa : BitVec 5) (cd cs : BitVec 4) : CopyCmd :=
  { q0 with
    loc := s.cur, handle := s.handleOf s.cur, launch := t.launch, rcb := t.rcb, reg := d.toNat
    src := t.c cs.toNat, dst := t.c cd.toNat, srcAddr := (t.c cs.toNat).base + (t.s sa.toNat).toNat
    dstAddr := (t.c cd.toNat).base + (t.s da.toNat).toNat, banks := bankDescs (s.cluster (clusterOf s.cur.core))
    asid := t.asid, crewId := t.crewId }

section
variable {s : State} {t : Thread} {i : Instr} {op : Nat} {d da sa : BitVec 5} {cd cs : BitVec 4} {q0 : CopyCmd}
  (h : Issues s t i) (hq : decodeCopy (opened s t i) (consume t (usesOf i)) op ((consume t (usesOf i)).s d.toNat) = some q0)
  (hc : copyCheck (opened s t i) (consume t (usesOf i)) (copyCommand (opened s t i) (consume t (usesOf i)) q0 d da sa cd cs) = none)
include h hq hc

/-- A copy of no bytes whose command passes the checks fills its token with 0. -/
theorem copyMember_empty (h0 : q0.count = 0) :
    copyMember i op d cd da cs sa s = .next (retired ((opened s t i).setMe ((opened s t i).me.fill d.toNat 0))) := by
  refine issue_retires h ?_
  unfold copyCommand at hc
  simp only [hq, hc, if_pos h0]

/-- A copy of some bytes whose command passes the checks joins the queue that has room. -/
theorem copyMember_queues (h0 : q0.count ≠ 0) (hl : ((opened s t i).cluster (clusterOf (opened s t i).cur.core)).copies.length < 16) :
    let k := clusterOf (opened s t i).cur.core
    let s1 := claimMe (drain (opened s t i) (opened s t i).myPath) d
    copyMember i op d cd da cs sa s = .next (retired (s1.setCluster k { s1.cluster k with
      copies := (s1.cluster k).copies ++ [copyCommand (opened s t i) (consume t (usesOf i)) q0 d da sa cd cs] })) := by
  refine issue_retires h ?_
  unfold copyCommand at hc ⊢
  simp only [hq, hc, if_neg h0, if_neg (Nat.not_le.mpr hl)]

end

/-- Settles O36: a copy member is one form, which fills its token or joins the queue. -/
theorem copies : Obligations.Copies := by
  intro s t i op d da sa cd cs q0 s0 t1 k q hi h hq hc
  rw [exec_of_copySpec hi]
  exact ⟨copyMember_empty h hq hc, copyMember_queues h hq hc⟩

end Sys2Proof.Machine
end

section
/-!
PROOF. Sequences (chapter 11): the members that read or draw from a block, those that commit, truncate and fork, and the text
members.
-/

namespace Sys2Proof.Machine

/-! ### Members that read their block (R229, R240, R250) -/

/-- What a member reads of its block does not depend on full bits. -/
theorem seqReadSpec_consume (t : Thread) (u : Uses) (b : Nat) (i : Instr) : seqReadSpec (consume t u) b i = seqReadSpec t b i := by
  cases i
  case tkstat => simp only [seqReadSpec, consume_s]
  case rndu => simp only [seqReadSpec, consume_s]
  all_goals rfl

/-- A member of the table of R229, R240 and R250 is a sequence member with a scalar destination, which leaves the state and answers the
word of its table. -/
theorem exec_of_seqReadSpec {t : Thread} {i : Instr} {o : Opened} {d : BitVec 5} {c : BitVec 4} {r : Refuses} {v : Word}
    (h : seqReadSpec t o.b i = some (d, c, r, v)) (s : State) :
    ∃ body, exec i s = seqScalar i d c r s body ∧ ∀ u, body t u o = .ok (u, v) := by
  unfold seqReadSpec at h
  split at h
  case h_1 d c =>
    cases h
    exact ⟨_, show execTkforce d c s = _ from rfl, fun _ => rfl⟩
  case h_2 d a c =>
    cases h
    exact ⟨_, show execTkstat d a c s = _ from rfl, fun _ => rfl⟩
  case h_3 d a c =>
    cases h
    exact ⟨_, show execRndu d a c s = _ from rfl, fun _ => rfl⟩
  case h_4 => cases h

section
variable {s : State} {t : Thread} {i : Instr} {o : Opened}

/-- A member that reads its block holds its destination for the word of its table. -/
theorem exec_seqReadSpec {d : BitVec 5} {c : BitVec 4} {r : Refuses} {v : Word} (h : Issues s t i)
    (hv : seqReadSpec t o.b i = some (d, c, r, v)) (hd : Room t d)
    (ho : openBlock (settled s t i) (consume t (usesOf i)) i c r = .ok o) :
    exec i s = .next (retired (awaiting (reachBlock (settled s t i) o.places) d v)) := by
  obtain ⟨body, he, hb⟩ := exec_of_seqReadSpec ((seqReadSpec_consume t (usesOf i) o.b i).trans hv) s
  exact he.trans (seqScalar_ok h hd ho (hb _))

/-! ### Members that write their block (R242, R243) -/

/-- The table of R242 and R243 is that of TKDRAW and TKCKPT, each with its own destination and block. -/
theorem instr_of_seqWriteSpec {b b' : Nat} {d : BitVec 5} {c : BitVec 4} (hb : seqWriteSpec t b i = some (d, c, b')) :
    (∃ a, i = .tkdraw d a c) ∨ (d = 0 ∧ i = .tkckpt c) := by
  unfold seqWriteSpec at hb
  split at hb
  case h_1 d a c =>
    refine .inl ⟨a, ?_⟩
    dsimp only at hb
    generalize (if flagF b 0 = true then 0x2C4 else 0x14) = off at hb
    split at hb
    · split at hb
      · cases hb
      · cases hb
        rfl
    · cases hb
      rfl
    · split at hb
      · cases hb
        rfl
      · cases hb
    · cases hb
      rfl
  case h_2 c =>
    cases hb
    exact .inr ⟨rfl, rfl⟩
  case h_3 => cases hb

/-- TKDRAW writes the block of its table and answers the cursor (R242). -/
theorem exec_tkdraw_writes {d a : BitVec 5} {c : BitVec 4} {b' : Nat} (h : Issues s t (.tkdraw d a c)) (hd : Room t d)
    (hb : seqWriteSpec t o.b (.tkdraw d a c) = some (d, c, b'))
    (ho : openBlock (settled s t (.tkdraw d a c)) (consume t (usesOf (.tkdraw d a c))) (.tkdraw d a c) c { faulted := true } = .ok o) :
    exec (.tkdraw d a c) s = .next (retired (awaiting (writeBlock (reachBlock (settled s t (.tkdraw d a c)) o.places)
      (consume t (usesOf (.tkdraw d a c))) o.places o.b b') d (cursorWord b'))) := by
  show execTkdraw d a c s = _
  refine seqScalar_ok h hd ho ?_
  dsimp only [seqWriteSpec] at hb ⊢
  rw [consume_s]
  generalize (if flagF o.b 0 = true then 0x2C4 else 0x14) = off at hb ⊢
  generalize (t.s a.toNat).toNat % 4 = k at hb ⊢
  rcases k with _ | _ | _ | k
  · obtain ⟨hn, hb⟩ := Option.ite_none_left_eq_some.mp hb
    cases hb
    exact if_neg hn
  · cases hb
    rfl
  · obtain ⟨hf, hb⟩ := Option.ite_none_right_eq_some.mp hb
    simp only [Option.some.injEq, Prod.mk.injEq, true_and] at hb
    rw [← hb]
    exact if_pos hf
  · cases hb
    rfl

/-- TKCKPT writes the checkpoint of its block (R243). -/
theorem exec_tkckpt_writes {c : BitVec 4} {b' : Nat} (h : Issues s t (.tkckpt c))
    (hb : seqWriteSpec t o.b (.tkckpt c) = some (0, c, b'))
    (ho : openBlock (settled s t (.tkckpt c)) (consume t (usesOf (.tkckpt c))) (.tkckpt c) c { faulted := true } = .ok o) :
    exec (.tkckpt c) s = .next (retired (awaiting (writeBlock (reachBlock (settled s t (.tkckpt c)) o.places)
      (consume t (usesOf (.tkckpt c))) o.places o.b b') 0 (cursorWord b'))) := by
  cases hb
  show execTkckpt c s = _
  exact seqMember_ok (a := .next) h ho rfl

/-- A member of the table of R242 and R243 writes the block that it gives, and answers the cursor in a destination. -/
theorem exec_seqWriteSpec {d : BitVec 5} {c : BitVec 4} {b' : Nat} (h : Issues s t i)
    (hb : seqWriteSpec t o.b i = some (d, c, b')) (hd : Room t d)
    (ho : openBlock (settled s t i) (consume t (usesOf i)) i c { faulted := true } = .ok o) :
    exec i s = .next (retired (awaiting (writeBlock (reachBlock (settled s t i) o.places) (consume t (usesOf i)) o.places o.b b') d
      (cursorWord b'))) := by
  obtain ⟨a, rfl⟩ | ⟨rfl, rfl⟩ := instr_of_seqWriteSpec hb
  · exact exec_tkdraw_writes h hd hb ho
  · exact exec_tkckpt_writes h hb ho

/-! ### Vectors of draws and the mask (R229, R241) -/

/-- RNDV and RNDG are one form, with the function of a draw of their table (R229). -/
theorem exec_of_drawSpec {r a : BitVec 5} {c : BitVec 4} {f : BitVec 32 → Nat} (h : drawSpec i = some (r, a, c, f)) (s : State) :
    exec i s = rndVector i r a c s f := by
  unfold drawSpec at h
  split at h
  case h_3 => cases h
  all_goals
    cases h
    rfl

/-- A vector of draws fills the word lanes of its register. -/
theorem rndVector_writes {u : State} {r a : BitVec 5} {c : BitVec 4} {f : BitVec 32 → Nat} (h : Issues s t i)
    (ho : openBlock (settled s t i) (consume t (usesOf i)) i c { faulted := true } = .ok o)
    (hw : writeVector (reachBlock (settled s t i) o.places) r.toNat
      (lanesOf 32 ((List.range 64).map fun j => f (drawWord o.b ((t.s a.toNat).toNat + j)))) = .ok u) :
    rndVector i r a c s f = .next (retired u) := by
  refine seqMember_ok (a := .next) h ho ?_
  dsimp only
  rw [consume_s, isLoadBound_of_writeVector hw, hw]
  rfl

/-- The lanes of ids from e on whose counts TKMASK reads (R241). -/
def countedLanes (v : Vocab) (b e : Nat) : List Nat :=
  if flagF b 2 ∧ getF b 0x1CC 1 ≠ 0xFF then (List.range 64).filter fun j => e + j < v.ntok else []

/-- The lanes as TKMASK selects them. -/
theorem countedLanes_eq (v : Vocab) (b e : Nat) :
    (if flagF b 2 && getF b 0x1CC 1 != noIndex then (List.range 64).filter fun j => e + j < v.ntok else []) = countedLanes v b e :=
  if_congr (by simp [noIndex]) rfl rfl

/-- A logit of an id after TKMASK, which has been counted n times (R241). -/
def maskedLogit (v : Vocab) (b id x n : Nat) : Nat :=
  if masked v b id then 0xFF800000
  else if n = 0 ∨ (fmF32.value x).isNan then x
  else penalize x (getF b 0x1C0 4) (getF b 0x1C4 4) (getF b 0x1C8 4) n

/-- The logit as TKMASK computes it. -/
theorem maskedLogit_eq (v : Vocab) (b id x n : Nat) :
    (if masked v b id then 0xFF800000
      else if n = 0 || (fmF32.value x).isNan then x
      else penalize x (getF b 0x1C0 4) (getF b 0x1C4 4) (getF b 0x1C8 4) n) = maskedLogit v b id x n :=
  if_congr Iff.rfl rfl (if_congr (by simp) rfl rfl)

/-- TKMASK masks and penalizes the logits of its lanes (R241). -/
theorem exec_tkmask_masks {s3 u : State} {r a : BitVec 5} {c : BitVec 4} {ps : List Place} {vs : Tab (BitVec 2048)}
    (h : Issues s t (.tkmask r a c)) :
    let i : Instr := .tkmask r a c
    let s2 := reachBlock (settled s t i) o.places
    let t1 := consume t (usesOf i)
    let e := (t.s a.toNat).toNat
    let counted := countedLanes o.v o.b e
    openBlock (settled s t i) t1 i c { faulted := true } = .ok o →
    sidePlaces s2 t1 (getF o.b 0x1CC 1) 2 permR { r := true } (counted.map fun j => 2 * (e + j)) = .ok ps →
    isLoadBound s2 r.toNat = false →
    readVectors (ps.foldl State.reachAt (reachEntries s2 t1 (usedIf counted [getF o.b 0x1CC 1]))) [r.toNat] = .ok (s3, vs) →
    let counts : Tab Nat := counted.zip (ps.map fun p => sideGet s3 p 2)
    writeVector s3 r.toNat (lanesOf 32 ((List.range 64).map fun j =>
      maskedLogit o.v o.b (e + j) (elem 32 (vs.get 0 r.toNat) j) (counts.get 0 j))) = .ok u →
      exec i s = .next (retired u) := by
  intro i s2 t1 e counted ho hp hl hr counts hw
  show execTkmask r a c s = _
  refine seqMember_ok (a := .next) h ho ?_
  dsimp only [i, s2, t1, e, counted, counts] at hp hl hr hw
  simp only [consume_s, countedLanes_eq, hp, hl, hr, maskedLogit_eq, hw]
  rfl

end

/-- Settles O37: the members that read or write their block by their tables, the draws by one form, and TKMASK. -/
theorem sequenceBlock : Obligations.SequenceBlock := by
  intro s t i o h
  refine ⟨fun d c r v => exec_seqReadSpec h, fun d c b' => exec_seqWriteSpec h, ?_, ?_⟩
  · intro r a c f u hf ho hw
    exact (exec_of_drawSpec hf s).trans (rndVector_writes h ho hw)
  · rintro r a c ps s3 u vs rfl ho
    exact exec_tkmask_masks h ho

/-! ### TKCOMMIT, TKTRUNC and TKFORK (R237, R238, R244, R245) -/

section
variable {s : State} {t : Thread} {d : BitVec 5} {c : BitVec 4} {o : Opened}

/-- TKCOMMIT commits its id to the block, the history and the counts, and answers the status (R237, R238). -/
theorem exec_tkcommit_commits {a : BitVec 5} {f : BitVec 1} {hist cnt : List Place} (hd : Room t d) :
    let i : Instr := .tkcommit d a f c
    let s1 := settled s t i
    let s2 := reachBlock s1 o.places
    let t1 := consume t (usesOf i)
    let id := (t.s a.toNat).toNat % 2 ^ 32
    Issues s t i → openBlock s1 t1 i c { stopped := true, faulted := true } = .ok o →
    sideOpt s2 t1 (getF o.b 0x508 1) (4 * posF o.b) 4 permW { w := true } = .ok hist →
    sideOpt s2 t1 (getF o.b 0x1CC 1) (2 * id) 2 (permR ||| permW) { r := true, w := true } = .ok cnt →
    id < o.v.ntok → posF o.b ≠ 0xFFFFFFFF → (stateF o.b = 2 → f = 1 ∧ id = getF o.b (0x30 + 4 * headF o.b) 4) →
      let r := commit s2 o.v o.b id (f == 1)
      let s0 := reachEntries (reachText s2 o.v id) t1 [getF o.b 0x1CC 1, getF o.b 0x508 1]
      let s3 := sideUpdate (sideUpdate s0 t1 4 (fun _ => id) hist) t1 2 (fun n => min (n + 1) 65535) cnt
      exec i s = .next (retired (awaiting (writeBlock s3 t1 o.places o.b r.b) d (statusOf r))) := by
  intro i s1 s2 t1 id h ho hh hc hid hpos hforced r s0 s3
  show execTkcommit d a f c s = _
  refine seqScalar_ok h hd ho ?_
  dsimp only
  rw [consume_s, hc, hh]
  refine (if_neg ?_).trans (if_neg ?_)
  · simp only [Bool.or_eq_true, decide_eq_true_eq, not_or]
    exact ⟨Nat.not_le.mpr hid, hpos⟩
  · simp only [Bool.and_eq_true, decide_eq_true_eq, Bool.or_eq_true, bne_iff_ne]
    rintro ⟨hstate, hbad⟩
    obtain ⟨hf, hhead⟩ := hforced hstate
    rcases hbad with hzero | hne
    · simp [hf] at hzero
    · exact hne hhead

/-- The block that TKTRUNC leaves: the checkpoint's, with the draw given and a number of pages (R244). -/
def truncatedBlock (b draw pages : Nat) : Nat :=
  let b1 := copyF (copyF (copyF b 0x10 0x50 b 0x300) 0x100 0x10 b 0x350) 0x120 0xA0 b 0x360
  let b2 := putF (putF b1 0x50 1 0) 0x51 1 0
  let b3 := if stateF b2 = 2 then setStateF b2 0 else b2
  let b4 := putF (putF (putF b3 0x14 4 draw) 0x2C0 4 (posF b3)) 0x2C4 4 draw
  putF (setFlagF b4 0 false) 0x504 4 pages

/-- TKTRUNC goes back to the checkpoint of its block, and gives back counts and pages (R244). -/
theorem exec_tktrunc_truncates {a : BitVec 5} {counts refs : List Place × List Place} (hd : Room t d) :
    let i : Instr := .tktrunc d a c
    let s1 := settled s t i
    let s2 := reachBlock s1 o.places
    let t1 := consume t (usesOf i)
    let ck := getF o.b 0x300 4
    let draw := (t.s a.toNat).toNat % 2 ^ 32
    let len := getF o.b 0x504 4
    let l := (ck + getF o.b 0x502 2 - 1) / getF o.b 0x502 2
    let drops := if getF o.b 0x500 1 = 0xFF then 0 else len - l
    Issues s t i → openBlock s1 t1 i c {} = .ok o →
    (if getF o.b 0x508 1 = 0xFF ∨ getF o.b 0x1CC 1 = 0xFF then .ok ([], [])
      else countPlaces s2 t1 (getF o.b 0x508 1) (getF o.b 0x1CC 1) ck (posF o.b - ck)) = .ok counts →
    (if getF o.b 0x501 1 = 0xFF then .ok ([], []) else refPlaces s2 t1 (getF o.b 0x500 1) (getF o.b 0x501 1) l drops) = .ok refs →
    flagF o.b 1 = true → draw ≤ 0xFFFFFFFD →
      let s0 := reachEntries s2 t1 (usedIf counts.1 [getF o.b 0x508 1, getF o.b 0x1CC 1] ++
        usedIf refs.1 [getF o.b 0x500 1, getF o.b 0x501 1])
      let x := zeroedBy (sideUpdate ((counts.1 ++ refs.1).foldl State.reachAt s0) t1 2 (fun n => n - 1) counts.2) t1 refs.2
      exec i s = .next (retired (awaiting
        (writeBlock x.1 t1 o.places o.b (truncatedBlock o.b draw (min len l))) d
        (BitVec.ofNat 64 (drops ||| x.2 * 2 ^ 16)))) := by
  intro i s1 s2 t1 ck draw len l drops h ho hc hr hf hdraw s0 x
  show execTktrunc d a c s = _
  refine seqScalar_ok h hd ho ?_
  have hc' : (if getF o.b 0x508 1 = noIndex || getF o.b 0x1CC 1 = noIndex then .ok ([], [])
      else countPlaces s2 t1 (getF o.b 0x508 1) (getF o.b 0x1CC 1) ck (posF o.b - ck)) = .ok counts :=
    (if_congr (by simp only [Bool.or_eq_true, decide_eq_true_eq]; rfl) rfl rfl).trans hc
  change (if getF o.b 0x501 1 = noIndex then .ok ([], []) else refPlaces s2 t1 (getF o.b 0x500 1) (getF o.b 0x501 1) l
    (if getF o.b 0x500 1 = noIndex then 0 else len - l)) = .ok refs at hr
  dsimp only
  rw [consume_s, hc']
  dsimp only
  rw [hr]
  refine if_neg ?_
  simp only [hf, Bool.not_true, Bool.false_or, decide_eq_true_eq]
  exact Nat.not_lt.mpr hdraw

/-- TKFORK writes the child's block and tables, and answers its number (R245). -/
theorem exec_tkfork_forks {e : BitVec 4} {cps : List (Nat × Nat × Place)} {counts hist list : List (Place × Place)}
    {refs : List Place × List Place} (hd : Room t d) :
    let i : Instr := .tkfork d e c
    let s1 := settled s t i
    let s2 := reachBlock s1 o.places
    let t1 := consume t (usesOf i)
    Issues s t i → openBlock s1 t1 i c { faulted := true } (some e) = .ok o → blockPlaces s2 t1 (t.c e.toNat) = .ok cps →
    let p := o.b
    let old := placesNat s2 cps
    let pages := getF p 0x504 4
    copyPairs s2 t1 (getF p 0x1CC 1) (getF old 0x1CC 1) 2 o.v.ntok = .ok counts →
    copyPairs s2 t1 (getF p 0x508 1) (getF old 0x508 1) 4 (posF p) = .ok hist →
    copyPairs s2 t1 (getF p 0x500 1) (getF old 0x500 1) 4 pages = .ok list →
    (if getF p 0x500 1 ≠ 0xFF ∧ getF old 0x500 1 ≠ 0xFF ∧ getF p 0x501 1 ≠ 0xFF then
      refPlaces s2 t1 (getF p 0x500 1) (getF p 0x501 1) 0 pages else .ok ([], [])) = .ok refs →
    (t.c e.toNat).base ≠ (t.c c.toNat).base → getF p 0x06 2 ≠ 0xFFFF →
      let s0 := reachEntries s2 t1 (usedIf counts [getF p 0x1CC 1, getF old 0x1CC 1] ++
        usedIf hist [getF p 0x508 1, getF old 0x508 1] ++ usedIf list [getF p 0x500 1, getF old 0x500 1] ++
        usedIf refs.1 [getF p 0x501 1])
      let s3 := sideCopy (sideCopy (sideCopy s0 t1 2 counts) t1 4 hist) t1 4 list
      let s4 := writeBlock (refsRaised (refs.1.foldl State.reachAt s3) t1 refs.2) t1 cps old (childOf p old)
      exec i s = .next (retired (awaiting (writeBlock s4 t1 o.places p (putF p 0x06 2 (getF p 0x06 2 + 1))) d
        (BitVec.ofNat 64 (getF (childOf p old) 0 4)))) := by
  intro i s1 s2 t1 h ho hp p old pages hcnt hh hl hr hne hmax s0 s3 s4
  show execTkfork d e c s = _
  refine seqScalar_ok h hd ho ?_
  have hr' : (if (getF p 0x500 1 != noIndex && getF old 0x500 1 != noIndex) && getF p 0x501 1 != noIndex then
      refPlaces s2 t1 (getF p 0x500 1) (getF p 0x501 1) 0 pages else .ok ([], [])) = .ok refs :=
    (if_congr (by simp [noIndex, and_assoc]) rfl rfl).trans hr
  dsimp only [s2, t1, s1, i, p, old, pages] at hp hcnt hh hl hr'
  simp only [consume_c, hp, hcnt, hh, hl, hr']
  refine if_neg ?_
  simp only [Bool.or_eq_true, decide_eq_true_eq, not_or]
  exact ⟨hne, hmax⟩

end

/-- Settles O38: TKCOMMIT, TKTRUNC and TKFORK each by what it writes. -/
theorem sequenceTokens : Obligations.SequenceTokens :=
  fun _ _ _ _ _ hd => ⟨fun _ _ _ _ => exec_tkcommit_commits hd, fun _ _ _ => exec_tktrunc_truncates hd,
    fun _ _ _ _ _ _ => exec_tkfork_forks hd⟩

/-! ### Text (R226, R227) -/

section
variable {s : State} {t : Thread} {d : BitVec 5} {a b r : BitVec 4} {ps src dst : List (Nat × Nat × Place)}

/-- TKENC writes as many ids as fit, and answers how many there are and how many it wrote (R226). -/
theorem exec_tkenc_encodes {xs : List Nat} (hd : Room t d) :
    let n := bitsOf (t.s d.toNat) 31 0
    let room := bitsOf (t.s d.toNat) 63 32
    let i : Instr := .tkenc d a b r
    let s1 := settled s t i
    let s2 := reachBlock s1 ps
    let t1 := consume t (usesOf i)
    Issues s t i → blockPlaces s1 t1 (t.c r.toNat) = .ok ps →
    let v := vocabOf s1 (placesNat s1 ps)
    v.valid = true → textSpan s2 t1 (t.c a.toNat) n 1 permR { r := true } = .ok src →
    textSpan s2 t1 (t.c b.toNat) (4 * room) 4 permW { w := true } = .ok dst → n ≤ 65536 →
    byteTokens s2 v ((List.range n).map fun k => getF (placesNat s2 src) k 1) = some xs →
      let ids := mergeAll s2 v n xs
      exec i s = .next (retired (awaiting (writeSpan (reachEncode (reachAll s2 src) v n) t1 dst (wordsBytes (ids.take room))) d
        (BitVec.ofNat 64 (ids.length + (min room ids.length) * 2 ^ 32)))) := by
  intro n room i s1 s2 t1 h hp v hv hsrc hdst hn hx ids
  show execTkenc d a b r s = _
  unfold execTkenc
  refine textMember_ok h hd hp hv ?_
  dsimp only [n, room, i, s1, s2, t1, v] at hsrc hdst hn hx
  simp only [consume_s, consume_c, hsrc, hdst, if_neg (Nat.not_lt.mpr hn), hx, List.length_take]
  rfl

/-- TKDEC writes the bytes of the ids that fit, and answers how many ids and bytes (R227). -/
theorem exec_tkdec_decodes {x : BitVec 1} (hd : Room t d) :
    let n := bitsOf (t.s d.toNat) 31 0
    let room := bitsOf (t.s d.toNat) 63 32
    let i : Instr := .tkdec d a b x r
    let s1 := settled s t i
    let s2 := reachBlock s1 ps
    let t1 := consume t (usesOf i)
    Issues s t i → blockPlaces s1 t1 (t.c r.toNat) = .ok ps →
    let v := vocabOf s1 (placesNat s1 ps)
    v.valid = true → textSpan s2 t1 (t.c a.toNat) (4 * n) 4 permR { r := true } = .ok src →
    textSpan s2 t1 (t.c b.toNat) room 1 permW { w := true } = .ok dst →
      let ids := (List.range n).map fun k => getF (placesNat s2 src) (4 * k) 4
      let out := decodeIds s2 v (x == 1) room ids (0, [])
      exec i s = .next (retired (awaiting (writeSpan (reachDecode (reachAll s2 src) v (x == 1) (ids.take (out.1 + 1))) t1 dst out.2) d
        (BitVec.ofNat 64 (out.1 + out.2.length * 2 ^ 32)))) := by
  intro n room i s1 s2 t1 h hp v hv hsrc hdst ids out
  show execTkdec d a b x r s = _
  refine textMember_ok h hd hp hv ?_
  dsimp only [n, room, i, s1, s2, t1] at hsrc hdst
  simp only [consume_s, consume_c, hsrc, hdst]
  rfl

end

/-- Settles O39: TKENC and TKDEC each by what it writes. -/
theorem textMembers : Obligations.TextMembers :=
  fun _ _ _ _ _ _ _ _ _ hd => ⟨fun _ => exec_tkenc_encodes hd, fun _ => exec_tkdec_decodes hd⟩

end Sys2Proof.Machine
end

section
/-!
SUPPORT. Memory keeps its form (log 1) through the functions of the model: the stores performed, regions and launches, records saved,
threads and crews that end, and the ways in which an instruction ends.
-/

namespace Sys2Proof.Machine

/-! ### Updates of the state that memory is no part of -/

@[simp] theorem State.setSlot_mem (s : State) (l : Loc) (x : Slot) : (s.setSlot l x).mem = s.mem := rfl
@[simp] theorem State.onThread_mem (s : State) (l : Loc) (f : Thread → Thread) : (s.onThread l f).mem = s.mem := by
  unfold State.onThread
  split <;> rfl
@[simp] theorem State.setRing_mem (s : State) (k q : Nat) (r : Ring) : (s.setRing k q r).mem = s.mem := rfl
@[simp] theorem State.reach_mem (s : State) (asid va : Nat) : (s.reach asid va).mem = s.mem := rfl
@[simp] theorem State.walked_mem (s : State) (asid va : Nat) : (s.walked asid va).mem = s.mem := rfl
@[simp] theorem State.setPred_mem (s : State) (n : Nat) (b : Bool) : (s.setPred n b).mem = s.mem := rfl
@[simp] theorem State.wr_mem (s : State) (n : Nat) (v : Word) : (s.wr n v).mem = s.mem := rfl
@[simp] theorem State.setCap_mem (s : State) (n : Nat) (c : Cap) : (s.setCap n c).mem = s.mem := rfl

/-- A fold of steps that leave memory alone leaves it alone. -/
theorem foldl_mem {α : Type} {f : State → α → State} (hf : ∀ s a, (f s a).mem = s.mem) (l : List α) (s : State) :
    (l.foldl f s).mem = s.mem := by
  induction l generalizing s with
  | nil => rfl
  | cons a l ih => rw [List.foldl_cons, ih, hf]

@[simp] theorem State.reachStop_mem (s : State) (e : Stop) : (s.reachStop e).mem = s.mem := by
  unfold State.reachStop
  split <;> rfl

@[simp] theorem State.reachAt_mem (s : State) (pl : Place) : (s.reachAt pl).mem = s.mem := by
  unfold State.reachAt
  split <;> rfl

@[simp] theorem State.reachRange_mem (s : State) (asid addr size : Nat) : (s.reachRange asid addr size).mem = s.mem :=
  foldl_mem (fun _ _ => by rfl) _ s

@[simp] theorem reachRegion_mem (s : State) (r : Nat) : (reachRegion s r).mem = s.mem :=
  foldl_mem (f := fun s a => (s.reach 0 a).reach 0 (a + 128)) (fun _ _ => rfl) _ s

@[simp] theorem reachTable_mem (s : State) (asid : Nat) (root : Cap) : (reachTable s asid root).mem = s.mem := rfl

@[simp] theorem reachArea_mem (s : State) (c : Cap) (va size : Nat) : (reachArea s c va size).mem = s.mem :=
  foldl_mem (fun s a => by split <;> simp) _ s

@[simp] theorem completeAt_mem (s : State) (l : Loc) (f : Thread → Thread) : (completeAt s l f).mem = s.mem :=
  State.onThread_mem ..

@[simp] theorem ringAnswer_mem (s : State) (l : Loc) (reg pred : Nat) (v : BitVec 32) (b : Bool) :
    (ringAnswer s l reg pred v b).mem = s.mem := completeAt_mem ..

@[simp] theorem ringServe_mem (s : State) (k q : Nat) (ls : List Loc) : (ringServe s k q ls).mem = s.mem := by
  induction ls generalizing s with
  | nil => rfl
  | cons l ls ih =>
    unfold ringServe
    dsimp only
    repeat' split
    all_goals simp [ih]

@[simp] theorem ringWake_mem (s : State) (k q : Nat) : (ringWake s k q).mem = s.mem := by simp [ringWake]

@[simp] theorem publishAll_mem (s : State) (k : Nat) (ps : List (Nat × BitVec 32)) : (publishAll s k ps).mem = s.mem :=
  foldl_mem (fun _ _ => by simp) ps s

@[simp] theorem applyWake_mem (s : State) (l : Loc) : (applyWake s l).mem = s.mem := by
  unfold applyWake
  split <;> simp

@[simp] theorem kickAll_mem (s : State) (hs : List Nat) : (kickAll s hs).mem = s.mem := foldl_mem (fun _ _ => by simp) hs s

@[simp] theorem endBringup_mem (s : State) (p : PStore) : (endBringup s p).mem = s.mem := by
  unfold endBringup
  split <;> rfl

@[simp] theorem pushStore_mem (s : State) (path : Nat) (p : PStore) : (pushStore s path p).mem = s.mem := rfl
@[simp] theorem pushPieces_mem (s : State) (path : Nat) (ls : List PStore) : (pushPieces s path ls).mem = s.mem := rfl
@[simp] theorem pushWide_mem (s : State) (path : Nat) (ps : List PStore) : (pushWide s path ps).mem = s.mem := rfl
@[simp] theorem pushRows_mem (s : State) (path : Nat) (rows : List (List PStore)) : (pushRows s path rows).mem = s.mem := rfl

@[simp] theorem dropSpills_mem (s : State) (ident : Word) : (dropSpills s ident).mem = s.mem := rfl
@[simp] theorem send_mem (s : State) (d : Delivery) : (send s d).mem = s.mem := rfl
@[simp] theorem sendEvent_mem (s : State) (l : Loc) (d offset : Nat) (s1 s2 s3 s4 launch : Word) (rcb sender : Nat) :
    (sendEvent s l d offset s1 s2 s3 s4 launch rcb sender).mem = s.mem := rfl
@[simp] theorem pageEvent_mem (s : State) (l : Loc) (handle epc launch : Word) (rcb va sender : Nat) :
    (pageEvent s l handle epc launch rcb va sender).mem = s.mem := rfl

@[simp] theorem noteFlags_mem (s : State) (h launch : Word) (flags : BitVec 64) : (noteFlags s h launch flags).mem = s.mem := by
  unfold noteFlags
  dsimp only
  repeat' split
  all_goals simp

@[simp] theorem unqueue_mem (s : State) (l : Loc) : (unqueue s l).mem = s.mem := by
  unfold unqueue
  dsimp only
  split <;> rfl

@[simp] theorem releaseCore_mem (s : State) (c : Crew) (id : Nat) : (releaseCore s c id).mem = s.mem := rfl
@[simp] theorem dropKilled_mem (s : State) (r : Nat) : (dropKilled s r).mem = s.mem := rfl
@[simp] theorem dropCrewSpills_mem (s : State) (id : Nat) (c : Crew) : (dropCrewSpills s id c).mem = s.mem := rfl
@[simp] theorem monitorTrap_mem (s : State) (mepc mcause mval : Word) : (monitorTrap s mepc mcause mval).mem = s.mem := rfl

@[simp] theorem trap_mem (s : State) (cause : Nat) (val : Word) : (trap s cause val).mem = s.mem := by
  unfold trap
  dsimp only
  repeat' split
  all_goals simp

@[simp] theorem reachTarget_mem (s : State) (t : Thread) (target : Word) : (reachTarget s t target).mem = s.mem := by
  unfold reachTarget
  dsimp only
  split <;> rfl

@[simp] theorem fetched_mem (s : State) (t : Thread) : (fetched s t).mem = s.mem := by
  unfold fetched
  dsimp only
  split <;> simp

@[simp] theorem holdS_mem (s : State) (reg : Nat) (v : Word) (due : Option Nat) : (holdS s reg v due).mem = s.mem := by
  unfold holdS
  dsimp only
  split <;> rfl

@[simp] theorem issued_mem (s : State) : (issued s).mem = s.mem := by
  unfold issued
  split <;> rfl

@[simp] theorem waitFor_mem (s : State) (w : Wait) : (waitFor s w).mem = s.mem := State.onThread_mem ..
@[simp] theorem claimMe_mem (s : State) (d : BitVec 5) : (claimMe s d).mem = s.mem := rfl

/-! ### Memory keeps its form -/

/-- A state whose memory is that of another is in the form that the other is in. -/
theorem MemoryInv.of_mem {s u : State} (h : MemoryInv s) (e : u.mem = s.mem) : MemoryInv u := by
  rw [MemoryInv, e]
  exact h

theorem setCore_keeps {s : State} (id : Nat) (c : Core) (h : MemoryInv s) : MemoryInv (s.setCore id c) := h.of_mem (by simp)
theorem setCluster_keeps {s : State} (k : Nat) (c : Cluster) (h : MemoryInv s) : MemoryInv (s.setCluster k c) := h.of_mem (by simp)
theorem onThread_keeps {s : State} (l : Loc) (f : Thread → Thread) (h : MemoryInv s) : MemoryInv (s.onThread l f) := h.of_mem (by simp)
theorem launches_keeps {s : State} (ls : List Launch) (h : MemoryInv s) : MemoryInv { s with launches := ls } := h.of_mem (by simp)
theorem dropKilled_keeps {s : State} (r : Nat) (h : MemoryInv s) : MemoryInv (dropKilled s r) := h.of_mem (by simp)
theorem send_keeps {s : State} (d : Delivery) (h : MemoryInv s) : MemoryInv (send s d) := h.of_mem (by simp)
theorem reachRegion_keeps {s : State} (r : Nat) (h : MemoryInv s) : MemoryInv (reachRegion s r) := h.of_mem (by simp)
theorem releaseCore_keeps {s : State} (c : Crew) (id : Nat) (h : MemoryInv s) : MemoryInv (releaseCore s c id) := h.of_mem (by simp)

/-- A fold of steps that keep the form. -/
theorem foldl_keeps {α : Type} {f : State → α → State} (hf : ∀ {s : State} a, MemoryInv s → MemoryInv (f s a)) (l : List α)
    {s : State} (h : MemoryInv s) : MemoryInv (l.foldl f s) := by
  induction l generalizing s with
  | nil => exact h
  | cons a l ih => exact ih (hf a h)

/-- Either of two states. -/
theorem ite_keeps {c : Prop} [Decidable c] {s u : State} (h : MemoryInv s) (hu : MemoryInv u) :
    MemoryInv (if c then s else u) := ite_wf h hu

theorem writeLine_keeps {s : State} (asid va pa dom size : Nat) (v : BitVec 1024) (tag clears : Bool) (h : MemoryInv s) :
    MemoryInv (writeLine s asid va pa dom size v tag clears) := writeLine_wf _ _ _ _ _ _ _ _ h

theorem physPut_keeps {s : State} (a size v : Nat) (h : MemoryInv s) : MemoryInv (s.physPut a size v) := physPut_wf _ _ _ h

theorem writeFrame_keeps {s : State} (pa dom size : Nat) (v : BitVec 1024) (clears : Bool) (h : MemoryInv s) :
    MemoryInv (writeFrame s pa dom size v clears) := writeFrame_wf _ _ _ _ _ h

/-! ### Regions, logs, launches (R333, R334, R371) -/

theorem rcbPut_keeps {s : State} (r off size v : Nat) (h : MemoryInv s) : MemoryInv (s.rcbPut r off size v) :=
  rootPut_wf _ _ _ h

theorem capWrite_keeps {s : State} (c : Cap) (va size v : Nat) (tag : Bool) (h : MemoryInv s) :
    MemoryInv (capWrite s c va size v tag) := by
  unfold capWrite
  extract_lets piece fit
  have hp {s : State} (va size v : Nat) (h : MemoryInv s) : MemoryInv (piece s va size v) := by
    simp only [piece]
    split
    · exact writeLine_keeps _ _ _ _ _ _ _ _ h
    · exact h
    · exact h.of_mem (by simp)
  exact ite_keeps (hp _ _ _ h) (hp _ _ _ (hp _ _ _ h))

theorem logEntry_keeps {s : State} (r : Nat) (e : LogEntry) (h : MemoryInv s) : MemoryInv (logEntry s r e) :=
  rcbPut_keeps _ _ _ _ (ite_keeps h (capWrite_keeps _ _ _ _ _ h))

theorem undeliverable_keeps {s : State} (r : Nat) (handle : Word) (dtype : Nat) (launch : Word) (crew : BitVec 32)
    (h : MemoryInv s) : MemoryInv (undeliverable s r handle dtype launch crew) :=
  logEntry_keeps _ _ (rcbPut_keeps _ _ _ _ h)

theorem completeLaunch_keeps {s : State} (i outcome : Nat) (rstate : Option Nat) (h : MemoryInv s) :
    MemoryInv (completeLaunch s i outcome rstate) := by
  unfold completeLaunch
  split
  · exact h
  · next l _ =>
    extract_lets s1 s2 s3
    have h1 : MemoryInv s1 := by
      cases rstate with
      | none => exact h
      | some r => exact rcbPut_keeps _ _ _ _ h
    have h2 : MemoryInv s2 := ite_keeps h1 (physPut_keeps _ _ _ h1)
    exact ite_keeps (s := dropSpills s2 l.ident) h2 h2

theorem launchSaved_keeps {s : State} (ident : Word) (h : MemoryInv s) : MemoryInv (launchSaved s ident) := by
  unfold launchSaved
  split
  · exact h
  · split
    · exact h
    · dsimp only
      split
      · exact ite_keeps (rcbPut_keeps _ _ _ _ h) h
      · exact h

theorem launchDone_keeps {s : State} (i : Nat) (h : MemoryInv s) : MemoryInv (launchDone s i) := by
  unfold launchDone
  split
  · exact h
  · have hc (o : Nat) (r : Option Nat) : MemoryInv (completeLaunch s i o r) := completeLaunch_keeps i o r h
    exact ite_keeps h (ite_keeps (ite_keeps h (hc _ _)) (ite_keeps (hc _ _) h))

theorem crewCompleted_keeps {s : State} (ident : Word) (h : MemoryInv s) : MemoryInv (crewCompleted s ident) := by
  unfold crewCompleted
  split
  · exact h
  · split
    · exact h
    · exact ite_keeps (launchDone_keeps _ h) (launchSaved_keeps _ h)

/-! ### Stores performed (R85) -/

theorem logDropped_keeps {s : State} (p : PStore) (h : MemoryInv s) : MemoryInv (logDropped s p) :=
  logEntry_keeps _ _ h

theorem performStore_keeps {s : State} (p : PStore) (h : MemoryInv s) : MemoryInv (performStore s p) := by
  unfold performStore
  split
  · next asid _ =>
    have hw := writeLine_keeps asid p.addr p.pa p.dom p.size p.value p.cap p.whole h
    exact ite_keeps (logDropped_keeps p h) (hw.of_mem (by simp))
  · exact h.of_mem (by simp)
  · exact ite_keeps (logDropped_keeps p h) h

theorem performNow_keeps {s : State} (p : PStore) (h : MemoryInv s) : MemoryInv (performNow s p) :=
  performStore_keeps _ h

theorem performAt_keeps {s : State} (path n : Nat) (h : MemoryInv s) : MemoryInv (performAt s path n) := by
  unfold performAt
  split
  · exact h
  · exact foldl_keeps (fun _ h => performNow_keeps _ h) _ h

theorem drainAll_keeps {s : State} (path : Nat) (h : MemoryInv s) : MemoryInv (drainAll s path) :=
  foldl_keeps (fun _ h => performStore_keeps _ h) _ h

theorem performWhere_keeps {s : State} (path : Nat) (want : PStore → Bool) (h : MemoryInv s) :
    MemoryInv (performWhere s path want) :=
  ite_keeps h (foldl_keeps (fun _ h => performNow_keeps _ h) _ h)

theorem drain_keeps {s : State} (path : Nat) (h : MemoryInv s) : MemoryInv (drain s path) :=
  performWhere_keeps _ _ h

theorem settleFor_keeps {s : State} (path : Nat) (acquire : Bool) (pl : Place) (size : Nat) (h : MemoryInv s) :
    MemoryInv (settleFor s path acquire pl size) := ite_keeps h (performWhere_keeps _ _ h)

theorem settleWide_keeps {s : State} (path : Nat) (acquire : Bool) (pl : Place) (size : Nat) (h : MemoryInv s) :
    MemoryInv (settleWide s path acquire pl size) := foldl_keeps (fun _ h => settleFor_keeps _ _ _ _ h) _ h

/-! ### Records saved (R343, R344) -/

theorem areaPut_keeps {s : State} (c : Cap) (base : Nat) (fs : List (Nat × Nat × Nat)) (h : MemoryInv s) :
    MemoryInv (areaPut s c base fs) := foldl_keeps (fun _ h => capWrite_keeps _ _ _ _ _ h) _ h

theorem areaPutCaps_keeps {s : State} (c : Cap) (base : Nat) (cs : List Cap) (h : MemoryInv s) :
    MemoryInv (areaPutCaps s c base cs) := foldl_keeps (fun _ h => capWrite_keeps _ _ _ _ _ h) _ h

theorem putSlot_keeps {s : State} (c : Cap) (base : Nat) (sl : Slot) (h : MemoryInv s) :
    MemoryInv (putSlot s c base sl) := by
  unfold putSlot
  split
  · exact areaPutCaps_keeps _ _ _ (areaPut_keeps _ _ _ h)
  · exact areaPut_keeps _ _ _ h


theorem saveVisitor_keeps {s : State} (t : Thread) (gen : BitVec 16) (h : MemoryInv s) : MemoryInv (saveVisitor s t gen) := by
  unfold saveVisitor
  generalize visitorArea _ _ = p
  obtain ⟨c, a⟩ := p
  have h1 := putSlot_keeps c (a + 64 + 1024 * areaNat s c a 4) { gen, thread := some t } h
  exact (capWrite_keeps c a 4 (areaNat s c a 4 + 1) false h1).of_mem (by simp)

theorem putCore_keeps {s : State} (c : Cap) (base id : Nat) (crew : Crew) (spilled : Nat) (last : Bool) (h : MemoryInv s) :
    MemoryInv (putCore s c base id crew spilled last) := by
  unfold putCore
  extract_lets core mine pool streamAt s1 s2 s3 s4 s5 s6 s7 s8 s9 s10 cl s11 s12 s13 s14
  have h3 : MemoryInv s3 := areaPut_keeps _ _ _ (areaPut_keeps _ _ _ (areaPut_keeps _ _ _ h))
  have h5 : MemoryInv s5 := areaPut_keeps _ _ _ (foldl_keeps (fun _ h => putSlot_keeps _ _ _ h) _ h3)
  have h6 : MemoryInv s6 := foldl_keeps (fun _ h => areaPutCaps_keeps _ _ _ (areaPut_keeps _ _ _ h)) _ h5
  have h8 : MemoryInv s8 :=
    foldl_keeps (fun _ h => areaPut_keeps _ _ _ h) _ (foldl_keeps (fun _ h => areaPut_keeps _ _ _ h) _ h6)
  have h10 : MemoryInv s10 :=
    foldl_keeps (fun _ h => areaPut_keeps _ _ _ h) _ (foldl_keeps (fun _ h => areaPut_keeps _ _ _ h) _ h8)
  have h11 : MemoryInv s11 := foldl_keeps (fun _ h => foldl_keeps (fun _ h => capWrite_keeps _ _ _ _ _ h) _ h) _ h10
  have h14 : MemoryInv s14 := areaPut_keeps _ _ _ (areaPut_keeps _ _ _ (areaPut_keeps _ _ _ h11))
  exact ite_keeps h11 (foldl_keeps (fun _ h => areaPutCaps_keeps _ _ _ (areaPut_keeps _ _ _ h)) _ h14)

/-! ### Deliveries by handle, threads that end, kills (R20, R153, R337–R340) -/

theorem spillWrite_keeps {s : State} (sp : Spill) (n : Nat) (d : Delivery) (h : MemoryInv s) : MemoryInv (spillWrite s sp n d) :=
  ite_keeps h (capWrite_keeps _ _ _ _ _ h)

theorem spillAdd_keeps {s : State} (id idx : Nat) (d : Delivery) (h : MemoryInv s) : MemoryInv (spillAdd s id idx d) := by
  unfold spillAdd
  dsimp only
  split
  · exact spillWrite_keeps _ _ _ (h.of_mem (by simp))
  · exact h

theorem fillToken_keeps {s : State} (hd : Word) (reg : Nat) (v launch : Word) (rcb : Nat) (crew : BitVec 32) (h : MemoryInv s) :
    MemoryInv (fillToken s hd reg v launch rcb crew) := by
  unfold fillToken
  refine ite_keeps h ?_
  dsimp only
  split
  · exact ite_keeps (h.of_mem (by simp)) (h.of_mem (by simp))
  · exact ite_keeps (spillAdd_keeps _ _ _ h) (h.of_mem (by simp))
  · exact undeliverable_keeps _ _ _ _ _ h

theorem leaveSlot_keeps {s : State} (l : Loc) (h : MemoryInv s) : MemoryInv (leaveSlot s l) := by
  refine (performWhere_keeps (pathOf l.core) (fun p => p.loc == l) h).of_mem ?_
  simp [leaveSlot]

theorem crewCheck_keeps {s : State} (k : Nat) (h : MemoryInv s) : MemoryInv (crewCheck s k) := by
  unfold crewCheck
  split
  · exact h
  · next c _ =>
    extract_lets s0 cl s1 s2
    have h2 : MemoryInv s2 := foldl_keeps (fun _ h => releaseCore_keeps _ _ h) _ (setCluster_keeps _ _ (drainAll_keeps k h))
    refine ite_keeps h (ite_keeps ?_ (crewCompleted_keeps _ h2))
    split
    · exact h2
    · split
      · exact h2
      · exact launchSaved_keeps _ (h2.of_mem (by simp))

theorem killSweep_keeps {s : State} (h : MemoryInv s) : MemoryInv (killSweep s) :=
  foldl_keeps (fun r h => ite_keeps h ((rcbPut_keeps r 0x1E 1 5 h).of_mem (by simp))) _ (foldl_keeps (fun i h => launchDone_keeps i h) _ h)

theorem settle_keeps {s : State} (id : Nat) (h : MemoryInv s) : MemoryInv (settle s id) :=
  ite_keeps (killSweep_keeps (crewCheck_keeps _ h)) h

theorem quitThread_keeps {s : State} (l : Loc) (h : MemoryInv s) : MemoryInv (quitThread s l) := settle_keeps _ (leaveSlot_keeps l h)

theorem endThread_keeps {s : State} (l : Loc) (v : Word) (h : MemoryInv s) : MemoryInv (endThread s l v) := by
  unfold endThread
  split
  · exact h
  · dsimp only
    split
    · exact quitThread_keeps l (h.of_mem (by simp))
    · exact quitThread_keeps l h

theorem saveAway_keeps {s : State} (l : Loc) (h : MemoryInv s) : MemoryInv (saveAway s l) := by
  unfold saveAway
  split
  · exact h
  · exact ite_keeps h (ite_keeps (logEntry_keeps _ _ h) (leaveSlot_keeps l (saveVisitor_keeps _ _ (drainAll_keeps _ h))))

theorem displace_keeps {s : State} (l : Loc) (h : MemoryInv s) : MemoryInv (displace s l) := by
  unfold displace
  split
  · exact h
  · refine ite_keeps h (ite_keeps (saveAway_keeps l h) ?_)
    split
    · exact leaveSlot_keeps l (send_keeps _ (drainAll_keeps _ h))
    · exact h

theorem displaceAll_keeps {s : State} (k : Nat) (h : MemoryInv s) : MemoryInv (displaceAll s k) :=
  foldl_keeps (fun l h => ite_keeps (displace_keeps l h) h) _ h

theorem killCluster_keeps {s : State} (k : Nat) (h : MemoryInv s) : MemoryInv (killCluster s k) := by
  unfold killCluster
  dsimp only
  split
  · exact h
  · exact displaceAll_keeps k (foldl_keeps (fun j h => setCore_keeps _ _ h) _ (setCluster_keeps _ _ h))

theorem killRegion_keeps {s : State} (r cause action : Nat) (absrid : BitVec 32) (h : MemoryInv s) :
    MemoryInv (killRegion s r cause action absrid) := by
  unfold killRegion
  extract_lets e s0 s1 ks s2 ls paths s3 s4 s5
  have h0 : MemoryInv s0 := rcbPut_keeps r 0x1E 1 4 h
  have h1 : MemoryInv s1 := logEntry_keeps r e (h0.of_mem (by simp))
  have h2 : MemoryInv s2 := foldl_keeps (fun k h => killCluster_keeps k h) ks h1
  have h3 : MemoryInv s3 := foldl_keeps (fun l h => leaveSlot_keeps l h) ls (foldl_keeps (fun p h => drainAll_keeps p h) paths h2)
  have h4 : MemoryInv s4 := dropKilled_keeps r h3
  have h5 : MemoryInv s5 := launches_keeps _ h4
  exact ite_keeps (logEntry_keeps r e h) (killSweep_keeps (foldl_keeps (fun k h => crewCheck_keeps k h) ks h5))

theorem hartStatus_keeps {s : State} (id rcb v : Nat) (h : MemoryInv s) : MemoryInv (hartStatus s id rcb v) :=
  ite_keeps h (writeFrame_keeps _ _ _ _ _ h)

theorem stopHart_keeps {s : State} (l : Loc) (cause : Nat) (h : MemoryInv s) : MemoryInv (stopHart s l cause) := by
  unfold stopHart
  extract_lets c hart s1 s2 k cl s3 s4
  have h2 : MemoryInv s2 := leaveSlot_keeps l (hartStatus_keeps _ _ _ (setCore_keeps _ _ h))
  exact ite_keeps h2 (settle_keeps _ (foldl_keeps (fun _ h => fillToken_keeps _ _ _ _ _ _ h) _ (setCluster_keeps _ _ h2)))

theorem stopThread_keeps {s : State} (l : Loc) (cause : Nat) (val : Word) (held : Nat) (spent : Bool) (h : MemoryInv s) :
    MemoryInv (stopThread s l cause val held spent) := by
  unfold stopThread
  split
  · exact h
  · extract_lets hd s1 s2 d e s3 s4 s5 s6
    have h2 : MemoryInv s2 := reachRegion_keeps _ (rcbPut_keeps _ _ _ _ (drainAll_keeps _ (h.of_mem (by simp))))
    have h3 : MemoryInv s3 := logEntry_keeps _ e h2
    have h4 : MemoryInv s4 := ite_keeps h3 (stopHart_keeps l cause h3)
    have h5 : MemoryInv s5 := by
      simp only [s5]
      split
      · exact killRegion_keeps _ _ _ _ h4
      · exact h4
    have h6 : MemoryInv s6 := ite_keeps h5 (ite_keeps (quitThread_keeps l h5) (endThread_keeps l _ h5))
    exact ite_keeps (h3.of_mem (by simp)) (h6.of_mem (by simp))

theorem stopCrew_keeps {s : State} (l : Loc) (feature : Nat) (val : Word) (h : MemoryInv s) :
    MemoryInv (stopCrew s l feature val) := by
  unfold stopCrew
  split
  · exact h
  · extract_lets e s1
    have h1 : MemoryInv s1 := logEntry_keeps _ e h
    split
    · split
      · extract_lets feat s2 cl s3 s4 mine s5 s6 d absrid s7
        have h2 : MemoryInv s2 := launches_keeps _ h1
        have h4 : MemoryInv s4 := displaceAll_keeps _ (foldl_keeps (fun j h => setCore_keeps _ _ h) _ (setCluster_keeps _ _ h2))
        have h6 : MemoryInv s6 := crewCheck_keeps _ (leaveSlot_keeps l (foldl_keeps (fun l h => leaveSlot_keeps l h) _ h4))
        exact ite_keeps (killRegion_keeps _ _ _ _ (logEntry_keeps _ _ h6)) (settle_keeps _ h6)
      · exact endThread_keeps l _ h1
    · exact endThread_keeps l _ h1

/-! ### The ways in which an instruction ends (R108, R109) -/

theorem raise_keeps {s : State} (cause : Nat) (val : Word) (held : Nat) (spent : Bool) (h : MemoryInv s) :
    MemoryInv (raise s cause val held spent) :=
  ite_keeps (h.of_mem (by simp)) (ite_keeps (stopCrew_keeps _ _ _ h) (stopThread_keeps _ _ _ _ _ h))

theorem issued_keeps {s : State} (h : MemoryInv s) : MemoryInv (issued s) := h.of_mem (by simp)

theorem fail_keeps {s : State} (e : Stop) (h : MemoryInv s) : MemoryInv (fail s e) := by
  cases e with
  | stall => exact h.of_mem rfl
  | fault cause val held => exact issued_keeps (raise_keeps _ _ _ _ h)
  | denied cause held asid va => exact issued_keeps (raise_keeps _ _ _ _ (h.of_mem (by simp)))
  | poison asid va => exact issued_keeps (raise_keeps _ _ _ _ (h.of_mem (by simp)))
  | inside asid target => exact issued_keeps (raise_keeps _ _ _ _ (h.of_mem (by simp)))
  | wait w =>
    unfold fail
    dsimp only
    split
    · exact issued_keeps (ite_keeps (raise_keeps _ _ _ _ h) (h.of_mem (by simp)))
    · exact issued_keeps (h.of_mem (by simp))
  | page asid va => exact ite_keeps (issued_keeps (raise_keeps _ _ _ _ (h.of_mem (by simp)))) (h.of_mem (by simp))

theorem conclude_keeps {s : State} (px : Px) (a : Act) (h : MemoryInv s) : MemoryInv (conclude s px a) := by
  cases a with
  | next => exact issued_keeps (h.of_mem (by simp))
  | jump pc => exact issued_keeps (h.of_mem (by simp))
  | stay => exact issued_keeps h
  | gone => exact issued_keeps h
  | after cause val spent => exact issued_keeps (raise_keeps _ _ _ _ h)

/-- A member's effect, if it has one, keeps memory's form. -/
def KeepsIn : Except Stop (State × Act) → Prop
  | .ok (s, _) => MemoryInv s
  | .error _ => True

/-- The machine goes on, and memory keeps its form. -/
def GoesOn (s : State) (o : Host.Outcome State Fault Refusal) : Prop := ∃ u, o = .next u ∧ (MemoryInv s → MemoryInv u)

theorem issueOn_keeps {s : State} (px : Px) (i : Instr) (t : Thread) {body : Thread → State → Except Stop (State × Act)}
    (hb : ∀ t {s}, MemoryInv s → KeepsIn (body t s)) (h : MemoryInv s) : MemoryInv (issueOn px i s t body) := by
  unfold issueOn
  split
  · exact fail_keeps _ h
  · split
    · exact fail_keeps _ h
    · exact fail_keeps _ h
    · have hk := hb (consume t (usesOf i)) (s := s.setMe (consume t (usesOf i))) (h.of_mem (by simp))
      dsimp only
      split
      · exact fail_keeps _ h
      · next hr =>
        rw [hr] at hk
        exact conclude_keeps px _ hk

/-- An instruction whose effect keeps memory's form, in a slot that holds a thread. -/
theorem issueP_goesOn {s : State} {px : Px} {i : Instr} {body : Thread → State → Except Stop (State × Act)}
    (ht : ∃ t, s.thread? s.cur = some t) (hb : ∀ t {s}, MemoryInv s → KeepsIn (body t s)) : GoesOn s (issueP px i s body) := by
  obtain ⟨t, ht⟩ := ht
  refine ⟨(issueOn px i s t body).bump, ?_, fun h => (issueOn_keeps px i t hb h).of_mem (by simp)⟩
  simp only [issueP, ht]

theorem crewMember_goesOn {s : State} {i : Instr} {body : Thread → State → Except Stop (State × Act)}
    (ht : ∃ t, s.thread? s.cur = some t) (hb : ∀ t {s}, MemoryInv s → KeepsIn (body t s)) : GoesOn s (crewMember i s body) := by
  refine issueP_goesOn ht fun t s h => ?_
  split
  · trivial
  · exact hb t h

end Sys2Proof.Machine
end

section
/-!
SUPPORT. Memory keeps its form through lines and caches, streams, rings, barriers, multicasts, the system's members and deliveries.
-/

namespace Sys2Proof.Machine

/-! ### Lines and caches (R42, R46, R47, R362) -/

@[simp] theorem dropCopy_mem (s : State) (k key : Nat) : (dropCopy s k key).mem = s.mem := rfl

@[simp] theorem cacheOut_mem (s : State) (k key : Nat) : (cacheOut s k key).mem = s.mem := by
  unfold cacheOut
  dsimp only
  rw [dropCopy_mem]
  split <;> rfl

@[simp] theorem cacheIn_mem (s : State) (k key : Nat) : (cacheIn s k key).mem = s.mem := by
  unfold cacheIn
  dsimp only
  repeat' split
  all_goals simp

@[simp] theorem leaveReplica_mem (s : State) (t : Thread) (c : Cap) (pl : Place) : (leaveReplica s t c pl).mem = s.mem := by
  unfold leaveReplica
  split
  · dsimp only
    split <;> rfl
  · rfl

@[simp] theorem writeOwned_mem (s : State) (key off size : Nat) (value : BitVec 1024) (k : Nat) :
    (writeOwned s key off size value k).mem = s.mem := by
  unfold writeOwned
  split <;> simp

@[simp] theorem takeBack_mem (s : State) (key : Nat) : (takeBack s key).mem = s.mem := by
  unfold takeBack
  split
  · split <;> simp
  · rfl

theorem takeBack_keeps {s : State} (key : Nat) (h : MemoryInv s) : MemoryInv (takeBack s key) := h.of_mem (by simp)

theorem uncache_keeps {s : State} (key : Nat) (h : MemoryInv s) : MemoryInv (uncache s key) := h.of_mem (by simp)

theorem cacheIn_keeps {s : State} (k key : Nat) (h : MemoryInv s) : MemoryInv (cacheIn s k key) := h.of_mem (by simp)

theorem writeBack_keeps {s : State} (l : Line) (h : MemoryInv s) : MemoryInv (writeBack s l) := writeBack_wf l h

theorem setLine_keeps {s : State} (key : Nat) (l : Line) (h : MemoryInv s) : MemoryInv (setLine s key l) := h.of_mem (by simp)

theorem recordGrant_keeps {s : State} (asid va : Nat) (h : MemoryInv s) : MemoryInv (recordGrant s asid va) := recordGrant_wf _ _ h

theorem grantLine_keeps {s : State} (key k : Nat) (h : MemoryInv s) : MemoryInv (grantLine s key k) := by
  have h1 : MemoryInv (recordGrant (uncache (unshare s key) key) (key / 2 ^ 49) (key % 2 ^ 49 * 128)) :=
    recordGrant_keeps _ _ (uncache_keeps key (unshare_wf key h))
  unfold grantLine
  dsimp only
  split
  · exact setLine_keeps _ _ h1
  · exact h1

theorem cleanLine_keeps {s : State} (key : Nat) (h : MemoryInv s) : MemoryInv (cleanLine s key) := by
  unfold cleanLine
  split
  · exact h
  · exact ite_keeps (setLine_keeps _ _ (writeBack_keeps _ h)) h

theorem bringLine_keeps {s : State} (k asid va dom : Nat) (h : MemoryInv s) : MemoryInv (bringLine s k asid va dom) := by
  unfold bringLine
  split
  · dsimp only
    split
    · exact h
    · refine ite_keeps h (cacheIn_keeps _ _ (setLine_keeps _ _ ?_))
      exact fillLine_wf _ _ _ _ _ (readLine_wf _ _ _ _ _ (installLeaf_wf _ _ h))
  · exact h

theorem ownLine_keeps {s : State} (asid va pa dom : Nat) (leaf : Word) (k : Nat) (h : MemoryInv s) :
    MemoryInv (ownLine s asid va pa dom leaf k) := cacheIn_keeps _ _ (grantLine_keeps _ _ (fillLine_wf _ _ _ _ _ h))

theorem recallLine_keeps {s : State} (key : Nat) (h : MemoryInv s) : MemoryInv (recallLine s key) := by
  unfold recallLine
  split
  · exact h
  · exact uncache_keeps _ (setLine_keeps _ _ (ite_keeps (writeBack_keeps _ h) h))

/-! ### Read-modify-writes (R83, R140) -/

theorem rmwAt_keeps {s : State} (l : Loc) (t : Thread) (pl : Place) (size : Nat) (r : Rmw) (h : MemoryInv s) :
    MemoryInv (rmwAt s l t pl size r).1 := by
  unfold rmwAt
  extract_lets s1 old stored
  have h1 : MemoryInv s1 := settleFor_keeps _ _ _ _ (ite_keeps (drain_keeps _ h) h)
  have hs {u : State} (hu : MemoryInv u) : MemoryInv (stored u) := by
    simp only [stored]
    split
    · exact performStore_keeps _ hu
    · exact hu
  split
  · exact h1.of_mem rfl
  · exact hs h1
  · next asid va pa dom leaf =>
    dsimp only
    split
    · exact hs (takeBack_keeps _ h1)
    · next k _ =>
      have h2 := ownLine_keeps asid va pa dom leaf k h1
      dsimp only
      split
      · refine h2.of_mem ?_
        rw [kickAll_mem, writeOwned_mem]
      · exact h2

/-! ### Streams and vector registers (R52–R54, R175, R208) -/

/-- A register-load popped changes an agent only. -/
theorem popLoad_mem {s u : State} {id n : Nat} {v : BitVec 2048} (e : popLoad s id n = .ok (u, v)) : u.mem = s.mem := by
  unfold popLoad at e
  dsimp only at e
  split at e
  · cases e; rfl
  · split at e
    · cases e
    · cases e; rfl
    · cases e
    · split at e <;> cases e

theorem readVector_mem {s u : State} {r : Nat} {v : BitVec 2048} (e : readVector s r = .ok (u, v)) : u.mem = s.mem := by
  unfold readVector at e
  dsimp only at e
  split at e
  · cases e; rfl
  · split at e
    · cases e; rfl
    · exact popLoad_mem e

theorem readVectors_mem {s u : State} {rs : List Nat} {vs : Tab (BitVec 2048)} (e : readVectors s rs = .ok (u, vs)) :
    u.mem = s.mem := by
  induction rs generalizing u vs with
  | nil => cases e; rfl
  | cons r rs ih =>
    rw [readVectors] at e
    split at e
    · cases e
    · next s1 _ h1 =>
      split at e
      · cases e; exact ih h1
      · split at e
        · cases e
        · next h2 => cases e; rw [readVector_mem h2, ih h1]

@[simp] theorem State.reachStores_mem (s : State) (ps : List PStore) : (s.reachStores ps).mem = s.mem :=
  foldl_mem (fun s p => by split <;> rfl) ps s

theorem pushLoad_mem {s u : State} {l : Loc} {n : Nat} {v : BitVec 2048} (e : pushLoad s l n v = .ok u) : u.mem = s.mem := by
  unfold pushLoad at e
  dsimp only at e
  split at e
  · cases e; rfl
  · split at e
    · cases e
    · cases e; simp

theorem writeVectorAt_mem {s u : State} {l : Loc} {r : Nat} {v : BitVec 2048} (e : writeVectorAt s l r v = .ok u) :
    u.mem = s.mem := by
  unfold writeVectorAt at e
  dsimp only at e
  split at e
  · cases e; simp
  · split at e
    · cases e
    · split at e
      · cases e
      · next h => cases e; simp [pushLoad_mem h]

theorem writeVector_mem {s u : State} {r : Nat} {v : BitVec 2048} (e : writeVector s r v = .ok u) : u.mem = s.mem :=
  writeVectorAt_mem e

theorem holdV_mem {s u : State} {r : Nat} {v : BitVec 2048} {due : Option Nat} (e : holdV s r v due = .ok u) : u.mem = s.mem := by
  unfold holdV at e
  dsimp only at e
  split at e
  · cases e
  · cases e; rfl

theorem writeHeldVector_keeps {s : State} (d : BitVec 5) (v : BitVec 2048) (due : Option Nat) (h : MemoryInv s) :
    KeepsIn (writeHeldVector s d v due) := by
  unfold writeHeldVector
  split
  · trivial
  · next h1 =>
    split
    · trivial
    · next h2 =>
      refine h.of_mem ?_
      rw [holdV_mem h2]
      split at h1
      · exact writeVector_mem h1
      · cases h1; rfl

theorem settleAll_keeps {s : State} (acquire : Bool) (pls : List Place) (size : Nat) (h : MemoryInv s) :
    MemoryInv (settleAll s acquire pls size) :=
  foldl_keeps (fun pl h => (settleFor_keeps _ acquire pl size h).of_mem (State.reachAt_mem _ _)) pls h

/-- A fold of loads performed in turn. -/
theorem settles_keeps {s : State} (path : Nat) (acquire : Bool) (pls : List Place) (size : Nat) (h : MemoryInv s) :
    MemoryInv (pls.foldl (fun s pl => (settleFor s path acquire pl size).reachAt pl) s) :=
  foldl_keeps (fun pl h => (settleFor_keeps path acquire pl size h).of_mem (State.reachAt_mem _ _)) pls h

theorem fetchLoad_keeps {s u : State} {l : Loc} {t : Thread} {st : Stream} {k : Nat} {x : RunItem} (h : MemoryInv s)
    (e : fetchLoad s l t st k = some (u, x)) : MemoryInv u := by
  unfold fetchLoad at e
  split at e
  · cases e
    exact settles_keeps _ _ _ _ h
  · cases e
    exact h.of_mem (by simp)
  · obtain ⟨f, -, hf⟩ := Option.map_eq_some_iff.mp e
    cases hf
    exact h.of_mem (by simp)

theorem streamStep_keeps {s : State} (id n : Nat) (h : MemoryInv s) : MemoryInv (streamStep s id n) := by
  unfold streamStep
  dsimp only
  split
  · exact h
  · refine ite_keeps h (ite_keeps h ?_)
    split
    · next e => exact setCore_keeps _ _ (fetchLoad_keeps h e)
    · exact h

/-! ### Rings, barriers, reductions (R91, R163–R169, R248) -/

@[simp] theorem placeIn_mem (s : State) (l : Loc) (t : Thread) : (placeIn s l t).mem = s.mem := rfl

theorem refuse_keeps {s : State} (l : Loc) (v : Word) (h : MemoryInv s) : MemoryInv (refuseWaiters.refuse l v s) :=
  stopThread_keeps _ _ _ _ _ (onThread_keeps _ _ h)

theorem refuseWaiters_keeps {s : State} (ws : List Loc) (h : MemoryInv s) : MemoryInv (refuseWaiters s ws) := by
  refine foldl_keeps (fun l h => ?_) ws h
  dsimp only
  split
  · exact refuse_keeps _ _ h
  · exact refuse_keeps _ _ h
  · exact h

@[simp] theorem refuseSaved_mem (s : State) (k q : Nat) : (refuseSaved s k q).mem = s.mem := by
  unfold refuseSaved
  split
  · rfl
  · exact foldl_mem (fun _ _ => by rfl) _ s

theorem reconfigure_keeps {s : State} (k q : Nat) (r : Ring) (ws : List Loc) (h : MemoryInv s) :
    MemoryInv (reconfigure s k q r ws) := refuseWaiters_keeps ws (h.of_mem (by simp))

theorem publishHeaders_keeps {s : State} (h : MemoryInv s) : MemoryInv (publishHeaders s) := performWhere_keeps _ _ h

@[simp] theorem sendPacket_mem (s : State) (id : Nat) (e : BitVec 32) (remote : Packet) (body : Body) (launch : Word) (rcb : Nat)
    (crew : BitVec 32) : (sendPacket s id e remote body launch rcb crew).mem = s.mem := by
  unfold sendPacket
  split
  · split <;> rfl
  · rfl

@[simp] theorem wakeBarrier_mem (s : State) (id n : Nat) : (wakeBarrier s id n).mem = s.mem := by
  refine foldl_mem (fun s k => ?_) _ s
  dsimp only
  split
  · split <;> simp
  · rfl

@[simp] theorem barProgress_mem (fuel : Nat) (s : State) (id n : Nat) : (barProgress fuel s id n).mem = s.mem := by
  induction fuel generalizing s with
  | zero => rfl
  | succ fuel ih =>
    unfold barProgress
    dsimp only
    repeat' split
    all_goals simp [ih]

theorem settleRanks_keeps {s : State} (t : Thread) (c : Cap) (rs : List Nat) (h : MemoryInv s) :
    MemoryInv (settleRanks s t c rs) := by
  unfold settleRanks
  refine foldl_keeps (fun r h => ?_) _ h
  split
  · next pl _ => exact (settleFor_keeps _ false pl 4 h).of_mem (State.reachAt_mem _ _)
  · exact h

theorem arrive_keeps {s u : State} {n : Nat} {relaxed : Bool} (h : MemoryInv s) (e : arrive s n relaxed = .ok u) : MemoryInv u := by
  unfold arrive at e
  extract_lets id b s1 core at e
  have h1 : MemoryInv s1 := ite_keeps (drain_keeps _ h) h
  split at e
  · cases e
  · cases e
    exact h1.of_mem (by simp)

theorem nredProgress_keeps {s : State} (id n : Nat) (h : MemoryInv s) : MemoryInv (nredProgress s id n) := by
  unfold nredProgress
  dsimp only
  split
  · exact h
  · exact ite_keeps h (fillToken_keeps _ _ _ _ _ _ (h.of_mem (by simp)))

theorem nredArrive_keeps {s : State} (id n op tag : Nat) (v : Word) (h : MemoryInv s) : MemoryInv (nredArrive s id n op tag v) :=
  nredProgress_keeps _ _ (nredProgress_keeps _ _ (h.of_mem (by simp)))

/-! ### Multicasts (R148, R150) -/

theorem putFrame_keeps {s : State} (p : PStore) (asid pa : Nat) (h : MemoryInv s) : MemoryInv (putFrame s p asid pa) := by
  have hw : MemoryInv (recordGrant (writeFrame s pa p.dom p.size p.value p.whole) asid p.addr) :=
    recordGrant_keeps _ _ (writeFrame_keeps _ _ _ _ _ h)
  exact ite_keeps (logDropped_keeps p h) (hw.of_mem (by simp))

theorem frameWrite_keeps {s : State} (p : PStore) (asid pa : Nat) (rmw : Option Rmw) (h : MemoryInv s) :
    MemoryInv (frameWrite s p asid pa rmw) := by
  unfold frameWrite
  split <;> exact putFrame_keeps _ _ _ h

theorem destWrite_keeps {s : State} (l : Loc) (t : Thread) (pl : Place) (size : Nat) (rmw : Option Rmw) (frame : Option Nat)
    (v : Nat) (h : MemoryInv s) : MemoryInv (destWrite s l t pl size rmw frame v) := by
  unfold destWrite
  dsimp only
  split
  · exact h
  · exact frameWrite_keeps _ _ _ _ h
  · split
    · exact rmwAt_keeps _ _ _ _ _ h
    · exact performStore_keeps _ h

theorem sendCast_keeps {s : State} (pl : Place) (p : PStore) (op : Option Nat) (h : MemoryInv s) : MemoryInv (sendCast s pl p op) := by
  unfold sendCast
  split
  · exact ite_keeps (logDropped_keeps p h) (h.of_mem rfl)
  · exact h

theorem castOne_keeps {x : CastState} (pl : Place) (reduces : Bool) {put : State → Option Nat → State}
    (d : Nat × Option Nat × Bool) (hp : ∀ f {s}, MemoryInv s → MemoryInv (put s f)) (h : MemoryInv x.s) :
    MemoryInv (castOne pl reduces put x d).s := by
  unfold castOne
  split
  · exact h
  · split
    · exact h
    · split
      · exact h
      · exact hp _ h

theorem castAll_keeps {s : State} (pl : Place) (reduces : Bool) {put : State → Option Nat → State}
    (hp : ∀ f {s}, MemoryInv s → MemoryInv (put s f)) (h : MemoryInv s) : MemoryInv (castAll s pl reduces put).s :=
  List.foldlRecOn (motive := fun x : CastState => MemoryInv x.s) _ _ h fun _ hx d _ => castOne_keeps pl reduces d hp hx

/-! ### System members (R318, R322–R328) -/

@[simp] theorem startTrial_mem (s : State) (t : Thread) : (startTrial s t).mem = s.mem := by
  unfold startTrial
  split <;> rfl

@[simp] theorem setHalted_mem (s : State) (ids : List Nat) (b : Bool) : (setHalted s ids b).mem = s.mem :=
  foldl_mem (fun _ _ => by rfl) ids s

theorem endPending_keeps {s : State} (n : Nat) (p : Pending) (v : Word) (h : MemoryInv s) : MemoryInv (endPending s n p v) :=
  fillToken_keeps _ _ _ _ _ _ (h.of_mem rfl)

theorem harvestPage_keeps {x : State × Nat} (asid page : Nat) (h : MemoryInv x.1) : MemoryInv (harvestPage x asid page).1 := by
  unfold harvestPage
  split
  · split
    · exact h
    · exact orEntry_wf _ _ h
  · exact h

theorem harvest_keeps {s : State} (asid page count : Nat) (h : MemoryInv s) : MemoryInv (harvest s asid page count).1 :=
  List.foldlRecOn (motive := fun x : State × Nat => MemoryInv x.1) _ _ (h.of_mem rfl) fun _ hx _ _ => harvestPage_keeps _ _ hx

theorem performAll_keeps {s : State} (want : PStore → Bool) (h : MemoryInv s) : MemoryInv (performAll s want) :=
  foldl_keeps (fun _ h => performWhere_keeps _ _ h) _ h

theorem invalidate_keeps {s : State} (c : Scope) (h : MemoryInv s) : MemoryInv (invalidate s c) := by
  unfold invalidate
  extract_lets s0 keys s1
  have h1 : MemoryInv s1 := foldl_keeps (fun key h => recallLine_keeps key h) _ (performAll_keeps _ (drain_keeps _ h))
  exact h1.of_mem rfl

theorem clearKey_keeps {s : State} (n : Nat) (h : MemoryInv s) : MemoryInv (clearKey s n) := by
  unfold clearKey
  extract_lets s0 keys rs s1
  have h1 : MemoryInv s1 := foldl_keeps (fun key h => h.of_mem (dropLine_mem _ key)) _ (performAll_keeps _ h)
  exact h1.of_mem (dieCopies_mem _ n false)

/-! ### Deliveries (R13, R14, R20, R25, R345, R346) -/

@[simp] theorem requeueWait_mem (s : State) (l : Loc) (t : Thread) : (requeueWait s l t).mem = s.mem := by
  unfold requeueWait
  dsimp only
  split <;> rfl

@[simp] theorem placeWhole_mem (s : State) (l : Loc) (t : Thread) : (placeWhole s l t).mem = s.mem := by simp [placeWhole]

@[simp] theorem endWfi_mem (s : State) (id : Nat) : (endWfi s id).mem = s.mem :=
  foldl_mem (fun s n => by dsimp only; split <;> simp) _ s

theorem placeArrival_keeps {s u : State} {id : Nat} {d : Delivery} (h : MemoryInv s) (e : placeArrival s id d = some u) :
    MemoryInv u := by
  unfold placeArrival at e
  split at e
  · split at e
    · cases e
      exact undeliverable_keeps _ _ _ _ _ h
    · obtain ⟨n, -, rfl⟩ := Option.map_eq_some_iff.mp e
      exact h.of_mem (by simp)
  · split at e
    · cases e
    · obtain ⟨n, -, rfl⟩ := Option.map_eq_some_iff.mp e
      dsimp only
      exact ite_keeps (h.of_mem (by simp)) (h.of_mem (by simp))
  · split at e
    · cases e
    · obtain ⟨n, -, rfl⟩ := Option.map_eq_some_iff.mp e
      exact h.of_mem (by simp)
  · cases e
    exact h

/-- The state of an answer, or another. -/
theorem getD_keeps {x : Option State} {s : State} (hx : ∀ {u}, x = some u → MemoryInv u) (h : MemoryInv s) :
    MemoryInv (x.getD s) := by
  cases x with
  | none => exact h
  | some u => exact hx rfl

theorem arriveAt_keeps {s : State} (id : Nat) (d : Delivery) (h : MemoryInv s) : MemoryInv (arriveAt s id d) :=
  ite_keeps (setCore_keeps _ _ h) (getD_keeps (placeArrival_keeps h) (setCore_keeps _ _ h))

theorem replyTo_keeps {s : State} (d : Delivery) (l : Loc) (hd : Word) (r : Nat) (v : Word) (h : MemoryInv s) :
    MemoryInv (replyTo s d l hd r v) := ite_keeps (undeliverable_keeps _ _ _ _ _ h) (h.of_mem (by simp))

@[simp] theorem pageWake_mem (s : State) (l : Loc) : (pageWake s l).mem = s.mem := by
  unfold pageWake
  split <;> simp

@[simp] theorem unitWake_mem (s : State) (k : Nat) (lichen : Bool) : (unitWake s k lichen).mem = s.mem := rfl

theorem wakeBy_keeps {s : State} (d : Delivery) (hd : Word) (page : Bool) (l : Option Loc) (h : MemoryInv s) :
    MemoryInv (wakeBy s d hd page l) := by
  unfold wakeBy
  extract_lets s1
  have h1 : MemoryInv s1 := by
    simp only [s1]
    split
    · exact h.of_mem (by simp)
    · exact h
  split
  · exact ite_keeps (h1.of_mem (by simp)) (h1.of_mem (by simp))
  · exact ite_keeps h1 (undeliverable_keeps _ _ _ _ _ h)

theorem packetAt_keeps {s : State} (id : Nat) (d : Delivery) {f : State → State} (hf : MemoryInv s → MemoryInv (f s))
    (h : MemoryInv s) : MemoryInv (packetAt s id d f) := ite_keeps (undeliverable_keeps _ _ _ _ _ h) (hf h)

@[simp] theorem barrierAt_mem (s : State) (id ctx round tag : Nat) : (barrierAt s id ctx round tag).mem = s.mem := by
  simp [barrierAt]

theorem takeEffect_keeps {s : State} (id : Nat) (l : Option Loc) (d : Delivery) (h : MemoryInv s) :
    MemoryInv (takeEffect s id l d) := by
  unfold takeEffect
  split
  · exact arriveAt_keeps _ _ h
  · exact arriveAt_keeps _ _ h
  · exact arriveAt_keeps _ _ (h.of_mem (by simp))
  · split
    · exact replyTo_keeps _ _ _ _ _ h
    · exact undeliverable_keeps _ _ _ _ _ h
  · exact wakeBy_keeps _ _ _ _ h
  · split
    · exact onThread_keeps _ _ h
    · exact ite_keeps h (undeliverable_keeps _ _ _ _ _ h)
  · exact packetAt_keeps _ _ (fun h => h.of_mem (by simp)) h
  · exact packetAt_keeps _ _ (fun h => nredArrive_keeps _ _ _ _ _ h) h

theorem deliver_keeps {s u : State} {d : Delivery} (h : MemoryInv s) (e : deliver s d = some u) : MemoryInv u := by
  unfold deliver at e
  repeat' split at e
  all_goals cases e
  · exact spillAdd_keeps _ _ _ h
  · exact takeEffect_keeps _ _ _ h
  · exact takeEffect_keeps _ _ _ h
  · exact spillAdd_keeps _ _ _ h
  · exact takeEffect_keeps _ _ _ h

theorem replay_keeps {s : State} (dst : Nat) (d : Delivery) (h : MemoryInv s) : MemoryInv (replay s dst d) :=
  takeEffect_keeps _ _ _ h

end Sys2Proof.Machine
end

section
/-!
SUPPORT. Memory keeps its form through the units, pre-emption, saving and resumption.
-/

namespace Sys2Proof.Machine

/-! ### Units and stores outside the barrels (R36, R190, R212, R213) -/

theorem displaceLate_keeps {s : State} (l : Loc) (h : MemoryInv s) : MemoryInv (displaceLate s l) :=
  ite_keeps h (ite_keeps (saveAway_keeps l h) (ite_keeps (displace_keeps l h) h))

@[simp] theorem unpop_mem (s : State) (q : SfuReq) : (unpop s q).mem = s.mem := by
  unfold unpop
  split <;> rfl

theorem sfuReturn_keeps {s : State} (k : Nat) (q : SfuReq) (rest : List SfuReq) (h : MemoryInv s) :
    MemoryInv (sfuReturn s k q rest) := by
  unfold sfuReturn
  dsimp only
  split
  · next h1 =>
    refine displaceLate_keeps _ (h.of_mem ?_)
    rw [State.onThread_mem, writeVectorAt_mem h1, State.setCluster_mem]
  · exact h.of_mem (by simp)
  · split
    · exact stopThread_keeps _ _ _ _ _ (h.of_mem (by simp))
    · exact h

@[simp] theorem flushCluster_mem (s : State) (k : Nat) : (flushCluster s k).mem = s.mem := rfl

@[simp] theorem trimQueues_mem (s : State) (k : Nat) : (trimQueues s k).mem = s.mem := foldl_mem (fun _ _ => by rfl) _ s

@[simp] theorem switchMode_mem (s : State) (k : Nat) (w : Switch) : (switchMode s k w).mem = s.mem := by
  unfold switchMode
  extract_lets cl old s1 cl1 s2
  have h1 : s1.mem = s.mem := by
    simp only [s1]
    split <;> rfl
  have h2 : s2.mem = s.mem := by simp [s2, h1]
  split <;> simp [h2]

theorem statusEntry_keeps {s : State} (cause rcb : Nat) (handle val launch : Word) (crew : BitVec 32) (h : MemoryInv s) :
    MemoryInv (statusEntry s cause rcb handle val launch crew) := logEntry_keeps _ _ h

theorem endCopy_keeps {s : State} (k n : Nat) (q : CopyCmd) (status : Nat) (h : MemoryInv s) : MemoryInv (endCopy s k n q status) :=
  settle_keeps _ (fillToken_keeps _ _ _ _ _ _ (setCluster_keeps _ _ h))

@[simp] theorem reachAll_mem (s : State) (ps : List (Nat × Nat × Place)) : (reachAll s ps).mem = s.mem :=
  foldl_mem (fun _ _ => by simp) ps s

theorem copyRemote_keeps {x : CopyDone} (p : PStore) (m dom : Nat) (h : MemoryInv x.s) : MemoryInv (copyRemote x p m dom).s := by
  refine List.foldlRecOn (motive := fun x : CopyDone => MemoryInv x.s) _ _ (sendCast_keeps _ p none h) fun x hx d _ => ?_
  split <;> exact hx

theorem copyStore_keeps {x : CopyDone} (multi : Bool) (p : PStore) (h : MemoryInv x.s) : MemoryInv (copyStore multi x p).s := by
  unfold copyStore
  extract_lets leaf ds asid
  clear_value leaf asid
  have hd : MemoryInv (((List.range ds.length).zip ds).foldl (fun (x : CopyDone) d => if d.2.2 then
      { x with s := putFrame x.s p asid (d.2.1 + p.addr % 4096), done := x.done ||| 2 ^ d.1 }
      else { x with skip := x.skip ||| 2 ^ d.1 }) x).s := by
    refine List.foldlRecOn (motive := fun x : CopyDone => MemoryInv x.s) _ _ h fun x hx d _ => ?_
    split
    · exact putFrame_keeps _ _ _ hx
    · exact hx
  split
  · exact copyRemote_keeps p _ _ h
  · split
    · exact hd
    · exact performStore_keeps _ h

theorem copyPerform_keeps {s : State} (q : CopyCmd) (stores : List PStore) (h : MemoryInv s) :
    MemoryInv (copyPerform s q stores).s :=
  List.foldlRecOn (motive := fun x : CopyDone => MemoryInv x.s) _ _ h fun _ hx p _ => copyStore_keeps _ p hx

/-- A unit's operation without a route waits, or ends. -/
theorem routeWait_keeps {s fail : State} {since : Option Nat} {stay : Nat → State} (h : MemoryInv s)
    (hs : ∀ n, MemoryInv (stay n)) (hf : MemoryInv fail) : MemoryInv (routeWait s since stay fail) := by
  unfold routeWait
  split
  · exact hs _
  · exact ite_keeps h hf

@[simp] theorem unitPageEvent_mem (s : State) (l : Loc) (handle launch : Word) (rcb va : Nat) :
    (unitPageEvent s l handle launch rcb va).mem = s.mem := rfl

theorem reachStop_keeps {s : State} (e : Stop) (h : MemoryInv s) : MemoryInv (s.reachStop e) := h.of_mem (by simp)

theorem reachAll_keeps {s : State} (ps : List (Nat × Nat × Place)) (h : MemoryInv s) : MemoryInv (reachAll s ps) := h.of_mem (by simp)

theorem noteFlags_keeps {s : State} (hd launch : Word) (flags : BitVec 64) (h : MemoryInv s) :
    MemoryInv (noteFlags s hd launch flags) := h.of_mem (by simp)

theorem stopCopy_keeps {s : State} (k n : Nat) (q : CopyCmd) (e : Stop) (a : Nat) (h : MemoryInv s) :
    MemoryInv (stopCopy s k n q e a) :=
  endCopy_keeps _ _ _ _ (statusEntry_keeps _ _ _ _ _ _ (copyPerform_keeps _ _ (reachStop_keeps e h)))

theorem runCopy_keeps {s : State} (k n : Nat) (q : CopyCmd) (h : MemoryInv s) : MemoryInv (runCopy s k n q) := by
  unfold runCopy
  extract_lets cl stay
  have hs (q : CopyCmd) : MemoryInv (stay q) := setCluster_keeps _ _ h
  split
  · next ss ds _ =>
    have h1 := copyPerform_keeps q (copyStores s k q ss ds).1 (reachAll_keeps ds (reachAll_keeps ss h))
    exact endCopy_keeps _ _ _ _ (noteFlags_keeps _ _ _ (ite_keeps h1 (statusEntry_keeps _ _ _ _ _ _ h1)))
  · next asid va _ _ => exact (hs { q with wait := some (asid, va), route := none }).of_mem (by simp)
  · exact hs _
  · exact routeWait_keeps h (fun t => hs _) (stopCopy_keeps _ _ _ _ _ h)
  · exact stopCopy_keeps _ _ _ _ _ h

/-! ### The Lichen unit (R257, R260) -/

theorem lichenPut_keeps {s : State} (k : Nat) (q : LichenCmd) (c : Cap) (off size v : Nat) (h : MemoryInv s) :
    MemoryInv (lichenPut s k q c off size v) := by
  unfold lichenPut
  split
  · exact performStore_keeps _ h
  · exact h

theorem endLichen_keeps {s : State} (k n : Nat) (q : LichenCmd) (status : Nat) (h : MemoryInv s) :
    MemoryInv (endLichen s k n q status) := settle_keeps _ (fillToken_keeps _ _ _ _ _ _ (setCluster_keeps _ _ h))

theorem lichenStop_keeps {s : State} (k n : Nat) (q : LichenCmd) (e : Stop × Nat) {f : State → State}
    (hf : ∀ {u : State}, MemoryInv u → MemoryInv (f u)) (h : MemoryInv s) : MemoryInv (lichenStop s k n q e f) := by
  unfold lichenStop
  split
  · exact h.of_mem (by simp)
  · dsimp only
    have he := endLichen_keeps k n q ((e.1.fault?.map fun f => f.1).getD 0x0D)
      (statusEntry_keeps ((e.1.fault?.map fun f => f.1).getD 0x0D) q.rcb q.handle (BitVec.ofNat 64 e.2) q.launch q.crewId
        (hf (reachStop_keeps e.1 h)))
    split
    · exact setCluster_keeps _ _ h
    · exact routeWait_keeps h (fun _ => setCluster_keeps _ _ h) he
    · exact he

@[simp] theorem lichenReach_mem (s : State) (k : Nat) (q : LichenCmd) (xs : List (Cap × Nat × Nat × Need)) :
    (lichenReach s k q xs).mem = s.mem := foldl_mem (fun s x => by split <;> simp) xs s

@[simp] theorem reachEntries_mem (s : State) (t : Thread) (ns : List Nat) : (reachEntries s t ns).mem = s.mem :=
  foldl_mem (fun s n => by split <;> simp) ns s

@[simp] theorem reachSpan_mem (s : State) (asid : Nat) (c : Cap) (bytes : Nat) : (reachSpan s asid c bytes).mem = s.mem := by
  unfold reachSpan
  split <;> simp

@[simp] theorem reachForest_mem (s : State) (t : Thread) (f : Forest) : (reachForest s t f).mem = s.mem := by
  unfold reachForest
  dsimp only
  split <;> simp

@[simp] theorem reachCommand_mem (s : State) (t : Thread) (f : Forest) (q : LichenCmd) : (reachCommand s t f q).mem = s.mem := by
  unfold reachCommand
  dsimp only
  split <;> simp

theorem withForest_keeps {s : State} (k n : Nat) (q : LichenCmd) {run : State → LichenCmd → State}
    (hr : ∀ {u : State} (c : LichenCmd), MemoryInv u → MemoryInv (run u c)) (h : MemoryInv s) :
    MemoryInv (withForest s k n q run) := by
  unfold withForest
  refine ite_keeps (hr q h) ?_
  split
  · exact hr _ (h.of_mem (by simp))
  · exact lichenStop_keeps _ _ _ _ (fun h => h) h

theorem initEntries_keeps {s : State} (k : Nat) (q : LichenCmd) (p : Nat → Bool) (h : MemoryInv s) :
    MemoryInv (initEntries s k q p) := by
  refine foldl_keeps (fun {s} i h => ?_) _ h
  have h1 : MemoryInv (if p (2 * i) then lichenPut s k q q.parent (4 * i) 4 i else s) := ite_keeps (lichenPut_keeps _ _ _ _ _ _ h) h
  exact ite_keeps (lichenPut_keeps _ _ _ _ _ _ h1) h1

theorem runInit_keeps {s : State} (k n : Nat) (q : LichenCmd) (h : MemoryInv s) : MemoryInv (runInit s k n q) := by
  unfold runInit
  dsimp only
  split
  · exact lichenStop_keeps _ _ _ _ (fun h => initEntries_keeps _ _ _ h) h
  · refine endLichen_keeps _ _ _ _ (ite_keeps (lichenPut_keeps _ _ _ _ _ _ ?_) ?_)
    all_goals
      refine lichenPut_keeps _ _ _ _ _ _ (lichenPut_keeps _ _ _ _ _ _ (lichenPut_keeps _ _ _ _ _ _ (initEntries_keeps _ _ _ ?_)))
      exact h.of_mem (by simp)

theorem reduceWrites_keeps {s : State} (k : Nat) (q : LichenCmd) (p : Nat → Bool) (h : MemoryInv s) :
    MemoryInv (reduceWrites s k q p).1 := by
  unfold reduceWrites
  extract_lets w e roots value x
  have hx : MemoryInv x.1 := by
    refine List.foldlRecOn (motive := fun a : State × Nat => MemoryInv a.1) _ _ h fun a ha r _ => ?_
    dsimp only
    split
    · exact ha
    · split
      · exact ha
      · exact lichenPut_keeps _ _ _ _ _ _ ha
  split
  · exact hx
  · exact foldl_keeps (fun r h => ite_keeps (lichenPut_keeps _ _ _ _ _ _ h) h) _ hx

theorem runReduce_keeps {s : State} (k n : Nat) (q : LichenCmd) (h : MemoryInv s) : MemoryInv (runReduce s k n q) := by
  unfold runReduce
  extract_lets w e all partly
  have hp {u : State} (hu : MemoryInv u) : MemoryInv (partly u) := reduceWrites_keeps k q _ hu
  split
  · exact lichenStop_keeps _ _ _ _ hp h
  · split
    · exact endLichen_keeps _ _ _ _ (statusEntry_keeps _ _ _ _ _ _ (hp h))
    · exact endLichen_keeps _ _ _ _ (noteFlags_keeps _ _ _ (reduceWrites_keeps _ _ _ (h.of_mem (by simp))))

/-! ### Pre-emption, saving and resumption (R331, R342, R347) -/

theorem preemptCrew_keeps {s : State} (need k : Nat) (h : MemoryInv s) : MemoryInv (preemptCrew s need k) := by
  unfold preemptCrew
  dsimp only
  split
  · exact h
  · exact ite_keeps h (ite_keeps (setCluster_keeps _ _ h) (logEntry_keeps _ _ h))

theorem preemptCrews_keeps {s : State} (i : Nat) (ks : List Nat) (h : MemoryInv s) : MemoryInv (preemptCrews s i ks) := by
  unfold preemptCrews
  split
  · exact h
  · extract_lets vs s1 l' s0 s2 a s3
    have h1 : MemoryInv s1 := foldl_keeps (fun k h => preemptCrew_keeps _ k h) ks h
    have h0 : MemoryInv s0 := rcbPut_keeps _ _ _ _ h1
    have h2 : MemoryInv s2 := launches_keeps _ h0
    have h3 : MemoryInv s3 := ite_keeps (capWrite_keeps _ _ _ _ _ h2) h2
    exact ite_keeps h1 (foldl_keeps (fun l h => saveAway_keeps l h) vs h3)

theorem preemptLaunch_keeps {s : State} (i : Nat) (h : MemoryInv s) : MemoryInv (preemptLaunch s i) := by
  unfold preemptLaunch
  split
  · exact h
  · dsimp only
    split
    · exact launchSaved_keeps _ (launches_keeps _ h)
    · exact preemptCrews_keeps _ _ (launches_keeps _ h)

theorem resumeLaunch_keeps {s : State} (i : Nat) (l : Launch) (h : MemoryInv s) : MemoryInv (resumeLaunch s i l) := by
  unfold resumeLaunch
  extract_lets s1 l'
  have h1 : MemoryInv s1 := ite_keeps (rcbPut_keeps _ _ _ _ h) h
  exact ite_keeps (launches_keeps _ h) (launches_keeps _ h1)

@[simp] theorem cleanCluster_mem (s : State) (k : Nat) : (cleanCluster s k).mem = s.mem := rfl

theorem cleanCluster_keeps {s : State} (k : Nat) (h : MemoryInv s) : MemoryInv (cleanCluster s k) := h.of_mem (by simp)

theorem flushCluster_keeps {s : State} (k : Nat) (h : MemoryInv s) : MemoryInv (flushCluster s k) := h.of_mem (by simp)

theorem putSpill_keeps {s : State} (sp : Spill) (base : Nat) (h : MemoryInv s) : MemoryInv (putSpill s sp base) :=
  areaPut_keeps _ _ _ (foldl_keeps (fun _ h => spillWrite_keeps _ _ _ h) _ h)

theorem crewSaved_keeps {s : State} (k : Nat) (c : Crew) (h : MemoryInv s) : MemoryInv (crewSaved s k c) := by
  unfold crewSaved
  extract_lets s1 cl s2
  have h2 : MemoryInv s2 := setCluster_keeps _ _ (flushCluster_keeps _ (drainAll_keeps k h))
  split
  · exact h2
  · split
    · exact h2
    · exact launchSaved_keeps _ (launches_keeps _ h2)

theorem saveCore_keeps {s : State} (k id : Nat) (c : Crew) (h : MemoryInv s) : MemoryInv (saveCore s k id c) := by
  unfold saveCore
  extract_lets last base x slots sp s0 s1 s2 s3
  have h0 : MemoryInv s0 := putSpill_keeps _ _ (putCore_keeps _ _ _ _ _ _ h)
  have h1 : MemoryInv s1 := capWrite_keeps _ _ _ _ _ (cleanCluster_keeps _ h0)
  have h3 : MemoryInv s3 := setCore_keeps _ _ (foldl_keeps (fun n h => leaveSlot_keeps _ h) slots h1)
  exact ite_keeps (crewSaved_keeps _ _ h3) (setCluster_keeps _ _ h3)

@[simp] theorem rewait_mem (s : State) (k : Nat) : (rewait s k).mem = s.mem := by
  unfold rewait
  extract_lets s1 s2
  have h1 : s1.mem = s.mem := foldl_mem (fun s l => by split <;> simp) _ s
  have h2 : s2.mem = s1.mem := foldl_mem (fun _ _ => by simp) _ s1
  rw [foldl_mem fun s j => foldl_mem (fun _ _ => by simp) _ s, h2, h1]

theorem drainSpill_keeps {s : State} (src dst : Nat) (ident : Word) (crew : Nat) (h : MemoryInv s) :
    MemoryInv (drainSpill s src dst ident crew) := by
  unfold drainSpill
  split
  · exact h
  · exact foldl_keeps (fun d h => replay_keeps _ d h) _ (setCore_keeps _ _ h)

@[simp] theorem visitorsLeft_mem (s : State) (ident : Word) : (visitorsLeft s ident).mem = s.mem := rfl

theorem resumeVisitors_keeps {s : State} (l : Launch) (k : Nat) (h : MemoryInv s) : MemoryInv (resumeVisitors s l k) := by
  unfold resumeVisitors
  extract_lets a n0 n s0 s1
  have h0 : MemoryInv s0 := ite_keeps h (h.of_mem (by simp))
  have h1 : MemoryInv s1 := by
    refine foldl_keeps (fun i h => ?_) _ h0
    dsimp only
    split
    · exact send_keeps _ (h.of_mem rfl)
    · exact h
  exact (ite_keeps (c := n = 0) h1 (capWrite_keeps a.1 a.2 4 0 false h1)).of_mem (visitorsLeft_mem _ _)

theorem reachArea_keeps {s : State} (c : Cap) (va size : Nat) (h : MemoryInv s) : MemoryInv (reachArea s c va size) := h.of_mem (by simp)

theorem reachRecords_keeps {s : State} (c : Cap) (crew : Nat) (cl : Cluster) (h : MemoryInv s) :
    MemoryInv (reachRecords s c crew cl) :=
  reachArea_keeps _ _ _ (foldl_keeps (fun _ h => reachArea_keeps _ _ _ (reachArea_keeps _ _ _ h)) _ h)

theorem rewait_keeps {s : State} (k : Nat) (h : MemoryInv s) : MemoryInv (rewait s k) := h.of_mem (by simp)

theorem resumeCrew_keeps {s : State} (i : Nat) (l : Launch) (crew old k : Nat) (h : MemoryInv s) :
    MemoryInv (resumeCrew s i l crew old k) := by
  unfold resumeCrew
  extract_lets c cap base cl0' cl0 cl s1 s2 refused rest l' s3' s3 s4 s5
  have h1 : MemoryInv s1 := reachRecords_keeps _ _ _ (reachRegion_keeps _ (setCluster_keeps _ _ h))
  have h2 : MemoryInv s2 := foldl_keeps (fun _ h => setCore_keeps _ _ h) _ h1
  have h3' : MemoryInv s3' := rcbPut_keeps _ _ _ _ h2
  have h3 : MemoryInv s3 := launches_keeps _ h3'
  have h4 : MemoryInv s4 := ite_keeps (resumeVisitors_keeps _ _ h3) h3
  have h5 : MemoryInv s5 := rewait_keeps _ (refuseWaiters_keeps _ h4)
  exact settle_keeps _ (foldl_keeps (fun j h => drainSpill_keeps _ _ _ _ h) _ h5)

end Sys2Proof.Machine
end

section
/-!
SUPPORT. Memory keeps its form through the scheduler, the directory, the ports, sequences, forests, power and the debug path.
-/

namespace Sys2Proof.Machine

/-! ### The scheduler (R371–R382) -/

theorem blockPut_keeps {s : State} (off size v : Nat) (h : MemoryInv s) : MemoryInv (s.blockPut off size v) := physPut_keeps _ _ _ h

theorem writeToken_keeps {s : State} (va outcome : Nat) (h : MemoryInv s) : MemoryInv (writeToken s va outcome) :=
  ite_keeps h (physPut_keeps _ _ _ h)

@[simp] theorem placeCrew_mem (s : State) (l : Launch) (n k : Nat) : (placeCrew s l n k).mem = s.mem := by
  unfold placeCrew
  extract_lets c s1 s2
  have h2 : s2.mem = s.mem := by simp [s2, s1]
  rw [foldl_mem fun _ _ => by simp, h2]

theorem placeCrew_keeps {s : State} (l : Launch) (n k : Nat) (h : MemoryInv s) : MemoryInv (placeCrew s l n k) := h.of_mem (by simp)

theorem placeNext_keeps {s : State} (i : Nat) (h : MemoryInv s) : MemoryInv (placeNext s i) := by
  unfold placeNext
  split
  · exact h
  · split
    · exact placeCrew_keeps _ _ _ (launches_keeps _ (ite_keeps h (rcbPut_keeps _ _ _ _ h)))
    · exact h

theorem pickQueue_mem (s : State) (level : Nat) : (pickQueue s level).1.mem = s.mem := by
  unfold pickQueue
  extract_lets qs s1 total best
  have h1 : s1.mem = s.mem := foldl_mem (fun _ _ => by rfl) qs s
  clear_value best s1
  cases best with
  | none => exact h1
  | some q => exact h1

theorem entryCount_keeps {s : State} (e off : Nat) (h : MemoryInv s) : MemoryInv (entryCount s e off) := blockPut_keeps _ _ _ h

theorem makeRoom_keeps (n : Nat) {s : State} (l : Launch) (need : Nat) (ks : List Nat) (h : MemoryInv s) :
    MemoryInv (makeRoom n s l need ks) := by
  induction n generalizing s ks with
  | zero => exact h
  | succ n ih =>
    cases ks with
    | nil => exact h
    | cons k ks =>
      unfold makeRoom
      refine ite_keeps h (ih ks ?_)
      split
      · split
        · exact preemptCrews_keeps _ _ h
        · exact h
      · exact h

theorem makeRoomFor_keeps {s : State} (l : Launch) (h : MemoryInv s) : MemoryInv (makeRoomFor s l) := makeRoom_keeps _ _ _ _ h

theorem resumeEntry_keeps {s : State} (e i : Nat) (l : Launch) (window : Nat) (h : MemoryInv s) :
    MemoryInv (resumeEntry s e i l window) := by
  unfold resumeEntry
  extract_lets s1
  have h1 : MemoryInv s1 := resumeLaunch_keeps _ _ (entryCount_keeps _ _ h)
  split
  · exact makeRoomFor_keeps _ h1
  · exact h1

/-- Pages that a walk of the region tree reaches change no launch. -/
theorem reachRegion_launches (s : State) (r : Nat) : (reachRegion s r).launches = s.launches :=
  List.foldlRecOn (motive := fun u : State => u.launches = s.launches) _ _ rfl fun _ hu _ _ => hu

theorem fireEntry_keeps {s : State} (e slot : Nat) (h : MemoryInv s) : MemoryInv (fireEntry s e slot) := by
  have h1 := reachRegion_keeps (entryField s e 0 8) h
  unfold fireEntry
  refine ite_keeps (writeToken_keeps _ _ h1) (ite_keeps (entryCount_keeps _ _ h1) ?_)
  rw [reachRegion_launches]
  split
  · split
    · exact ite_keeps (resumeEntry_keeps _ _ _ _ h1) (entryCount_keeps _ _ h1)
    · exact h1
  · exact ite_keeps (entryCount_keeps _ _ h1)
      (makeRoomFor_keeps _ (writeToken_keeps _ _ (entryCount_keeps _ _ (launches_keeps _ h1))))

theorem dueEntry_keeps {s : State} (slot : Nat) (h : MemoryInv s) : MemoryInv (dueEntry s slot) :=
  ite_keeps h (ite_keeps h (ite_keeps (entryCount_keeps _ _ h) (ite_keeps (h.of_mem rfl) (fireEntry_keeps _ _ h))))

@[simp] theorem age_mem (s : State) : (age s).mem = s.mem := rfl

/-- The header that is in effect is no part of memory. -/
theorem header_keeps {s : State} (base ticks len : Nat) (h : MemoryInv s) :
    MemoryInv { s with tbase := base, tticks := ticks, tlen := len } := h.of_mem (by simp)

theorem latchHeader_keeps {s : State} (h : MemoryInv s) : MemoryInv (latchHeader s) := by
  unfold latchHeader
  exact header_keeps _ _ _ h

theorem beginSlot_keeps {s : State} (n : Nat) (h : MemoryInv s) : MemoryInv (beginSlot s n) := blockPut_keeps _ _ _ (h.of_mem rfl)

theorem changedSlot_keeps {s : State} (h : MemoryInv s) : MemoryInv (changedSlot s) := by
  unfold changedSlot
  extract_lets n s1
  have h1 : MemoryInv s1 := beginSlot_keeps _ h
  exact ite_keeps (h.of_mem rfl) (ite_keeps (dueEntry_keeps _ h1) h1)

/-! ### The directory, hosts, the ingress port (R362, R389, R403) -/

theorem refuseHost_keeps {s : State} (k va : Nat) (w : Bool) (h : MemoryInv s) : MemoryInv (refuseHost s k va w) := by
  have h1 : MemoryInv (hostRefused s va) := logEntry_keeps _ _ h
  exact ite_keeps h (ite_keeps h1 (h1.of_mem rfl))

@[simp] theorem setDir_mem (s : State) (key : Nat) (f : Dir → Dir) : (setDir s key f).mem = s.mem := by
  unfold setDir
  split <;> rfl

theorem serveAccess_keeps {s : State} (asid va : Nat) (flips : List Nat) (h : MemoryInv s) :
    MemoryInv (serveAccess s asid va flips) := serveAccess_wf _ _ _ h

/-- A step that goes on from a state whose memory keeps its form. -/
theorem outside_goesOn {s u : State} (h : MemoryInv s → MemoryInv u) : GoesOn s (outside u) :=
  ⟨u.bump, rfl, fun hs => (h hs).of_mem (by simp)⟩

/-- Either of two ways on. -/
theorem ite_goesOn {c : Prop} [Decidable c] {s : State} {o p : Host.Outcome State Fault Refusal} (ho : GoesOn s o)
    (hp : GoesOn s p) : GoesOn s (if c then o else p) := by
  split
  · exact ho
  · exact hp

theorem serveLine_goesOn {s : State} {w : Bool} {f : State → Nat → State}
    (hf : ∀ {u : State} key, MemoryInv u → MemoryInv (f u key)) : GoesOn s (serveLine s w f) := by
  unfold serveLine
  dsimp only
  split
  · exact outside_goesOn id
  · refine ite_goesOn (outside_goesOn id) (ite_goesOn (outside_goesOn (refuseHost_keeps _ _ _)) (outside_goesOn fun h => ?_))
    have h1 := serveAccess_keeps s.cue.b (s.cue.c * 128) s.cue.flips h
    exact ite_keeps h1 (ite_keeps (hf _ h1) (cacheIn_keeps _ _ (hf _ h1)))

@[simp] theorem windowAnswer_mem (s : State) (v : Except Nat Word) : (windowAnswer s v).mem = s.mem := rfl

theorem windowAnswer_keeps {s : State} (v : Except Nat Word) (h : MemoryInv s) : MemoryInv (windowAnswer s v) := h.of_mem (by simp)

theorem windowRmw_keeps {s : State} (pl : Place) (size : Nat) (r : Rmw) (h : MemoryInv s) : MemoryInv (windowRmw s pl size r) := by
  refine windowAnswer_keeps _ ?_
  split
  · exact performStore_keeps _ h
  · exact h

theorem windowCast_keeps {s : State} (pl : Place) (size : Nat) (op : Option Nat) (v : Word) (h : MemoryInv s) :
    MemoryInv (windowCast s pl size op v) := by
  unfold windowCast
  split
  · refine windowAnswer_keeps _ (castAll_keeps _ _ (fun f s h => ?_) h)
    dsimp only
    split
    · exact frameWrite_keeps _ _ _ _ h
    · split <;> exact performStore_keeps _ h
  · exact h

theorem windowServe_goesOn {s : State} {va size dom : Nat} {need : Need} {f : Place → State}
    (hf : ∀ pl, MemoryInv s → MemoryInv (f pl)) : GoesOn s (windowServe s va size dom need f) := by
  unfold windowServe
  refine ite_goesOn (outside_goesOn id) ?_
  split
  · exact outside_goesOn fun h => (hf _ h).of_mem (State.reachAt_mem _ _)
  · exact outside_goesOn fun h => h.of_mem (by simp)
  · split
    · exact outside_goesOn fun h => h.of_mem (by simp)
    · exact outside_goesOn id

/-! ### Spans (R197) -/

theorem spanLoads_keeps {s : State} (t : Thread) (c : Cap) (ps : List (Nat × Nat × Place)) (h : MemoryInv s) :
    MemoryInv (spanLoads s t c ps) :=
  foldl_keeps (fun p h => (settleWide_keeps _ (strengthened t c) p.2.2 p.2.1 h).of_mem (State.reachAt_mem _ _)) ps h

theorem spanOrder_keeps {s : State} (t : Thread) (c : Cap) (ps : List (Nat × Nat × Place)) (h : MemoryInv s) :
    MemoryInv (spanOrder s t c ps) :=
  foldl_keeps (fun _ h => h.of_mem (State.reachAt_mem _ _)) ps (ite_keeps (drain_keeps _ h) h)

@[simp] theorem setTileKind_mem (s : State) (n cls : Nat) (shape : Word) : (setTileKind s n cls shape).mem = s.mem := rfl

theorem enqueue_keeps {s : State} (reads : List Nat) (writes : List MatWrite) (flags : Nat) (h : MemoryInv s) :
    KeepsIn (enqueue s reads writes flags) := by
  unfold enqueue
  dsimp only
  split
  · trivial
  · exact setCore_keeps _ _ h

/-! ### Ports, routes, leadership (R392, R405, R407, R408) -/

@[simp] theorem State.setPort_mem (s : State) (p : Nat) (x : Port) : (s.setPort p x).mem = s.mem := rfl

@[simp] theorem State.setLink_mem (s : State) (p d : Nat) (f : Link → Link) : (s.setLink p d f).mem = s.mem := rfl

theorem onPort_goesOn {s : State} {f : Nat → Port → State} (hf : ∀ p x, MemoryInv s → MemoryInv (f p x)) : GoesOn s (onPort s f) :=
  ite_goesOn (outside_goesOn id) (outside_goesOn (hf _ _))

theorem portDown_keeps {s : State} (p : Nat) (h : MemoryInv s) : MemoryInv (portDown s p) := by
  unfold portDown
  extract_lets x s1 s2
  have h1 : MemoryInv s1 := h.of_mem rfl
  have h2 : MemoryInv s2 := ite_keeps (blockPut_keeps _ _ _ h1) (blockPut_keeps _ _ _ h1)
  clear_value s2
  exact h2.of_mem rfl

theorem releaseNred_keeps {s : State} (opens : Nat → Bool) (id : Nat) (h : MemoryInv s) : MemoryInv (releaseNred opens s id) :=
  foldl_keeps (fun _ h => ite_keeps h (foldl_keeps (fun _ h => fillToken_keeps _ _ _ _ _ _ h) _ (setCore_keeps _ _ h))) _ h

@[simp] theorem endRoute_mem (opens : Nat → Bool) (s : State) (id : Nat) : (endRoute opens s id).mem = s.mem :=
  foldl_mem (fun _ _ => by simp) _ s

theorem openRoutes_keeps {s : State} (h : MemoryInv s) : MemoryInv (openRoutes s) := by
  refine foldl_keeps (fun id h => releaseNred_keeps _ id h) _ (h.of_mem ?_)
  rw [foldl_mem fun _ _ => by simp]
  rfl

theorem beat_keeps {s : State} (d : Nat) (e : BitVec 32) (h : MemoryInv s) : MemoryInv (beat s d e) :=
  ite_keeps (blockPut_keeps _ _ _ (drain_keeps _ h)) (setCore_keeps _ _ h)

theorem tickPair_keeps {s : State} (d : Nat) (h : MemoryInv s) : MemoryInv (tickPair s d) := by
  unfold tickPair
  split
  · exact beat_keeps _ _ h
  · exact ite_keeps (setCore_keeps _ _ h) h

theorem announce_keeps {s : State} (d epoch : Nat) (h : MemoryInv s) : MemoryInv (announce s d epoch) :=
  blockPut_keeps _ _ _ (drain_keeps _ h)

theorem setHalted_keeps {s : State} (ids : List Nat) (b : Bool) (h : MemoryInv s) : MemoryInv (setHalted s ids b) := h.of_mem (by simp)

theorem fenced_keeps {s : State} (b : Bool) (h : MemoryInv s) : MemoryInv { s with fenced := b } := h.of_mem (by simp)

theorem takeLead_keeps {s : State} (d e : Nat) (h : MemoryInv s) : MemoryInv (takeLead s d e) :=
  fenced_keeps _ (setHalted_keeps _ _ (setCore_keeps _ _
    (blockPut_keeps _ _ _ (blockPut_keeps _ _ _ (blockPut_keeps _ _ _ h)))))

theorem beginTakeover_keeps {s : State} (d : Nat) (h : MemoryInv s) : MemoryInv (beginTakeover s d) := by
  have h1 := setCore_keeps (pairOf d) { (drain s (pathOf (pairOf d))).core (pairOf d) with overdue := false }
    (drain_keeps (pathOf (pairOf d)) h)
  exact ite_keeps (takeLead_keeps _ _ h1) h1

theorem rootPut_keeps {s : State} (va size v : Nat) (h : MemoryInv s) : MemoryInv (s.rootPut va size v) := rootPut_wf _ _ _ h

theorem replayJournal_keeps {s : State} (h : MemoryInv s) : MemoryInv (replayJournal s) :=
  foldl_keeps (fun _ h => rootPut_keeps _ _ _ h) _ (h.of_mem (State.reachRange_mem _ _ _ _))

theorem endFence_keeps {s : State} (d : Nat) (h : MemoryInv s) : MemoryInv (endFence s d) :=
  announce_keeps _ _ (fenced_keeps _ (setHalted_keeps _ _ (blockPut_keeps _ _ _ h)))

/-! ### Sequences (R219–R245) -/

theorem writeBlock_keeps {s : State} (t : Thread) (ps : List (Nat × Nat × Place)) (old new : Nat) (h : MemoryInv s) :
    MemoryInv (writeBlock s t ps old new) := by
  refine foldl_keeps (fun i h => ?_) _ h
  refine ite_keeps h ?_
  split
  · exact performStore_keeps _ h
  · exact h

@[simp] theorem reachToken_mem (s : State) (v : Vocab) (id : Nat) : (reachToken s v id).mem = s.mem := by simp [reachToken]

@[simp] theorem reachText_mem (s : State) (v : Vocab) (id : Nat) : (reachText s v id).mem = s.mem := by
  unfold reachText
  split
  · split
    · dsimp only
      split <;> simp
    · rfl
  · simp

@[simp] theorem reachBlock_mem (s : State) (ps : List (Nat × Nat × Place)) : (reachBlock s ps).mem = s.mem := by simp [reachBlock]

@[simp] theorem reachEncode_mem (s : State) (v : Vocab) (n : Nat) : (reachEncode s v n).mem = s.mem := by
  unfold reachEncode
  extract_lets s1
  have h1 : s1.mem = s.mem := by
    simp only [s1]
    split
    · exact foldl_mem (fun _ _ => by simp) _ s
    · rfl
  split <;> simp [h1]

@[simp] theorem reachDecode_mem (s : State) (v : Vocab) (noControl : Bool) (ids : List Nat) :
    (reachDecode s v noControl ids).mem = s.mem := foldl_mem (fun s id => by split <;> simp) ids s

theorem reachBlock_keeps {s : State} (ps : List (Nat × Nat × Place)) (h : MemoryInv s) : MemoryInv (reachBlock s ps) := h.of_mem (by simp)

theorem reachAt_keeps {s : State} (pl : Place) (h : MemoryInv s) : MemoryInv (s.reachAt pl) := h.of_mem (by simp)

theorem sidePut_keeps {s : State} (t : Thread) (pl : Place) (size v : Nat) (h : MemoryInv s) : MemoryInv (sidePut s t pl size v) :=
  performStore_keeps _ (reachAt_keeps pl h)

theorem sideUpdate_keeps {s : State} (t : Thread) (size : Nat) (f : Nat → Nat) (pls : List Place) (h : MemoryInv s) :
    MemoryInv (sideUpdate s t size f pls) := foldl_keeps (fun _ h => sidePut_keeps _ _ _ _ h) pls h

theorem sideCopy_keeps {s : State} (t : Thread) (size : Nat) (pls : List (Place × Place)) (h : MemoryInv s) :
    MemoryInv (sideCopy s t size pls) := foldl_keeps (fun p h => sidePut_keeps _ _ _ _ (reachAt_keeps p.1 h)) pls h

theorem refAdd_keeps {s : State} (t : Thread) (v : Nat) (pl : Place) (h : MemoryInv s) : MemoryInv (refAdd s t v pl).1 :=
  rmwAt_keeps _ _ _ _ _ (reachAt_keeps pl h)

theorem refsRaised_keeps {s : State} (t : Thread) (pls : List Place) (h : MemoryInv s) : MemoryInv (refsRaised s t pls) :=
  foldl_keeps (fun _ h => refAdd_keeps _ _ _ h) pls h

theorem zeroedBy_keeps {s : State} (t : Thread) (pls : List Place) (h : MemoryInv s) : MemoryInv (zeroedBy s t pls).1 :=
  List.foldlRecOn (motive := fun x : State × Nat => MemoryInv x.1) _ _ h fun _ hx _ _ => refAdd_keeps _ _ _ hx

theorem writeSpan_keeps {s : State} (t : Thread) (ps : List (Nat × Nat × Place)) (bytes : List Nat) (h : MemoryInv s) :
    MemoryInv (writeSpan s t ps bytes) := foldl_keeps (fun _ h => performStore_keeps _ h) _ (reachAll_keeps _ h)

/-! ### Forests (R253–R263) -/

theorem arrayPut_keeps {s : State} (t : Thread) (c : Cap) (off size v : Nat) (h : MemoryInv s) :
    MemoryInv (arrayPut s t c off size v) := by
  unfold arrayPut
  split
  · exact sidePut_keeps _ _ _ _ h
  · exact h

theorem putDesc_keeps {s : State} (t : Thread) (f : Forest) (off size v : Nat) (h : MemoryInv s) :
    MemoryInv (putDesc s t f off size v) := arrayPut_keeps _ _ _ _ _ h

theorem findRoot_keeps {s : State} (t : Thread) (f : Forest) (fuel x : Nat) (h : MemoryInv s) :
    MemoryInv (findRoot t f fuel s x).1 := by
  induction fuel generalizing s x with
  | zero =>
    unfold findRoot
    dsimp only
    split <;> exact h
  | succ fuel ih =>
    unfold findRoot
    dsimp only
    split
    · exact h
    · split
      · exact h
      · exact ih _ (ite_keeps (arrayPut_keeps _ _ _ _ _ h) h)

theorem link_keeps {s : State} (t : Thread) (f : Forest) (lo hi : Nat) (h : MemoryInv s) : MemoryInv (link s t f lo hi) := by
  unfold link
  extract_lets s1 moved s2 s3
  have h2 : MemoryInv s2 := arrayPut_keeps _ _ _ _ _ (putDesc_keeps _ _ _ _ _ (arrayPut_keeps _ _ _ _ _ h))
  have h3 : MemoryInv s3 := ite_keeps (putDesc_keeps _ _ _ _ _ (arrayPut_keeps _ _ _ _ _ h2)) h2
  exact ite_keeps h3 (arrayPut_keeps _ _ _ _ _ h3)

theorem undo1_keeps {s : State} (t : Thread) (f : Forest) (k : Nat) (h : MemoryInv s) : MemoryInv (undo1 s t f k) :=
  arrayPut_keeps _ _ _ _ _ (arrayPut_keeps _ _ _ _ _ (arrayPut_keeps _ _ _ _ _ h))

theorem undoDown_keeps {s : State} (t : Thread) (f : Forest) (lo k : Nat) (h : MemoryInv s) :
    MemoryInv (undoDown s t f lo k) := by
  induction k generalizing s with
  | zero => exact h
  | succ k ih => exact ite_keeps h (ih (undo1_keeps _ _ _ h))

theorem lichenIssue_keeps {s : State} (t : Thread) (d : BitVec 5) (q : LichenCmd) (h : MemoryInv s) :
    MemoryInv (lichenIssue s t d q) := by
  have h1 : MemoryInv (drain s s.myPath) := drain_keeps _ h
  exact setCluster_keeps _ _ (h1.of_mem (claimMe_mem _ d))

/-! ### Power, bring-up, debug (R394–R413) -/

@[simp] theorem powerOff_mem (s : State) : (powerOff s).mem = s.mem := rfl

@[simp] theorem writerDone_mem (s : State) (l : Loc) : (writerDone s l).mem = s.mem := by
  unfold writerDone
  split <;> simp

theorem writerDone_keeps {s : State} (l : Loc) (h : MemoryInv s) : MemoryInv (writerDone s l) := h.of_mem (by simp)

@[simp] theorem setPower_mem (s : State) (d : Nat) (w : Word) : (setPower s d w).mem = s.mem := rfl

theorem setPower_keeps {s : State} (d : Nat) (w : Word) (h : MemoryInv s) : MemoryInv (setPower s d w) := h.of_mem (by simp)

theorem gateDie_keeps {s : State} (d : Nat) (w : Word) (h : MemoryInv s) : MemoryInv (gateDie s d w) :=
  setPower_keeps _ _ (foldl_keeps (fun _ h => flushCluster_keeps _ h) _ h)

@[simp] theorem allAsleep_mem (s : State) : (allAsleep s).mem = s.mem := by
  unfold allAsleep
  split <;> rfl

theorem sleepDie_keeps {s : State} (d : Nat) (w : Word) (h : MemoryInv s) : MemoryInv (sleepDie s d w) := by
  unfold sleepDie
  extract_lets s1 keys s2
  have h1 : MemoryInv s1 := foldl_keeps (fun _ h => flushCluster_keeps _ h) _ h
  have h2 : MemoryInv (keys.foldl cleanLine s1) := foldl_keeps (fun key h => cleanLine_keeps key h) keys h1
  exact h2.of_mem (by simp [s2])

theorem restoreKey_keeps {s : State} (n : Nat) (h : MemoryInv s) : MemoryInv (restoreKey s n) := by
  unfold restoreKey
  split
  · exact ite_keeps (loadKey_wf _ _ h) h
  · exact h

theorem romWord_keeps {s : State} (a n v : Nat) (h : MemoryInv s) : MemoryInv (romWord s a n v) :=
  writeHeld_wf _ _ _ _ _ _ (holdLine_wf _ _ _ _ h)

theorem romPut_keeps {s : State} (dom a : Nat) (bs : List Byte) (h : MemoryInv s) : MemoryInv (romPut s dom a bs) := romPut_wf _ _ _ h

theorem romClear_keeps {s : State} (lo hi : Nat) (h : MemoryInv s) : MemoryInv (romClear s lo hi) := romClear_wf _ _ h

theorem loadDie_keeps {s : State} (b : Bundle) (d : Nat) (h : MemoryInv s) : MemoryInv (loadDie b s d) :=
  foldl_keeps (fun _ h => romWord_keeps _ _ _ h) _ (romPut_keeps _ _ _ (romPut_keeps _ _ _ h))

@[simp] theorem startPair_mem (b : Bundle) (s : State) (d : Nat) : (startPair b s d).mem = s.mem := rfl

theorem startPair_keeps {s : State} (b : Bundle) (d : Nat) (h : MemoryInv s) : MemoryInv (startPair b s d) := h.of_mem (by simp)

@[simp] theorem selfTest_mem (s : State) (healthy : BitVec 12) : (selfTest s healthy).mem = s.mem := by
  rw [selfTest, foldl_mem fun _ _ => by rfl]

@[simp] theorem mapOut_mem (s : State) : (mapOut s).mem = s.mem := foldl_mem (fun _ _ => by rfl) _ s

theorem elect_keeps {s : State} (healthy : BitVec 12) (d : Nat) (h : MemoryInv s) : MemoryInv (elect s healthy d) :=
  setCore_keeps _ _ (romWord_keeps _ _ _ (romWord_keeps _ _ _ (romWord_keeps _ _ _ (romWord_keeps _ _ _ (romWord_keeps _ _ _ h)))))

theorem loadKey_keeps {s : State} (n : Nat) (record : BitVec 1024) (h : MemoryInv s) : MemoryInv (loadKey s n record) := loadKey_wf _ _ h

theorem bringUp_keeps {s : State} (boot : Boot) (n lead : Nat) (k : Bank) (h : MemoryInv s) :
    MemoryInv (bringUp s boot n lead k) := by
  unfold bringUp
  extract_lets dies s0 s1 s2 s3 s4 s5
  have h1 : MemoryInv s1 := romClear_keeps _ _ (romClear_keeps _ _ (loadKey_keeps _ _ (h.of_mem rfl)))
  have h2 : MemoryInv s2 := foldl_keeps (fun _ h => romWord_keeps _ _ _ h) _ h1
  have h3 : MemoryInv s3 := foldl_keeps (fun d h => loadDie_keeps _ d h) dies h2
  have h4 : MemoryInv s4 := foldl_keeps (fun d h => startPair_keeps _ d h) dies h3
  have h5 : MemoryInv s5 := elect_keeps _ _ h4
  clear_value s5
  exact h5.of_mem rfl

@[simp] theorem debugAnswer_mem (s : State) (v : Option Word) : (debugAnswer s v).mem = s.mem := rfl

theorem debugAnswer_keeps {s : State} (v : Option Word) (h : MemoryInv s) : MemoryInv (debugAnswer s v) := h.of_mem (by simp)

@[simp] theorem debugMode_mem (s : State) (mode : Nat) (l : Loc) : (debugMode s mode l).mem = s.mem := by simp [debugMode]

theorem killOnce_keeps {s : State} (r : Nat) (h : MemoryInv s) : MemoryInv (killOnce s r) := ite_keeps (killRegion_keeps _ _ _ _ h) h

end Sys2Proof.Machine
end

section
/-!
SUPPORT. The members of the scalar core, of streams, threads, rings, barriers, memory, capabilities and the system go on.
-/

namespace Sys2Proof.Machine

/-! ### Members of the opcode table

A member goes on in a slot that holds a thread. What its effect does to memory, when it has one, is said by `KeepsIn` of the body. -/

theorem keepsIn_ok {s : State} {a : Act} (h : MemoryInv s) : KeepsIn (.ok (s, a)) := h

theorem keepsIn_error (e : Stop) : KeepsIn (.error e) := trivial

theorem keepsIn_ite {c : Prop} [Decidable c] {x y : Except Stop (State × Act)} (hx : KeepsIn x) (hy : KeepsIn y) :
    KeepsIn (if c then x else y) := by
  split
  · exact hx
  · exact hy

theorem issue_goesOn {s : State} {i : Instr} {body : Thread → State → Except Stop (State × Act)}
    (ht : ∃ t, s.thread? s.cur = some t) (hb : ∀ t {s}, MemoryInv s → KeepsIn (body t s)) : GoesOn s (issue i s body) :=
  issueP_goesOn ht hb

theorem setMe_keeps {s : State} (t : Thread) (h : MemoryInv s) : MemoryInv (s.setMe t) := h.of_mem (by simp)

theorem waitFor_keeps {s : State} (w : Wait) (h : MemoryInv s) : MemoryInv (waitFor s w) := h.of_mem (by simp)

theorem claimMe_keeps {s : State} (d : BitVec 5) (h : MemoryInv s) : MemoryInv (claimMe s d) := h.of_mem (by simp)

theorem setRing_keeps {s : State} (k q : Nat) (r : Ring) (h : MemoryInv s) : MemoryInv (s.setRing k q r) := h.of_mem (by simp)

theorem write1_keeps {s : State} (d : BitVec 5) (v : Word) (h : MemoryInv s) : KeepsIn (write1 s d v) := keepsIn_ok (h.of_mem (by simp))

theorem writePred_keeps {s : State} (p : BitVec 4) (b : Bool) (h : MemoryInv s) : KeepsIn (writePred s p b) :=
  keepsIn_ok (h.of_mem (by simp))

theorem returns_keeps {s : State} (d : BitVec 5) (v : Word) (h : MemoryInv s) : KeepsIn (returns s d v) := keepsIn_ok (h.of_mem (by simp))

theorem goTo_keeps {s : State} (t : Thread) (target : Word) (link : Option (BitVec 5)) (h : MemoryInv s) :
    KeepsIn (goTo s t target link) := by
  unfold goTo
  split
  · trivial
  · dsimp only
    split
    · exact keepsIn_ok (h.of_mem (by simp))
    · exact keepsIn_ok (h.of_mem (by simp))

theorem putStream_keeps {s : State} (c : Core) (n : BitVec 3) (st : Stream) (h : MemoryInv s) : KeepsIn (putStream s c n st) :=
  setCore_keeps _ _ h

theorem await_keeps {s : State} (n : Nat) (h : MemoryInv s) : KeepsIn (await s n) :=
  keepsIn_ite (keepsIn_ok h) (keepsIn_ok (waitFor_keeps _ h))

theorem ringReturn_keeps {s : State} (d : BitVec 5) (p : BitVec 4) (v : BitVec 32) (b : Bool) (h : MemoryInv s) :
    KeepsIn (ringReturn s d p v b) := keepsIn_ok (h.of_mem (by simp))

theorem ringPark_keeps {s : State} (k : Nat) (q : BitVec 5) (r : Ring) (w : Wait) (h : MemoryInv s) :
    KeepsIn (ringPark s k q r w) := waitFor_keeps _ (setRing_keeps _ _ _ h)

theorem ringWake_keeps {s : State} (k q : Nat) (h : MemoryInv s) : MemoryInv (ringWake s k q) := h.of_mem (by simp)

theorem fillNow_keeps {s : State} (d : BitVec 5) (v : Word) (h : MemoryInv s) : KeepsIn (fillNow s d v) := setMe_keeps _ h

theorem pending_keeps {s : State} (ps : List Pending) (h : MemoryInv s) : MemoryInv { s with pending := ps } := h.of_mem (by simp)

theorem fillLater_keeps {s : State} (t : Thread) (d : BitVec 5) (op : SysOp) (h : MemoryInv s) : KeepsIn (fillLater s t d op) :=
  pending_keeps _ (claimMe_keeps _ h)

theorem setCap_keeps {s : State} (n : Nat) (c : Cap) (h : MemoryInv s) : MemoryInv (s.setCap n c) := h.of_mem (by simp)

theorem derive_keeps {s : State} (i : Instr) (t : Thread) (d : BitVec 4) (c : Cap) (h : MemoryInv s) : KeepsIn (derive i s t d c) :=
  keepsIn_ite (keepsIn_error _) (setCap_keeps _ _ h)

theorem windowOf_keeps {s : State} (i : Instr) (t : Thread) (d c : BitVec 4) (off : Word) (len : Int) (h : MemoryInv s) :
    KeepsIn (windowOf i s t d c off len) :=
  keepsIn_ite (keepsIn_error _) (keepsIn_ite (keepsIn_error _) (derive_keeps _ _ _ _ h))

theorem leaveReplica_keeps {s : State} (t : Thread) (c : Cap) (pl : Place) (h : MemoryInv s) : MemoryInv (leaveReplica s t c pl) :=
  h.of_mem (by simp)

theorem pushStore_keeps {s : State} (path : Nat) (p : PStore) (h : MemoryInv s) : MemoryInv (pushStore s path p) := h.of_mem (by simp)

theorem pushWide_keeps {s : State} (path : Nat) (ps : List PStore) (h : MemoryInv s) : MemoryInv (pushWide s path ps) := h.of_mem (by simp)

theorem onHeld_keeps {s : State} (asid va dom : Nat) {f : State → Line → State}
    (hf : ∀ l, MemoryInv s → MemoryInv (f s l)) (h : MemoryInv s) : MemoryInv (onHeld s asid va dom f) := by
  unfold onHeld
  split
  · exact h
  · exact ite_keeps (hf _ h) h

theorem dropCopy_keeps {s : State} (k key : Nat) (h : MemoryInv s) : MemoryInv (dropCopy s k key) := h.of_mem (by simp)

theorem offer_keeps {s : State} (key : Nat) (h : MemoryInv s) : MemoryInv (offer s key) := h.of_mem (by simp)

theorem placeIn_keeps {s : State} (l : Loc) (t : Thread) (h : MemoryInv s) : MemoryInv (placeIn s l t) := h.of_mem (by simp)

section
variable {s : State} (ht : ∃ t, s.thread? s.cur = some t)
include ht

/-! #### Results, predicates, jumps (R116–R125) -/

theorem binary_goesOn {i : Instr} {d a b : BitVec 5} {f : Word → Word → Word} : GoesOn s (binary i d a b f s) :=
  issue_goesOn ht fun _ _ h => write1_keeps _ _ h

theorem timed_goesOn {i : Instr} {d a b : BitVec 5} {n : Nat} {f : Word → Word → Word} : GoesOn s (timed i d a b n f s) :=
  issue_goesOn ht fun _ _ h => keepsIn_ok (h.of_mem (holdS_mem _ _ _ _))

theorem unary_goesOn {i : Instr} {d a : BitVec 5} {f : Word → Word} : GoesOn s (unary i d a f s) :=
  issue_goesOn ht fun _ _ h => write1_keeps _ _ h

theorem execSelp_goesOn {d a : BitVec 5} {w : BitVec 1} {b : BitVec 5} {x : BitVec 1} {p : BitVec 4} :
    GoesOn s (execSelp d a w b x p s) := issue_goesOn ht fun _ _ h => write1_keeps _ _ h

theorem execLi_goesOn {d : BitVec 5} {i : BitVec 21} : GoesOn s (execLi d i s) := issue_goesOn ht fun _ _ h => write1_keeps _ _ h

theorem execLih_goesOn {d : BitVec 5} {i : BitVec 21} : GoesOn s (execLih d i s) := issue_goesOn ht fun _ _ h => write1_keeps _ _ h

theorem execPcmpi_goesOn {p : BitVec 4} {a : BitVec 5} {w : BitVec 1} {c : BitVec 3} {i : BitVec 12} :
    GoesOn s (execPcmpi p a w c i s) := issue_goesOn ht fun _ _ h => writePred_keeps _ _ h

theorem execPcmp_goesOn {p : BitVec 4} {a : BitVec 5} {w : BitVec 1} {b : BitVec 5} {x : BitVec 1} {m : BitVec 2} {c : BitVec 3} :
    GoesOn s (execPcmp p a w b x m c s) := issue_goesOn ht fun _ _ h => writePred_keeps _ _ h

theorem execPand_goesOn {d a b : BitVec 4} : GoesOn s (execPand d a b s) := issue_goesOn ht fun _ _ h => writePred_keeps _ _ h

theorem execPor_goesOn {d a b : BitVec 4} : GoesOn s (execPor d a b s) := issue_goesOn ht fun _ _ h => writePred_keeps _ _ h

theorem execPxor_goesOn {d a b : BitVec 4} : GoesOn s (execPxor d a b s) := issue_goesOn ht fun _ _ h => writePred_keeps _ _ h

theorem execPnot_goesOn {d a : BitVec 4} : GoesOn s (execPnot d a s) := issue_goesOn ht fun _ _ h => writePred_keeps _ _ h

theorem execPmovs_goesOn {d : BitVec 5} : GoesOn s (execPmovs d s) := issue_goesOn ht fun _ _ h => write1_keeps _ _ h

theorem execSmovp_goesOn {a : BitVec 5} {w : BitVec 1} : GoesOn s (execSmovp a w s) :=
  issue_goesOn ht fun _ _ h => foldl_keeps (fun _ h => h.of_mem (by simp)) _ h

theorem execBr_goesOn {p : BitVec 4} {n : BitVec 1} {o : BitVec 21} : GoesOn s (execBr p n o s) :=
  issue_goesOn ht fun _ _ h => keepsIn_ite (goTo_keeps _ _ _ h) (keepsIn_ok h)

theorem execJmp_goesOn {o : BitVec 26} : GoesOn s (execJmp o s) := issue_goesOn ht fun _ _ h => goTo_keeps _ _ _ h

theorem execJal_goesOn {o : BitVec 26} : GoesOn s (execJal o s) := issue_goesOn ht fun _ _ h => goTo_keeps _ _ _ h

theorem execJalr_goesOn {d a : BitVec 5} {w : BitVec 1} {i : BitVec 15} : GoesOn s (execJalr d a w i s) :=
  issue_goesOn ht fun _ _ h => goTo_keeps _ _ _ h

/-! #### Streams (R206–R208) -/

theorem strm_goesOn {i : Instr} {n : BitVec 3} {body : Thread → State → Core → Stream → Except Stop (State × Act)}
    (hb : ∀ t {s} c st, MemoryInv s → KeepsIn (body t s c st)) : GoesOn s (strm i n s body) :=
  issue_goesOn ht fun _ _ h => keepsIn_ite (keepsIn_error _) (hb _ _ _ h)

theorem execSbind_goesOn {v : BitVec 5} {n : BitVec 3} : GoesOn s (execSbind v n s) :=
  strm_goesOn ht fun _ _ _ _ h => by
    split
    · exact keepsIn_ite (keepsIn_ok h) (keepsIn_error _)
    · exact putStream_keeps _ _ _ (setMe_keeps _ h)

theorem execSunbind_goesOn {n : BitVec 3} : GoesOn s (execSunbind n s) :=
  strm_goesOn ht fun _ _ _ _ h => putStream_keeps _ _ _ h

theorem execScfg_goesOn {c : BitVec 4} {a b : BitVec 5} {n : BitVec 3} : GoesOn s (execScfg c a b n s) :=
  strm_goesOn ht fun _ _ _ _ h => by
    dsimp only
    split
    · trivial
    · exact putStream_keeps _ _ _ h

theorem execSgo_goesOn {n : BitVec 3} : GoesOn s (execSgo n s) :=
  strm_goesOn ht fun _ _ _ _ h => keepsIn_ite (keepsIn_error _) (putStream_keeps _ _ _ h)

theorem execSstop_goesOn {n : BitVec 3} : GoesOn s (execSstop n s) :=
  strm_goesOn ht fun _ _ _ _ h => keepsIn_ite (putStream_keeps _ _ _ h) (keepsIn_ok h)

theorem execSsync_goesOn {n : BitVec 3} : GoesOn s (execSsync n s) :=
  strm_goesOn ht fun _ _ _ _ h =>
    keepsIn_ite (keepsIn_ite (keepsIn_ok (performWhere_keeps _ _ h)) (putStream_keeps _ _ _ h)) (keepsIn_ok h)

/-! #### Threads and messages (R150–R161) -/

theorem execStart_goesOn {d a b : BitVec 5} : GoesOn s (execStart d a b s) :=
  issue_goesOn ht fun _ _ h => keepsIn_ite (keepsIn_error _) (by
    have h1 := claimMe_keeps d h
    split
    · exact keepsIn_ok (placeIn_keeps _ _ h1)
    · exact keepsIn_ok (waitFor_keeps _ (setCore_keeps _ _ h1)))

theorem execRetire_goesOn : GoesOn s (execRetire s) :=
  issue_goesOn ht fun _ _ h => keepsIn_ite (keepsIn_error _) (keepsIn_ok (endThread_keeps _ _ (drain_keeps _ h)))

theorem execYield_goesOn : GoesOn s (execYield s) := issue_goesOn ht fun _ _ h => keepsIn_ok (setMe_keeps _ h)

theorem execThid_goesOn {d : BitVec 5} : GoesOn s (execThid d s) := issue_goesOn ht fun _ _ h => write1_keeps _ _ h

theorem execVgrow_goesOn {n : BitVec 6} : GoesOn s (execVgrow n s) :=
  issue_goesOn ht fun _ _ h => keepsIn_ite (keepsIn_ok h) (keepsIn_ite (keepsIn_error _)
    (keepsIn_ite (keepsIn_ok (setMe_keeps _ h)) (keepsIn_ok (waitFor_keeps _ (setCore_keeps _ _ h)))))

theorem execVshrink_goesOn {n : BitVec 6} : GoesOn s (execVshrink n s) :=
  issue_goesOn ht fun _ _ h => keepsIn_ite (keepsIn_ok h) (keepsIn_ite (keepsIn_error _)
    (keepsIn_ite (keepsIn_error _) (keepsIn_ok (setCore_keeps _ _ (setMe_keeps _ h)))))

theorem sleep_goesOn {i : Instr} {w : Wait} : GoesOn s (sleep i w s) :=
  issue_goesOn ht fun _ _ h => keepsIn_ite (keepsIn_ok (setMe_keeps _ h)) (keepsIn_ok (waitFor_keeps _ h))

theorem execSend_goesOn {a b : BitVec 5} {n : BitVec 4} : GoesOn s (execSend a b n s) :=
  issue_goesOn ht fun _ _ h => by
    split
    · exact keepsIn_ok (undeliverable_keeps _ _ _ _ _ h)
    · exact keepsIn_ite (keepsIn_error _) (keepsIn_ok (send_keeps _ (drain_keeps _ h)))

theorem execMigrate_goesOn {a : BitVec 5} {c : BitVec 4} : GoesOn s (execMigrate a c s) :=
  issue_goesOn ht fun _ _ h => keepsIn_ite (keepsIn_error _) (by
    split
    · trivial
    · exact keepsIn_ite (keepsIn_error _) (keepsIn_ite (keepsIn_error _) (keepsIn_ite (keepsIn_error _)
        (keepsIn_ite (keepsIn_error _) (keepsIn_ok (settle_keeps _ (leaveSlot_keeps _ (send_keeps _ (drain_keeps _ h)))))))))

theorem execReply_goesOn {a b r : BitVec 5} : GoesOn s (execReply a b r s) :=
  issue_goesOn ht fun _ _ h => keepsIn_ok (send_keeps _ (drain_keeps _ h))

theorem wakeMember_goesOn {i : Instr} {a : BitVec 5} {page : Bool} : GoesOn s (wakeMember i a page s) :=
  issue_goesOn ht fun _ _ h => keepsIn_ok (send_keeps _ (drain_keeps _ h))

/-! #### Rings (R163–R169) -/

theorem ringMember_goesOn {i : Instr} {q : BitVec 5} {body : Thread → State → Nat → Ring → Except Stop (State × Act)}
    (hb : ∀ t {s} k r, MemoryInv s → KeepsIn (body t s k r)) : GoesOn s (ringMember i q s body) :=
  issue_goesOn ht fun _ _ h => keepsIn_ite (keepsIn_error _) (hb _ _ _ (publishHeaders_keeps h))

theorem execQcfg_goesOn {c : BitVec 4} {a b q : BitVec 5} : GoesOn s (execQcfg c a b q s) :=
  ringMember_goesOn ht fun _ _ _ _ h => keepsIn_ite (keepsIn_ok (reconfigure_keeps _ _ _ _ h)) (by
    dsimp only
    split
    · trivial
    · exact keepsIn_ok (reconfigure_keeps _ _ _ _ h))

theorem execQclaim_goesOn {d : BitVec 5} {p : BitVec 4} {q : BitVec 5} : GoesOn s (execQclaim d p q s) :=
  ringMember_goesOn ht fun _ _ _ _ h => keepsIn_ite (keepsIn_error _)
    (keepsIn_ite (ringReturn_keeps _ _ _ _ (setRing_keeps _ _ _ h)) (ringReturn_keeps _ _ _ _ h))

theorem execQpub_goesOn {a q : BitVec 5} : GoesOn s (execQpub a q s) :=
  ringMember_goesOn ht fun _ _ _ _ h =>
    keepsIn_ite (keepsIn_ok (ringWake_keeps _ _ (setRing_keeps _ _ _ h))) (keepsIn_error _)

theorem execQwaitf_goesOn {d : BitVec 5} {p : BitVec 4} {q : BitVec 5} : GoesOn s (execQwaitf d p q s) :=
  ringMember_goesOn ht fun _ _ _ _ h => keepsIn_ite (keepsIn_error _) (keepsIn_ite (ringReturn_keeps _ _ _ _ h)
    (keepsIn_ite (ringReturn_keeps _ _ _ _ (setRing_keeps _ _ _ h)) (ringPark_keeps _ _ _ _ h)))

theorem execQfree_goesOn {a q : BitVec 5} : GoesOn s (execQfree a q s) :=
  ringMember_goesOn ht fun _ _ _ _ h =>
    keepsIn_ite (keepsIn_ok (ringWake_keeps _ _ (setRing_keeps _ _ _ h))) (keepsIn_error _)

theorem execQwaite_goesOn {d : BitVec 5} {p : BitVec 4} {q : BitVec 5} : GoesOn s (execQwaite d p q s) :=
  ringMember_goesOn ht fun _ _ _ _ h => keepsIn_ite (keepsIn_error _) (keepsIn_ite (ringReturn_keeps _ _ _ _ h)
    (keepsIn_ite (ringReturn_keeps _ _ _ _ (setRing_keeps _ _ _ h)) (ringPark_keeps _ _ _ _ h)))

theorem execQerr_goesOn {d a q : BitVec 5} : GoesOn s (execQerr d a q s) :=
  ringMember_goesOn ht fun _ _ _ _ h => keepsIn_ite (write1_keeps _ _ h) (keepsIn_ite (keepsIn_error _)
    (keepsIn_ite (write1_keeps _ _ (ringWake_keeps _ _ (setRing_keeps _ _ _ h))) (write1_keeps _ _ h)))

theorem execQsetrd_goesOn {a q : BitVec 5} : GoesOn s (execQsetrd a q s) :=
  ringMember_goesOn ht fun _ _ _ _ h =>
    keepsIn_ite (keepsIn_error _) (keepsIn_ok (ringWake_keeps _ _ (setRing_keeps _ _ _ h)))

/-! #### Barriers and network reductions (R91, R92, R248) -/

theorem execBarinit_goesOn {c : BitVec 4} {a b : BitVec 5} {n : BitVec 4} : GoesOn s (execBarinit c a b n s) :=
  crewMember_goesOn ht fun t s h => keepsIn_ite (keepsIn_error _) (by
    extract_lets ks ranks s1
    have h1 : MemoryInv s1 := settleRanks_keeps _ _ _ h
    split
    · trivial
    · exact keepsIn_ok (setCore_keeps _ _ h1))

theorem execBararr_goesOn {r : BitVec 1} {n : BitVec 4} : GoesOn s (execBararr r n s) :=
  crewMember_goesOn ht fun _ _ h => by
    split
    · next e => exact keepsIn_ok (arrive_keeps h e)
    · trivial

theorem execBarwait_goesOn {n : BitVec 4} : GoesOn s (execBarwait n s) := crewMember_goesOn ht fun _ _ h => await_keeps _ h

theorem execBarsync_goesOn {r : BitVec 1} {n : BitVec 4} : GoesOn s (execBarsync r n s) :=
  crewMember_goesOn ht fun _ _ h => by
    split
    · next e => exact await_keeps _ (arrive_keeps h e)
    · trivial

theorem nredMember_goesOn {i : Instr} {op : Nat} {d a : BitVec 5} {g : BitVec 4} : GoesOn s (nredMember i op d a g s) :=
  crewMember_goesOn ht fun t s h => keepsIn_ite (keepsIn_error _) (by
    extract_lets s1 tag u put w held s2 s3
    have h1 : MemoryInv s1 := claimMe_keeps _ (ite_keeps (drain_keeps _ h) h)
    have hp {x : State} (b : Bar) (hx : MemoryInv x) : MemoryInv (put x b) := setCore_keeps _ _ hx
    have h3 : MemoryInv s3 := (hp _ h1).of_mem (sendPacket_mem ..)
    exact keepsIn_ite (keepsIn_ok (nredArrive_keeps _ _ _ _ _ (hp _ h1)))
      (keepsIn_ok (ite_keeps h3 (setMe_keeps _ h3))))

/-! #### Loads, stores, read-modify-writes, fences, hints, multicasts (R136–R150) -/

theorem loadMember_goesOn {i : Instr} {d : BitVec 5} {c : BitVec 4} {a : BitVec 5} {z : BitVec 2} {o : BitVec 6}
    {hint signed acquire : Bool} : GoesOn s (loadMember i d c a z o hint signed acquire s) :=
  issue_goesOn ht fun t s h => keepsIn_ite (keepsIn_error _) (by
    split
    · trivial
    · next pl _ =>
      have h1 := reachAt_keeps pl (settleFor_keeps s.myPath (acquire || strengthened t (t.c c.toNat)) pl (elemSize z) h)
      exact returns_keeps _ _ (ite_keeps (leaveReplica_keeps _ _ _ h1) h1))

theorem storeMember_goesOn {i : Instr} {d : BitVec 5} {c : BitVec 4} {a : BitVec 5} {z : BitVec 2} {o : BitVec 6}
    {release : Bool} : GoesOn s (storeMember i d c a z o release s) :=
  issue_goesOn ht fun t s h => by
    dsimp only
    split
    · trivial
    · exact keepsIn_ok (pushStore_keeps _ _ (reachAt_keeps _ (ite_keeps (drain_keeps _ h) h)))

theorem rmwMember_goesOn {i : Instr} {d : BitVec 5} {c : BitVec 4} {a : BitVec 5} {size : Nat} {f : Thread → Rmw} :
    GoesOn s (rmwMember i d c a size s f) :=
  issue_goesOn ht fun t s h => keepsIn_ite (keepsIn_error _) (by
    split
    · trivial
    · exact returns_keeps _ _ (rmwAt_keeps _ _ _ _ _ (reachAt_keeps _ h)))

theorem amo_goesOn {i : Instr} {d : BitVec 5} {c : BitVec 4} {a v : BitVec 5} {sc : BitVec 2} {o : BitVec 1} {size op : Nat} :
    GoesOn s (amo i d c a v sc o size op s) := rmwMember_goesOn ht

theorem execCas_goesOn {d : BitVec 5} {c : BitVec 4} {a v : BitVec 5} {w : BitVec 1} {sc : BitVec 2} {o : BitVec 1} :
    GoesOn s (execCas d c a v w sc o s) := rmwMember_goesOn ht

theorem fence_goesOn {i : Instr} {acq rel : Bool} {sc : BitVec 2} : GoesOn s (fence i acq rel sc s) :=
  issue_goesOn ht fun _ _ h => keepsIn_ok (setMe_keeps _ (ite_keeps (drain_keeps _ h) h))

theorem hint_goesOn {i : Instr} {a b : BitVec 5} {c : BitVec 4} {f : Thread → Cap → State → Nat → State}
    (hf : ∀ t cap {u} va, MemoryInv u → MemoryInv (f t cap u va)) : GoesOn s (hint i a b c s f) :=
  issue_goesOn ht fun t s h => by
    dsimp only
    split
    · trivial
    · exact keepsIn_ite (keepsIn_ok h) (keepsIn_ok (foldl_keeps (fun va h => hf _ _ va h) _ h))

theorem execCinv_goesOn {a b : BitVec 5} {c : BitVec 4} : GoesOn s (execCinv a b c s) :=
  hint_goesOn ht fun t cap u va h => by
    split
    · exact h
    · exact onHeld_keeps _ _ _ (fun _ h => dropCopy_keeps _ _ (setLine_keeps _ _ h)) h

theorem execCflush_goesOn {a b : BitVec 5} {c : BitVec 4} : GoesOn s (execCflush a b c s) :=
  hint_goesOn ht fun t cap u va h => by
    split
    · exact h
    · exact onHeld_keeps _ _ _ (fun _ h => setLine_keeps _ _ h) h

theorem execCpref_goesOn {a b : BitVec 5} {c : BitVec 4} : GoesOn s (execCpref a b c s) :=
  hint_goesOn ht fun t cap u va h => by
    split
    · exact h
    · exact ite_keeps h (bringLine_keeps _ _ _ _ h)

theorem execDdhint_goesOn {a b : BitVec 5} {c : BitVec 4} : GoesOn s (execDdhint a b c s) :=
  hint_goesOn ht fun t cap u va h => by
    split
    · exact h
    · exact ite_keeps (offer_keeps _ h) h

theorem execDdstat_goesOn {d a : BitVec 5} {c : BitVec 4} : GoesOn s (execDdstat d a c s) :=
  issue_goesOn ht fun _ _ h => keepsIn_ite (keepsIn_error _) (keepsIn_ite (keepsIn_error _) (returns_keeps _ _ h))

theorem cast_goesOn {i : Instr} {d a b : BitVec 5} {c : BitVec 4} {size : Nat} {op : Option Nat} :
    GoesOn s (cast i d a b c size op s) :=
  issue_goesOn ht fun t s h => by
    dsimp only
    split
    · trivial
    · next pl _ =>
      have h1 := sendCast_keeps pl (storeAt s.cur t pl size (BitVec.ofNat 1024 ((t.s b.toNat).toNat % 2 ^ (8 * size))) false) op
        (claimMe_keeps d (drain_keeps s.myPath (reachAt_keeps pl h)))
      refine keepsIn_ok (MemoryInv.of_mem (castAll_keeps pl op.isSome (fun frame s h => ?_) h1) rfl)
      exact destWrite_keeps _ _ _ _ _ _ _ h

theorem execRedst_goesOn {d a b : BitVec 5} {o : BitVec 2} {c : BitVec 4} : GoesOn s (execRedst d a b o c s) :=
  cast_goesOn ht

/-! #### Capabilities (R126–R133) -/

theorem execCbnd_goesOn {d c : BitVec 4} {a r : BitVec 5} : GoesOn s (execCbnd d c a r s) :=
  issue_goesOn ht fun _ _ h => windowOf_keeps _ _ _ _ _ _ h

theorem execCrestr_goesOn {d c : BitVec 4} {a : BitVec 5} : GoesOn s (execCrestr d c a s) :=
  issue_goesOn ht fun _ _ h => keepsIn_ite (keepsIn_error _) (derive_keeps _ _ _ _ h)

theorem execCinc_goesOn {d c : BitVec 4} {a : BitVec 5} : GoesOn s (execCinc d c a s) :=
  issue_goesOn ht fun _ _ h => windowOf_keeps _ _ _ _ _ _ h

theorem execCgetb_goesOn {c : BitVec 4} {r : BitVec 5} : GoesOn s (execCgetb c r s) := issue_goesOn ht fun _ _ h => write1_keeps _ _ h

theorem execCgetl_goesOn {c : BitVec 4} {r : BitVec 5} : GoesOn s (execCgetl c r s) := issue_goesOn ht fun _ _ h => write1_keeps _ _ h

theorem execCgetp_goesOn {c : BitVec 4} {r : BitVec 5} : GoesOn s (execCgetp c r s) := issue_goesOn ht fun _ _ h => write1_keeps _ _ h

theorem execCmov_goesOn {d c : BitVec 4} : GoesOn s (execCmov d c s) := issue_goesOn ht fun _ _ h => derive_keeps _ _ _ _ h

theorem execCclr_goesOn {d : BitVec 4} : GoesOn s (execCclr d s) := issue_goesOn ht fun _ _ h => derive_keeps _ _ _ _ h

theorem execCtest_goesOn {c : BitVec 4} {a r : BitVec 5} : GoesOn s (execCtest c a r s) :=
  issue_goesOn ht fun _ _ h => write1_keeps _ _ h

theorem execCld_goesOn {x c : BitVec 4} {a : BitVec 5} {o : BitVec 13} : GoesOn s (execCld x c a o s) :=
  issue_goesOn ht fun t s h => keepsIn_ite (keepsIn_error _) (keepsIn_ite (keepsIn_error _) (by
    split
    · trivial
    · refine keepsIn_ite (keepsIn_error _) ?_
      split
      · trivial
      · exact keepsIn_ok (setCap_keeps _ _ (reachAt_keeps _ (settleFor_keeps _ _ _ _ h)))))

theorem execCst_goesOn {x c : BitVec 4} {a : BitVec 5} {o : BitVec 13} : GoesOn s (execCst x c a o s) :=
  issue_goesOn ht fun t s h => by
    dsimp only
    split
    · trivial
    · refine keepsIn_ite (keepsIn_error _) (keepsIn_ite (keepsIn_error _) (keepsIn_ite (keepsIn_error _)
        (keepsIn_ite (keepsIn_error _) ?_)))
      split
      · trivial
      · exact keepsIn_ok (pushStore_keeps _ _ (reachAt_keeps _ h))

/-! #### The system's members (R318–R328) -/

theorem execSyscall_goesOn {d a b : BitVec 5} {n : BitVec 6} : GoesOn s (execSyscall d a b n s) :=
  issue_goesOn ht fun _ _ h => keepsIn_ite
    (keepsIn_ite (keepsIn_error _) (keepsIn_ite (keepsIn_error _) (keepsIn_ok (h.of_mem (monitorTrap_mem ..)))))
    (keepsIn_ite (keepsIn_error _) (keepsIn_ok (setMe_keeps _ (MemoryInv.of_mem (drain_keeps _ h) (sendEvent_mem ..)))))

theorem execEret_goesOn : GoesOn s (execEret s) :=
  issue_goesOn ht fun _ _ h => by
    dsimp only
    split
    · trivial
    · exact keepsIn_ok (setMe_keeps _ (MemoryInv.of_mem h (by simp)))

theorem execHalt_goesOn {d a : BitVec 5} {m : BitVec 2} : GoesOn s (execHalt d a m s) :=
  issue_goesOn ht fun _ _ h => by
    split
    · exact fillNow_keeps _ _ h
    · exact keepsIn_ite (fillNow_keeps _ _ (setHalted_keeps _ _ h)) (fillLater_keeps _ _ _ (setHalted_keeps _ _ h))

theorem execHarvest_goesOn {d a b : BitVec 5} : GoesOn s (execHarvest d a b s) :=
  issue_goesOn ht fun _ _ h => by
    dsimp only
    split
    · trivial
    · exact keepsIn_ite (fillNow_keeps _ _ h) (fillLater_keeps _ _ _ h)

theorem execXinv_goesOn {d a b : BitVec 5} {m : BitVec 2} : GoesOn s (execXinv d a b m s) :=
  issue_goesOn ht fun _ s h => by
    extract_lets x y go
    have hg (c : Scope) : KeepsIn (go c) := fillLater_keeps _ _ _ (invalidate_keeps c h)
    refine keepsIn_ite ?_ (keepsIn_ite (hg _) (hg _))
    split
    · trivial
    · exact hg _

theorem execKeyset_goesOn {d a : BitVec 5} {c : BitVec 4} : GoesOn s (execKeyset d a c s) :=
  issue_goesOn ht fun _ s h => keepsIn_ite (keepsIn_error _) (keepsIn_ite (keepsIn_error _) (by
    split
    · trivial
    · refine keepsIn_ite (keepsIn_error _) ?_
      split
      · trivial
      · next pl _ =>
        have h1 := reachAt_keeps pl (settleWide_keeps s.myPath false pl 128 h)
        refine keepsIn_ite (keepsIn_error _) ?_
        split
        · exact returns_keeps _ _ (loadKey_keeps _ _ h1)
        · exact returns_keeps _ _ h1))

theorem execKeyclr_goesOn {d a : BitVec 5} : GoesOn s (execKeyclr d a s) :=
  issue_goesOn ht fun _ _ h => keepsIn_ite (keepsIn_error _) (keepsIn_ite (fillNow_keeps _ _ h) (fillLater_keeps _ _ _ h))

theorem execSpillrpl_goesOn {d a b : BitVec 5} : GoesOn s (execSpillrpl d a b s) :=
  issue_goesOn ht fun _ _ h => by
    split
    · exact fillLater_keeps _ _ _ h
    · exact fillNow_keeps _ _ h

end
end Sys2Proof.Machine
end

section
/-!
SUPPORT. The members of the tiles, the units, sequences, forests and vectors go on.
-/

namespace Sys2Proof.Machine

/-! ### Members of the tiles, the units, sequences, forests and vectors -/

theorem setTileKind_keeps {s : State} (n cls : Nat) (shape : Word) (h : MemoryInv s) : MemoryInv (setTileKind s n cls shape) :=
  h.of_mem (by simp)

theorem pushRows_keeps {s : State} (path : Nat) (rows : List (List PStore)) (h : MemoryInv s) : MemoryInv (pushRows s path rows) :=
  h.of_mem (by simp)

theorem enqueueTile_keeps {s : State} (reads : List Nat) (writes : List MatWrite) (flags : Nat) {f : State → State}
    (hf : ∀ {u}, MemoryInv u → MemoryInv (f u)) (h : MemoryInv s) :
    KeepsIn (match enqueue s reads writes flags with
      | .error e => .error e
      | .ok (s, act) => .ok (f s, act)) := by
  have hk := enqueue_keeps reads writes flags h
  split
  · trivial
  · next hr =>
    rw [hr] at hk
    exact keepsIn_ok (hf hk)

theorem csr_keeps {s : State} (sroot svocab : Word) (dbg : Option (Nat × Loc)) (h : MemoryInv s) :
    MemoryInv { s with sroot, svocab, dbgReq := dbg } := h.of_mem (by simp)

theorem setDie_keeps {s : State} (d : Nat) (x : Die) (h : MemoryInv s) : MemoryInv (s.setDie d x) := h.of_mem (by simp)

/-- What a write of a CSR does to memory. -/
def CsrKeeps : Except Stop (State × Bool) → Prop
  | .ok (s, _) => MemoryInv s
  | .error _ => True

theorem csrKeeps_ite {c : Prop} [Decidable c] {x y : Except Stop (State × Bool)} (hx : CsrKeeps x) (hy : CsrKeeps y) :
    CsrKeeps (if c then x else y) := by
  split
  · exact hx
  · exact hy

theorem csrPut_keeps {s : State} (t : Thread) (out : Bool) (n : Nat) (v : Word) (h : MemoryInv s) : CsrKeeps (csrPut s t out n v) := by
  unfold csrPut
  extract_lets id core k cl mine same
  have hm (f : Thread) : CsrKeeps (mine f) := setMe_keeps f h
  have hs : CsrKeeps same := h
  have hc (c : Core) : CsrKeeps (.ok (s.setCore id c, false)) := setCore_keeps _ _ h
  have hk (c : Cluster) (b : Bool) : CsrKeeps (.ok (s.setCluster k c, b)) := setCluster_keeps _ _ h
  have hd (c : Die) : CsrKeeps (.ok (s.setDie (dieOf id) c, true)) := setDie_keeps _ _ h
  have he (e : Stop) : CsrKeeps (.error e) := trivial
  have hr (w : Word) : CsrKeeps (.ok ({ s with sroot := w }, false)) := csr_keeps w s.svocab s.dbgReq h
  have hv (w : Word) : CsrKeeps (.ok ({ s with svocab := w }, false)) := csr_keeps s.sroot w s.dbgReq h
  have hq (w : Nat × Loc) : CsrKeeps (.ok ({ s with dbgReq := some w }, true)) := csr_keeps s.sroot s.svocab (some w) h
  clear_value mine same
  refine csrKeeps_ite (csrKeeps_ite hs (hc _)) ?_
  refine csrKeeps_ite (csrKeeps_ite hs (hk _ _)) ?_
  refine csrKeeps_ite (csrKeeps_ite hs (hm _)) ?_
  refine csrKeeps_ite (csrKeeps_ite hs (hm _)) ?_
  refine csrKeeps_ite (csrKeeps_ite hs (hm _)) ?_
  refine csrKeeps_ite (hm _) (csrKeeps_ite (hm _) ?_)
  refine csrKeeps_ite (csrKeeps_ite hs (hk _ _)) ?_
  refine csrKeeps_ite (csrKeeps_ite hs (csrKeeps_ite (he _) (hk _ _))) ?_
  refine csrKeeps_ite (csrKeeps_ite hs (hm _)) ?_
  refine csrKeeps_ite (csrKeeps_ite hs (hm _)) ?_
  refine csrKeeps_ite (hm _) (csrKeeps_ite (hm _) ?_)
  refine csrKeeps_ite (hr _) (csrKeeps_ite (hm _) (csrKeeps_ite (hc _) (csrKeeps_ite (hm _) (csrKeeps_ite (hv _) ?_))))
  refine csrKeeps_ite (csrKeeps_ite hs (csrKeeps_ite (he _) (hq _))) ?_
  refine csrKeeps_ite (csrKeeps_ite hs (csrKeeps_ite (he _) (hd _))) ?_
  refine csrKeeps_ite (hm _) (csrKeeps_ite (csrKeeps_ite hs (hm _)) (csrKeeps_ite (hm _) ?_))
  exact csrKeeps_ite (hc _) (csrKeeps_ite (hm _) hs)

theorem reachEntries_keeps {s : State} (t : Thread) (ns : List Nat) (h : MemoryInv s) : MemoryInv (reachEntries s t ns) :=
  h.of_mem (by simp)

theorem reachAts_keeps {s : State} (pls : List Place) (h : MemoryInv s) : MemoryInv (pls.foldl State.reachAt s) :=
  foldl_keeps (fun pl h => reachAt_keeps pl h) pls h

theorem reachText_keeps {s : State} (v : Vocab) (id : Nat) (h : MemoryInv s) : MemoryInv (reachText s v id) := h.of_mem (by simp)

theorem reachEncode_keeps {s : State} (v : Vocab) (n : Nat) (h : MemoryInv s) : MemoryInv (reachEncode s v n) := h.of_mem (by simp)

theorem reachDecode_keeps {s : State} (v : Vocab) (b : Bool) (ids : List Nat) (h : MemoryInv s) :
    MemoryInv (reachDecode s v b ids) := h.of_mem (by simp)

theorem reachForest_keeps {s : State} (t : Thread) (f : Forest) (h : MemoryInv s) : MemoryInv (reachForest s t f) := h.of_mem (by simp)

theorem reachCommand_keeps {s : State} (t : Thread) (f : Forest) (q : LichenCmd) (h : MemoryInv s) :
    MemoryInv (reachCommand s t f q) := h.of_mem (by simp)

theorem walked_keeps {s : State} (asid va : Nat) (h : MemoryInv s) : MemoryInv (s.walked asid va) := h.of_mem (by simp)

/-- What the part of a member that leaves a value does to memory, where it has an effect. -/
def LeavesKept {α : Type} : Except Stop (State × α) → Prop
  | .ok (s, _) => MemoryInv s
  | .error _ => True

theorem leavesKept_ok {α : Type} {s : State} (v : α) (h : MemoryInv s) : LeavesKept (.ok (s, v)) := h

theorem leavesKept_error {α : Type} (e : Stop) : LeavesKept (α := α) (.error e) := trivial

theorem leavesKept_ite {α : Type} {c : Prop} [Decidable c] {x y : Except Stop (State × α)} (hx : LeavesKept x) (hy : LeavesKept y) :
    LeavesKept (if c then x else y) := by
  split
  · exact hx
  · exact hy

/-- A root found, and what is done with it. -/
theorem findRoot_leavesKept {s : State} {t : Thread} {f : Forest} {n x : Nat}
    {g : State → Nat → Except Stop (State × Except (Nat × Nat) Word)}
    (hg : ∀ {u} r, MemoryInv u → LeavesKept (g u r)) (h : MemoryInv s) :
    LeavesKept (match findRoot t f n s x with
      | (u, .error z) => .ok (u, .error (0x05, z))
      | (u, .ok r) => g u r) := by
  have hk := findRoot_keeps t f n x h
  split
  · next e =>
    rw [e] at hk
    exact leavesKept_ok _ hk
  · next e =>
    rw [e] at hk
    exact hg _ hk

/-- A vector register written, and no more. -/
theorem writeVector_keeps {s : State} (r : Nat) (v : BitVec 2048) (h : MemoryInv s) :
    KeepsIn (match writeVector s r v with
      | .error e => .error e
      | .ok s => .ok (s, .next)) := by
  split
  · trivial
  · next e => exact keepsIn_ok (h.of_mem (writeVector_mem e))

section
variable {s : State} (ht : ∃ t, s.thread? s.cur = some t)
include ht

/-! #### Tiles and accumulators (R192–R205) -/

theorem execTld_goesOn {n : BitVec 3} {c : BitVec 4} {a b : BitVec 5} {w : BitVec 1} : GoesOn s (execTld n c a b w s) :=
  crewMember_goesOn ht fun t s h => keepsIn_ite (keepsIn_error _) (by
    split
    · trivial
    · extract_lets all s1 v s2 core2 s3 cl bank
      have h1 : MemoryInv s1 := spanLoads_keeps _ _ _ h
      have h2 : MemoryInv s2 := ite_keeps (foldl_keeps (fun _ h => leaveReplica_keeps _ _ _ h) _ h1) h1
      have h3 : MemoryInv s3 := setCore_keeps _ _ h2
      exact keepsIn_ok (ite_keeps (setTileKind_keeps _ _ _ h3) h3))

theorem execTst_goesOn {n : BitVec 3} {c : BitVec 4} {a b : BitVec 5} : GoesOn s (execTst n c a b s) :=
  crewMember_goesOn ht fun t s h => keepsIn_ite (keepsIn_error _) (by
    split
    · trivial
    · exact keepsIn_ok (pushRows_keeps _ _ (spanOrder_keeps _ _ _ h)))

theorem execTzero_goesOn {n r : BitVec 3} : GoesOn s (execTzero n r s) :=
  crewMember_goesOn ht fun _ _ h => enqueueTile_keeps _ _ _ (fun hu => setTileKind_keeps _ _ _ hu) h

theorem execTtrans_goesOn {n r : BitVec 3} : GoesOn s (execTtrans n r s) :=
  crewMember_goesOn ht fun _ _ h => keepsIn_ite (keepsIn_error _)
    (enqueueTile_keeps _ _ _ (fun hu => setTileKind_keeps _ _ _ hu) h)

theorem execTrdv_goesOn {n : BitVec 3} {v a : BitVec 5} : GoesOn s (execTrdv n v a s) :=
  crewMember_goesOn ht fun _ _ h => keepsIn_ite (keepsIn_error _) (keepsIn_ite (keepsIn_error _) (writeVector_keeps _ _ h))

theorem execTwrv_goesOn {n : BitVec 3} {v a : BitVec 5} : GoesOn s (execTwrv n v a s) :=
  crewMember_goesOn ht fun _ _ h => by
    split
    · trivial
    · next e => exact enqueue_keeps _ _ _ (h.of_mem (readVectors_mem e))

theorem mmaMember_goesOn {i : Instr} {n : BitVec 1} {a b : BitVec 3} {extra : List Nat} {ok : Thread → State → Tile → Tile → Bool}
    {f : Thread → State → Tile → Tile → Nat → Nat → Nat → Nat × Nat} : GoesOn s (mmaMember i n a b extra s ok f) :=
  crewMember_goesOn ht fun _ _ h => keepsIn_ite (keepsIn_error _) (keepsIn_ite (keepsIn_error _) (enqueue_keeps _ _ _ h))

theorem execAczero_goesOn {n : BitVec 1} : GoesOn s (execAczero n s) := crewMember_goesOn ht fun _ _ h => enqueue_keeps _ _ _ h

theorem execAcld_goesOn {n : BitVec 1} {c : BitVec 4} {a : BitVec 5} : GoesOn s (execAcld n c a s) :=
  crewMember_goesOn ht fun _ _ h => keepsIn_ite (keepsIn_error _) (by
    split
    · trivial
    · exact enqueue_keeps _ _ _ (spanLoads_keeps _ _ _ h))

theorem execAcst_goesOn {n : BitVec 1} {c : BitVec 4} {a : BitVec 5} : GoesOn s (execAcst n c a s) :=
  crewMember_goesOn ht fun _ _ h => keepsIn_ite (keepsIn_error _) (by
    split
    · trivial
    · exact keepsIn_ok (pushWide_keeps _ _ (spanOrder_keeps _ _ _ h)))

theorem execAccvt_goesOn {n : BitVec 1} {u : BitVec 3} {i : BitVec 1} : GoesOn s (execAccvt n u i s) :=
  crewMember_goesOn ht fun _ _ h => keepsIn_ite (keepsIn_error _) (enqueue_keeps _ _ _ h)

theorem execAcadd_goesOn {n i b : BitVec 1} : GoesOn s (execAcadd n i b s) :=
  crewMember_goesOn ht fun _ _ h => enqueue_keeps _ _ _ h

/-! #### The copy engine, CSRs (R209, R134) -/

theorem copyMember_goesOn {i : Instr} {op : Nat} {d : BitVec 5} {cd : BitVec 4} {da : BitVec 5} {cs : BitVec 4} {sa : BitVec 5} :
    GoesOn s (copyMember i op d cd da cs sa s) :=
  issue_goesOn ht fun _ _ h => by
    dsimp only
    split
    · trivial
    · split
      · trivial
      · exact keepsIn_ite (keepsIn_ok (setMe_keeps _ h))
          (keepsIn_ite (keepsIn_error _) (keepsIn_ok (setCluster_keeps _ _ (claimMe_keeps _ (drain_keeps _ h)))))

theorem csrMember_goesOn {i : Instr} {d : BitVec 5} {r : BitVec 12} {new : Thread → Word → Option Word} :
    GoesOn s (csrMember i d r s new) :=
  issue_goesOn ht fun t s h => by
    dsimp only
    split
    · trivial
    · split
      · exact write1_keeps _ _ h
      · next v _ =>
        have hk := csrPut_keeps t (isVisitor s s.cur t) r.toNat v h
        split
        · trivial
        · next e =>
          rw [csrWrite] at e
          rw [e] at hk
          exact write1_keeps _ _ hk
        · next e =>
          rw [csrWrite] at e
          rw [e] at hk
          exact keepsIn_ok (waitFor_keeps _ (MemoryInv.of_mem hk (State.wr_mem _ _ _)))

/-! #### Sequences (R219–R250) -/

theorem seqMember_goesOn {i : Instr} {c : BitVec 4} {r : Refuses} {body : Thread → State → Opened → Except Stop (State × Act)}
    {child : Option (BitVec 4)} (hb : ∀ t {s} o, MemoryInv s → KeepsIn (body t s o)) : GoesOn s (seqMember i c r s body child) :=
  issue_goesOn ht fun t s h => by
    dsimp only
    split
    · trivial
    · exact hb _ _ (reachBlock_keeps _ (drain_keeps _ h))

theorem seqScalar_goesOn {i : Instr} {d : BitVec 5} {c : BitVec 4} {r : Refuses}
    {body : Thread → State → Opened → Except Stop (State × Word)}
    {child : Option (BitVec 4)} (hb : ∀ t {s} o, MemoryInv s → LeavesKept (body t s o)) :
    GoesOn s (seqScalar i d c r s body child) :=
  seqMember_goesOn ht fun t s o h => keepsIn_ite (keepsIn_error _) (by
    have hk := hb t o h
    split
    · trivial
    · next e =>
      rw [e] at hk
      exact returns_keeps _ _ hk)

theorem execTkcommit_goesOn {d a : BitVec 5} {f : BitVec 1} {c : BitVec 4} : GoesOn s (execTkcommit d a f c s) :=
  seqScalar_goesOn ht fun t s o h => by
    dsimp only
    split
    · trivial
    · split
      · trivial
      · exact leavesKept_ite (leavesKept_error _) (leavesKept_ite (leavesKept_error _) (leavesKept_ok _
          (writeBlock_keeps _ _ _ _ (sideUpdate_keeps _ _ _ _ (sideUpdate_keeps _ _ _ _
            (reachEntries_keeps _ _ (reachText_keeps _ _ h)))))))

theorem execTkforce_goesOn {d : BitVec 5} {c : BitVec 4} : GoesOn s (execTkforce d c s) :=
  seqScalar_goesOn ht fun _ _ _ h => leavesKept_ok _ h

theorem execTkstat_goesOn {d a : BitVec 5} {c : BitVec 4} : GoesOn s (execTkstat d a c s) :=
  seqScalar_goesOn ht fun _ _ _ h => leavesKept_ok _ h

theorem execTkdraw_goesOn {d a : BitVec 5} {c : BitVec 4} : GoesOn s (execTkdraw d a c s) :=
  seqScalar_goesOn ht fun t s o h => by
    extract_lets b done
    have hd (b' : Nat) : LeavesKept (done b') := leavesKept_ok _ (writeBlock_keeps _ _ _ _ h)
    split
    · exact leavesKept_ite (leavesKept_error _) (hd _)
    · exact hd _
    · exact leavesKept_ite (hd _) (leavesKept_error _)
    · exact hd _

theorem execTkckpt_goesOn {c : BitVec 4} : GoesOn s (execTkckpt c s) :=
  seqMember_goesOn ht fun _ _ _ h => keepsIn_ok (writeBlock_keeps _ _ _ _ h)

theorem execTkmask_goesOn {r a : BitVec 5} {c : BitVec 4} : GoesOn s (execTkmask r a c s) :=
  seqMember_goesOn ht fun t s o h => by
    extract_lets b id tab counted
    split
    · trivial
    · refine keepsIn_ite (keepsIn_error _) ?_
      split
      · trivial
      · next e =>
        exact writeVector_keeps _ _ (MemoryInv.of_mem (reachAts_keeps _ (reachEntries_keeps _ _ h)) (readVectors_mem e))

theorem execTktrunc_goesOn {d a : BitVec 5} {c : BitVec 4} : GoesOn s (execTktrunc d a c s) :=
  seqScalar_goesOn ht fun t s o h => by
    extract_lets b ck draw hist tab list rc len l drops
    split
    · trivial
    · split
      · trivial
      · exact leavesKept_ite (leavesKept_error _) (leavesKept_ok _ (writeBlock_keeps _ _ _ _ (zeroedBy_keeps _ _
          (sideUpdate_keeps _ _ _ _ (reachAts_keeps _ (reachEntries_keeps _ _ h))))))

theorem execTkfork_goesOn {d : BitVec 5} {e c : BitVec 4} : GoesOn s (execTkfork d e c s) :=
  seqScalar_goesOn ht fun t s o h => by
    extract_lets p
    split
    · trivial
    extract_lets
    split
    · trivial
    split
    · trivial
    split
    · trivial
    split
    · trivial
    exact leavesKept_ite (leavesKept_error _) (leavesKept_ok _ (writeBlock_keeps _ _ _ _ (writeBlock_keeps _ _ _ _
      (refsRaised_keeps _ _ (reachAts_keeps _ (sideCopy_keeps _ _ _ (sideCopy_keeps _ _ _ (sideCopy_keeps _ _ _
        (reachEntries_keeps _ _ h)))))))))

theorem execRndu_goesOn {d a : BitVec 5} {c : BitVec 4} : GoesOn s (execRndu d a c s) :=
  seqScalar_goesOn ht fun _ _ _ h => leavesKept_ok _ h

theorem rndVector_goesOn {i : Instr} {r a : BitVec 5} {c : BitVec 4} {f : BitVec 32 → Nat} : GoesOn s (rndVector i r a c s f) :=
  seqMember_goesOn ht fun _ _ _ h => keepsIn_ite (keepsIn_error _) (writeVector_keeps _ _ h)

theorem textMember_goesOn {i : Instr} {d : BitVec 5} {c : BitVec 4} {body : Thread → State → Vocab → Except Stop (State × Word)}
    (hb : ∀ t {s} v, MemoryInv s → LeavesKept (body t s v)) : GoesOn s (textMember i d c s body) :=
  issue_goesOn ht fun t s h => keepsIn_ite (keepsIn_error _) (by
    split
    · trivial
    · next ps _ =>
      refine keepsIn_ite (keepsIn_error _) ?_
      have hk := hb t (vocabOf (drain s s.myPath) (placesNat (drain s s.myPath) ps)) (reachBlock_keeps ps (drain_keeps s.myPath h))
      split
      · trivial
      · next e =>
        rw [e] at hk
        exact returns_keeps _ _ hk)

theorem execTkenc_goesOn {d : BitVec 5} {a b r : BitVec 4} : GoesOn s (execTkenc d a b r s) := by
  unfold execTkenc
  refine textMember_goesOn ht fun t s v h => ?_
  extract_lets n room
  split
  · trivial
  split
  · trivial
  refine leavesKept_ite (leavesKept_error _) ?_
  dsimp only
  split
  · trivial
  · exact leavesKept_ok _ (writeSpan_keeps _ _ _ (reachEncode_keeps _ _ (reachAll_keeps _ h)))

theorem execTkdec_goesOn {d : BitVec 5} {a b : BitVec 4} {x : BitVec 1} {r : BitVec 4} : GoesOn s (execTkdec d a b x r s) :=
  textMember_goesOn ht fun t s v h => by
    extract_lets n room
    split
    · trivial
    split
    · trivial
    exact leavesKept_ok _ (writeSpan_keeps _ _ _ (reachDecode_keeps _ _ _ (reachAll_keeps _ h)))

/-! #### Forests (R253–R263) -/

theorem eqMember_goesOn {i : Instr} {d : BitVec 5} {fc : BitVec 4} {usesLog : Forest → Bool} {owns : Bool}
    {body : Thread → State → Forest → Except Stop (State × Except (Nat × Nat) Word)}
    (hb : ∀ t {s} f, MemoryInv s → LeavesKept (body t s f)) : GoesOn s (eqMember i d fc usesLog owns s body) :=
  issue_goesOn ht fun t s h => keepsIn_ite (keepsIn_error _) (by
    split
    · trivial
    · next f _ =>
      refine keepsIn_ite (keepsIn_error _) ?_
      have hk := hb t f (reachForest_keeps t f (drain_keeps s.myPath h))
      split
      · trivial
      · next e =>
        rw [e] at hk
        exact returns_keeps _ _ hk
      · next e =>
        rw [e] at hk
        exact keepsIn_ok hk)

theorem execEqunite_goesOn {d a b : BitVec 5} {fc : BitVec 4} : GoesOn s (execEqunite d a b fc s) :=
  eqMember_goesOn ht fun t s f h => by
    dsimp only
    split
    · trivial
    · trivial
    · refine findRoot_leavesKept (fun rx h => findRoot_leavesKept (fun ry h => ?_) h) h
      exact leavesKept_ite (leavesKept_ok _ h) (leavesKept_ite (leavesKept_ok _ h) (leavesKept_ok _ (link_keeps _ _ _ _ h)))

theorem execEqfind_goesOn {d a : BitVec 5} {fc : BitVec 4} : GoesOn s (execEqfind d a fc s) :=
  eqMember_goesOn ht fun t s f h => by
    split
    · trivial
    · exact findRoot_leavesKept (fun _ h => leavesKept_ok _ h) h

theorem execEqsize_goesOn {d a : BitVec 5} {fc : BitVec 4} : GoesOn s (execEqsize d a fc s) :=
  eqMember_goesOn ht fun t s f h => by
    split
    · trivial
    · exact findRoot_leavesKept (fun _ h => leavesKept_ok _ h) h

theorem execEqsnap_goesOn {d a : BitVec 5} {fc : BitVec 4} : GoesOn s (execEqsnap d a fc s) :=
  eqMember_goesOn ht fun t s f h => by
    extract_lets flags
    split
    · exact leavesKept_ok _ (putDesc_keeps _ _ _ _ _ (putDesc_keeps _ _ _ _ _ h))
    · exact leavesKept_ok _ (putDesc_keeps _ _ _ _ _ h)

theorem execEqundo_goesOn {d a : BitVec 5} {fc : BitVec 4} : GoesOn s (execEqundo d a fc s) := by
  unfold execEqundo
  refine eqMember_goesOn ht fun t s f h => ?_
  extract_lets lo
  refine leavesKept_ite (leavesKept_error _) (leavesKept_ite (leavesKept_error _) (leavesKept_ite (leavesKept_ok _ h) ?_))
  split
  · trivial
  · exact leavesKept_ok _ (putDesc_keeps _ _ _ _ _ (putDesc_keeps _ _ _ _ _ (undoDown_keeps _ _ _ _ h)))

theorem execEqstat_goesOn {d a : BitVec 5} {fc : BitVec 4} : GoesOn s (execEqstat d a fc s) :=
  eqMember_goesOn ht fun _ _ _ h => leavesKept_ok _ h

theorem lichenMember_goesOn {i : Instr} {d : BitVec 5} {fc : BitVec 4} {bad : Word → Bool} {q : Thread → LichenCmd} :
    GoesOn s (lichenMember i d fc bad s q) :=
  issue_goesOn ht fun t s h => keepsIn_ite (keepsIn_error _) (by
    have h1 := drain_keeps s.myPath h
    dsimp only
    split
    · exact keepsIn_ok (lichenIssue_keeps _ _ _ (walked_keeps _ _ h1))
    · trivial
    · exact keepsIn_ok (lichenIssue_keeps _ _ _ (reachCommand_keeps _ _ _ h1)))

/-! #### Vectors (R173–R191) -/

theorem vectorMember_goesOn {px : Px} {i : Instr} {d : BitVec 5} {reads : List Nat}
    {f : Thread → State → Tab (BitVec 2048) → Except Stop VRes} : GoesOn s (vectorMember px i d reads s f) :=
  issueP_goesOn ht fun _ _ h => keepsIn_ite (keepsIn_error _) (by
    split
    · trivial
    · next e =>
      split
      · trivial
      · exact writeVector_keeps _ _ (setMe_keeps _ (h.of_mem (readVectors_mem e))))

theorem vop_goesOn {px : Px} {k : VKind} {i : Instr} {d a b : BitVec 5} {y : BitVec 3} : GoesOn s (vop px k i d a b y s) := by
  unfold vop
  exact vectorMember_goesOn ht

theorem vop1_goesOn {px : Px} {k : VKind} {i : Instr} {d a : BitVec 5} {y : BitVec 3} : GoesOn s (vop1 px k i d a y s) :=
  vectorMember_goesOn ht

theorem vops_goesOn {px : Px} {k : VKind} {i : Instr} {d a b : BitVec 5} {y : BitVec 3} : GoesOn s (vops px k i d a b y s) := by
  unfold vops
  exact vectorMember_goesOn ht

theorem vcmp_goesOn {px : Px} {i : Instr} {k : BitVec 3} {a b : BitVec 5} {y : BitVec 3} {n : BitVec 1} {c : BitVec 5} :
    GoesOn s (vcmp px i k a b y n c s) :=
  issueP_goesOn ht fun _ _ h => by
    split
    · trivial
    · next e => exact keepsIn_ok (setMe_keeps _ (h.of_mem (readVectors_mem e)))

theorem vred_goesOn {px : Px} {i : Instr} {d a : BitVec 5} {y : BitVec 3}
    {f : Thread → Ty → List (Nat × Nat) → Word × Nat × Bool} :
    GoesOn s (vred px i d a y s f) :=
  issueP_goesOn ht fun _ _ h => by
    split
    · trivial
    · next e => exact keepsIn_ok (MemoryInv.of_mem (setMe_keeps _ (h.of_mem (readVectors_mem e))) (holdS_mem _ _ _ _))

theorem vscan_goesOn {px : Px} {i : Instr} {d a : BitVec 5} {y : BitVec 3} : GoesOn s (vscan px i d a y s) :=
  issueP_goesOn ht fun _ _ h => keepsIn_ite (keepsIn_error _) (by
    split
    · trivial
    · next e => exact writeHeldVector_keeps _ _ _ (setMe_keeps _ (h.of_mem (readVectors_mem e))))

theorem vconv_goesOn {px : Px} {m : Conv} {i : Instr} {d a : BitVec 5} {src dst : BitVec 3}
    {part : Ty → Ty → Nat → Option (Nat × Nat × (Nat → Nat))} : GoesOn s (vconv px m i d a src dst s part) :=
  issueP_goesOn ht fun t s h => by
    extract_lets ys yd desc scaled readsVc writesVc
    split
    · trivial
    · refine keepsIn_ite (keepsIn_error _) ?_
      split
      · trivial
      · next e =>
        extract_lets r s1
        have h1 : MemoryInv s1 := setMe_keeps _ (h.of_mem (readVectors_mem e))
        split
        · trivial
        · next e2 =>
          refine writeVector_keeps _ _ ?_
          split at e2
          · exact h1.of_mem (writeVector_mem e2)
          · cases e2
            exact h1

theorem vectorLoad_goesOn {px : Px} {i : Instr} {d : BitVec 5} {c : BitVec 4} {reads : List Nat} {hint : Bool} {y : BitVec 3}
    {limit : Nat} {addr : Thread → Tab (BitVec 2048) → Nat → Int} :
    GoesOn s (vectorLoad px i d c reads hint y limit s addr) :=
  issueP_goesOn ht fun t s h => keepsIn_ite (keepsIn_error _) (keepsIn_ite (keepsIn_error _) (by
    split
    · trivial
    · next e =>
      extract_lets js
      split
      · trivial
      · extract_lets s1 got v s2
        have h1 : MemoryInv s1 := settleAll_keeps _ _ _ (h.of_mem (readVectors_mem e))
        have h2 : MemoryInv s2 := ite_keeps (foldl_keeps (fun _ h => leaveReplica_keeps _ _ _ h) _ h1) h1
        exact writeHeldVector_keeps _ _ _ h2))

theorem vectorStore_goesOn {px : Px} {i : Instr} {d : BitVec 5} {c : BitVec 4} {reads : List Nat} {y : BitVec 3} {limit : Nat}
    {addr : Thread → Tab (BitVec 2048) → Nat → Int} : GoesOn s (vectorStore px i d c reads y limit s addr) :=
  issueP_goesOn ht fun t s h => by
    extract_lets ty size w
    split
    · trivial
    · next s0 vs e =>
      have h0 : MemoryInv s0 := h.of_mem (readVectors_mem e)
      split
      · trivial
      · exact keepsIn_ok (pushWide_keeps _ _ (reachAts_keeps _ (ite_keeps (drain_keeps _ h0) h0)))

theorem sfuMember_goesOn {px : Px} {fn : Nat} {i : Instr} {d a : BitVec 5} {y : BitVec 3} : GoesOn s (sfuMember px fn i d a y s) :=
  issueP_goesOn ht fun _ _ h => keepsIn_ite (keepsIn_error _) (keepsIn_ite (keepsIn_error _) (by
    split
    · trivial
    · next e => exact keepsIn_ok (waitFor_keeps _ (setCluster_keeps _ _ (h.of_mem (readVectors_mem e))))))

theorem runVpermb_goesOn {px : Px} {d a b : BitVec 5} : GoesOn s (runVpermb px d a b s) :=
  vectorMember_goesOn ht

theorem runVshuf_goesOn {px : Px} {d a b : BitVec 5} {y : BitVec 3} : GoesOn s (runVshuf px d a b y s) :=
  vectorMember_goesOn ht

theorem runVbcast_goesOn {px : Px} {d a : BitVec 5} {y : BitVec 3} : GoesOn s (runVbcast px d a y s) :=
  vectorMember_goesOn ht

theorem runVslide_goesOn {px : Px} {d a b : BitVec 5} {y : BitVec 3} : GoesOn s (runVslide px d a b y s) :=
  vectorMember_goesOn ht

theorem runVins_goesOn {px : Px} {d a b : BitVec 5} {y : BitVec 3} : GoesOn s (runVins px d a b y s) :=
  vectorMember_goesOn ht

theorem runVmov_goesOn {px : Px} {d a : BitVec 5} {y : BitVec 3} : GoesOn s (runVmov px d a y s) :=
  vectorMember_goesOn ht

theorem runViota_goesOn {px : Px} {d a : BitVec 5} {y : BitVec 3} : GoesOn s (runViota px d a y s) :=
  vectorMember_goesOn ht

theorem runVredsum_goesOn {px : Px} {d a : BitVec 5} {y : BitVec 3} : GoesOn s (runVredsum px d a y s) :=
  vred_goesOn ht

theorem runVredmax_goesOn {px : Px} {d a : BitVec 5} {y : BitVec 3} : GoesOn s (runVredmax px d a y s) :=
  vred_goesOn ht

theorem runVredmin_goesOn {px : Px} {d a : BitVec 5} {y : BitVec 3} : GoesOn s (runVredmin px d a y s) :=
  vred_goesOn ht

theorem runVredmaxi_goesOn {px : Px} {d a b : BitVec 5} {y : BitVec 3} : GoesOn s (runVredmaxi px d a b y s) :=
  vred_goesOn ht

theorem runVredmini_goesOn {px : Px} {d a b : BitVec 5} {y : BitVec 3} : GoesOn s (runVredmini px d a b y s) :=
  vred_goesOn ht

theorem runVcvt_goesOn {px : Px} {d a : BitVec 5} {r u : BitVec 3} : GoesOn s (runVcvt px d a r u s) :=
  vconv_goesOn ht

theorem runVpack_goesOn {px : Px} {d a p : BitVec 5} {r u : BitVec 3} : GoesOn s (runVpack px d a p r u s) :=
  vconv_goesOn ht

theorem runVunpk_goesOn {px : Px} {d a p : BitVec 5} {r u : BitVec 3} : GoesOn s (runVunpk px d a p r u s) :=
  vconv_goesOn ht

theorem runVextr_goesOn {px : Px} {d a b : BitVec 5} {y : BitVec 3} : GoesOn s (runVextr px d a b y s) :=
  issueP_goesOn ht fun _ _ h => by
    split
    · trivial
    · next e => exact keepsIn_ok (MemoryInv.of_mem (h.of_mem (readVectors_mem e)) (holdS_mem _ _ _ _))

theorem runVld_goesOn {px : Px} {d : BitVec 5} {c : BitVec 4} {a : BitVec 5} {w : BitVec 1} {y : BitVec 3} {x : BitVec 1} {o : BitVec 6} :
    GoesOn s (runVld px d c a w y x o s) := by
  unfold runVld
  exact vectorLoad_goesOn ht

theorem runVst_goesOn {px : Px} {d : BitVec 5} {c : BitVec 4} {a : BitVec 5} {w : BitVec 1} {y : BitVec 3} {o : BitVec 6} :
    GoesOn s (runVst px d c a w y o s) := by
  unfold runVst
  exact vectorStore_goesOn ht

theorem runVlds_goesOn {px : Px} {d : BitVec 5} {c : BitVec 4} {a : BitVec 5} {w : BitVec 1} {y : BitVec 3} {x : BitVec 1} {r : BitVec 5} :
    GoesOn s (runVlds px d c a w y x r s) := ite_goesOn (vectorLoad_goesOn ht) (issueP_goesOn ht fun _ _ _ => keepsIn_error _)

theorem runVsts_goesOn {px : Px} {d : BitVec 5} {c : BitVec 4} {a : BitVec 5} {w : BitVec 1} {y : BitVec 3} {r : BitVec 5} :
    GoesOn s (runVsts px d c a w y r s) := ite_goesOn (vectorStore_goesOn ht) (issueP_goesOn ht fun _ _ _ => keepsIn_error _)

theorem runVsel_goesOn {px : Px} {d a b : BitVec 5} {y : BitVec 3} : GoesOn s (runVsel px d a b y s) :=
  issueP_goesOn ht fun _ _ h => keepsIn_ite (keepsIn_error _) (by
    split
    · trivial
    · next e => exact writeVector_keeps _ _ (h.of_mem (readVectors_mem e)))

theorem runKand_goesOn {px : Px} {d a b : BitVec 3} : GoesOn s (runKand px d a b s) :=
  issueP_goesOn ht fun _ _ h => keepsIn_ok (setMe_keeps _ h)

theorem runKor_goesOn {px : Px} {d a b : BitVec 3} : GoesOn s (runKor px d a b s) :=
  issueP_goesOn ht fun _ _ h => keepsIn_ok (setMe_keeps _ h)

theorem runKnot_goesOn {px : Px} {d a : BitVec 3} : GoesOn s (runKnot px d a s) :=
  issueP_goesOn ht fun _ _ h => keepsIn_ok (setMe_keeps _ h)

theorem runKpopc_goesOn {px : Px} {d : BitVec 5} {a : BitVec 3} : GoesOn s (runKpopc px d a s) :=
  issueP_goesOn ht fun _ _ h => write1_keeps _ _ h

theorem failWord_goesOn {cause : Nat} {w : BitVec 32} : GoesOn s (failWord s cause w) := by
  obtain ⟨t, ht⟩ := ht
  refine ⟨(fail s (.fault cause (w.setWidth 64) 0)).bump, ?_, fun h => MemoryInv.of_mem (fail_keeps _ h) rfl⟩
  simp only [failWord, ht]

end
end Sys2Proof.Machine
end

section
/-!
SUPPORT. The events outside the barrels go on.
-/

namespace Sys2Proof.Machine

/-! ### Events outside the barrels

An event goes on from every state. -/

/-- An event that changes nothing. -/
theorem idle_goesOn {s : State} : GoesOn s (outside s) := outside_goesOn id

theorem net_keeps {s : State} (ds : List Delivery) (h : MemoryInv s) : MemoryInv { s with net := ds } := h.of_mem (by simp)
theorem multis_keeps {s : State} (ms : List Multicast) (h : MemoryInv s) : MemoryInv { s with multis := ms } := h.of_mem (by simp)
theorem completeAt_keeps {s : State} (l : Loc) (f : Thread → Thread) (h : MemoryInv s) : MemoryInv (completeAt s l f) := h.of_mem (by simp)

section
variable {s : State}

/-! #### Completions of the system's members (R322–R328, R344) -/

theorem execHaltCompletion_goesOn : GoesOn s (execHaltCompletion s) := by
  unfold execHaltCompletion
  split
  · split
    · exact outside_goesOn fun h => ite_keeps (endPending_keeps _ _ _ h) h
    · exact idle_goesOn
  · exact idle_goesOn

theorem execHarvestCompletion_goesOn : GoesOn s (execHarvestCompletion s) := by
  unfold execHarvestCompletion
  split
  · split
    · exact outside_goesOn fun h => endPending_keeps _ _ _ (harvest_keeps _ _ _ h)
    · exact idle_goesOn
  · exact idle_goesOn

theorem execXinvCompletion_goesOn : GoesOn s (execXinvCompletion s) := by
  unfold execXinvCompletion
  split
  · split
    · exact outside_goesOn fun h => endPending_keeps _ _ _ h
    · exact idle_goesOn
  · exact idle_goesOn

theorem execKeyclrCompletion_goesOn : GoesOn s (execKeyclrCompletion s) := by
  unfold execKeyclrCompletion
  split
  · split
    · exact outside_goesOn fun h => endPending_keeps _ _ _ (clearKey_keeps _ h)
    · exact idle_goesOn
  · exact idle_goesOn

theorem execSpillrplCompletion_goesOn : GoesOn s (execSpillrplCompletion s) := by
  unfold execSpillrplCompletion
  split
  · split
    · split
      · exact outside_goesOn fun h => endPending_keeps _ _ _ h
      · exact outside_goesOn fun h => endPending_keeps _ _ _ (foldl_keeps (fun d h => replay_keeps _ d h) _ (setCore_keeps _ _ h))
    · exact idle_goesOn
  · exact idle_goesOn

/-! #### Deliveries and arrivals (R13, R14, R20) -/

theorem netEvent_goesOn {want : Body → Bool} : GoesOn s (netEvent s want) := by
  unfold netEvent
  dsimp only
  split
  · exact ite_goesOn (outside_goesOn fun h => getD_keeps (deliver_keeps (net_keeps _ h)) h) idle_goesOn
  · exact idle_goesOn

theorem execHeldArrivalPlaced_goesOn : GoesOn s (execHeldArrivalPlaced s) := by
  unfold execHeldArrivalPlaced
  dsimp only
  split
  · exact idle_goesOn
  · exact outside_goesOn fun h => getD_keeps (placeArrival_keeps (setCore_keeps _ _ h)) h

theorem execHelperPlaced_goesOn : GoesOn s (execHelperPlaced s) := by
  unfold execHelperPlaced
  dsimp only
  split
  · exact idle_goesOn
  · split
    · exact outside_goesOn fun h => completeAt_keeps _ _ (placeIn_keeps _ _ (setCore_keeps _ _ h))
    · exact idle_goesOn
    · exact outside_goesOn fun h => setCore_keeps _ _ h

theorem execVgrowSatisfied_goesOn : GoesOn s (execVgrowSatisfied s) := by
  unfold execVgrowSatisfied
  dsimp only
  split
  · exact idle_goesOn
  · split
    · exact ite_goesOn idle_goesOn (outside_goesOn fun h => completeAt_keeps _ _ (setCore_keeps _ _ h))
    · exact outside_goesOn fun h => setCore_keeps _ _ h

/-! #### Results, stores, units (R36, R85, R115, R148, R190) -/

theorem landWhere_keeps {s : State} (l : Loc) (p : Hold → Bool) (h : MemoryInv s) : MemoryInv (landWhere s l p) := onThread_keeps _ _ h

theorem execScalarResultWrite_goesOn : GoesOn s (execScalarResultWrite s) := outside_goesOn fun h => landWhere_keeps _ _ h

theorem execLoadDataReturn_goesOn : GoesOn s (execLoadDataReturn s) := by
  unfold execLoadDataReturn
  dsimp only
  split
  · exact outside_goesOn fun h => landWhere_keeps _ _ h
  · exact idle_goesOn

theorem execMulticastCompletion_goesOn : GoesOn s (execMulticastCompletion s) := by
  unfold execMulticastCompletion
  split
  · exact idle_goesOn
  · refine outside_goesOn fun h => ?_
    have h1 := multis_keeps (s.multis.eraseIdx s.cue.a) h
    exact fillToken_keeps _ _ _ _ _ _ (ite_keeps h1 (logEntry_keeps _ _ h1))

theorem storeEvent_goesOn {p : PStore → Bool} : GoesOn s (storeEvent s p) := by
  unfold storeEvent
  split
  · exact outside_goesOn fun h => ite_keeps (performAt_keeps _ _ h) h
  · exact idle_goesOn

theorem execSfuReturn_goesOn : GoesOn s (execSfuReturn s) := by
  unfold execSfuReturn
  dsimp only
  split
  · exact idle_goesOn
  · exact ite_goesOn (outside_goesOn fun h => ite_keeps h (sfuReturn_keeps _ _ _ h)) (outside_goesOn fun h => setCluster_keeps _ _ h)

theorem execStreamRunaheadFetch_goesOn : GoesOn s (execStreamRunaheadFetch s) := outside_goesOn fun h => streamStep_keeps _ _ h

theorem execModeSwitch_goesOn : GoesOn s (execModeSwitch s) := by
  unfold execModeSwitch
  dsimp only
  split
  · exact idle_goesOn
  · exact ite_goesOn idle_goesOn (outside_goesOn fun h => h.of_mem (switchMode_mem _ _ _))

theorem execWatchdogExpiry_goesOn : GoesOn s (execWatchdogExpiry s) := by
  unfold execWatchdogExpiry
  dsimp only
  split
  · exact idle_goesOn
  · exact ite_goesOn idle_goesOn (outside_goesOn fun h => displaceLate_keeps _ (stopThread_keeps _ _ _ _ _ h))

theorem cur_keeps {s : State} (l : Loc) (h : MemoryInv s) : MemoryInv { s with cur := l } := h.of_mem (by simp)

theorem execNoRouteTimeout_goesOn : GoesOn s (execNoRouteTimeout s) := by
  unfold execNoRouteTimeout
  dsimp only
  split
  · refine ite_goesOn idle_goesOn (outside_goesOn fun h => ?_)
    have h1 := cur_keeps { core := s.cue.a, slot := s.cue.b }
      (onThread_keeps { core := s.cue.a, slot := s.cue.b } (fun t => { t with wait := none }) h)
    exact ite_keeps (raise_keeps _ _ _ _ h1) (raise_keeps _ _ _ _ h1)
  · exact idle_goesOn

theorem reachTable_keeps {s : State} (asid : Nat) (c : Cap) (h : MemoryInv s) : MemoryInv (reachTable s asid c) := h.of_mem (by simp)

theorem execHartRestart_goesOn : GoesOn s (execHartRestart s) :=
  ite_goesOn idle_goesOn (outside_goesOn fun h => reachTable_keeps _ _ (reachRegion_keeps _ (placeIn_keeps _ _
    (hartStatus_keeps _ _ _ (setCore_keeps _ _ h)))))

theorem execMatrixCompletion_goesOn : GoesOn s (execMatrixCompletion s) := by
  unfold execMatrixCompletion
  dsimp only
  split
  · exact idle_goesOn
  · refine ite_goesOn (outside_goesOn fun h => ite_keeps (onThread_keeps _ _ ?_) ?_) idle_goesOn
    · exact setCore_keeps _ _ h
    · exact setCore_keeps _ _ h

theorem execCopyCompletion_goesOn : GoesOn s (execCopyCompletion s) := by
  unfold execCopyCompletion
  dsimp only
  split
  · exact idle_goesOn
  · exact ite_goesOn idle_goesOn (outside_goesOn fun h => runCopy_keeps _ _ _ h)

theorem lichenEvent_goesOn {reduce : Bool} {run : State → Nat → Nat → LichenCmd → State}
    (hr : ∀ {u} k n c, MemoryInv u → MemoryInv (run u k n c)) : GoesOn s (lichenEvent s reduce run) := by
  unfold lichenEvent
  dsimp only
  split
  · exact idle_goesOn
  · exact ite_goesOn idle_goesOn (outside_goesOn fun h => withForest_keeps _ _ _ (fun c hu => hr _ _ c hu) h)

theorem execEqinitCompletion_goesOn : GoesOn s (execEqinitCompletion s) := lichenEvent_goesOn fun _ _ _ hu => runInit_keeps _ _ _ hu

theorem execEqreduceCompletion_goesOn : GoesOn s (execEqreduceCompletion s) :=
  lichenEvent_goesOn fun _ _ _ hu => runReduce_keeps _ _ _ hu

/-! #### Regions, saving, resumption, schedule (R331–R382) -/

theorem takeRequest_goesOn {n : Nat} {f : State → Nat → State} (hf : ∀ {u} r, MemoryInv u → MemoryInv (f u r)) :
    GoesOn s (takeRequest s n f) :=
  ite_goesOn (outside_goesOn fun h => hf _ (reachRegion_keeps _ (rcbPut_keeps _ _ _ _ h))) idle_goesOn

theorem execPreemptRequest_goesOn : GoesOn s (execPreemptRequest s) :=
  takeRequest_goesOn fun r h => by
    split
    · exact preemptLaunch_keeps _ h
    · exact h

theorem execKillRequest_goesOn : GoesOn s (execKillRequest s) := takeRequest_goesOn fun _ h => killRegion_keeps _ _ _ _ h

theorem execResumeRequest_goesOn : GoesOn s (execResumeRequest s) :=
  takeRequest_goesOn fun r h => by
    split
    · split
      · exact resumeLaunch_keeps _ _ h
      · exact h
    · exact h

theorem execCoreSave_goesOn : GoesOn s (execCoreSave s) := by
  unfold execCoreSave
  dsimp only
  split
  · exact idle_goesOn
  · exact ite_goesOn idle_goesOn (ite_goesOn (outside_goesOn fun h => setCore_keeps _ _ h) (ite_goesOn idle_goesOn
      (outside_goesOn fun h => saveCore_keeps _ _ _ (foldl_keeps (fun l h => displace_keeps l h) _ h))))

theorem execQueueRecordTaken_goesOn : GoesOn s (execQueueRecordTaken s) := by
  unfold execQueueRecordTaken
  extract_lets q head rec' r doneva s1 l
  have h1 (h : MemoryInv s) : MemoryInv s1 := blockPut_keeps _ _ _ h
  exact ite_goesOn idle_goesOn (ite_goesOn idle_goesOn (ite_goesOn
    (outside_goesOn fun h => writeToken_keeps _ _ (reachRegion_keeps _ (h1 h)))
    (outside_goesOn fun h => reachRegion_keeps _ (launches_keeps _ (h1 h)))))

theorem execLaunchCandidate_goesOn : GoesOn s (execLaunchCandidate s) := by
  unfold execLaunchCandidate
  dsimp only
  split
  · exact idle_goesOn
  · exact ite_goesOn idle_goesOn (ite_goesOn (outside_goesOn fun h => completeLaunch_keeps _ _ _ h)
      (ite_goesOn (outside_goesOn fun h => launches_keeps _ h) idle_goesOn))

theorem execPlacementDecision_goesOn : GoesOn s (execPlacementDecision s) := by
  unfold execPlacementDecision
  refine ite_goesOn idle_goesOn ?_
  split
  · exact outside_goesOn fun h => placeNext_keeps _ h
  · split
    · exact idle_goesOn
    · next v _ =>
      have hq (h : MemoryInv s) : MemoryInv (pickQueue s v).1 := h.of_mem (pickQueue_mem s v)
      split
      · next s1 q e =>
        rw [e] at hq
        split
        · exact outside_goesOn fun h => placeNext_keeps _ (hq h)
        · exact outside_goesOn hq
      · next s1 e =>
        rw [e] at hq
        exact outside_goesOn hq

theorem execCrewResumption_goesOn : GoesOn s (execCrewResumption s) := by
  unfold execCrewResumption
  dsimp only
  split
  · exact idle_goesOn
  · split
    · exact idle_goesOn
    · exact ite_goesOn idle_goesOn (outside_goesOn fun h => resumeCrew_keeps _ _ _ _ _ h)

theorem age_keeps {s : State} (h : MemoryInv s) : MemoryInv (age s) := h.of_mem (age_mem s)

theorem execSlotBoundary_goesOn : GoesOn s (execSlotBoundary s) := by
  unfold execSlotBoundary
  refine ite_goesOn idle_goesOn ?_
  extract_lets s1 changed
  have h1 (h : MemoryInv s) : MemoryInv s1 := latchHeader_keeps h
  exact ite_goesOn (outside_goesOn fun h => ite_keeps (changedSlot_keeps (h1 h)) (h1 h))
    (ite_goesOn idle_goesOn (ite_goesOn (outside_goesOn fun h => changedSlot_keeps (age_keeps (h1 h)))
      (outside_goesOn fun h => dueEntry_keeps _ (beginSlot_keeps _ (age_keeps (h1 h))))))

theorem deferred_keeps {s : State} (ds : List Deferred) (h : MemoryInv s) : MemoryInv { s with deferred := ds } := h.of_mem (by simp)

theorem execDeferredFiring_goesOn : GoesOn s (execDeferredFiring s) := by
  unfold execDeferredFiring
  split
  · exact idle_goesOn
  · next d _ =>
    exact ite_goesOn (outside_goesOn fun h => entryCount_keeps _ _ (deferred_keeps _ h))
      (ite_goesOn idle_goesOn (outside_goesOn fun h => fireEntry_keeps _ _ (deferred_keeps _ h)))

theorem execWindowOverrun_goesOn : GoesOn s (execWindowOverrun s) := by
  unfold execWindowOverrun
  dsimp only
  split
  · exact idle_goesOn
  · split
    · next e w _ _ =>
      refine ite_goesOn idle_goesOn ?_
      have h1 (ls : List Launch) (h : MemoryInv s) : MemoryInv { entryCount s e 0x18 with launches := ls } :=
        launches_keeps ls (entryCount_keeps e 0x18 h)
      split
      · exact outside_goesOn fun h => preemptLaunch_keeps _ (h1 _ h)
      · exact outside_goesOn fun h => killRegion_keeps _ _ _ _ (h1 _ h)
      · exact outside_goesOn fun h => h1 _ h
    · exact idle_goesOn

theorem execOrderingAgentFailure_goesOn : GoesOn s (execOrderingAgentFailure s) := outside_goesOn fun h => setDie_keeps _ _ h

/-! #### The directory, hosts and the ingress port (R362, R389, R403) -/

theorem execLineRead_goesOn : GoesOn s (execLineRead s) := serveLine_goesOn fun _ h => h.of_mem (setDir_mem _ _ _)

theorem execOwnershipRequest_goesOn : GoesOn s (execOwnershipRequest s) := serveLine_goesOn fun _ h => grantLine_keeps _ _ h

theorem execUpgradeNotice_goesOn : GoesOn s (execUpgradeNotice s) := by
  unfold execUpgradeNotice
  dsimp only
  split
  · refine ite_goesOn (outside_goesOn fun h => ?_) idle_goesOn
    have h1 := grantLine_keeps (lineKey s.cue.b (s.cue.c * 128)) s.cue.a h
    exact ite_keeps h1 (cacheIn_keeps _ _ h1)
  · exact idle_goesOn

theorem hostAnswer_keeps {s : State} (v : Option Word) (h : MemoryInv s) : MemoryInv (hostAnswer s v) := h.of_mem rfl

theorem hostRefused_keeps {s : State} (va : Nat) (h : MemoryInv s) : MemoryInv (hostRefused s va) := logEntry_keeps _ _ h

theorem reach_keeps {s : State} (asid va : Nat) (h : MemoryInv s) : MemoryInv (s.reach asid va) := h.of_mem (by simp)

theorem execHostCxlAccess_goesOn : GoesOn s (execHostCxlAccess s) := by
  unfold execHostCxlAccess
  refine ite_goesOn idle_goesOn ?_
  split
  · refine ite_goesOn idle_goesOn ?_
    split
    · exact outside_goesOn fun h => hostAnswer_keeps _ (hostRefused_keeps _ (walked_keeps _ _ h))
    · exact outside_goesOn fun h => hostAnswer_keeps _ (reach_keeps _ _ h)
  · refine ite_goesOn idle_goesOn ?_
    split
    · exact outside_goesOn fun h => hostRefused_keeps _ (walked_keeps _ _ h)
    · exact outside_goesOn fun h => performStore_keeps _ (reach_keeps _ _ h)

theorem execSystemWindowRequest_goesOn : GoesOn s (execSystemWindowRequest s) := by
  unfold execSystemWindowRequest
  refine ite_goesOn idle_goesOn ?_
  split
  · exact windowServe_goesOn fun _ h => windowAnswer_keeps _ h
  · refine windowServe_goesOn fun pl h => ?_
    split
    · exact performStore_keeps _ h
    · exact h
  · exact windowServe_goesOn fun _ h => windowRmw_keeps _ _ _ h
  · exact windowServe_goesOn fun _ h => windowRmw_keeps _ _ _ h
  · exact windowServe_goesOn fun _ h => windowCast_keeps _ _ _ _ h
  · exact ite_goesOn idle_goesOn (outside_goesOn fun h => send_keeps _ h)
  · exact ite_goesOn idle_goesOn (outside_goesOn fun h => send_keeps _ h)

/-! #### The fabric (R392, R405, R407, R408) -/

theorem setLink_keeps {s : State} (p d : Nat) (f : Link → Link) (h : MemoryInv s) : MemoryInv (s.setLink p d f) := h.of_mem (by simp)

theorem execFabricPacket_goesOn : GoesOn s (execFabricPacket s) :=
  onPort_goesOn fun _ _ h => ite_keeps h (setLink_keeps _ _ _ h)

theorem execPortOutOfService_goesOn : GoesOn s (execPortOutOfService s) :=
  onPort_goesOn fun _ _ h => ite_keeps (portDown_keeps _ h) h

theorem execLinkLoss_goesOn : GoesOn s (execLinkLoss s) := onPort_goesOn fun _ _ h => portDown_keeps _ h

theorem execKeyRenewal_goesOn : GoesOn s (execKeyRenewal s) :=
  onPort_goesOn fun _ _ h => ite_keeps h (ite_keeps (setLink_keeps _ _ _ h) (openRoutes_keeps (setLink_keeps _ _ _ h)))

theorem unreach_keeps {s : State} (ms : List Nat) (h : MemoryInv s) : MemoryInv { s with unreach := ms } := h.of_mem (by simp)

theorem execRouteReturns_goesOn : GoesOn s (execRouteReturns s) :=
  ite_goesOn idle_goesOn (outside_goesOn fun h => openRoutes_keeps (unreach_keeps _ h))

theorem cxls_keeps {s : State} (xs : Tab Cxl) (h : MemoryInv s) : MemoryInv { s with cxls := xs } := h.of_mem (by simp)

theorem execSpdmMessage_goesOn : GoesOn s (execSpdmMessage s) :=
  ite_goesOn idle_goesOn (outside_goesOn fun h => ite_keeps h (cxls_keeps _ h))

theorem ptp_keeps {s : State} (n : Nat) (h : MemoryInv s) : MemoryInv { s with ptp := n } := h.of_mem (by simp)

theorem execPtpDiscipline_goesOn : GoesOn s (execPtpDiscipline s) := outside_goesOn fun h => ite_keeps h (ptp_keeps _ h)

theorem endWfi_keeps {s : State} (id : Nat) (h : MemoryInv s) : MemoryInv (endWfi s id) := h.of_mem (by simp)

theorem execHeartbeatTick_goesOn : GoesOn s (execHeartbeatTick s) :=
  ite_goesOn idle_goesOn (outside_goesOn fun h => endWfi_keeps _ (tickPair_keeps _ (setCore_keeps _ _ h)))

theorem execTakeover_goesOn : GoesOn s (execTakeover s) :=
  ite_goesOn idle_goesOn (ite_goesOn (outside_goesOn fun h => ite_keeps (endFence_keeps _ (replayJournal_keeps h)) h)
    (ite_goesOn (outside_goesOn fun h => beginTakeover_keeps _ h) idle_goesOn))

/-! #### Power, firmware, attestation, debug (R394–R413) -/

theorem powerOff_keeps {s : State} (h : MemoryInv s) : MemoryInv (powerOff s) := h.of_mem (by simp)

theorem powerEvent_goesOn {want : Nat → Nat → Bool} {f : Nat → Word → State} (hf : ∀ d w, MemoryInv s → MemoryInv (f d w)) :
    GoesOn s (powerEvent s want f) := by
  unfold powerEvent
  dsimp only
  split
  · exact idle_goesOn
  · exact ite_goesOn (outside_goesOn fun h => writerDone_keeps _ (hf _ _ h)) idle_goesOn

theorem execClusterGate_goesOn : GoesOn s (execClusterGate s) := powerEvent_goesOn fun _ _ h => gateDie_keeps _ _ h

theorem execDieSleep_goesOn : GoesOn s (execDieSleep s) :=
  powerEvent_goesOn fun _ _ h => ite_keeps (gateDie_keeps _ _ h) (sleepDie_keeps _ _ h)

theorem execDieWake_goesOn : GoesOn s (execDieWake s) :=
  ite_goesOn (outside_goesOn fun h => ite_keeps (restoreKey_keeps _ h) h) (powerEvent_goesOn fun _ _ h =>
    ite_keeps (restoreKey_keeps _ (setDie_keeps _ _ (setPower_keeps _ _ h))) (setDie_keeps _ _ (setPower_keeps _ _ h)))

theorem execModuleOff_goesOn : GoesOn s (execModuleOff s) :=
  powerEvent_goesOn fun _ _ h => powerOff_keeps (evictAll_wf _ h)

theorem selfTest_keeps {s : State} (healthy : BitVec 12) (h : MemoryInv s) : MemoryInv (selfTest s healthy) := h.of_mem (by simp)
theorem mapOut_keeps {s : State} (h : MemoryInv s) : MemoryInv (mapOut s) := h.of_mem (by simp)
theorem bringup_keeps {s : State} (n : Nat) (x : Option (BitVec 384)) (h : MemoryInv s) :
    MemoryInv { s with bringup := n, identity := x } := h.of_mem (by simp)

theorem execPowerOn_goesOn : GoesOn s (execPowerOn s) := by
  unfold execPowerOn
  refine ite_goesOn idle_goesOn ?_
  extract_lets boot s1 s2
  have h1 (h : MemoryInv s) : MemoryInv s1 := selfTest_keeps _ h
  have h2 (h : MemoryInv s) : MemoryInv s2 := mapOut_keeps (bringup_keeps s1.bringup (some identitySeed) (h1 h))
  clear_value s1 s2
  split
  · exact outside_goesOn fun h => bringup_keeps 1 s1.identity (h1 h)
  · refine ite_goesOn (outside_goesOn fun h => bringup_keeps 2 s1.identity (h1 h)) ?_
    split
    · exact outside_goesOn fun h => bringup_keeps 4 s2.identity (h2 h)
    · exact outside_goesOn fun h => bringUp_keeps _ _ _ _ (h2 h)

theorem banks_keeps {s : State} (bs : Tab Bank) (n : Nat) (h : MemoryInv s) : MemoryInv { s with banks := bs, active := n } :=
  h.of_mem (by simp)

theorem execBundleUpload_goesOn : GoesOn s (execBundleUpload s) :=
  ite_goesOn (outside_goesOn fun h => powerOff_keeps (banks_keeps (s.banks.set 0 { bundle := s.cue.bundle }) s.active h)) idle_goesOn

theorem execBundleInstall_goesOn : GoesOn s (execBundleInstall s) :=
  ite_goesOn (outside_goesOn fun h => powerOff_keeps (banks_keeps _ _ h)) idle_goesOn

theorem confirmTrial_keeps {s : State} (h : MemoryInv s) : MemoryInv (confirmTrial s) := h.of_mem rfl

theorem execVerifierAcknowledgement_goesOn : GoesOn s (execVerifierAcknowledgement s) :=
  ite_goesOn (outside_goesOn fun h => confirmTrial_keeps h) idle_goesOn

theorem execTrialWatchdogExpiry_goesOn : GoesOn s (execTrialWatchdogExpiry s) := by
  unfold execTrialWatchdogExpiry
  split
  · exact ite_goesOn idle_goesOn (outside_goesOn fun h => powerOff_keeps (banks_keeps _ _ h))
  · exact idle_goesOn

theorem quotes_keeps {s : State} (qs : List Quote) (x : Option (BitVec 256)) (h : MemoryInv s) :
    MemoryInv { s with quotes := qs, attest := x } := h.of_mem (by simp)

theorem execQuoteRequest_goesOn : GoesOn s (execQuoteRequest s) := by
  unfold execQuoteRequest
  split
  · exact outside_goesOn fun h => quotes_keeps _ _ h
  · exact idle_goesOn

theorem debugCsrPut_keeps {s u : State} {l : Loc} {n : Nat} {v : Word} (h : MemoryInv s) (e : debugCsrPut s l n v = some u) :
    MemoryInv u := by
  obtain ⟨t, -, ht⟩ := Option.bind_eq_some_iff.mp e
  have hk := csrPut_keeps t false n v (cur_keeps l h)
  split at ht
  · next e1 =>
    rw [e1] at hk
    cases ht
    exact cur_keeps _ hk
  · cases ht

theorem setThread_keeps {s : State} (l : Loc) (t : Thread) (h : MemoryInv s) : MemoryInv (s.setThread l t) := h.of_mem (by simp)

theorem debugHalted_keeps {s : State} (q : DebugRequest) (h : MemoryInv s) : MemoryInv (debugHalted s q) := by
  have hn := debugAnswer_keeps (s := s) none h
  unfold debugHalted
  split
  · exact debugAnswer_keeps _ h
  · refine ite_keeps hn ?_
    split
    · exact debugAnswer_keeps _ (setThread_keeps _ _ h)
    · split
      · exact debugAnswer_keeps _ (setCore_keeps _ _ h)
      · exact hn
  · split
    · next e => exact debugAnswer_keeps _ (debugCsrPut_keeps h e)
    · exact hn
  · split
    · exact debugAnswer_keeps _ (performStore_keeps _ h)
    · exact hn
  · exact ite_keeps (debugAnswer_keeps _ (performStore_keeps _ h)) hn
  · exact ite_keeps (debugAnswer_keeps _ (setHalted_keeps _ _ h)) hn
  · exact ite_keeps (debugAnswer_keeps _ (setHalted_keeps _ _ h)) hn
  · exact hn

theorem execDebugRequest_goesOn : GoesOn s (execDebugRequest s) := by
  have ha (v : Option Word) : GoesOn s (outside (debugAnswer s v)) := outside_goesOn fun h => debugAnswer_keeps v h
  unfold execDebugRequest
  refine ite_goesOn idle_goesOn (ite_goesOn (ha _) ?_)
  split
  · exact ha _
  · exact ha _
  · exact ha _
  · exact ha _
  · exact outside_goesOn fun h => ite_keeps (debugHalted_keeps _ h) (debugAnswer_keeps _ h)

theorem debugMode_keeps {s : State} (mode : Nat) (l : Loc) (h : MemoryInv s) : MemoryInv (debugMode s mode l) := h.of_mem (by simp)

theorem execDebugObserve_goesOn : GoesOn s (execDebugObserve s) := by
  unfold execDebugObserve
  split
  · exact outside_goesOn fun h => debugMode_keeps _ _ h
  · exact idle_goesOn

theorem execDebugOff_goesOn : GoesOn s (execDebugOff s) := by
  unfold execDebugOff
  split
  · exact outside_goesOn fun h => debugMode_keeps _ _ h
  · exact idle_goesOn

theorem execDebugHalt_goesOn : GoesOn s (execDebugHalt s) := by
  unfold execDebugHalt
  split
  · exact ite_goesOn (outside_goesOn fun h => foldl_keeps (fun r h => killOnce_keeps r h) _ h) (ite_goesOn idle_goesOn
      (outside_goesOn fun h => debugMode_keeps _ _ (foldl_keeps (fun n h => clearKey_keeps n h) _ h)))
  · exact idle_goesOn

end
end Sys2Proof.Machine
end

section
/-!
SUPPORT. Every row of the opcode table goes on, and where.
-/

namespace Sys2Proof.Machine

/-! ### Every instruction goes on -/

/-- Behind a prefix every instruction goes on: the members that a prefix changes, and the words that it does not. -/
theorem runPair_goesOn {s : State} (px : Px) (i : Instr) (ht : ∃ t, s.thread? s.cur = some t) : GoesOn s (runPair px i s) := by
  unfold runPair
  split
  · exact vop_goesOn ht
  · exact vop_goesOn ht
  · exact vop_goesOn ht
  · exact vop_goesOn ht
  · exact vop_goesOn ht
  · exact vop_goesOn ht
  · exact vop_goesOn ht
  · exact vop_goesOn ht
  · exact vop_goesOn ht
  · exact vop_goesOn ht
  · exact vop_goesOn ht
  · exact vop_goesOn ht
  · exact vop_goesOn ht
  · exact vop_goesOn ht
  · exact vop_goesOn ht
  · exact vop1_goesOn ht
  · exact vop1_goesOn ht
  · exact vop_goesOn ht
  · exact vop_goesOn ht
  · exact vops_goesOn ht
  · exact vops_goesOn ht
  · exact vops_goesOn ht
  · exact vops_goesOn ht
  · exact vops_goesOn ht
  · exact vops_goesOn ht
  · exact vops_goesOn ht
  · exact vops_goesOn ht
  · exact vops_goesOn ht
  · exact vops_goesOn ht
  · exact vops_goesOn ht
  · exact vops_goesOn ht
  · exact vops_goesOn ht
  · exact vops_goesOn ht
  · exact vops_goesOn ht
  · exact vops_goesOn ht
  · exact vops_goesOn ht
  · exact vcmp_goesOn ht
  · exact runVpermb_goesOn ht
  · exact runVshuf_goesOn ht
  · exact runVbcast_goesOn ht
  · exact runVslide_goesOn ht
  · exact runVextr_goesOn ht
  · exact runVins_goesOn ht
  · exact runVredsum_goesOn ht
  · exact runVredmax_goesOn ht
  · exact runVredmin_goesOn ht
  · exact runVredmaxi_goesOn ht
  · exact runVredmini_goesOn ht
  · exact vscan_goesOn ht
  · exact runVcvt_goesOn ht
  · exact runVpack_goesOn ht
  · exact runVunpk_goesOn ht
  · exact runVld_goesOn ht
  · exact runVlds_goesOn ht
  · exact runVst_goesOn ht
  · exact runVsts_goesOn ht
  · exact vectorLoad_goesOn ht
  · exact vectorStore_goesOn ht
  · exact sfuMember_goesOn ht
  · exact sfuMember_goesOn ht
  · exact sfuMember_goesOn ht
  · exact sfuMember_goesOn ht
  · exact sfuMember_goesOn ht
  · exact sfuMember_goesOn ht
  · exact sfuMember_goesOn ht
  · exact runVmov_goesOn ht
  · exact runVsel_goesOn ht
  · exact runViota_goesOn ht
  · exact runKand_goesOn ht
  · exact runKor_goesOn ht
  · exact runKnot_goesOn ht
  · exact runKpopc_goesOn ht
  · exact failWord_goesOn ht

theorem execVectorPrefix_goesOn {s : State} (ht : ∃ t, s.thread? s.cur = some t) : GoesOn s (execVectorPrefix s) :=
  ite_goesOn (failWord_goesOn ht) (ite_goesOn (failWord_goesOn ht) (runPair_goesOn _ _ ht))

/-- Where the instruction of a row of the opcode table goes on: one without a word outside the barrels, wherever it happens; one with
a word, and one that answers for a word, in a slot that holds a thread. -/
inductive Goes (i : Instr) : Prop
  | anywhere (h : ∀ s, GoesOn s (exec i s))
  | word (hw : encodeNat i ≠ 0) (h : ∀ s : State, (∃ t, s.thread? s.cur = some t) → GoesOn s (exec i s))
  | forWord (hi : i = .illegalInstruction ∨ i = .reservedEncoding ∨ i = .vectorPrefix)
      (h : ∀ s : State, (∃ t, s.thread? s.cur = some t) → GoesOn s (exec i s))

/-- A word whose fixed bits are not all 0 is not 0. -/
theorem sum_ne {a b : Nat} (h : a ≠ 0) : a + b ≠ 0 := fun e => h (Nat.eq_zero_of_add_eq_zero_right e)

/-- Every row of the opcode table goes on. -/
theorem exec_goes : ∀ i : Instr, Goes i
  | .add d a w b x => .word (sum_ne (sum_ne (sum_ne (sum_ne (sum_ne (by decide)))))) fun s ht =>
    show GoesOn s (execAdd d a w b x s) from binary_goesOn ht
  | .sub d a w b x => .word (sum_ne (sum_ne (sum_ne (sum_ne (sum_ne (by decide)))))) fun s ht =>
    show GoesOn s (execSub d a w b x s) from binary_goesOn ht
  | .and d a w b x => .word (sum_ne (sum_ne (sum_ne (sum_ne (sum_ne (by decide)))))) fun s ht =>
    show GoesOn s (execAnd d a w b x s) from binary_goesOn ht
  | .or d a w b x => .word (sum_ne (sum_ne (sum_ne (sum_ne (sum_ne (by decide)))))) fun s ht =>
    show GoesOn s (execOr d a w b x s) from binary_goesOn ht
  | .xor d a w b x => .word (sum_ne (sum_ne (sum_ne (sum_ne (sum_ne (by decide)))))) fun s ht =>
    show GoesOn s (execXor d a w b x s) from binary_goesOn ht
  | .andn d a w b x => .word (sum_ne (sum_ne (sum_ne (sum_ne (sum_ne (by decide)))))) fun s ht =>
    show GoesOn s (execAndn d a w b x s) from binary_goesOn ht
  | .shl d a w b x => .word (sum_ne (sum_ne (sum_ne (sum_ne (sum_ne (by decide)))))) fun s ht =>
    show GoesOn s (execShl d a w b x s) from binary_goesOn ht
  | .shr d a w b x => .word (sum_ne (sum_ne (sum_ne (sum_ne (sum_ne (by decide)))))) fun s ht =>
    show GoesOn s (execShr d a w b x s) from binary_goesOn ht
  | .sra d a w b x => .word (sum_ne (sum_ne (sum_ne (sum_ne (sum_ne (by decide)))))) fun s ht =>
    show GoesOn s (execSra d a w b x s) from binary_goesOn ht
  | .mul d a w b x => .word (sum_ne (sum_ne (sum_ne (sum_ne (sum_ne (by decide)))))) fun s ht =>
    show GoesOn s (execMul d a w b x s) from timed_goesOn ht
  | .mulh d a w b x => .word (sum_ne (sum_ne (sum_ne (sum_ne (sum_ne (by decide)))))) fun s ht =>
    show GoesOn s (execMulh d a w b x s) from timed_goesOn ht
  | .mulhu d a w b x => .word (sum_ne (sum_ne (sum_ne (sum_ne (sum_ne (by decide)))))) fun s ht =>
    show GoesOn s (execMulhu d a w b x s) from timed_goesOn ht
  | .div d a w b x => .word (sum_ne (sum_ne (sum_ne (sum_ne (sum_ne (by decide)))))) fun s ht =>
    show GoesOn s (execDiv d a w b x s) from timed_goesOn ht
  | .divu d a w b x => .word (sum_ne (sum_ne (sum_ne (sum_ne (sum_ne (by decide)))))) fun s ht =>
    show GoesOn s (execDivu d a w b x s) from timed_goesOn ht
  | .rem d a w b x => .word (sum_ne (sum_ne (sum_ne (sum_ne (sum_ne (by decide)))))) fun s ht =>
    show GoesOn s (execRem d a w b x s) from timed_goesOn ht
  | .remu d a w b x => .word (sum_ne (sum_ne (sum_ne (sum_ne (sum_ne (by decide)))))) fun s ht =>
    show GoesOn s (execRemu d a w b x s) from timed_goesOn ht
  | .min d a w b x => .word (sum_ne (sum_ne (sum_ne (sum_ne (sum_ne (by decide)))))) fun s ht =>
    show GoesOn s (execMin d a w b x s) from binary_goesOn ht
  | .max d a w b x => .word (sum_ne (sum_ne (sum_ne (sum_ne (sum_ne (by decide)))))) fun s ht =>
    show GoesOn s (execMax d a w b x s) from binary_goesOn ht
  | .minu d a w b x => .word (sum_ne (sum_ne (sum_ne (sum_ne (sum_ne (by decide)))))) fun s ht =>
    show GoesOn s (execMinu d a w b x s) from binary_goesOn ht
  | .maxu d a w b x => .word (sum_ne (sum_ne (sum_ne (sum_ne (sum_ne (by decide)))))) fun s ht =>
    show GoesOn s (execMaxu d a w b x s) from binary_goesOn ht
  | .clz d a w => .word (sum_ne (sum_ne (sum_ne (by decide)))) fun s ht => show GoesOn s (execClz d a w s) from unary_goesOn ht
  | .ctz d a w => .word (sum_ne (sum_ne (sum_ne (by decide)))) fun s ht => show GoesOn s (execCtz d a w s) from unary_goesOn ht
  | .popc d a w => .word (sum_ne (sum_ne (sum_ne (by decide)))) fun s ht => show GoesOn s (execPopc d a w s) from unary_goesOn ht
  | .sext d a w n => .word (sum_ne (sum_ne (sum_ne (sum_ne (by decide))))) fun s ht =>
    show GoesOn s (execSext d a w n s) from unary_goesOn ht
  | .selp _ _ _ _ _ _ => .word (sum_ne (sum_ne (sum_ne (sum_ne (sum_ne (sum_ne (by decide))))))) fun _ ht => execSelp_goesOn ht
  | .addi d a w imm => .word (sum_ne (sum_ne (sum_ne (sum_ne (by decide))))) fun s ht =>
    show GoesOn s (execAddi d a w imm s) from unary_goesOn ht
  | .andi d a w imm => .word (sum_ne (sum_ne (sum_ne (sum_ne (by decide))))) fun s ht =>
    show GoesOn s (execAndi d a w imm s) from unary_goesOn ht
  | .ori d a w imm => .word (sum_ne (sum_ne (sum_ne (sum_ne (by decide))))) fun s ht =>
    show GoesOn s (execOri d a w imm s) from unary_goesOn ht
  | .xori d a w imm => .word (sum_ne (sum_ne (sum_ne (sum_ne (by decide))))) fun s ht =>
    show GoesOn s (execXori d a w imm s) from unary_goesOn ht
  | .shli d a w n => .word (sum_ne (sum_ne (sum_ne (sum_ne (by decide))))) fun s ht =>
    show GoesOn s (execShli d a w n s) from unary_goesOn ht
  | .shri d a w n => .word (sum_ne (sum_ne (sum_ne (sum_ne (by decide))))) fun s ht =>
    show GoesOn s (execShri d a w n s) from unary_goesOn ht
  | .srai d a w n => .word (sum_ne (sum_ne (sum_ne (sum_ne (by decide))))) fun s ht =>
    show GoesOn s (execSrai d a w n s) from unary_goesOn ht
  | .pcmpi _ _ _ _ _ => .word (sum_ne (sum_ne (sum_ne (sum_ne (sum_ne (by decide)))))) fun _ ht => execPcmpi_goesOn ht
  | .li _ _ => .word (sum_ne (sum_ne (by decide))) fun _ ht => execLi_goesOn ht
  | .lih _ _ => .word (sum_ne (sum_ne (by decide))) fun _ ht => execLih_goesOn ht
  | .pcmp _ _ _ _ _ _ _ => .word (sum_ne (sum_ne (sum_ne (sum_ne (sum_ne (sum_ne (sum_ne (by decide)))))))) fun _ ht => execPcmp_goesOn ht
  | .pand _ _ _ => .word (sum_ne (sum_ne (sum_ne (by decide)))) fun _ ht => execPand_goesOn ht
  | .por _ _ _ => .word (sum_ne (sum_ne (sum_ne (by decide)))) fun _ ht => execPor_goesOn ht
  | .pxor _ _ _ => .word (sum_ne (sum_ne (sum_ne (by decide)))) fun _ ht => execPxor_goesOn ht
  | .pnot _ _ => .word (sum_ne (sum_ne (by decide))) fun _ ht => execPnot_goesOn ht
  | .pmovs _ => .word (sum_ne (by decide)) fun _ ht => execPmovs_goesOn ht
  | .smovp _ _ => .word (sum_ne (sum_ne (by decide))) fun _ ht => execSmovp_goesOn ht
  | .br _ _ _ => .word (sum_ne (sum_ne (sum_ne (by decide)))) fun _ ht => execBr_goesOn ht
  | .jmp _ => .word (sum_ne (by decide)) fun _ ht => execJmp_goesOn ht
  | .jal _ => .word (sum_ne (by decide)) fun _ ht => execJal_goesOn ht
  | .jalr _ _ _ _ => .word (sum_ne (sum_ne (sum_ne (sum_ne (by decide))))) fun _ ht => execJalr_goesOn ht
  | .ld d c a w z h o => .word (sum_ne (sum_ne (sum_ne (sum_ne (sum_ne (sum_ne (sum_ne (by decide)))))))) fun s ht =>
    show GoesOn s (execLd d c a w z h o s) from loadMember_goesOn ht
  | .ldu d c a w z h o => .word (sum_ne (sum_ne (sum_ne (sum_ne (sum_ne (sum_ne (sum_ne (by decide)))))))) fun s ht =>
    show GoesOn s (execLdu d c a w z h o s) from loadMember_goesOn ht
  | .st d c a w z o => .word (sum_ne (sum_ne (sum_ne (sum_ne (sum_ne (sum_ne (by decide))))))) fun s ht =>
    show GoesOn s (execSt d c a w z o s) from storeMember_goesOn ht
  | .ldacq d c a w z sel h o => .word (sum_ne (sum_ne (sum_ne (sum_ne (sum_ne (sum_ne (sum_ne (sum_ne (by decide))))))))) fun s ht =>
    show GoesOn s (execLdacq d c a w z sel h o s) from loadMember_goesOn ht
  | .strel d c a w z sel o => .word (sum_ne (sum_ne (sum_ne (sum_ne (sum_ne (sum_ne (sum_ne (by decide)))))))) fun s ht =>
    show GoesOn s (execStrel d c a w z sel o s) from storeMember_goesOn ht
  | .amoaddW d c a v sel o => .word (sum_ne (sum_ne (sum_ne (sum_ne (sum_ne (sum_ne (by decide))))))) fun s ht =>
    show GoesOn s (execAmoaddW d c a v sel o s) from amo_goesOn ht
  | .amoandW d c a v sel o => .word (sum_ne (sum_ne (sum_ne (sum_ne (sum_ne (sum_ne (by decide))))))) fun s ht =>
    show GoesOn s (execAmoandW d c a v sel o s) from amo_goesOn ht
  | .amoorW d c a v sel o => .word (sum_ne (sum_ne (sum_ne (sum_ne (sum_ne (sum_ne (by decide))))))) fun s ht =>
    show GoesOn s (execAmoorW d c a v sel o s) from amo_goesOn ht
  | .amoxorW d c a v sel o => .word (sum_ne (sum_ne (sum_ne (sum_ne (sum_ne (sum_ne (by decide))))))) fun s ht =>
    show GoesOn s (execAmoxorW d c a v sel o s) from amo_goesOn ht
  | .amominW d c a v sel o => .word (sum_ne (sum_ne (sum_ne (sum_ne (sum_ne (sum_ne (by decide))))))) fun s ht =>
    show GoesOn s (execAmominW d c a v sel o s) from amo_goesOn ht
  | .amomaxW d c a v sel o => .word (sum_ne (sum_ne (sum_ne (sum_ne (sum_ne (sum_ne (by decide))))))) fun s ht =>
    show GoesOn s (execAmomaxW d c a v sel o s) from amo_goesOn ht
  | .amominuW d c a v sel o => .word (sum_ne (sum_ne (sum_ne (sum_ne (sum_ne (sum_ne (by decide))))))) fun s ht =>
    show GoesOn s (execAmominuW d c a v sel o s) from amo_goesOn ht
  | .amomaxuW d c a v sel o => .word (sum_ne (sum_ne (sum_ne (sum_ne (sum_ne (sum_ne (by decide))))))) fun s ht =>
    show GoesOn s (execAmomaxuW d c a v sel o s) from amo_goesOn ht
  | .amoswapW d c a v sel o => .word (sum_ne (sum_ne (sum_ne (sum_ne (sum_ne (sum_ne (by decide))))))) fun s ht =>
    show GoesOn s (execAmoswapW d c a v sel o s) from amo_goesOn ht
  | .amofaddW d c a v sel o => .word (sum_ne (sum_ne (sum_ne (sum_ne (sum_ne (sum_ne (by decide))))))) fun s ht =>
    show GoesOn s (execAmofaddW d c a v sel o s) from amo_goesOn ht
  | .amoaddD d c a v sel o => .word (sum_ne (sum_ne (sum_ne (sum_ne (sum_ne (sum_ne (by decide))))))) fun s ht =>
    show GoesOn s (execAmoaddD d c a v sel o s) from amo_goesOn ht
  | .amoandD d c a v sel o => .word (sum_ne (sum_ne (sum_ne (sum_ne (sum_ne (sum_ne (by decide))))))) fun s ht =>
    show GoesOn s (execAmoandD d c a v sel o s) from amo_goesOn ht
  | .amoorD d c a v sel o => .word (sum_ne (sum_ne (sum_ne (sum_ne (sum_ne (sum_ne (by decide))))))) fun s ht =>
    show GoesOn s (execAmoorD d c a v sel o s) from amo_goesOn ht
  | .amoxorD d c a v sel o => .word (sum_ne (sum_ne (sum_ne (sum_ne (sum_ne (sum_ne (by decide))))))) fun s ht =>
    show GoesOn s (execAmoxorD d c a v sel o s) from amo_goesOn ht
  | .amominD d c a v sel o => .word (sum_ne (sum_ne (sum_ne (sum_ne (sum_ne (sum_ne (by decide))))))) fun s ht =>
    show GoesOn s (execAmominD d c a v sel o s) from amo_goesOn ht
  | .amomaxD d c a v sel o => .word (sum_ne (sum_ne (sum_ne (sum_ne (sum_ne (sum_ne (by decide))))))) fun s ht =>
    show GoesOn s (execAmomaxD d c a v sel o s) from amo_goesOn ht
  | .amominuD d c a v sel o => .word (sum_ne (sum_ne (sum_ne (sum_ne (sum_ne (sum_ne (by decide))))))) fun s ht =>
    show GoesOn s (execAmominuD d c a v sel o s) from amo_goesOn ht
  | .amomaxuD d c a v sel o => .word (sum_ne (sum_ne (sum_ne (sum_ne (sum_ne (sum_ne (by decide))))))) fun s ht =>
    show GoesOn s (execAmomaxuD d c a v sel o s) from amo_goesOn ht
  | .amoswapD d c a v sel o => .word (sum_ne (sum_ne (sum_ne (sum_ne (sum_ne (sum_ne (by decide))))))) fun s ht =>
    show GoesOn s (execAmoswapD d c a v sel o s) from amo_goesOn ht
  | .cas _ _ _ _ _ _ _ => .word (sum_ne (sum_ne (sum_ne (sum_ne (sum_ne (sum_ne (sum_ne (by decide)))))))) fun _ ht => execCas_goesOn ht
  | .fenceAcq sel => .word (sum_ne (by decide)) fun s ht => show GoesOn s (execFenceAcq sel s) from fence_goesOn ht
  | .fenceRel sel => .word (sum_ne (by decide)) fun s ht => show GoesOn s (execFenceRel sel s) from fence_goesOn ht
  | .fenceFull sel => .word (sum_ne (by decide)) fun s ht => show GoesOn s (execFenceFull sel s) from fence_goesOn ht
  | .cinv _ _ _ => .word (sum_ne (sum_ne (sum_ne (by decide)))) fun _ ht => execCinv_goesOn ht
  | .cflush _ _ _ => .word (sum_ne (sum_ne (sum_ne (by decide)))) fun _ ht => execCflush_goesOn ht
  | .cpref _ _ _ => .word (sum_ne (sum_ne (sum_ne (by decide)))) fun _ ht => execCpref_goesOn ht
  | .ddhint _ _ _ => .word (sum_ne (sum_ne (sum_ne (by decide)))) fun _ ht => execDdhint_goesOn ht
  | .ddstat _ _ _ => .word (sum_ne (sum_ne (sum_ne (by decide)))) fun _ ht => execDdstat_goesOn ht
  | .mcst d a b z c => .word (sum_ne (sum_ne (sum_ne (sum_ne (sum_ne (by decide)))))) fun s ht =>
    show GoesOn s (execMcst d a b z c s) from cast_goesOn ht
  | .redst _ _ _ _ _ => .word (sum_ne (sum_ne (sum_ne (sum_ne (sum_ne (by decide)))))) fun _ ht => execRedst_goesOn ht
  | .cbnd _ _ _ _ => .word (sum_ne (sum_ne (sum_ne (sum_ne (by decide))))) fun _ ht => execCbnd_goesOn ht
  | .crestr _ _ _ => .word (sum_ne (sum_ne (sum_ne (by decide)))) fun _ ht => execCrestr_goesOn ht
  | .cinc _ _ _ => .word (sum_ne (sum_ne (sum_ne (by decide)))) fun _ ht => execCinc_goesOn ht
  | .cgetb _ _ => .word (sum_ne (sum_ne (by decide))) fun _ ht => execCgetb_goesOn ht
  | .cgetl _ _ => .word (sum_ne (sum_ne (by decide))) fun _ ht => execCgetl_goesOn ht
  | .cgetp _ _ => .word (sum_ne (sum_ne (by decide))) fun _ ht => execCgetp_goesOn ht
  | .cmov _ _ => .word (sum_ne (sum_ne (by decide))) fun _ ht => execCmov_goesOn ht
  | .cclr _ => .word (sum_ne (by decide)) fun _ ht => execCclr_goesOn ht
  | .ctest _ _ _ => .word (sum_ne (sum_ne (sum_ne (by decide)))) fun _ ht => execCtest_goesOn ht
  | .cld _ _ _ _ => .word (sum_ne (sum_ne (sum_ne (sum_ne (by decide))))) fun _ ht => execCld_goesOn ht
  | .cst _ _ _ _ => .word (sum_ne (sum_ne (sum_ne (sum_ne (by decide))))) fun _ ht => execCst_goesOn ht
  | .csrr d r => .word (sum_ne (sum_ne (by decide))) fun s ht => show GoesOn s (execCsrr d r s) from csrMember_goesOn ht
  | .csrw d a r => .word (sum_ne (sum_ne (sum_ne (by decide)))) fun s ht => show GoesOn s (execCsrw d a r s) from csrMember_goesOn ht
  | .csrs d a r => .word (sum_ne (sum_ne (sum_ne (by decide)))) fun s ht => show GoesOn s (execCsrs d a r s) from csrMember_goesOn ht
  | .csrc d a r => .word (sum_ne (sum_ne (sum_ne (by decide)))) fun s ht => show GoesOn s (execCsrc d a r s) from csrMember_goesOn ht
  | .start _ _ _ => .word (sum_ne (sum_ne (sum_ne (by decide)))) fun _ ht => execStart_goesOn ht
  | .thid _ => .word (sum_ne (by decide)) fun _ ht => execThid_goesOn ht
  | .vgrow _ => .word (sum_ne (by decide)) fun _ ht => execVgrow_goesOn ht
  | .vshrink _ => .word (sum_ne (by decide)) fun _ ht => execVshrink_goesOn ht
  | .send _ _ _ => .word (sum_ne (sum_ne (sum_ne (by decide)))) fun _ ht => execSend_goesOn ht
  | .migrate _ _ => .word (sum_ne (sum_ne (by decide))) fun _ ht => execMigrate_goesOn ht
  | .reply _ _ _ => .word (sum_ne (sum_ne (sum_ne (by decide)))) fun _ ht => execReply_goesOn ht
  | .qcfg _ _ _ _ => .word (sum_ne (sum_ne (sum_ne (sum_ne (by decide))))) fun _ ht => execQcfg_goesOn ht
  | .qclaim _ _ _ => .word (sum_ne (sum_ne (sum_ne (by decide)))) fun _ ht => execQclaim_goesOn ht
  | .qpub _ _ => .word (sum_ne (sum_ne (by decide))) fun _ ht => execQpub_goesOn ht
  | .qwaitf _ _ _ => .word (sum_ne (sum_ne (sum_ne (by decide)))) fun _ ht => execQwaitf_goesOn ht
  | .qfree _ _ => .word (sum_ne (sum_ne (by decide))) fun _ ht => execQfree_goesOn ht
  | .qwaite _ _ _ => .word (sum_ne (sum_ne (sum_ne (by decide)))) fun _ ht => execQwaite_goesOn ht
  | .qerr _ _ _ => .word (sum_ne (sum_ne (sum_ne (by decide)))) fun _ ht => execQerr_goesOn ht
  | .qsetrd _ _ => .word (sum_ne (sum_ne (by decide))) fun _ ht => execQsetrd_goesOn ht
  | .barinit _ _ _ _ => .word (sum_ne (sum_ne (sum_ne (sum_ne (by decide))))) fun _ ht => execBarinit_goesOn ht
  | .bararr _ _ => .word (sum_ne (sum_ne (by decide))) fun _ ht => execBararr_goesOn ht
  | .barwait _ => .word (sum_ne (by decide)) fun _ ht => execBarwait_goesOn ht
  | .barsync _ _ => .word (sum_ne (sum_ne (by decide))) fun _ ht => execBarsync_goesOn ht
  | .vadd _ _ _ _ => .word (sum_ne (sum_ne (sum_ne (sum_ne (by decide))))) fun _ ht => vop_goesOn ht
  | .vsub _ _ _ _ => .word (sum_ne (sum_ne (sum_ne (sum_ne (by decide))))) fun _ ht => vop_goesOn ht
  | .vmul _ _ _ _ => .word (sum_ne (sum_ne (sum_ne (sum_ne (by decide))))) fun _ ht => vop_goesOn ht
  | .vmulh _ _ _ _ => .word (sum_ne (sum_ne (sum_ne (sum_ne (by decide))))) fun _ ht => vop_goesOn ht
  | .vmin _ _ _ _ => .word (sum_ne (sum_ne (sum_ne (sum_ne (by decide))))) fun _ ht => vop_goesOn ht
  | .vmax _ _ _ _ => .word (sum_ne (sum_ne (sum_ne (sum_ne (by decide))))) fun _ ht => vop_goesOn ht
  | .vminu _ _ _ _ => .word (sum_ne (sum_ne (sum_ne (sum_ne (by decide))))) fun _ ht => vop_goesOn ht
  | .vmaxu _ _ _ _ => .word (sum_ne (sum_ne (sum_ne (sum_ne (by decide))))) fun _ ht => vop_goesOn ht
  | .vand _ _ _ _ => .word (sum_ne (sum_ne (sum_ne (sum_ne (by decide))))) fun _ ht => vop_goesOn ht
  | .vor _ _ _ _ => .word (sum_ne (sum_ne (sum_ne (sum_ne (by decide))))) fun _ ht => vop_goesOn ht
  | .vxor _ _ _ _ => .word (sum_ne (sum_ne (sum_ne (sum_ne (by decide))))) fun _ ht => vop_goesOn ht
  | .vshl _ _ _ _ => .word (sum_ne (sum_ne (sum_ne (sum_ne (by decide))))) fun _ ht => vop_goesOn ht
  | .vshr _ _ _ _ => .word (sum_ne (sum_ne (sum_ne (sum_ne (by decide))))) fun _ ht => vop_goesOn ht
  | .vsra _ _ _ _ => .word (sum_ne (sum_ne (sum_ne (sum_ne (by decide))))) fun _ ht => vop_goesOn ht
  | .vfma _ _ _ _ => .word (sum_ne (sum_ne (sum_ne (sum_ne (by decide))))) fun _ ht => vop_goesOn ht
  | .vabs _ _ _ => .word (sum_ne (sum_ne (sum_ne (by decide)))) fun _ ht => vop1_goesOn ht
  | .vneg _ _ _ => .word (sum_ne (sum_ne (sum_ne (by decide)))) fun _ ht => vop1_goesOn ht
  | .vminn _ _ _ _ => .word (sum_ne (sum_ne (sum_ne (sum_ne (by decide))))) fun _ ht => vop_goesOn ht
  | .vmaxn _ _ _ _ => .word (sum_ne (sum_ne (sum_ne (sum_ne (by decide))))) fun _ ht => vop_goesOn ht
  | .vaddScalar _ _ _ _ => .word (sum_ne (sum_ne (sum_ne (sum_ne (by decide))))) fun _ ht => vops_goesOn ht
  | .vsubScalar _ _ _ _ => .word (sum_ne (sum_ne (sum_ne (sum_ne (by decide))))) fun _ ht => vops_goesOn ht
  | .vmulScalar _ _ _ _ => .word (sum_ne (sum_ne (sum_ne (sum_ne (by decide))))) fun _ ht => vops_goesOn ht
  | .vmulhScalar _ _ _ _ => .word (sum_ne (sum_ne (sum_ne (sum_ne (by decide))))) fun _ ht => vops_goesOn ht
  | .vminScalar _ _ _ _ => .word (sum_ne (sum_ne (sum_ne (sum_ne (by decide))))) fun _ ht => vops_goesOn ht
  | .vmaxScalar _ _ _ _ => .word (sum_ne (sum_ne (sum_ne (sum_ne (by decide))))) fun _ ht => vops_goesOn ht
  | .vminuScalar _ _ _ _ => .word (sum_ne (sum_ne (sum_ne (sum_ne (by decide))))) fun _ ht => vops_goesOn ht
  | .vmaxuScalar _ _ _ _ => .word (sum_ne (sum_ne (sum_ne (sum_ne (by decide))))) fun _ ht => vops_goesOn ht
  | .vandScalar _ _ _ _ => .word (sum_ne (sum_ne (sum_ne (sum_ne (by decide))))) fun _ ht => vops_goesOn ht
  | .vorScalar _ _ _ _ => .word (sum_ne (sum_ne (sum_ne (sum_ne (by decide))))) fun _ ht => vops_goesOn ht
  | .vxorScalar _ _ _ _ => .word (sum_ne (sum_ne (sum_ne (sum_ne (by decide))))) fun _ ht => vops_goesOn ht
  | .vshlScalar _ _ _ _ => .word (sum_ne (sum_ne (sum_ne (sum_ne (by decide))))) fun _ ht => vops_goesOn ht
  | .vshrScalar _ _ _ _ => .word (sum_ne (sum_ne (sum_ne (sum_ne (by decide))))) fun _ ht => vops_goesOn ht
  | .vsraScalar _ _ _ _ => .word (sum_ne (sum_ne (sum_ne (sum_ne (by decide))))) fun _ ht => vops_goesOn ht
  | .vfmaScalar _ _ _ _ => .word (sum_ne (sum_ne (sum_ne (sum_ne (by decide))))) fun _ ht => vops_goesOn ht
  | .vminnScalar _ _ _ _ => .word (sum_ne (sum_ne (sum_ne (sum_ne (by decide))))) fun _ ht => vops_goesOn ht
  | .vmaxnScalar _ _ _ _ => .word (sum_ne (sum_ne (sum_ne (sum_ne (by decide))))) fun _ ht => vops_goesOn ht
  | .vcmp _ _ _ _ _ _ => .word (sum_ne (sum_ne (sum_ne (sum_ne (sum_ne (sum_ne (by decide))))))) fun _ ht => vcmp_goesOn ht
  | .vpermb _ _ _ => .word (sum_ne (sum_ne (sum_ne (by decide)))) fun _ ht => runVpermb_goesOn ht
  | .vshuf _ _ _ _ => .word (sum_ne (sum_ne (sum_ne (sum_ne (by decide))))) fun _ ht => runVshuf_goesOn ht
  | .vbcast _ _ _ => .word (sum_ne (sum_ne (sum_ne (by decide)))) fun _ ht => runVbcast_goesOn ht
  | .vslide _ _ _ _ => .word (sum_ne (sum_ne (sum_ne (sum_ne (by decide))))) fun _ ht => runVslide_goesOn ht
  | .vextr _ _ _ _ => .word (sum_ne (sum_ne (sum_ne (sum_ne (by decide))))) fun _ ht => runVextr_goesOn ht
  | .vins _ _ _ _ => .word (sum_ne (sum_ne (sum_ne (sum_ne (by decide))))) fun _ ht => runVins_goesOn ht
  | .vredsum _ _ _ => .word (sum_ne (sum_ne (sum_ne (by decide)))) fun _ ht => runVredsum_goesOn ht
  | .vredmax _ _ _ => .word (sum_ne (sum_ne (sum_ne (by decide)))) fun _ ht => runVredmax_goesOn ht
  | .vredmin _ _ _ => .word (sum_ne (sum_ne (sum_ne (by decide)))) fun _ ht => runVredmin_goesOn ht
  | .vredmaxi _ _ _ _ => .word (sum_ne (sum_ne (sum_ne (sum_ne (by decide))))) fun _ ht => runVredmaxi_goesOn ht
  | .vredmini _ _ _ _ => .word (sum_ne (sum_ne (sum_ne (sum_ne (by decide))))) fun _ ht => runVredmini_goesOn ht
  | .vscan _ _ _ => .word (sum_ne (sum_ne (sum_ne (by decide)))) fun _ ht => vscan_goesOn ht
  | .vcvt _ _ _ _ => .word (sum_ne (sum_ne (sum_ne (sum_ne (by decide))))) fun _ ht => runVcvt_goesOn ht
  | .vpack _ _ _ _ _ => .word (sum_ne (sum_ne (sum_ne (sum_ne (sum_ne (by decide)))))) fun _ ht => runVpack_goesOn ht
  | .vunpk _ _ _ _ _ => .word (sum_ne (sum_ne (sum_ne (sum_ne (sum_ne (by decide)))))) fun _ ht => runVunpk_goesOn ht
  | .vld _ _ _ _ _ _ _ => .word (sum_ne (sum_ne (sum_ne (sum_ne (sum_ne (sum_ne (sum_ne (by decide)))))))) fun _ ht => runVld_goesOn ht
  | .vlds _ _ _ _ _ _ _ => .word (sum_ne (sum_ne (sum_ne (sum_ne (sum_ne (sum_ne (sum_ne (by decide)))))))) fun _ ht => runVlds_goesOn ht
  | .vst _ _ _ _ _ _ => .word (sum_ne (sum_ne (sum_ne (sum_ne (sum_ne (sum_ne (by decide))))))) fun _ ht => runVst_goesOn ht
  | .vsts _ _ _ _ _ _ => .word (sum_ne (sum_ne (sum_ne (sum_ne (sum_ne (sum_ne (by decide))))))) fun _ ht => runVsts_goesOn ht
  | .vgather _ _ _ _ => .word (sum_ne (sum_ne (sum_ne (sum_ne (by decide))))) fun _ ht => vectorLoad_goesOn ht
  | .vscatter _ _ _ _ => .word (sum_ne (sum_ne (sum_ne (sum_ne (by decide))))) fun _ ht => vectorStore_goesOn ht
  | .fexp2 _ _ _ => .word (sum_ne (sum_ne (sum_ne (by decide)))) fun _ ht => sfuMember_goesOn ht
  | .flog2 _ _ _ => .word (sum_ne (sum_ne (sum_ne (by decide)))) fun _ ht => sfuMember_goesOn ht
  | .frcp _ _ _ => .word (sum_ne (sum_ne (sum_ne (by decide)))) fun _ ht => sfuMember_goesOn ht
  | .frsq _ _ _ => .word (sum_ne (sum_ne (sum_ne (by decide)))) fun _ ht => sfuMember_goesOn ht
  | .ftanh _ _ _ => .word (sum_ne (sum_ne (sum_ne (by decide)))) fun _ ht => sfuMember_goesOn ht
  | .fsin _ _ _ => .word (sum_ne (sum_ne (sum_ne (by decide)))) fun _ ht => sfuMember_goesOn ht
  | .fcos _ _ _ => .word (sum_ne (sum_ne (sum_ne (by decide)))) fun _ ht => sfuMember_goesOn ht
  | .vmov _ _ _ => .word (sum_ne (sum_ne (sum_ne (by decide)))) fun _ ht => runVmov_goesOn ht
  | .vsel _ _ _ _ => .word (sum_ne (sum_ne (sum_ne (sum_ne (by decide))))) fun _ ht => runVsel_goesOn ht
  | .viota _ _ _ => .word (sum_ne (sum_ne (sum_ne (by decide)))) fun _ ht => runViota_goesOn ht
  | .kand _ _ _ => .word (sum_ne (sum_ne (sum_ne (by decide)))) fun _ ht => runKand_goesOn ht
  | .kor _ _ _ => .word (sum_ne (sum_ne (sum_ne (by decide)))) fun _ ht => runKor_goesOn ht
  | .knot _ _ => .word (sum_ne (sum_ne (by decide))) fun _ ht => runKnot_goesOn ht
  | .kpopc _ _ => .word (sum_ne (sum_ne (by decide))) fun _ ht => runKpopc_goesOn ht
  | .tld _ _ _ _ _ => .word (sum_ne (sum_ne (sum_ne (sum_ne (sum_ne (by decide)))))) fun _ ht => execTld_goesOn ht
  | .tst _ _ _ _ => .word (sum_ne (sum_ne (sum_ne (sum_ne (by decide))))) fun _ ht => execTst_goesOn ht
  | .tzero _ _ => .word (sum_ne (sum_ne (by decide))) fun _ ht => execTzero_goesOn ht
  | .ttrans _ _ => .word (sum_ne (sum_ne (by decide))) fun _ ht => execTtrans_goesOn ht
  | .trdv _ _ _ => .word (sum_ne (sum_ne (sum_ne (by decide)))) fun _ ht => execTrdv_goesOn ht
  | .twrv _ _ _ => .word (sum_ne (sum_ne (sum_ne (by decide)))) fun _ ht => execTwrv_goesOn ht
  | .mma n a b c => .word (sum_ne (sum_ne (sum_ne (sum_ne (by decide))))) fun s ht =>
    show GoesOn s (execMma n a b c s) from mmaMember_goesOn ht
  | .mmas n a b sel u c => .word (sum_ne (sum_ne (sum_ne (sum_ne (sum_ne (sum_ne (by decide))))))) fun s ht =>
    show GoesOn s (execMmas n a b sel u c s) from mmaMember_goesOn ht
  | .mmai n a b c => .word (sum_ne (sum_ne (sum_ne (sum_ne (by decide))))) fun s ht =>
    show GoesOn s (execMmai n a b c s) from mmaMember_goesOn ht
  | .aczero _ => .word (sum_ne (by decide)) fun _ ht => execAczero_goesOn ht
  | .acld _ _ _ => .word (sum_ne (sum_ne (sum_ne (by decide)))) fun _ ht => execAcld_goesOn ht
  | .acst _ _ _ => .word (sum_ne (sum_ne (sum_ne (by decide)))) fun _ ht => execAcst_goesOn ht
  | .accvt _ _ _ => .word (sum_ne (sum_ne (sum_ne (by decide)))) fun _ ht => execAccvt_goesOn ht
  | .acadd _ _ _ => .word (sum_ne (sum_ne (sum_ne (by decide)))) fun _ ht => execAcadd_goesOn ht
  | .sbind _ _ => .word (sum_ne (sum_ne (by decide))) fun _ ht => execSbind_goesOn ht
  | .sunbind _ => .word (sum_ne (by decide)) fun _ ht => execSunbind_goesOn ht
  | .scfg _ _ _ _ => .word (sum_ne (sum_ne (sum_ne (sum_ne (by decide))))) fun _ ht => execScfg_goesOn ht
  | .sgo _ => .word (sum_ne (by decide)) fun _ ht => execSgo_goesOn ht
  | .sstop _ => .word (sum_ne (by decide)) fun _ ht => execSstop_goesOn ht
  | .ssync _ => .word (sum_ne (by decide)) fun _ ht => execSsync_goesOn ht
  | .cpy d e f g h => .word (sum_ne (sum_ne (sum_ne (sum_ne (sum_ne (by decide)))))) fun s ht =>
    show GoesOn s (execCpy d e f g h s) from copyMember_goesOn ht
  | .cpycv d e f g h => .word (sum_ne (sum_ne (sum_ne (sum_ne (sum_ne (by decide)))))) fun s ht =>
    show GoesOn s (execCpycv d e f g h s) from copyMember_goesOn ht
  | .cpymc d e f g h => .word (sum_ne (sum_ne (sum_ne (sum_ne (sum_ne (by decide)))))) fun s ht =>
    show GoesOn s (execCpymc d e f g h s) from copyMember_goesOn ht
  | .cpyred d e f g h => .word (sum_ne (sum_ne (sum_ne (sum_ne (sum_ne (by decide)))))) fun s ht =>
    show GoesOn s (execCpyred d e f g h s) from copyMember_goesOn ht
  | .tkcommit _ _ _ _ => .word (sum_ne (sum_ne (sum_ne (sum_ne (by decide))))) fun _ ht => execTkcommit_goesOn ht
  | .tkforce _ _ => .word (sum_ne (sum_ne (by decide))) fun _ ht => execTkforce_goesOn ht
  | .tkmask _ _ _ => .word (sum_ne (sum_ne (sum_ne (by decide)))) fun _ ht => execTkmask_goesOn ht
  | .tkstat _ _ _ => .word (sum_ne (sum_ne (sum_ne (by decide)))) fun _ ht => execTkstat_goesOn ht
  | .tkfork _ _ _ => .word (sum_ne (sum_ne (sum_ne (by decide)))) fun _ ht => execTkfork_goesOn ht
  | .tktrunc _ _ _ => .word (sum_ne (sum_ne (sum_ne (by decide)))) fun _ ht => execTktrunc_goesOn ht
  | .tkckpt _ => .word (sum_ne (by decide)) fun _ ht => execTkckpt_goesOn ht
  | .tkdraw _ _ _ => .word (sum_ne (sum_ne (sum_ne (by decide)))) fun _ ht => execTkdraw_goesOn ht
  | .rndu _ _ _ => .word (sum_ne (sum_ne (sum_ne (by decide)))) fun _ ht => execRndu_goesOn ht
  | .rndv v a c => .word (sum_ne (sum_ne (sum_ne (by decide)))) fun s ht => show GoesOn s (execRndv v a c s) from rndVector_goesOn ht
  | .rndg v a c => .word (sum_ne (sum_ne (sum_ne (by decide)))) fun s ht => show GoesOn s (execRndg v a c s) from rndVector_goesOn ht
  | .nmaxi d a imm g => .word (sum_ne (sum_ne (sum_ne (sum_ne (by decide))))) fun s ht =>
    show GoesOn s (execNmaxi d a imm g s) from nredMember_goesOn ht
  | .nmini d a imm g => .word (sum_ne (sum_ne (sum_ne (sum_ne (by decide))))) fun s ht =>
    show GoesOn s (execNmini d a imm g s) from nredMember_goesOn ht
  | .nadd d a g => .word (sum_ne (sum_ne (sum_ne (by decide)))) fun s ht => show GoesOn s (execNadd d a g s) from nredMember_goesOn ht
  | .eqinit d f => .word (sum_ne (sum_ne (by decide))) fun s ht => show GoesOn s (execEqinit d f s) from lichenMember_goesOn ht
  | .equnite _ _ _ _ => .word (sum_ne (sum_ne (sum_ne (sum_ne (by decide))))) fun _ ht => execEqunite_goesOn ht
  | .eqfind _ _ _ => .word (sum_ne (sum_ne (sum_ne (by decide)))) fun _ ht => execEqfind_goesOn ht
  | .eqsize _ _ _ => .word (sum_ne (sum_ne (sum_ne (by decide)))) fun _ ht => execEqsize_goesOn ht
  | .eqreduce d a b f => .word (sum_ne (sum_ne (sum_ne (sum_ne (by decide))))) fun s ht =>
    show GoesOn s (execEqreduce d a b f s) from lichenMember_goesOn ht
  | .eqsnap _ _ _ => .word (sum_ne (sum_ne (sum_ne (by decide)))) fun _ ht => execEqsnap_goesOn ht
  | .equndo _ _ _ => .word (sum_ne (sum_ne (sum_ne (by decide)))) fun _ ht => execEqundo_goesOn ht
  | .eqstat _ _ _ => .word (sum_ne (sum_ne (sum_ne (by decide)))) fun _ ht => execEqstat_goesOn ht
  | .tkenc _ _ _ _ => .word (sum_ne (sum_ne (sum_ne (sum_ne (by decide))))) fun _ ht => execTkenc_goesOn ht
  | .tkdec _ _ _ _ _ => .word (sum_ne (sum_ne (sum_ne (sum_ne (sum_ne (by decide)))))) fun _ ht => execTkdec_goesOn ht
  | .syscall _ _ _ _ => .word (sum_ne (sum_ne (sum_ne (sum_ne (by decide))))) fun _ ht => execSyscall_goesOn ht
  | .halt _ _ _ => .word (sum_ne (sum_ne (sum_ne (by decide)))) fun _ ht => execHalt_goesOn ht
  | .wake a => .word (sum_ne (by decide)) fun s ht => show GoesOn s (execWake a s) from wakeMember_goesOn ht
  | .wakePg a => .word (sum_ne (by decide)) fun s ht => show GoesOn s (execWakePg a s) from wakeMember_goesOn ht
  | .harvest _ _ _ => .word (sum_ne (sum_ne (sum_ne (by decide)))) fun _ ht => execHarvest_goesOn ht
  | .xinv _ _ _ _ => .word (sum_ne (sum_ne (sum_ne (sum_ne (by decide))))) fun _ ht => execXinv_goesOn ht
  | .keyset _ _ _ => .word (sum_ne (sum_ne (sum_ne (by decide)))) fun _ ht => execKeyset_goesOn ht
  | .keyclr _ _ => .word (sum_ne (sum_ne (by decide))) fun _ ht => execKeyclr_goesOn ht
  | .spillrpl _ _ _ => .word (sum_ne (sum_ne (sum_ne (by decide)))) fun _ ht => execSpillrpl_goesOn ht
  | .retire => .word (by decide) fun _ ht => execRetire_goesOn ht
  | .yield => .word (by decide) fun _ ht => execYield_goesOn ht
  | .park => .word (by decide) fun s ht => show GoesOn s (execPark s) from sleep_goesOn ht
  | .eret => .word (by decide) fun _ ht => execEret_goesOn ht
  | .wfi => .word (by decide) fun s ht => show GoesOn s (execWfi s) from sleep_goesOn ht
  | .illegalInstruction => .forWord (.inl rfl) fun _ ht => failWord_goesOn ht
  | .modeSwitch => .anywhere fun _ => execModeSwitch_goesOn
  | .headerPublish => .anywhere fun s => show GoesOn s (execHeaderPublish s) from storeEvent_goesOn
  | .barrierPacket => .anywhere fun s => show GoesOn s (execBarrierPacket s) from netEvent_goesOn
  | .sfuReturn => .anywhere fun _ => execSfuReturn_goesOn
  | .matrixCompletion => .anywhere fun _ => execMatrixCompletion_goesOn
  | .streamRunaheadFetch => .anywhere fun _ => execStreamRunaheadFetch_goesOn
  | .copyCompletion => .anywhere fun _ => execCopyCompletion_goesOn
  | .kick => .anywhere fun s => show GoesOn s (execKick s) from storeEvent_goesOn
  | .nredPacket => .anywhere fun s => show GoesOn s (execNredPacket s) from netEvent_goesOn
  | .eqinitCompletion => .anywhere fun _ => execEqinitCompletion_goesOn
  | .eqreduceCompletion => .anywhere fun _ => execEqreduceCompletion_goesOn
  | .haltCompletion => .anywhere fun _ => execHaltCompletion_goesOn
  | .harvestCompletion => .anywhere fun _ => execHarvestCompletion_goesOn
  | .xinvCompletion => .anywhere fun _ => execXinvCompletion_goesOn
  | .keyclrCompletion => .anywhere fun _ => execKeyclrCompletion_goesOn
  | .spillrplCompletion => .anywhere fun _ => execSpillrplCompletion_goesOn
  | .scalarResultWrite => .anywhere fun _ => execScalarResultWrite_goesOn
  | .loadDataReturn => .anywhere fun _ => execLoadDataReturn_goesOn
  | .multicastCompletion => .anywhere fun _ => execMulticastCompletion_goesOn
  | .messageArrival => .anywhere fun s => show GoesOn s (execMessageArrival s) from netEvent_goesOn
  | .migratedThreadArrival => .anywhere fun s => show GoesOn s (execMigratedThreadArrival s) from netEvent_goesOn
  | .heldArrivalPlaced => .anywhere fun _ => execHeldArrivalPlaced_goesOn
  | .helperPlaced => .anywhere fun _ => execHelperPlaced_goesOn
  | .vgrowSatisfied => .anywhere fun _ => execVgrowSatisfied_goesOn
  | .helperTokenDelivery => .anywhere fun s => show GoesOn s (execHelperTokenDelivery s) from netEvent_goesOn
  | .replyDelivery => .anywhere fun s => show GoesOn s (execReplyDelivery s) from netEvent_goesOn
  | .wakeDelivery => .anywhere fun s => show GoesOn s (execWakeDelivery s) from netEvent_goesOn
  | .watchdogExpiry => .anywhere fun _ => execWatchdogExpiry_goesOn
  | .syscallEvent => .anywhere fun s => show GoesOn s (execSyscallEvent s) from netEvent_goesOn
  | .pageEvent => .anywhere fun s => show GoesOn s (execPageEvent s) from netEvent_goesOn
  | .faultEvent => .anywhere fun s => show GoesOn s (execFaultEvent s) from netEvent_goesOn
  | .preemptRequest => .anywhere fun _ => execPreemptRequest_goesOn
  | .killRequest => .anywhere fun _ => execKillRequest_goesOn
  | .resumeRequest => .anywhere fun _ => execResumeRequest_goesOn
  | .coreSave => .anywhere fun _ => execCoreSave_goesOn
  | .crewResumption => .anywhere fun _ => execCrewResumption_goesOn
  | .queueRecordTaken => .anywhere fun _ => execQueueRecordTaken_goesOn
  | .launchCandidate => .anywhere fun _ => execLaunchCandidate_goesOn
  | .placementDecision => .anywhere fun _ => execPlacementDecision_goesOn
  | .slotBoundary => .anywhere fun _ => execSlotBoundary_goesOn
  | .deferredFiring => .anywhere fun _ => execDeferredFiring_goesOn
  | .windowOverrun => .anywhere fun _ => execWindowOverrun_goesOn
  | .heartbeatTick => .anywhere fun _ => execHeartbeatTick_goesOn
  | .takeover => .anywhere fun _ => execTakeover_goesOn
  | .powerOn => .anywhere fun _ => execPowerOn_goesOn
  | .bundleUpload => .anywhere fun _ => execBundleUpload_goesOn
  | .bundleInstall => .anywhere fun _ => execBundleInstall_goesOn
  | .verifierAcknowledgement => .anywhere fun _ => execVerifierAcknowledgement_goesOn
  | .trialWatchdogExpiry => .anywhere fun _ => execTrialWatchdogExpiry_goesOn
  | .quoteRequest => .anywhere fun _ => execQuoteRequest_goesOn
  | .debugRequest => .anywhere fun _ => execDebugRequest_goesOn
  | .debugHalt => .anywhere fun _ => execDebugHalt_goesOn
  | .debugObserve => .anywhere fun _ => execDebugObserve_goesOn
  | .debugOff => .anywhere fun _ => execDebugOff_goesOn
  | .clusterGate => .anywhere fun _ => execClusterGate_goesOn
  | .dieSleep => .anywhere fun _ => execDieSleep_goesOn
  | .dieWake => .anywhere fun _ => execDieWake_goesOn
  | .moduleOff => .anywhere fun _ => execModuleOff_goesOn
  | .fabricPacket => .anywhere fun _ => execFabricPacket_goesOn
  | .portOutOfService => .anywhere fun _ => execPortOutOfService_goesOn
  | .linkLoss => .anywhere fun _ => execLinkLoss_goesOn
  | .keyRenewal => .anywhere fun _ => execKeyRenewal_goesOn
  | .noRouteTimeout => .anywhere fun _ => execNoRouteTimeout_goesOn
  | .systemWindowRequest => .anywhere fun _ => execSystemWindowRequest_goesOn
  | .hostCxlAccess => .anywhere fun _ => execHostCxlAccess_goesOn
  | .lineRead => .anywhere fun _ => execLineRead_goesOn
  | .ownershipRequest => .anywhere fun _ => execOwnershipRequest_goesOn
  | .upgradeNotice => .anywhere fun _ => execUpgradeNotice_goesOn
  | .registerWrite => .anywhere fun s => show GoesOn s (execRegisterWrite s) from storeEvent_goesOn
  | .vectorPrefix => .forWord (.inr (.inr rfl)) fun _ ht => execVectorPrefix_goesOn ht
  | .reservedEncoding => .forWord (.inr (.inl rfl)) fun _ ht => failWord_goesOn ht
  | .storePerformed => .anywhere fun s => show GoesOn s (execStorePerformed s) from storeEvent_goesOn
  | .routeReturns => .anywhere fun _ => execRouteReturns_goesOn
  | .orderingAgentFailure => .anywhere fun _ => execOrderingAgentFailure_goesOn
  | .hartRestart => .anywhere fun _ => execHartRestart_goesOn
  | .ptpDiscipline => .anywhere fun _ => execPtpDiscipline_goesOn
  | .spdmMessage => .anywhere fun _ => execSpdmMessage_goesOn

end Sys2Proof.Machine
end

section
/-!
PROOF. Every step goes on, and keeps memory in its canonical form (logs 1 and 3).
-/

namespace Sys2Proof.Machine

/-! ### Every turn goes on -/

/-- An instruction goes on in a slot that holds a thread. -/
theorem exec_goesOn {s : State} (i : Instr) (ht : ∃ t, s.thread? s.cur = some t) : GoesOn s (exec i s) := by
  cases exec_goes i with
  | anywhere h => exact h s
  | word _ h => exact h s ht
  | forWord _ h => exact h s ht

/-- A row without a word goes on outside the barrels. -/
theorem exec_goesOn_outside {s : State} {i : Instr} (hw : hasWord i = false)
    (hi : ¬(i = .illegalInstruction ∨ i = .reservedEncoding ∨ i = .vectorPrefix)) : GoesOn s (exec i s) := by
  cases exec_goes i with
  | anywhere h => exact h s
  | word hn _ => exact absurd (by simpa [hasWord] using hw) hn
  | forWord h _ => exact absurd h hi

/-- What goes on from a state with the same memory goes on. -/
theorem GoesOn.of_keeps {s u : State} {o : Host.Outcome State Fault Refusal} (h : GoesOn u o) (hu : MemoryInv s → MemoryInv u) :
    GoesOn s o := by
  obtain ⟨v, hv, hk⟩ := h
  exact ⟨v, hv, fun hs => hk (hu hs)⟩

theorem next_goesOn {s u : State} (h : MemoryInv s → MemoryInv u) : GoesOn s (.next u.bump) := outside_goesOn h

theorem word_keeps {s : State} (w n : BitVec 32) (h : MemoryInv s) : MemoryInv { s with word := w, next := n } := h.of_mem (by simp)

theorem slotBegun_keeps {s : State} (l : Loc) (b : Bool) (h : MemoryInv s) : MemoryInv { s with cur := l, stalled := b } :=
  h.of_mem (by simp)

theorem fetched_keeps {s : State} (t : Thread) (h : MemoryInv s) : MemoryInv (fetched s t) := h.of_mem (by simp)

/-- The access to the line of a fetched word leaves every slot as it was, and the slot that issues. -/
theorem fetched_thread? (s : State) (t : Thread) : (fetched s t).thread? (fetched s t).cur = s.thread? s.cur := by
  unfold fetched reachTarget
  dsimp only
  repeat' split
  all_goals rfl

/-- A slot that holds a thread goes on. -/
theorem runSlot_goesOn {s : State} {l : Loc} (ht : ∃ t, s.thread? l = some t) : GoesOn s (runSlot s l) := by
  obtain ⟨t, ht⟩ := ht
  have ht' : State.thread? { s with cur := l, stalled := false } l = some t := ht
  have h0 : MemoryInv s → MemoryInv { s with cur := l, stalled := false } := slotBegun_keeps l false
  unfold runSlot
  simp only [ht']
  split
  · exact next_goesOn fun h => fail_keeps _ (h0 h)
  · refine ite_goesOn (next_goesOn fun h => fail_keeps _ (fetched_keeps _ (h0 h))) (ite_goesOn ?_ ?_)
    · split
      · exact next_goesOn fun h => fail_keeps _ (fetched_keeps _ (h0 h))
      · refine GoesOn.of_keeps (exec_goesOn _ ⟨t, ?_⟩) fun h => word_keeps _ _ (reach_keeps _ _ (fetched_keeps _ (h0 h)))
        exact (fetched_thread? _ t).trans ht'
    · refine GoesOn.of_keeps (exec_goesOn _ ⟨t, ?_⟩) fun h => word_keeps _ _ (fetched_keeps _ (h0 h))
      exact (fetched_thread? _ t).trans ht'

/-- The barrel's choice is one of the ready slots. -/
theorem pickSlot_mem_ready {s : State} {id n : Nat} {ready : List Nat} (h : pickSlot s id ready = some n) : n ∈ ready := by
  rw [pickSlot_eq] at h
  have hb : ∀ m, ready.foldl (betterSlot s id) none = some m → m ∈ ready := by
    refine List.foldlRecOn (motive := fun best : Option Nat => ∀ m, best = some m → m ∈ ready) _ _ (fun _ e => by cases e) ?_
    intro best hbest k hk m e
    unfold betterSlot at e
    split at e
    · exact hbest m e
    · split at e
      · cases e
        exact hk
      · split at e
        · cases e
          exact hk
        · exact hbest m e
  exact hb n h

/-- A ready slot holds a thread. -/
theorem slotReady_thread? {s : State} {l : Loc} (h : slotReady s l = true) : ∃ t, s.thread? l = some t := by
  unfold slotReady at h
  split at h
  · cases h
  · exact ⟨_, ‹_›⟩

/-- Noting the waits in readiness leaves a thread in each slot that held one. -/
theorem markReady_thread? {s : State} {id n : Nat} {ready : List Nat} (h : ∃ t, s.thread? { core := id, slot := n } = some t) :
    ∃ t, (markReady s id ready).thread? { core := id, slot := n } = some t := by
  unfold markReady
  refine List.foldlRecOn (motive := fun u : State => ∃ t, u.thread? { core := id, slot := n } = some t) _ _ h ?_
  intro u hu k _
  obtain ⟨t, ht⟩ := hu
  rw [State.thread?_onThread, ht]
  split
  · exact ⟨_, rfl⟩
  · exact ⟨t, rfl⟩

/-- Which slot issues is no part of the slots. -/
theorem cur_thread? {s : State} {l k : Loc} (h : ∃ t, s.thread? k = some t) : ∃ t, State.thread? { s with cur := l } k = some t := h

theorem markReady_keeps {s : State} (id : Nat) (ready : List Nat) (h : MemoryInv s) : MemoryInv (markReady s id ready) :=
  foldl_keeps (fun _ h => onThread_keeps _ _ h) _ h

theorem landDue_keeps {s : State} (id : Nat) (h : MemoryInv s) : MemoryInv (landDue s id) :=
  foldl_keeps (fun _ h => onThread_keeps _ _ h) _ h

/-- A clock cycle of an agent goes on. -/
theorem coreTurn_goesOn {s : State} (id : Nat) : GoesOn s (coreTurn s id) := by
  unfold coreTurn
  refine ite_goesOn (next_goesOn fun h => h) ?_
  extract_lets c s1 ready s2
  have h1 (h : MemoryInv s) : MemoryInv s1 := landDue_keeps _ (setCore_keeps _ _ h)
  have h2 (h : MemoryInv s) : MemoryInv s2 := markReady_keeps _ _ (cur_keeps _ (h1 h))
  refine ite_goesOn (next_goesOn h1) ?_
  split
  · exact next_goesOn h2
  · next n hn =>
    have hr : slotReady s1 { core := id, slot := n } = true := (List.mem_filter.mp (pickSlot_mem_ready hn)).2
    exact GoesOn.of_keeps (runSlot_goesOn (markReady_thread? (cur_thread? (slotReady_thread? hr)))) h2

theorem cue_keeps {s : State} (cue : Cue) (h : MemoryInv s) : MemoryInv { s with cue } := h.of_mem (by simp)

/-- A step outside the barrels goes on. -/
theorem outsideTurn_goesOn {s : State} (i : Instr) (cue : Cue) : GoesOn s (outsideTurn s i cue) := by
  unfold outsideTurn
  split
  · exact next_goesOn fun h => h
  · next hi =>
    simp only [Bool.or_eq_true, beq_iff_eq, not_or, Bool.not_eq_true] at hi
    obtain ⟨⟨⟨hw, h1⟩, h2⟩, h3⟩ := hi
    refine GoesOn.of_keeps (exec_goesOn_outside hw ?_) (cue_keeps cue)
    rintro (h | h | h)
    · exact h1 h
    · exact h2 h
    · exact h3 h

/-- What goes on goes on when its turn ends. -/
theorem ended_goesOn {s : State} {o : Host.Outcome State Fault Refusal} (h : GoesOn s o) : GoesOn s (ended o) := by
  obtain ⟨u, rfl, hu⟩ := h
  exact ⟨endTurn u, rfl, fun hs => endTurn_wf (hu hs)⟩

theorem timeTurn_keeps {s : State} (ns : Nat) (h : MemoryInv s) : MemoryInv (timeTurn s ns) := h.of_mem rfl

/-- Every turn goes on. -/
theorem takeTurn_goesOn {s : State} (t : Turn) : GoesOn s (takeTurn s t) := by
  cases t with
  | core id => exact ended_goesOn (coreTurn_goesOn id)
  | event i cue => exact ended_goesOn (outsideTurn_goesOn i cue)
  | time ns => exact ⟨timeTurn s ns, rfl, timeTurn_keeps ns⟩

@[simp] theorem nextTurn_mem (s : State) : (nextTurn s).2.mem = s.mem := by
  unfold nextTurn
  split <;> rfl

/-- Every step goes on, and memory keeps its form. -/
theorem step_goesOn (s : State) : GoesOn s (step s) := (takeTurn_goesOn (nextTurn s).1).of_keeps fun h => h.of_mem (by simp)

/-- Settles O57: every step goes on. -/
theorem stepsGoOn : Obligations.StepsGoOn := by
  intro s
  obtain ⟨u, hu, -⟩ := step_goesOn s
  exact ⟨u, hu⟩

/-- Settles O55: the state that a step goes on to has its memory in the form that the step found. -/
theorem memoryKept : Obligations.MemoryKept := by
  intro s u hs e
  obtain ⟨v, hv, hk⟩ := step_goesOn s
  cases hv.symm.trans e
  exact hk hs

end Sys2Proof.Machine
end

section
/-!
PROOF. The privilege levels (chapter 20): SYSCALL and ERET.
-/

namespace Sys2Proof.Machine

/-! ### SYSCALL and ERET (R313, R319, R320) -/

/-- The entry into the monitor is a change of the issuing thread. -/
theorem monitorTrap_opened (s : State) (t : Thread) (i : Instr) (mepc mcause mval : Word) :
    monitorTrap (opened s t i) mepc mcause mval = s.setMe
      { consume t (usesOf i) with
        mepc, mcause, mval, ppriv := 1, inmon := true, priv := 2
        pc := BitVec.ofNat 64 (t.c 0).base + (s.core s.cur.core).mvec } := by
  simp only [monitorTrap, opened_me, consume_c, opened_cur]
  rw [core_opened, opened, State.setMe_setMe]

/-- SYSCALL of a kernel performs its stores and sends an event of its operands. -/
theorem exec_syscall_kernel {s : State} {t : Thread} {d a b : BitVec 5} {n : BitVec 6} (h : Issues s t (.syscall d a b n))
    (hp : isPair s.cur.core = false) (ho : outbound (opened s t (.syscall d a b n)) s.cur.core < 8) :
    let s2 := sendEvent (drain (opened s t (.syscall d a b n)) s.myPath) s.cur (dieOf s.cur.core) 0x00 (s.handleOf s.cur)
      (BitVec.ofNat 64 (n.toNat + d.toNat * 2 ^ 8)) (t.s a.toNat) (t.s b.toNat) t.launch t.rcb t.number
    exec (.syscall d a b n) s = .next (retired (s2.setMe (s2.me.empty d.toNat))) := by
  refine issue_retires h ?_
  dsimp only
  rw [opened_cur, if_neg (by simp [hp]), if_neg (Nat.not_le.mpr ho)]
  simp only [consume_s, consume_launch, consume_rcb, opened_myPath, handleOf_opened]
  rw [consume_eq]

/-- SYSCALL of the supervisor enters the monitor. -/
theorem exec_syscall_supervisor {s : State} {t : Thread} {a b : BitVec 5} {n : BitVec 6} (h : Issues s t (.syscall 0 a b n))
    (hp : isPair s.cur.core = true) (hl : t.priv ≠ 2) :
    exec (.syscall 0 a b n) s = .next (jumped
      (monitorTrap (opened s t (.syscall 0 a b n)) (t.pc + 4) (BitVec.ofNat 64 (n.toNat * 2 ^ 8)) 0)
      (BitVec.ofNat 64 (t.c 0).base + (s.core s.cur.core).mvec)) := by
  refine issue_ok (a := .jump _) h ?_
  dsimp only
  rw [opened_cur, if_pos hp, if_neg (by simpa using hl), if_neg (by simp), consume_pc]
  rw [monitorTrap_opened, State.me_setMe]

/-- What the entry into the monitor leaves in the thread. -/
theorem syscall_enters {s : State} {t : Thread} {a b : BitVec 5} {n : BitVec 6} (h : Issues s t (.syscall 0 a b n))
    (hp : isPair s.cur.core = true) (hl : t.priv ≠ 2) : ∃ u, exec (.syscall 0 a b n) s = .next u ∧
      u.me.pc = BitVec.ofNat 64 (t.c 0).base + (s.core s.cur.core).mvec ∧ u.me.mepc = t.pc + 4 ∧
      u.me.mcause.toNat = n.toNat * 256 ∧ u.me.mval = 0 ∧ u.me.ppriv = 1 ∧ u.me.priv = 2 ∧ u.me.inmon = true ∧
      ∀ asid va pa, u.byte asid va pa = s.byte asid va pa := by
  refine ⟨_, exec_syscall_supervisor h hp hl, ?_⟩
  rw [monitorTrap_opened, jumped_setMe, State.me_bump, State.me_setMe]
  refine ⟨BitVec.add_zero _, rfl, ?_, rfl, rfl, rfl, rfl, fun _ _ _ => rfl⟩
  have hn := n.isLt
  show (BitVec.ofNat 64 (n.toNat * 2 ^ 8)).toNat = _
  rw [BitVec.toNat_ofNat, Nat.mod_eq_of_lt (by omega)]
  rfl

/-- ERET's target. -/
theorem trapReturn_target (t : Thread) : (trapReturn t).1 = if t.priv = 2 then t.mepc else t.sepc := by
  unfold trapReturn
  split <;> rfl

/-- ERET has no sync sources. -/
theorem consume_eret (t : Thread) : consume t (usesOf .eret) = t := consume_none rfl

/-- ERET to a target that passes its checks returns there. -/
theorem exec_eret_returns {s : State} {t : Thread} (h : Issues s t .eret)
    (hc : transferCheck (opened s t .eret) t (if t.priv = 2 then t.mepc else t.sepc) = none) :
    exec .eret s = .next (jumped ((startTrial (reachTarget (opened s t .eret) t (trapReturn t).1) t).setMe (trapReturn t).2)
      (trapReturn t).1) := by
  rw [← trapReturn_target] at hc
  refine issue_ok (a := .jump _) h ?_
  simp only [consume_eret, hc]

/-- The start of a trial's watchdog changes no byte. -/
theorem startTrial_byte (s : State) (t : Thread) (asid va pa : Nat) : (startTrial s t).byte asid va pa = s.byte asid va pa := by
  unfold startTrial
  split <;> rfl

/-- The checks of a transfer change no byte. -/
theorem reachTarget_byte (s : State) (t : Thread) (target : Word) (asid va pa : Nat) :
    (reachTarget s t target).byte asid va pa = s.byte asid va pa := by
  unfold reachTarget
  dsimp only
  split <;> rfl

/-- What ERET leaves in the thread. -/
theorem eret_returns {s : State} {t : Thread} (h : Issues s t .eret)
    (hc : transferCheck (opened s t .eret) t (if t.priv = 2 then t.mepc else t.sepc) = none) : ∃ u, exec .eret s = .next u ∧
      u.me.pc = (if t.priv = 2 then t.mepc else t.sepc) ∧ u.me.priv = (if t.priv = 2 then t.ppriv else t.priv) ∧
      u.me.intrap = (if t.priv = 2 then t.intrap else false) ∧ u.me.inmon = (if t.priv = 2 then false else t.inmon) ∧
      ∀ asid va pa, u.byte asid va pa = s.byte asid va pa := by
  refine ⟨_, exec_eret_returns h hc, ?_⟩
  rw [jumped_setMe, State.me_bump, State.me_setMe]
  refine ⟨(BitVec.add_zero _).trans (trapReturn_target t), ?_, ?_, ?_, fun asid va pa => ?_⟩
  · show (trapReturn t).2.priv = _
    unfold trapReturn
    split <;> rfl
  · show (trapReturn t).2.intrap = _
    unfold trapReturn
    split <;> rfl
  · show (trapReturn t).2.inmon = _
    unfold trapReturn
    split <;> rfl
  · exact (startTrial_byte _ _ _ _ _).trans (reachTarget_byte _ _ _ _ _ _)

/-- ERET to a misaligned target. -/
theorem exec_eret_misaligned {s : State} {t : Thread} (h : Issues s t .eret)
    (ha : (if t.priv = 2 then t.mepc else t.sepc).toNat % 4 ≠ 0) :
    exec .eret s = .next (faults s 0x07 (if t.priv = 2 then t.mepc else t.sepc)) := by
  rw [← trapReturn_target] at ha ⊢
  have hc : transferCheck (opened s t .eret) t (trapReturn t).1 = some (.cause 0x07 (trapReturn t).1) := if_pos (bne_iff_ne.mpr ha)
  refine issue_faults h ?_
  simp only [consume_eret, hc]

/-- ERET into a pair. -/
theorem exec_eret_inside {s : State} {t : Thread} (h : Issues s t .eret)
    (ha : (if t.priv = 2 then t.mepc else t.sepc).toNat % 4 = 0)
    (hi : insidePair (opened s t .eret) t (if t.priv = 2 then t.mepc else t.sepc) = true) :
    exec .eret s = .next (faults (s.reach t.asid ((if t.priv = 2 then t.mepc else t.sepc).toNat - 4)) 0x10
      (if t.priv = 2 then t.mepc else t.sepc)) := by
  rw [← trapReturn_target] at ha hi ⊢
  have hc : transferCheck (opened s t .eret) t (trapReturn t).1 = some (.inside t.asid (trapReturn t).1) :=
    (if_neg (by simp [ha])).trans (if_pos hi)
  refine issue_error (e := .inside t.asid (trapReturn t).1) h ?_
  simp only [consume_eret, hc]

/-- ERET of a kernel fails the check of its level. -/
theorem exec_eret_kernel {s : State} {t : Thread} (h : s.thread? s.cur = some t) (hl : t.priv = 0) :
    exec .eret s = .next (faults s 0x11 ((encodeWord .eret).setWidth 64)) := by
  have hc : decodeCheck s t .eret {} = some (0x11, 0) := (if_neg (by decide)).trans (if_pos (by rw [hl]; decide))
  show execEret s = _
  simp only [execEret, issue, issueP, h, issueOn, hc]
  rfl

/-- Settles O42: SYSCALL by the kind of its agent, ERET by the checks of its target and the level of its thread. -/
theorem levels : Obligations.Levels := by
  intro s t
  exact ⟨fun _ _ _ _ h hp ho => exec_syscall_kernel h hp ho, fun _ _ _ h hp hl => syscall_enters h hp hl, eret_returns,
    fun h => ⟨exec_eret_misaligned h, exec_eret_inside h⟩, exec_eret_kernel⟩

end Sys2Proof.Machine
end

section
/-!
PROOF. Forests (chapter 12): the synchronous members by what they leave and answer, the commands that join the Lichen unit.
-/

namespace Sys2Proof.Machine

/-! ### Synchronous members (R253–R256, R258, R259, R261–R263) -/

/-- The low bits of a register. -/
theorem bitsOf_low (w : Word) (n : Nat) : bitsOf w n 0 = w.toNat % 2 ^ (n + 1) := by
  simp [bitsOf]

/-- An element index in range passes. -/
theorem indexBad_none {f : Forest} {x : Nat} (h : ¬f.n ≤ x) : indexBad f x = none := if_neg h

/-- EQUNITE links the roots that it finds, unless they are one or the log is full. -/
theorem exec_of_equnite {t : Thread} {f : Forest} {d a b d' : BitVec 5} {fc fc' : BitVec 4} {log : Forest → Bool} {owns : Bool}
    {x u : State} {v : Word} (hs : forestSpec x t f (.equnite d a b fc) = some (d', fc', log, owns, u, v)) :
    ∃ body, (∀ s, exec (.equnite d a b fc) s = eqMember (.equnite d a b fc) d' fc' log owns s body) ∧
      body t x f = .ok (u, .ok v) := by
  unfold forestSpec at hs
  dsimp only at hs
  split at hs
  · cases hs
  · next hr =>
    obtain ⟨ha, hb⟩ := not_or.mp hr
    split at hs
    · cases hs
    · next hx =>
      split at hs
      · cases hs
      · next hy =>
        simp only [Option.some.injEq, Prod.mk.injEq] at hs
        obtain ⟨rfl, rfl, rfl, rfl, hu⟩ := hs
        refine ⟨_, fun s => show execEqunite d a b fc s = _ from rfl, ?_⟩
        simp only [indexBad_none ha, indexBad_none hb, hx, hy]
        split at hu
        · next he =>
          cases hu
          rw [if_pos he]
        · next he =>
          rw [if_neg he]
          split at hu
          · next hl =>
            cases hu
            rw [if_pos (by simpa using hl)]
          · next hl =>
            cases hu
            rw [if_neg (by simpa using hl)]

/-- EQUNDO is a synchronous member. -/
theorem exec_equndo (d a : BitVec 5) (fc : BitVec 4) (s : State) : exec (.equndo d a fc) s =
    eqMember (.equndo d a fc) d fc (fun _ => true) true s fun t s f =>
      let lo := eqIndex t a
      if !f.owned then .error (.cause 0x0E ((encodeWord (.equndo d a fc)).setWidth 64))
      else if f.loghead < lo then .error (.cause 0x05 (BitVec.ofNat 64 lo))
      else if f.loghead = lo then .ok (s, .ok 0)
      else match undoBad s t f lo f.loghead with
        | some v => .error (.cause 0x05 (BitVec.ofNat 64 v))
        | none => .ok (putDesc (putDesc (undoDown s t f lo f.loghead) t f 0x0C 4 lo) t f 0x10 4 (f.classes + (f.loghead - lo)),
            .ok (BitVec.ofNat 64 (f.loghead - lo))) := by
  show execEqundo d a fc s = _
  unfold execEqundo
  rfl

/-- EQUNDO of a mark at or below the head of the log of a forest with an owner, whose records are good. -/
theorem exec_of_equndo {t : Thread} {f : Forest} {d a d' : BitVec 5} {fc fc' : BitVec 4} {log : Forest → Bool} {owns : Bool}
    {x u : State} {v : Word} (hs : forestSpec x t f (.equndo d a fc) = some (d', fc', log, owns, u, v)) :
    ∃ body, (∀ s, exec (.equndo d a fc) s = eqMember (.equndo d a fc) d' fc' log owns s body) ∧ body t x f = .ok (u, .ok v) := by
  unfold forestSpec at hs
  dsimp only at hs
  split at hs
  · cases hs
  · next hr =>
    obtain ⟨ho, hr⟩ := not_or.mp hr
    obtain ⟨hh, hb⟩ := not_or.mp hr
    have hn : undoBad x t f (eqIndex t a) f.loghead = none := by simpa using hb
    split at hs
    · next he =>
      cases hs
      refine ⟨_, exec_equndo d a fc, ?_⟩
      dsimp only
      rw [if_neg (by simpa using ho), if_neg hh, if_pos he]
    · next he =>
      cases hs
      refine ⟨_, exec_equndo d a fc, ?_⟩
      dsimp only
      rw [if_neg (by simpa using ho), if_neg hh, if_neg he, hn]

/-- The members that find one root. -/
theorem exec_of_forestSpec {t : Thread} {f : Forest} {i : Instr} {d : BitVec 5} {fc : BitVec 4} {log : Forest → Bool} {owns : Bool}
    {x u : State} {v : Word} (hs : forestSpec x t f i = some (d, fc, log, owns, u, v)) :
    ∃ body, (∀ s, exec i s = eqMember i d fc log owns s body) ∧ body t x f = .ok (u, .ok v) := by
  cases i
  case equnite => exact exec_of_equnite hs
  case equndo => exact exec_of_equndo hs
  case eqfind d a fc =>
    unfold forestSpec at hs
    dsimp only at hs
    split at hs
    · cases hs
    · next hr =>
      split at hs
      · cases hs
      · next hx =>
        cases hs
        refine ⟨_, fun s => show execEqfind d a fc s = _ from rfl, ?_⟩
        simp only [indexBad_none hr, hx]
  case eqsize d a fc =>
    unfold forestSpec at hs
    dsimp only at hs
    split at hs
    · cases hs
    · next hr =>
      split at hs
      · cases hs
      · next hx =>
        cases hs
        refine ⟨_, fun s => show execEqsize d a fc s = _ from rfl, ?_⟩
        simp only [indexBad_none hr, hx]
  case eqsnap d a fc =>
    cases hs
    refine ⟨_, fun s => show execEqsnap d a fc s = _ from rfl, ?_⟩
    dsimp only
    split <;> rfl
  case eqstat d a fc =>
    cases hs
    refine ⟨_, fun s => show execEqstat d a fc s = _ from rfl, ?_⟩
    rw [bitsOf_low]
    rfl
  all_goals cases hs

/-! ### Commands of the Lichen unit (R257, R260, R267) -/

/-- Checks that pass strictly pass also where an absent page is passed over. -/
theorem firstFailing_late {l : List (Option Stop)} (h : firstFailing false l = none) : firstFailing true l = none := by
  induction l with
  | nil => rfl
  | cons e es ih =>
    cases e with
    | none => exact ih h
    | some x => exact absurd h (by simp [firstFailing])

/-- A forest that opens without its log has been read, and its arrays pass their checks. -/
theorem openForest_without_log {s : State} {t : Thread} {i : Instr} {fc : BitVec 4} {f : Forest}
    (h : openForest s t i fc (fun _ => false) = .ok f) :
    ∃ b, readForest s t i fc (fun _ => false) = .ok (f, b) ∧ arraysCheck s t f b = none := by
  unfold openForest at h
  split at h
  · cases h
  · next g b hr =>
    split at h
    · cases h
    · next ha =>
      cases h
      exact ⟨b, hr, ha⟩

/-- What is checked without the log is a part of what is checked with it. -/
theorem arraysCheck_without_log {s : State} {t : Thread} {f : Forest} {b : Bool} (h : arraysCheck s t f b = none) :
    arraysCheck s t f false true = none := by
  unfold arraysCheck firstFailing at h
  refine firstFailing_late ?_
  revert h
  simp only [Bool.false_eq_true, if_false, firstFailing]
  repeat' split
  all_goals simp_all

/-- The arrays of a reduction that pass their checks. -/
theorem reduceCheck_none {s : State} {t : Thread} {w : Word} {n : Nat} {input output : Cap}
    (hi : bitsOf w 1 0 ≠ 3 → arrayCheck s t input (reduceWidth w * n) (reduceWidth w) permR { r := true } = none)
    (ho : arrayCheck s t output (reduceWidth w * n) (reduceWidth w) permW { w := true } = none) :
    reduceCheck s t w n input output = none := by
  refine firstFailing_late ?_
  by_cases h3 : bitsOf w 1 0 = 3
  · simp [firstFailing, h3, ho]
  · simp [firstFailing, h3, ho, hi h3]

/-- A command whose forest, arrays and map pass their checks opens with everything that it reads. -/
theorem openCommand_ok {s : State} {t : Thread} {i : Instr} {fc : BitVec 4} {q : LichenCmd} {f : Forest} {map : Cap}
    (hf : openForest s t i fc (fun _ => false) = .ok f)
    (hm : (if q.reduce && bitOf q.command 4 then tableEntry s t (bitsOf q.command 15 8) else .ok {}) = .ok map)
    (hr : q.reduce = true → reduceCheck s t q.command f.n q.input q.output = none)
    (hc : q.reduce = true → bitOf q.command 4 = true → arrayCheck s t map (4 * f.n) 4 permW { w := true } = none) :
    openCommand s t i fc q =
      .ok (f, { q with forest := f.cap, parent := f.par, size := f.size, map, n := f.n, opened := true }) := by
  obtain ⟨b, hread, ha⟩ := openForest_without_log hf
  have hred : (if q.reduce then reduceCheck s t q.command f.n q.input q.output else none) = none := by
    split
    · next h => exact hr h
    · rfl
  unfold openCommand
  simp only [hread, arraysCheck_without_log ha, hred]
  split at hm
  · next h =>
    obtain ⟨hq, hw⟩ := Bool.and_eq_true_iff.mp h
    have hmap : mapCheck s t f.n map = none := by rw [mapCheck, hc hq hw]; rfl
    rw [if_pos h, hm]
    simp only [hmap]
  · next h =>
    cases hm
    rw [if_neg h]

/-- A command whose descriptor or table has an absent page does not open. -/
theorem openCommand_page {s : State} {t : Thread} {i : Instr} {fc : BitVec 4} {q : LichenCmd} {asid va : Nat}
    (h : readForest s t i fc (fun _ => false) = .error (.page asid va)) : openCommand s t i fc q = .error (.page asid va) := by
  unfold openCommand
  simp only [h]

/-- A command that does not open for an absent page joins its unit unopened. -/
theorem lichenMember_page {s : State} {t : Thread} {i : Instr} {d : BitVec 5} {fc : BitVec 4} {bad : Word → Bool}
    {q : Thread → LichenCmd} {asid va : Nat} (h : Issues s t i) (hb : bad (t.s d.toNat) = false)
    (ho : openCommand (settled s t i) (consume t (usesOf i)) i fc (q (consume t (usesOf i))) = .error (.page asid va)) :
    lichenMember i d fc bad s q = .next (retired (lichenIssue ((settled s t i).walked asid va) (consume t (usesOf i)) d
      { q (consume t (usesOf i)) with forest := t.c fc.toNat, opened := false })) := by
  refine issue_retires h ?_
  change openCommand (drain (opened s t i) (opened s t i).myPath) _ _ _ _ = _ at ho
  rw [if_neg (by simp [hb])]
  simp only [ho, consume_c]
  rfl

/-- The bits of a reduction's command that must be in range. -/
theorem reduceBad_eq_false {w : Word} (h : bitsOf w 3 2 ≠ 3 ∧ (bitsOf w 1 0 = 3 → bitsOf w 3 2 ≠ 0) ∧
    (bitOf w 4 = true → bitsOf w 15 8 ≠ 0xFF) ∧ bitsOf w 7 5 = 0 ∧ bitsOf w 63 16 = 0) : reduceBad w = false := by
  obtain ⟨htype, hop, hmap, hlow, hhigh⟩ := h
  simp only [reduceBad, noIndex, Bool.or_eq_false_iff, Bool.and_eq_false_imp, decide_eq_true_eq, decide_eq_false_iff_not, bne_eq_false_iff_eq]
  exact ⟨⟨⟨⟨htype, hop⟩, fun h => decide_eq_false (hmap h)⟩, hlow⟩, hhigh⟩

/-- EQINIT and EQREDUCE are commands of the unit, whose own conditions the command word in range meets. -/
theorem exec_of_commandSpec {t : Thread} {i : Instr} {d : BitVec 5} {fc : BitVec 4} {q : LichenCmd}
    (hs : commandSpec t i = some (d, fc, true, q)) :
    ∃ (bad : Word → Bool) (q' : Thread → LichenCmd), (∀ s, exec i s = lichenMember i d fc bad s q') ∧
      bad (t.s d.toNat) = false ∧ q' t = q := by
  cases i
  case eqinit d' fc' =>
    simp only [commandSpec, Option.some.injEq, Prod.mk.injEq, decide_eq_true_eq] at hs
    obtain ⟨rfl, rfl, hw, rfl⟩ := hs
    refine ⟨_, _, fun s => show execEqinit d' fc' s = _ from rfl, ?_, rfl⟩
    rw [bitsOf_high_ne_zero _ (by decide)]
    simpa using hw
  case eqreduce d' a b fc' =>
    simp only [commandSpec, Option.some.injEq, Prod.mk.injEq, decide_eq_true_eq] at hs
    obtain ⟨rfl, rfl, hw, rfl⟩ := hs
    exact ⟨_, _, fun s => show execEqreduce d' a b fc' s = _ from rfl, reduceBad_eq_false hw, rfl⟩
  all_goals cases hs

/-- A command in range whose checks pass joins its unit. -/
theorem exec_command_joins {s : State} {t : Thread} {i : Instr} {d : BitVec 5} {fc : BitVec 4} {q : LichenCmd} {f : Forest} {c : LichenCmd}
    (hs : commandSpec (consume t (usesOf i)) i = some (d, fc, true, q)) (h : Issues s t i)
    (ho : openCommand (settled s t i) (consume t (usesOf i)) i fc q = .ok (f, c)) :
    exec i s = .next (retired (joinsLichen (reachCommand (settled s t i) (consume t (usesOf i)) f c) (consume t (usesOf i)) d c)) := by
  obtain ⟨bad, q', he, hb, rfl⟩ := exec_of_commandSpec hs
  rw [consume_s] at hb
  exact (he s).trans (lichenMember_ok h hb ho)

/-- A command in range whose descriptor or table has an absent page joins its unit unopened. -/
theorem exec_command_unopened {s : State} {t : Thread} {i : Instr} {d : BitVec 5} {fc : BitVec 4} {q : LichenCmd} {asid va : Nat}
    (hs : commandSpec (consume t (usesOf i)) i = some (d, fc, true, q)) (h : Issues s t i)
    (hr : readForest (settled s t i) (consume t (usesOf i)) i fc (fun _ => false) = .error (.page asid va)) :
    exec i s = .next (retired (joinsLichen ((settled s t i).walked asid va) (consume t (usesOf i)) d
      { q with forest := t.c fc.toNat, opened := false })) := by
  obtain ⟨bad, q', he, hb, rfl⟩ := exec_of_commandSpec hs
  rw [consume_s] at hb
  exact (he s).trans (lichenMember_page h hb (openCommand_page hr))

/-- Settles O41: the synchronous members by their tables, the commands by what they have opened. -/
theorem forestMembers : Obligations.ForestMembers := by
  constructor
  · intro s t i f d fc log owns u v s1 t1 hs h hd ho hn
    obtain ⟨body, he, hb⟩ := exec_of_forestSpec hs
    exact (he s).trans (eqMember_ok h hd ho hn hb)
  · intro s t i d fc q s1 t1 hs h
    constructor
    · intro f map hf hm hc
      have hr (hq : q.reduce = true) : reduceCheck s1 t1 q.command f.n q.input q.output = none :=
        reduceCheck_none (hc hq).1 (hc hq).2.1
      exact exec_command_joins hs h (openCommand_ok hf hm hr fun hq => (hc hq).2.2)
    · intro asid va hr
      exact exec_command_unopened hs h hr

end Sys2Proof.Machine
end

section
/-!
PROOF. Regions and scheduling (chapters 21 and 23): requests of regions, the saving of a core, the resumption of a crew.
-/

namespace Sys2Proof.Machine

/-! ### Requests of regions (R331, R339, R342, R347) -/

/-- A request of a region of the tree is taken. -/
theorem takeRequest_takes {s : State} {n : Nat} {f : State → Nat → State} (hr : isRegion s s.cue.a = true)
    (hn : s.rcb s.cue.a 0x1F 1 = n) :
    takeRequest s n f = .next (f (reachRegion (s.rcbPut s.cue.a 0x1F 1 0) s.cue.a) s.cue.a).bump :=
  if_pos (by simp [hr, hn])

/-- A launch with saved crews is resumed as each of them finds a cluster. -/
theorem resumeLaunch_eq_ite {s : State} {i : Nat} {l : Launch} : resumeLaunch s i l =
    if l.savedOn ≠ [] then { s with launches := s.launches.set i { l with resuming := true } } else resumeLaunch s i l := by
  by_cases h : l.savedOn = []
  · exact (if_neg (not_not.mpr h)).symm
  · rw [if_pos h]
    exact if_pos (by simpa using h)

/-- A step about a request takes it and does what its table gives. -/
theorem exec_of_requestSpec {s : State} {i : Instr} {n : Nat} {f : State → State} (hs : requestSpec s.cue.a i = some (n, f))
    (hr : isRegion s s.cue.a = true) (hn : s.rcb s.cue.a 0x1F 1 = n) :
    exec i s = .next (f (reachRegion (s.rcbPut s.cue.a 0x1F 1 0) s.cue.a)).bump := by
  unfold requestSpec at hs
  split at hs
  · cases hs
    exact (show exec .preemptRequest s = execPreemptRequest s from rfl).trans (takeRequest_takes hr hn)
  · cases hs
    exact (show exec .killRequest s = execKillRequest s from rfl).trans (takeRequest_takes hr hn)
  · cases hs
    refine (show exec .resumeRequest s = execResumeRequest s from rfl).trans ((takeRequest_takes hr hn).trans ?_)
    refine congrArg (fun u => Host.Outcome.next (State.bump u)) ?_
    generalize reachRegion (s.rcbPut s.cue.a 0x1F 1 0) s.cue.a = u
    dsimp only
    cases u.launches.findIdx? fun l => l.rcb == s.cue.a && (l.state == .saved || !l.savedOn.isEmpty) with
    | none => rfl
    | some j =>
      dsimp only
      cases u.launches[j]? with
      | none => rfl
      | some l => exact resumeLaunch_eq_ite
  · cases hs

/-! ### The saving of a core (R342) -/

/-- A core of a crew that is being pre-empted, and that the crew has not saved yet. -/
def SavesCore (s : State) (c : Crew) : Prop :=
  isCompute s.cue.a = true ∧ (s.cluster (clusterOf s.cue.a)).crew = some c ∧ c.preempt = true ∧ c.killed = false ∧ c.requeue = false ∧
    c.saved.contains (sideOf s.cue.a) = false

/-- Such a core is interrupted first, waits until it has drained, and saves itself. -/
theorem execCoreSave_of_savesCore {s : State} {c : Crew} (h : SavesCore s c) :
    execCoreSave s =
      if (s.core s.cue.a).intr = false then outside (s.setCore s.cue.a { s.core s.cue.a with intr := true })
      else if drained s s.cue.a (c.saved.length = 3) = false then outside s
      else outside (saveCore ((((List.range 16).map fun n => ({ core := s.cue.a, slot := n } : Loc)).filter fun l =>
        isVisitor s l (s.thread l)).foldl displace s) (clusterOf s.cue.a) s.cue.a c) := by
  obtain ⟨hid, hc, hp, hk, hr, hs⟩ := h
  unfold execCoreSave
  simp only [hid, hc, hp, hk, hr, hs, if_true, Bool.not_true, Bool.or_self, Bool.false_eq_true, if_false, Bool.not_eq_true']

/-- A core that has not been interrupted is. -/
theorem exec_coreSave_interrupts {s : State} {c : Crew} (h : SavesCore s c) (hi : (s.core s.cue.a).intr = false) :
    exec .coreSave s = .next (s.setCore s.cue.a { s.core s.cue.a with intr := true }).bump :=
  (show exec .coreSave s = execCoreSave s from rfl).trans ((execCoreSave_of_savesCore h).trans (if_pos hi))

/-- An interrupted core that has drained displaces its visitors and saves itself. -/
theorem exec_coreSave_saves {s : State} {c : Crew} (h : SavesCore s c) (hi : (s.core s.cue.a).intr = true)
    (hd : drained s s.cue.a (c.saved.length = 3) = true) :
    exec .coreSave s = .next (saveCore ((((List.range 16).map fun n => ({ core := s.cue.a, slot := n } : Loc)).filter fun l =>
      isVisitor s l (s.thread l)).foldl displace s) (clusterOf s.cue.a) s.cue.a c).bump :=
  (show exec .coreSave s = execCoreSave s from rfl).trans ((execCoreSave_of_savesCore h).trans
    ((if_neg (by simp [hi])).trans (if_neg (by simp [hd]))))

/-! ### The resumption of a crew (R347, R378) -/

/-- A free cluster is open to a timed launch, and to any where no crew of the table waits for it. -/
theorem openTo_of_free {s : State} {l : Launch} {k : Nat} (hf : clusterFree s l k = true) (ht : l.timed = true ∨ timedWaits s k = false) :
    openTo s l k = true := by
  rcases ht with ht | ht <;> simp [openTo, hf, ht]

/-- A saved crew of a launch that is to resume, whose records are whole, resumes on a cluster that is open to it. -/
theorem exec_crewResumption {s : State} {l : Launch} {x : Nat × Nat} (hl : s.launches[s.cue.a]? = some l)
    (hx : (l.savedOn.find? fun x => x.1 == s.cue.b) = some x) (hr : l.resuming = true) (hf : s.fenced = false) (hk : s.cue.c < 384)
    (ho : openTo s l s.cue.c = true) (hv : recordsValid s (effCap s l.rcb 13 0x60) x.1 = true) :
    exec .crewResumption s = .next (resumeCrew s s.cue.a l x.1 x.2 s.cue.c).bump := by
  show execCrewResumption s = _
  simp only [execCrewResumption, hl, hx, hr, hf, ho, hv, Nat.not_le.mpr hk]
  rfl

/-- Settles O47: requests by their table, the saving of a core and the resumption of a crew by their conditions. -/
theorem regionSteps : Obligations.RegionSteps := by
  intro s
  refine ⟨fun i n f hs hr hn => exec_of_requestSpec hs hr hn, ?_, ?_⟩
  · intro c id k hid hc hp hk hr hs
    have h : SavesCore s c := ⟨hid, hc, hp, hk, hr, hs⟩
    exact ⟨exec_coreSave_interrupts h, exec_coreSave_saves h⟩
  · intro l x k hl hx hr hf hk hfree ht hv
    exact exec_crewResumption hl hx hr hf hk (openTo_of_free hfree ht) hv

end Sys2Proof.Machine
end

section
/-!
PROOF. The dispatch units (chapter 23): records, candidates, placement, slots, deferred entries and windows.
-/

namespace Sys2Proof.Machine

/-! ### Queue records and candidates (R371, R374, R375) -/

/-- The record of a queue at its head, whose `SEQ` is its index, is taken. -/
theorem exec_queueRecordTaken {s : State} (hd : dispatchOn s = true) (hq : s.cue.a < 32) (hok : queueOk s s.cue.a = true)
    (hne : queueField s s.cue.a 0x0C 4 ≠ queueField s s.cue.a 0x10 4)
    (hseq : s.phys (queueField s s.cue.a 0 8 + 64 * (queueField s s.cue.a 0x0C 4 % 2 ^ queueField s s.cue.a 0x08 1) + 0x20) 4 =
      queueField s s.cue.a 0x0C 4) :
    let q := s.cue.a
    let head := queueField s q 0x0C 4
    let rec' := queueField s q 0 8 + 64 * (head % 2 ^ queueField s q 0x08 1)
    let r := s.phys rec' 8
    let s1 := s.blockPut (128 * q + 0x0C) 4 ((head + 1) % 2 ^ 32)
    exec .queueRecordTaken s = .next (if launchRefused s1 r (queueField s q 0x18 8)
      then writeToken (reachRegion s1 r) (s.phys (rec' + 8) 8) 0x04
      else reachRegion { s1 with launches := s1.launches ++ [{
        rcb := r, queue := .inl q, doneva := s.phys (rec' + 8) 8, depa := s.phys (rec' + 0x10) 8, depb := s.phys (rec' + 0x18) 8
        ident := launchIdent s r head, crews := s.rcb r 0xF4 4 }] } r).bump := by
  intro q head rec' r s1
  have hon : ¬(!dispatchOn s || 32 ≤ q || !queueOk s q || head = queueField s q 0x10 4) = true := by
    simp [hd, q, hq, hok, head, hne]
  have hs : ¬(s.phys (rec' + 0x20) 4 != head) = true := by simp [rec', head, q, hseq]
  show execQueueRecordTaken s = _
  refine (if_neg hon).trans ((if_neg hs).trans ?_)
  exact (apply_ite outside ..).symm

/-- A launch that has not started and has a failed dependence completes with 0x05. -/
theorem exec_launchCandidate_fails {s : State} {l : Launch} (hd : dispatchOn s = true) (hl : s.launches[s.cue.a]? = some l)
    (hu : l.unstarted = true) (hf : dependence s l.depa = some false ∨ dependence s l.depb = some false) :
    exec .launchCandidate s = .next (completeLaunch s s.cue.a 0x05 none).bump := by
  show execLaunchCandidate s = _
  simp only [execLaunchCandidate, hl, hu, hd, Bool.not_true, Bool.or_self, Bool.false_eq_true, if_false]
  exact if_pos (by simpa using hf)

/-- A waiting launch whose region is free and whose dependences have completed becomes a candidate. -/
theorem exec_launchCandidate_joins {s : State} {l : Launch} (hd : dispatchOn s = true) (hl : s.launches[s.cue.a]? = some l)
    (hu : l.unstarted = true) (hw : l.state = .waiting) (ha : dependence s l.depa = some true) (hb : dependence s l.depb = some true)
    (hr : regionFree s l.rcb = true) (hf : firstOfRegion s s.cue.a l.rcb = true) :
    exec .launchCandidate s =
      .next (State.bump { s with launches := s.launches.set s.cue.a { l with state := .candidate, aged := 0 } }) := by
  have hc : isCandidate s l = true := by simp [isCandidate, hr, ha, hb]
  show execLaunchCandidate s = _
  simp only [execLaunchCandidate, hl, hu, hd, Bool.not_true, Bool.or_self, Bool.false_eq_true, if_false, ha, hb, Option.some.injEq,
    Bool.true_eq_false, decide_false]
  exact if_pos (by simp [hw, hc, hf])

/-- A waiting launch or a candidate of a queue, not killed and not started. -/
theorem unstarted_of {l : Launch} (hk : l.killed = false) (ht : l.timed = false) (hs : l.started = false)
    (hw : l.state = .waiting ∨ l.state = .candidate) : l.unstarted = true := by
  rcases hw with hw | hw <;> simp [Launch.unstarted, hk, ht, hs, hw]

/-- The region states in which nothing runs. -/
theorem regionFree_of_mem {s : State} {r : Nat} (h : s.rcb r 0x1E 1 ∈ [0, 5, 6]) : regionFree s r = true := by
  simpa [regionFree, or_assoc] using h

/-! ### Placement (R381, R382) -/

/-- A crew of the table is placed before all others. -/
theorem exec_placementDecision_timed {s : State} {i : Nat} {is : List Nat} (hd : dispatchOn s = true) (hf : s.fenced = false)
    (hp : placeableAt s 7 = i :: is) : exec .placementDecision s = .next (placeNext s i).bump := by
  show execPlacementDecision s = _
  simp only [execPlacementDecision, hf, hd, hp]
  rfl

/-- Without one, a crew of the highest level that has any, of the queue whose turn it is. -/
theorem exec_placementDecision_untimed {s s1 : State} {v q i : Nat} (hd : dispatchOn s = true) (hf : s.fenced = false)
    (hp : placeableAt s 7 = []) (hv : ([6, 5, 4, 3, 2, 1, 0].find? fun v => !(placeableAt s v).isEmpty) = some v)
    (hq : pickQueue s v = (s1, some q))
    (hi : ((placeableAt s v).find? fun i => (s.launches[i]?).any fun l => l.queueNo == some q) = some i) :
    exec .placementDecision s = .next (placeNext s1 i).bump := by
  show execPlacementDecision s = _
  simp only [execPlacementDecision, hf, hd, hp, hv, hq, hi]
  rfl

/-! ### The table: slots, deferred entries, windows (R377–R379) -/

/-- A boundary that is due, by whether the header has changed. -/
theorem exec_slotBoundary {s : State} (hd : dispatchOn s = true) (ht : tticksOk s.tticks = true)
    (hp : s.tbase + s.tslot * s.tticks ≤ s.ptp) :
    exec .slotBoundary s =
      if ((latchHeader s).tbase != s.tbase || (latchHeader s).tticks != s.tticks) = true then outside (changedSlot (age (latchHeader s)))
      else outside (dueEntry (beginSlot (age (latchHeader s)) s.tslot) s.tslot) := by
  show execSlotBoundary s = _
  simp only [execSlotBoundary, hd, ht, Bool.not_true, Bool.false_eq_true, if_false, Nat.not_lt.mpr hp]

/-- With the header as it was, the slot that is due begins. -/
theorem exec_slotBoundary_same {s : State} (hd : dispatchOn s = true) (ht : tticksOk s.tticks = true)
    (hp : s.tbase + s.tslot * s.tticks ≤ s.ptp) (hb : (latchHeader s).tbase = s.tbase) (hk : (latchHeader s).tticks = s.tticks) :
    exec .slotBoundary s = .next (dueEntry (beginSlot (age (latchHeader s)) s.tslot) s.tslot).bump :=
  (exec_slotBoundary hd ht hp).trans (if_neg (by simp [hb, hk]))

/-- With another header, the slot that it puts the present time in. -/
theorem exec_slotBoundary_changed {s : State} (hd : dispatchOn s = true) (ht : tticksOk s.tticks = true)
    (hp : s.tbase + s.tslot * s.tticks ≤ s.ptp) (hc : (latchHeader s).tbase ≠ s.tbase ∨ (latchHeader s).tticks ≠ s.tticks) :
    exec .slotBoundary s = .next (changedSlot (age (latchHeader s))).bump :=
  (exec_slotBoundary hd ht hp).trans (if_pos (by simpa using hc))

/-- A deferred entry whose window has ended is skipped. -/
theorem exec_deferredFiring_skips {s : State} {d : Deferred} (hd : (s.deferred.find? fun d => d.entry == s.cue.a) = some d)
    (hw : d.window < s.tslot) :
    exec .deferredFiring s = .next (entryCount { s with deferred := s.deferred.erase d } d.entry 0x18).bump := by
  show execDeferredFiring s = _
  simp only [execDeferredFiring, hd]
  exact if_pos hw

/-- A deferred entry fires once no launch runs on past its window. -/
theorem exec_deferredFiring_fires {s : State} {d : Deferred} (hd : (s.deferred.find? fun d => d.entry == s.cue.a) = some d)
    (hw : s.tslot ≤ d.window) (he : s.launches.any (extending s) = false) (hl : s.tlen ≠ 0) (ht : tticksOk s.tticks = true) :
    exec .deferredFiring s = .next (fireEntry { s with deferred := s.deferred.erase d } d.entry d.slot).bump := by
  show execDeferredFiring s = _
  simp only [execDeferredFiring, hd]
  exact (if_neg (Nat.not_lt.mpr hw)).trans (if_neg (by simp [he, hl, ht]))

/-- A window that has ended acts by the rule of its entry. -/
theorem exec_windowOverrun {s : State} {l : Launch} {e w : Nat} (hl : s.launches[s.cue.a]? = some l) (hq : l.queue = .inr e)
    (hw : l.window = some w) (ht : w < s.tslot) :
    let i := s.cue.a
    let s1 := entryCount s e 0x18
    exec .windowOverrun s = .next (match entryRule s e with
      | 1 => preemptLaunch { s1 with launches := s1.launches.set i { l with window := none, overrun := true } } i
      | 2 => killRegion { s1 with launches := s1.launches.set i { l with window := none, abandoned := true } } l.rcb
      | _ => { s1 with launches := s1.launches.set i { l with window := none } }).bump := by
  intro i s1
  show execWindowOverrun s = _
  simp only [execWindowOverrun, hl, hq, hw]
  refine (if_neg (Nat.not_le.mpr ht)).trans ?_
  generalize entryRule s e = r
  match r with
  | 0 => rfl
  | 1 => rfl
  | 2 => rfl
  | _ + 3 => rfl

/-- Settles O48: each step of the dispatch units by its conditions. -/
theorem scheduleSteps : Obligations.ScheduleSteps := by
  intro s hd
  refine ⟨fun hq hok hne hseq => exec_queueRecordTaken hd hq hok hne hseq, ?_, ?_, ?_, ?_, ?_, rfl⟩
  · intro l i hl hk ht hs
    constructor
    · intro hw hf
      exact exec_launchCandidate_fails hd hl (unstarted_of hk ht hs hw) hf
    · intro hw ha hb hr hf
      exact exec_launchCandidate_joins hd hl (unstarted_of hk ht hs (.inl hw)) hw ha hb (regionFree_of_mem hr) hf
  · intro hf
    exact ⟨fun i is hp => exec_placementDecision_timed hd hf hp,
      fun v q i s1 hp hv hq hi => exec_placementDecision_untimed hd hf hp hv hq hi⟩
  · intro ht hp s1
    exact ⟨exec_slotBoundary_same hd ht hp, exec_slotBoundary_changed hd ht hp⟩
  · intro d hdef s1
    exact ⟨exec_deferredFiring_skips hdef, exec_deferredFiring_fires hdef⟩
  · intro l e w i hl hq hw ht
    exact exec_windowOverrun hl hq hw ht

end Sys2Proof.Machine
end

section
/-!
PROOF. Trust and power (chapter 24): power-on, firmware banks, quotes, the debug path, power states.
-/

namespace Sys2Proof.Machine

/-! ### Power-on (R407, R409–R412) -/

/-- Changes of dies leave the record and the hash of the root key. -/
theorem foldl_setDie_flash (f : State → Nat → Die) (ds : List Nat) (s : State) :
    (ds.foldl (fun s d => s.setDie d (f s d)) s).record = s.record ∧
      (ds.foldl (fun s d => s.setDie d (f s d)) s).rootHash = s.rootHash := by
  induction ds generalizing s with
  | nil => exact ⟨rfl, rfl⟩
  | cons d ds ih => exact ih (s.setDie d (f s d))

/-- The self-tests leave the record as signed and as matching as it was. -/
theorem recordOk_selfTest {s : State} (healthy : BitVec 12) (hs : recordSigned s.rootHash s.record = true)
    (hi : identityMatches identitySeed s.record = true) : recordOk (selfTest s healthy) = true := by
  obtain ⟨hr, hh⟩ : (selfTest s healthy).record = s.record ∧ (selfTest s healthy).rootHash = s.rootHash :=
    foldl_setDie_flash (fun s d => { s.die d with selftest := healthy.getLsbD d }) (List.range 12) { s with powered := true }
  rw [recordOk, hr, hh, hs, hi]
  rfl

/-- Power comes on: the units of the record are mapped out and the accepted bank is brought up. -/
theorem exec_powerOn {s : State} {lead n : Nat} {ls : List Nat} {k : Bank} (hp : s.powered = false)
    (hh : healthyDies s.cue.boot.healthy = lead :: ls) (hpuf : s.cue.boot.pufOk = true)
    (hr : recordSigned s.rootHash s.record = true) (hi : identityMatches identitySeed s.record = true)
    (hb : bankToBoot (mapOut { selfTest s s.cue.boot.healthy with identity := some identitySeed }) = some n)
    (hk : (mapOut { selfTest s s.cue.boot.healthy with identity := some identitySeed }).banks.find n = some k) :
    exec .powerOn s =
      .next (bringUp (mapOut { selfTest s s.cue.boot.healthy with identity := some identitySeed }) s.cue.boot n lead k).bump := by
  show execPowerOn s = _
  simp only [execPowerOn, hp, hh, hpuf, recordOk_selfTest _ hr hi, hb, hk, Option.bind_some, Option.map_some]
  rfl

/-! ### Firmware banks and quotes (R396–R398) -/

/-- While bring-up waits for a bundle, one is taken into bank 0. -/
theorem exec_bundleUpload {s : State} (hp : s.powered = true) (hb : s.bringup = 4) :
    exec .bundleUpload s = .next (powerOff { s with banks := s.banks.set 0 { bundle := s.cue.bundle } }).bump := by
  show execBundleUpload s = _
  exact if_pos (by simp [bundlesRefused, hp, hb])

/-- A bundle is installed in the other bank, as a trial. -/
theorem exec_bundleInstall {s : State} (h : monitorUp s = true) :
    exec .bundleInstall s = .next (powerOff { s with
      banks := s.banks.set (1 - s.active) { bundle := s.cue.bundle, trial := true }, active := 1 - s.active }).bump := by
  show execBundleInstall s = _
  exact if_pos h

/-- A quote is answered, and its nonce is the attestation nonce from now on. -/
theorem exec_quoteRequest {s : State} {seed : BitVec 384} (h : monitorUp s = true) (hi : s.identity = some seed) :
    exec .quoteRequest s = .next (State.bump { s with
      quotes := s.quotes ++ [quoteFor s seed s.cue.nonce], attest := some s.cue.nonce }) := by
  show execQuoteRequest s = _
  simp only [execQuoteRequest, h, if_true, hi]
  rfl

/-- The verifier's signature over the nonce of the last quote and the measurement acknowledges the trial. -/
theorem acknowledges_of {s : State} {key : BitVec 14344} {sig : BitVec 10240} {nonce : BitVec 256} (hn : s.attest = some nonce)
    (hd : digest48 (keyBytes key) = bundleVkeyh s.bank.bundle)
    (hv : verifies key (leBytes 32 nonce.toNat ++ leBytes 48 (bundleMeasure s.bank.bundle).toNat) sig = true) :
    acknowledges s key sig = true := by
  simp only [acknowledges, hn, hd, hv, beq_self_eq_true, Bool.and_self]

/-- An acknowledgement before the watchdog's expiry confirms the trial. -/
theorem exec_verifierAcknowledgement {s : State} {e : Nat} (he : s.trialEnd = some e) (ht : s.now < e)
    (ha : acknowledges s s.cue.key s.cue.sig = true) : exec .verifierAcknowledgement s = .next (confirmTrial s).bump := by
  show execVerifierAcknowledgement s = _
  simp only [execVerifierAcknowledgement, he]
  exact if_pos (by simp [ht, ha])

/-- The watchdog's expiry fails the trial. -/
theorem exec_trialWatchdogExpiry {s : State} {e : Nat} (he : s.trialEnd = some e) (ht : e ≤ s.now) :
    exec .trialWatchdogExpiry s = .next (powerOff { s with
      banks := s.banks.set s.active { s.bank with trial := false, failed := true }, active := 1 - s.active }).bump := by
  show execTrialWatchdogExpiry s = _
  simp only [execTrialWatchdogExpiry, he]
  exact if_neg (Nat.not_lt.mpr ht)

/-! ### The debug path (R399, R400) -/

/-- In mode OFF the debug path answers nothing. -/
theorem exec_debugRequest_off {s : State} (h : monitorUp s = true) (hm : s.dbgctl = 0) :
    exec .debugRequest s = .next (debugAnswer s none).bump := by
  show execDebugRequest s = _
  exact (if_neg (by simp [h])).trans (if_pos hm)

/-- A byte of memory that can be reached, is not poisoned and is of no protected region's counter is answered. -/
theorem debugByte_of {s : State} {asid va pa dom : Nat} (hp : debugPlace s asid va = some (pa, dom))
    (hn : s.poisoned asid va pa dom = false) (hh : hiddenByte s pa = false) :
    debugByte s asid va = some ((s.byte asid va pa).setWidth 64) := by
  simp only [debugByte, hp, Option.bind_some, hn, hh, Bool.false_eq_true, if_false]

/-- In the other modes a read of memory is answered with what the path reads. -/
theorem exec_debugRequest_readMem {s : State} {asid va : Nat} (h : monitorUp s = true) (hm : s.dbgctl ≠ 0)
    (hr : s.cue.debug = .readMem asid va) : exec .debugRequest s = .next (debugAnswer s (debugByte s asid va)).bump := by
  show execDebugRequest s = _
  refine (if_neg (by simp [h])).trans ((if_neg hm).trans ?_)
  simp only [hr]
  rfl

/-- A pending change to OBSERVE is made. -/
theorem exec_debugObserve {s : State} {l : Loc} (h : s.dbgReq = some (1, l)) :
    exec .debugObserve s = .next (debugMode s 1 l).bump := by
  show execDebugObserve s = _
  simp only [execDebugObserve, h]
  rfl

/-- A pending change to OFF is made. -/
theorem exec_debugOff {s : State} {l : Loc} (h : s.dbgReq = some (0, l)) : exec .debugOff s = .next (debugMode s 0 l).bump := by
  show execDebugOff s = _
  simp only [execDebugOff, h]
  rfl

/-- Before HALT the protected regions are killed. -/
theorem exec_debugHalt_kills {s : State} {l : Loc} (h : s.dbgReq = some (2, l)) (hk : toKill s ≠ []) :
    exec .debugHalt s = .next ((toKill s).foldl killOnce s).bump := by
  show execDebugHalt s = _
  simp only [execDebugHalt, h]
  exact if_pos (by simpa using hk)

/-- Once none is being killed, the key slots of domains are cleared and the mode is HALT. -/
theorem exec_debugHalt_halts {s : State} {l : Loc} (h : s.dbgReq = some (2, l)) (hk : toKill s = []) (hn : s.killing = []) :
    exec .debugHalt s = .next
      (debugMode (((List.range 63).filter fun n => (s.key n).active || s.sealedRecords.has n).foldl clearKey s) 2 l).bump := by
  show execDebugHalt s = _
  simp only [execDebugHalt, h, hk, hn]
  rfl

/-! ### Power states (R394, R413) -/

/-- A pending write of `PWRCTL` whose DSTATE is one asked for is performed, and its writer goes on. -/
theorem powerEvent_performs {s : State} {want : Nat → Nat → Bool} {f : Nat → Word → State} {w : Word} {l : Loc} (hd : s.cue.a < 12)
    (hp : (s.die s.cue.a).power = some (w, l)) (hw : want (s.die s.cue.a).dstate (bitsOf w 33 32) = true) :
    powerEvent s want f = .next (writerDone (f s.cue.a w) l).bump := by
  simp only [powerEvent, hd, if_true, hp, hw]
  rfl

/-- Clusters of an awake die lose and regain power. -/
theorem exec_clusterGate {s : State} {w : Word} {l : Loc} (hd : s.cue.a < 12) (hp : (s.die s.cue.a).power = some (w, l))
    (hw : (s.die s.cue.a).dstate = bitsOf w 33 32) : exec .clusterGate s = .next (writerDone (gateDie s s.cue.a w) l).bump := by
  show execClusterGate s = _
  exact powerEvent_performs hd hp (by simp [hw])

/-- A die goes to sleep, unless a crew is placed on it. -/
theorem exec_dieSleep {s : State} {w : Word} {l : Loc} (hd : s.cue.a < 12) (hp : (s.die s.cue.a).power = some (w, l))
    (ho : (s.die s.cue.a).dstate ≠ 2) (hw : bitsOf w 33 32 = 2) :
    exec .dieSleep s = .next (writerDone (if dieBusy s s.cue.a then gateDie s s.cue.a (keepDstate s s.cue.a w)
      else sleepDie s s.cue.a w) l).bump := by
  show execDieSleep s = _
  exact powerEvent_performs hd hp (by simp [ho, hw])

/-- A die wakes; where none was awake, slot 63 is restored at once. -/
theorem exec_dieWake_wakes {s : State} {w : Word} {l : Loc} (hd : s.cue.a < 12) (hp : (s.die s.cue.a).power = some (w, l))
    (ho : (s.die s.cue.a).dstate = 2) (hw : bitsOf w 33 32 = 0) :
    let d := s.cue.a
    let s1 := setPower s d w
    let s2 := s1.setDie d { s1.die d with keys := keyctl s1 }
    exec .dieWake s =
      .next (writerDone (if (List.range 12).any fun e => (s.die e).dstate != 2 then s2 else restoreKey s2 63) l).bump := by
  intro d s1 s2
  show execDieWake s = _
  refine (if_neg (by simp [hp])).trans ((powerEvent_performs hd hp (by simp [ho, hw])).trans ?_)
  dsimp only
  congr 3
  cases (List.range 12).any fun e => (s.die e).dstate != 2 <;> rfl

/-- Behind a woken die the monitor restores one key slot more. -/
theorem exec_dieWake_restores {s : State} (hp : (s.die s.cue.a).power = none) (hd : (s.die s.cue.a).dstate = 0) :
    exec .dieWake s = .next (restoreKey s s.cue.b).bump := by
  show execDieWake s = _
  refine (if_pos (by simp [hp])).trans ?_
  rw [if_pos hd]
  rfl

/-- The module loses power with every line written back. -/
theorem exec_moduleOff {s : State} {w : Word} {l : Loc} (hd : s.cue.a < 12) (hp : (s.die s.cue.a).power = some (w, l))
    (hw : bitsOf w 33 32 = 3) :
    exec .moduleOff s = .next (writerDone (powerOff ((s.lines.map fun e => e.1).foldl evict s)) l).bump := by
  show execModuleOff s = _
  exact powerEvent_performs hd hp (by simp [hw])

/-- Settles O50: each step of power, banks, quotes, the debug path and power states by its conditions. -/
theorem trustSteps : Obligations.TrustSteps := by
  intro s
  refine ⟨?_, exec_bundleUpload, ?_, ?_, ?_, ?_, exec_dieWake_restores⟩
  · intro lead ls n k boot s1 s2 hp hh hpuf hr hi hb hk
    exact exec_powerOn hp hh hpuf hr hi hb hk
  · intro h
    refine ⟨exec_bundleInstall h, fun seed hi => exec_quoteRequest h hi, exec_debugRequest_off h, ?_⟩
    intro asid va pa dom hm hr hp hn hh
    rw [exec_debugRequest_readMem h hm hr, debugByte_of hp hn hh]
  · intro e he
    constructor
    · intro nonce hn hd hv ht
      exact exec_verifierAcknowledgement he ht (acknowledges_of hn hd hv)
    · exact exec_trialWatchdogExpiry he
  · intro l
    exact ⟨exec_debugObserve, exec_debugOff, fun h => ⟨exec_debugHalt_kills h, exec_debugHalt_halts h⟩⟩
  · intro w l d hd hp
    exact ⟨exec_clusterGate hd hp, exec_dieSleep hd hp, exec_dieWake_wakes hd hp, exec_moduleOff hd hp⟩

end Sys2Proof.Machine
end
